-- ==== Sys2Proof/Word.lean ====
section
/-! DEFINITION. The plain data the commands and the state are made of: widths, values, accessors, and the decoded
bodies of the messages and reports that reach the device. -/

namespace Sys2Proof

/-- One byte of a DOMAIN or of an addressed buffer. -/
abbrev Byte := BitVec 8

/-- Reduction to an unsigned 8-bit count. -/
def u8 (n : Nat) : Nat := n % 2 ^ 8

/-- Reduction to an unsigned 16-bit count. -/
def u16 (n : Nat) : Nat := n % 2 ^ 16

/-- Reduction to an unsigned 32-bit count. -/
def u32 (n : Nat) : Nat := n % 2 ^ 32

/-- Reduction to an unsigned 64-bit count. -/
def u64 (n : Nat) : Nat := n % 2 ^ 64

/-- R43: `a` lies ahead of `b` when `(a − b) mod 2^32` lies between 1 and 0x7FFFFFFF. -/
def ahead (a b : Nat) : Bool :=
  let d := (a + 2 ^ 32 - b % 2 ^ 32) % 2 ^ 32
  1 ≤ d && d ≤ 0x7FFFFFFF

/-- R43 read on 8 bits, as R292 does for the sequence of a time or control message. -/
def ahead8 (a b : Nat) : Bool :=
  let d := (a + 2 ^ 8 - b % 2 ^ 8) % 2 ^ 8
  1 ≤ d && d ≤ 0x7F

/-- A 16-bit binary angle (R8) read as a signed angle. -/
def angSigned (a : Int) : Int :=
  let m := a % 65536
  if m < 32768 then m else m - 65536

/-- Clamp an integer into `[lo, hi]`. -/
def clampI (lo hi x : Int) : Int := max lo (min hi x)

/-- Replace entry `i` of a vector by `f` of it. -/
def updateAt {α : Type} {n : Nat} (v : Vector α n) (i : Fin n) (f : α → α) : Vector α n :=
  v.set i (f v[i])

/-- R380: a dictionary value: a number (every scalar type) or a byte string (DOMAIN and STR). -/
inductive Val where
  | num (v : Int)
  | bytes (b : List Byte)
  deriving DecidableEq, Repr

/-- R380, Table 16.1: object types. -/
inductive OType where
  | bool | u8 | u16 | u32 | us | i8 | i16 | i32 | mm | q16 | ang | u64 | ns64 | domain | str
  deriving DecidableEq, Repr

/-- R381, Table 16.2: access kinds. -/
inductive AccessKind where
  | ro | rw | rwb | cal | wo | const
  deriving DecidableEq, Repr

/-- R384, Table 16.3, as far as a read or the data path differs by it: the status snapshot, read time, the Phase A
snapshot, or a term that the owning rule settles. -/
inductive TakesEffect where
  | snap | read | phaseA | other
  deriving DecidableEq, Repr

/-- R378 to R385: one row of an object table: `count` records from index `idx` on, `subs` subindices from `sub` on. A
write is in range when it lies in `lo`..`hi` at a multiple of `step` from `lo`, or equals `alt`; for a DOMAIN the range
is that of its length. -/
structure ObjRow where
  idx : Nat
  count : Nat
  sub : Nat
  subs : Nat
  ty : OType
  kind : AccessKind
  dflt : Int
  lo : Int
  hi : Int
  step : Nat
  alt : Option Int
  eff : TakesEffect
  leadOnly : Bool
  chain : Bool
  deriving DecidableEq, Repr

/-- R386: the holder of captures and selects on whose behalf an access is made. -/
inductive Accessor where
  /-- the host port -/
  | host
  /-- a CAN-I dictionary client, by NAME -/
  | canI (name : Nat)
  /-- the SDO server on CAN-P -/
  | sdo
  /-- the Ulard management class, with the origin path of byte 3 of Table 16.5 -/
  | mgmt (origin : Nat)
  /-- an internal function: Task Controller client (0), sweeps (1), swap forwarding (2) -/
  | internal (k : Nat)
  deriving DecidableEq, Repr

/-- An Ulard port. -/
inductive Port where
  | a
  | b
  deriving DecidableEq, Repr

/-- R39 to R77: the five pose sources of Table 3.2. -/
inductive PoseSource where
  | gnss
  | movingBaseline
  | imu
  | radar
  | wheel
  deriving DecidableEq, Repr

/-- Kinds of kink (R208). -/
inductive KinkKind where
  | arrival
  | release
  deriving DecidableEq, Repr

/-- R30: the two tether permissions. -/
inductive Permission where
  | sequencer
  | core1
  deriving DecidableEq, Repr

/-- R53, R45, R65: what an announcement says of the swap set beside its batch and number: each position's count of writes, the
period of the set and the boom model as it will stand. -/
structure SwapNotice where
  counts : Vector Nat 32
  period : Nat
  model : Vector Nat 16
  deriving DecidableEq, Repr

/-- R138, R159: how far a device's used outlets reach in the working position, mm: the lowest and the highest y of their footprint
edges and of themselves, and the x of the rearmost. -/
structure DeviceSpan where
  low : Int
  high : Int
  right : Int
  left : Int
  rear : Int
  deriving DecidableEq, Repr

/-- R72: the boom state, as SHAPE publishes it and the lead broadcasts it (positions mm, speeds mm/s,
yaw rate Q16.16 binary-angle units per second). -/
structure BoomState where
  t0 : Int := 0
  east : Int := 0
  north : Int := 0
  up : Int := 0
  heading : Int := 0
  roll : Int := 0
  pitch : Int := 0
  speed : Int := 0
  accel : Int := 0
  yawRate : Int := 0
  /-- yaw deflection of every segment (signed binary angle) -/
  deflection : Vector Int 16 := Vector.replicate 16 0
  /-- height of every segment, mm -/
  height : Vector Int 16 := Vector.replicate 16 500
  quality : Nat := 0
  sigma : Nat := 0xFFFFFFFF
  /-- R70, R101: folded segments, master and work switches active -/
  folded : Nat := 0
  master : Bool := true
  work : Bool := true
  /-- R109, R395: the section control mode and the manual section states -/
  automatic : Bool := false
  sections : Vector Nat 8 := Vector.replicate 8 0
  /-- R367: sections that the Task Controller blocks under automatic control -/
  blocked : Vector Nat 8 := Vector.replicate 8 0
  /-- R66: the boom model that the lead distributes: parent and hinge of every segment -/
  parents : Vector Nat 16 := Vector.replicate 16 255
  hinges : Vector (Int × Int) 16 := Vector.replicate 16 (0, 0)
  /-- R159: the span table: lowest and highest y of each device's used outlets, widened -/
  spans : Vector (Option (Int × Int)) 32 := Vector.replicate 32 none
  /-- R130, R142, R150: the lead's paging path is none (log entry 118) -/
  noPaging : Bool := false
  deriving DecidableEq, Repr

/-- R344: one GNSS solution as the baseband delivers it. -/
structure GnssFix where
  epoch : Int
  lat : Int
  lon : Int
  height : Int
  velE : Int
  velN : Int
  velU : Int
  /-- 0, 2, 3, 4, 5 (Table 3.3 codes) -/
  kind : Nat
  sats : Nat
  pdop : Nat
  hSigma : Nat
  vSigma : Nat
  /-- chain time − GNSS time, ns -/
  clockOffset : Int
  /-- correction age in ms, 0xFFFFFFFF none -/
  corrAge : Nat
  /-- R349: ratio of the second-best to the best residual (Q16.16), and the double differences that remain fixed -/
  ratio : Int
  pairs : Nat
  /-- the antenna in the field frame (R7): the manual gives no formula from latitude and longitude, so the fix carries
  both; mm -/
  east : Int
  north : Int
  up : Int
  deriving DecidableEq, Repr

/-- R350, Table 14.6 subtype 1: a moving-baseline fix. -/
structure BaselineFix where
  position : Fin 32
  state : Nat
  implausible : Bool
  epoch : Int
  east : Int
  north : Int
  up : Int
  sigmaEN : Nat
  sigmaUp : Nat
  /-- the wheeler's antenna in the implement frame (0x2004), as the lead's aggregator holds it -/
  antX : Int
  antY : Int
  deriving DecidableEq, Repr

/-- Table 14.8: one observation record. -/
structure Observation where
  constellation : Nat := 0
  satellite : Nat := 0
  signal : Nat := 0
  flags : Nat := 0
  pseudorange : Int := 0
  phase : Int := 0
  doppler : Int := 0
  cn0 : Nat := 0
  lockTime : Nat := 0
  deriving DecidableEq, Repr

/-- R86: mean, minimum and maximum of one AIN channel over the preceding batch, and its loop current in µA where the
4 mA to 20 mA range is used. -/
structure AinSample where
  mean : Nat := 0
  low : Nat := 0
  high : Nat := 0
  microAmp : Nat := 4000
  deriving DecidableEq, Repr

/-- R22: what a power-link command does at its tick. -/
inductive PlAction where
  | valveOn (ch : Fin 32)
  | valveOff (ch : Fin 32)
  | valveRate (ch : Fin 32) (duty : Nat)
  /-- R114: a speed update, which applies from the first PWM period that starts after its instant -/
  | valveDuty (ch : Fin 32) (duty : Nat)
  | loadSwitch (sw : Fin 8) (on : Bool)
  | pwmForce (pair : Fin 16) (v : Nat)
  | pwmLoad (pair : Fin 16) (period phase compare : Nat)
  | slotCompare (pair : Fin 16) (compare : Nat)
  deriving DecidableEq, Repr

/-- R22: a command frame on the power link: a number that the logic die gives it, its instant in chain time
(a 250 MHz tick is 4 ns) and its action. -/
structure PlFrame where
  id : Nat
  instant : Int
  action : PlAction
  deriving DecidableEq, Repr

/-- R21: what a frame of the power die carries, with the verdict of its CRC. -/
structure Framed (α : Type) where
  crcOk : Bool
  frame : α
  deriving DecidableEq, Repr

/-- R209: a kink report of the power die. -/
structure KinkReport where
  channel : Fin 32
  kind : KinkKind
  start : Int
  /-- kink instant; none when the kink is missing -/
  kink : Option Int
  fallback : Bool
  waited : Bool
  noArrival : Bool
  slotPulse : Bool
  reStrike : Bool
  /-- R201, Table 8.3: not to be offered to LEARN for another reason (switch-off in peak, safe state) -/
  notOffered : Bool
  deriving DecidableEq, Repr

/-- R210, Table 8.8: outcome of one off-state test. -/
structure OffTest where
  openLoad : Bool
  shortGround : Bool
  shortSupply : Bool
  deriving DecidableEq, Repr

/-- R210, Table 8.8: an on-state check. -/
inductive OnDiag where
  | clean
  | openLoad
  | shortGround
  deriving DecidableEq, Repr

/-- R212: what the power die reads in one 50 µs window, in mA: the shunt, the high-side sense, the current that freewheeling
channels return to the common, and the mirrors, at their factory gain, of the channels that conduct through their low-sides. -/
structure SenseFigures where
  shunt : Nat
  highSide : Nat
  freewheel : Nat
  mirrors : Vector Nat 8
  deriving DecidableEq, Repr

/-- R279: a 66-bit block as it arrives on a lane, with the 58 scrambled bits of payload that arrived before it. In both the bit
that arrived first is bit 0. -/
structure LineBlock where
  before : BitVec 58
  bits : BitVec 66
  deriving DecidableEq, Repr

/-- R279, R283: a block as a lane takes it. -/
structure Arrival where
  block : LineBlock
  /-- the chain time by which a device that has none yet places the marker's departure (log entry 124) -/
  coarse : Int
  deriving DecidableEq, Repr

/-- Table 12.4 and Table 12.5: what a marker block says. -/
structure Marker where
  /-- the header is 0b10, the type 0xD2 and the CRC-8 valid (R285) -/
  crcOk : Bool
  counter : Nat
  /-- full departure time reconstructed by R283, in 1/16 ns of chain time -/
  stamp : Int
  /-- transmit mode 0 to 3 -/
  mode : Nat
  good0 : Bool
  good1 : Bool
  withheld0 : Bool
  withheld1 : Bool
  downstream : Bool
  timeGood : Bool
  deriving DecidableEq, Repr

/-- R290, Table 12.6: a message at the link. The body is its bytes before the CRC-32. -/
structure Msg where
  cls : Nat
  kind : Nat
  dest : Nat
  source : Nat
  seq : Nat
  segmented : Bool := false
  resent : Bool := false
  body : List Byte := []
  deriving DecidableEq, Repr

/-- R350: what a wheeler computes from a base epoch: the baseline, and the ratio and the double differences of R349. -/
structure BaselineMeasure where
  fix : BaselineFix
  ratio : Int
  pairs : Nat
  deriving DecidableEq, Repr

/-- R337: a line of an input's spectrum: its frequency from the band centre (Hz), and how far it stands above the noise floor
(0.1 dB). -/
structure SpectrumLine where
  freq : Int
  level : Nat
  deriving DecidableEq, Repr

/-- R314: what an echo exchange measured, ps: `there` is a1 − s1, `back` is a2 − s2. -/
structure EchoTimes where
  there : Int
  back : Int
  deriving DecidableEq, Repr

/-- Table 13.1, opcode 1: an enumeration report. -/
structure NodeReport where
  identity : Nat
  /-- 0 IX-7232, 1 end guest, 2 pass-through guest -/
  kind : Nat
  position : Nat
  upstream : Port
  portsUp : Nat
  expected : Nat
  guestRate : Nat
  ready : Bool
  rejoining : Bool
  enforcing : Bool
  notices : Bool
  replaceMe : Bool
  hops : Nat
  arm : Port
  deriving DecidableEq, Repr

/-- Table 13.1, opcode 2: one node of the chain table. -/
structure TableNode where
  identity : Nat
  kind : Nat
  position : Nat
  arm : Port
  hops : Nat
  rotation : Nat
  deriving DecidableEq, Repr

/-- Table 5.3 as the model holds it: every cell is `fill` but the listed ones, every prescription entry is `rxFill`
but the listed ones. Keys: `256 r + c`, and `4 (32 sr + sc) + p`. -/
structure TileRecord where
  fill : Byte
  cells : List (Nat × Byte)
  rxFill : Nat
  rx : List (Nat × Nat)
  deriving DecidableEq, Repr

/-- Table 5.5: a tile transfer. -/
structure TileTransfer where
  session : Nat
  coord : Nat
  epoch : Nat
  cellSize : Nat
  blank : Bool
  paintGap : Bool
  seq : Nat
  marks : Vector Nat 32
  record : TileRecord
  crcOk : Bool
  /-- R143: the cacher list that an old home sends with it; empty otherwise -/
  cachers : List Nat := []
  deriving DecidableEq, Repr

/-- R145: the finished increment of one cell, and its over-dose mark. -/
structure CellInc where
  cell : Nat
  inc : Nat
  overDose : Bool
  deriving DecidableEq, Repr

/-- R145: one paint delta. -/
structure PaintDelta where
  position : Fin 32
  batch : Nat
  coord : Nat
  cells : List CellInc
  deriving DecidableEq, Repr

/-- Table 5.9: one outlet entry of an as-applied record. -/
structure AppliedEntry where
  outlet : Nat
  product : Nat
  onBatches : Nat
  quantity : Nat
  cells : Nat
  meanDuty : Nat
  status : Nat
  deriving DecidableEq, Repr

/-- Table 5.9: an as-applied record. -/
structure AsApplied where
  seq : Nat
  position : Nat
  signed : Bool
  paintGap : Bool
  firstBatch : Nat
  lastBatch : Nat
  start : Nat
  session : Nat
  epoch : Nat
  entries : List AppliedEntry
  deriving DecidableEq, Repr

/-- Table 6.1: a target record. -/
structure TargetRec where
  seq : Nat
  form : Nat
  cls : Nat
  dose : Nat
  capture : Int
  posA : Int
  posB : Int
  halfLength : Nat
  halfWidth : Nat
  orientation : Int
  camSegment : Nat
  camX : Int
  camY : Int
  camYaw : Int
  deriving DecidableEq, Repr

/-- R159: a share: a record in form 0 with its source, its sequence and its intake position. -/
structure Share where
  intake : Fin 32
  source : Nat
  record : TargetRec
  deriving DecidableEq, Repr

/-- Table 6.5: a result record. -/
structure ResultRec where
  source : Nat
  result : Nat
  firstOutlet : Nat
  seq : Nat
  firstOn : Int
  lastOff : Int
  outlets : Nat
  deriving DecidableEq, Repr

/-- Table 16.5: a dictionary request. -/
structure DictRequest where
  tag : Nat
  command : Nat
  origin : Nat
  address : Nat
  seq : Nat
  value : Val
  deriving DecidableEq, Repr

/-- Table 16.6: a dictionary response. -/
structure DictResponse where
  tag : Nat
  status : Nat
  abort : Nat
  value : Val
  deriving DecidableEq, Repr

/-- Table 13.9: a row-drive status. -/
structure RowDriveStatus where
  guest : Fin 16
  channelFaults : Nat
  state : Nat
  late : Nat
  supply : Nat
  temperature : Int
  lastUpdate : Int
  interruptions : Nat
  deriving DecidableEq, Repr

/-- R360: a CAN frame. -/
structure CanFrame where
  id : Nat
  extended : Bool
  fd : Bool
  data : List Byte
  deriving DecidableEq, Repr

/-- R340: a channel with the magnitudes of its seven correlators, VE, E2, E, P, L, L2, VL, over the last 100 ms. -/
structure ChannelOutputs where
  channel : Fin 64
  outputs : Vector Nat 7
  deriving DecidableEq, Repr

/-- R339: what the baseband knows of one satellite: constellation 0 to 3, PRN, elevation and azimuth (ANG). -/
structure Satellite where
  constellation : Nat
  prn : Nat
  elevation : Int
  azimuth : Int
  deriving DecidableEq, Repr

/-- R347: one RTCM frame of a correction write: its message type, its station, whether its CRC-24Q held, and the base
position of a 1005 or 1006 frame in 0.1 mm ECEF. -/
structure RtcmFrame where
  kind : Nat
  station : Nat
  crcOk : Bool
  base : Int × Int × Int
  deriving DecidableEq, Repr

/-- What the boot of R480 finds by tests that only the hardware can run. -/
structure BootReport where
  /-- drays that fail their start-up self-test, or whose router reaches no SRAM port (R188) -/
  drayFails : List (Fin 64)
  /-- sensors implausible throughout the start-up round (R431) -/
  sensorFails : List (Fin 11)
  /-- replay time in µs (0x3200:05) -/
  replayMicros : Nat
  /-- running time since reset release, ns -/
  sinceRelease : Nat
  /-- copies found invalid, and whether both copies of the set slots or of the device records were (R458, R459) -/
  invalidCopies : Nat
  setsLost : Bool
  recordsLost : Bool
  /-- the number of a journal group that is not valid (R409, R413) -/
  badGroup : Option Nat
  /-- recorder areas whose last record is torn (R450) -/
  torn : List (Fin 3)
  deriving DecidableEq, Repr

/-- R431: the readings of one housekeeping round: eleven sensors in 0.1 °C (L0 to L3, P0 to P5, M0) and five rails. -/
structure Housekeeping where
  sensors : Vector Int 11
  vin : Nat
  core : Nat
  mram : Nat
  reference : Nat
  vpd5 : Nat
  late : Bool
  deriving DecidableEq, Repr

/-- R426: where an SRAM word error lies (Table 18.2 and the duplicated regions of R427). -/
inductive SramRegion where
  | duplicated
  | tileSlot (slot : Fin 112)
  | resultStore
  | shareStore
  | resendBuffer
  | ulardBuffer
  | boomHistory
  | other
  deriving DecidableEq, Repr

/-- Table 13.8: an entry of the sweep record. -/
structure SweepEntry where
  position : Nat
  outcome : Nat := 0
  path : Nat := 0
  attempts : Nat := 0
  code : Nat := 0
  start : Nat := 0
  stop : Nat := 0
  deriving DecidableEq, Repr

/-- Table 13.6, the parts of the standby mirror that the standby's behaviour rests on. -/
structure Mirror where
  batch : Nat
  swapBatch : Option Nat
  swapSet : Nat
  counts : Vector Nat 32
  ready : Vector Bool 32
  postponements : Nat
  goSent : Bool
  /-- live and proof values of lead-only objects -/
  leadLive : List (Nat × Val)
  leadProof : List (Nat × Val)
  boom : BoomState
  /-- pose sources that are valid at the lead, in the order of Table 3.2 -/
  sources : Vector Bool 5
  /-- window directory: coordinate, home, and whether a copy is held -/
  window : List (Nat × Nat × Bool)
  /-- span table (R138, R159) -/
  spans : Vector (Option DeviceSpan) 32
  /-- journal head: last committed group; last sequence by source and sub-key -/
  group : Nat
  sequences : List (Nat × Nat × Nat)
  /-- unconfirmed aggregator forwards: position, address, sequence, value -/
  openForwards : List (Nat × Nat × Nat × Val)
  /-- R171: the host targets that some owner has not confirmed: the record in form 0, its owners, those not yet confirmed -/
  hostTargets : List (TargetRec × List Nat × List Nat)
  results : List ResultRec
  sections : Vector Nat 8
  table : List TableNode
  guests : List (Nat × Nat)
  /-- R73: the boom states of the last 100 ms and more, newest first -/
  history : List BoomState
  sweepKind : Nat
  sweepBatch : Nat
  sweepState : Nat
  sweepRecord : List SweepEntry
  deriving DecidableEq, Repr

/-- Table 19.2 to R445: a raised event before it is written: its items are (identifier, value). -/
structure Event where
  code : Nat
  /-- 0 single event, 1 raised, 2 cleared -/
  kind : Nat
  unit : Nat
  items : List (Nat × Int)
  /-- chain time at which it was raised, 0 before chain time is seeded -/
  raisedAt : Nat
  deriving DecidableEq, Repr

/-- Table 19.1: a written record. -/
structure Record where
  number : Nat
  opTime : Nat
  cycles : Nat
  event : Event
  inSealed : Bool
  deriving DecidableEq, Repr

/-- Table 17.4: the payload of a journal entry, by what it names. -/
inductive Payload where
  | none
  | write (address : Nat) (value : Val)
  | tile (coord : Nat)
  | target (rec : TargetRec)
  | share (share : Share)
  | owner (position : Nat)
  | result (code : Nat)
  | final (rec : ResultRec)
  | asApplied (rec : AsApplied)
  | ready (setNo : Nat)
  deriving DecidableEq, Repr

/-- Table 17.3: a journal entry. -/
structure JEntry where
  kind : Nat
  source : Nat
  seq : Nat
  subKey : Nat
  lead : Bool
  carried : Bool
  batch : Nat
  payload : Payload
  deriving DecidableEq, Repr

/-- R408: a committed group, and the log offset at which it starts. -/
structure JGroup where
  number : Nat
  entries : List JEntry
  start : Nat
  deriving DecidableEq, Repr

/-- R410: a checkpoint. -/
structure Checkpoint where
  number : Nat := 0
  /-- log offset and number of the group at the tail -/
  tailOffset : Nat := 0
  tailGroup : Nat := 1
  /-- last sequence by (source, sub-key) -/
  seqs : List ((Nat × Nat) × Nat) := []
  clients : Vector Nat 8 := Vector.replicate 8 0
  deriving DecidableEq, Repr

/-- How a write ends (R381, R399, R403): accepted, answered busy, answered as a duplicate, or aborted with a code of
Table 16.8. -/
inductive WriteResult where
  | accepted
  | busy
  | duplicate
  | aborted (code : Nat)
  deriving DecidableEq, Repr

/-- How a read ends: a value (with the torn flag of R389), or an abort code of Table 16.8. -/
inductive ReadResult where
  | value (v : Val) (torn : Bool)
  | aborted (code : Nat)
  deriving DecidableEq, Repr

/-- R367: an element of the device description object pool; a section with its number, offset and width (mm). -/
inductive PoolElement where
  | device
  | boom
  | part (number : Nat) (offset : Int) (width : Nat)
  deriving DecidableEq, Repr

/-- What one command sends out of the block: messages of the link classes, frames of the power link, answers on the
dictionary paths, CAN frames and edges of pins. -/
inductive Emit where
  /-- R30: a tether token with its count and armed flag -/
  | token (count : Nat) (armed : Bool)
  /-- R22: an output command over the power link -/
  | powerLink (frame : PlFrame)
  /-- R23: a negative acknowledgement of the power die -/
  | negativeAck (id : Nat)
  /-- R209: a kink report of the power die -/
  | kink (rep : KinkReport)
  /-- R204: a missed switch-on reported by the power die, and its instant -/
  | missed (channel : Nat) (instant : Int)
  /-- R56: a PPS edge -/
  | pps (high : Bool)
  /-- Table 2.4: announcement of swap batch, set number and counts -/
  | swapAnnouncement (swapBatch setNo : Nat) (counts : Vector Nat 32) (period : Nat) (model : Vector Nat 16)
  /-- Table 2.4: ready report, with the device's span after the swap (R159) -/
  | readyReport (ready : Bool) (span : Option DeviceSpan)
  /-- Table 2.4: go -/
  | swapGo (swapBatch : Nat)
  /-- Table 2.4: postponement -/
  | swapPostpone (swapBatch newBatch : Nat)
  /-- Table 2.4: cancel -/
  | swapCancel (swapBatch : Nat)
  /-- R52: a swap request -/
  | swapRequest (writes : Nat)
  /-- R43: batch sync -/
  | batchSync (number : Nat) (t0 : Int) (map : Nat)
  /-- R72: boom state -/
  | boom (state : BoomState)
  /-- R387: a management-class request to a position -/
  | request (position : Nat) (req : DictRequest)
  /-- R388: a management-class response -/
  | response (resp : DictResponse)
  /-- R399: the answer to an access of one accessor -/
  | answer (acc : Accessor) (status : Nat) (abort : Nat) (value : Val)
  /-- R373: an EMCY message: error code (0 when no condition remains), error register, event code, chain position -/
  | emcy (code register event position : Nat)
  /-- R364: an address claim with its NAME, or from address 254 a cannot-claim -/
  | claim (name address : Nat)
  /-- Table 15.2: a list of DTCs (SPN, FMI, occurrence count) under a PGN to a destination (255 all), with the amber warning
  lamp (R366) -/
  | dtcs (pgn dest : Nat) (amber : Bool) (list : List (Nat × Nat × Nat))
  /-- Table 15.2: an identification under a PGN -/
  | identification (pgn dest : Nat) (body : List Byte)
  /-- R365: a transport connection message to a control function: 0 clear to send, 1 end of message, 2 abort -/
  | transport (kind dest pgn : Nat)
  /-- R367: a process data value of the Task Controller client -/
  | tcValue (element ddi : Nat) (value : Int)
  /-- R367: the client announces itself as master of a working set with so many members -/
  | workingSet (members : Nat)
  /-- R367: the device description object pool, under its structure label, and the request to activate it -/
  | tcPool (label : List Byte) (elements : List PoolElement)
  /-- R360: a CAN frame on bus 0 (CAN-I) or 1 (CAN-P) -/
  | can (bus : Nat) (frame : CanFrame)
  /-- R290: a link message on a port -/
  | message (port : Port) (msg : Msg)
  /-- Table 12.4: the payload of the marker that each lane of a port sends, before it is scrambled (R279) -/
  | marker (port : Port) (payload : BitVec 64)
  /-- R292: a link control block: 0 acknowledgement, 1 negative, 2 busy -/
  | linkControl (port : Port) (block : BitVec 64)
  /-- R141: a tile request to a position -/
  | tileRequest (position coord : Nat)
  /-- R143: a tile transfer to a position -/
  | tileTransfer (position : Nat) (tile : TileTransfer)
  /-- R145: a paint delta to a position -/
  | paintDelta (position : Nat) (delta : PaintDelta)
  /-- R143: a drop notice to a home -/
  | cacherDrop (position coord : Nat)
  /-- R159: a share to an owner -/
  | share (owner : Nat) (share : Share)
  /-- R160, R168: a confirmation (result 0) or closing result to the intake device -/
  | shareConfirmation (intake : Nat) (rec : ResultRec)
  /-- R159: share credits to an intake device -/
  | shareCredit (intake credits : Nat)
  /-- R168: a final result to a guest -/
  | guestResult (guest : Nat) (rec : ResultRec)
  /-- R292: a data or management message on a port under a hop sequence, sent again or after a wait -/
  | resent (port : Port) (cls seq : Nat) (what : Emit)
  /-- R304, Table 13.1: an enumeration message, on one port or, where it names none, on the ports that R309 gives it -/
  | enumeration (port : Option Port) (body : List Byte)
  /-- R320: the standby mirror -/
  | mirror (m : Mirror)
  /-- R314, Table 13.3: an echo request (time kind 0) or response (time kind 1) -/
  | echo (port : Port) (kind : Nat) (body : List Byte)
  /-- R335: the transfers of the front-end script in order: the bytes sent, and the wait after them in µs -/
  | frontEnd (transfers : List (List Byte × Nat))
  /-- R336: a gain code for the front end of an input -/
  | gain (input code : Nat)
  /-- R350, Table 14.6: the lead's base epoch -/
  | baseEpoch (body : List Byte)
  /-- R350, Table 14.6: a moving-baseline fix for the lead -/
  | baseline (body : List Byte)
  /-- R265: an axis block for a channel of a row-drive guest: chain time of its first update and 8 addresses -/
  | axisBlock (guest : Nat) (body : List Byte)
  deriving DecidableEq, Repr

end Sys2Proof
end

