-- ==== Sys2Proof/Syntax.lean ====
section
/-! DEFINITION. The commands: one constructor for each row of the opcode table, in the table's order. `t` is the device
time of an event, in nanoseconds since the first power-on; `acc` is the accessor (R386) that makes an access. -/

namespace Sys2Proof

/-- The commands of the block (opcode_table.json). -/
inductive Instr where
  /-- R29: VIN rises through 1.62 V and the logic die's power-on reset releases, raising the power-cycle count. -/
  | powerOnReset (roleHigh : Bool) (t : Nat)
  /-- R480: After every clock monitor has held lock for 1 ms the device boots: secure boot, spare maps, live set, dray self-test, recorder scan, journal replay and sensor supplies. -/
  | boot (rep : BootReport) (t : Nat)
  /-- R38: Before the first armed batch the lead seeds chain time from GNSS time, the RTC or zero. -/
  | chainTimeSeed (gnss : Option Int) (t : Nat)
  /-- R354: On a hot start, the seed wait runs out before a GNSS time solution and the lead seeds chain time. -/
  | seedWaitExpiry (t : Nat)
  /-- R439: A clock monitor declares loss of lock; tokens stop and the logic die is held in a lock-loss reset. -/
  | clockLockLoss (t : Nat)
  /-- R441: Every clock monitor has held lock for 1 ms, which ends a lock-loss reset in a full boot. -/
  | clockLockHeld (rep : BootReport) (t : Nat)
  /-- R479: NRST held low resets the logic die, or wakes the device from dormant or off mode, and its release starts a boot. -/
  | nrstAssert (lowNs : Nat) (t : Nat)
  /-- R479: In the debug lifecycle state, a reset from the debug port resets the logic and MRAM dies. -/
  | debugPortReset (t : Nat)
  /-- R255: In the debug state, a halt from the debug port freezes the bridge PWM counters and outputs. -/
  | debugHalt (core : Bool) (t : Nat)
  /-- R473: VBAT returns while batches run; the power die boots unarmed, takes the live settings in the next Phase D and then arms. -/
  | vbatApplied (v1 : Nat) (v2 : Nat) (t : Nat)
  /-- R473: No power-link frame has come from the power die for 1 ms; type 1 and 2 outlets go out of service and no output commands are sent. -/
  | powerDieAbsent (t : Nat)
  /-- R471: Both VBAT pins fall below 4.5 V and the power die resets into the safe state. -/
  | powerDieReset (v1 : Nat) (v2 : Nat) (t : Nat)
  /-- R217: VBAT1 or VBAT2 falls below 6.0 V; the banks fed from it report undervoltage and go on driving. -/
  | vbatUndervoltage (v1 : Nat) (v2 : Nat) (t : Nat)
  /-- R229: A reversed VBAT turns on each load switch's reverse protection, and commands, diagnostics and limp-home stop. -/
  | vbatReverse (t : Nat)
  /-- R230: VBAT rises above 40 V in a load dump; switches keep their states and off-state tests are suspended. -/
  | loadDump (v1 : Nat) (v2 : Nat) (t : Nat)
  /-- R228: The PGND connection opens while VBAT is present, and every load switch turns off within 10 µs. -/
  | pgndOpen (t : Nat)
  /-- R22: The power die receives an output command frame and schedules it for the 250 MHz tick it carries. -/
  | powerLinkCommand (crcOk : Bool) (frame : PlFrame) (t : Nat)
  /-- R23: The timing block receives a negative acknowledgement and either resends the command or drops it as a missed edge. -/
  | negativeAcknowledgement (id : Framed Nat) (t : Nat)
  /-- R30: Every 250 µs the timing block sends a tether token when its clock is locked and both permissions are fresh. -/
  | tetherToken (t : Nat)
  /-- R30: Management core 1 refreshes its tether permission in the timing block once per millisecond. -/
  | permissionRefresh (t : Nat)
  /-- R27: A tether permission has not been refreshed for 1 ms and lapses, so tokens stop. -/
  | permissionLapse (which : Permission) (t : Nat)
  /-- R31: The power die checks a received token's CRC and count, resets the silence timer when the token is valid, and resynchronises on an out-of-sequence one. -/
  | tetherTokenReceived (crcOk : Bool) (count : Nat) (armed : Bool) (t : Nat)
  /-- R31: No valid token has arrived within the silence window, so the power die enters the safe state and records the cause. -/
  | tetherSilence (t : Nat)
  /-- R27: Every 10 ms each management core checks the other through the shared supervision word. -/
  | supervisionCheck (core0Up : Bool) (core1Up : Bool) (t : Nat)
  /-- R437: 4 ms after the last permission refresh or revocation, the logic die resets, and after 3 such resets in 1 h it boots unarmed. -/
  | supervisionReset (t : Nat)
  /-- R42: The chain-time counter reaches a multiple of the batch period; the batch number advances and Phase A starts. -/
  | batchBoundary (ain : Vector AinSample 16)
  /-- R45: Phase B starts, and the dray tasks of the batch are dispatched. -/
  | phaseBStart
  /-- R180: The timing block closes the Phase B result slots; queued tasks are dropped and running ones aborted. -/
  | phaseBDeadline
  /-- R45: Phase D starts: paint, learn, journal and recorder writes, migration and audits run. -/
  | phaseDStart
  /-- R24: Once the batch's own Phase D work is complete, the data path publishes the device's actual state. -/
  | statusSnapshot
  /-- R176: A task whose predecessors have all ended is pushed to its home dray's queue or overflow list. -/
  | taskRelease (task : Nat)
  /-- R177: A dray takes the task at the head of its own queue. -/
  | taskTake (dray : Fin 64)
  /-- R180: A finished task writes its result slot; the write is on time only when it is ahead of the close. -/
  | taskResultWrite (dray : Fin 64) (t : Nat)
  /-- R178: An idle dray asks a victim for work and is granted the oldest half of its waiting entries, or refused. -/
  | stealRequest (thief : Fin 64) (victim : Fin 64) (t : Nat)
  /-- R179: After asking all 24 victims in vain, a thief waits 2 µs and starts again at ring 1. -/
  | stealRetry (thief : Fin 64) (t : Nat)
  /-- R187: A dray fault is detected; the dray is quarantined, its queues move on and its running task is retried once. -/
  | drayFault (dray : Fin 64) (cause : Nat) (t : Nat)
  /-- R187: A task has run for 4 times its cost estimate without ending, so it is aborted and retried. -/
  | drayStepOverrun (dray : Fin 64) (t : Nat)
  /-- R187: A router handshake is not answered within 2 µs; the transfer is repeated by another route and the task retried. -/
  | meshTimeout (dray : Fin 64) (t : Nat)
  /-- R188: A quarantined dray's self-test ends; the dray returns to work or is retired. -/
  | draySelfTest (dray : Fin 64) (pass : Bool) (t : Nat)
  /-- R188: A write to 0x2402:07 has the selected retired dray tested at the next start-up. -/
  | drayRetestWrite (acc : Accessor) (v : Int)
  /-- R344: A GNSS solution for an epoch completes; SHAPE applies it and the lead updates its time state. -/
  | gnssSolution (fix : GnssFix) (t : Nat)
  /-- R39: A wheeler loses its recovered clock and enters holdover on its TCXO. -/
  | holdoverEntry (t : Nat)
  /-- R39: A wheeler's holdover error estimate passes the holdover limit, and it enters the time-lost state. -/
  | holdoverLimit (t : Nat)
  /-- R316: A wheeler's holdover error estimate reaches 20 ns, so it stops filling report slots and clears time-good. -/
  | reportSlotStop (t : Nat)
  /-- R40: After 64 consecutive good markers with both chain flags, a wheeler measures its error and slews or steps. -/
  | reLock (err : Int) (t : Nat)
  /-- R52: A write to 0x1810:01 on the lead names a swap batch, or clears the name with 0xFFFFFFFF. -/
  | namedSwapWrite (acc : Accessor) (v : Int)
  /-- R53: A write to 0x1811:01 on the lead cancels the scheduled swap up to the end of Phase C of S − 1. -/
  | swapCancelWrite (acc : Accessor) (v : Int)
  /-- R50: A write to an RWB or CAL object changes only the proof set and counts towards the next swap set. -/
  | proofWrite (acc : Accessor) (addr : Nat) (v : Val)
  /-- R96: A write of 1 to 0x3000:25 is handled as a proof write that restarts learning at its swap. -/
  | resetLearningWrite (acc : Accessor) (outlet : Fin 32) (v : Int)
  /-- R52: The lead receives a wheeler's swap request and adds its write count to that position. -/
  | swapRequest (pos : Fin 32) (writes : Nat)
  /-- R53: A device receives the swap announcement and, in S − 2, reports ready or not ready. -/
  | swapAnnouncement (swapBatch : Nat) (setNo : Nat) (announced : SwapNotice)
  /-- R53: The lead receives a device's ready report for the announced swap set. -/
  | readyReport (pos : Fin 32) (ready : Bool) (span : Option DeviceSpan)
  /-- R53: A device receives go for swap batch S and will swap at its boundary. -/
  | swapGo (swapBatch : Nat)
  /-- R53: A device receives a postponement of the swap set to a later batch. -/
  | swapPostponement (swapBatch : Nat) (newBatch : Nat)
  /-- R53: A device receives a cancel for swap batch S and does not swap there. -/
  | swapCancel (swapBatch : Nat)
  /-- R56: At each whole chain-time second the PPS leading edge is driven, and the pulse ends after its width. -/
  | ppsPulse
  /-- R57: At each whole chain-time second while the lead is locked, the RTC is disciplined to chain time. -/
  | rtcDiscipline
  /-- R57: The RTC supply is lost and the RTC-valid flag is cleared. -/
  | rtcSupplyLoss (t : Nat)
  /-- R350: The lead receives a wheeler's moving-baseline fix, and SHAPE applies it at its epoch. -/
  | movingBaselineFix (fix : BaselineFix) (t : Nat)
  /-- R76: A device receives the lead's boom-state broadcast for the current batch. -/
  | boomState (state : BoomState) (t : Nat)
  /-- R43: A device receives the batch-sync message and takes its batch number and present-device map, recomputing tile homes. -/
  | batchSync (number : Nat) (t0 : Int) (map : Nat) (t : Nat)
  /-- R77: A pose source times out or fails, and SHAPE acts as Table 3.4 sets out. -/
  | poseSourceLoss (src : PoseSource) (t : Nat)
  /-- R72: No IMU update has arrived for the IMU timeout, so the IMU is lost as a pose source. -/
  | imuTimeout (t : Nat)
  /-- R69: The CAN-P height object has not been written for 200 ms, so the segment falls back to its fixed height. -/
  | heightInputTimeout (seg : Fin 16) (t : Nat)
  /-- R74: A speed source has disagreed for 2 s running, so it leaves the fusion. -/
  | speedSourceImplausible (src : PoseSource) (reading : Int) (t : Nat)
  /-- R74: An implausible speed source has agreed for 10 s running, so it rejoins the fusion. -/
  | speedSourceRejoin (src : PoseSource) (t : Nat)
  /-- R76: The dead-reckoning limit has run, so pose quality falls to 0. -/
  | deadReckoningLimit (t : Nat)
  /-- R84: A filtered rising edge on a FREQ input is counted and stamped with chain time. -/
  | freqEdge (n : Fin 8) (forward : Bool) (t : Nat)
  /-- R85: No edge has arrived within the zero-speed timeout, so the frequency is reported as 0. -/
  | freqZeroTimeout (n : Fin 8) (t : Nat)
  /-- R87: A DIN input has read a new level for the debounce time and changes its debounced state. -/
  | dinDebouncedChange (n : Fin 8) (level : Bool) (t : Nat)
  /-- R88: A sensor supply has been in current limit for more than 10 ms and switches off. -/
  | sensorSupplyLimitTrip (k : Fin 2) (t : Nat)
  /-- R88: 100 ms after switching off, a sensor supply retries, and after 3 failed retries it stays off. -/
  | sensorSupplyRetry (k : Fin 2) (ok : Bool) (t : Nat)
  /-- R88: A sensor supply output exceeds 5.5 V and reports short to supply. -/
  | sensorSupplyOvervoltage (k : Fin 2) (t : Nat)
  /-- R88: An accepted write of 1 to 0x2058:01 or 0x2058:02 restarts the supply at once. -/
  | sensorSupplyEnableWrite (acc : Accessor) (k : Fin 2) (v : Int)
  /-- R109: A write to the manual section states on the lead is carried in the next Phase A broadcast. -/
  | manualSectionWrite (acc : Accessor) (k : Fin 8) (v : Int)
  /-- R96: Every 10 s, and at every swap, the learned delay parts are committed to MRAM. -/
  | learnedDelayCommit (t : Nat)
  /-- R117: A failed loop feedback input has been good for 1 s, so the loop re-enters closed loop at the next boundary. -/
  | loopFeedbackRecovered (loop : Fin 4) (t : Nat)
  /-- R122: A pending edge's instant comes and the timing block issues it over the power link. -/
  | edgeIssue (outlet : Fin 32) (t : Nat)
  /-- R204: The power die reports a missed switch-on, and the scheduler takes the outlet as off. -/
  | missedSwitchOn (outlet : Fin 32) (instant : Framed Int) (t : Nat)
  /-- R209: A power-die status frame reports a kink with its stamps and flags for LEARN and PAINT. -/
  | kinkReport (rep : Framed KinkReport) (t : Nat)
  /-- R198: At a switch-on tick a channel starts a peak from its source, or joins the bank's wait list. -/
  | channelSwitchOn (ch : Fin 32) (t : Nat)
  /-- R198: At a switch-off tick a channel releases by its release mode, or leaves the wait list. -/
  | channelSwitchOff (ch : Fin 32) (t : Nat)
  /-- R205: A nozzle PWM slot starts, and an on channel begins a pulse or extends its hold. -/
  | pwmSlotStart (ch : Fin 32) (t : Nat)
  /-- R206: A rate edge gives a PWM channel a new duty, ending the running pulse or taking effect at the next slot. -/
  | valveRateEdge (ch : Fin 32) (duty : Nat) (t : Nat)
  /-- R206: A PWM pulse's on-time ends and the channel releases, flagging a short pulse if still in peak. -/
  | endOfOnTime (ch : Fin 32) (t : Nat)
  /-- R208: The armature's arrival kink is found during the peak. -/
  | arrivalKink (ch : Fin 32) (kink : Int) (t : Nat)
  /-- R198: The peak tail after the kink, or the peak time limit, runs out and the channel enters hold. -/
  | endOfPeak (ch : Fin 32) (t : Nat)
  /-- R202: A waiting channel's wait reaches its peak time limit, and the switch-on is missed. -/
  | waitLimit (ch : Fin 32) (t : Nat)
  /-- R208: The release kink is found in the SOL-to-common voltage decay. -/
  | releaseKink (ch : Fin 32) (kink : Int) (t : Nat)
  /-- R198: The current has fallen below 20 mA and the release kink window has closed, so the channel is off. -/
  | releaseEnd (ch : Fin 32) (t : Nat)
  /-- R211: Low-side current exceeds the trip level; the low-side turns off within 2 µs and the channel is tripped. -/
  | overcurrentTrip (ch : Fin 32) (t : Nat)
  /-- R211: A tripped channel's back-off has run and it returns to off; the fourth trip retires it. -/
  | channelBackOffEnd (ch : Fin 32) (t : Nat)
  /-- R210: An on-state check's time runs out, for example open load 500 µs after the peak start or short to ground for 20 µs. -/
  | onStateDiagnostic (ch : Fin 32) (diag : OnDiag) (t : Nat)
  /-- R210: Once per test period an off channel takes its pull-down, pull-up and test-pulse checks. -/
  | offStateTest (ch : Fin 32) (res : OffTest) (t : Nat)
  /-- R200: At 100 % duty the hold current has stayed more than 10 % low for 10 ms, so the flag is set. -/
  | holdUnreachable (ch : Fin 32) (t : Nat)
  /-- R211: A bank common has been in current limit for 100 ms, so it switches off for 1 s. -/
  | commonCurrentLimit (bank : Fin 4) (t : Nat)
  /-- R211: A bank common switched off for current limit is powered again after 1 s. -/
  | commonRestore (bank : Fin 4) (t : Nat)
  /-- R212: In each 50 µs window with enough current, shunt, mirror and high-side figures are formed and compared. -/
  | senseWindow (bank : Fin 4) (figs : SenseFigures) (t : Nat)
  /-- R493: A write to 0x2500:07 returns a retired channel to service once an off-state test finds no fault. -/
  | channelReturnWrite (acc : Accessor) (v : Int)
  /-- R197: The boost has not reached ready within 100 ms of a start, and it is restarted after 1 s. -/
  | boostStartTimeout (t : Nat)
  /-- R197: The boost converter restarts after its 1 s wait, and after 3 failed restarts it is retired. -/
  | boostRestart (t : Nat)
  /-- R196: VBST falls below VBAT1 + 1 V during a boost peak, so the battery high-side takes over. -/
  | boostFallback (vbst : Nat) (t : Nat)
  /-- R195: VBST exceeds its target by 10 % or exceeds 63 V, so the converter stops switching until VBST falls back. -/
  | boostOvervoltage (vbst : Nat) (t : Nat)
  /-- R221: A write to the commanded mask or to a switch's commanded state is taken at the next Phase A. -/
  | loadSwitchCommandWrite (acc : Accessor) (addr : Nat) (v : Int)
  /-- R221: At t_e the timing block issues a load switch state change over the power link. -/
  | loadSwitchCommand (sw : Fin 8) (t : Nat)
  /-- R224: A load-switch pulse generator starts a period, and a commanded pulsed switch switches on. -/
  | pulsePeriodStart (g : Fin 8) (t : Nat)
  /-- R224: A pulsed switch's on-time d × P ends and it switches off. -/
  | pulseEnd (sw : Fin 8) (t : Nat)
  /-- R225: A switch stays in current limit for the limit time, or reaches its thermal trip, and turns off. -/
  | loadSwitchTrip (sw : Fin 8) (thermal : Bool) (t : Nat)
  /-- R226: A tripped switch's back-off has run, so it attempts again, and the fourth trip latches it off. -/
  | loadSwitchBackOffEnd (sw : Fin 8) (t : Nat)
  /-- R226: A switch has been on for 1 s without a trip, so its consecutive trip count returns to 0. -/
  | loadSwitchCountClear (sw : Fin 8) (t : Nat)
  /-- R227: Once per test period an off switch runs its short-to-supply and open-load test steps. -/
  | loadSwitchOffStateTest (sw : Fin 8) (shortSupply : Bool) (openLoad : Bool) (t : Nat)
  /-- R227: An on switch's current has stayed below the open-load threshold for 10 ms, or at the end of a pulse. -/
  | loadSwitchOpenLoad (sw : Fin 8) (low : Bool) (t : Nat)
  /-- R231: A limp-home input changes after its 10 ms filter, and its mapped switches follow while limp-home applies. -/
  | limpHomeInput (n : Fin 4) (level : Bool) (t : Nat)
  /-- R234: LHEN changes after its filter, which moves the power die between limp-home and off. -/
  | lhenChange (level : Bool) (t : Nat)
  /-- R238: A bridge pair starts a period, applying staged load-all values, tap codes and the slot compares due. -/
  | pwmPeriodStart (p : Fin 16) (t : Nat)
  /-- R240: A write to the load-all mask is taken at the next Phase A and applied at each pair's next period start after t_e. -/
  | loadAllWrite (acc : Accessor) (v : Int)
  /-- R242: A write to a pair's force object is taken at the next Phase A snapshot. -/
  | forceWrite (acc : Accessor) (p : Fin 16) (v : Int)
  /-- R242: At t_e of the batch that took them, the forces of every written pair take effect on the same tick. -/
  | forceApply (t : Nat)
  /-- R243: Every 10 µs the replica delay line is measured and the tap code recomputed or coarse mode entered. -/
  | delayLineCalibration (taps : Nat) (t : Nat)
  /-- R244: SWn shows the switch node has left the outgoing rail, so after the margin the incoming output rises. -/
  | switchNodeSwing (p : Fin 16) (t : Nat)
  /-- R245: The effective maximum dead time passes without a seen swing, so the incoming output rises. -/
  | deadTimeMaximum (p : Fin 16) (t : Nat)
  /-- R246: A PWMFLT input asserts, and each pair naming it cuts its pulse for the rest of the period. -/
  | pwmFaultInput (n : Fin 4) (active : Bool) (t : Nat)
  /-- R248: Both requests of a pair overlap; both outputs are held low and the pair may be faulted. -/
  | interlockEvent (p : Fin 16) (duration : Nat) (t : Nat)
  /-- R248: A write to 0x2700:08 returns a faulted pair to service from the next boundary. -/
  | pairReturnWrite (acc : Accessor) (v : Int)
  /-- R254: The power die loses the forwarded clock, drives every GH and GL low within 1 µs and discards pending commands. -/
  | forwardedClockLoss (t : Nat)
  /-- R258: At every 25 µs multiple each axis advances its position and emits its microstep address. -/
  | axisUpdate (t : Nat)
  /-- R272: Move command 1 plans a position move to the move target. -/
  | moveGo (acc : Accessor) (ax : Fin 32)
  /-- R272: Move command 2 decelerates the axis to 0 and keeps the target. -/
  | moveStop (acc : Accessor) (ax : Fin 32)
  /-- R272: Move command 3 decelerates at the quick-stop deceleration without blending. -/
  | quickStop (acc : Accessor) (ax : Fin 32)
  /-- R272: Move command 4 plans the remaining distance from standstill. -/
  | moveResume (acc : Accessor) (ax : Fin 32)
  /-- R272: Move command 5 clears the remaining distance of a held axis. -/
  | moveAbandon (acc : Accessor) (ax : Fin 32)
  /-- R273: A write to 0x2810:14 at standstill sets the position and clears position-uncertain; otherwise it aborts. -/
  | positionWrite (acc : Accessor) (ax : Fin 32) (v : Int)
  /-- R270: A filtered rising STEP edge is stamped as one coarse step in the direction of DIR. -/
  | coarseStep (forward : Bool) (t : Nat)
  /-- R271: No further STEP edge arrives within the coarse step timeout, so the axis stops at the last coarse position. -/
  | coarseStepTimeout (t : Nat)
  /-- R330: A device receives a row-drive guest's status message. -/
  | rowDriveStatus (st : RowDriveStatus) (t : Nat)
  /-- R284: A receive lane sees 64 consecutive valid sync headers and holds block lock. -/
  | blockLock (lane : Fin 4) (t : Nat)
  /-- R284: 16 of 64 blocks carry invalid headers, so block lock is lost and the lane goes down. -/
  | blockLockLoss (lane : Fin 4) (t : Nat)
  /-- R285: A lane receives a marker-type block and moves its alignment state; in Sync it accepts the marker and its stamps. -/
  | markerBlock (lane : Fin 4) (arrived : Arrival) (t : Nat)
  /-- R282: At each multiple of 1,600 ns a transmitter starts a frame, decides its mode and sends the marker. -/
  | frameStart (port : Port) (t : Nat)
  /-- R290: A whole message arrives on a port and is forwarded, delivered or replayed by its class. -/
  | messageReceived (port : Port) (msg : Msg) (crc : Nat) (t : Nat)
  /-- R292: A link control block acknowledges a data or management message, which leaves the replay buffer. -/
  | linkAcknowledgement (port : Port) (cls : Nat) (seq : Nat) (t : Nat)
  /-- R292: A negative acknowledgement makes the transmitter resend from the oldest unacknowledged message. -/
  | linkNegativeAcknowledgement (port : Port) (cls : Nat) (seq : Nat) (t : Nat)
  /-- R292: A busy negative acknowledgement makes the transmitter wait 10 µs before it resends. -/
  | linkBusy (port : Port) (cls : Nat) (seq : Nat) (t : Nat)
  /-- R292: No acknowledgement comes within 10 µs, so the message is resent, and after 4 sends it is undeliverable. -/
  | replayTimeout (port : Port) (cls : Nat) (t : Nat)
  /-- R292: The 10 µs busy wait ends and the message is resent. -/
  | busyWaitEnd (port : Port) (cls : Nat) (t : Nat)
  /-- R295: A segment of a transfer has not arrived within 10 ms of the first, so the transfer is discarded. -/
  | segmentTimeout (source : Nat) (t : Nat)
  /-- R299: A guest message has waited more than 2 ms in a transmit queue and is dropped. -/
  | guestMessageTimeout (port : Port) (t : Nat)
  /-- R298: A lane's errored blocks in the last second exceed the threshold, so the lane goes down and retrains. -/
  | errorRateAlarm (lane : Fin 4) (errored : Nat) (t : Nat)
  /-- R298: After its back-off a down lane starts a retrain attempt of up to 20 ms. -/
  | retrainAttempt (lane : Fin 4) (t : Nat)
  /-- R298: A retrain attempt fails to reach Sync in 20 ms, and after 4 failures the lane is retired. -/
  | retrainTimeout (lane : Fin 4) (t : Nat)
  /-- R298: A retired lane trained at start-up runs 1 s with no errored block and is reinstated. -/
  | laneReinstate (lane : Fin 4) (t : Nat)
  /-- R298: A write to 0x2900:03 clears a lane from the retired map so it is trained at the next start-up. -/
  | retiredLaneRetestWrite (acc : Accessor) (v : Int)
  /-- R300: A port's lanes are not up within 200 ms of start-up, so it reports port down. -/
  | portTrainingTimeout (port : Port) (t : Nat)
  /-- R304: A node receives a probe, takes its upstream port and position or guest number, and forwards it. -/
  | enumerationProbe (port : Port) (number : Nat) (arm : Port) (hops : Nat) (t : Nat)
  /-- R312: The lead receives a node's report, with its readiness, rejoining, throttle, notice and replace-me bits. -/
  | enumerationReport (rep : NodeReport) (t : Nat)
  /-- R304: 20 ms after the last new report, the lead broadcasts the chain table and raises the chain epoch. -/
  | enumerationReportWait (t : Nat)
  /-- R304: A node receives the chain table, and batch 0 starts at the next boundary. -/
  | chainTable (nodes : List TableNode) (epoch : Nat) (standby : Nat) (map : Nat) (t : Nat)
  /-- R306: With a conflicting lead present, each lead retries enumeration every 1 s. -/
  | enumerationRetry (t : Nat)
  /-- R317: A node receives a break notice and reverses its orientation if it lies past the break. -/
  | breakNotice (position : Nat) (t : Nat)
  /-- R319: The broken segment has held Sync for 1 s, so the lead restores the original orientation at the next boundary. -/
  | ringRestore (t : Nat)
  /-- R314: Every 625 frames a node sends an echo request on each port that is up. -/
  | echoPeriod (t : Nat)
  /-- R314: A node answers a received echo request with an echo response. -/
  | echoRequest (port : Port) (id : Nat) (t : Nat)
  /-- R314: A requester receives an echo response and updates its link delay. -/
  | echoResponse (port : Port) (id : Nat) (times : EchoTimes) (t : Nat)
  /-- R320: The standby receives a whole standby mirror and applies it. -/
  | standbyMirror (mirror : Mirror) (t : Nat)
  /-- R321: No good lead marker has arrived 1,150 ns after its expected arrival at the standby. -/
  | markerMissing (t : Nat)
  /-- R322: A node receives a takeover notice and reorients towards the new lead. -/
  | takeoverNotice (position : Nat) (t : Nat)
  /-- R328: An intake device grants a guest message credits for target messages. -/
  | guestCredit (guest : Fin 16) (credits : Nat)
  /-- R325: A write to 0x2A20:01 starts a sweep of its kind, or is rejected with a state error. -/
  | sweepStart (acc : Accessor) (kind : Nat) (batch : Nat)
  /-- R325: A write to 0x2A20:04 cancels the running sweep at the next boundary. -/
  | sweepCancel (acc : Accessor) (v : Int)
  /-- R325: A device receives a sweep step written by the lead and runs it. -/
  | sweepStepRequest (acc : Accessor) (kind : Nat) (unit : Nat)
  /-- R325: A sweep step finishes on its device, and its state becomes done or failed. -/
  | sweepStepComplete (ok : Bool) (result : List Byte) (t : Nat)
  /-- R325: Every 100 ms the lead polls the current step's state. -/
  | sweepPoll (t : Nat)
  /-- R325: A sweep step exceeds its kind's timeout and is marked failed. -/
  | sweepStepTimeout (t : Nat)
  /-- R388: A device receives a management-class dictionary request and answers it in order. -/
  | dictionaryRequest (req : DictRequest) (t : Nat)
  /-- R388: The aggregator receives a dictionary response and completes the originating access. -/
  | dictionaryResponse (pos : Fin 32) (resp : DictResponse) (t : Nat)
  /-- R331: A remote request has had no response within 20 ms and ends with the device-missing abort. -/
  | remoteRequestTimeout (pos : Fin 32) (tag : Nat) (t : Nat)
  /-- R388: 2 ms after a busy answer the aggregator resends the request under the same tag and sequence. -/
  | aggregatorBusyResend (pos : Fin 32) (tag : Nat) (t : Nat)
  /-- R141: A home, or the lead, receives a tile request, adds the cacher and sends the tile or pages it in. -/
  | tileRequest (pos : Fin 32) (coord : Nat) (t : Nat)
  /-- R143: A tile transfer arrives and is checked, applied with its buffered deltas, or requested again. -/
  | tileTransfer (tile : TileTransfer) (t : Nat)
  /-- R145: A copy of a tile receives a paint delta and applies, buffers, forwards or drops it. -/
  | paintDelta (delta : PaintDelta) (t : Nat)
  /-- R145: PAINT for a batch finishes for every used outlet, and the device sends its paint deltas to the homes. -/
  | paintComplete (batch : Nat) (t : Nat)
  /-- R143: A home receives a device's notice to drop it from a tile's cacher list. -/
  | cacherDrop (pos : Fin 32) (coord : Nat) (t : Nat)
  /-- R146: A new home rebuilds a lost home copy from other copies, write-backs and resend buffers. -/
  | homeRebuild (coord : Nat) (t : Nat)
  /-- R138: A tile has not been touched by the corridor for 2 s and leaves the window. -/
  | tileWindowExpiry (coord : Nat) (t : Nat)
  /-- R141: A cached tile has not been touched by any swept strip for 2 s and is released. -/
  | cachedTileRelease (coord : Nat) (t : Nat)
  /-- R143: The write-back period has run for a dirty home tile, so a write-back is sent. -/
  | writeBackPeriod (coord : Nat) (t : Nat)
  /-- R143: A write-back is not acknowledged within 10 s and is sent again with the same sequence. -/
  | writeBackResend (coord : Nat) (t : Nat)
  /-- R147: A write of a tile to 0x2202:02 is journalled and forwarded to its home, or answered busy. -/
  | tileInWrite (acc : Accessor) (tile : TileTransfer)
  /-- R147: A write to 0x2202:03 reports the tile absent, and the home builds it blank. -/
  | tileAbsentWrite (acc : Accessor) (v : Int)
  /-- R148: A write to 0x2202:05 acknowledges a tile's write-back sequence. -/
  | writeBackAcknowledge (acc : Accessor) (coord : Nat) (seq : Nat)
  /-- R152: A write to 0x2202:07 acknowledges an as-applied record by position and sequence. -/
  | asAppliedAcknowledge (acc : Accessor) (pos : Nat) (seq : Nat)
  /-- R152: Every 5 s an unacknowledged as-applied record is offered again. -/
  | asAppliedReoffer (t : Nat)
  /-- R468: The security block completes an as-applied record's signature, and the record is journalled. -/
  | recordSigned (seq : Nat) (t : Nat)
  /-- R151: Under the hold policy an outlet's map miss has lasted the hold limit, so it is switched off. -/
  | mapMissHoldLimit (outlet : Fin 32) (t : Nat)
  /-- R156: An intake device receives a guest's target message into its intake, or discards it on a CRC or count failure. -/
  | targetMessage (guest : Fin 16) (crcOk : Bool) (count : Nat) (recs : List TargetRec) (t : Nat)
  /-- R156: A write of a target message to 0x2301:01 puts the host's records into the lead's intake. -/
  | targetInWrite (acc : Accessor) (recs : List TargetRec)
  /-- R159: An owner receives a share into its inbox. -/
  | share (share : Share) (t : Nat)
  /-- R159: An intake device receives a share credit, and a waiting share can be sent. -/
  | shareCredit (pos : Fin 32) (credits : Nat) (t : Nat)
  /-- R160: An intake device receives an owner's share confirmation or closing result. -/
  | shareConfirmation (pos : Fin 32) (rec : ResultRec) (t : Nat)
  /-- R168: A share has been pending for the maximum pending time and closes as expired. -/
  | shareExpiry (intake : Fin 32) (source : Nat) (seq : Nat) (t : Nat)
  /-- R168: A final target result is sent to the guest, or queued for the host. -/
  | targetResult (rec : ResultRec) (t : Nat)
  /-- R168: A write to 0x2302:02 acknowledges a target result by source and sequence. -/
  | resultAcknowledge (acc : Accessor) (source : Nat) (seq : Nat)
  /-- R335: The GNSS baseband starts and runs the front-end script. -/
  | basebandStart (verifyOk : Bool) (t : Nat)
  /-- R335: After a failed verify, the script runs again at 100 ms and 1 s, and the third failure faults the front end. -/
  | scriptRetry (verifyOk : Bool) (t : Nat)
  /-- R336: Every 10 ms the input RMS is measured, the gain field stepped and the jamming indicator computed. -/
  | agcRound (n : Fin 2) (rms : Nat) (t : Nat)
  /-- R337: Every 10 ms the spectrum of each input is searched and its notches placed or released. -/
  | notchSearch (n : Fin 2) (lines : List SpectrumLine) (t : Nat)
  /-- R336: An IF sample clock is absent for 10 µs, so the input is down and its channels go Idle. -/
  | sampleClockLoss (n : Fin 2) (t : Nat)
  /-- R336: A lost sample clock returns; the script runs again and the band's channels are reallocated. -/
  | sampleClockReturn (n : Fin 2) (verifyOk : Bool) (sats : List Satellite) (t : Nat)
  /-- R339: Once a second, and at every start, GNSS channels are allocated to satellites by elevation. -/
  | channelAllocation (sats : List Satellite) (t : Nat)
  /-- R342: A confirmed correlation peak hands code and Doppler to the loops and moves the channel to Pull-in. -/
  | acquisitionPeak (ch : Fin 64) (t : Nat)
  /-- R342: The search space is exhausted 3 times and the channel is released. -/
  | acquisitionExhausted (ch : Fin 64) (t : Nat)
  /-- R342: Phase lock and bit sync are found in Pull-in, and the channel goes to Track. -/
  | channelLock (ch : Fin 64) (t : Nat)
  /-- R342: No lock is found within 2 s of Pull-in, so the channel returns to Acquire. -/
  | pullInTimeout (ch : Fin 64) (t : Nat)
  /-- R342: C/N0 or phase lock falls too far for its time, so the slip flag is set and the channel reacquires. -/
  | trackLoss (ch : Fin 64) (t : Nat)
  /-- R341: A BOC side-peak lock is detected, so the code is shifted half a chip and the channel goes to Pull-in. -/
  | sidePeakLock (ch : ChannelOutputs) (t : Nat)
  /-- R342: A narrow search finds the peak again and the channel returns to Pull-in. -/
  | reacquirePeak (ch : Fin 64) (t : Nat)
  /-- R342: After 10 s without a peak in Reacquire, the channel is released. -/
  | reacquireTimeout (ch : Fin 64) (t : Nat)
  /-- R343: At each epoch multiple the epoch strobe is stamped and every channel's measurements are interpolated to it. -/
  | measurementEpoch (obs : Vector Observation 64) (t : Nat)
  /-- R350: A moving-baseline wheeler receives a base epoch and computes its baseline fix. -/
  | baseEpoch (epoch : Int) (fix : BaselineMeasure) (t : Nat)
  /-- R347: A write of RTCM 3 frames to 0x2B03:01 is accepted, and the frames are checked and used. -/
  | correctionInput (acc : Accessor) (frames : List RtcmFrame) (t : Nat)
  /-- R345: At an announced leap second the UTC offset changes. -/
  | leapSecond (t : Nat)
  /-- R352: Every 60 s while data have changed, and on entry to dormant mode, the GNSS kept data are committed. -/
  | keptDataCommit (t : Nat)
  /-- R352: A write to 0x2B06:02 erases the kept data, except the TCXO model, at the next commit. -/
  | keptDataErase (acc : Accessor) (v : Int)
  /-- R353: A hot or warm start has no fix after 5 s or 60 s, and falls back to the next start kind. -/
  | startFallback (t : Nat)
  /-- R360: A CAN frame that matches a filter enters the receive FIFO, or is dropped on overflow. -/
  | canFrameReceived (bus : Fin 2) (frame : CanFrame) (t : Nat)
  /-- R362: A CAN controller goes bus-off; its pending frames are discarded and the owning protocols told. -/
  | busOff (bus : Fin 2) (t : Nat)
  /-- R362: The device's wait before recovery ends, and bus-off recovery starts. -/
  | busOffRecovery (bus : Fin 2) (t : Nat)
  /-- R364: A CAN-I address-claim contention is resolved by NAME, and the device claims another address or cannot claim. -/
  | addressClaim (name : Nat) (address : Nat) (t : Nat)
  /-- R365: A TP or ETP message is received and reassembled, or refused with a connection abort. -/
  | transportPacket (source : Nat) (pgn : Nat) (data : List Byte) (last : Bool) (t : Nat)
  /-- R365: A DM2, identification or diagnostic protocol request is answered. -/
  | diagnosticRequest (pgn : Nat) (source : Nat) (t : Nat)
  /-- R365: DM3 clears the list of previously active DTCs. -/
  | dm3Clear (source : Nat) (t : Nat)
  /-- R365: DM11 clears active DTCs whose condition has ended. -/
  | dm11Clear (source : Nat) (t : Nat)
  /-- R365: Once a second while any DTC is active, and within 100 ms of a new one, DM1 is sent. -/
  | dm1Send (t : Nat)
  /-- R367: A Task Controller value command is accepted as a dictionary write from source CAN-I TC. -/
  | tcValueCommand (element : Nat) (ddi : Nat) (value : Int) (t : Nat)
  /-- R367: A Task Controller measurement command sets the process data reporting of the client. -/
  | tcMeasurementCommand (element : Nat) (ddi : Nat) (kind : Nat) (value : Int) (t : Nat)
  /-- R367: The Task Controller server has been silent for 6 s, so server setpoints stop acting. -/
  | tcServerLost (t : Nat)
  /-- R368: A CAN-I dictionary request in Proprietary A is accepted from the allowed client and answered. -/
  | proprietaryARequest (name : Nat) (command : Nat) (addr : Nat) (seq : Nat) (v : Val) (t : Nat)
  /-- R370: The NMT command start puts the CAN-P stack in operational. -/
  | nmtOperational (node : Nat) (t : Nat)
  /-- R370: The NMT command puts the CAN-P stack in pre-operational. -/
  | nmtPreOperational (node : Nat) (t : Nat)
  /-- R370: The NMT command stop leaves only NMT and heartbeat running. -/
  | nmtStop (node : Nat) (t : Nat)
  /-- R370: The NMT command restarts the CAN-P stack from the live set. -/
  | nmtResetCommunication (node : Nat) (t : Nat)
  /-- R370: The NMT reset node command acts as reset communication. -/
  | nmtResetNode (node : Nat) (t : Nat)
  /-- R371: An SDO request reads or writes the dictionary, confirming writes after their journal commit. -/
  | sdoRequest (write : Option Val) (addr : Nat) (t : Nat)
  /-- R399: An SDO transfer is not continued within 1 s and is aborted. -/
  | sdoTimeout (t : Nat)
  /-- R372: An RPDO arrives and writes its mapped RW objects. -/
  | rpdo (n : Fin 4) (data : List Byte) (t : Nat)
  /-- R369: The heartbeat producer sends its heartbeat each producer heartbeat time. -/
  | heartbeatSend (t : Nat)
  /-- R373: A consumed producer falls silent for its time, and an event is raised. -/
  | heartbeatTimeout (k : Fin 2) (t : Nat)
  /-- R374: Host port command 0x01 reads an object, capturing a 64-bit, DOMAIN or queue value. -/
  | hostRead (crcOk : Bool) (addr : Nat) (t : Nat)
  /-- R389: Host port command 0x09 returns the captured high half, or the live one with the torn flag. -/
  | hostReadHigh (crcOk : Bool) (addr : Nat) (t : Nat)
  /-- R375: Host port command 0x02 writes an object under the write sequence and answers pending. -/
  | hostWrite (crcOk : Bool) (addr : Nat) (data : Nat) (t : Nat)
  /-- R391: Host port command 0x0A stages the high half of a 64-bit write. -/
  | hostWriteHigh (crcOk : Bool) (addr : Nat) (data : Nat) (t : Nat)
  /-- R390: Host port command 0x21 reads words of a DOMAIN capture from a byte offset. -/
  | hostBlockRead (crcOk : Bool) (addr : Nat) (offset : Nat) (words : Nat) (t : Nat)
  /-- R374: Host port command 0x31 writes words into the 128 KiB staging buffer. -/
  | hostStage (crcOk : Bool) (offset : Nat) (data : List Byte) (t : Nat)
  /-- R375: Host port command 0x32 writes the staged bytes to a DOMAIN object as one write. -/
  | hostCommitStaged (crcOk : Bool) (addr : Nat) (length : Nat) (t : Nat)
  /-- R374: Host port command 0x40 returns the NIRQ cause. -/
  | hostPortStatus (crcOk : Bool) (t : Nat)
  /-- R374: A host port transaction with an unknown command code is answered with status 7. -/
  | hostUnknownCommand (crcOk : Bool) (t : Nat)
  /-- R374: HCS_N rises before a transaction is complete, and the transaction is discarded. -/
  | hostTransactionAborted (t : Nat)
  /-- R391: A staged high half not completed within 10 ms is discarded. -/
  | stagedHalfExpiry (acc : Accessor) (t : Nat)
  /-- R381: A write to an object that has no row of its own is checked and applied by its access kind. -/
  | registerWrite (acc : Accessor) (addr : Nat) (v : Val) (t : Nat)
  /-- R374: A read of a queue DOMAIN latches the record at its head and moves the queue on. -/
  | queueRead (acc : Accessor) (addr : Nat) (t : Nat)
  /-- R453: A read of 0x2F01:03 returns the next record of the selected area and advances the accessor's record select. -/
  | recordRead (acc : Accessor) (t : Nat)
  /-- R453: A read of 0x2F01:05 returns the selected recorder page. -/
  | pageRead (acc : Accessor) (t : Nat)
  /-- R408: The batch's journal group is written and verified, and its acknowledgements are released. -/
  | journalGroupCommit (t : Nat)
  /-- R410: A checkpoint is written when the tail has moved, and at least every 10 s. -/
  | journalCheckpoint (t : Nat)
  /-- R417: The standby acknowledges the mirror at the link, and the held acknowledgements and forwards are released. -/
  | mirrorAcknowledged (batch : Nat) (t : Nat)
  /-- R405: A write to 0x3202:09 releases a CAN-I dictionary client slot. -/
  | clientSlotRelease (acc : Accessor) (v : Int)
  /-- R426: A corrected or uncorrectable SRAM word is found by the scrubber or an access, and the row may become suspect. -/
  | sramError (region : SramRegion) (array : Fin 16) (row : Nat) (uncorrectable : Bool) (rowTestPass : Bool) (t : Nat)
  /-- R428: A word fails verification after its third write, and its row is replaced or fenced. -/
  | mramWriteFault (block : Fin 64) (row : Nat) (t : Nat)
  /-- R431: Every 10 ms management core 1 reads the temperature sensors and housekeeping channels, setting bands and throttle requests. -/
  | housekeepingRound (hk : Housekeeping) (t : Nat)
  /-- R434: The 5 s grace time ends, and the slow-down is enforced or the request withdrawn. -/
  | throttleGraceEnd (t : Nat)
  /-- R434: Both dies have been below release for 30 s, so enforcement ends at the next boundary. -/
  | throttleRelease (t : Nat)
  /-- R436: The power die reaches 170 °C and switches off every output, including limp-home, and latches. -/
  | powerThermalShutdown (t : Nat)
  /-- R436: 4 ms after its last refresh in a logic-die shutdown, the logic die is held in reset. -/
  | shutdownResetHold (t : Nat)
  /-- R454: An authenticated write to 0x2F00:0A clears the ring in Phase D and writes a ring-cleared record. -/
  | clearRing (acc : Accessor) (v : Int)
  /-- R463: A write to 0x3101:06 writes a chunk of the new image into the inactive image. -/
  | imageChunk (acc : Accessor) (offset : Nat) (data : List Byte)
  /-- R463: An authenticated write to 0x3101:08 erases the inactive image. -/
  | imageErase (acc : Accessor) (v : Int)
  /-- R463: An authenticated write to 0x3101:09 names the valid inactive image as the trial for the next start-up. -/
  | imageActivate (acc : Accessor) (v : Int)
  /-- R463: A trial image has run 60 s after its first armed batch without reset, so it is confirmed and the rollback counter raised. -/
  | trialConfirmation (t : Nat)
  /-- R464: A write to 0x3103:01 stores an accessor's tag for its next authenticated write within 10 s. -/
  | authenticationTag (acc : Accessor) (tag : List Byte) (t : Nat)
  /-- R465: The 10 min lockout after 32 failures in 1 h ends. -/
  | authenticationLockoutEnd (t : Nat)
  /-- R466: A write to 0x3102:01 stores or replaces the calibration key, leaving provisioning for the field state. -/
  | calibrationKeyWrite (acc : Accessor) (key : List Byte)
  /-- R466: An authenticated write to 0x3102:06 enables the debug port at the next start-up. -/
  | debugUnlock (acc : Accessor) (v : Int)
  /-- R466: An authenticated write to 0x3102:07 erases the keys and the device never arms again. -/
  | decommission (acc : Accessor) (v : Int)
  /-- R475: A write of 1 to 0x2D06:01 takes outlets out of service and leads the device into dormant mode. -/
  | dormantRequest (acc : Accessor)
  /-- R475: A write of 2 to 0x2D06:01 takes outlets out of service and leads the device into off mode. -/
  | offRequest (acc : Accessor)
  /-- R475: At the first boundary 10 batches after acceptance, with journal, kept data and operating time committed, the tether permission stops. -/
  | powerDownEntry (t : Nat)
  /-- R475: 4 ms after the last refresh, every island except the always-on domain switches off. -/
  | powerDownSwitchOff (t : Nat)
  /-- R479: A write of 1 to 0x2D06:04 takes outlets out of service and stops the tether permission 3 batches later. -/
  | restartRequest (acc : Accessor) (v : Int)
  /-- R479: 4 ms after the last refresh under a restart, the device resets. -/
  | restartReset (t : Nat)
  /-- R476: DIN0 holds its enabled wake level for 10 ms in dormant mode and wakes the device. -/
  | wakeDin0 (level : Bool) (t : Nat)
  /-- R476: HCS_N low wakes the device from dormant mode when enabled. -/
  | wakeHostSelect (t : Nat)
  /-- R476: The RTC reaches the alarm time and wakes the device from dormant mode. -/
  | rtcAlarm (t : Nat)
  /-- R196: VBST reaches the boost-ready share of its target, ending soft start and starting a peak that waits for boost-ready under action 1. -/
  | boostReady (vbst : Nat) (t : Nat)
  /-- R226: A thermally tripped switch cools 20 K below its trip, so its waiting attempt may switch it on again. -/
  | loadSwitchThermalRestart (sw : Fin 8) (t : Nat)
  /-- R285: A block that is not a good marker arrives at a lane's expected marker position, raising the bad-marker count or dropping a Hunt candidate, and after 3 bad markers the lane returns to Hunt. -/
  | expectedMarkerPosition (lane : Fin 4) (t : Nat)
  /-- R362: After 128 occurrences of 11 recessive bits, a bus-off CAN controller returns to error active. -/
  | busOffRecoveryComplete (bus : Fin 2) (t : Nat)
  /-- R365: A TP or ETP session times out under the ISO 11783-3 timeouts and is aborted. -/
  | transportTimeout (source : Nat) (t : Nat)
  /-- R367: A Task Controller server message is received, so the client finds the server and moves through pool transfer to active. -/
  | tcServerStatus (status : Nat) (structureLabel : List Byte) (t : Nat)
  /-- R439: VIN falls below 0.9 V and the power-on reset re-arms, so the next rise gives a power-on reset instead of a lock-loss boot. -/
  | powerOnResetRearm (t : Nat)
  /-- R445: Every 60 s the operating-time count is committed to MRAM by ordered commit. -/
  | operatingTimeCommit (t : Nat)
  deriving DecidableEq, Repr

end Sys2Proof
end

