-- ==== Sys2Proof/Decode.lean ====
section
/-! DEFINITION. The command that a word spells by the opcode table's bits: no row of the table gives bits, so no word
spells a command. -/

namespace Sys2Proof

/-- The command that a word of `nbits` bits spells: none, since no row of opcode_table.json gives bits. -/
def decodeTableWord (_nbits _w : Nat) : Option Instr := none

end Sys2Proof
end

