-- ==== Sys2Proof/Config.lean ====
section
/-! DEFINITION. What one part or one implementation fixes and the free values: every constant is opaque, so nothing can
be proved about its value. -/

namespace Sys2Proof.Config

/-- R457, 0x2A00:04: the 64-bit node identity of the part. FREE VALUE (log entry 3). -/
opaque nodeIdentity : Nat

/-- R377, 0x1009:00 and 0x1018:03: package revision, major × 65,536 + minor. FREE VALUE (log entry 3). -/
opaque packageRevision : Nat

/-- 0x100A:00 and 0x3101:04: version of the image that the part is shipped with. FREE VALUE (log entry 3). -/
opaque factoryImageVersion : Nat

/-- R461, R463: the security version of the image that spells a version. FREE VALUE (log entry 3). -/
opaque securityVersion : Nat → Nat

/-- R467, 0x3102:04: the signing public key. FREE VALUE (log entry 3). -/
opaque signingPublicKey : List Byte

/-- R467, 0x3102:05: the device certificate. FREE VALUE (log entry 3). -/
opaque deviceCertificate : List Byte

/-- R468, 0x3102:08: the signing key identifier. FREE VALUE (log entry 3). -/
opaque signingKeyId : Nat

/-- R464: AES-128-CMAC of NIST SP 800-38B over (key, message), truncated to 8 bytes. FREE VALUE (log entry 4): the
manual names the function and the model leaves it uninterpreted. -/
opaque cmac : List Byte → List Byte → List Byte

/-- R468: the ECDSA P-256 signature over a record's bytes, 64 bytes. FREE VALUE (log entry 4). -/
opaque recordSignature : List Byte → List Byte

/-- R461: whether the ECDSA P-256 signature of an image holds. FREE VALUE (log entry 4). -/
opaque imageSignatureHolds : List Byte → Bool

/-- 0x3200:09: the time that a group write takes, in µs, by draw. FREE VALUE (log entry 5). -/
opaque groupWriteTime : Nat → Nat

/-- R455, item 2: the cause number of an event whose raising rule names the case and gives it no number, by code and
case. FREE VALUE (log entry 6). -/
opaque eventCause : Nat → Nat → Nat

/-- R39: the TCXO ageing model's error after a time in holdover (ns to ns). FREE VALUE (log entry 7). -/
opaque holdoverError : Nat → Nat

/-- R58: the uncertainty that the trim adds after a time (ns to ns). FREE VALUE (log entry 7). -/
opaque trimUncertainty : Nat → Nat

/-- R72: the fused speed of two or more valid speed sources, by their speeds (mm/s). FREE VALUE (log entry 8). -/
opaque fuseSpeed : List Int → Int

/-- R72: the estimated horizontal 1σ while the position is propagated without GNSS, by draw. FREE VALUE
(log entry 8). -/
opaque deadSigma : Nat → Nat

/-- R113: the duty (0.01 %) that a flow curve gives for a flow beyond its points, by flow and curve. FREE VALUE
(log entry 10): the manual interpolates between points only. -/
opaque curveDutyBeyond : Nat → List Byte → Nat

/-- R116, R144: the flow (mL/min) that a flow curve gives for a duty beyond its points, by duty and curve. FREE VALUE
(log entry 10). -/
opaque curveFlowBeyond : Nat → List Byte → Nat

/-- R113: the flow that the pressure correction gives where the measured pressure is not above 0. FREE VALUE
(log entry 10): the manual divides by that pressure. -/
opaque flowWithoutPressure : Nat → Nat

/-- R48: how many of the used outlets, from the highest down, are not committed by the end of Phase C, by batch. FREE VALUE
(log entry 112). -/
opaque commitShort : Nat → Nat

/-- Table 7.7: which results of a batch are audited, by batch and place. FREE VALUE (log entry 113). -/
opaque auditPick : Nat → Nat → Nat

/-- R117: the loop error, Q16.16, where outlets of the loop are on and their target flow is 0, by the measured flow.
FREE VALUE (log entry 10): the manual divides by the target flow. -/
opaque loopErrorAtZero : Nat → Int

/-- R426: which entry of a store (a result, a share, a batch of deltas, a boom state) lies in a row of a macro. FREE VALUE
(log entry 12): the manual does not lay these stores out. -/
opaque sramContent : Nat → Nat → Nat

/-- Table 7.3: the SRAM address of a task's input frame, by task number. FREE VALUE (log entry 12). -/
opaque taskFrame : Nat → Nat

/-- Table 7.3: the result slot of a task, by task number. FREE VALUE (log entry 12). -/
opaque taskSlot : Nat → Nat

/-- What a sensor or meter of the device reads into an object, by address and draw, where no command carries the reading.
FREE VALUE (log entry 13). -/
opaque reading : Nat → Nat → Int

/-- R455: the code of an event that a rule raises and to which Table 19.5 gives no code: 1 lane skew (R288), 2 break of a
closing segment (R317), 3 undeliverable message (R310), 4 guest over budget (R329). FREE VALUE (log entry 14). -/
opaque eventCode : Nat → Nat

/-- R307: whether the chain of a table is a ring: the manual gives the table no field that says so. FREE VALUE (log
entry 16). -/
opaque tableRing : List TableNode → Bool

/-- R338: the jamming indicator J/N in dB that an RMS (0.01 LSB) and a gain in force (Q16.16 dB) give against the noise floor
of the input's last quiet start. FREE VALUE (log entry 18): the manual gives no formula. -/
opaque jammingRatio : Nat → Int → Nat

/-- R360: the filter table of a CAN controller, 192 bytes, by controller and live set. FREE VALUE (log entry 21): the
manual says that the firmware sets every filter from the live set, not what to. -/
opaque filterTable : Nat → List (Nat × Val) → List Byte

/-- R360: whether a frame matches an entry of a filter table. FREE VALUE (log entry 21): the manual does not give the
encoding of an entry's format byte. -/
opaque filterMatches : List Byte → CanFrame → Bool

/-- 0x2C20:0B: the structure label that the live set of sections and geometry gives. FREE VALUE (log entry 22): the
manual gives no rule for its 7 bytes. -/
opaque structureLabel : List (Nat × Val) → List Byte

/-- R63, R367: section number and footprint width of an outlet of another device, by swap set and global number. FREE VALUE
(log entry 143): no message of the manual brings them to the lead. -/
opaque chainOutlet : Nat → Nat → Nat × Nat

/-- R367: the offset of a section element, by swap set and section. FREE VALUE (log entry 143): the manual gives no formula. -/
opaque sectionOffset : Nat → Nat → Int

/-- R345: whether an announced leap second is inserted (the offset rises by one) or left out, by draw. FREE VALUE (log
entry 19): the navigation message announces it. -/
opaque leapInserted : Nat → Bool

/-- R207: the average of the sense trim, from the trim held and that of a window; the manual does not weight it (log entry 138). -/
opaque senseTrim : Nat → Nat → Nat

/-- Table 13.7, kind 3: the bytes of the figures of a batch: positions of the outlets (number, east, north), deflections of the
segments. FREE VALUE (log entry 140): the manual does not lay them out. -/
opaque shapeResult : List (Nat × Int × Int) → List Int → List Byte

/-- Table 14.7: how many listed satellites have a valid ephemeris in the kept data, by their age (ns). FREE VALUE (log entry 142). -/
opaque validEphemerides : Int → Nat

end Sys2Proof.Config
end

