-- ==== Sys2Proof/Machine/Objects.lean ====
section
/-! DEFINITION. The object tables of every chapter (Tables 2.6, 3.9 on, to 21.12): index, subindex, type, access, default,
range and when a value takes effect, and the look-up of an object's row, its default and its record number. -/

namespace Sys2Proof.Machine

/-- Objects from index 0x1000 on (R377). -/
def objects100 : List ObjRow := [
  ⟨0x1000, 1, 0x00, 1, .u32, .const, 0, 0, 4294967295, 1, none, .other, false, false⟩, -- Device type
  ⟨0x1001, 1, 0x00, 1, .u8, .ro, 0, 0, 255, 1, none, .snap, false, false⟩, -- Error register
  ⟨0x1008, 1, 0x00, 1, .str, .const, 0, 0, 0, 1, none, .other, false, false⟩, -- Device name
  ⟨0x1009, 1, 0x00, 1, .str, .const, 0, 0, 0, 1, none, .other, false, false⟩, -- Hardware version
  ⟨0x100A, 1, 0x00, 1, .str, .ro, 0, 0, 0, 1, none, .other, false, false⟩ -- Firmware version
  ]

/-- Objects from index 0x1010 on (R377). -/
def objects101 : List ObjRow := [
  ⟨0x1014, 1, 0x00, 1, .u32, .rwb, 0, 0, 4294967295, 1, none, .other, false, false⟩, -- EMCY identifier
  ⟨0x1015, 1, 0x00, 1, .u16, .rwb, 0, 0, 65535, 1, none, .other, false, false⟩, -- EMCY inhibit time
  ⟨0x1016, 1, 0x01, 2, .u32, .rwb, 0, 0, 16777215, 1, none, .other, false, false⟩, -- Heartbeat consumer
  ⟨0x1017, 1, 0x00, 1, .u16, .rwb, 1000, 0, 65535, 1, none, .other, false, false⟩, -- Producer heartbeat time
  ⟨0x1018, 1, 0x01, 1, .u32, .const, 2675, 0, 4294967295, 1, none, .other, false, false⟩, -- Vendor ID
  ⟨0x1018, 1, 0x02, 1, .u32, .const, 29234, 0, 4294967295, 1, none, .other, false, false⟩, -- Product code
  ⟨0x1018, 1, 0x03, 1, .u32, .const, 0, 0, 4294967295, 1, none, .other, false, false⟩, -- Revision number
  ⟨0x1018, 1, 0x04, 1, .u32, .const, 0, 0, 4294967295, 1, none, .other, false, false⟩ -- Serial number
  ]

/-- Objects from index 0x1030 on (R400). -/
def objects103 : List ObjRow := [
  ⟨0x1030, 1, 0x01, 1, .u32, .ro, 0, 0, 4294967295, 1, none, .snap, false, false⟩, -- Torn reads
  ⟨0x1030, 1, 0x02, 1, .u32, .rw, 0, 0, 16777215, 1, none, .other, false, false⟩, -- Proof-read select
  ⟨0x1030, 1, 0x03, 1, .domain, .ro, 0, 0, 0, 1, none, .read, false, false⟩, -- Proof value
  ⟨0x1030, 1, 0x04, 1, .u32, .ro, 0, 0, 4294967295, 1, none, .snap, false, false⟩, -- Aborts sent
  ⟨0x1030, 1, 0x05, 1, .u32, .ro, 0, 0, 4294967295, 1, none, .snap, false, false⟩, -- Last abort code
  ⟨0x1030, 1, 0x06, 1, .u32, .ro, 0, 0, 4294967295, 1, none, .snap, false, false⟩, -- Last abort address
  ⟨0x1030, 1, 0x07, 1, .domain, .ro, 0, 0, 0, 1, none, .read, false, false⟩, -- Proof value, ready set
  ⟨0x1031, 1, 0x01, 1, .u32, .ro, 0, 0, 4294967295, 1, none, .read, true, false⟩, -- Aggregator sequence of selected position (lead only)
  ⟨0x1031, 1, 0x02, 1, .u8, .rw, 1, 0, 31, 1, none, .other, true, false⟩, -- Aggregator position select (lead only)
  ⟨0x1031, 1, 0x03, 1, .u8, .ro, 0, 0, 255, 1, none, .read, true, false⟩, -- Remote requests outstanding (lead only)
  ⟨0x1031, 1, 0x04, 1, .u32, .ro, 0, 0, 4294967295, 1, none, .snap, true, false⟩, -- Remote timeouts (lead only)
  ⟨0x1032, 1, 0x01, 1, .domain, .ro, 0, 0, 0, 1, none, .snap, true, false⟩, -- Chain commanded map (lead only)
  ⟨0x1032, 1, 0x02, 1, .domain, .ro, 0, 0, 0, 1, none, .snap, true, false⟩, -- Chain actual map (lead only)
  ⟨0x1032, 1, 0x03, 1, .domain, .ro, 0, 0, 0, 1, none, .other, true, false⟩, -- Chain mismatch map (lead only)
  ⟨0x1032, 1, 0x04, 1, .u32, .ro, 0, 0, 4294967295, 1, none, .snap, true, false⟩ -- Mismatch events, chain (lead only)
  ]

/-- Objects from index 0x1100 on (R377). -/
def objects110 : List ObjRow := [
  ⟨0x1100, 1, 0x01, 1, .u8, .rw, 8, 4, 64, 1, none, .other, false, false⟩, -- Wait clocks
  ⟨0x1100, 1, 0x02, 1, .u8, .rw, 255, 0, 31, 1, some 255, .other, false, false⟩, -- Target device
  ⟨0x1100, 1, 0x03, 1, .u32, .rw, 1, 0, 4294967295, 1, none, .other, false, false⟩, -- Write sequence
  ⟨0x1100, 1, 0x04, 1, .u32, .ro, 0, 0, 4294967295, 1, none, .other, false, false⟩, -- Last sequence accepted
  ⟨0x1100, 1, 0x05, 1, .domain, .ro, 0, 0, 0, 1, none, .read, false, false⟩, -- Completion record
  ⟨0x1100, 1, 0x06, 1, .u8, .ro, 0, 0, 255, 1, none, .read, false, false⟩, -- Completions waiting
  ⟨0x1100, 1, 0x07, 1, .u16, .rw, 255, 0, 65535, 1, none, .other, false, false⟩, -- NIRQ mask
  ⟨0x1100, 1, 0x08, 1, .u16, .ro, 0, 0, 65535, 1, none, .read, false, false⟩, -- NIRQ cause
  ⟨0x1100, 1, 0x09, 1, .u32, .ro, 0, 0, 4294967295, 1, none, .read, false, false⟩, -- Transactions
  ⟨0x1100, 1, 0x0A, 1, .u32, .ro, 0, 0, 4294967295, 1, none, .read, false, false⟩, -- Request CRC errors
  ⟨0x1100, 1, 0x0B, 1, .u32, .ro, 0, 0, 4294967295, 1, none, .read, false, false⟩, -- Busy answers
  ⟨0x1100, 1, 0x0C, 1, .u8, .rw, 16, 1, 64, 1, none, .other, false, false⟩ -- Block length
  ]

/-- Objects from index 0x1800 on (R59). -/
def objects180 : List ObjRow := [
  ⟨0x1800, 1, 0x01, 1, .us, .rwb, 1000, 250, 4000, 250, none, .other, false, false⟩, -- Batch period
  ⟨0x1800, 1, 0x02, 1, .us, .ro, 1000, 0, 4294967295, 1, none, .other, false, false⟩, -- Batch period in force
  ⟨0x1801, 1, 0x01, 1, .u32, .ro, 0, 0, 4294967295, 1, none, .other, false, false⟩, -- Batch number
  ⟨0x1801, 1, 0x02, 1, .ns64, .ro, 0, 0, 18446744073709551615, 1, none, .read, false, false⟩, -- Chain time now
  ⟨0x1801, 1, 0x03, 1, .ns64, .ro, 0, 0, 18446744073709551615, 1, none, .other, false, false⟩, -- Chain time of current boundary
  ⟨0x1802, 1, 0x01, 1, .u16, .ro, 0, 0, 65535, 1, none, .snap, false, false⟩, -- Time status
  ⟨0x1802, 1, 0x02, 1, .i32, .ro, 0, (-2147483648), 2147483647, 1, none, .other, true, false⟩, -- Chain time − GNSS time (lead only)
  ⟨0x1802, 1, 0x03, 1, .u32, .ro, 0, 0, 4294967295, 1, none, .snap, false, false⟩, -- Estimated time error
  ⟨0x1803, 1, 0x01, 1, .us, .rwb, 50, 10, 1000, 1, none, .other, false, false⟩, -- Holdover limit
  ⟨0x1803, 1, 0x02, 1, .u8, .rwb, 0, 0, 1, 1, none, .other, false, false⟩, -- Time-lost action
  ⟨0x1804, 1, 0x01, 1, .u32, .ro, 0, 0, 4294967295, 1, none, .snap, false, false⟩, -- Late tasks, total
  ⟨0x1804, 1, 0x02, 1, .u16, .rwb, 20, 1, 1000, 1, none, .other, false, false⟩, -- Consecutive-late limit
  ⟨0x1804, 1, 0x03, 1, .u8, .ro, 255, 0, 255, 1, none, .snap, false, false⟩, -- Last late outlet (local)
  ⟨0x1804, 1, 0x04, 1, .u32, .ro, 0, 0, 4294967295, 1, none, .snap, false, false⟩, -- Stale boom-state batches
  ⟨0x1805, 1, 0x01, 1, .u32, .ro, 0, 0, 4294967295, 1, none, .snap, false, false⟩ -- Phase D carry-overs
  ]

/-- Objects from index 0x1810 on (R59). -/
def objects181 : List ObjRow := [
  ⟨0x1810, 1, 0x01, 1, .u32, .rw, 4294967295, 0, 4294967295, 1, none, .other, true, false⟩, -- Named swap batch (lead only)
  ⟨0x1810, 1, 0x02, 1, .u32, .ro, 4294967295, 0, 4294967295, 1, none, .other, false, false⟩, -- Scheduled swap batch
  ⟨0x1810, 1, 0x03, 1, .u16, .ro, 0, 0, 65535, 1, none, .other, false, false⟩, -- Swap-set number
  ⟨0x1810, 1, 0x04, 1, .u8, .ro, 0, 0, 255, 1, none, .snap, false, false⟩, -- Swap state
  ⟨0x1810, 1, 0x05, 1, .u16, .ro, 0, 0, 65535, 1, none, .other, false, false⟩, -- Proof writes pending
  ⟨0x1810, 1, 0x06, 1, .u32, .ro, 4294967295, 0, 4294967295, 1, none, .other, false, false⟩, -- Last completed swap batch
  ⟨0x1810, 1, 0x07, 1, .u32, .ro, 0, 0, 4294967295, 1, none, .snap, false, false⟩, -- Postponements and cancels
  ⟨0x1811, 1, 0x01, 1, .bool, .wo, 0, 1, 1, 1, none, .other, true, false⟩ -- Cancel scheduled swap (lead only)
  ]

/-- Objects from index 0x1820 on (R59). -/
def objects182 : List ObjRow := [
  ⟨0x1820, 1, 0x01, 1, .bool, .rw, 0, 0, 1, 1, none, .other, false, false⟩, -- PPS enable
  ⟨0x1820, 1, 0x02, 1, .us, .rw, 100000, 1, 500000, 1, none, .other, false, false⟩, -- PPS width
  ⟨0x1820, 1, 0x03, 1, .bool, .rw, 0, 0, 1, 1, none, .other, false, false⟩, -- PPS polarity
  ⟨0x1821, 1, 0x01, 1, .u64, .ro, 0, 0, 18446744073709551615, 1, none, .read, false, false⟩, -- RTC time
  ⟨0x1821, 1, 0x02, 1, .i32, .cal, 0, (-100000), 100000, 1, none, .other, false, false⟩, -- RTC trim
  ⟨0x1821, 1, 0x03, 1, .u32, .ro, 4294967295, 0, 4294967295, 1, none, .snap, false, false⟩, -- RTC uncertainty
  ⟨0x1821, 1, 0x04, 1, .bool, .ro, 0, 0, 1, 1, none, .snap, false, false⟩ -- RTC valid
  ]

/-- Objects from index 0x2000 on (R89). -/
def objects200 : List ObjRow := [
  ⟨0x2000, 1, 0x01, 1, .u8, .rwb, 0, 0, 2, 1, none, .other, false, false⟩, -- Implement type
  ⟨0x2000, 1, 0x02, 1, .mm, .cal, 3000, 0, 6000, 1, none, .other, true, false⟩, -- Lead antenna height (lead only)
  ⟨0x2000, 1, 0x03, 1, .u8, .rwb, 2, 0, 5, 1, none, .other, false, false⟩, -- Minimum pose quality for automatic control
  ⟨0x2000, 1, 0x04, 1, .us, .rwb, 5000000, 0, 30000000, 1, none, .other, false, false⟩, -- Dead-reckoning limit
  ⟨0x2000, 1, 0x05, 1, .u32, .rwb, 300, 0, 5000, 1, none, .other, false, false⟩, -- Minimum outlet speed
  ⟨0x2001, 1, 0x01, 1, .mm, .ro, 0, (-2147483648), 2147483647, 1, none, .snap, false, false⟩, -- Reference point east
  ⟨0x2001, 1, 0x02, 1, .mm, .ro, 0, (-2147483648), 2147483647, 1, none, .snap, false, false⟩, -- Reference point north
  ⟨0x2001, 1, 0x03, 1, .mm, .ro, 0, (-2147483648), 2147483647, 1, none, .snap, false, false⟩, -- Reference point up
  ⟨0x2001, 1, 0x04, 1, .ang, .ro, 0, 0, 65535, 1, none, .snap, false, false⟩, -- Heading
  ⟨0x2001, 1, 0x05, 1, .i32, .ro, 0, (-2147483648), 2147483647, 1, none, .snap, false, false⟩, -- Speed
  ⟨0x2001, 1, 0x06, 1, .q16, .ro, 0, (-2147483648), 2147483647, 1, none, .snap, false, false⟩, -- Yaw rate
  ⟨0x2001, 1, 0x07, 1, .u8, .ro, 0, 0, 255, 1, none, .snap, false, false⟩, -- Pose quality
  ⟨0x2001, 1, 0x08, 1, .u32, .ro, 4294967295, 0, 4294967295, 1, none, .snap, false, false⟩, -- Horizontal 1σ
  ⟨0x2001, 1, 0x09, 1, .ns64, .ro, 0, 0, 18446744073709551615, 1, none, .snap, false, false⟩, -- Boom state time
  ⟨0x2001, 1, 0x0A, 1, .u16, .ro, 0, 0, 65535, 1, none, .snap, false, false⟩, -- Pose source status
  ⟨0x2001, 1, 0x0B, 1, .ang, .ro, 0, 0, 65535, 1, none, .snap, false, false⟩, -- Roll
  ⟨0x2001, 1, 0x0C, 1, .ang, .ro, 0, 0, 65535, 1, none, .snap, false, false⟩, -- Pitch
  ⟨0x2001, 1, 0x0D, 1, .i32, .ro, 0, (-2147483648), 2147483647, 1, none, .snap, false, false⟩, -- Longitudinal acceleration
  ⟨0x2001, 1, 0x0E, 1, .u32, .ro, 0, 0, 4294967295, 1, none, .snap, false, false⟩, -- Fixes discarded as too old
  ⟨0x2002, 1, 0x01, 1, .i32, .rwb, 0, (-900000000), 900000000, 1, none, .other, true, false⟩, -- Field reference latitude (lead only)
  ⟨0x2002, 1, 0x02, 1, .i32, .rwb, 0, (-1800000000), 1800000000, 1, none, .other, true, false⟩, -- Field reference longitude (lead only)
  ⟨0x2002, 1, 0x03, 1, .mm, .rwb, 0, (-10000000), 10000000, 1, none, .other, true, false⟩, -- Field reference ellipsoidal height (lead only)
  ⟨0x2003, 1, 0x01, 1, .u8, .rwb, 3, 0, 31, 1, none, .other, true, false⟩, -- Pose sources enabled (lead only)
  ⟨0x2003, 1, 0x02, 1, .ang, .cal, 0, 0, 65535, 1, none, .other, true, false⟩, -- IMU mounting yaw (lead only)
  ⟨0x2003, 1, 0x03, 1, .us, .rwb, 20000, 2000, 200000, 1, none, .other, true, false⟩, -- IMU timeout (lead only)
  ⟨0x2003, 1, 0x04, 1, .ang, .cal, 0, 0, 65535, 1, none, .other, true, false⟩, -- IMU mounting roll (lead only)
  ⟨0x2003, 1, 0x05, 1, .ang, .cal, 0, 0, 65535, 1, none, .other, true, false⟩, -- IMU mounting pitch (lead only)
  ⟨0x2003, 1, 0x08, 1, .q16, .rw, 0, (-2147483648), 2147483647, 1, none, .phaseA, false, false⟩, -- IMU yaw rate in
  ⟨0x2003, 1, 0x09, 1, .ang, .rw, 0, 0, 65535, 1, none, .phaseA, false, false⟩, -- IMU roll in
  ⟨0x2003, 1, 0x0A, 1, .ang, .rw, 0, 0, 65535, 1, none, .phaseA, false, false⟩, -- IMU pitch in
  ⟨0x2003, 1, 0x0B, 1, .i32, .rw, 0, (-2147483648), 2147483647, 1, none, .phaseA, false, false⟩, -- IMU longitudinal acceleration in
  ⟨0x2003, 1, 0x0C, 1, .ns64, .rw, 0, 0, 18446744073709551615, 1, none, .phaseA, false, false⟩, -- IMU sample time in
  ⟨0x2003, 1, 0x0D, 1, .u8, .rw, 0, 0, 255, 1, none, .phaseA, false, false⟩, -- IMU update count in
  ⟨0x2004, 1, 0x01, 1, .mm, .cal, 0, (-40000), 40000, 1, none, .other, false, false⟩, -- Own antenna x
  ⟨0x2004, 1, 0x02, 1, .mm, .cal, 0, (-40000), 40000, 1, none, .other, false, false⟩, -- Own antenna y
  ⟨0x2004, 1, 0x03, 1, .mm, .cal, 3000, 0, 6000, 1, none, .other, false, false⟩, -- Own antenna z
  ⟨0x2004, 1, 0x04, 1, .u8, .rwb, 0, 0, 15, 1, none, .other, false, false⟩ -- Own antenna segment
  ]

/-- Objects from index 0x2010 on (R89). -/
def objects201 : List ObjRow := [
  ⟨0x2010, 1, 0x01, 16, .domain, .rwb, 0, 40, 40, 1, none, .other, false, false⟩ -- Spray-pattern profiles 0 to 15
  ]

/-- Objects from index 0x2020 on (R89). -/
def objects202 : List ObjRow := [
  ⟨0x2020, 16, 0x01, 1, .u8, .rwb, 255, 0, 15, 1, some 255, .other, true, false⟩, -- Segment parent (lead only)
  ⟨0x2020, 16, 0x02, 1, .mm, .cal, 0, (-40000), 40000, 1, none, .other, true, false⟩, -- Hinge x (lead only)
  ⟨0x2020, 16, 0x03, 1, .mm, .cal, 0, (-40000), 40000, 1, none, .other, true, false⟩, -- Hinge y (lead only)
  ⟨0x2020, 16, 0x04, 1, .mm, .cal, 0, 0, 6000, 1, none, .other, true, false⟩, -- Hinge z (lead only)
  ⟨0x2020, 16, 0x05, 1, .ang, .cal, 0, 0, 65535, 1, none, .other, true, false⟩, -- Nominal yaw (lead only)
  ⟨0x2020, 16, 0x06, 1, .u8, .rwb, 0, 0, 2, 1, none, .other, true, false⟩, -- Flex source (lead only)
  ⟨0x2020, 16, 0x07, 1, .u8, .rwb, 0, 0, 31, 1, none, .other, true, false⟩, -- Flex chain position or AIN (lead only)
  ⟨0x2020, 16, 0x08, 1, .q16, .cal, 65536, (-2147418112), 2147418112, 1, none, .other, true, false⟩, -- Flex gain (lead only)
  ⟨0x2020, 16, 0x09, 1, .u8, .rwb, 0, 0, 2, 1, none, .other, true, false⟩, -- Height source (lead only)
  ⟨0x2020, 16, 0x0A, 1, .mm, .cal, 500, 100, 3000, 1, none, .other, true, false⟩, -- Fixed height (lead only)
  ⟨0x2020, 16, 0x0B, 1, .u8, .rwb, 0, 0, 15, 1, none, .other, true, false⟩, -- Height AIN channel (lead only)
  ⟨0x2020, 16, 0x0C, 1, .u8, .rwb, 255, 0, 7, 1, some 255, .other, true, false⟩, -- Fold input (lead only)
  ⟨0x2020, 16, 0x0D, 1, .mm, .rw, 0, 0, 3000, 1, none, .phaseA, true, false⟩, -- CAN-P height in (lead only)
  ⟨0x2020, 16, 0x0E, 1, .ang, .ro, 0, 0, 65535, 1, none, .snap, false, false⟩, -- Yaw deflection
  ⟨0x2020, 16, 0x0F, 1, .mm, .ro, 500, (-2147483648), 2147483647, 1, none, .snap, false, false⟩ -- Height
  ]

/-- Objects from index 0x2030 on (R89). -/
def objects203 : List ObjRow := [
  ⟨0x2030, 8, 0x01, 1, .u8, .rwb, 0, 0, 5, 1, none, .other, false, false⟩, -- FREQ function
  ⟨0x2030, 8, 0x02, 1, .u8, .rwb, 1, 0, 1, 1, none, .other, false, false⟩, -- FREQ threshold mode
  ⟨0x2030, 8, 0x03, 1, .u8, .rwb, 0, 0, 2, 1, none, .other, false, false⟩, -- FREQ pull
  ⟨0x2030, 8, 0x04, 1, .us, .rwb, 10, 0, 1000, 1, none, .other, false, false⟩, -- FREQ filter
  ⟨0x2030, 8, 0x05, 1, .q16, .cal, 65536, 66, 2147418112, 1, none, .other, false, false⟩, -- FREQ scale
  ⟨0x2030, 8, 0x06, 1, .us, .rwb, 500000, 10000, 5000000, 1, none, .other, false, false⟩, -- FREQ zero timeout
  ⟨0x2030, 8, 0x07, 1, .bool, .rwb, 0, 0, 1, 1, none, .other, false, false⟩, -- Quadrature (even inputs)
  ⟨0x2030, 8, 0x08, 1, .u32, .ro, 0, 0, 4294967295, 1, none, .snap, false, false⟩, -- FREQ count
  ⟨0x2030, 8, 0x09, 1, .u32, .ro, 0, 0, 4294967295, 1, none, .snap, false, false⟩, -- FREQ frequency
  ⟨0x2030, 8, 0x0A, 1, .i32, .ro, 0, (-2147483648), 2147483647, 1, none, .snap, false, false⟩ -- FREQ scaled value
  ]

/-- Objects from index 0x2040 on (R89). -/
def objects204 : List ObjRow := [
  ⟨0x2040, 16, 0x01, 1, .u8, .rwb, 0, 0, 4, 1, none, .other, false, false⟩, -- AIN function
  ⟨0x2040, 16, 0x02, 1, .u8, .rwb, 0, 0, 2, 1, none, .other, false, false⟩, -- AIN range
  ⟨0x2040, 16, 0x03, 1, .u8, .rwb, 0, 0, 2, 1, none, .other, false, false⟩, -- AIN reference
  ⟨0x2040, 16, 0x04, 1, .q16, .cal, 65536, (-2147418112), 2147418112, 1, none, .other, false, false⟩, -- AIN gain
  ⟨0x2040, 16, 0x05, 1, .i32, .cal, 0, 0, 4095, 1, none, .other, false, false⟩, -- AIN offset
  ⟨0x2040, 16, 0x06, 1, .u16, .ro, 0, 0, 65535, 1, none, .snap, false, false⟩, -- AIN mean
  ⟨0x2040, 16, 0x07, 1, .u32, .ro, 0, 0, 4294967295, 1, none, .snap, false, false⟩, -- AIN minimum and maximum
  ⟨0x2040, 16, 0x08, 1, .i32, .ro, 0, (-2147483648), 2147483647, 1, none, .snap, false, false⟩, -- AIN scaled value
  ⟨0x2040, 16, 0x09, 1, .bool, .ro, 0, 0, 1, 1, none, .snap, false, false⟩ -- AIN failed
  ]

/-- Objects from index 0x2050 on (R89). -/
def objects205 : List ObjRow := [
  ⟨0x2050, 1, 0x01, 8, .u8, .rwb, 0, 0, 4, 1, none, .other, false, false⟩, -- DIN0 to DIN7 function
  ⟨0x2050, 1, 0x09, 1, .us, .rwb, 20000, 0, 100000, 100, none, .other, false, false⟩, -- DIN debounce
  ⟨0x2050, 1, 0x0A, 1, .u8, .rwb, 1, 0, 1, 1, none, .other, false, false⟩, -- DIN threshold mode
  ⟨0x2050, 1, 0x0B, 1, .u8, .ro, 0, 0, 255, 1, none, .snap, false, false⟩, -- DIN states
  ⟨0x2058, 1, 0x01, 1, .bool, .rw, 1, 0, 1, 1, none, .other, false, false⟩, -- SNS5V0 enable
  ⟨0x2058, 1, 0x02, 1, .bool, .rw, 1, 0, 1, 1, none, .other, false, false⟩, -- SNS5V1 enable
  ⟨0x2058, 1, 0x03, 1, .u8, .ro, 0, 0, 255, 1, none, .snap, false, false⟩, -- Sensor supply status
  ⟨0x2058, 1, 0x04, 1, .u16, .ro, 0, 0, 65535, 1, none, .snap, false, false⟩, -- SNS5V0 current
  ⟨0x2058, 1, 0x05, 1, .u16, .ro, 0, 0, 65535, 1, none, .snap, false, false⟩ -- SNS5V1 current
  ]

/-- Objects from index 0x2100 on (R127). -/
def objects210 : List ObjRow := [
  ⟨0x2100, 1, 0x01, 1, .u8, .rwb, 0, 0, 1, 1, none, .other, false, true⟩, -- Section control mode (chain)
  ⟨0x2100, 1, 0x02, 1, .u8, .rwb, 0, 0, 1, 1, none, .other, false, true⟩, -- Rate control mode (chain)
  ⟨0x2100, 1, 0x03, 1, .us, .rwb, 2000, 445, 10000, 1, none, .other, false, true⟩, -- Scheduling margin (chain)
  ⟨0x2100, 1, 0x04, 1, .u8, .rwb, 7, 1, 14, 1, none, .other, false, true⟩, -- Dose switch level (chain)
  ⟨0x2100, 1, 0x05, 1, .u8, .rwb, 20, 1, 100, 1, none, .other, false, true⟩, -- Switch-on share (chain)
  ⟨0x2100, 1, 0x06, 1, .u8, .rwb, 5, 0, 99, 1, none, .other, false, true⟩, -- Switch-off share (chain)
  ⟨0x2100, 1, 0x07, 1, .mm, .rwb, 100, 10, 2000, 1, none, .other, false, true⟩, -- Sweep window length (chain)
  ⟨0x2100, 1, 0x08, 1, .u8, .rwb, 50, 0, 100, 1, none, .other, false, true⟩, -- Boundary share (chain)
  ⟨0x2100, 1, 0x09, 1, .mm, .rwb, 0, (-2000), 2000, 1, none, .other, false, true⟩, -- On-side tolerance (chain)
  ⟨0x2100, 1, 0x0A, 1, .mm, .rwb, 0, (-2000), 2000, 1, none, .other, false, true⟩, -- Off-side tolerance (chain)
  ⟨0x2100, 1, 0x0B, 1, .u8, .rwb, 1, 0, 1, 1, none, .other, false, true⟩, -- Headland action (chain)
  ⟨0x2100, 1, 0x0C, 1, .us, .rwb, 100000, 0, 5000000, 1, none, .other, false, true⟩, -- Minimum on time (chain)
  ⟨0x2100, 1, 0x0D, 1, .us, .rwb, 100000, 0, 5000000, 1, none, .other, false, true⟩, -- Minimum off time (chain)
  ⟨0x2100, 1, 0x0E, 1, .us, .rwb, 2000000, 0, 30000000, 1, none, .other, false, true⟩, -- Speed-lost hold time (chain)
  ⟨0x2100, 1, 0x0F, 1, .u16, .rwb, 0, 0, 10000, 1, none, .other, false, true⟩, -- Speed-lost duty (chain)
  ⟨0x2100, 1, 0x10, 1, .u8, .rwb, 32, 1, 255, 1, none, .other, false, true⟩, -- Learning weight (chain)
  ⟨0x2100, 1, 0x11, 1, .us, .rwb, 200, 0, 2000, 1, none, .other, false, true⟩, -- Peak guard (chain)
  ⟨0x2101, 1, 0x01, 8, .u32, .rw, 0, 0, 4294967295, 1, none, .phaseA, true, false⟩, -- Manual section states (lead only)
  ⟨0x2102, 1, 0x01, 1, .u32, .ro, 0, 0, 4294967295, 1, none, .snap, false, false⟩, -- Short-notice edges
  ⟨0x2102, 1, 0x02, 1, .u32, .ro, 0, 0, 4294967295, 1, none, .snap, false, false⟩, -- Edge overflows
  ⟨0x2102, 1, 0x03, 1, .u32, .ro, 0, 0, 4294967295, 1, none, .snap, false, false⟩, -- Edges outside placement limit
  ⟨0x2102, 1, 0x04, 1, .us, .ro, 0, 0, 4294967295, 1, none, .snap, false, false⟩, -- Largest collision displacement, last batch
  ⟨0x2102, 1, 0x05, 1, .u32, .ro, 0, 0, 4294967295, 1, none, .snap, false, false⟩ -- Power-die peak waits
  ]

/-- Objects from index 0x2110 on (R127). -/
def objects211 : List ObjRow := [
  ⟨0x2110, 1, 0x01, 4, .q16, .rwb, 6554, 66, 2147418112, 1, none, .other, false, false⟩, -- Product 0 to 3 scale
  ⟨0x2110, 1, 0x05, 4, .u16, .rwb, 0, 0, 65535, 1, none, .other, false, false⟩ -- Product 0 to 3 fallback rate
  ]

/-- Objects from index 0x2120 on (R127). -/
def objects212 : List ObjRow := [
  ⟨0x2120, 8, 0x00, 1, .domain, .rwb, 0, 40, 40, 1, none, .other, false, false⟩ -- Flow curves 0 to 7
  ]

/-- Objects from index 0x2130 on (R127). -/
def objects213 : List ObjRow := [
  ⟨0x2130, 4, 0x01, 1, .u8, .rwb, 0, 0, 2, 1, none, .other, false, false⟩, -- Loop feedback
  ⟨0x2130, 4, 0x02, 1, .u8, .rwb, 0, 0, 15, 1, none, .other, false, false⟩, -- Loop input
  ⟨0x2130, 4, 0x03, 1, .u32, .rwb, 0, 0, 4294967295, 1, none, .other, false, false⟩, -- Loop outlet mask
  ⟨0x2130, 4, 0x04, 1, .q16, .rwb, 13107, 0, 655360, 1, none, .other, false, false⟩, -- Loop kp
  ⟨0x2130, 4, 0x05, 1, .q16, .rwb, 32768, 0, 6553600, 1, none, .other, false, false⟩, -- Loop ki
  ⟨0x2130, 4, 0x06, 1, .q16, .rwb, 32768, 6554, 65536, 1, none, .other, false, false⟩, -- Trim minimum
  ⟨0x2130, 4, 0x07, 1, .q16, .rwb, 131072, 65536, 262144, 1, none, .other, false, false⟩, -- Trim maximum
  ⟨0x2130, 4, 0x08, 1, .us, .rwb, 500000, 0, 5000000, 1, none, .other, false, false⟩, -- Settle time
  ⟨0x2130, 4, 0x09, 1, .q16, .ro, 65536, (-2147483648), 2147483647, 1, none, .snap, false, false⟩, -- Trim now
  ⟨0x2130, 4, 0x0A, 1, .u32, .ro, 0, 0, 4294967295, 1, none, .snap, false, false⟩, -- Measured flow
  ⟨0x2130, 4, 0x0B, 1, .u8, .ro, 0, 0, 255, 1, none, .snap, false, false⟩ -- Loop state
  ]

/-- Objects from index 0x2200 on (R153). -/
def objects220 : List ObjRow := [
  ⟨0x2200, 1, 0x01, 1, .u8, .rwb, 1, 0, 2, 1, none, .other, false, true⟩, -- Cell size (chain)
  ⟨0x2200, 1, 0x02, 1, .u32, .rwb, 0, 0, 4294967295, 1, none, .other, false, true⟩, -- Field session (chain)
  ⟨0x2200, 1, 0x03, 1, .u8, .rwb, 1, 0, 2, 1, none, .other, false, true⟩, -- Map-miss policy (chain)
  ⟨0x2200, 1, 0x04, 1, .us, .rwb, 2000000, 0, 30000000, 1, none, .other, false, true⟩, -- Map-miss hold limit (chain)
  ⟨0x2200, 1, 0x05, 1, .mm, .rwb, 60000, 13000, 200000, 1, none, .other, true, false⟩, -- Page look-ahead (lead only)
  ⟨0x2200, 1, 0x06, 1, .u8, .rwb, 1, 0, 3, 1, none, .other, true, false⟩, -- Blank-tile class (lead only)
  ⟨0x2200, 1, 0x07, 1, .mm, .rwb, 20000, 0, 100000, 1, none, .other, false, true⟩, -- Cache look-ahead (chain)
  ⟨0x2200, 1, 0x08, 1, .u8, .rwb, 56, 8, 104, 1, none, .other, false, true⟩, -- Home slot budget (chain)
  ⟨0x2200, 1, 0x09, 1, .us, .rwb, 5000000, 500000, 60000000, 1, none, .other, true, false⟩, -- Write-back period (lead only)
  ⟨0x2200, 1, 0x0A, 1, .u8, .rwb, 0, 0, 1, 1, none, .other, true, false⟩, -- Paging path (lead only)
  ⟨0x2200, 1, 0x0B, 1, .us, .rwb, 1000000, 100000, 60000000, 1, none, .other, false, true⟩, -- As-applied period (chain)
  ⟨0x2200, 1, 0x0C, 1, .bool, .rwb, 0, 0, 1, 1, none, .other, false, true⟩, -- As-applied signing (chain)
  ⟨0x2201, 1, 0x01, 1, .u8, .ro, 0, 0, 255, 1, none, .snap, false, false⟩, -- Home copies held
  ⟨0x2201, 1, 0x02, 1, .u8, .ro, 0, 0, 255, 1, none, .snap, false, false⟩, -- Cached copies held
  ⟨0x2201, 1, 0x03, 1, .u8, .ro, 112, 0, 255, 1, none, .snap, false, false⟩, -- Free slots
  ⟨0x2201, 1, 0x04, 1, .u16, .ro, 0, 0, 65535, 1, none, .snap, true, false⟩, -- Window tiles (lead only)
  ⟨0x2201, 1, 0x05, 1, .u32, .ro, 0, 0, 4294967295, 1, none, .snap, false, false⟩, -- Map-miss outlet-batches
  ⟨0x2201, 1, 0x06, 1, .u32, .ro, 0, 0, 4294967295, 1, none, .snap, false, false⟩, -- Tiles paged in
  ⟨0x2201, 1, 0x07, 1, .u32, .ro, 0, 0, 4294967295, 1, none, .snap, false, false⟩, -- Tiles written back
  ⟨0x2201, 1, 0x08, 1, .u16, .ro, 0, 0, 65535, 1, none, .snap, false, false⟩, -- Write-backs unacknowledged
  ⟨0x2201, 1, 0x09, 1, .u16, .ro, 0, 0, 65535, 1, none, .snap, false, false⟩, -- Tile store status
  ⟨0x2201, 1, 0x0A, 1, .u32, .ro, 0, 0, 4294967295, 1, none, .snap, false, false⟩, -- Paint gaps
  ⟨0x2201, 1, 0x0B, 1, .u32, .ro, 0, 0, 4294967295, 1, none, .snap, false, false⟩, -- Last as-applied sequence closed
  ⟨0x2201, 1, 0x0C, 1, .u32, .ro, 0, 0, 4294967295, 1, none, .snap, false, false⟩, -- Last as-applied sequence acknowledged
  ⟨0x2201, 1, 0x0D, 1, .u32, .ro, 8192, 0, 4294967295, 1, none, .snap, false, false⟩, -- Resend depth in force
  ⟨0x2201, 1, 0x0E, 1, .u32, .ro, 0, 0, 4294967295, 1, none, .other, false, false⟩, -- Chain epoch
  ⟨0x2202, 1, 0x01, 1, .domain, .ro, 0, 0, 0, 1, none, .read, true, false⟩, -- Page request queue (lead only)
  ⟨0x2202, 1, 0x02, 1, .domain, .wo, 0, 0, 131072, 1, none, .other, true, false⟩, -- Tile in (lead only)
  ⟨0x2202, 1, 0x03, 1, .u32, .wo, 0, 0, 4294967295, 1, none, .other, true, false⟩, -- Tile absent (lead only)
  ⟨0x2202, 1, 0x04, 1, .domain, .ro, 0, 0, 0, 1, none, .read, true, false⟩, -- Next write-back (lead only)
  ⟨0x2202, 1, 0x05, 1, .domain, .wo, 0, 8, 8, 1, none, .other, true, false⟩, -- Write-back acknowledge (lead only)
  ⟨0x2202, 1, 0x06, 1, .domain, .ro, 0, 0, 0, 1, none, .read, true, false⟩, -- Next as-applied record (lead only)
  ⟨0x2202, 1, 0x07, 1, .domain, .wo, 0, 8, 8, 1, none, .other, true, false⟩, -- As-applied acknowledge (lead only)
  ⟨0x2203, 1, 0x01, 1, .domain, .ro, 0, 0, 0, 1, none, .read, false, false⟩, -- Tile read
  ⟨0x2203, 1, 0x02, 1, .u32, .rw, 0, 0, 4294967295, 1, none, .other, false, false⟩ -- Tile select
  ]

/-- Objects from index 0x2300 on (R172). -/
def objects230 : List ObjRow := [
  ⟨0x2300, 1, 0x01, 1, .bool, .rwb, 0, 0, 1, 1, none, .other, false, true⟩, -- Spot targets enable (chain)
  ⟨0x2300, 1, 0x02, 1, .us, .rwb, 200000, 10000, 250000, 1, none, .other, false, true⟩, -- Maximum target age (chain)
  ⟨0x2300, 1, 0x03, 1, .us, .rwb, 10000000, 1000000, 60000000, 1, none, .other, false, true⟩, -- Maximum pending time (chain)
  ⟨0x2300, 1, 0x04, 1, .us, .rwb, 30000, 0, 500000, 1, none, .other, false, true⟩, -- Merge gap (chain)
  ⟨0x2300, 1, 0x05, 1, .us, .rwb, 10000, 0, 500000, 1, none, .other, false, true⟩, -- Spot minimum on time (chain)
  ⟨0x2300, 1, 0x06, 1, .u8, .rwb, 50, 0, 100, 1, none, .other, false, true⟩, -- Late coverage share (chain)
  ⟨0x2300, 1, 0x07, 1, .mm, .rwb, 1000, 0, 5000, 1, none, .other, true, false⟩, -- Span widening (lead only)
  ⟨0x2300, 1, 0x08, 1, .u8, .rwb, 4, 0, 5, 1, none, .other, false, true⟩, -- Minimum pose quality for targets (chain)
  ⟨0x2301, 1, 0x01, 1, .domain, .wo, 0, 52, 712, 44, none, .other, true, false⟩, -- Target in (lead only)
  ⟨0x2301, 1, 0x02, 1, .u32, .ro, 0, 0, 4294967295, 1, none, .snap, true, false⟩, -- Last host sequence accepted (lead only)
  ⟨0x2302, 1, 0x01, 1, .domain, .ro, 0, 0, 0, 1, none, .read, true, false⟩, -- Next target result (lead only)
  ⟨0x2302, 1, 0x02, 1, .domain, .wo, 0, 8, 8, 1, none, .other, true, false⟩, -- Result acknowledge (lead only)
  ⟨0x2303, 1, 0x01, 1, .u16, .ro, 0, 0, 65535, 1, none, .snap, false, false⟩, -- Pending shares
  ⟨0x2303, 1, 0x02, 1, .u32, .ro, 0, 0, 4294967295, 1, none, .snap, false, false⟩, -- Targets accepted
  ⟨0x2303, 1, 0x03, 1, .u32, .ro, 0, 0, 4294967295, 1, none, .snap, false, false⟩, -- Shares applied
  ⟨0x2303, 1, 0x04, 1, .u32, .ro, 0, 0, 4294967295, 1, none, .snap, false, false⟩, -- Shares closed not applied
  ⟨0x2303, 1, 0x05, 1, .u16, .ro, 0, 0, 65535, 1, none, .snap, false, false⟩, -- Target intake status
  ⟨0x2303, 1, 0x06, 1, .u16, .ro, 0, 0, 65535, 1, none, .snap, false, false⟩, -- Shares awaiting credit
  ⟨0x2303, 1, 0x07, 1, .u16, .ro, 0, 0, 65535, 1, none, .snap, false, false⟩, -- Records taken, last second
  ⟨0x2303, 1, 0x08, 1, .u32, .ro, 0, 0, 4294967295, 1, none, .snap, false, false⟩ -- Records rejected
  ]

/-- Objects from index 0x2310 on (R172). -/
def objects231 : List ObjRow := [
  ⟨0x2310, 16, 0x01, 1, .bool, .rwb, 1, 0, 1, 1, none, .other, false, true⟩, -- Class enable (chain)
  ⟨0x2310, 16, 0x02, 1, .u8, .rwb, 0, 0, 3, 1, none, .other, false, true⟩, -- Product (chain)
  ⟨0x2310, 16, 0x03, 1, .u16, .rwb, 65535, 0, 65535, 1, none, .other, false, true⟩, -- Class rate (chain)
  ⟨0x2310, 16, 0x04, 1, .mm, .rwb, 100, 0, 2000, 1, none, .other, false, true⟩, -- Lead margin (chain)
  ⟨0x2310, 16, 0x05, 1, .mm, .rwb, 100, 0, 2000, 1, none, .other, false, true⟩, -- Lag margin (chain)
  ⟨0x2310, 16, 0x06, 1, .mm, .rwb, 50, 0, 1000, 1, none, .other, false, true⟩ -- Lateral margin (chain)
  ]

/-- Objects from index 0x2400 on (R190). -/
def objects240 : List ObjRow := [
  ⟨0x2400, 1, 0x01, 1, .u8, .ro, 64, 0, 255, 1, none, .snap, false, false⟩, -- Working drays
  ⟨0x2400, 1, 0x02, 1, .u64, .ro, 0, 0, 18446744073709551615, 1, none, .snap, false, false⟩, -- Retired dray map
  ⟨0x2400, 1, 0x03, 1, .u64, .ro, 0, 0, 18446744073709551615, 1, none, .snap, false, false⟩, -- Quarantined dray map
  ⟨0x2400, 1, 0x04, 1, .u32, .ro, 1404, 0, 4294967295, 1, none, .snap, false, false⟩, -- Rated Phase B work
  ⟨0x2400, 1, 0x05, 1, .u32, .ro, 0, 0, 4294967295, 1, none, .snap, false, false⟩, -- Phase B work, last batch
  ⟨0x2400, 1, 0x06, 1, .u32, .ro, 0, 0, 4294967295, 1, none, .snap, false, false⟩, -- Peak Phase B work, last 1,000 batches
  ⟨0x2400, 1, 0x07, 1, .us, .ro, 0, 0, 4294967295, 1, none, .snap, false, false⟩, -- Phase B finish, last batch
  ⟨0x2400, 1, 0x08, 1, .us, .ro, 0, 0, 4294967295, 1, none, .snap, false, false⟩, -- Latest Phase B finish, last 1,000 batches
  ⟨0x2400, 1, 0x09, 1, .q16, .ro, 0, (-2147483648), 2147483647, 1, none, .snap, false, false⟩, -- Mean dray rate, last batch
  ⟨0x2400, 1, 0x0A, 1, .u32, .ro, 0, 0, 4294967295, 1, none, .snap, false, false⟩, -- Steals, last batch
  ⟨0x2400, 1, 0x0B, 1, .u32, .ro, 0, 0, 4294967295, 1, none, .snap, false, false⟩, -- Steals, total
  ⟨0x2400, 1, 0x0C, 1, .u16, .ro, 0, 0, 65535, 1, none, .snap, false, false⟩, -- Tasks dispatched, last batch
  ⟨0x2400, 1, 0x0D, 1, .u16, .ro, 0, 0, 65535, 1, none, .snap, false, false⟩, -- Late results, last batch
  ⟨0x2400, 1, 0x0E, 1, .u16, .ro, 0, 0, 65535, 1, none, .snap, false, false⟩, -- Array status
  ⟨0x2401, 1, 0x01, 1, .u8, .rwb, 80, 10, 100, 1, none, .other, false, false⟩, -- Headroom warning level
  ⟨0x2401, 1, 0x02, 1, .bool, .rwb, 1, 0, 1, 1, none, .other, false, false⟩, -- Audit enable
  ⟨0x2401, 1, 0x03, 1, .u8, .rwb, 4, 1, 16, 1, none, .other, false, false⟩, -- Audit tasks per batch
  ⟨0x2401, 1, 0x04, 1, .bool, .rwb, 1, 0, 1, 1, none, .other, false, false⟩, -- Stealing enable
  ⟨0x2402, 1, 0x01, 1, .u8, .rw, 0, 0, 63, 1, none, .other, false, false⟩, -- Dray select
  ⟨0x2402, 1, 0x02, 1, .u8, .ro, 0, 0, 255, 1, none, .snap, false, false⟩, -- Selected dray state
  ⟨0x2402, 1, 0x03, 1, .u16, .ro, 0, 0, 65535, 1, none, .snap, false, false⟩, -- Selected dray quarantines
  ⟨0x2402, 1, 0x04, 1, .u8, .ro, 0, 0, 255, 1, none, .snap, false, false⟩, -- Selected dray last fault cause
  ⟨0x2402, 1, 0x05, 1, .u32, .ro, 0, 0, 4294967295, 1, none, .snap, false, false⟩, -- Selected dray tasks run
  ⟨0x2402, 1, 0x06, 1, .domain, .ro, 0, 0, 0, 1, none, .snap, false, false⟩, -- Selected dray queue
  ⟨0x2402, 1, 0x07, 1, .bool, .wo, 0, 1, 1, 1, none, .other, false, false⟩, -- Re-test selected dray
  ⟨0x2403, 1, 0x01, 1, .u32, .ro, 0, 0, 4294967295, 1, none, .snap, false, false⟩, -- Local SRAM corrections
  ⟨0x2403, 1, 0x02, 1, .u32, .ro, 0, 0, 4294967295, 1, none, .snap, false, false⟩, -- Aborted tasks
  ⟨0x2403, 1, 0x03, 1, .u32, .ro, 0, 0, 4294967295, 1, none, .snap, false, false⟩, -- Retries that ended on time
  ⟨0x2403, 1, 0x04, 1, .u32, .ro, 0, 0, 4294967295, 1, none, .snap, false, false⟩ -- Audit mismatches
  ]

/-- Objects from index 0x2500 on (R218). -/
def objects250 : List ObjRow := [
  ⟨0x2500, 1, 0x01, 1, .bool, .rwb, 1, 0, 1, 1, none, .other, false, false⟩, -- Valve drive enable
  ⟨0x2500, 1, 0x02, 1, .us, .rwb, 100000, 10000, 1000000, 1, none, .other, false, false⟩, -- Off-state test period
  ⟨0x2500, 1, 0x03, 1, .bool, .rwb, 1, 0, 1, 1, none, .other, false, false⟩, -- Test pulse enable
  ⟨0x2500, 1, 0x04, 1, .u16, .rwb, 300, 100, 3000, 1, none, .other, false, false⟩, -- Throttle hold floor
  ⟨0x2500, 1, 0x05, 1, .u16, .ro, 0, 0, 65535, 1, none, .snap, false, false⟩, -- Drive status
  ⟨0x2500, 1, 0x06, 1, .u32, .ro, 0, 0, 4294967295, 1, none, .snap, false, false⟩, -- Retired channel map
  ⟨0x2500, 1, 0x07, 1, .u8, .wo, 0, 0, 31, 1, none, .other, false, false⟩, -- Return channel to service
  ⟨0x2500, 1, 0x08, 1, .u16, .ro, 0, 0, 65535, 1, none, .snap, false, false⟩, -- VBAT1 voltage
  ⟨0x2500, 1, 0x09, 1, .u16, .ro, 0, 0, 65535, 1, none, .snap, false, false⟩, -- VBAT2 voltage
  ⟨0x2508, 1, 0x01, 1, .bool, .rwb, 0, 0, 1, 1, none, .other, false, false⟩, -- Boost enable
  ⟨0x2508, 1, 0x02, 1, .u32, .rwb, 48000, 24000, 60000, 1, none, .other, false, false⟩, -- Boost target
  ⟨0x2508, 1, 0x03, 1, .u32, .rwb, 250000, 100000, 500000, 1, none, .other, false, false⟩, -- Boost switching frequency
  ⟨0x2508, 1, 0x04, 1, .u16, .rwb, 100, 50, 200, 1, none, .other, false, false⟩, -- BSTS current threshold
  ⟨0x2508, 1, 0x05, 1, .u8, .rwb, 90, 70, 98, 1, none, .other, false, false⟩, -- Boost-ready share
  ⟨0x2508, 1, 0x06, 1, .u32, .ro, 0, 0, 4294967295, 1, none, .snap, false, false⟩, -- VBST
  ⟨0x2508, 1, 0x07, 1, .u8, .ro, 0, 0, 255, 1, none, .snap, false, false⟩, -- Boost status
  ⟨0x2508, 1, 0x08, 1, .u32, .ro, 0, 0, 4294967295, 1, none, .snap, false, false⟩, -- Boost-not-ready events
  ⟨0x2501, 4, 0x01, 1, .u8, .rwb, 0, 0, 1, 1, none, .other, false, false⟩, -- Peak source
  ⟨0x2501, 4, 0x02, 1, .u32, .rwb, 20000, 5000, 50000, 1, none, .other, false, false⟩, -- Hold chopping frequency
  ⟨0x2501, 4, 0x03, 1, .us, .rwb, 100000, 10000, 100000, 1, none, .other, false, false⟩, -- Generator 0 period
  ⟨0x2501, 4, 0x04, 1, .us, .rwb, 100000, 10000, 100000, 1, none, .other, false, false⟩, -- Generator 1 period
  ⟨0x2501, 4, 0x05, 1, .u8, .rwb, 0, 0, 1, 1, none, .other, false, false⟩, -- Boost-not-ready action
  ⟨0x2501, 4, 0x06, 1, .u8, .rwb, 0, 0, 1, 1, none, .other, false, false⟩, -- Short-to-ground action
  ⟨0x2501, 4, 0x07, 4, .u16, .cal, 0, 5, 500, 1, none, .other, false, false⟩, -- Dip threshold, bands 0 to 3
  ⟨0x2501, 4, 0x0B, 4, .u16, .cal, 0, 20, 2000, 1, none, .other, false, false⟩, -- Release threshold, bands 0 to 3
  ⟨0x2501, 4, 0x0F, 4, .q16, .cal, 0, 32768, 131072, 1, none, .other, false, false⟩, -- Coil-resistance factor, bands 0 to 3
  ⟨0x2501, 4, 0x13, 1, .u16, .ro, 0, 0, 65535, 1, none, .snap, false, false⟩, -- Bank status
  ⟨0x2501, 4, 0x14, 1, .u16, .ro, 0, 0, 65535, 1, none, .snap, false, false⟩, -- High-side current
  ⟨0x2501, 4, 0x15, 1, .u16, .ro, 0, 0, 65535, 1, none, .snap, false, false⟩, -- Shunt current
  ⟨0x2501, 4, 0x16, 1, .u16, .ro, 0, 0, 65535, 1, none, .snap, false, false⟩, -- Mirror sum, factory gain
  ⟨0x2501, 4, 0x17, 1, .q16, .ro, 65536, (-2147483648), 2147483647, 1, none, .snap, false, false⟩, -- Sense trim
  ⟨0x2501, 4, 0x18, 1, .u8, .ro, 1, 0, 255, 1, none, .other, false, false⟩, -- Temperature band
  ⟨0x2501, 4, 0x19, 1, .u32, .ro, 0, 0, 4294967295, 1, none, .snap, false, false⟩, -- Peak waits
  ⟨0x2501, 4, 0x1A, 1, .u32, .cal, 5000, 1000, 20000, 1, none, .other, false, false⟩ -- Shunt value
  ]

/-- Objects from index 0x2600 on (R235). -/
def objects260 : List ObjRow := [
  ⟨0x2600, 1, 0x01, 1, .bool, .rwb, 1, 0, 1, 1, none, .other, false, false⟩, -- Load switch enable
  ⟨0x2600, 1, 0x02, 1, .us, .rwb, 100000, 10000, 1000000, 1, none, .other, false, false⟩, -- Off-state test period
  ⟨0x2600, 1, 0x03, 1, .u8, .ro, 0, 0, 255, 1, none, .snap, false, false⟩, -- Switch status summary
  ⟨0x2600, 1, 0x04, 1, .u8, .rw, 0, 0, 255, 1, none, .phaseA, false, false⟩, -- Commanded mask
  ⟨0x2600, 1, 0x05, 1, .u8, .ro, 0, 0, 255, 1, none, .snap, false, false⟩, -- Actual mask
  ⟨0x2600, 1, 0x06, 1, .u8, .ro, 0, 0, 255, 1, none, .snap, false, false⟩, -- Limp-home inputs
  ⟨0x2600, 1, 0x07, 1, .u32, .cal, 0, 0, 4294967295, 1, none, .other, false, false⟩, -- Limp-home mapping
  ⟨0x2600, 1, 0x08, 1, .u32, .ro, 0, 0, 4294967295, 1, none, .snap, false, false⟩, -- Mapping in power die
  ⟨0x2600, 1, 0x09, 1, .u8, .ro, 0, 0, 255, 1, none, .snap, false, false⟩, -- Mapping store status
  ⟨0x2600, 1, 0x0A, 1, .u16, .ro, 0, 0, 65535, 1, none, .snap, false, false⟩, -- Mapping writes used
  ⟨0x2600, 1, 0x0B, 1, .u32, .ro, 0, 0, 4294967295, 1, none, .snap, false, false⟩, -- Limp-home entries
  ⟨0x2600, 1, 0x0C, 1, .u8, .cal, 0, 0, 255, 1, none, .other, false, false⟩ -- Start-up mask
  ]

/-- Objects from index 0x2610 on (R235). -/
def objects261 : List ObjRow := [
  ⟨0x2610, 8, 0x01, 1, .u8, .rwb, 1, 0, 2, 1, none, .other, false, false⟩, -- Mode
  ⟨0x2610, 8, 0x02, 1, .u8, .rwb, 0, 0, 7, 1, none, .other, false, false⟩, -- Generator
  ⟨0x2610, 8, 0x03, 1, .u16, .rw, 10000, 0, 10000, 1, none, .other, false, false⟩, -- Duty
  ⟨0x2610, 8, 0x04, 1, .u8, .rwb, 0, 0, 1, 1, none, .other, false, false⟩, -- Current-limit level
  ⟨0x2610, 8, 0x05, 1, .us, .rwb, 10000, 100, 100000, 1, none, .other, false, false⟩, -- Limit time
  ⟨0x2610, 8, 0x06, 1, .u16, .rwb, 50, 20, 2000, 1, none, .other, false, false⟩, -- Open-load threshold, on
  ⟨0x2610, 8, 0x07, 1, .bool, .rwb, 1, 0, 1, 1, none, .other, false, false⟩, -- Off-state test enable
  ⟨0x2610, 8, 0x08, 1, .bool, .rw, 0, 0, 1, 1, none, .phaseA, false, false⟩, -- Commanded state
  ⟨0x2610, 8, 0x09, 1, .bool, .ro, 0, 0, 1, 1, none, .snap, false, false⟩, -- Actual state
  ⟨0x2610, 8, 0x0A, 1, .u16, .ro, 0, 0, 65535, 1, none, .snap, false, false⟩, -- Switch status
  ⟨0x2610, 8, 0x0B, 1, .u16, .ro, 0, 0, 65535, 1, none, .snap, false, false⟩, -- Load current
  ⟨0x2610, 8, 0x0C, 1, .u16, .ro, 0, 0, 65535, 1, none, .snap, false, false⟩, -- Output voltage
  ⟨0x2610, 8, 0x0D, 1, .u32, .ro, 0, 0, 4294967295, 1, none, .snap, false, false⟩, -- Trips, total
  ⟨0x2618, 8, 0x01, 1, .us, .rwb, 5000, 250, 2000000, 1, none, .other, false, false⟩, -- Generator period
  ⟨0x2618, 8, 0x02, 1, .us, .rwb, 0, 0, 1999999, 1, none, .other, false, false⟩ -- Generator phase
  ]

/-- Objects from index 0x2700 on (R256). -/
def objects270 : List ObjRow := [
  ⟨0x2700, 1, 0x01, 1, .bool, .rwb, 1, 0, 1, 1, none, .other, false, false⟩, -- Bridge PWM enable
  ⟨0x2700, 1, 0x02, 1, .u16, .ro, 0, 0, 65535, 1, none, .snap, false, false⟩, -- Generator status
  ⟨0x2700, 1, 0x03, 1, .u16, .rw, 0, 0, 65535, 1, none, .phaseA, false, false⟩, -- Load-all mask
  ⟨0x2700, 1, 0x04, 1, .u8, .ro, 32, 0, 255, 1, none, .snap, false, false⟩, -- Delay-line taps per tick
  ⟨0x2700, 1, 0x05, 1, .u32, .ro, 0, 0, 4294967295, 1, none, .snap, false, false⟩, -- Calibration failures
  ⟨0x2700, 1, 0x06, 1, .u32, .ro, 0, 0, 4294967295, 1, none, .snap, false, false⟩, -- Interlock events, all pairs
  ⟨0x2700, 1, 0x07, 1, .u16, .ro, 0, 0, 65535, 1, none, .snap, false, false⟩, -- Faulted pair map
  ⟨0x2700, 1, 0x08, 1, .u8, .wo, 0, 0, 15, 1, none, .other, false, false⟩, -- Return pair to service
  ⟨0x2700, 1, 0x09, 4, .u16, .cal, 0, 0, 200, 1, none, .other, false, false⟩ -- Dead-time floor, bands 0 to 3
  ]

/-- Objects from index 0x2710 on (R256). -/
def objects271 : List ObjRow := [
  ⟨0x2710, 16, 0x01, 1, .u8, .rwb, 0, 0, 2, 1, none, .other, false, false⟩, -- Mode
  ⟨0x2710, 16, 0x02, 1, .u8, .rwb, 0, 0, 1, 1, none, .other, false, false⟩, -- Counter mode
  ⟨0x2710, 16, 0x03, 1, .u8, .rwb, 0, 0, 1, 1, none, .other, false, false⟩, -- Bridge rail
  ⟨0x2710, 16, 0x04, 1, .u16, .rwb, 50, 0, 1000, 1, none, .other, false, false⟩, -- Dead-time minimum
  ⟨0x2710, 16, 0x05, 1, .u16, .rwb, 500, 8, 4000, 1, none, .other, false, false⟩, -- Dead-time maximum
  ⟨0x2710, 16, 0x06, 1, .u16, .rwb, 8, 0, 100, 1, none, .other, false, false⟩, -- Dead-time margin
  ⟨0x2710, 16, 0x07, 1, .u8, .rwb, 255, 0, 3, 1, some 255, .other, false, false⟩, -- Fault input
  ⟨0x2710, 16, 0x08, 1, .u8, .rwb, 0, 0, 1, 1, none, .other, false, false⟩, -- Fault action
  ⟨0x2710, 16, 0x09, 1, .u16, .rw, 12500, 64, 65535, 1, none, .other, false, false⟩, -- Staged period
  ⟨0x2710, 16, 0x0A, 1, .u16, .rw, 0, 0, 65535, 1, none, .other, false, false⟩, -- Staged phase
  ⟨0x2710, 16, 0x0B, 1, .u32, .rw, 0, 0, 2097151, 1, none, .other, false, false⟩, -- Staged compare
  ⟨0x2710, 16, 0x0C, 1, .u8, .rw, 0, 0, 10, 1, none, .other, false, false⟩, -- Force
  ⟨0x2710, 16, 0x0D, 1, .u16, .ro, 0, 0, 65535, 1, none, .snap, false, false⟩, -- Period in force
  ⟨0x2710, 16, 0x0E, 1, .u32, .ro, 0, 0, 4294967295, 1, none, .snap, false, false⟩, -- Compare in force
  ⟨0x2710, 16, 0x0F, 1, .u16, .ro, 0, 0, 65535, 1, none, .snap, false, false⟩, -- Phase in force
  ⟨0x2710, 16, 0x10, 1, .u16, .ro, 256, 0, 65535, 1, none, .snap, false, false⟩, -- Pair status
  ⟨0x2710, 16, 0x11, 1, .u16, .ro, 0, 0, 65535, 1, none, .snap, false, false⟩, -- Last H-to-L dead time
  ⟨0x2710, 16, 0x12, 1, .u16, .ro, 0, 0, 65535, 1, none, .snap, false, false⟩, -- Last L-to-H dead time
  ⟨0x2710, 16, 0x13, 1, .u32, .ro, 0, 0, 4294967295, 1, none, .snap, false, false⟩, -- Interlock events
  ⟨0x2710, 16, 0x14, 1, .u32, .ro, 0, 0, 4294967295, 1, none, .snap, false, false⟩, -- Fault-cut periods
  ⟨0x2710, 16, 0x15, 1, .u32, .ro, 0, 0, 4294967295, 1, none, .snap, false, false⟩ -- Dropped requests
  ]

/-- Objects from index 0x2720 on (R256). -/
def objects272 : List ObjRow := [
  ⟨0x2720, 4, 0x01, 1, .u8, .rwb, 255, 0, 31, 1, some 255, .other, false, false⟩, -- Slot axis
  ⟨0x2720, 4, 0x02, 1, .u8, .rwb, 0, 0, 1, 1, none, .other, false, false⟩, -- Sine table
  ⟨0x2720, 4, 0x03, 1, .u16, .rw, 5000, 0, 10000, 1, none, .other, false, false⟩, -- Amplitude
  ⟨0x2720, 4, 0x04, 1, .u16, .ro, 0, 0, 65535, 1, none, .snap, false, false⟩, -- Address in force
  ⟨0x2720, 4, 0x05, 1, .u16, .rwb, 12500, 64, 65535, 1, none, .other, false, false⟩, -- Slot period
  ⟨0x2720, 4, 0x06, 1, .u16, .rwb, 0, 0, 65535, 1, none, .other, false, false⟩, -- Slot phase
  ⟨0x2720, 4, 0x07, 1, .u8, .rwb, 1, 0, 1, 1, none, .other, false, false⟩, -- Slot counter mode
  ⟨0x2728, 1, 0x00, 1, .domain, .rwb, 0, 2048, 2048, 1, none, .other, false, false⟩, -- Sine table 0
  ⟨0x2729, 1, 0x00, 1, .domain, .rwb, 0, 2048, 2048, 1, none, .other, false, false⟩ -- Sine table 1
  ]

/-- Objects from index 0x2800 on (R275). -/
def objects280 : List ObjRow := [
  ⟨0x2800, 1, 0x01, 1, .bool, .rwb, 1, 0, 1, 1, none, .other, false, false⟩, -- Motion enable
  ⟨0x2800, 1, 0x02, 1, .us, .rwb, 400, 200, 2000, 25, none, .other, false, false⟩, -- Guest lead
  ⟨0x2800, 1, 0x03, 1, .u8, .rwb, 0, 0, 3, 1, none, .other, false, false⟩, -- STEP and DIR threshold mode
  ⟨0x2800, 1, 0x04, 1, .u8, .rwb, 255, 0, 31, 1, some 255, .other, false, false⟩, -- Coarse-step axis
  ⟨0x2800, 1, 0x05, 1, .us, .rwb, 1, 0, 100, 1, none, .other, false, false⟩, -- STEP filter
  ⟨0x2800, 1, 0x06, 1, .u32, .ro, 0, 0, 4294967295, 1, none, .snap, false, false⟩ -- Coarse steps received
  ]

/-- Objects from index 0x2810 on (R275). -/
def objects281 : List ObjRow := [
  ⟨0x2810, 32, 0x01, 1, .u8, .rwb, 0, 0, 3, 1, none, .other, false, false⟩, -- Axis mode
  ⟨0x2810, 32, 0x02, 1, .u8, .rwb, 0, 0, 2, 1, none, .other, false, false⟩, -- Destination
  ⟨0x2810, 32, 0x03, 1, .u8, .rwb, 255, 0, 15, 1, some 255, .other, false, false⟩, -- Guest number
  ⟨0x2810, 32, 0x04, 1, .u8, .rwb, 0, 0, 7, 1, none, .other, false, false⟩, -- Guest channel
  ⟨0x2810, 32, 0x05, 1, .u32, .rwb, 1024, 0, 1024000, 1, none, .other, false, false⟩, -- Start speed
  ⟨0x2810, 32, 0x06, 1, .u32, .rwb, 1024, 0, 1024000, 1, none, .other, false, false⟩, -- Stop speed
  ⟨0x2810, 32, 0x07, 1, .u32, .rwb, 102400, 0, 10240000, 1, none, .other, false, false⟩, -- Break speed
  ⟨0x2810, 32, 0x08, 1, .u32, .rwb, 16384000, 1000, 100000000, 1, none, .other, false, false⟩, -- Acceleration a1
  ⟨0x2810, 32, 0x09, 1, .u32, .rwb, 8192000, 1000, 100000000, 1, none, .other, false, false⟩, -- Acceleration a2
  ⟨0x2810, 32, 0x0A, 1, .u32, .rwb, 2048000, 1024, 10240000, 1, none, .other, false, false⟩, -- Maximum speed
  ⟨0x2810, 32, 0x0B, 1, .u8, .rwb, 1, 0, 2, 1, none, .other, false, false⟩, -- Blend kind
  ⟨0x2810, 32, 0x0C, 1, .us, .rwb, 2000, 0, 50000, 1, none, .other, false, false⟩, -- Blend time
  ⟨0x2810, 32, 0x0D, 1, .u32, .rwb, 50000000, 1000, 200000000, 1, none, .other, false, false⟩, -- Quick-stop deceleration
  ⟨0x2810, 32, 0x0E, 1, .u16, .cal, 50, 1, 1000, 1, none, .other, false, false⟩, -- Electrical cycles per motor revolution
  ⟨0x2810, 32, 0x0F, 1, .q16, .cal, 65536, 655, 65536000, 1, none, .other, false, false⟩, -- Gear ratio
  ⟨0x2810, 32, 0x10, 1, .u16, .cal, 30, 1, 1000, 1, none, .other, false, false⟩, -- Seeds per meter revolution
  ⟨0x2810, 32, 0x11, 1, .bool, .rwb, 0, 0, 1, 1, none, .other, false, false⟩, -- Direction invert
  ⟨0x2810, 32, 0x12, 1, .i32, .rw, 0, (-2147483648), 2147483647, 1, none, .other, false, false⟩, -- Move target
  ⟨0x2810, 32, 0x13, 1, .u8, .wo, 0, 1, 5, 1, none, .other, false, false⟩, -- Move command
  ⟨0x2810, 32, 0x14, 1, .i32, .rw, 0, (-2147483648), 2147483647, 1, none, .other, false, false⟩, -- Position
  ⟨0x2810, 32, 0x15, 1, .i32, .ro, 0, (-2147483648), 2147483647, 1, none, .snap, false, false⟩, -- Speed now
  ⟨0x2810, 32, 0x16, 1, .i32, .ro, 0, (-2147483648), 2147483647, 1, none, .snap, false, false⟩, -- Remaining distance
  ⟨0x2810, 32, 0x17, 1, .u8, .ro, 0, 0, 255, 1, none, .snap, false, false⟩, -- Axis state
  ⟨0x2810, 32, 0x18, 1, .u16, .ro, 0, 0, 65535, 1, none, .snap, false, false⟩, -- Axis status
  ⟨0x2810, 32, 0x19, 1, .u32, .ro, 0, 0, 4294967295, 1, none, .snap, false, false⟩, -- Seeds, total
  ⟨0x2810, 32, 0x1A, 1, .u16, .ro, 0, 0, 65535, 1, none, .snap, false, false⟩, -- Microstep address
  ⟨0x2810, 32, 0x1B, 1, .u16, .rwb, 256, 1, 1024, 1, none, .other, false, false⟩, -- Coarse step size
  ⟨0x2810, 32, 0x1C, 1, .us, .rwb, 100000, 1000, 1000000, 1, none, .other, false, false⟩ -- Coarse step timeout
  ]

/-- Objects from index 0x2900 on (R301). -/
def objects290 : List ObjRow := [
  ⟨0x2900, 1, 0x01, 1, .u32, .rwb, 100, 10, 100000, 1, none, .other, false, false⟩, -- Error-rate threshold
  ⟨0x2900, 1, 0x02, 1, .u8, .ro, 0, 0, 255, 1, none, .snap, false, false⟩, -- Retired lane map
  ⟨0x2900, 1, 0x03, 1, .u8, .wo, 0, 0, 3, 1, none, .other, false, false⟩, -- Re-test retired lane
  ⟨0x2900, 1, 0x04, 1, .u8, .ro, 1, 0, 255, 1, none, .other, false, false⟩, -- Equaliser band
  ⟨0x2900, 1, 0x05, 1, .u16, .ro, 0, 0, 65535, 1, none, .snap, false, false⟩ -- Link status
  ]

/-- Objects from index 0x2910 on (R301). -/
def objects291 : List ObjRow := [
  ⟨0x2910, 2, 0x01, 1, .bool, .rwb, 1, 0, 1, 1, none, .other, false, false⟩, -- Port enable
  ⟨0x2910, 2, 0x02, 1, .u8, .rwb, 2, 1, 2, 1, none, .other, false, false⟩, -- Lanes allowed
  ⟨0x2910, 2, 0x03, 1, .u8, .ro, 0, 0, 255, 1, none, .snap, false, false⟩, -- Port state
  ⟨0x2910, 2, 0x04, 1, .u8, .ro, 3, 0, 255, 1, none, .snap, false, false⟩, -- Transmit mode
  ⟨0x2910, 2, 0x05, 1, .u8, .ro, 0, 0, 255, 1, none, .snap, false, false⟩, -- Far-end link state
  ⟨0x2910, 2, 0x06, 1, .u32, .ro, 0, 0, 4294967295, 1, none, .snap, false, false⟩, -- Messages replayed
  ⟨0x2910, 2, 0x07, 1, .u32, .ro, 0, 0, 4294967295, 1, none, .snap, false, false⟩, -- Messages undeliverable
  ⟨0x2910, 2, 0x08, 1, .u32, .ro, 0, 0, 4294967295, 1, none, .snap, false, false⟩, -- Guest messages dropped
  ⟨0x2910, 2, 0x09, 1, .u32, .ro, 0, 0, 4294967295, 1, none, .snap, false, false⟩, -- Busy acknowledgements received
  ⟨0x2910, 2, 0x0A, 1, .i8, .ro, 0, (-128), 127, 1, none, .snap, false, false⟩, -- Lane skew
  ⟨0x2910, 2, 0x0B, 1, .domain, .ro, 0, 0, 0, 1, none, .snap, false, false⟩ -- Blocks sent by class, last batch
  ]

/-- Objects from index 0x2920 on (R301). -/
def objects292 : List ObjRow := [
  ⟨0x2920, 4, 0x01, 1, .u8, .ro, 0, 0, 255, 1, none, .snap, false, false⟩, -- Lane state
  ⟨0x2920, 4, 0x02, 1, .u32, .ro, 0, 0, 4294967295, 1, none, .snap, false, false⟩, -- Sync-header errors
  ⟨0x2920, 4, 0x03, 1, .u32, .ro, 0, 0, 4294967295, 1, none, .snap, false, false⟩, -- Bad markers
  ⟨0x2920, 4, 0x04, 1, .u32, .ro, 0, 0, 4294967295, 1, none, .snap, false, false⟩, -- Errored control blocks
  ⟨0x2920, 4, 0x05, 1, .u32, .ro, 0, 0, 4294967295, 1, none, .snap, false, false⟩, -- Message CRC failures
  ⟨0x2920, 4, 0x06, 1, .u32, .ro, 0, 0, 4294967295, 1, none, .snap, false, false⟩, -- Retrains
  ⟨0x2920, 4, 0x07, 1, .u8, .ro, 0, 0, 255, 1, none, .snap, false, false⟩, -- Consecutive failed retrains
  ⟨0x2920, 4, 0x08, 1, .u32, .ro, 0, 0, 4294967295, 1, none, .snap, false, false⟩, -- Errored blocks, last second
  ⟨0x2920, 4, 0x09, 1, .u16, .ro, 90, 0, 65535, 1, none, .snap, false, false⟩, -- CTLE boost in force
  ⟨0x2920, 4, 0x0A, 1, .i16, .ro, 0, (-32768), 32767, 1, none, .snap, false, false⟩, -- DFE tap in force
  ⟨0x2920, 4, 0x0B, 1, .u16, .ro, 0, 0, 65535, 1, none, .snap, false, false⟩, -- Lane status
  ⟨0x2920, 4, 0x0C, 1, .u16, .ro, 0, 0, 65535, 1, none, .snap, false, false⟩ -- Last marker counter
  ]

/-- Objects from index 0x2A00 on (R332). -/
def objects2A0 : List ObjRow := [
  ⟨0x2A00, 1, 0x01, 1, .u8, .ro, 0, 0, 255, 1, none, .snap, false, false⟩, -- Role
  ⟨0x2A00, 1, 0x02, 1, .u8, .ro, 255, 0, 255, 1, none, .other, false, false⟩, -- Chain position
  ⟨0x2A00, 1, 0x03, 1, .u8, .cal, 255, 0, 31, 1, some 255, .other, false, false⟩, -- Expected chain position
  ⟨0x2A00, 1, 0x04, 1, .u64, .const, 0, 0, 18446744073709551615, 1, none, .other, false, false⟩, -- Node identity
  ⟨0x2A00, 1, 0x05, 1, .u8, .ro, 0, 0, 255, 1, none, .snap, false, false⟩, -- Topology
  ⟨0x2A00, 1, 0x06, 1, .u32, .ro, 0, 0, 4294967295, 1, none, .snap, false, false⟩, -- Present devices
  ⟨0x2A00, 1, 0x07, 1, .u16, .ro, 0, 0, 65535, 1, none, .snap, false, false⟩, -- Present guests
  ⟨0x2A00, 1, 0x08, 1, .u8, .rwb, 255, 1, 31, 1, some 255, .other, true, false⟩, -- Standby position (lead only)
  ⟨0x2A00, 1, 0x09, 1, .u8, .ro, 255, 0, 255, 1, none, .snap, false, false⟩, -- Upstream port
  ⟨0x2A00, 1, 0x0A, 1, .u8, .ro, 0, 0, 255, 1, none, .snap, false, false⟩, -- Hops to lead
  ⟨0x2A00, 1, 0x0B, 1, .u16, .ro, 0, 0, 65535, 1, none, .snap, false, false⟩, -- Chain status
  ⟨0x2A00, 1, 0x0C, 1, .u8, .ro, 3, 0, 255, 1, none, .other, false, false⟩, -- Takeover wait
  ⟨0x2A00, 1, 0x0D, 1, .u32, .ro, 0, 0, 4294967295, 1, none, .snap, false, false⟩, -- Reversals
  ⟨0x2A00, 1, 0x0E, 1, .u32, .ro, 0, 0, 4294967295, 1, none, .snap, false, false⟩, -- Takeovers
  ⟨0x2A00, 1, 0x0F, 1, .u8, .rwb, 80, 10, 100, 1, none, .other, true, false⟩, -- Guest budget share (lead only)
  ⟨0x2A00, 1, 0x10, 1, .u8, .ro, 0, 0, 255, 1, none, .other, false, false⟩, -- Longest path
  ⟨0x2A01, 1, 0x01, 1, .u32, .ro, 0, 0, 4294967295, 1, none, .snap, false, false⟩, -- Link delay, port A
  ⟨0x2A01, 1, 0x02, 1, .u32, .ro, 0, 0, 4294967295, 1, none, .snap, false, false⟩, -- Link delay, port B
  ⟨0x2A01, 1, 0x03, 1, .i32, .ro, 0, (-2147483648), 2147483647, 1, none, .snap, false, false⟩, -- Timing-port offset
  ⟨0x2A01, 1, 0x04, 1, .u32, .ro, 0, 0, 4294967295, 1, none, .snap, false, false⟩, -- Slot errors
  ⟨0x2A01, 1, 0x05, 1, .u32, .ro, 0, 0, 4294967295, 1, none, .snap, false, false⟩, -- Echo exchanges
  ⟨0x2A01, 1, 0x06, 1, .u32, .ro, 4294967295, 0, 4294967295, 1, none, .snap, false, false⟩, -- Mirror batch held (standby)
  ⟨0x2A01, 1, 0x07, 1, .u32, .ro, 0, 0, 4294967295, 1, none, .snap, false, false⟩, -- Mirror misses (standby)
  ⟨0x2A02, 1, 0x01, 1, .domain, .ro, 0, 0, 0, 1, none, .read, true, false⟩ -- Chain table (lead only)
  ]

/-- Objects from index 0x2A10 on (R332). -/
def objects2A1 : List ObjRow := [
  ⟨0x2A10, 16, 0x01, 1, .u64, .rwb, 0, 0, 18446744073709551615, 1, none, .other, true, false⟩, -- Guest identity (lead only)
  ⟨0x2A10, 16, 0x02, 1, .u8, .rwb, 0, 0, 31, 1, none, .other, true, false⟩, -- Intake device (lead only)
  ⟨0x2A10, 16, 0x03, 1, .u16, .ro, 0, 0, 65535, 1, none, .other, false, false⟩, -- Declared upstream rate
  ⟨0x2A10, 16, 0x04, 1, .u8, .ro, 255, 0, 255, 1, none, .other, false, false⟩, -- Guest kind
  ⟨0x2A10, 16, 0x05, 1, .u8, .ro, 0, 0, 255, 1, none, .snap, false, false⟩ -- Guest state
  ]

/-- Objects from index 0x2A20 on (R332). -/
def objects2A2 : List ObjRow := [
  ⟨0x2A20, 1, 0x01, 1, .domain, .wo, 0, 8, 8, 1, none, .other, true, false⟩, -- Sweep start (lead only)
  ⟨0x2A20, 1, 0x02, 1, .u8, .ro, 0, 0, 255, 1, none, .snap, true, false⟩, -- Sweep state (lead only)
  ⟨0x2A20, 1, 0x03, 1, .domain, .ro, 0, 0, 0, 1, none, .read, true, false⟩, -- Sweep record (lead only)
  ⟨0x2A20, 1, 0x04, 1, .bool, .wo, 0, 1, 1, 1, none, .other, true, false⟩, -- Sweep cancel (lead only)
  ⟨0x2A20, 1, 0x05, 1, .us, .rwb, 150000, 20000, 1000000, 1, none, .other, false, true⟩, -- Calibration on time (chain)
  ⟨0x2A20, 1, 0x06, 1, .u8, .rwb, 4, 1, 16, 1, none, .other, false, true⟩, -- Calibration cycles (chain)
  ⟨0x2A21, 1, 0x01, 1, .domain, .wo, 0, 0, 65535, 1, none, .other, false, false⟩, -- Sweep step request
  ⟨0x2A21, 1, 0x02, 1, .u8, .ro, 0, 0, 255, 1, none, .snap, false, false⟩, -- Sweep step state
  ⟨0x2A21, 1, 0x03, 1, .domain, .ro, 0, 0, 0, 1, none, .read, false, false⟩ -- Sweep step result
  ]

/-- Objects from index 0x2B00 on (R355). -/
def objects2B0 : List ObjRow := [
  ⟨0x2B00, 1, 0x01, 1, .bool, .rwb, 0, 0, 1, 1, none, .other, false, false⟩, -- GNSS enable
  ⟨0x2B00, 1, 0x02, 1, .u8, .rwb, 20, 10, 20, 10, none, .other, false, false⟩, -- Solution rate
  ⟨0x2B00, 1, 0x03, 1, .u8, .rwb, 15, 0, 15, 1, none, .other, false, false⟩, -- Constellations enabled
  ⟨0x2B00, 1, 0x04, 1, .u8, .rwb, 3, 0, 3, 1, none, .other, false, false⟩, -- Bands enabled
  ⟨0x2B00, 1, 0x05, 1, .ang, .rwb, 1820, 0, 5461, 1, none, .other, false, false⟩, -- Elevation mask
  ⟨0x2B00, 1, 0x06, 1, .u8, .rwb, 30, 20, 45, 1, none, .other, false, false⟩, -- Minimum C/N0
  ⟨0x2B00, 1, 0x07, 1, .u8, .rwb, 2, 0, 2, 1, none, .other, false, false⟩, -- Discriminator mode
  ⟨0x2B00, 1, 0x08, 1, .u16, .ro, 0, 0, 65535, 1, none, .snap, false, false⟩, -- Receiver status
  ⟨0x2B00, 1, 0x09, 1, .u8, .ro, 255, 0, 255, 1, none, .other, false, false⟩, -- Last start kind
  ⟨0x2B00, 1, 0x0A, 1, .us, .ro, 0, 0, 4294967295, 1, none, .other, false, false⟩, -- Last time to first fix
  ⟨0x2B00, 1, 0x0B, 1, .u8, .ro, 0, 0, 255, 1, none, .snap, false, false⟩, -- Channels in Track
  ⟨0x2B00, 1, 0x0C, 1, .u8, .ro, 20, 0, 255, 1, none, .snap, false, false⟩, -- Solution rate in force
  ⟨0x2B00, 1, 0x0D, 1, .us, .rwb, 2500000, 0, 10000000, 1, none, .other, true, false⟩, -- Seed wait (lead only)
  ⟨0x2B01, 1, 0x01, 1, .u32, .rwb, 32000000, 8184000, 64000000, 1, none, .other, false, false⟩, -- GIF1 sample rate
  ⟨0x2B01, 1, 0x02, 1, .i32, .rwb, 0, (-16000000), 16000000, 1, none, .other, false, false⟩, -- GIF1 centre offset
  ⟨0x2B01, 1, 0x03, 1, .u32, .rwb, 64000000, 24000000, 64000000, 1, none, .other, false, false⟩, -- GIF2 sample rate
  ⟨0x2B01, 1, 0x04, 1, .i32, .rwb, 0, (-16000000), 16000000, 1, none, .other, false, false⟩, -- GIF2 centre offset
  ⟨0x2B01, 1, 0x05, 1, .domain, .rwb, 0, 0, 1024, 4, none, .other, false, false⟩, -- Front-end script
  ⟨0x2B01, 1, 0x06, 1, .u32, .rwb, 0, 0, 4294967295, 1, none, .other, false, false⟩, -- Gain control word
  ⟨0x2B01, 1, 0x07, 1, .q16, .rwb, 65536, 6554, 655360, 1, none, .other, false, false⟩, -- Gain step
  ⟨0x2B01, 1, 0x08, 1, .u8, .ro, 0, 0, 255, 1, none, .snap, false, false⟩, -- GIF1 J/N
  ⟨0x2B01, 1, 0x09, 1, .u8, .ro, 0, 0, 255, 1, none, .snap, false, false⟩, -- GIF2 J/N
  ⟨0x2B01, 1, 0x0A, 1, .u8, .ro, 0, 0, 255, 1, none, .snap, false, false⟩, -- GIF1 notches active
  ⟨0x2B01, 1, 0x0B, 1, .u8, .ro, 0, 0, 255, 1, none, .snap, false, false⟩, -- GIF2 notches active
  ⟨0x2B01, 1, 0x0C, 1, .domain, .ro, 0, 0, 0, 1, none, .snap, false, false⟩, -- Notch frequencies
  ⟨0x2B01, 1, 0x0D, 1, .u8, .rwb, 15, 6, 40, 1, none, .other, false, false⟩, -- Notch threshold
  ⟨0x2B01, 1, 0x0E, 1, .u8, .rwb, 20, 3, 63, 1, none, .other, false, false⟩, -- Jamming warning level
  ⟨0x2B01, 1, 0x0F, 1, .u8, .rwb, 40, 3, 63, 1, none, .other, false, false⟩, -- Jamming alarm level
  ⟨0x2B02, 1, 0x01, 1, .i32, .ro, 0, (-2147483648), 2147483647, 1, none, .other, false, false⟩, -- Latitude
  ⟨0x2B02, 1, 0x02, 1, .i32, .ro, 0, (-2147483648), 2147483647, 1, none, .other, false, false⟩, -- Longitude
  ⟨0x2B02, 1, 0x03, 1, .mm, .ro, 0, (-2147483648), 2147483647, 1, none, .other, false, false⟩, -- Ellipsoidal height
  ⟨0x2B02, 1, 0x04, 1, .i32, .ro, 0, (-2147483648), 2147483647, 1, none, .other, false, false⟩, -- Velocity east
  ⟨0x2B02, 1, 0x05, 1, .i32, .ro, 0, (-2147483648), 2147483647, 1, none, .other, false, false⟩, -- Velocity north
  ⟨0x2B02, 1, 0x06, 1, .i32, .ro, 0, (-2147483648), 2147483647, 1, none, .other, false, false⟩, -- Velocity up
  ⟨0x2B02, 1, 0x07, 1, .u8, .ro, 0, 0, 255, 1, none, .other, false, false⟩, -- Solution type
  ⟨0x2B02, 1, 0x08, 1, .u8, .ro, 0, 0, 255, 1, none, .other, false, false⟩, -- Satellites used
  ⟨0x2B02, 1, 0x09, 1, .u16, .ro, 65535, 0, 65535, 1, none, .other, false, false⟩, -- PDOP
  ⟨0x2B02, 1, 0x0A, 1, .u32, .ro, 4294967295, 0, 4294967295, 1, none, .other, false, false⟩, -- Horizontal 1σ
  ⟨0x2B02, 1, 0x0B, 1, .u32, .ro, 4294967295, 0, 4294967295, 1, none, .other, false, false⟩, -- Vertical 1σ
  ⟨0x2B02, 1, 0x0C, 1, .ns64, .ro, 0, 0, 18446744073709551615, 1, none, .other, false, false⟩, -- Solution epoch
  ⟨0x2B02, 1, 0x0D, 1, .i16, .ro, 18, (-32768), 32767, 1, none, .other, false, false⟩, -- UTC offset
  ⟨0x2B02, 1, 0x0E, 1, .u32, .ro, 4294967295, 0, 4294967295, 1, none, .other, false, false⟩, -- Correction age
  ⟨0x2B02, 1, 0x0F, 1, .q16, .ro, 0, (-2147483648), 2147483647, 1, none, .other, false, false⟩, -- RTK ratio
  ⟨0x2B03, 1, 0x01, 1, .domain, .wo, 0, 1, 2048, 1, none, .other, true, false⟩, -- Correction input (lead and standby)
  ⟨0x2B03, 1, 0x02, 1, .us, .rwb, 10000000, 1000000, 60000000, 1, none, .other, false, false⟩, -- Correction age limit
  ⟨0x2B03, 1, 0x03, 1, .q16, .rwb, 196608, 98304, 655360, 1, none, .other, false, false⟩, -- Fix ratio
  ⟨0x2B03, 1, 0x04, 1, .u16, .ro, 65535, 0, 65535, 1, none, .other, false, false⟩, -- Base station ID
  ⟨0x2B03, 1, 0x05, 1, .domain, .ro, 0, 0, 0, 1, none, .other, false, false⟩, -- Base position
  ⟨0x2B03, 1, 0x06, 1, .u32, .ro, 0, 0, 4294967295, 1, none, .snap, false, false⟩, -- RTCM frames used
  ⟨0x2B03, 1, 0x07, 1, .u32, .ro, 0, 0, 4294967295, 1, none, .snap, false, false⟩, -- RTCM frames discarded
  ⟨0x2B03, 1, 0x08, 1, .u32, .ro, 0, 0, 4294967295, 1, none, .snap, false, false⟩, -- RTCM frames ignored
  ⟨0x2B03, 1, 0x09, 1, .u32, .ro, 0, 0, 4294967295, 1, none, .snap, false, false⟩, -- Last correction sequence accepted
  ⟨0x2B04, 1, 0x01, 1, .bool, .rwb, 0, 0, 1, 1, none, .other, false, false⟩, -- Moving baseline enable
  ⟨0x2B04, 1, 0x02, 1, .mm, .ro, 0, (-2147483648), 2147483647, 1, none, .other, false, false⟩, -- Baseline east
  ⟨0x2B04, 1, 0x03, 1, .mm, .ro, 0, (-2147483648), 2147483647, 1, none, .other, false, false⟩, -- Baseline north
  ⟨0x2B04, 1, 0x04, 1, .mm, .ro, 0, (-2147483648), 2147483647, 1, none, .other, false, false⟩, -- Baseline up
  ⟨0x2B04, 1, 0x05, 1, .u8, .ro, 0, 0, 255, 1, none, .other, false, false⟩, -- Baseline state
  ⟨0x2B04, 1, 0x06, 1, .u32, .ro, 0, 0, 4294967295, 1, none, .snap, false, false⟩, -- Base epochs missed
  ⟨0x2B05, 1, 0x01, 1, .u8, .rw, 0, 0, 63, 1, none, .other, false, false⟩, -- Channel select
  ⟨0x2B05, 1, 0x02, 1, .domain, .ro, 0, 0, 0, 1, none, .read, false, false⟩, -- Selected channel observation
  ⟨0x2B05, 1, 0x03, 1, .u8, .ro, 0, 0, 255, 1, none, .read, false, false⟩, -- Selected channel state
  ⟨0x2B05, 1, 0x04, 1, .u32, .ro, 0, 0, 4294967295, 1, none, .read, false, false⟩, -- Selected channel elevation and azimuth
  ⟨0x2B06, 1, 0x01, 1, .u8, .ro, 0, 0, 255, 1, none, .snap, false, false⟩, -- Kept data status
  ⟨0x2B06, 1, 0x02, 1, .bool, .wo, 0, 1, 1, 1, none, .other, false, false⟩, -- Erase kept data
  ⟨0x2B06, 1, 0x03, 1, .i32, .ro, 0, (-2147483648), 2147483647, 1, none, .snap, false, false⟩ -- TCXO offset now
  ]

/-- Objects from index 0x2C00 on (R377). -/
def objects2C0 : List ObjRow := [
  ⟨0x2C00, 1, 0x01, 1, .bool, .rwb, 1, 0, 1, 1, none, .other, false, false⟩, -- CAN-I enable
  ⟨0x2C00, 1, 0x02, 1, .bool, .rwb, 1, 0, 1, 1, none, .other, false, false⟩, -- CAN-P enable
  ⟨0x2C01, 2, 0x01, 1, .u8, .rwb, 0, 0, 3, 1, none, .other, false, false⟩, -- Mode
  ⟨0x2C01, 2, 0x02, 1, .u16, .rwb, 0, 1, 256, 1, none, .other, false, false⟩, -- Nominal prescaler
  ⟨0x2C01, 2, 0x03, 1, .u16, .rwb, 69, 2, 256, 1, none, .other, false, false⟩, -- Nominal tseg1
  ⟨0x2C01, 2, 0x04, 1, .u8, .rwb, 10, 1, 128, 1, none, .other, false, false⟩, -- Nominal tseg2
  ⟨0x2C01, 2, 0x05, 1, .u8, .rwb, 10, 1, 128, 1, none, .other, false, false⟩, -- Nominal SJW
  ⟨0x2C01, 2, 0x06, 1, .bool, .rwb, 0, 0, 1, 1, none, .other, false, false⟩, -- FD enable (CAN-P only)
  ⟨0x2C01, 2, 0x07, 1, .u8, .rwb, 1, 1, 32, 1, none, .other, false, false⟩, -- Data prescaler
  ⟨0x2C01, 2, 0x08, 1, .u8, .rwb, 29, 1, 32, 1, none, .other, false, false⟩, -- Data tseg1
  ⟨0x2C01, 2, 0x09, 1, .u8, .rwb, 10, 1, 16, 1, none, .other, false, false⟩, -- Data tseg2
  ⟨0x2C01, 2, 0x0A, 1, .u8, .rwb, 10, 1, 16, 1, none, .other, false, false⟩, -- Data SJW
  ⟨0x2C01, 2, 0x0B, 1, .u8, .rwb, 30, 0, 127, 1, none, .other, false, false⟩, -- TDC offset
  ⟨0x2C01, 2, 0x0C, 1, .u8, .rwb, 0, 0, 1, 1, none, .other, false, false⟩, -- Transmit order
  ⟨0x2C01, 2, 0x0D, 1, .u8, .ro, 0, 0, 255, 1, none, .snap, false, false⟩, -- Controller state
  ⟨0x2C01, 2, 0x0E, 1, .u8, .ro, 0, 0, 255, 1, none, .snap, false, false⟩, -- Transmit error counter
  ⟨0x2C01, 2, 0x0F, 1, .u8, .ro, 0, 0, 255, 1, none, .snap, false, false⟩, -- Receive error counter
  ⟨0x2C01, 2, 0x10, 1, .u32, .ro, 0, 0, 4294967295, 1, none, .snap, false, false⟩, -- Bus-off events
  ⟨0x2C01, 2, 0x11, 1, .u32, .ro, 0, 0, 4294967295, 1, none, .snap, false, false⟩, -- FIFO overflows
  ⟨0x2C01, 2, 0x12, 1, .u32, .ro, 0, 0, 4294967295, 1, none, .snap, false, false⟩, -- Frames received
  ⟨0x2C01, 2, 0x13, 1, .u32, .ro, 0, 0, 4294967295, 1, none, .snap, false, false⟩, -- Frames sent
  ⟨0x2C01, 2, 0x14, 1, .domain, .ro, 0, 0, 0, 1, none, .other, false, false⟩ -- Filter table
  ]

/-- Objects from index 0x2C20 on (R377). -/
def objects2C2 : List ObjRow := [
  ⟨0x2C20, 1, 0x01, 1, .u32, .cal, 0, 0, 2097151, 1, none, .other, false, false⟩, -- NAME identity number
  ⟨0x2C20, 1, 0x02, 1, .u16, .cal, 0, 0, 2047, 1, none, .other, false, false⟩, -- NAME manufacturer code
  ⟨0x2C20, 1, 0x03, 1, .u8, .rwb, 0, 0, 31, 1, none, .other, false, false⟩, -- NAME function instance
  ⟨0x2C20, 1, 0x04, 1, .u8, .rwb, 0, 0, 7, 1, none, .other, false, false⟩, -- NAME ECU instance
  ⟨0x2C20, 1, 0x05, 1, .u8, .rwb, 128, 0, 253, 1, none, .other, false, false⟩, -- Preferred address
  ⟨0x2C20, 1, 0x06, 1, .bool, .rwb, 1, 0, 1, 1, none, .other, false, false⟩, -- Self-configurable
  ⟨0x2C20, 1, 0x07, 1, .u8, .ro, 254, 0, 255, 1, none, .snap, false, false⟩, -- Address in use
  ⟨0x2C20, 1, 0x08, 1, .bool, .rwb, 0, 0, 1, 1, none, .other, true, false⟩, -- TC client enable (lead only)
  ⟨0x2C20, 1, 0x09, 1, .bool, .rwb, 1, 0, 1, 1, none, .other, true, false⟩, -- TC setpoint use (lead only)
  ⟨0x2C20, 1, 0x0A, 1, .u8, .ro, 0, 0, 255, 1, none, .snap, true, false⟩, -- TC client state (lead only)
  ⟨0x2C20, 1, 0x0B, 1, .domain, .ro, 0, 0, 0, 1, none, .other, true, false⟩, -- Structure label (lead only)
  ⟨0x2C20, 1, 0x0C, 1, .u64, .rwb, 0, 0, 18446744073709551615, 1, none, .other, false, false⟩, -- Dictionary client NAME
  ⟨0x2C20, 1, 0x0D, 1, .u8, .ro, 0, 0, 255, 1, none, .snap, false, false⟩, -- Active DTCs
  ⟨0x2C20, 1, 0x0E, 1, .u64, .ro, 0, 0, 18446744073709551615, 1, none, .snap, false, false⟩, -- NAME in use
  ⟨0x2C20, 1, 0x0F, 1, .u8, .rwb, 0, 0, 127, 1, none, .other, false, false⟩, -- NAME device class
  ⟨0x2C20, 1, 0x10, 1, .u8, .rwb, 0, 0, 255, 1, none, .other, false, false⟩ -- NAME function
  ]

/-- Objects from index 0x2C30 on (R377). -/
def objects2C3 : List ObjRow := [
  ⟨0x2C30, 1, 0x01, 1, .u8, .rwb, 16, 1, 127, 1, none, .other, false, false⟩, -- Node ID
  ⟨0x2C30, 1, 0x02, 1, .u8, .ro, 127, 0, 255, 1, none, .snap, false, false⟩, -- NMT state
  ⟨0x2C30, 1, 0x03, 1, .bool, .rwb, 0, 0, 1, 1, none, .other, false, false⟩, -- Start automatically
  ⟨0x2C30, 1, 0x04, 1, .u32, .ro, 0, 0, 4294967295, 1, none, .snap, false, false⟩, -- EMCY messages sent
  ⟨0x2C30, 1, 0x05, 1, .u8, .ro, 0, 0, 255, 1, none, .snap, false, false⟩, -- Heartbeat consumer status
  ⟨0x2C30, 1, 0x06, 1, .u32, .rw, 1, 0, 4294967295, 1, none, .other, false, false⟩, -- SDO write sequence
  ⟨0x2C30, 1, 0x07, 1, .u8, .rw, 255, 0, 31, 1, some 255, .other, true, false⟩ -- SDO target device (lead only)
  ]

/-- Objects from index 0x2C40 on (R377). -/
def objects2C4 : List ObjRow := [
  ⟨0x2C40, 4, 0x01, 1, .u32, .rwb, 0, 0, 4294967295, 1, none, .other, false, false⟩, -- PDO identifier
  ⟨0x2C48, 4, 0x01, 1, .u32, .rwb, 0, 0, 4294967295, 1, none, .other, false, false⟩, -- PDO identifier
  ⟨0x2C40, 4, 0x02, 1, .u16, .rwb, 0, 0, 65535, 1, none, .other, false, false⟩, -- Period
  ⟨0x2C48, 4, 0x02, 1, .u16, .rwb, 0, 0, 65535, 1, none, .other, false, false⟩, -- Period
  ⟨0x2C40, 4, 0x03, 1, .u16, .rwb, 0, 0, 65535, 1, none, .other, false, false⟩, -- Inhibit time
  ⟨0x2C48, 4, 0x03, 1, .u16, .rwb, 0, 0, 65535, 1, none, .other, false, false⟩, -- Inhibit time
  ⟨0x2C40, 4, 0x04, 1, .bool, .rwb, 0, 0, 1, 1, none, .other, false, false⟩, -- On change
  ⟨0x2C48, 4, 0x04, 1, .bool, .rwb, 0, 0, 1, 1, none, .other, false, false⟩, -- On change
  ⟨0x2C40, 4, 0x05, 1, .bool, .rwb, 0, 0, 1, 1, none, .other, false, false⟩, -- FD frame
  ⟨0x2C48, 4, 0x05, 1, .bool, .rwb, 0, 0, 1, 1, none, .other, false, false⟩, -- FD frame
  ⟨0x2C40, 4, 0x06, 1, .domain, .rwb, 0, 0, 64, 4, none, .other, false, false⟩, -- Mapping
  ⟨0x2C48, 4, 0x06, 1, .domain, .rwb, 0, 0, 64, 4, none, .other, false, false⟩, -- Mapping
  ⟨0x2C40, 4, 0x07, 1, .u32, .ro, 0, 0, 4294967295, 1, none, .snap, false, false⟩, -- Frames
  ⟨0x2C48, 4, 0x07, 1, .u32, .ro, 0, 0, 4294967295, 1, none, .snap, false, false⟩ -- Frames
  ]

/-- Objects from index 0x2D00 on (R443, R489). -/
def objects2D0 : List ObjRow := [
  ⟨0x2D00, 1, 0x01, 1, .i16, .ro, 0, (-32768), 32767, 1, none, .snap, false, false⟩, -- Logic-die temperature
  ⟨0x2D00, 1, 0x02, 1, .i16, .ro, 0, (-32768), 32767, 1, none, .snap, false, false⟩, -- Power-die temperature
  ⟨0x2D00, 1, 0x03, 1, .i16, .ro, 0, (-32768), 32767, 1, none, .snap, false, false⟩, -- MRAM-die temperature
  ⟨0x2D01, 1, 0x01, 11, .i16, .ro, 0, (-32768), 32767, 1, none, .snap, false, false⟩, -- Sensor temperature, L0 to L3, P0 to P5, M0
  ⟨0x2D01, 1, 0x0C, 1, .u16, .ro, 0, 0, 65535, 1, none, .snap, false, false⟩, -- Retired sensor map
  ⟨0x2D02, 1, 0x01, 1, .u16, .ro, 0, 0, 65535, 1, none, .snap, false, false⟩, -- VIN
  ⟨0x2D02, 1, 0x02, 1, .u16, .ro, 0, 0, 65535, 1, none, .snap, false, false⟩, -- Core rail
  ⟨0x2D02, 1, 0x03, 1, .u16, .ro, 0, 0, 65535, 1, none, .snap, false, false⟩, -- MRAM rail
  ⟨0x2D02, 1, 0x04, 1, .u16, .ro, 0, 0, 65535, 1, none, .snap, false, false⟩, -- Internal reference
  ⟨0x2D02, 1, 0x05, 1, .u16, .ro, 0, 0, 65535, 1, none, .snap, false, false⟩, -- Power-die logic regulator
  ⟨0x2D03, 1, 0x01, 1, .u8, .ro, 1, 0, 255, 1, none, .other, false, false⟩, -- Logic-die band (L0)
  ⟨0x2D03, 1, 0x02, 1, .u8, .ro, 1, 0, 255, 1, none, .other, false, false⟩, -- MRAM band (M0)
  ⟨0x2D03, 1, 0x03, 1, .u8, .ro, 1, 0, 255, 1, none, .other, false, false⟩, -- Dead-time band (P5)
  ⟨0x2D03, 1, 0x04, 1, .u16, .const, 30, 0, 65535, 1, none, .other, false, false⟩, -- Band hysteresis
  ⟨0x2D03, 1, 0x05, 4, .u16, .const, 0, 0, 65535, 1, none, .other, false, false⟩, -- MRAM write pulse, bands 0 to 3
  ⟨0x2D04, 1, 0x01, 1, .u8, .ro, 0, 0, 255, 1, none, .snap, false, false⟩, -- Throttle state
  ⟨0x2D04, 1, 0x02, 1, .i16, .rwb, 1200, 1000, 1200, 1, none, .other, false, false⟩, -- Logic-die request level
  ⟨0x2D04, 1, 0x03, 1, .i16, .rwb, 1400, 1200, 1400, 1, none, .other, false, false⟩, -- Power-die request level
  ⟨0x2D04, 1, 0x04, 1, .us, .const, 5000000, 0, 4294967295, 1, none, .other, false, false⟩, -- Grace time
  ⟨0x2D04, 1, 0x05, 1, .us, .const, 30000000, 0, 4294967295, 1, none, .other, false, false⟩, -- Release hold time
  ⟨0x2D04, 1, 0x06, 1, .i16, .const, 1350, (-32768), 32767, 1, none, .other, false, false⟩, -- Logic-die shutdown level
  ⟨0x2D04, 1, 0x07, 1, .i16, .const, 1700, (-32768), 32767, 1, none, .other, false, false⟩, -- Power-die shutdown level
  ⟨0x2D04, 1, 0x08, 1, .u16, .ro, 0, 0, 65535, 1, none, .snap, false, false⟩, -- Throttle status
  ⟨0x2D04, 1, 0x09, 1, .u32, .ro, 0, 0, 4294967295, 1, none, .snap, false, false⟩, -- Enforcements
  ⟨0x2D04, 1, 0x0A, 1, .u32, .ro, 0, 0, 4294967295, 1, none, .snap, true, false⟩, -- Enforcing positions (lead only)
  ⟨0x2D05, 1, 0x01, 1, .u32, .ro, 0, 0, 4294967295, 1, none, .snap, false, false⟩, -- Housekeeping rounds
  ⟨0x2D05, 1, 0x02, 1, .u32, .ro, 0, 0, 4294967295, 1, none, .snap, false, false⟩, -- Late rounds
  ⟨0x2D06, 1, 0x01, 1, .u8, .wo, 0, 1, 2, 1, none, .other, false, false⟩, -- Power mode request
  ⟨0x2D06, 1, 0x02, 1, .u8, .rwb, 1, 0, 15, 1, none, .other, false, false⟩, -- Wake sources
  ⟨0x2D06, 1, 0x03, 1, .u32, .rw, 0, 0, 4294967295, 1, none, .other, false, false⟩, -- RTC alarm
  ⟨0x2D06, 1, 0x04, 1, .bool, .wo, 0, 1, 1, 1, none, .other, false, false⟩, -- Restart
  ⟨0x2D06, 1, 0x05, 1, .u8, .ro, 0, 0, 255, 1, none, .snap, false, false⟩, -- Power-die state
  ⟨0x2D06, 1, 0x06, 1, .u16, .ro, 65535, 0, 65535, 1, none, .snap, false, false⟩, -- Lowest VIN since boot
  ⟨0x2D06, 1, 0x07, 1, .us, .ro, 0, 0, 4294967295, 1, none, .other, false, false⟩, -- Start-up time
  ⟨0x2D06, 1, 0x08, 1, .u32, .ro, 0, 0, 4294967295, 1, none, .other, false, false⟩, -- Dormant entries
  ⟨0x2D06, 1, 0x09, 1, .u8, .ro, 0, 0, 255, 1, none, .other, false, false⟩ -- Last wake source
  ]

/-- Objects from index 0x2E00 on (R443). -/
def objects2E0 : List ObjRow := [
  ⟨0x2E00, 1, 0x01, 1, .u16, .ro, 0, 0, 65535, 1, none, .snap, false, false⟩, -- Health status
  ⟨0x2E00, 1, 0x02, 1, .u16, .ro, 0, 0, 65535, 1, none, .snap, false, false⟩, -- Replace-me causes
  ⟨0x2E00, 1, 0x03, 1, .u32, .ro, 0, 0, 4294967295, 1, none, .snap, true, false⟩, -- Replace-me positions (lead only)
  ⟨0x2E00, 1, 0x04, 1, .u32, .ro, 0, 0, 4294967295, 1, none, .snap, false, false⟩, -- Replace-me raised
  ⟨0x2E00, 1, 0x05, 1, .ns64, .ro, 0, 0, 18446744073709551615, 1, none, .snap, false, false⟩, -- Replace-me since
  ⟨0x2E01, 1, 0x01, 1, .u32, .ro, 0, 0, 4294967295, 1, none, .snap, false, false⟩, -- SRAM words corrected
  ⟨0x2E01, 1, 0x02, 1, .u32, .ro, 0, 0, 4294967295, 1, none, .snap, false, false⟩, -- SRAM words uncorrectable
  ⟨0x2E01, 1, 0x03, 1, .u16, .ro, 0, 0, 65535, 1, none, .snap, false, false⟩, -- SRAM rows replaced
  ⟨0x2E01, 1, 0x04, 1, .u8, .ro, 16, 0, 255, 1, none, .snap, false, false⟩, -- Fewest SRAM spares left in a macro
  ⟨0x2E01, 1, 0x05, 1, .u16, .ro, 0, 0, 65535, 1, none, .snap, false, false⟩, -- SRAM rows fenced
  ⟨0x2E02, 1, 0x01, 1, .u32, .ro, 0, 0, 4294967295, 1, none, .snap, false, false⟩, -- MRAM words corrected
  ⟨0x2E02, 1, 0x02, 1, .u32, .ro, 0, 0, 4294967295, 1, none, .snap, false, false⟩, -- MRAM write retries
  ⟨0x2E02, 1, 0x03, 1, .u16, .ro, 0, 0, 65535, 1, none, .snap, false, false⟩, -- MRAM rows replaced
  ⟨0x2E02, 1, 0x04, 1, .u8, .ro, 8, 0, 255, 1, none, .snap, false, false⟩, -- Fewest MRAM spares left in a block
  ⟨0x2E02, 1, 0x05, 1, .u16, .ro, 0, 0, 65535, 1, none, .snap, false, false⟩, -- MRAM rows fenced
  ⟨0x2E03, 1, 0x01, 1, .u8, .ro, 0, 0, 255, 1, none, .other, false, false⟩, -- Last reset cause
  ⟨0x2E03, 1, 0x02, 1, .u32, .ro, 0, 0, 4294967295, 1, none, .other, false, false⟩, -- Supervision resets
  ⟨0x2E03, 1, 0x03, 1, .u32, .ro, 0, 0, 4294967295, 1, none, .other, false, false⟩, -- Lock-loss resets
  ⟨0x2E04, 1, 0x01, 1, .u32, .ro, 0, 0, 4294967295, 1, none, .other, false, false⟩, -- Tether safe-state entries
  ⟨0x2E04, 1, 0x02, 1, .u8, .ro, 0, 0, 255, 1, none, .other, false, false⟩, -- Last tether cause
  ⟨0x2E04, 1, 0x03, 1, .u32, .ro, 0, 0, 4294967295, 1, none, .snap, false, false⟩, -- Power-link CRC errors
  ⟨0x2E04, 1, 0x04, 1, .u32, .ro, 0, 0, 4294967295, 1, none, .snap, false, false⟩, -- Missed edges
  ⟨0x2E05, 1, 0x01, 1, .u8, .rw, 1, 1, 20, 1, none, .other, false, false⟩, -- Fault kind select
  ⟨0x2E05, 1, 0x02, 1, .u32, .ro, 0, 0, 4294967295, 1, none, .read, false, false⟩, -- Transient faults of selected kind
  ⟨0x2E05, 1, 0x03, 1, .u32, .ro, 0, 0, 4294967295, 1, none, .read, false, false⟩, -- Permanent faults of selected kind
  ⟨0x2E05, 1, 0x04, 1, .u16, .ro, 65535, 0, 65535, 1, none, .read, false, false⟩ -- Last unit of selected kind
  ]

/-- Objects from index 0x2F00 on (R456). -/
def objects2F0 : List ObjRow := [
  ⟨0x2F00, 1, 0x01, 1, .u16, .ro, 0, 0, 65535, 1, none, .snap, false, false⟩, -- Recorder status
  ⟨0x2F00, 1, 0x02, 1, .u32, .ro, 0, 0, 4294967295, 1, none, .snap, false, false⟩, -- Last record number
  ⟨0x2F00, 1, 0x03, 1, .u32, .ro, 0, 0, 4294967295, 1, none, .snap, false, false⟩, -- Records lost
  ⟨0x2F00, 1, 0x04, 1, .u32, .ro, 0, 0, 4294967295, 1, none, .snap, false, false⟩, -- Repeats folded
  ⟨0x2F00, 1, 0x05, 1, .u8, .const, 40, 0, 255, 1, none, .other, false, false⟩, -- Starter records per source
  ⟨0x2F00, 1, 0x06, 1, .u32, .ro, 0, 0, 4294967295, 1, none, .snap, false, false⟩, -- Ring pages reopened
  ⟨0x2F00, 1, 0x07, 1, .u32, .ro, 0, 0, 4294967295, 1, none, .snap, false, false⟩, -- Sealed records refused
  ⟨0x2F00, 1, 0x08, 1, .u32, .ro, 0, 0, 4294967295, 1, none, .read, false, false⟩, -- Operating time
  ⟨0x2F00, 1, 0x09, 1, .u32, .ro, 0, 0, 4294967295, 1, none, .other, false, false⟩, -- Power-cycle count
  ⟨0x2F00, 1, 0x0A, 1, .bool, .wo, 0, 1, 1, 1, none, .other, false, false⟩, -- Clear ring
  ⟨0x2F00, 1, 0x0B, 1, .u32, .ro, 0, 0, 4294967295, 1, none, .other, false, false⟩, -- Torn records found
  ⟨0x2F00, 1, 0x0C, 1, .us, .rwb, 1000000, 0, 10000000, 1, none, .other, false, false⟩, -- Repeat window
  ⟨0x2F00, 1, 0x0D, 1, .u32, .ro, 0, 0, 4294967295, 1, none, .snap, false, false⟩, -- Sealed bytes used
  ⟨0x2F01, 1, 0x01, 1, .u8, .rw, 1, 0, 2, 1, none, .other, false, false⟩, -- Area select, per accessor
  ⟨0x2F01, 1, 0x02, 1, .u32, .rw, 0, 0, 4294967295, 1, none, .other, false, false⟩, -- Record select, per accessor
  ⟨0x2F01, 1, 0x03, 1, .domain, .ro, 0, 0, 0, 1, none, .read, false, false⟩, -- Record
  ⟨0x2F01, 1, 0x04, 1, .u16, .rw, 0, 0, 255, 1, none, .other, false, false⟩, -- Page select, per accessor
  ⟨0x2F01, 1, 0x05, 1, .domain, .ro, 0, 0, 0, 1, none, .read, false, false⟩, -- Page
  ⟨0x2F01, 1, 0x06, 1, .u32, .ro, 0, 0, 4294967295, 1, none, .read, false, false⟩, -- Oldest record in selected area
  ⟨0x2F01, 1, 0x07, 1, .u32, .ro, 0, 0, 4294967295, 1, none, .read, false, false⟩, -- Newest record in selected area
  ⟨0x2F02, 1, 0x01, 1, .domain, .ro, 0, 0, 0, 1, none, .read, false, false⟩, -- Notice queue
  ⟨0x2F02, 1, 0x02, 1, .u32, .ro, 0, 0, 4294967295, 1, none, .snap, false, false⟩, -- Notices dropped
  ⟨0x2F03, 1, 0x01, 1, .domain, .ro, 0, 0, 0, 1, none, .read, true, false⟩, -- Chain event queue (lead only)
  ⟨0x2F03, 1, 0x02, 1, .u32, .ro, 0, 0, 4294967295, 1, none, .snap, true, false⟩ -- Chain events dropped (lead only)
  ]

/-- Objects from index 0x3000 on (R89, R127, R218, R400). -/
def objects300 : List ObjRow := [
  ⟨0x3000, 32, 0x01, 1, .u8, .rwb, 0, 0, 3, 1, none, .other, false, false⟩, -- Outlet type
  ⟨0x3000, 32, 0x02, 1, .mm, .cal, 0, (-40000), 40000, 1, none, .other, false, false⟩, -- Offset x
  ⟨0x3000, 32, 0x03, 1, .mm, .cal, 0, (-40000), 40000, 1, none, .other, false, false⟩, -- Offset y
  ⟨0x3000, 32, 0x04, 1, .u8, .rwb, 0, 0, 15, 1, none, .other, false, false⟩, -- Segment
  ⟨0x3000, 32, 0x05, 1, .u16, .rwb, 65535, 0, 255, 1, some 65535, .other, false, false⟩, -- Section
  ⟨0x3000, 32, 0x06, 1, .mm, .cal, 500, 10, 4000, 1, none, .other, false, false⟩, -- Footprint width
  ⟨0x3000, 32, 0x07, 1, .u8, .rwb, 0, 0, 15, 1, none, .other, false, false⟩, -- Spray-pattern profile
  ⟨0x3000, 32, 0x08, 1, .us, .cal, 0, 0, 450000, 1, none, .other, false, false⟩, -- Hydraulic on-delay
  ⟨0x3000, 32, 0x09, 1, .us, .cal, 0, 0, 450000, 1, none, .other, false, false⟩, -- Hydraulic off-delay
  ⟨0x3000, 32, 0x0A, 1, .i32, .ro, 0, (-2147483648), 2147483647, 1, none, .snap, false, false⟩, -- Along-track speed
  ⟨0x3000, 32, 0x0B, 1, .mm, .ro, 0, (-2147483648), 2147483647, 1, none, .snap, false, false⟩, -- Position east at t0
  ⟨0x3000, 32, 0x0C, 1, .mm, .ro, 0, (-2147483648), 2147483647, 1, none, .snap, false, false⟩, -- Position north at t0
  ⟨0x3000, 32, 0x0D, 1, .u8, .ro, 0, 0, 255, 1, none, .snap, false, false⟩, -- Prediction flags
  ⟨0x3000, 32, 0x18, 1, .u8, .rwb, 0, 0, 3, 1, some 255, .other, false, false⟩, -- Rate product
  ⟨0x3000, 32, 0x19, 1, .u16, .rwb, 0, 0, 65535, 1, none, .other, false, false⟩, -- Fixed rate
  ⟨0x3000, 32, 0x1A, 1, .u8, .rwb, 0, 0, 7, 1, none, .other, false, false⟩, -- Flow curve
  ⟨0x3000, 32, 0x1B, 1, .u16, .rwb, 2000, 0, 10000, 1, none, .other, false, false⟩, -- Minimum duty
  ⟨0x3000, 32, 0x1C, 1, .us, .cal, 5000, 100, 100000, 1, none, .other, false, false⟩, -- Initial electrical on part
  ⟨0x3000, 32, 0x1D, 1, .us, .cal, 5000, 100, 100000, 1, none, .other, false, false⟩, -- Initial electrical off part
  ⟨0x3000, 32, 0x1E, 1, .us, .cal, 500, 100, 100000, 1, none, .other, false, false⟩, -- On part lower bound
  ⟨0x3000, 32, 0x1F, 1, .us, .cal, 30000, 100, 100000, 1, none, .other, false, false⟩, -- On part upper bound
  ⟨0x3000, 32, 0x20, 1, .us, .cal, 500, 100, 100000, 1, none, .other, false, false⟩, -- Off part lower bound
  ⟨0x3000, 32, 0x21, 1, .us, .cal, 50000, 100, 100000, 1, none, .other, false, false⟩, -- Off part upper bound
  ⟨0x3000, 32, 0x22, 1, .us, .ro, 5000, 0, 4294967295, 1, none, .snap, false, false⟩, -- Learned electrical on part
  ⟨0x3000, 32, 0x23, 1, .us, .ro, 5000, 0, 4294967295, 1, none, .snap, false, false⟩, -- Learned electrical off part
  ⟨0x3000, 32, 0x24, 1, .bool, .rwb, 1, 0, 1, 1, none, .other, false, false⟩, -- Learning enable
  ⟨0x3000, 32, 0x25, 1, .bool, .wo, 0, 1, 1, 1, none, .other, false, false⟩, -- Reset learning
  ⟨0x3000, 32, 0x26, 1, .u32, .ro, 0, 0, 4294967295, 1, none, .snap, false, false⟩, -- Decision status
  ⟨0x3000, 32, 0x27, 1, .u32, .ro, 0, 0, 4294967295, 1, none, .snap, false, false⟩, -- Target rate
  ⟨0x3000, 32, 0x28, 1, .u16, .ro, 0, 0, 65535, 1, none, .snap, false, false⟩, -- Duty in force
  ⟨0x3000, 32, 0x29, 1, .u8, .ro, 0, 0, 255, 1, none, .snap, false, false⟩, -- Pending edges
  ⟨0x3000, 32, 0x2A, 1, .ns64, .ro, 0, 0, 18446744073709551615, 1, none, .snap, false, false⟩, -- Next edge instant
  ⟨0x3000, 32, 0x2B, 1, .domain, .ro, 0, 0, 0, 1, none, .snap, false, false⟩, -- Pending edge list
  ⟨0x3000, 32, 0x30, 1, .u16, .cal, 2000, 500, 6000, 1, none, .other, false, false⟩, -- Peak current
  ⟨0x3000, 32, 0x31, 1, .u16, .cal, 500, 100, 3000, 1, none, .other, false, false⟩, -- Hold current
  ⟨0x3000, 32, 0x32, 1, .us, .cal, 10000, 200, 50000, 1, none, .other, false, false⟩, -- Peak time limit
  ⟨0x3000, 32, 0x33, 1, .us, .rwb, 150, 0, 2000, 1, none, .other, false, false⟩, -- Peak tail
  ⟨0x3000, 32, 0x34, 1, .u8, .rwb, 0, 0, 1, 1, none, .other, false, false⟩, -- Release mode
  ⟨0x3000, 32, 0x35, 1, .u8, .rwb, 0, 0, 1, 1, none, .other, false, false⟩, -- Drive mode
  ⟨0x3000, 32, 0x36, 1, .u8, .rwb, 0, 0, 1, 1, none, .other, false, false⟩, -- PWM generator
  ⟨0x3000, 32, 0x37, 1, .us, .rwb, 0, 0, 99999, 1, none, .other, false, false⟩, -- PWM phase offset
  ⟨0x3000, 32, 0x38, 1, .us, .rwb, 10000, 0, 100000, 1, none, .other, false, false⟩, -- First-pulse minimum
  ⟨0x3000, 32, 0x39, 1, .u16, .ro, 0, 0, 65535, 1, none, .snap, false, false⟩, -- Channel status
  ⟨0x3000, 32, 0x3A, 1, .u16, .ro, 0, 0, 65535, 1, none, .snap, false, false⟩, -- Channel current
  ⟨0x3000, 32, 0x3B, 1, .us, .ro, 0, 0, 4294967295, 1, none, .snap, false, false⟩, -- Last arrival kink
  ⟨0x3000, 32, 0x3C, 1, .us, .ro, 0, 0, 4294967295, 1, none, .snap, false, false⟩, -- Last release kink
  ⟨0x3000, 32, 0x3D, 1, .u16, .ro, 0, 0, 65535, 1, none, .snap, false, false⟩, -- Coil resistance
  ⟨0x3000, 32, 0x3E, 1, .u16, .ro, 0, 0, 65535, 1, none, .snap, false, false⟩, -- Learned hold voltage
  ⟨0x3000, 32, 0x3F, 1, .u32, .ro, 0, 0, 4294967295, 1, none, .snap, false, false⟩, -- Trips, total
  ⟨0x3000, 32, 0x10, 1, .u8, .ro, 2, 0, 255, 1, none, .snap, false, false⟩, -- Commanded state
  ⟨0x3000, 32, 0x11, 1, .u8, .ro, 0, 0, 255, 1, none, .snap, false, false⟩, -- Actual state
  ⟨0x3000, 32, 0x12, 1, .ns64, .ro, 0, 0, 18446744073709551615, 1, none, .snap, false, false⟩, -- Actual since
  ⟨0x3000, 32, 0x13, 1, .u16, .ro, 0, 0, 65535, 1, none, .snap, false, false⟩, -- Mismatch batches
  ⟨0x3000, 32, 0x14, 1, .u8, .ro, 0, 0, 255, 1, none, .snap, false, false⟩, -- Mismatch cause
  ⟨0x3000, 32, 0x15, 1, .u32, .ro, 0, 0, 4294967295, 1, none, .snap, false, false⟩, -- Mismatch events
  ⟨0x3000, 32, 0x16, 1, .u8, .ro, 0, 0, 255, 1, none, .snap, false, false⟩, -- Service state
  ⟨0x3000, 32, 0x17, 1, .u16, .ro, 65535, 0, 65535, 1, none, .other, false, false⟩ -- Global outlet number
  ]

/-- Objects from index 0x3100 on (R469). -/
def objects310 : List ObjRow := [
  ⟨0x3100, 1, 0x01, 1, .u16, .ro, 0, 0, 65535, 1, none, .snap, false, false⟩, -- Store status
  ⟨0x3100, 1, 0x02, 1, .u8, .ro, 0, 0, 255, 1, none, .snap, false, false⟩, -- Live set slot
  ⟨0x3100, 1, 0x03, 1, .u32, .ro, 0, 0, 4294967295, 1, none, .snap, false, false⟩, -- Live slot commit sequence
  ⟨0x3100, 1, 0x04, 1, .u32, .ro, 0, 0, 4294967295, 1, none, .snap, false, false⟩, -- Ordered commits
  ⟨0x3100, 1, 0x05, 1, .u32, .ro, 0, 0, 4294967295, 1, none, .other, false, false⟩, -- Copies found invalid at boot
  ⟨0x3101, 1, 0x01, 1, .u8, .ro, 0, 0, 255, 1, none, .other, false, false⟩, -- Running image
  ⟨0x3101, 1, 0x02, 1, .u8, .ro, 2, 0, 255, 1, none, .snap, false, false⟩, -- Image A state
  ⟨0x3101, 1, 0x03, 1, .u8, .ro, 0, 0, 255, 1, none, .snap, false, false⟩, -- Image B state
  ⟨0x3101, 1, 0x04, 1, .u32, .ro, 0, 0, 4294967295, 1, none, .other, false, false⟩, -- Image A version
  ⟨0x3101, 1, 0x05, 1, .u32, .ro, 0, 0, 4294967295, 1, none, .other, false, false⟩, -- Image B version
  ⟨0x3101, 1, 0x06, 1, .domain, .wo, 0, 12, 32772, 8, none, .other, false, false⟩, -- Image chunk
  ⟨0x3101, 1, 0x07, 1, .u32, .ro, 0, 0, 4294967295, 1, none, .snap, false, false⟩, -- Bytes loaded
  ⟨0x3101, 1, 0x08, 1, .bool, .wo, 0, 1, 1, 1, none, .other, false, false⟩, -- Erase inactive image
  ⟨0x3101, 1, 0x09, 1, .bool, .wo, 0, 1, 1, 1, none, .other, false, false⟩, -- Activate inactive image
  ⟨0x3101, 1, 0x0A, 1, .u32, .ro, 0, 0, 4294967295, 1, none, .other, false, false⟩, -- Rollback counter
  ⟨0x3102, 1, 0x01, 1, .domain, .wo, 0, 16, 16, 1, none, .other, false, false⟩, -- Calibration key
  ⟨0x3102, 1, 0x02, 1, .u8, .ro, 1, 0, 255, 1, none, .other, false, false⟩, -- Lifecycle state
  ⟨0x3102, 1, 0x03, 1, .u8, .ro, 2, 0, 255, 1, none, .snap, false, false⟩, -- Key status
  ⟨0x3102, 1, 0x04, 1, .domain, .ro, 0, 0, 0, 1, none, .other, false, false⟩, -- Signing public key
  ⟨0x3102, 1, 0x05, 1, .domain, .ro, 0, 0, 0, 1, none, .other, false, false⟩, -- Device certificate
  ⟨0x3102, 1, 0x06, 1, .bool, .wo, 0, 1, 1, 1, none, .other, false, false⟩, -- Debug unlock
  ⟨0x3102, 1, 0x07, 1, .bool, .wo, 0, 1, 1, 1, none, .other, false, false⟩, -- Decommission
  ⟨0x3102, 1, 0x08, 1, .u32, .ro, 0, 0, 4294967295, 1, none, .other, false, false⟩, -- Signing key identifier
  ⟨0x3103, 1, 0x01, 1, .domain, .wo, 0, 8, 8, 1, none, .other, false, false⟩, -- Authentication tag
  ⟨0x3103, 1, 0x02, 1, .u32, .ro, 0, 0, 4294967295, 1, none, .other, false, false⟩, -- Authentication counter
  ⟨0x3103, 1, 0x03, 1, .u32, .ro, 0, 0, 4294967295, 1, none, .snap, false, false⟩, -- Authentication failures
  ⟨0x3103, 1, 0x04, 1, .us, .ro, 0, 0, 4294967295, 1, none, .read, false, false⟩, -- Lockout remaining
  ⟨0x3104, 1, 0x01, 1, .u32, .ro, 0, 0, 4294967295, 1, none, .snap, false, false⟩ -- Records signed
  ]

/-- Objects from index 0x3200 on (R424). -/
def objects320 : List ObjRow := [
  ⟨0x3200, 1, 0x01, 1, .u32, .ro, 0, 0, 4294967295, 1, none, .snap, false, false⟩, -- Last committed group
  ⟨0x3200, 1, 0x02, 1, .u32, .ro, 1015808, 0, 4294967295, 1, none, .snap, false, false⟩, -- Free log space
  ⟨0x3200, 1, 0x03, 1, .u32, .ro, 0, 0, 4294967295, 1, none, .snap, false, false⟩, -- Open entries
  ⟨0x3200, 1, 0x04, 1, .u16, .ro, 0, 0, 65535, 1, none, .snap, false, false⟩, -- Journal status
  ⟨0x3200, 1, 0x05, 1, .us, .ro, 0, 0, 4294967295, 1, none, .other, false, false⟩, -- Last replay time
  ⟨0x3200, 1, 0x06, 1, .u32, .ro, 0, 0, 4294967295, 1, none, .other, false, false⟩, -- Entries replayed
  ⟨0x3200, 1, 0x07, 1, .u32, .ro, 0, 0, 4294967295, 1, none, .snap, false, false⟩, -- Duplicates answered
  ⟨0x3200, 1, 0x08, 1, .u32, .ro, 0, 0, 4294967295, 1, none, .snap, false, false⟩, -- Busy answers
  ⟨0x3200, 1, 0x09, 1, .us, .ro, 0, 0, 4294967295, 1, none, .snap, false, false⟩, -- Group write time, last batch
  ⟨0x3200, 1, 0x0A, 1, .us, .ro, 0, 0, 4294967295, 1, none, .snap, false, false⟩, -- Longest group write, last 1,000 batches
  ⟨0x3200, 1, 0x0B, 1, .u32, .ro, 0, 0, 4294967295, 1, none, .snap, false, false⟩, -- Carried groups
  ⟨0x3200, 1, 0x0C, 1, .u32, .ro, 0, 0, 4294967295, 1, none, .other, false, false⟩, -- Journal gaps
  ⟨0x3200, 1, 0x0D, 1, .u16, .rwb, 256, 16, 512, 1, none, .other, false, false⟩, -- As-applied backlog limit
  ⟨0x3200, 1, 0x0E, 1, .u16, .rwb, 64, 32, 256, 1, none, .other, false, false⟩, -- Intake level
  ⟨0x3201, 1, 0x01, 1, .u8, .rw, 17, 0, 31, 1, none, .other, false, false⟩, -- Source select
  ⟨0x3201, 1, 0x02, 1, .u16, .rw, 0, 0, 65535, 1, none, .other, false, false⟩, -- Sub-key select
  ⟨0x3201, 1, 0x03, 1, .u32, .ro, 0, 0, 4294967295, 1, none, .read, false, false⟩, -- Last sequence of selected source
  ⟨0x3201, 1, 0x04, 1, .u32, .ro, 0, 0, 4294967295, 1, none, .read, false, false⟩, -- Open entries of selected source
  ⟨0x3202, 1, 0x01, 8, .u64, .ro, 0, 0, 18446744073709551615, 1, none, .snap, false, false⟩, -- CAN-I client NAME, slots 0 to 7
  ⟨0x3202, 1, 0x09, 1, .u8, .wo, 0, 0, 7, 1, none, .other, false, false⟩, -- Release CAN-I client slot
  ⟨0x3203, 1, 0x01, 1, .u16, .ro, 0, 0, 65535, 1, none, .snap, true, false⟩ -- Acknowledgements held for mirror (lead only)
  ]

/-- R400: the object rows at the sixteen indices `16 g` to `16 g + 15`. -/
def objSection : Nat → List ObjRow
  | 0x100 => objects100
  | 0x101 => objects101
  | 0x103 => objects103
  | 0x110 => objects110
  | 0x180 => objects180
  | 0x181 => objects181
  | 0x182 => objects182
  | 0x200 => objects200
  | 0x201 => objects201
  | 0x202 => objects202
  | 0x203 => objects203
  | 0x204 => objects204
  | 0x205 => objects205
  | 0x210 => objects210
  | 0x211 => objects211
  | 0x212 => objects212
  | 0x213 => objects213
  | 0x220 => objects220
  | 0x230 => objects230
  | 0x231 => objects231
  | 0x240 => objects240
  | 0x250 => objects250
  | 0x260 => objects260
  | 0x261 => objects261
  | 0x270 => objects270
  | 0x271 => objects271
  | 0x272 => objects272
  | 0x280 => objects280
  | 0x281 => objects281
  | 0x282 => objects281
  | 0x290 => objects290
  | 0x291 => objects291
  | 0x292 => objects292
  | 0x2A0 => objects2A0
  | 0x2A1 => objects2A1
  | 0x2A2 => objects2A2
  | 0x2B0 => objects2B0
  | 0x2C0 => objects2C0
  | 0x2C2 => objects2C2
  | 0x2C3 => objects2C3
  | 0x2C4 => objects2C4
  | 0x2D0 => objects2D0
  | 0x2E0 => objects2E0
  | 0x2F0 => objects2F0
  | 0x300 => objects300
  | 0x301 => objects300
  | 0x310 => objects310
  | 0x320 => objects320
  | _ => []

/-- R379: the row that a 24-bit address (R18) names. -/
def rowCovers (r : ObjRow) (a : Nat) : Bool :=
  let i := a / 256
  let s := a % 256
  r.idx ≤ i && i < r.idx + r.count && r.sub ≤ s && s < r.sub + r.subs

/-- First row of a list that covers an address. -/
def findRow : List ObjRow → Nat → Option ObjRow
  | [], _ => none
  | r :: rs, a => if rowCovers r a then some r else findRow rs a

/-- R379: the row of an address, none where no chapter defines it. -/
def objRow (a : Nat) : Option ObjRow := findRow (objSection (a / 4096)) a

/-- R379: some row of a list lies at an index. -/
def hasIndex : List ObjRow → Nat → Bool
  | [], _ => false
  | r :: rs, i => (r.idx ≤ i && i < r.idx + r.count) || hasIndex rs i

/-- R379: the highest subindex in use at an index, 0 where none is above 0. -/
def highestSub : List ObjRow → Nat → Nat
  | [], _ => 0
  | r :: rs, i =>
    if r.idx ≤ i && i < r.idx + r.count then max (r.sub + r.subs - 1) (highestSub rs i) else highestSub rs i

/-- R380: whether a type holds a byte string. -/
def typeIsBytes : OType → Bool
  | .domain => true
  | .str => true
  | _ => false

/-- R389: whether a type is 64 bits wide. -/
def typeIsWide : OType → Bool
  | .u64 => true
  | .ns64 => true
  | _ => false

/-- Table 16.1: bytes of a scalar type (0 for a byte string). -/
def typeBytes : OType → Nat
  | .bool => 1 | .u8 => 1 | .i8 => 1
  | .u16 => 2 | .i16 => 2 | .ang => 2
  | .u32 => 4 | .us => 4 | .i32 => 4 | .mm => 4 | .q16 => 4
  | .u64 => 8 | .ns64 => 8
  | .domain => 0 | .str => 0

/-- Bytes of a natural number, least significant first (R13). -/
def leBytes : Nat → Nat → List Byte
  | 0, _ => []
  | k + 1, v => BitVec.ofNat 8 v :: leBytes k (v / 256)

/-- The natural number that bytes spell, least significant first (R13). -/
def leNat : List Byte → Nat
  | [] => 0
  | b :: bs => b.toNat + 256 * leNat bs

/-- The tail of the sine series from term `k` on: `t` is the last term, `x2` the square, both scaled by 2^60. -/
def sineSeries (x2 : Int) : Nat → Nat → Int → Int → Int
  | 0, _, _, s => s
  | f + 1, k, t, s =>
    let t' : Int := t * x2 / 2 ^ 60 / ((2 * k) * (2 * k + 1) : Nat)
    sineSeries x2 f (k + 1) t' (if k % 2 = 1 then s - t' else s + t')

/-- Sine of a quarter turn times `n / d` (`n ≤ d`), scaled by 2^60: Taylor series, exact to the rounding of R251. -/
def sineQuarter (n d : Nat) : Int :=
  let x : Int := 3622009729038561421 * (n : Int) / (2 * (d : Int))
  sineSeries (x * x / 2 ^ 60) 12 1 x x

/-- Sine of `a / 2^k` turns scaled by 2^60, `q = 2^(k-2)` the steps of a quarter turn. -/
def sineTurn (a q : Nat) : Int :=
  let r := a % q
  match a / q % 4 with
  | 0 => sineQuarter r q
  | 1 => sineQuarter (q - r) q
  | 2 => - sineQuarter r q
  | _ => - sineQuarter (q - r) q

/-- R251: entry `a` of the default sine table, round(32,767 sin(2πa ÷ 1,024)). -/
def sineEntry (a : Nat) : Int :=
  let s := sineTurn (a % 1024) 256
  let m : Nat := (65534 * s.natAbs + 2 ^ 60) / 2 ^ 61
  if s < 0 then - (m : Int) else m

/-- R251: the default sine table, 1,024 little-endian I16. -/
def sineTable : List Byte :=
  (List.range 1024).flatMap fun a => leBytes 2 ((sineEntry a % 65536).toNat)

/-- R64: the flat default profile: 500 mm reference height, 1,000 mm width, every weight 255. -/
def flatPattern : List Byte := leBytes 4 500 ++ leBytes 4 1000 ++ List.replicate 32 0xFF

/-- R113: the default flow curve: a straight line to 100 % and 4,000 mL/min at 300 kPa. -/
def straightCurve : List Byte :=
  leBytes 4 300 ++ (List.range 9).flatMap fun k => leBytes 2 (1250 * k) ++ leBytes 2 (500 * k)

/-- A number in ASCII decimal, without leading zeros. -/
def decimalBytes (n : Nat) : List Byte := (Nat.toDigits 10 n).map fun c => BitVec.ofNat 8 c.toNat

/-- Table 8.11, Table 10.1, Table 18.6 and the other defaults that depend on the record or the subindex; `none` where
the row's own default stands. -/
def specialDefault (a : Nat) : Option Val :=
  let i := a / 256
  let s := a % 256
  let num := fun (v : Int) => some (Val.num v)
  if 0x2501 ≤ i && i ≤ 0x2504 then
    match s with
    | 0x07 => num 40 | 0x08 => num 30 | 0x09 => num 30 | 0x0A => num 25
    | 0x0B => num 200 | 0x0C => num 150 | 0x0D => num 150 | 0x0E => num 120
    | 0x0F => num 51118 | 0x10 => num 65536 | 0x11 => num 78643 | 0x12 => num 85852
    | _ => none
  else if 0x3000 ≤ i && i ≤ 0x301F && s = 0x37 then num (12500 * ((i - 0x3000) % 8 : Nat))
  else if 0x2610 ≤ i && i ≤ 0x2617 && s = 0x02 then num ((i - 0x2610 : Nat))
  else if 0x2618 ≤ i && i ≤ 0x261F && s = 0x02 then num (625 * (i - 0x2618 : Nat))
  else if i = 0x2700 then
    match s with
    | 0x09 => num 40 | 0x0A => num 24 | 0x0B => num 32 | 0x0C => num 48
    | _ => none
  else if i = 0x2D03 then
    match s with
    | 0x05 => num 40 | 0x06 => num 30 | 0x07 => num 25 | 0x08 => num 20
    | _ => none
  else if i = 0x2010 && 1 ≤ s && s ≤ 16 then some (.bytes flatPattern)
  else if 0x2120 ≤ i && i ≤ 0x2127 && s = 0 then some (.bytes straightCurve)
  else if a = 0x272800 || a = 0x272900 then some (.bytes sineTable)
  else if i = 0x1014 && s = 0 then num 144
  else if a = 0x2C0102 then num 4
  else if a = 0x2C0202 then num 2
  else if 0x2C40 ≤ i && i ≤ 0x2C43 && s = 1 then num (0x80000180 + 0x100 * (i - 0x2C40 : Nat) + 16)
  else if 0x2C48 ≤ i && i ≤ 0x2C4B && s = 1 then num (0x80000200 + 0x100 * (i - 0x2C48 : Nat) + 16)
  else if a = 0x103202 then some (.bytes (List.replicate 256 0xFF))
  else if a = 0x103201 then some (.bytes (List.replicate 256 0))
  else if a = 0x103203 then some (.bytes (List.replicate 128 0))
  else if a = 0x29100B || a = 0x29110B then some (.bytes (List.replicate 20 0))
  else if a = 0x2B010C then some (.bytes (List.replicate 32 0))
  else if a = 0x2B0305 then some (.bytes (List.replicate 24 0))
  else if a = 0x2C200B then some (.bytes (List.replicate 7 0))
  else if 0x3000 ≤ i && i ≤ 0x301F && s = 0x2B then some (.bytes (List.replicate 128 0))
  else if a = 0x100800 then some (.bytes [0x49, 0x58, 0x2D, 0x37, 0x32, 0x33, 0x32])
  else if a = 0x2C2001 then num (Config.nodeIdentity % 2097152 : Nat)
  else if a = 0x100900 then some (.bytes (decimalBytes (Config.packageRevision / 65536 % 65536) ++ [0x2E]
    ++ decimalBytes (Config.packageRevision % 65536)))
  else if a = 0x100A00 then some (.bytes (decimalBytes Config.factoryImageVersion))
  else if a = 0x101803 then num (Config.packageRevision % 2 ^ 32 : Nat)
  else if a = 0x101804 then num (Config.nodeIdentity % 2 ^ 32 : Nat)
  else if a = 0x2A0004 then num (Config.nodeIdentity % 2 ^ 64 : Nat)
  else if a = 0x310104 then num (Config.factoryImageVersion % 2 ^ 32 : Nat)
  else if a = 0x31010A then num (Config.securityVersion Config.factoryImageVersion % 2 ^ 32 : Nat)
  else if a = 0x310204 then some (.bytes (Config.signingPublicKey.take 64))
  else if a = 0x310205 then some (.bytes (Config.deviceCertificate.take 2048))
  else if a = 0x310208 then num (Config.signingKeyId % 2 ^ 32 : Nat)
  else none

/-- R379, R385: the default of an object; subindex 0x00 of a record gives the highest subindex in use. -/
def objDefault (a : Nat) : Val :=
  match objRow a with
  | some r =>
    match specialDefault a with
    | some v => v
    | none => if typeIsBytes r.ty then .bytes [] else .num r.dflt
  | none => .num (if a % 256 = 0 then highestSub (objSection (a / 4096)) (a / 256) else 0)

end Sys2Proof.Machine
end

