-- ==== Sys2Proof/Machine/State.lean ====
section
/-! DEFINITION. The state of the block as plain data: the object stores of the dictionary, and for each chapter the
state that its rules name beside the objects. -/

namespace Sys2Proof.Machine

/-- An object store: (24-bit address, value) pairs with addresses rising; an unlisted address holds its default. -/
abbrev Store := List (Nat × Val)

/-- R29, R436, R439, R475, R480: what the logic die is doing. -/
inductive RunState where
  /-- in reset until the clock monitors have held lock for 1 ms, then boot -/
  | hold
  /-- lock-loss reset -/
  | lockLoss
  /-- booted and running -/
  | running
  /-- booted into recovery (R462) -/
  | recovery
  /-- held in reset by a logic-die thermal shutdown -/
  | shutdown
  /-- dormant mode -/
  | dormant
  /-- off mode -/
  | offMode
  deriving DecidableEq, Repr

/-- Straps that the device samples; the levels of output pins follow from the state that drives them. -/
structure Pins where
  /-- ROLE strap: lead -/
  role : Bool := false
  deriving DecidableEq, Repr

/-- R475, R479: the power-mode requests. -/
inductive PowerRequest where
  | dormant
  | off
  | restart
  deriving DecidableEq, Repr

/-- Reset, boot and power modes (R470 to R481). -/
structure Power where
  run : RunState := .hold
  /-- cause of the present reset (Table 21.4) -/
  cause : Nat := 1
  /-- no power-link frame has been sent since the power-on reset (R436) -/
  firstFrame : Bool := false
  /-- VIN has fallen below 0.9 V since the last power-on reset (R439) -/
  porArmed : Bool := true
  /-- device time of the reset release, and the operating time then -/
  releasedAt : Nat := 0
  opBase : Nat := 0
  /-- an accepted power-mode request, and the batch of its acceptance -/
  request : Option (PowerRequest × Nat) := none
  /-- R475 step 1 is in force -/
  winding : Bool := false
  /-- the tether permission has been stopped by a request, a shutdown or supervision, at this device time -/
  stoppedAt : Option Nat := none
  /-- the logic-die thermal shutdown has begun (R436) -/
  shutdownBegun : Bool := false
  /-- a first armed batch has begun (R480 step 6) -/
  armedOnce : Bool := false
  /-- device time of the first armed batch -/
  armedAt : Nat := 0
  /-- core halted from the debug port: core 0, core 1 (R255) -/
  halted0 : Bool := false
  halted1 : Bool := false
  deriving DecidableEq, Repr

/-- The logic side of the tether and the supervision word (R27, R30). -/
structure Tether where
  /-- last refresh of the batch sequencer's permission; none when void -/
  seqAt : Option Nat := none
  /-- last refresh of management core 1's permission; none when void -/
  coreAt : Option Nat := none
  /-- last refresh or revocation, for R437 -/
  lastRefresh : Nat := 0
  revoked : Bool := false
  count : Nat := 0
  sent : Nat := 0
  /-- failed checks in a row of core 0 by core 1, and of core 1 by core 0 -/
  failed0 : Nat := 0
  failed1 : Nat := 0
  /-- a supervision reset has been started -/
  resetPending : Bool := false
  /-- the power link: command frames sent whose tick has not come, and the number of the next -/
  issued : List PlFrame := []
  nextId : Nat := 0
  deriving DecidableEq, Repr

/-- The power die's own state (R20 to R23, R31 to R34, R471): supplies, the tether monitor and its latch. -/
structure PowerDie where
  /-- VBAT1 and VBAT2, mV -/
  v1 : Nat := 0
  v2 : Nat := 0
  /-- its logic regulator runs: at least one VBAT at 4.5 V or more since its last reset -/
  powered : Bool := false
  armed : Bool := false
  /-- reference count of R31; none before the first good token -/
  refCount : Option Nat := none
  lastValid : Nat := 0
  /-- what followed the last valid token: 1 nothing, 2 a bad CRC last, 3 a count out of sequence last -/
  trail : Nat := 1
  validRun : Nat := 0
  /-- safe-state entries, and the cause of the latest until the logic die has read it -/
  entries : Nat := 0
  cause : Nat := 0
  unread : Bool := false
  /-- thermal shutdown latched (R436) -/
  latched : Bool := false
  /-- VBAT reversed (R229), PGND open (R228), in load dump (R230) -/
  reversed : Bool := false
  pgndOpen : Bool := false
  loadDump : Bool := false
  /-- the forwarded clock has been lost (R254, R440) -/
  clockLost : Bool := false
  /-- command frames that wait for their tick (R22) -/
  commands : List PlFrame := []
  /-- the live drive, switch and PWM settings have been sent since it booted (R473, R480) -/
  settings : Bool := false
  /-- the logic die has found it absent, until the first batch after it arms (R473) -/
  absent : Bool := false
  /-- t_e of the first batch since it armed, from which the scheduler sends commands (R33, R252) -/
  opened : Option Nat := none
  deriving DecidableEq, Repr

/-- Chain time and the RTC (R35 to R41, R56 to R58). -/
structure Time where
  /-- device time, ns since the first power-on -/
  now : Nat := 0
  /-- chain time − device time -/
  offset : Int := 0
  seeded : Bool := false
  /-- Table 2.1 -/
  state : Nat := 0
  /-- Table 2.7 [5:4] -/
  source : Nat := 0
  /-- error still to be slewed out (chain time − reference), ns -/
  slewLeft : Int := 0
  slewing : Bool := false
  /-- a step waits for the next boundary (R40) -/
  stepPending : Option Int := none
  /-- device time of entry into holdover -/
  holdoverAt : Nat := 0
  /-- the time-lost action waits for the next boundary / is in force (R39) -/
  lostPending : Bool := false
  lostAction : Bool := false
  /-- the time-lost action ends at the next boundary, where the slew begins (R40) -/
  lostEnds : Bool := false
  /-- a wheeler in holdover has re-locked, and steers until it meets the locked condition (R40) -/
  relocked : Bool := false
  /-- a port whose report slots are no longer filled (R316) -/
  slotStopped : Bool := false
  /-- the last PPS pulse: chain times of its start and end (R56) -/
  ppsPulse : Option (Nat × Nat) := none
  /-- the PPS polarity in force: active low (0x1820:03, from a whole second on) -/
  ppsLow : Bool := false
  deriving DecidableEq, Repr

/-- The RTC, which runs in dormant mode (R57). -/
structure Rtc where
  /-- RTC ns since the GPS epoch − device time, but for the trim since `since` -/
  offset : Int := 0
  /-- the trim in force, ppb, and the device time from which it counts -/
  trim : Int := 0
  since : Nat := 0
  valid : Bool := false
  /-- device time of the last disciplining -/
  disciplined : Option Nat := none
  /-- 0x2D06:03 as dormant mode was entered: the alarm, GPS seconds -/
  alarm : Nat := 0
  deriving DecidableEq, Repr

/-- The batch sequencer (R42 to R49). -/
structure Sequencer where
  /-- a boundary has been raised since enumeration -/
  running : Bool := false
  /-- R43: a wheeler has taken its batch number from the lead since enumeration or its last re-lock -/
  synced : Bool := false
  number : Nat := 0
  /-- present-device map (R43), and the one that the next batch sync carries (R139) -/
  map : Nat := 0
  mapNext : Option Nat := none
  /-- chain time of the current boundary -/
  t0 : Nat := 0
  /-- 0 A, 1 B, 2 C, 3 D -/
  phase : Nat := 0
  /-- consecutive stale boom-state batches -/
  staleRun : Nat := 0
  /-- R323: the first batch in which this lead is a wheeler -/
  giveUp : Option Nat := none
  /-- position of the acting lead (R322) -/
  leadAt : Nat := 0
  /-- Phase D work of the batch still to do: journal, recorder, paint, set slots -/
  journalDue : Bool := false
  recorderDue : Bool := false
  paintDue : Bool := false
  slotsDue : Bool := false
  /-- the lead's mirror of the batch is still to be sent (R320) -/
  mirrorDue : Bool := false
  /-- no edges are committed in this batch (R39, R40) -/
  held : Bool := false
  deriving DecidableEq, Repr

/-- Table 2.4, the lead's side: the announced set. -/
structure SwapSet where
  batch : Nat
  number : Nat
  /-- the batch period that the set puts in force, µs (R44, R435) -/
  period : Nat
  counts : Vector Nat 32
  reports : Vector (Option Bool) 32
  postponements : Nat
  goSent : Bool
  deriving DecidableEq, Repr

/-- R53: an announcement as a device holds it: the swap batch, the set's number, the device's own count, and the batch
period (µs) that the set puts in force. -/
structure Announcement where
  batch : Nat
  number : Nat
  count : Nat
  period : Nat
  /-- the parents of the boom segments after the swap (R65) -/
  model : Vector Nat 16
  deriving DecidableEq, Repr

/-- Setting swaps (R50 to R55). -/
structure Swap where
  /-- lead: writes pending for the next set, by position, and the batch of the first -/
  counts : Vector Nat 32 := Vector.replicate 32 0
  first : Option Nat := none
  named : Option Nat := none
  set : Option SwapSet := none
  nextNumber : Nat := 1
  /-- device: the announcement held -/
  announced : Option Announcement := none
  ready : Bool := false
  go : Option Nat := none
  cancelled : Option Nat := none
  /-- the set whose ready mark is written (R415) -/
  marked : Option Nat := none
  /-- the proof-set writes that have not become live, in the order of their acceptance: an announced set takes the first of
  them, as many as it counts for the device -/
  writes : List (Nat × Val) := []
  /-- R322: proof values of lead-only objects that came with the lead role -/
  adopted : Store := []
  /-- own and replayed writes before the first batch, for the first swap request (R52, R415) -/
  unrequested : Nat := 0
  /-- CAL writes whose ordered commit is not whole (R383) -/
  calPending : List (Nat × Val) := []
  /-- number of the set that became live at the last swap -/
  doneSet : Nat := 0
  deriving DecidableEq, Repr

/-- One accessor's snapshot state (R389 to R391, R453, R464). -/
structure AccessorState where
  acc : Accessor
  /-- 64-bit capture: address, value, device time -/
  wide : Option (Nat × Nat × Nat) := none
  /-- DOMAIN capture: address, bytes, device time, and whether it is a queue record -/
  block : Option (Nat × List Byte × Nat × Bool) := none
  /-- staged high half: address, data, device time -/
  staged : Option (Nat × Nat × Nat) := none
  /-- tag and its device time -/
  tag : Option (List Byte × Nat) := none
  area : Nat := 1
  record : Nat := 0
  page : Nat := 0
  deriving DecidableEq, Repr

/-- An acknowledgement that waits for its journal group, and perhaps for the mirror (R408, R417). -/
structure Ack where
  acc : Accessor
  seq : Nat
  outcome : Nat
  /-- mirror batch that must be acknowledged first -/
  mirror : Option Nat := none
  /-- tag of a management request -/
  tag : Nat := 0
  deriving DecidableEq, Repr

/-- A request that the aggregator has outstanding (R331, R387). -/
structure Remote where
  position : Nat
  req : DictRequest
  sentAt : Nat
  /-- the request has left the lead -/
  sent : Bool
  busyAt : Option Nat := none
  /-- accessor to answer; none for a chain forward -/
  origin : Option Accessor := none
  /-- R387, R417: the journal group with a forward is committed; the mirror batch that must be acknowledged before it leaves -/
  committed : Bool := true
  mirror : Option Nat := none
  deriving DecidableEq, Repr

/-- The dictionary service (chapter "Object dictionary"). -/
structure Dictionary where
  accessors : List AccessorState := []
  /-- aggregator sequence by target position -/
  aggSeqs : Vector Nat 32 := Vector.replicate 32 0
  remotes : List Remote := []
  nextTag : Nat := 0
  /-- management requests that this device has taken and not answered in full, in their order: tag, and the response where it
  is known (R331, R388) -/
  answers : List (Nat × Option DictResponse) := []
  /-- writes to another device that wait for its response, by the tag of the request (R387) -/
  remoteAcks : List Ack := []
  /-- what the aggregator last read of other devices' units: position, address, value (R394, R398) -/
  units : List ((Nat × Nat) × Int) := []
  /-- load-switch masks that the lead has commanded of other devices, by position (R398) -/
  masks : Vector (Option Nat) 32 := Vector.replicate 32 none
  /-- mismatch events learned since the last boundary: position, unit, cause (R398) -/
  reconcile : List (Nat × Nat × Nat) := []
  /-- R397: batches of mismatch in a row, by load switch -/
  switchRun : Vector Nat 8 := Vector.replicate 8 0
  deriving DecidableEq, Repr

/-- The accepted-work journal outside MRAM (R401 to R419). -/
structure Journal where
  /-- open half and reserved half of the group buffer -/
  openHalf : List JEntry := []
  reserved : List JEntry := []
  /-- last sequence by (source, sub-key) -/
  seqs : List ((Nat × Nat) × Nat) := []
  clients : Vector Nat 8 := Vector.replicate 8 0
  /-- entries whose work is still to be done -/
  openEntries : List JEntry := []
  waiting : List Ack := []
  held : List Ack := []
  tailMoved : Bool := false
  /-- R464: raises of the authentication counter that the device records do not hold yet -/
  counterDue : Nat := 0
  /-- a group carried past its boundary (R49): how many entries of each half, and acknowledgements, belong to it -/
  late : Option (Nat × Nat × Nat) := none
  /-- lead-role entries set aside at replay (R419) -/
  setAside : List JEntry := []
  checkpointAt : Nat := 0
  /-- batches and write times (µs) of the groups of the last 1,000 batches -/
  writes : List (Nat × Nat) := []
  deriving DecidableEq, Repr

/-- One page of a recorder area (R446). -/
structure Page where
  seq : Nat
  records : List Record
  deriving DecidableEq, Repr

/-- A record written lately, for folding (R451): code, unit, chain time, repeats folded since. -/
structure Repeat where
  code : Nat
  unit : Nat
  written : Nat
  folded : Nat
  deriving DecidableEq, Repr

/-- The event recorder outside MRAM. -/
structure Recorder where
  buffer : List Event := []
  lostPending : Nat := 0
  repeats : List Repeat := []
  notices : List Record := []
  chainQueue : List (Nat × Record) := []
  /-- lead: number of the last notice of each position, 0 none (R452) -/
  noticed : Vector Nat 32 := Vector.replicate 32 0
  clearRing : Option Nat := none
  deriving DecidableEq, Repr

/-- 0x2E05: transient and permanent counts and the last unit of one fault kind. -/
structure FaultCount where
  transient : Nat := 0
  permanent : Nat := 0
  lastUnit : Nat := 0xFFFF
  deriving DecidableEq, Repr

/-- Faults, spares, thermal management (chapter 18). -/
structure Health where
  faults : Vector FaultCount 20 := Vector.replicate 20 {}
  /-- corrected words of a row and the device time of the last, by (macro, row) -/
  corrected : List ((Nat × Nat) × Nat) := []
  /-- last accepted readings, 0.1 °C; none before the first round -/
  sensors : Vector (Option Int) 11 := Vector.replicate 11 none
  implausible : Vector Nat 11 := Vector.replicate 11 0
  /-- bands in force, and found by the last round: L0, M0, P5, P0 to P3 -/
  bands : Vector Nat 7 := Vector.replicate 7 1
  bandsNext : Vector Nat 7 := Vector.replicate 7 1
  /-- throttle: 0 normal, 1 requested, 2 enforced, 3 shutdown -/
  throttle : Nat := 0
  requestedAt : Nat := 0
  belowSince : Option Nat := none
  /-- enforcement starts or ends at the next boundary -/
  enforceNext : Bool := false
  enforcing : Bool := false
  /-- lead: positions that enforce, replace-me positions -/
  enforcePositions : Nat := 0
  replacePositions : Nat := 0
  requestPositions : Nat := 0
  periodDoubled : Bool := false
  lateRound : Bool := false
  /-- device time of the last housekeeping round (R431) -/
  roundAt : Option Nat := none
  outOfService : Bool := false
  deviceFault : Bool := false
  /-- out of service for a fenced SRAM row (R427) -/
  rowLost : Bool := false
  /-- suspect SRAM rows for the next Phase D: region, macro, row, whether the row passes its test (R426) -/
  suspects : List (SramRegion × Fin 16 × Nat × Bool) := []
  commitDegraded : Bool := false
  deriving DecidableEq, Repr

/-- The failures of R465 and the lockout. -/
structure Lockout where
  failures : List Nat := []
  until_ : Option Nat := none
  deriving DecidableEq, Repr

/-- A firmware image area (Table 20.4): its bytes as loaded, by offset in canonical form, and its state. -/
structure Image where
  bytes : List Host.Cell := []
  loaded : Nat := 0
  version : Nat := 0
  /-- chunks beyond the contiguous part: first byte and end -/
  beyond : List (Nat × Nat) := []
  deriving DecidableEq, Repr

/-- The host port (R374 to R376): the staging buffer in canonical form (an unlisted byte is 0), completion records, and
results kept for a repeated read. -/
structure HostPort where
  staging : List Host.Cell := []
  completions : List (Nat × Nat) := []
  /-- R376: command, target and address of a remote read, its result and the device time of that -/
  results : List (Nat × ReadResult × Nat) := []
  /-- R376: the reads of other devices that have answered retry and have had no result yet: their keys -/
  awaited : List Nat := []
  /-- a record was written since the last port status read -/
  recorded : Bool := false
  deriving DecidableEq, Repr

/-- A queued record and whether it has been offered since it was queued or re-offered. -/
structure Offered (α : Type) where
  item : α
  offered : Bool
  at_ : Nat
  deriving DecidableEq, Repr

/-- The queues that the host reads through DOMAIN objects (R147, R148, R152, R168). -/
structure Queues where
  pages : List Nat := []
  writeBacks : List (Offered TileTransfer) := []
  applied : List (Offered AsApplied) := []
  results : List (Offered ResultRec) := []
  deriving DecidableEq, Repr

/-- R366: one diagnostic trouble code, by event code and unit. -/
structure Dtc where
  code : Nat
  unit : Nat
  count : Nat
  active : Bool
  deriving DecidableEq, Repr

/-- R365, R366, R373: what the two CAN buses report of the conditions that events raise. -/
structure Diagnostics where
  dtcs : List Dtc := []
  /-- a DTC became active and DM1 has not been sent since -/
  fresh : Bool := false
  /-- device time of the last DM1 -/
  dm1At : Option Nat := none
  /-- R430: on the lead, replace-me of any position of the chain: active, and its occurrence count -/
  chainActive : Bool := false
  chainCount : Nat := 0
  deriving DecidableEq, Repr

/-- A CAN controller (R356 to R362): its state (0x2C01:0D), error counters, receive FIFO, the device times of its last
bus-offs and the end of the wait before recovery. -/
structure CanController where
  state : Nat := 0
  txErrors : Nat := 0
  rxErrors : Nat := 0
  fifo : List CanFrame := []
  busOffs : List Nat := []
  waitUntil : Option Nat := none
  deriving DecidableEq, Repr

/-- R365: a transport session that receives: control function, PGN, bytes so far, packets so far, and ETP. -/
structure Transport where
  source : Nat
  pgn : Nat
  bytes : Nat
  packets : Nat
  etp : Bool
  deriving DecidableEq, Repr

/-- R367: a measurement command of the Task Controller server: 0 time interval (ms), 1 distance interval (mm), 2 and 3
minimum and maximum threshold, 4 on change; with what was reported last. -/
structure Trigger where
  element : Nat
  ddi : Nat
  kind : Nat
  value : Int
  sentAt : Nat := 0
  sentTravel : Int := 0
  sent : Option Int := none
  deriving DecidableEq, Repr

/-- ISO 11783 on CAN-I (R363 to R368). -/
structure Iso where
  /-- 0x2C20:07, and whether the device has sent cannot-claim -/
  address : Nat := 254
  /-- NAME and address of the other control functions -/
  others : List (Nat × Nat) := []
  sessions : List Transport := []
  /-- 0x2C20:0A, the device time of the server's last message, and the structure label of the pool that is active -/
  tc : Nat := 0
  heardAt : Nat := 0
  activeLabel : List Byte := []
  /-- setpoints of the server: the work state is off; sections blocked under automatic control -/
  workOff : Bool := false
  blocked : Vector Nat 8 := Vector.replicate 8 0
  triggers : List Trigger := []
  /-- distance travelled, mm, for distance intervals -/
  travel : Int := 0
  deriving DecidableEq, Repr

/-- R372: a TPDO: batches since its last frame, the device time of that, and the bytes it carried. -/
structure Tpdo where
  batches : Nat := 0
  sentAt : Option Nat := none
  sent : List Byte := []
  deriving DecidableEq, Repr

/-- CANopen on CAN-P (R369 to R373). -/
structure CanOpen where
  /-- 0x2C30:02 -/
  nmt : Nat := 0x7F
  /-- address of the SDO transfer in progress, and the device time of the last request -/
  sdo : Option Nat := none
  sdoAt : Nat := 0
  /-- address of a segmented upload that has been answered and whose end no command reports -/
  upload : Option Nat := none
  /-- device times of the last heartbeat sent, and of the last one heard of each consumed producer; those that are lost -/
  beatAt : Nat := 0
  heard : Vector (Option Nat) 2 := Vector.replicate 2 none
  lost : Vector Bool 2 := Vector.replicate 2 false
  tpdos : Vector Tpdo 4 := Vector.replicate 4 {}
  /-- EMCY messages held back by the inhibit time: error code, event code; and the device time of the last one sent -/
  emcys : List (Nat × Nat) := []
  emcyAt : Option Nat := none
  deriving DecidableEq, Repr

/-- The two CAN buses (chapter 15): CAN-I is 0, CAN-P is 1. -/
structure Can where
  buses : Vector CanController 2 := Vector.replicate 2 {}
  iso : Iso := {}
  copen : CanOpen := {}
  deriving DecidableEq, Repr

/-- Table 8.3: channel states. -/
inductive ChannelMode where
  | off | waiting | peak | hold | release | tripped | retired
  deriving DecidableEq, Repr

/-- One valve channel on the power die (R198 to R211). Instants are chain times. -/
structure Channel where
  mode : ChannelMode := .off
  /-- between a switch-on and a switch-off -/
  on : Bool := false
  /-- duty in force, 0.01 % -/
  duty : Nat := 10000
  start : Nat := 0
  /-- end of the on-time of a PWM pulse; none when the pulse has none -/
  onEnd : Option Nat := none
  arrival : Option Int := none
  releaseKink : Option Int := none
  releaseStart : Nat := 0
  waitSince : Nat := 0
  /-- the peak time limit and the peak tail, µs, of the running phase (R216) -/
  peakLimit : Nat := 0
  peakTail : Nat := 0
  /-- flags of the running pulse: slot pulse, re-strike, waited, fallback, no-arrival, kinks withheld from LEARN -/
  slot : Bool := false
  reStrike : Bool := false
  waited : Bool := false
  fallback : Bool := false
  noArrival : Bool := false
  withheld : Bool := false
  /-- consecutive trips, and the end of the back-off -/
  trips : Nat := 0
  backOff : Nat := 0
  /-- consecutive open-load detections; consecutive clean checks; consecutive clean off-state tests -/
  openRun : Nat := 0
  cleanRun : Nat := 0
  cleanOff : Nat := 0
  /-- outlet faults: open load, own short to ground, common off for another channel's short to ground -/
  faultOpen : Bool := false
  faultGround : Bool := false
  faultBank : Bool := false
  /-- Table 8.17 flags -/
  openOn : Bool := false
  groundOn : Bool := false
  supplyOn : Bool := false
  openOff : Bool := false
  groundOff : Bool := false
  supplyOff : Bool := false
  notTested : Bool := false
  shortPulse : Bool := false
  unreachable : Bool := false
  senseFault : Bool := false
  missed : Bool := false
  /-- a write to 0x2500:07 asks for its return test, and the boundary at which it is taken has come (R493) -/
  returning : Bool := false
  testDue : Bool := false
  /-- the freewheel switch is closed: a slow release runs (R198) -/
  freewheel : Bool := false
  /-- the hold current in force, mA, of the hold that runs (R215, R216) -/
  holdCurrent : Nat := 0
  /-- device time of the last off-state test (R210) -/
  testedAt : Option Nat := none
  /-- released by the tether safe state: its release kink may still be reported (R217) -/
  safeRelease : Bool := false
  deriving DecidableEq, Repr

/-- One valve bank on the power die (R191 to R214). -/
structure Bank where
  powered : Bool := false
  /-- chain time at which the common was powered -/
  poweredAt : Nat := 0
  boostPeak : Option (Fin 32) := none
  waits : List (Fin 32) := []
  /-- device times of common current-limit events -/
  limits : List Nat := []
  offUntil : Option Nat := none
  /-- common off by a channel's short to ground, to be powered again at the next boundary -/
  groundOff : Bool := false
  groundClear : Bool := false
  /-- sense windows: last pattern, run of it, normal checks in a row -/
  pattern : Nat := 0
  run : Nat := 0
  normals : Nat := 0
  degraded : Bool := false
  highFault : Bool := false
  /-- the channel whose reading differed in a window of the run in which it conducted alone (Table 8.10) -/
  differs : Option (Fin 32) := none
  /-- in the present batch: a wait, a fallback peak, a current limit -/
  waitedNow : Bool := false
  fallbackNow : Bool := false
  limiting : Bool := false
  deriving DecidableEq, Repr

/-- The boost converter (R195 to R197): state code of 0x2508:07. -/
structure Boost where
  state : Nat := 0
  vbst : Nat := 0
  startedAt : Nat := 0
  restartAt : Option Nat := none
  restarts : Nat := 0
  deriving DecidableEq, Repr

/-- The valve drive. -/
structure Valve where
  channels : Vector Channel 32 := Vector.replicate 32 {}
  banks : Vector Bank 4 := Vector.replicate 4 {}
  boost : Boost := {}
  deriving DecidableEq, Repr

/-- One load switch on the power die (R219 to R234). -/
structure Switch where
  /-- the output conducts -/
  on : Bool := false
  /-- commanded state in force, and the duty in force -/
  cmd : Bool := false
  duty : Nat := 10000
  /-- chain time at which the running pulse ends -/
  pulseEnd : Option Nat := none
  /-- device times since which it has been on without a trip, and off -/
  onSince : Nat := 0
  offSince : Nat := 0
  /-- consecutive trips; device time at which the back-off ends; a thermal attempt waits for the local restart -/
  trips : Nat := 0
  backOff : Option Nat := none
  hot : Bool := false
  latched : Bool := false
  /-- latched, and since commanded off (or, in limp-home, its input low) -/
  rearmed : Bool := false
  /-- a pulsed switch attempts at its next period start -/
  attempt : Bool := false
  /-- consecutive detections of open load on and off; clean checks on; clean tests off -/
  openRun : Nat := 0
  openOffRun : Nat := 0
  cleanOn : Nat := 0
  cleanSupply : Nat := 0
  cleanOpenOff : Nat := 0
  /-- Table 9.7 flags -/
  thermal : Bool := false
  overload : Bool := false
  supplyOff : Bool := false
  openOff : Bool := false
  openOn : Bool := false
  notTested : Bool := false
  limp : Bool := false
  /-- device time of the last off-state test (R227) -/
  testedAt : Option Nat := none
  deriving DecidableEq, Repr

/-- The load switches and limp-home inputs of the power die. -/
structure LoadSwitches where
  switches : Vector Switch 8 := Vector.replicate 8 {}
  /-- filtered LH0 to LH3 and LHEN -/
  inputs : Vector Bool 4 := Vector.replicate 4 false
  enable : Bool := false
  /-- R234: in the limp-home state -/
  limpHome : Bool := false
  /-- the power die's own mapping cells (R232): newest valid copy, copies valid, writes used -/
  mapping : Nat := 0
  store : Nat := 0
  writes : Nat := 0
  entries : Nat := 0
  deriving DecidableEq, Repr

/-- R253: the settings of a pair, as its objects hold them. -/
structure PairSet where
  mode : Nat
  deadMin : Nat
  deadMax : Nat
  margin : Nat
  input : Nat
  action : Nat
  axis : Nat
  deriving DecidableEq, Repr

/-- One pair of the bridge PWM generator (R236 to R255). Instants are chain times. -/
structure Pair where
  idle : Bool := true
  faulted : Bool := false
  /-- values in force: ticks, ticks, 125 ps -/
  period : Nat := 0
  phase : Nat := 0
  compare : Nat := 0
  centre : Bool := false
  /-- the running period: its start and its length, ns -/
  start : Nat := 0
  length : Nat := 0
  /-- staged values have been taken with a load-all and are on their way to the period start that applies them -/
  loading : Bool := false
  /-- force fields in force -/
  force : Nat := 0
  /-- tap code in use (R243) -/
  tap : Nat := 32
  /-- outputs, and the instant (125 ps) of the last request transition -/
  gh : Bool := false
  gl : Bool := false
  wantH : Bool := false
  wantL : Bool := false
  changed : Nat := 0
  /-- the running period is cut; overlaps started in it -/
  cut : Bool := false
  overlaps : Nat := 0
  /-- flags of the present batch -/
  cutBatch : Bool := false
  dropBatch : Bool := false
  pinMin : Bool := false
  pinMax : Bool := false
  /-- written to 0x2700:08; returns at the next boundary -/
  returning : Bool := false
  /-- the settings under which a pulse that was running at a swap completes -/
  held : Option PairSet := none
  deriving DecidableEq, Repr

/-- The bridge PWM generator. -/
structure Pwm where
  pairs : Vector Pair 16 := Vector.replicate 16 {}
  /-- fault inputs that are asserted -/
  inputs : Vector Bool 4 := Vector.replicate 4 true
  coarse : Bool := false
  goodRun : Nat := 0
  taps : Nat := 32
  frozen : Bool := false
  /-- the forwarded clock was lost since the last snapshot -/
  lostFlag : Bool := false
  /-- slot amplitudes in force -/
  amplitude : Vector Nat 4 := Vector.replicate 4 5000
  deriving DecidableEq, Repr

/-- R268, Table 11.1: what reaches a meter axis from its outlet: a switch edge, a rate in 0.001 seeds/s, or the stop of a
hard block. -/
inductive AxisEdge where
  | switch (on : Bool)
  | rate (milli : Nat)
  | halt
  deriving DecidableEq, Repr

/-- R274: the settings of an axis that change only at standstill. -/
structure AxisSettings where
  mode : Nat := 0
  dest : Nat := 0
  guest : Nat := 255
  channel : Nat := 0
  cycles : Nat := 50
  gear : Nat := 65536
  seeds : Nat := 30
  invert : Bool := false
  /-- the guest lead of a guest-bound axis, µs, and whether the axis follows the coarse steps (Table 11.2) -/
  lead : Nat := 0
  stepped : Bool := false
  deriving DecidableEq, Repr

/-- One meter motion axis (R257 to R274). Positions are in 1/65,536 microstep, speeds in 1/40,000 microstep/s (so that
an acceleration adds its own number at each update), instants in chain time. -/
structure Axis where
  set : AxisSettings := {}
  /-- 0 standstill, 1 moving, 2 stopping, 3 held, 4 faulted -/
  state : Nat := 0
  pos : Int := 0
  speed : Nat := 0
  reverse : Bool := false
  accel : Int := 0
  /-- running blend: acceleration before and after, updates in all and done -/
  blend : Option (Int × Int × Nat × Nat) := none
  /-- updates since the last corner of the profile (R264), and whether a move has begun to decelerate to its target (R262) -/
  segment : Nat := 0
  braking : Bool := false
  /-- target speed (microsteps/s) and direction of the planner, and quick stop -/
  target : Nat := 0
  targetReverse : Bool := false
  quick : Bool := false
  /-- mode 2: the move target in microsteps, and whether distance remains to it -/
  goal : Int := 0
  remaining : Bool := false
  /-- called on, and the rate in force (0.001 seeds/s) -/
  called : Bool := false
  rate : Nat := 0
  edges : List (Nat × AxisEdge) := []
  /-- move commands accepted, with their batches, and position writes -/
  commands : List (Nat × Nat) := []
  places : List (Int × Nat) := []
  uncertain : Bool := false
  saturated : Bool := false
  deferred : Bool := false
  /-- its destination has been available since the last loss (Table 11.1) -/
  linked : Bool := false
  /-- addresses of the block being filled, and the chain time of its first update -/
  block : List Nat := []
  blockAt : Nat := 0
  /-- travel that counts at a later instant (R269), travel of the present batch, seeds carried over (1/2^32) -/
  later : List (Nat × Int) := []
  travel : Int := 0
  lastTravel : Int := 0
  seedRest : Int := 0
  /-- coarse step: last and previous positions (microsteps), their stamps, direction -/
  coarse : Int := 0
  coarsePrev : Int := 0
  coarseAt : Option Nat := none
  coarsePrevAt : Option Nat := none
  coarseForward : Bool := true
  deriving DecidableEq, Repr

/-- What the device knows of a row-drive guest (R330): the last status, batches without one, and whether it has been
sent axis blocks. -/
structure RowDrive where
  last : Option RowDriveStatus := none
  quiet : Nat := 0
  sent : Bool := false
  deriving DecidableEq, Repr

/-- A FREQ input (R83 to R85): its count, the stamps of its last three edges, the directions of the last two, the last edge
of the pin itself, and of the batch in progress the edges and the first stamp. -/
structure FreqInput where
  count : Nat := 0
  last : Option Nat := none
  prev : Option Nat := none
  older : Option Nat := none
  pin : Option Nat := none
  edges : Nat := 0
  first : Option Nat := none
  forward : Bool := true
  wasForward : Bool := true
  /-- latched: frequency in 0.01 Hz -/
  freq : Nat := 0
  deriving DecidableEq, Repr

/-- A sensor supply (R88). -/
structure Supply where
  on : Bool := false
  limit : Bool := false
  short : Bool := false
  latched : Bool := false
  retries : Nat := 0
  retryAt : Option Nat := none
  deriving DecidableEq, Repr

/-- The sensor input block (R83 to R88): live states and what the boundary latched. -/
structure Inputs where
  freq : Vector FreqInput 8 := Vector.replicate 8 {}
  din : Vector Bool 8 := Vector.replicate 8 false
  dinSnap : Vector Bool 8 := Vector.replicate 8 false
  ainFailed : Vector Bool 16 := Vector.replicate 16 false
  supplies : Vector Supply 2 := Vector.replicate 2 {}
  deriving DecidableEq, Repr

/-- A pose source: delivered once since start-up or its enabling (R77), valid, implausible (R74). -/
structure Source where
  seen : Bool := false
  valid : Bool := false
  implausible : Bool := false
  /-- R74: chain times since which a speed source has disagreed or agreed with the fused speed -/
  disagreeAt : Option Nat := none
  agreeAt : Option Nat := none
  deriving DecidableEq, Repr

/-- A boom segment's sources (R68, R69). -/
structure Segment where
  /-- deflection in force, signed binary angle -/
  flex : Int := 0
  flexFailed : Bool := false
  flexGood : Nat := 0
  heightFailed : Bool := false
  heightGood : Nat := 0
  heightAt : Option Nat := none
  deriving DecidableEq, Repr

/-- R73: an IMU sample as SHAPE keeps it: its chain time, yaw rate, acceleration, and roll and pitch of the implement. -/
structure ImuSample where
  instant : Int
  yawRate : Int
  accel : Int
  roll : Int
  pitch : Int
  deriving DecidableEq, Repr

/-- Pose (R66 to R79): the boom states, SHAPE's fused state in 1/65,536 mm, 1/65,536 mm/s and 1/2^32 turn, and its sources in the order
of Table 3.2. -/
structure Pose where
  sources : Vector Source 5 := Vector.replicate 5 {}
  boom : BoomState := {}
  /-- boom state of the batch before, and of the last 256 ms, newest first -/
  before : BoomState := {}
  history : List BoomState := []
  /-- the boom state that SHAPE's frame of the batch gives, before its task has ended (R46, R183) -/
  shaped : Option BoomState := none
  received : Bool := false
  stale : Bool := false
  /-- last boom state received from the lead -/
  lastGood : BoomState := {}
  east : Int := 0
  north : Int := 0
  up : Int := 0
  heading : Int := 0
  speed : Int := 0
  accel : Int := 0
  yawRate : Int := 0
  placed : Bool := false
  headed : Bool := false
  fix : Option GnssFix := none
  fresh : Bool := false
  /-- class of the last solution that was not discarded, its Doppler speed, its epoch and heading while the fused speed at it
  is not known yet, and epoch, fused speed and heading of the one before (R75, R492) -/
  solution : Nat := 0
  doppler : Option Int := none
  epochNow : Option (Int × Option Int) := none
  epochBefore : Option (Int × Int × Option Int) := none
  /-- the sign of travel held (R492), and the estimated horizontal 1σ -/
  reverse : Bool := false
  sigma : Nat := 0xFFFFFFFF
  /-- correction still to be spread (R77), 1/65,536 mm -/
  leftEast : Int := 0
  leftNorth : Int := 0
  converging : Bool := false
  gnssLostAt : Option Nat := none
  deadEnded : Bool := false
  imuAt : Option Nat := none
  imuCount : Nat := 0
  /-- samples of the last 100 ms, newest first (R73) -/
  imuLog : List ImuSample := []
  baselines : Vector (Option BaselineFix) 32 := Vector.replicate 32 none
  /-- positions whose baseline fix is new since the last boundary -/
  newBases : List (Fin 32) := []
  segments : Vector Segment 16 := Vector.replicate 16 {}
  /-- chain time of the last batch of quality 1 or better -/
  qualityAt : Option Nat := none
  /-- spans by position in the span table in force (R159) -/
  spans : Vector (Option DeviceSpan) 32 := Vector.replicate 32 none
  /-- spans that the ready reports have brought, for the next swap -/
  spansNext : Vector (Option DeviceSpan) 32 := Vector.replicate 32 none
  deriving DecidableEq, Repr

/-- Table 4.5: a pending edge: kinds 1 switch-on, 2 switch-off, 3 rate. `free` marks an edge that minimum times do not
move: a hard block, a row-8 crossing or a target edge. -/
structure Edge where
  instant : Nat
  kind : Nat
  source : Nat
  value : Nat := 0
  moved : Int := 0
  short : Bool := false
  collided : Bool := false
  free : Bool := false
  locked : Bool := false
  deriving DecidableEq, Repr

/-- R93 to R95: one learned delay. -/
structure Delay where
  value : Nat := 0
  rejected : Nat := 0
  accepted : Nat := 0
  pinnedRun : Nat := 0
  pinned : Bool := false
  unmeasurable : Bool := false
  deriving DecidableEq, Repr

/-- A line-buffer entry of PAINT (R144): tile, cell, accumulated 1/256 eighths, over-dose mark and the last batch that
touched it. -/
structure LineCell where
  coord : Nat
  cell : Nat
  acc : Nat
  excess : Bool
  batch : Nat
  deriving DecidableEq, Repr

/-- A local outlet's decision state (chapters 3, 4, 5 and 16). -/
structure Outlet where
  /-- state that its issued edges leave it in, and instants of its last switch edges -/
  on : Bool := false
  /-- the part of it that the section call stands for (R165) -/
  sweepOn : Bool := false
  lastOn : Option Nat := none
  lastOff : Option Nat := none
  edges : List Edge := []
  onDelay : Delay := {}
  offDelay : Delay := {}
  learned : Bool := false
  measures : List (Bool × Option Nat) := []
  /-- R47 -/
  late : Bool := false
  lateRun : Nat := 0
  lateFault : Bool := false
  /-- R103, R110, R151 -/
  doseCall : Bool := false
  /-- R110: the hand-over hold lasts until this chain time at most -/
  holdUntil : Option Nat := none
  missSince : Option Nat := none
  /-- R80, R82: prediction -/
  along : Int := 0
  lateral : Int := 0
  lastAlong : Int := 0
  east : Int := 0
  north : Int := 0
  flags : Nat := 0
  clearRun : Nat := 0
  /-- Table 4.9, bits 0 to 16 of this batch -/
  status : Nat := 0
  rate : Nat := 0
  duty : Nat := 0
  /-- the duties in force since the batch before the present one: from which chain time, and the duty (R144) -/
  duties : List (Nat × Nat) := []
  /-- the counts that RATE's edges and updates leave in force at t_e of the next batch (R107) -/
  zone : Option (Nat × Nat) := none
  overflow : Bool := false
  /-- an edge was missed (R204); the switch-on that failed, for its displacement -/
  missedAt : Option Nat := none
  missed : Bool := false
  /-- deposit intervals (chain time): start, end where it has ended, duty -/
  deposits : List (Nat × Option Nat) := []
  line : List LineCell := []
  /-- as-applied sums of the period: on batches, quantity (1/1000), cells, duty sum, duty batches, status -/
  sumOn : Nat := 0
  sumQuantity : Nat := 0
  sumCells : Nat := 0
  sumDuty : Nat := 0
  sumBatches : Nat := 0
  sumStatus : Nat := 0
  /-- R396: batches of mismatch in a row; a test is running (R395) -/
  mismatch : Nat := 0
  testing : Bool := false
  /-- instants of the output test that a sweep step runs -/
  tests : List (Nat × Bool) := []
  deriving DecidableEq, Repr

/-- A rate loop (R116 to R118), Q16.16. -/
structure Loop where
  trim : Int := 65536
  /-- in 1/2^32 -/
  integral : Int := 0
  state : Nat := 0
  measured : Nat := 0
  feedbackLost : Bool := false
  /-- the input has been good for 1 s -/
  recovered : Bool := false
  closed : Bool := false
  missing : Bool := false
  /-- the trims in force in the present batch and in the one before it (R144) -/
  inForce : Int := 65536
  inForceBefore : Int := 65536
  deriving DecidableEq, Repr

/-- Decisions: outlets, loops, and the largest collision displacement of the batch (R124), µs. -/
structure Decision where
  outlets : Vector Outlet 32 := Vector.replicate 32 {}
  loops : Vector Loop 4 := Vector.replicate 4 {}
  largest : Nat := 0
  deriving DecidableEq, Repr

/-- Table 7.3: a task of the engine array. -/
structure Task where
  number : Nat
  kernel : Nat
  variant : Nat
  /-- local outlet; none for a device-level task -/
  outlet : Option (Fin 32)
  index : Nat
  batch : Nat
  cost : Nat
  home : Fin 64
  /-- numbers of predecessors -/
  after : List Nat
  /-- shares of a MATCH group, or records of an intake group: (key, sequence) -/
  covers : List (Nat × Nat) := []
  pinned : Bool := false
  stolen : Bool := false
  retry : Bool := false
  carried : Bool := false
  /-- the dray that ran it, where its result has been written; a re-run of an audit (Table 7.7) -/
  ran : Option (Fin 64) := none
  audit : Bool := false
  deriving DecidableEq, Repr

/-- A dray (R173 to R188): states of 0x2402:02. -/
structure Dray where
  state : Nat := 0
  queue : List Task := []
  overflow : List Task := []
  running : Option Task := none
  quarantines : Nat := 0
  /-- batches of its quarantines -/
  recent : List Nat := []
  cause : Nat := 0
  run : Nat := 0
  /-- victims asked in this round (R179), and the chain time of the last request -/
  asked : Nat := 0
  askedAt : Option Nat := none
  /-- an uncorrectable word in the kernel area or a task frame; reloaded before the self-test -/
  memoryBad : Bool := false
  /-- due at the next boundary: 1 quarantine (cause 2 of Table 7.7), 2 return to work -/
  due : Nat := 0
  deriving DecidableEq, Repr

/-- The Ahnya engine array. -/
structure Engines where
  drays : Vector Dray 64 := Vector.replicate 64 {}
  /-- the dispatcher's pending table, tasks that have ended, and results written on time -/
  waiting : List Task := []
  ended : List Nat := []
  written : List Task := []
  /-- every Phase B task of the batch -/
  tasks : List Task := []
  open_ : Bool := false
  steals : Nat := 0
  lateResults : Nat := 0
  dispatched : Nat := 0
  work : Nat := 0
  finish : Nat := 0
  /-- Phase B work and finish of up to 1,000 batches -/
  works : List (Nat × Nat) := []
  /-- Phase D tasks parked at the boundary (R184), and whether the batch began with any (Table 7.9) -/
  parked : List Task := []
  carriedIn : Bool := false
  nextTask : Nat := 0
  /-- fewer than 16 working drays (R189) -/
  below : Bool := false
  /-- drays to be tested at the next start-up -/
  retest : List (Fin 64) := []
  deriving DecidableEq, Repr

/-- A tile slot (Tables 5.4 and 5.6). -/
structure Slot where
  index : Fin 112
  coord : Nat
  /-- Table 5.7 -/
  state : Nat
  /-- 1 home, 2 cached, 3 closing -/
  role : Nat
  session : Nat
  cellSize : Nat
  epoch : Nat := 0
  sequence : Nat := 0
  marks : Vector Nat 32 := Vector.replicate 32 0xFFFFFFFF
  dirtyRows : List Nat := []
  paintGap : Bool := false
  blank : Bool := false
  rebuilding : Bool := false
  record : TileRecord := { fill := 0xF4, cells := [], rxFill := 0xFFFF, rx := [] }
  /-- record and marks as last sent in a write-back -/
  sentCopy : Option TileTransfer := none
  cachers : List Nat := []
  deltas : List PaintDelta := []
  attempts : Nat := 0
  /-- device time at which it was last needed (in the window, or in a swept strip), and of the last write-back -/
  neededAt : Nat := 0
  sentAt : Nat := 0
  /-- serves SWEEP from the next Phase B -/
  ready : Bool := false
  /-- the home copy's tile has left the window -/
  outside : Bool := false
  deriving DecidableEq, Repr

/-- A window tile at the lead (R136, R138): coordinate, home and the device time of the last touch; `queued` is the
device time since which it has been listed for paging. -/
structure WindowTile where
  coord : Nat
  home : Nat
  touchedAt : Nat
  queued : Option Nat
  /-- a copy has been delivered or built -/
  held : Bool
  deriving DecidableEq, Repr

/-- R144: a batch that is still to be painted: its number, and the boom states at its start and end. -/
structure PaintJob where
  batch : Nat
  before : BoomState
  after : BoomState
  /-- R184: the input frame of the task: the live set, and the loop trims that were in force in the batch -/
  settings : Store := []
  trims : Vector Int 4 := Vector.replicate 4 65536
  deriving DecidableEq, Repr

/-- The tile store (chapter 5). -/
structure Tiles where
  slots : List Slot := []
  window : List WindowTile := []
  /-- tiles that have left the window while a wheeler held their home copy, and the write-back sequence of each tile that the lead
  has seen last (log entry 117) -/
  left : List Nat := []
  backSeqs : List (Nat × Nat) := []
  /-- tiles received from the host and not yet delivered (R147) -/
  transfer : List (Nat × TileTransfer) := []
  /-- deltas sent in the last 8,192 batches (R146), newest first -/
  resend : List PaintDelta := []
  sliceFull : Bool := false
  overBudget : Bool := false
  /-- slots withdrawn by a fenced row (R427) -/
  withdrawn : List (Fin 112) := []
  /-- newest batch that an uncorrectable word has taken from the resend buffer (Table 18.2) -/
  resendHole : Option Nat := none
  /-- batches whose paint is due, oldest first (R49) -/
  paints : List PaintJob := []
  appliedSeq : Nat := 0
  appliedAt : Nat := 0
  appliedFirst : Nat := 0
  appliedStart : Nat := 0
  appliedGap : Bool := false
  /-- closed records that are not acknowledged: 0 waits for its signature, 1 journalled, 2 offered -/
  records : List (AsApplied × Nat) := []
  deriving DecidableEq, Repr

/-- A record at its intake (R157 to R160): 0 arrived, 1 taken at the cut-off, 2 accepted and journalled, 3 answered, 4 to be
forwarded again after a reset (its `owners` being those that had confirmed); its record in form 0, the owners still to be
sent and to be confirmed, and the results of owners that have closed. -/
structure Intake where
  source : Nat
  record : TargetRec
  stage : Nat
  form0 : TargetRec
  owners : List Nat := []
  unsent : List Nat := []
  unconfirmed : List Nat := []
  results : List (Nat × Nat) := []
  firstOutlet : Nat := 0xFFFF
  firstOn : Int := 0
  lastOff : Int := 0
  outlets : Nat := 0
  /-- the acknowledgement of the host's write, which its last record releases -/
  ack : Option Ack := none
  /-- R171: the intake device under whose key the owners know the shares, where it is not this device: the lead before -/
  origin : Option (Fin 32) := none
  deriving DecidableEq, Repr

/-- A target window of one outlet (R162, R164): edges as instants, the duty, and how far it is. -/
structure Window where
  outlet : Fin 32
  on : Nat
  off : Nat
  duty : Nat
  /-- 0 planned, 1 on edge locked, 2 off edge issued, 3 abandoned, 4 blocked -/
  stage : Nat
  /-- coverage reduced (R166, R167) -/
  reduced : Bool
  /-- how far, in µs, its on edge has been moved to t_e (R107, R166) -/
  moved : Int
  deriving DecidableEq, Repr

/-- A pending share (R160 to R168). -/
structure PendingShare where
  share : Share
  takenAt : Nat
  batch : Nat
  /-- journal batch; none before the commit -/
  journalled : Option Nat := none
  windows : List Window := []
  afterReset : Bool := false
  deriving DecidableEq, Repr

/-- Spot targets (chapter 6). -/
structure Targets where
  intake : List Intake := []
  inbox : List Share := []
  store : List PendingShare := []
  /-- share credits held from each owner -/
  credits : Vector Nat 32 := Vector.replicate 32 0
  /-- share credits granted to each intake device -/
  granted : Vector Nat 32 := Vector.replicate 32 0
  /-- message credits outstanding of each guest -/
  guestCredits : Vector Nat 16 := Vector.replicate 16 0
  /-- records taken at each cut-off of the last second, with their chain times -/
  taken : List (Nat × Nat) := []
  /-- the intake stopped taking records at the last cut-off (R169) -/
  stopped : Bool := false
  deriving DecidableEq, Repr

/-- Table 12.6a: a candidate in Hunt: the instant of its latest good marker, its counter, its confirmations. -/
structure Candidate where
  instant : Nat
  counter : Nat
  confirmed : Nat
  deriving DecidableEq, Repr

/-- A receive lane (R284 to R289, R298): alignment 0 none, 1 block lock, 2 hunt, 3 sync. -/
structure Lane where
  align : Nat := 0
  candidates : List Candidate := []
  /-- Sync: instant and counter of the last good marker, instant of the last expected position, bad markers in a row -/
  counter : Nat := 0
  instant : Nat := 0
  bad : Nat := 0
  alarm : Bool := false
  /-- the lane has been trained at this start-up, so a loss of it counts as down -/
  trained : Bool := false
  /-- a retrain attempt runs; attempts that have failed in a row; instants of the retrains of the last 60 s; the end of
  the back-off -/
  attempt : Bool := false
  fails : Nat := 0
  retrains : List Nat := []
  retryAt : Nat := 0
  /-- retired, and trained again at this start-up (R298) -/
  retest : Bool := false
  /-- R299: withheld by a thermal slow-down -/
  thermal : Bool := false
  /-- R298: cleared from the retired map by a write, and not trained before the next start-up -/
  parked : Bool := false
  /-- device times of the errored blocks of the last second -/
  errors : List Nat := []
  /-- device times at which the running attempt began, and at which the lane reached Sync -/
  attemptAt : Nat := 0
  syncAt : Nat := 0
  /-- R278: CTLE boost (0.1 dB) and DFE tap (mV) in force, and whether adaptation calls for a value beyond a bound -/
  ctle : Int := 90
  dfe : Int := 0
  pinned : Bool := false
  deriving DecidableEq, Repr

/-- R292: a data or management message in a replay buffer: its hop sequence, kind, destination, what is sent, and how
often it has been. -/
structure Outgoing where
  seq : Nat
  kind : Nat
  dest : Nat
  emit : Emit
  sends : Nat
  /-- device time at which it was last sent -/
  sentAt : Nat := 0
  deriving DecidableEq, Repr

/-- R292: the link state of class 2 or 3 on one port: the next hop sequence to send and the next expected, the replay
buffer, what waits for room in it, and the end of a busy wait. -/
structure ClassLink where
  next : Nat := 0
  expected : Nat := 0
  replay : List Outgoing := []
  queue : List Outgoing := []
  busyUntil : Option Nat := none
  deriving DecidableEq, Repr

/-- One port (R287 to R299, R313, R314). -/
structure PortLink where
  /-- transmit mode in force, and the far end's latest link state byte (Table 12.5) -/
  mode : Nat := 3
  far : Nat := 0
  /-- the port is up; it has been reported down since -/
  wasUp : Bool := false
  down : Bool := false
  data : ClassLink := {}
  mgmt : ClassLink := {}
  /-- guest messages that wait for a frame, with the device time of their arrival -/
  guests : List (Msg × Nat) := []
  skew : Bool := false
  /-- link delay values in use (ps, newest first), and values in a row that lie off their mean -/
  delays : List Int := []
  odd : List Int := []
  /-- R314: the neighbour's offset by the last exchange (ps), and the device time of the last request -/
  theta : Int := 0
  echoAt : Option Nat := none
  /-- R313: the slot error of the last accepted marker was too large: the report slot of its frame is not used -/
  slotBad : Bool := false
  deriving DecidableEq, Repr

/-- R295: a transfer whose segments are coming in: source, tag, device time of the first, numbers received, count. -/
structure Segments where
  source : Nat
  tag : Nat
  since : Nat
  numbers : List Nat
  count : Nat
  deriving DecidableEq, Repr

/-- The Ulard link (chapter 12). -/
structure Link where
  lanes : Vector Lane 4 := Vector.replicate 4 {}
  ports : Vector PortLink 2 := Vector.replicate 2 {}
  segments : List Segments := []
  /-- last sequence of classes 0 and 1, by source and class -/
  last : List ((Nat × Nat) × Nat) := []
  /-- R315: filtered offset (ps), markers in a row within 5 ns, and what steering has left below 1 ns (ps) -/
  filtered : Int := 0
  steady : Nat := 0
  rest : Int := 0
  /-- 0x2900:04: the equaliser band in force -/
  band : Nat := 1
  deriving DecidableEq, Repr

/-- Sweeps (R325, R326): the lead's, and the step that the device runs. -/
structure Sweep where
  kind : Nat := 0
  batch : Nat := 0
  /-- 0x2A20:02 -/
  state : Nat := 0
  record : List SweepEntry := []
  /-- position of the current step -/
  current : Option Nat := none
  cancel : Bool := false
  /-- device time of the last poll of a step (R325) -/
  polledAt : Option Nat := none
  /-- the device's own step: 0x2A21:02, result, kind, batch, chain time of its start, and in kind 3 what the batch showed -/
  step : Nat := 0
  result : List Byte := []
  stepKind : Nat := 0
  stepBatch : Nat := 0
  stepAt : Nat := 0
  shape : Option (List Byte) := none
  deriving DecidableEq, Repr

/-- The chain (chapter 13). -/
structure Chain where
  upstream : Option Port := none
  /-- the upstream port at enumeration, where a reversal is undone -/
  original : Option Port := none
  arm : Port := .a
  hops : Nat := 0
  /-- lead: probes sent on port A and on port B, the last new report, and the reports with their device times -/
  probedA : Bool := false
  probedB : Bool := false
  enumerated : Bool := false
  lastReport : Nat := 0
  reports : List (NodeReport × Nat) := []
  table : List TableNode := []
  ring : Bool := false
  reversed : Bool := false
  /-- the present map and the present guests as the lead counts them; positions and guests that have gone missing -/
  guests : Nat := 0
  missing : Nat := 0
  missingGuests : Nat := 0
  /-- R306: the conflict is raised; a conflicting lead has been heard in the present enumeration -/
  conflict : Bool := false
  rival : Bool := false
  /-- R306: device time of the next enumeration of a conflicting lead -/
  retryAt : Nat := 0
  /-- R354: the reports are in, and the chain table waits for chain time to be seeded -/
  tableHeld : Bool := false
  limit : Bool := false
  split : Bool := false
  /-- R323: the port of the broken cable of a split chain: it carries no messages until the next start-up -/
  splitPort : Option Port := none
  /-- R305: the position differs from the expected one; R324: rejoining, until the next swap -/
  mismatch : Bool := false
  rejoining : Bool := false
  overBudget : Bool := false
  /-- R319: the original orientation returns at the next boundary -/
  restore : Bool := false
  /-- standby: the mirror held; lead markers missing in a row; the lead itself has sent a break notice -/
  mirror : Option Mirror := none
  silent : Nat := 0
  leadAlive : Bool := false
  /-- the standby takes the role at this batch (R323) -/
  takeAt : Option Nat := none
  deriving DecidableEq, Repr

/-- R337: an adaptive notch: its frequency from the band centre (Hz), and the device time at which its line was last found. -/
structure Notch where
  freq : Int
  seen : Nat
  deriving DecidableEq, Repr

/-- An IF input of the baseband (R334 to R338). -/
structure GnssInput where
  /-- the sample clock runs; it has been lost since the baseband started -/
  clock : Bool := true
  clockLost : Bool := false
  /-- gain code, J/N in dB -/
  gain : Nat := 0
  ratio : Nat := 0
  warning : Bool := false
  alarm : Bool := false
  /-- device times since which J/N has been 3 dB below the warning and the alarm level -/
  quietWarning : Option Nat := none
  quietAlarm : Option Nat := none
  notches : List Notch := []
  /-- device times of the last gain round and of the last notch search -/
  agcAt : Option Nat := none
  searchAt : Option Nat := none
  overflow : Bool := false
  deriving DecidableEq, Repr

/-- A channel of the baseband (Table 14.3): 0 Idle, 1 Acquire, 2 Pull-in, 3 Track, 4 Reacquire. -/
structure GnssChannel where
  state : Nat := 0
  satellite : Option Satellite := none
  /-- 0 band 1, 1 band 2 -/
  band : Nat := 0
  /-- device times at which it entered its state, and at which it last went Idle -/
  enteredAt : Nat := 0
  idleSince : Nat := 0
  slip : Bool := false
  /-- R341: how far side-peak checks have moved its code since it was allocated, 1/10 chip -/
  code : Int := 0
  obs : Observation := {}
  deriving DecidableEq, Repr

/-- The RTK engine (R349): whether its solution is fixed, how many epochs in a row have had the ratio at the threshold while it
was float, or below it while it was fixed, and since when corrections have been too old. -/
structure Rtk where
  fixed : Bool := false
  good : Nat := 0
  bad : Nat := 0
  lostAt : Option Nat := none
  deriving DecidableEq, Repr

/-- The GNSS baseband and RTK engine (chapter 14). -/
structure Gnss where
  running : Bool := false
  /-- script runs that have failed their verify in a row; the front end is faulted -/
  failedRuns : Nat := 0
  faulted : Bool := false
  startedAt : Nat := 0
  /-- device times of the last run of the script, and of the last channel allocation since the start -/
  scriptAt : Nat := 0
  allottedAt : Option Nat := none
  /-- device time at which the start kind was entered -/
  kindAt : Nat := 0
  /-- Table 14.7: 0 hot, 1 warm, 2 cold; and whether a fix has been found since the start -/
  startKind : Nat := 2
  fixed : Bool := false
  /-- R354: the lead waits for a GNSS time solution before it seeds -/
  waits : Bool := false
  inputs : Vector GnssInput 2 := Vector.replicate 2 {}
  channels : Vector GnssChannel 64 := Vector.replicate 64 {}
  /-- R346: the solution rate in force is 10 Hz -/
  reduced : Bool := false
  /-- the last solution was one with a fix -/
  hasFix : Bool := false
  /-- device time of the last correction used; the RTK engine over the corrections, and over the lead's base epochs -/
  correctedAt : Option Nat := none
  rtk : Rtk := {}
  baseRtk : Rtk := {}
  /-- device time of the last commit of the kept data -/
  keptAt : Nat := 0
  stale : Bool := false
  /-- chain time of the last base epoch (wheeler) -/
  baseAt : Option Int := none
  baseFixed : Bool := false
  /-- data to keep have changed since the last commit; an erase waits for it -/
  changed : Bool := false
  erase : Bool := false
  deriving DecidableEq, Repr

/-- What rests in MRAM and its fuses and so outlives every reset (Table 20.1). -/
structure Nvm where
  /-- live set: the RWB and CAL values that differ from their defaults -/
  live : Store := []
  liveSet : Nat := 0
  liveSlot : Nat := 0
  liveSeq : Nat := 0
  baseSeq : Nat := 0
  /-- CAL proof values committed in the proof base -/
  base : Store := []
  /-- slots are level (R460) -/
  level : Bool := true
  /-- R460: bytes of the slot in hand written so far; a copy of the live slot at boot is in hand -/
  slotDone : Nat := 0
  bootCopy : Bool := false
  /-- objects kept across a reset: retired maps, counters, learned delays -/
  kept : Store := []
  opTime : Nat := 0
  /-- journal: committed groups from the tail on, the log head (an offset in the log), and the newest valid checkpoint -/
  groups : List JGroup := []
  logHead : Nat := 0
  nextGroup : Nat := 1
  checkpoint : Checkpoint := {}
  /-- recorder areas -/
  starter : List Page := []
  ring : List Page := []
  sealedArea : List Page := []
  lastRecord : Nat := 0
  /-- R447: the sealed area has refused a record -/
  sealedFull : Bool := false
  /-- images A and B -/
  imageA : Image := {}
  imageB : Image := {}
  /-- R428, R461: a row of the area of image A, of image B, is fenced -/
  fenced : Vector Bool 2 := Vector.replicate 2 false
  bootChoice : Nat := 0
  calKey : Option (List Byte) := none
  signingKey : Bool := true
  /-- R437: device times of the last supervision resets, and the held-unarmed state -/
  supervision : List Nat := []
  heldUnarmed : Bool := false
  decommissioned : Bool := false
  debugNext : Bool := false
  /-- R352: the GNSS kept data as far as objects show them (last position and velocity, UTC offset, RTK base), whether
  they hold almanacs and ephemerides, and the chain time of their commit -/
  gnss : Store := []
  keptData : Bool := false
  keptEpoch : Nat := 0
  shutdownRecorded : Bool := false
  /-- spares left by SRAM macro and by MRAM block (R426, R428) -/
  sramSpares : Vector Nat 16 := Vector.replicate 16 16
  /-- R425, R427: what the fenced SRAM rows held -/
  sramFenced : List SramRegion := []
  mramSpares : Vector Nat 64 := Vector.replicate 64 8
  /-- quarantine counts of the drays, as committed with a retirement (R188) -/
  drayCounts : Vector Nat 64 := Vector.replicate 64 0
  deriving DecidableEq, Repr

/-- Everything but the queue of commands. -/
structure Dev where
  pins : Pins := {}
  power : Power := {}
  teth : Tether := {}
  pd : PowerDie := {}
  valve : Valve := {}
  lsw : LoadSwitches := {}
  pwm : Pwm := {}
  axes : Vector Axis 32 := Vector.replicate 32 {}
  rowDrives : Vector RowDrive 16 := Vector.replicate 16 {}
  inp : Inputs := {}
  pose : Pose := {}
  dec : Decision := {}
  eng : Engines := {}
  tiles : Tiles := {}
  tgt : Targets := {}
  link : Link := {}
  ch : Chain := {}
  swp : Sweep := {}
  gnss : Gnss := {}
  time : Time := {}
  rtc : Rtc := {}
  seq : Sequencer := {}
  swap : Swap := {}
  /-- the value of every object; RWB and CAL objects hold their live value here -/
  obj : Store := []
  /-- the latest published status snapshot (R24) -/
  snap : Store := []
  /-- RW objects as the last Phase A snapshot took them (R24) -/
  taken : Store := []
  dic : Dictionary := {}
  jrn : Journal := {}
  rcd : Recorder := {}
  hlt : Health := {}
  lock : Lockout := {}
  diag : Diagnostics := {}
  can : Can := {}
  hp : HostPort := {}
  que : Queues := {}
  nvm : Nvm := {}
  /-- what the present command sends -/
  out : List Emit := []
  /-- MODEL FIELD: how many free values have been drawn (log entry 2) -/
  draws : Nat := 0
  deriving DecidableEq, Repr

/-- The state: the block, and the commands that wait. -/
structure State where
  dev : Dev
  pending : List Instr
  deriving DecidableEq, Repr

/-- The reasons to stop with a fault. No rule of the spec stops the block, so no command raises one: the one
constructor stands for a stop that never happens (safe). -/
inductive Fault where
  /-- raised by no command; safe -/
  | never
  deriving DecidableEq, Repr

/-- The reasons to refuse a command. -/
inductive Refusal where
  /-- raised by the dispatch for a command that has no meaning yet; safe: the machine stops -/
  | notModelled (mnemonic : String)
  deriving DecidableEq, Repr

/-- R29, R385, R480: the device in power-on reset: the logic die is held before its boot, every object at its default,
and no command waits. -/
def State.reset : State := { dev := {}, pending := [] }

end Sys2Proof.Machine
end

