-- ==== Sys2Proof/Machine/Ops.lean ====
section
/-! DEFINITION. The named operations over object stores, time, output and events that every meaning shares, and the
three ways in which a command acts: on the device whatever it is doing, only while the logic die runs, and at an
instant. -/

namespace Sys2Proof.Machine

/-! ### Object stores -/

/-- The entry of an address in a store. -/
def storeFind : Store → Nat → Option Val
  | [], _ => none
  | (b, w) :: r, a => if a = b then some w else storeFind r a

/-- Enter a value at an address, keeping the addresses rising. -/
def storePut : Store → Nat → Val → Store
  | [], a, v => [(a, v)]
  | (b, w) :: r, a, v =>
    if a < b then (a, v) :: (b, w) :: r
    else if a = b then (a, v) :: r
    else (b, w) :: storePut r a v

/-- Remove the entries of an address. -/
def storeDrop : Store → Nat → Store
  | [], _ => []
  | (b, w) :: r, a => if a = b then storeDrop r a else (b, w) :: storeDrop r a

/-- R381: the value of an object: its entry, or its default (R385). -/
def storeGet (s : Store) (a : Nat) : Val :=
  match storeFind s a with
  | some v => v
  | none => objDefault a

/-- Set an object's value in canonical form: a value equal to the default removes the entry. -/
def storeSet (s : Store) (a : Nat) (v : Val) : Store :=
  if v = objDefault a then storeDrop s a else storePut s a v

/-- Overlay the entries of a store on another. -/
def storeMerge (base : Store) : Store → Store
  | [] => base
  | (a, v) :: r => storeMerge (storeSet base a v) r

/-- The entries of a store whose addresses satisfy a test. -/
def storeKeep (p : Nat → Bool) : Store → Store
  | [] => []
  | (a, v) :: r => if p a then (a, v) :: storeKeep p r else storeKeep p r

/-- The number that a value holds, 0 for a byte string. -/
def valInt : Val → Int
  | .num v => v
  | .bytes _ => 0

/-- The bytes that a value holds. -/
def valBytes : Val → List Byte
  | .num _ => []
  | .bytes b => b

/-- R18: the 24-bit address of an object. -/
def adr (idx sub : Nat) : Nat := idx * 256 + sub

/-! ### Addressed buffers -/

/-- The byte at an address of a buffer; an unlisted byte is 0. -/
def cellRead : List Host.Cell → Nat → Byte
  | [], _ => 0
  | (b, w) :: r, a => if a = b then w else cellRead r a

/-- Write a byte, keeping the addresses rising and listing no byte that is 0. -/
def cellWrite : List Host.Cell → Nat → Byte → List Host.Cell
  | [], a, v => if v = 0 then [] else [(a, v)]
  | (b, w) :: r, a, v =>
    if a < b then if v = 0 then (b, w) :: r else (a, v) :: (b, w) :: r
    else if a = b then if v = 0 then r else (a, v) :: r
    else (b, w) :: cellWrite r a v

/-- Write bytes from an address on. -/
def cellsWrite (m : List Host.Cell) (a : Nat) : List Byte → List Host.Cell
  | [] => m
  | v :: vs => cellsWrite (cellWrite m a v) (a + 1) vs

/-- Read `n` bytes from an address on. -/
def cellsRead (m : List Host.Cell) (a n : Nat) : List Byte := (List.range n).map fun k => cellRead m (a + k)

/-- The canonical form of a buffer: addresses strictly rising from `lo` on, and no listed byte 0. -/
def cellsWfFrom (lo : Nat) : List Host.Cell → Bool
  | [] => true
  | (a, v) :: r => lo ≤ a && v ≠ 0 && cellsWfFrom (a + 1) r

/-- The canonical form of a buffer. -/
def cellsWf (m : List Host.Cell) : Bool := cellsWfFrom 0 m

/-! ### Objects of the device -/

/-- The number that an object holds. -/
def Dev.int (d : Dev) (a : Nat) : Int := valInt (storeGet d.obj a)

/-- The natural number that an object holds. -/
def Dev.nat (d : Dev) (a : Nat) : Nat := (d.int a).toNat

/-- The flag that a BOOL object holds. -/
def Dev.flag (d : Dev) (a : Nat) : Bool := d.int a != 0

/-- The bytes that an object holds. -/
def Dev.str (d : Dev) (a : Nat) : List Byte := valBytes (storeGet d.obj a)

/-- Set an object to any value. -/
def Dev.putVal (d : Dev) (a : Nat) (v : Val) : Dev := { d with obj := storeSet d.obj a v }

/-- Set an object to a number. -/
def Dev.put (d : Dev) (a : Nat) (v : Int) : Dev := d.putVal a (.num v)

/-- Set an object to a reading (log entry 13): the entry is kept whatever the value. -/
def Dev.putReading (d : Dev) (a : Nat) (v : Int) : Dev := { d with obj := storePut d.obj a (.num v) }

/-- Add one to a U32 counter. -/
def Dev.bump (d : Dev) (a : Nat) : Dev := d.put a ((d.int a + 1) % 2 ^ 32)

/-- Add a number to a U32 counter. -/
def Dev.add (d : Dev) (a : Nat) (n : Nat) : Dev := d.put a ((d.int a + n) % 2 ^ 32)

/-- Add one to a U16 counter that saturates. -/
def Dev.bumpSat (d : Dev) (a : Nat) : Dev := d.put a (min 65535 (d.int a + 1))

/-- Set or clear bit `k` of an object. -/
def Dev.putBit (d : Dev) (a k : Nat) (b : Bool) : Dev :=
  let v := d.nat a
  let cleared := v - (if v.testBit k then 2 ^ k else 0)
  d.put a (if b then cleared + 2 ^ k else cleared)

/-- Whether bit `k` of an object is set. -/
def Dev.bit (d : Dev) (a k : Nat) : Bool := (d.nat a).testBit k

/-- The RW value that the data path took at the last Phase A snapshot (R24). -/
def Dev.takenInt (d : Dev) (a : Nat) : Int := valInt (storeGet d.taken a)

/-! ### Time, role and output -/

/-- The device's clock moves to an instant, never back. -/
def Dev.at (d : Dev) (t : Nat) : Dev := { d with time := { d.time with now := max d.time.now t } }

/-- R35, R36: chain time now. -/
def Dev.chain (d : Dev) : Nat := (d.time.now + d.time.offset : Int).toNat

/-- Table 12.9 on: whether the device acts as the lead (roles 1 and 3 of 0x2A00:01). -/
def Dev.isLead (d : Dev) : Bool := d.nat 0x2A0001 = 1 || d.nat 0x2A0001 = 3

/-- R16, 0x2A00:02: the device's chain position, 0xFF none. -/
def Dev.position (d : Dev) : Nat := d.nat 0x2A0002

/-- The chain position as one of 32; 0 where it has none. -/
def Dev.pos32 (d : Dev) : Fin 32 := if h : d.position < 32 then ⟨d.position, h⟩ else 0

/-- R322: the position that messages for the lead go to. -/
def Dev.leadPos (d : Dev) : Nat := if d.isLead then d.position else d.seq.leadAt

/-- Put a message or an edge on its way. -/
def Dev.send (d : Dev) (e : Emit) : Dev := { d with out := d.out ++ [e] }

/-- Draw the index of a fresh free value (log entry 2). -/
def Dev.draw (d : Dev) : Dev := { d with draws := d.draws + 1 }

/-- R59: the batch period in force, ns. -/
def Dev.periodNs (d : Dev) : Nat := 1000 * max 250 (d.nat 0x180002)

/-- R15: a Q16.16 product. -/
def qMul (a q : Int) : Int := a * q / 65536

/-! ### Faults and events -/

/-- R425: count a detection of a fault kind of Table 18.1 and name its unit. -/
def Dev.fault (d : Dev) (kind : Fin 20) (permanent : Bool) (unit : Nat) : Dev :=
  { d with hlt := { d.hlt with faults := updateAt d.hlt.faults kind fun c =>
      if permanent then { c with permanent := u32 (c.permanent + 1), lastUnit := unit }
      else { c with transient := u32 (c.transient + 1), lastUnit := unit } } }

/-- Table 19.5, column Area: codes that are also written to the sealed area. -/
def sealedCode (c : Nat) : Bool :=
  c = 0x0A02 || c = 0x1503 || c = 0x1504 || c = 0x1701 || c = 0x1702 || c = 0x1703 || c = 0x1704

/-- Table 19.5, columns FMI and EMCY: (FMI, EMCY error code) of the codes that are DTCs while raised. -/
def eventDtc : Nat → Option (Nat × Nat)
  | 0x0102 => some (14, 0x6100) | 0x0104 => some (9, 0x8100) | 0x0201 => some (13, 0x6300)
  | 0x0202 => some (19, 0xFF02) | 0x0204 => some (2, 0xFF03) | 0x0301 => some (7, 0xFF04)
  | 0x0302 => some (13, 0xFF05) | 0x0604 => some (12, 0x5000) | 0x0801 => some (5, 0x2310)
  | 0x0802 => some (6, 0x2320) | 0x0803 => some (3, 0x2330) | 0x0804 => some (2, 0xFF06)
  | 0x0805 => some (1, 0x3200) | 0x0806 => some (6, 0x2300) | 0x0902 => some (6, 0x2340)
  | 0x0903 => some (5, 0x2310) | 0x0904 => some (3, 0x2330) | 0x0A02 => some (12, 0x5400)
  | 0x0D01 => some (9, 0x8100) | 0x0D04 => some (14, 0x8100) | 0x0D05 => some (13, 0x6300)
  | 0x0E01 => some (12, 0x7000) | 0x0E02 => some (2, 0xFF07) | 0x0F03 => some (19, 0x8100)
  | 0x1101 => some (2, 0xFF08) | 0x1102 => some (6, 0x2340) | 0x1401 => some (31, 0xFF01)
  | 0x1404 => some (12, 0x6000) | 0x1501 => some (16, 0x4200)
  | _ => none

/-- R455: the SPN of a code. -/
def eventSpn (c : Nat) : Nat :=
  if c = 0x1401 then 520192 else if c = 0x1501 then 520193 else 520704 + 128 * (c / 256 - 1) + c % 256

/-- Table 19.2: bytes of an item's value. -/
def itemBytes : Nat → Nat
  | 1 => 2 | 2 => 1 | 3 => 4 | 4 => 4 | 5 => 4 | 6 => 1 | 7 => 4 | 8 => 2 | 9 => 4 | _ => 4

/-- R444: bytes of a record with these items: header, items, padding to an even length, CRC. -/
def recordBytes (items : List (Nat × Int)) : Nat :=
  let p := items.foldl (fun n i => n + 2 + itemBytes i.1) 0
  30 + p + p % 2

/-- R448: bytes that the write buffer holds. -/
def bufferBytes (b : List Event) : Nat := b.foldl (fun n e => n + recordBytes e.items) 0

/-- R366: a DTC becomes active, or active no longer. -/
def dtcSet (code unit : Nat) (on : Bool) : List Dtc → List Dtc
  | [] => if on then [⟨code, unit, 1, true⟩] else []
  | x :: r =>
    if x.code = code && x.unit = unit then
      { x with active := on, count := if on && !x.active then min 126 (x.count + 1) else x.count } :: r
    else x :: dtcSet code unit on r

/-- R361, R362: a controller that takes part in its bus with all its protocols: error active or passive, mode normal. -/
def Dev.busTalks (d : Dev) (b : Fin 2) : Bool :=
  let s := d.can.buses[b].state
  (s = 2 || s = 3) && d.nat (if b = 0 then 0x2C0101 else 0x2C0201) = 0

/-- 0x1001, R373: the CiA 301 error register: one bit for each group of the EMCY codes of the active DTCs. -/
def Dev.errorRegister (d : Dev) : Nat :=
  let codes := d.diag.dtcs.filterMap fun x => if x.active then (eventDtc x.code).map (·.2) else none
  let bit := fun (k : Nat) (p : Nat → Bool) => if codes.any p then 2 ^ k else 0
  bit 0 (fun _ => true) + bit 1 (fun c => c / 4096 = 2) + bit 2 (fun c => c / 4096 = 3) + bit 3 (fun c => c / 4096 = 4)
  + bit 4 (fun c => c / 256 = 0x81) + bit 7 (fun c => c / 256 = 0xFF)

/-- R373: send an EMCY, or hold it back for the inhibit time; none while the stack is stopped or the message disabled. -/
def Dev.emcy (d : Dev) (code event : Nat) : Dev :=
  if !d.busTalks 1 || d.can.copen.nmt = 4 || d.bit 0x101400 31 then d
  else
    let early := match d.can.copen.emcyAt with
      | some t => decide (d.time.now < t + 100000 * d.nat 0x101500)
      | none => false
    if early || d.can.copen.emcys ≠ [] then
      { d with can := { d.can with copen := { d.can.copen with emcys := d.can.copen.emcys ++ [(code, event)] } } }
    else
      let d := ({ d with can := { d.can with copen := { d.can.copen with emcyAt := some d.time.now } } } : Dev).bump 0x2C3004
      d.send (.emcy code d.errorRegister event d.position)

/-- R366, R373: what raising or clearing a code does on the two CAN buses. -/
def Dev.dtc (d : Dev) (code kind unit : Nat) : Dev :=
  match eventDtc code with
  | none => if code = 0x0F01 && kind = 0 then d.emcy 0x8140 code else d
  | some (_, emcy) =>
    if kind = 1 then
      ({ d with diag := { d.diag with dtcs := dtcSet code unit true d.diag.dtcs, fresh := true } } : Dev).emcy emcy code
    else if kind = 2 then
      let d := { d with diag := { d.diag with dtcs := dtcSet code unit false d.diag.dtcs } }
      d.emcy (if d.diag.dtcs.any fun x => x.active then emcy else 0) code
    else d

/-- R451: count a repeat of a record written within the window; none where there is no such record. -/
def foldRepeat (code unit now window : Nat) : List Repeat → Option (List Repeat)
  | [] => none
  | x :: r =>
    if x.code = code && x.unit = unit && now < x.written + window then
      some ({ x with folded := u16 (x.folded + 1) } :: r)
    else (foldRepeat code unit now window r).map (x :: ·)

/-- R445: the event of a code: the batch number first while batches run, and the chain time. -/
def Dev.eventOf (d : Dev) (code kind unit : Nat) (items : List (Nat × Int)) : Event :=
  { code := code, kind := kind, unit := unit,
    items := (if d.seq.running then [(5, (d.seq.number : Int))] else []) ++ items.filter (fun i => i.1 != 5),
    raisedAt := if d.time.seeded then d.chain else 0 }

/-- R448, R449, R451: an event is folded into its last record within the repeat window, dropped and counted where the
buffer has no room, else placed in the write buffer. -/
def Dev.record (d : Dev) (e : Event) : Dev :=
  match (if e.kind = 0 && !sealedCode e.code then foldRepeat e.code e.unit d.chain (1000 * d.nat 0x2F000C) d.rcd.repeats
    else none) with
  | some rs => { d with rcd := { d.rcd with repeats := rs } }.bump 0x2F0004
  | none =>
    if !sealedCode e.code && bufferBytes d.rcd.buffer + recordBytes e.items > 14336 then
      { d with rcd := { d.rcd with lostPending := d.rcd.lostPending + 1 } }.bump 0x2F0003
    else { d with rcd := { d.rcd with buffer := d.rcd.buffer ++ [e] } }

/-- R445: raise an event: its effect on the buses, and its record. -/
def Dev.raise (d : Dev) (code kind unit : Nat) (items : List (Nat × Int)) : Dev :=
  (d.dtc code kind unit).record ((d.dtc code kind unit).eventOf code kind unit items)

/-! ### Messages at the link -/

/-- The other port. -/
def otherPort : Port → Port
  | .a => .b
  | .b => .a

/-- A port as an index: A 0, B 1. -/
def portIx : Port → Fin 2
  | .a => 0
  | .b => 1

/-- R309: the port whose path leads to a destination: a position, or 32 and more for a guest; the cable of a split chain
carries no messages (R323). -/
def Dev.portTo (d : Dev) (dest : Nat) : Option Port :=
  Option.filter (fun p => d.ch.splitPort ≠ some p) <| match d.ch.table.find? fun n => dest = (if n.kind = 0 then n.position else 32 + n.position) with
  | none => if dest = d.leadPos then d.ch.upstream else none
  | some n =>
    if d.isLead then some n.arm
    else match d.ch.upstream with
      | some u => if n.arm = d.ch.arm && d.ch.hops < n.hops then some (otherPort u) else some u
      | none => none

/-- Table 12.8: class (2 or 3), kind and destination of what the device sends over the data and management classes and keeps
for a resend; a moving-baseline fix (kind 9) is not replayed (R350, log entry 99). -/
def Dev.route (d : Dev) : Emit → Option (Nat × Nat × Nat)
  | .tileTransfer p _ => some (2, 0, p)
  | .tileRequest p _ => some (2, 1, p)
  | .paintDelta p _ => some (2, 2, p)
  | .share p _ => some (2, 4, p)
  | .shareCredit p _ => some (2, 5, p)
  | .shareConfirmation p _ => some (2, 6, p)
  | .guestResult g _ => some (2, 7, 32 + g)
  | .mirror _ => some (2, 8, d.nat 0x2A0008)
  | .request p _ => some (3, 0, p)
  | .response _ => some (3, 1, d.leadPos)
  | _ => none

/-- R292: hand a message to the link: into the replay buffer under the next hop sequence, or to wait for room in it;
answers whether it may leave now. -/
def ClassLink.push (c : ClassLink) (now kind dest : Nat) (e : Emit) : ClassLink × Bool :=
  if c.replay.length < 64 && c.busyUntil.isNone then
    ({ c with next := u8 (c.next + 1), replay := c.replay ++ [⟨c.next, kind, dest, e, 1, now⟩] }, true)
  else ({ c with queue := c.queue ++ [⟨0, kind, dest, e, 0, 0⟩] }, false)

/-- Update the link state of a class on a port. -/
def Dev.classLink (d : Dev) (p : Port) (cls : Nat) (f : ClassLink → ClassLink) : Dev :=
  { d with link := { d.link with ports := updateAt d.link.ports (portIx p) fun x =>
    if cls = 2 then { x with data := f x.data } else { x with mgmt := f x.mgmt } } }

/-- The link state of a class on a port. -/
def Dev.getClass (d : Dev) (p : Port) (cls : Nat) : ClassLink :=
  let x := d.link.ports[portIx p]
  if cls = 2 then x.data else x.mgmt

/-- 0x2C01:13, 0x2C02:13: the counter of frames sent of the bus that a message leaves by (one for each message, log
entry 17). -/
def busCounter : Emit → Option Nat
  | .claim _ _ => some 0x2C0113
  | .dtcs _ _ _ _ => some 0x2C0113
  | .identification _ _ _ => some 0x2C0113
  | .transport _ _ _ => some 0x2C0113
  | .tcValue _ _ _ => some 0x2C0113
  | .tcPool _ _ => some 0x2C0113
  | .workingSet _ => some 0x2C0113
  | .answer (.canI _) _ _ _ => some 0x2C0113
  | .answer .sdo _ _ _ => some 0x2C0213
  | .emcy _ _ _ _ => some 0x2C0213
  | .can b _ => some (if b = 0 then 0x2C0113 else 0x2C0213)
  | _ => none

/-- R362: count what is sent on the CAN buses. -/
def countOut : List Emit → Dev → Dev
  | [], d => d
  | e :: r, d => countOut r (match busCounter e with
    | some a => d.bump a
    | none => d)

/-- R292, R293: the messages that may leave now, of a list to be sent: one of the data or management class enters the
replay buffer of its port, or waits where that has no room. -/
def pushOut : List Emit → Dev → List Emit × Dev
  | [], d => ([], d)
  | e :: r, d =>
    match d.route e with
    | none => (e :: (pushOut r d).1, (pushOut r d).2)
    | some (cls, kind, dest) =>
      match d.portTo dest with
      | none => (e :: (pushOut r d).1, (pushOut r d).2)
      | some p =>
        let y := (d.getClass p cls).push d.time.now kind dest e
        let x := pushOut r (d.classLink p cls fun _ => y.1)
        (if y.2 then e :: x.1 else x.1, x.2)

/-- R292, R293: hand what a command sends to the link and the buses. -/
def Dev.linkOut (d : Dev) : Dev :=
  let x := pushOut d.out (countOut d.out d)
  { x.2 with out := x.1 }

/-! ### The power link -/

/-- R22: send an output command to the power die for an instant, and keep it for R23. -/
def Dev.issue (d : Dev) (instant : Nat) (a : PlAction) : Dev :=
  let f : PlFrame := ⟨d.teth.nextId, instant, a⟩
  ({ d with teth := { d.teth with nextId := d.teth.nextId + 1, issued := d.teth.issued ++ [f] } } : Dev).send (.powerLink f)

/-- R33: commands are sent: the power die is armed, and the first batch since has begun. -/
def Dev.commanding (d : Dev) : Bool := d.pd.armed && d.pd.opened.isSome

/-- R22: the tick of a waiting command is the present one. -/
def Dev.frameDue (d : Dev) (p : PlAction → Bool) : Bool :=
  d.pd.commands.any fun f => p f.action && f.instant ≤ d.chain && d.chain < f.instant + 4

/-- R22, R23: the commands of an action whose tick has come leave the power die's queue. -/
def Dev.takeFrames (d : Dev) (p : PlAction → Bool) : Dev :=
  { d with pd := { d.pd with commands := d.pd.commands.filter fun f => !(p f.action && f.instant ≤ d.chain) } }

/-- R22, R23: the power die applies a waiting command at its tick; without one, or at another tick, nothing happens. -/
def Dev.onFrame (d : Dev) (p : PlAction → Bool) (f : Dev → Dev) : Dev :=
  if d.frameDue p then f (d.takeFrames p) else d.takeFrames p

/-- R240, R251: of the waiting commands that apply at a later period start, the latest whose instant has come. -/
def Dev.lastFrame {α : Type} (d : Dev) (p : PlAction → Option α) : Option α :=
  ((d.pd.commands.filter fun f => f.instant ≤ (d.chain : Int)).filterMap fun f => p f.action).getLast?

/-! ### How a command acts -/

/-- The command acts on the device whatever its dies are doing. -/
def State.act (s : State) (t : Nat) (f : Dev → Dev) : Host.Outcome State Fault Refusal :=
  .next { s with dev := (f (({ s.dev with out := [] } : Dev).at t)).linkOut }

/-- The command acts only while the logic die runs; otherwise the event finds nothing to act on (log entry 1). -/
def State.logic (s : State) (t : Nat) (f : Dev → Dev) : Host.Outcome State Fault Refusal :=
  s.act t fun d => if d.power.run = .running then f d else d

/-- The command acts while the logic die serves its host port: running, or in recovery (R462). -/
def State.served (s : State) (t : Nat) (f : Dev → Dev) : Host.Outcome State Fault Refusal :=
  s.act t fun d => if d.power.run = .running || d.power.run = .recovery then f d else d

/-- As `State.logic`, at the present instant. -/
def State.logicNow (s : State) (f : Dev → Dev) : Host.Outcome State Fault Refusal :=
  s.logic s.dev.time.now f

end Sys2Proof.Machine
end

