-- ==== Sys2Proof/Machine/Codec.lean ====
section
/-! DEFINITION. The byte layouts of records that are read as a DOMAIN, and their check words. -/

namespace Sys2Proof.Machine

/-- One bit of the CRC-16 of R444 (polynomial 0x1021, not reflected). -/
def crc16Bit (c : Nat) : Nat :=
  let s := 2 * c % 65536
  if c ≥ 32768 then s ^^^ 0x1021 else s

/-- `k` applications of a function. -/
def iter {α : Type} (f : α → α) : Nat → α → α
  | 0, x => x
  | k + 1, x => iter f k (f x)

/-- R444: the CRC-16 over bytes: initial value 0xFFFF, no reflection, no final XOR. -/
def crc16 (bs : List Byte) : Nat :=
  bs.foldl (fun c b => iter crc16Bit 8 (c ^^^ (b.toNat * 256))) 0xFFFF

/-- One bit of the CRC-32 of R137 (polynomial 0x04C11DB7, reflected). -/
def crc32Bit (c : Nat) : Nat := if c % 2 = 1 then (c / 2) ^^^ 0xEDB88320 else c / 2

/-- R137: the CRC-32 over bytes: reflected, initial value and final XOR 0xFFFFFFFF. -/
def crc32 (bs : List Byte) : Nat :=
  (bs.foldl (fun c b => iter crc32Bit 8 (c ^^^ b.toNat)) 0xFFFFFFFF) ^^^ 0xFFFFFFFF

/-- One bit of the CRC-8 of R281 (polynomial 0x07, not reflected). -/
def crc8Bit (c : Nat) : Nat := if 128 ≤ c then (2 * c % 256) ^^^ 0x07 else 2 * c

/-- R281: the CRC-8 over bytes: initial value 0x00, no final XOR. -/
def crc8 (bs : List Byte) : Nat := bs.foldl (fun c b => iter crc8Bit 8 (c ^^^ b.toNat)) 0

/-- Two's complement bytes of an integer, least significant first. -/
def leInt (k : Nat) (v : Int) : List Byte := leBytes k (v % 256 ^ k).toNat

/-- Table 19.2: one payload item: identifier, length, value. -/
def itemEncode (i : Nat × Int) : List Byte :=
  leBytes 1 i.1 ++ leBytes 1 (itemBytes i.1) ++ leInt (itemBytes i.1) i.2

/-- Table 19.1: the bytes of a record. -/
def recordEncode (r : Record) : List Byte :=
  let e := r.event
  let len := recordBytes e.items
  let items := e.items.flatMap itemEncode
  let folded := e.items.any fun i => i.1 = 1
  let body := leBytes 2 len ++ leBytes 2 e.code ++ leBytes 1 (e.code / 256)
    ++ leBytes 1 (e.kind + (if r.inSealed then 4 else 0) + (if folded then 8 else 0))
    ++ leBytes 2 e.unit ++ leBytes 4 r.number ++ leBytes 4 r.opTime ++ leBytes 4 r.cycles ++ leBytes 8 e.raisedAt
    ++ items ++ List.replicate (len - 30 - items.length) 0
  body ++ leBytes 2 (crc16 body)

/-- Table 6.5: the bytes of a result record. -/
def resultEncode (r : ResultRec) : List Byte :=
  leBytes 1 r.source ++ leBytes 1 r.result ++ leBytes 2 r.firstOutlet ++ leBytes 4 r.seq ++ leInt 8 r.firstOn
    ++ leInt 8 r.lastOff ++ leBytes 1 r.outlets ++ leBytes 3 0

/-- Table 6.1: the bytes of a target record. -/
def targetEncode (r : TargetRec) : List Byte :=
  leBytes 4 r.seq ++ leBytes 1 r.form ++ leBytes 1 r.cls ++ leBytes 2 r.dose ++ leInt 8 r.capture ++ leInt 4 r.posA
    ++ leInt 4 r.posB ++ leBytes 2 r.halfLength ++ leBytes 2 r.halfWidth ++ leInt 2 r.orientation
    ++ leBytes 1 r.camSegment ++ leBytes 1 0 ++ leInt 4 r.camX ++ leInt 4 r.camY ++ leInt 2 r.camYaw ++ leBytes 2 0

/-- Table 5.9: one entry. -/
def entryEncode (e : AppliedEntry) : List Byte :=
  leBytes 1 e.outlet ++ leBytes 1 e.product ++ leBytes 2 e.onBatches ++ leBytes 4 e.quantity ++ leBytes 4 e.cells
    ++ leBytes 2 e.meanDuty ++ leBytes 2 e.status

/-- Table 5.9: the bytes of an as-applied record, with the signature of R468 where it is signed. -/
def appliedEncode (r : AsApplied) : List Byte :=
  let body := leBytes 4 r.seq ++ leBytes 1 r.position ++ leBytes 1 r.entries.length
    ++ leBytes 2 ((if r.signed then 1 else 0) + (if r.paintGap then 2 else 0)) ++ leBytes 4 r.firstBatch
    ++ leBytes 4 r.lastBatch ++ leBytes 8 r.start ++ leBytes 4 r.session ++ leBytes 4 r.epoch
    ++ r.entries.flatMap entryEncode
  let all := if r.signed then body ++ leBytes 4 Config.signingKeyId ++ Config.recordSignature body else body
  all ++ leBytes 4 (crc32 all)

/-- Table 5.9: one entry from its 16 bytes. -/
def entryDecode (b : List Byte) : AppliedEntry :=
  let u := fun k n => leNat ((b.drop k).take n)
  ⟨u 0 1, u 1 1, u 2 2, u 4 4, u 8 4, u 12 2, u 14 2⟩

/-- Table 5.9: the record that bytes hold; none where they are no whole record. -/
def appliedDecode (b : List Byte) : Option AsApplied :=
  let u := fun k n => leNat ((b.drop k).take n)
  let m := u 5 1
  let signed := (u 6 2).testBit 0
  let size := 36 + 16 * m + (if signed then 68 else 0)
  if b.length ≠ size || u (size - 4) 4 ≠ crc32 (b.take (size - 4)) then none
  else some { seq := u 0 4, position := u 4 1, signed := signed, paintGap := (u 6 2).testBit 1, firstBatch := u 8 4
              lastBatch := u 12 4, start := u 16 8, session := u 24 4, epoch := u 28 4
              entries := (List.range m).map fun k => entryDecode (b.drop (32 + 16 * k)) }

/-- The value listed for a key, or a default. -/
def listedOr {α : Type} (dflt : α) (k : Nat) : List (Nat × α) → α
  | [] => dflt
  | (j, v) :: r => if j = k then v else listedOr dflt k r

/-- Table 5.3, Table 5.5: the bytes of a tile transfer. -/
def tileEncode (t : TileTransfer) : List Byte :=
  let body := leBytes 4 t.session ++ leBytes 4 t.coord ++ leBytes 4 t.epoch ++ leBytes 1 t.cellSize
    ++ leBytes 1 ((if t.blank then 1 else 0) + (if t.paintGap then 2 else 0)) ++ leBytes 2 0 ++ leBytes 4 t.seq
    ++ t.marks.toList.flatMap (leBytes 4) ++ leBytes 12 0
    ++ (List.range 65536).map (fun k => listedOr t.record.fill k t.record.cells)
    ++ (List.range 4096).flatMap (fun k => leBytes 2 (listedOr t.record.rxFill k t.record.rx))
  body ++ leBytes 4 (crc32 body)

/-! ### Blocks of the Ulard link (R279 to R283) -/

/-- R280: the payload that 8 bytes make: byte 0 at bits [7:0]. -/
def blockPayload (bs : List Byte) : BitVec 64 := BitVec.ofNat 64 (leNat bs)

/-- R280: the bytes of a payload. -/
def blockBytes (w : BitVec 64) : List Byte := leBytes 8 w.toNat

/-- R280, R281: a control block of 7 bytes: the CRC-8 over them is byte 7. -/
def controlBlock (bs : List Byte) : BitVec 64 := blockPayload (bs ++ leBytes 1 (crc8 bs))

/-- R281: the CRC-8 of a control block is valid. -/
def controlOk (w : BitVec 64) : Bool := leNat ((blockBytes w).drop 7) = crc8 ((blockBytes w).take 7)

/-- R290: the length of a message's body in blocks of 8 bytes, with the CRC-32 that ends it. -/
def dataBlocks (m : Msg) : Nat := (m.body.length + 11) / 8

/-- Table 12.6: the start block of a message. -/
def startBlock (m : Msg) : BitVec 64 :=
  controlBlock (leBytes 7 (0xE1 + 2 ^ 8 * m.cls + 2 ^ 11 * m.kind + 2 ^ 16 * m.dest + 2 ^ 24 * m.source + 2 ^ 32 * dataBlocks m
    + 2 ^ 44 * m.segmented.toNat + 2 ^ 45 * m.resent.toNat + 2 ^ 48 * m.seq))

/-- R290: a body on the link: filled up with zeros to whole blocks (log entry 139), with the CRC-32 as its last 4 bytes. -/
def linkBody (body : List Byte) : List Byte :=
  let all := body ++ List.replicate ((12 - (body.length + 8) % 8) % 8) 0
  all ++ leBytes 4 (crc32 all)

/-- Table 12.7: a link control block: 0 acknowledgement, 1 negative acknowledgement, 2 busy. -/
def linkControlBlock (kind cls seq : Nat) : BitVec 64 :=
  controlBlock (leBytes 1 0x66 ++ leBytes 1 (cls + (if kind = 0 then 0 else 8) + (if kind = 2 then 16 else 0)) ++ leBytes 1 seq
    ++ leBytes 4 0)

/-- R295: the sizes of the segments of a body: one message where it fits, else pieces of at most 32,748 bytes. -/
def segmentSizes (n : Nat) : List Nat :=
  if n ≤ 32756 then [n]
  else (List.range ((n + 32747) / 32748)).map fun k => min 32748 (n - 32748 * k)

/-- R295: the segment header that opens the body of a segment. -/
def segmentHeader (tag number count total : Nat) : List Byte :=
  leBytes 2 tag ++ leBytes 1 number ++ leBytes 1 count ++ leBytes 4 total

/-- Table 12.10: the body of an axis block: chain time of its first update, channel, whether the axis is at standstill, 8
addresses. -/
def axisBody (first channel : Nat) (still : Bool) (addresses : List Nat) : List Byte :=
  linkBody (leBytes 8 first ++ leBytes 1 channel ++ leBytes 1 still.toNat ++ (addresses.take 8).flatMap (leBytes 2) ++ leBytes 2 0)

/-- R279: the scrambler x^58 + x^39 + 1: each bit leaves as its sum with the bits that left 39 and 58 before it. `before` holds
the 58 bits that left last, the oldest at bit 0. -/
def scramble (before : BitVec 58) (w : BitVec 64) : BitVec 64 :=
  ((List.range 64).foldl (fun (s : BitVec 122) i =>
    s ||| ((BitVec.ofBool (w.getLsbD i ^^ s.getLsbD (19 + i) ^^ s.getLsbD i)).setWidth 122 <<< (58 + i)))
    (before.setWidth 122) >>> 58).setWidth 64

/-- R279: the descrambler: it needs no state but the 58 bits that arrived last. -/
def descramble (before : BitVec 58) (w : BitVec 64) : BitVec 64 :=
  let s : BitVec 122 := w ++ before
  ((s >>> 58) ^^^ (s >>> 19) ^^^ s).setWidth 64

/-- R279: the sync header of a block: the first bit to arrive is its left digit (log entry 123). -/
def headerOf (b : LineBlock) : Nat := 2 * (b.bits.getLsbD 0).toNat + (b.bits.getLsbD 1).toNat

/-- R279: the payload of a block, bit 0 first on the wire, descrambled. -/
def payloadOf (b : LineBlock) : BitVec 64 := descramble b.before ((b.bits >>> 2).setWidth 64)

/-- R279: a block on the wire: the sync header, unscrambled, then the scrambled payload. -/
def lineBlock (before : BitVec 58) (header : Nat) (w : BitVec 64) : LineBlock :=
  ⟨before, scramble before w ++ BitVec.ofNat 2 (2 * (header % 2) + header / 2 % 2)⟩

/-- Table 12.5: the link state byte of a marker. -/
def markerByte (m : Marker) : Nat :=
  let on := fun (k : Nat) (b : Bool) => if b then 2 ^ k else 0
  64 * (m.mode % 4) + on 5 m.good1 + on 4 m.good0 + on 3 m.withheld1 + on 2 m.withheld0 + on 1 m.downstream + on 0 m.timeGood

/-- Table 12.4: the payload of a marker block. -/
def markerPayload (m : Marker) : BitVec 64 :=
  controlBlock (leBytes 1 0xD2 ++ leBytes 2 m.counter ++ leInt 3 m.stamp ++ leBytes 1 (markerByte m))

/-- Table 13.1, opcode 2: one node of the chain table. -/
def nodeEncode (n : TableNode) : List Byte :=
  leBytes 8 n.identity ++ leBytes 1 n.kind ++ leBytes 1 n.position ++ leBytes 1 (if n.arm = .a then 0 else 1)
    ++ leBytes 1 n.hops ++ leBytes 1 n.rotation ++ leBytes 1 0

/-- Table 13.1: the body of an enumeration message: opcode, hops, 2 reserved bytes, chain epoch, the opcode's fields. -/
def enumerationBody (opcode hops epoch : Nat) (fields : List Byte) : List Byte :=
  leBytes 1 opcode ++ leBytes 1 hops ++ leBytes 2 0 ++ leBytes 4 epoch ++ fields

/-- Table 13.1, opcode 0: the next chain position and the arm. -/
def probeFields (number : Nat) (arm : Port) : List Byte := leBytes 1 number ++ leBytes 1 (portIx arm).val

/-- Table 13.1, opcode 1: a report. -/
def reportFields (r : NodeReport) : List Byte :=
  leBytes 8 r.identity ++ leBytes 1 r.kind ++ leBytes 1 r.position ++ leBytes 1 (portIx r.upstream).val ++ leBytes 1 r.portsUp
    ++ leBytes 1 r.expected ++ leBytes 2 r.guestRate
    ++ leBytes 1 (r.ready.toNat + 2 * r.rejoining.toNat + 4 * r.enforcing.toNat + 8 * r.notices.toNat + 16 * r.replaceMe.toNat)

/-- Table 13.1, opcode 2: the chain table. -/
def tableFields (ns : List TableNode) : List Byte := leBytes 1 ns.length ++ ns.flatMap nodeEncode

/-- Table 13.1, opcode 3: reporting position or guest, failed port, detection time. -/
def breakFields (position : Nat) (p : Port) (time : Nat) : List Byte :=
  leBytes 1 position ++ leBytes 1 (portIx p).val ++ leBytes 8 time

/-- Table 13.1, opcode 4: new lead, first batch as lead, takeover time. -/
def takeoverFields (position first time : Nat) : List Byte :=
  leBytes 1 position ++ leBytes 1 0 ++ leBytes 4 first ++ leBytes 8 time

/-- Table 13.1, opcode 5: guest and credits. -/
def creditFields (guest credits : Nat) : List Byte := leBytes 1 guest ++ leBytes 1 credits

/-- R309, Table 13.1: an enumeration message as a node forwards it: its hops are raised by one. -/
def hopRaised (m : Msg) : Msg :=
  if m.cls = 1 && m.kind = 8 then
    { m with body := m.body.take 1 ++ leBytes 1 (min 255 (leNat ((m.body.drop 1).take 1) + 1)) ++ m.body.drop 2 }
  else m

/-- Table 13.3: an echo request: the counter of the requester's latest marker and its departure. -/
def echoRequestBody (counter departed : Nat) : List Byte := leBytes 2 counter ++ leBytes 8 departed

/-- Table 13.3: an echo response: the counter echoed, the arrival of that marker, and the responder's own latest marker. -/
def echoResponseBody (counter : Nat) (arrived : Int) (own departed : Nat) : List Byte :=
  leBytes 2 counter ++ leInt 8 arrived ++ leBytes 2 own ++ leBytes 8 departed

/-- Table 14.8: an observation record. -/
def observationEncode (o : Observation) : List Byte :=
  leBytes 1 o.constellation ++ leBytes 1 o.satellite ++ leBytes 1 o.signal ++ leBytes 1 o.flags
    ++ leInt 8 o.pseudorange ++ leInt 8 o.phase ++ leInt 4 o.doppler ++ leBytes 2 o.cn0 ++ leBytes 2 o.lockTime

/-- Table 14.6: the body of a message of kind 9, before its CRC-32: subtype, sender, count or state, flags, epoch, three figures
and two more. -/
def kind9Body (subtype position count flags : Nat) (epoch x y z : Int) (p q : Nat) : List Byte :=
  leBytes 1 subtype ++ leBytes 1 position ++ leBytes 1 count ++ leBytes 1 flags ++ leInt 8 epoch ++ leInt 4 x ++ leInt 4 y
    ++ leInt 4 z ++ leBytes 4 p ++ leBytes 4 q

/-- Table 14.6, subtype 0: a base epoch: the lead's solution and its observations. -/
def baseEpochBody (position kind : Nat) (epoch lat lon height : Int) (obs : List Observation) : List Byte :=
  kind9Body 0 position obs.length kind epoch lat lon height 0 0 ++ obs.flatMap observationEncode

/-- Table 14.6, subtype 1: a moving-baseline fix. -/
def baselineBody (f : BaselineFix) : List Byte :=
  kind9Body 1 f.position f.state f.implausible.toNat f.epoch f.east f.north f.up f.sigmaEN f.sigmaUp

/-- R335: the transfers of a script: a write is address and value, a read-back the address with bit 7 set, a delay a wait. -/
def scriptTransfers : List Byte → List (List Byte × Nat)
  | f :: a :: l :: h :: r =>
    (if f.toNat.testBit 1 then [([], l.toNat + 256 * h.toNat)]
      else ([a, l, h], 0) :: (if f.toNat.testBit 0 then [([a ||| 0x80], 0)] else [])) ++ scriptTransfers r
  | _ => []

/-- Table 13.2: the use of a block position of an upstream frame: 0 marker, 1 guard band, 2 report slot, 3 open. -/
def upstreamUse (position : Nat) : Nat :=
  if position = 0 then 0 else if position ≤ 8 then 1 else if position ≤ 16 then 2 else if position ≤ 24 then 1 else 3

/-- A difference taken modulo `n`, as the value nearest to 0. -/
def nearestOf (n x : Int) : Int := (x + n / 2) % n - n / 2

/-- R283: the full departure time (1/16 ns) from the frame counter, the stamp and a chain time (ns) that is right to within half
of the counter's span. -/
def departure (near : Int) (counter stamp : Nat) : Int :=
  let frame := near / 1600 + nearestOf 65536 (counter - near / 1600)
  frame * 25600 + nearestOf (2 ^ 24) (stamp - frame * 25600)

/-- R283, R285, Tables 12.4 and 12.5: what a block says as a marker, near a chain time. -/
def markerOf (near : Int) (b : LineBlock) : Marker :=
  let w := payloadOf b
  let counter := w.toNat / 2 ^ 8 % 65536
  let bit := fun (k : Nat) => w.getLsbD (48 + k)
  { crcOk := decide (headerOf b = 2) && decide (w.toNat % 256 = 0xD2) && controlOk w, counter := counter
    stamp := departure near counter (w.toNat / 2 ^ 24 % 2 ^ 24), mode := w.toNat / 2 ^ 54 % 4, good1 := bit 5, good0 := bit 4
    withheld1 := bit 3, withheld0 := bit 2, downstream := bit 1, timeGood := bit 0 }

end Sys2Proof.Machine
end

