-- ==== Sys2Proof/Machine/Access.lean ====
section
/-! DEFINITION. The rules that every access to the dictionary follows (chapters 16 and 17, R464, R465): the checks on a
write, the journal intake, acceptance with its acknowledgement, and the proof set. -/

namespace Sys2Proof.Machine

/-! ### Accessors -/

/-- R386: the state of an accessor, as after reset where it has none yet. -/
def findAccessor (acc : Accessor) : List AccessorState → AccessorState
  | [] => { acc := acc }
  | x :: r => if x.acc = acc then x else findAccessor acc r

/-- Replace or add the state of an accessor. -/
def putAccessor (y : AccessorState) : List AccessorState → List AccessorState
  | [] => [y]
  | x :: r => if x.acc = y.acc then y :: r else x :: putAccessor y r

/-- The state of an accessor. -/
def Dev.accessor (d : Dev) (acc : Accessor) : AccessorState := findAccessor acc d.dic.accessors

/-- Set the state of an accessor. -/
def Dev.setAccessor (d : Dev) (y : AccessorState) : Dev :=
  { d with dic := { d.dic with accessors := putAccessor y d.dic.accessors } }

/-- Table 16.9, 0x1030:06: path code of an accessor, with the origin path of a management request. -/
def pathCode : Accessor → Nat
  | .host => 0
  | .canI _ => 1
  | .sdo => 2
  | .internal _ => 3
  | .mgmt o => 4 + 8 * o

/-- R399: record an abort. -/
def Dev.recordAbort (d : Dev) (acc : Accessor) (addr code : Nat) : Dev :=
  ((d.bump 0x103004).put 0x103005 code).put 0x103006 (addr % 2 ^ 24 + 2 ^ 24 * pathCode acc)

/-! ### Checks on a write -/

/-- R380: the little-endian bytes of a value of a type. -/
def valueBytes (ty : OType) : Val → List Byte
  | .num v => leInt (typeBytes ty) v
  | .bytes b => b

/-- R380, R382: the abort of a value that fails the type, length or range check of a row. -/
def rangeCheck (r : ObjRow) (acc : Accessor) (v : Val) : Option Nat :=
  match typeIsBytes r.ty, v with
  | false, .num n =>
    if (r.lo ≤ n && n ≤ r.hi && (n - r.lo) % r.step = 0) || r.alt = some n then none else some 0x06090030
  | true, .bytes b =>
    let n : Int := b.length
    let limit : Int := match acc with | .canI _ => 1785 | .sdo => 65535 | _ => 131072
    if n > r.hi || n > limit then some 0x06070012
    else if n < r.lo || (n - r.lo) % r.step ≠ 0 then some 0x06070010
    else none
  | _, _ => some 0x06070010

/-- R464: the authenticated objects. -/
def authenticated (r : ObjRow) (a : Nat) : Bool :=
  r.kind = .cal || a = 0x2F000A || a = 0x310108 || a = 0x310109 || a = 0x310201 || a = 0x310206 || a = 0x310207

/-- R464: the message that a tag covers. -/
def tagMessage (d : Dev) (ty : OType) (a : Nat) (v : Val) : List Byte :=
  let b := valueBytes ty v
  leBytes 8 Config.nodeIdentity ++ leBytes 4 (d.nat 0x310302) ++ leBytes 4 a ++ leBytes 2 b.length ++ b

/-- R464: whether the accessor's tag, at most 10 s old, covers this write. -/
def tagHolds (d : Dev) (acc : Accessor) (ty : OType) (a : Nat) (v : Val) : Bool :=
  match (d.accessor acc).tag, d.nvm.calKey with
  | some (tag, t), some key =>
    d.time.now ≤ t + 10000000000 && tag = Config.cmac key (tagMessage d ty a v)
  | _, _ => false

/-- R464, R465: whether a write of an authenticated object passes: none needed in provisioning, none enough in a
lockout. -/
def authPasses (d : Dev) (acc : Accessor) (ty : OType) (a : Nat) (v : Val) : Bool :=
  d.lock.until_.isNone && (d.nat 0x310202 = 1 || tagHolds d acc ty a v)

/-- R386, R467, R456: path rules of single objects. -/
def pathForbids (acc : Accessor) (a : Nat) : Bool :=
  (0x110001 ≤ a && a ≤ 0x11000F && acc ≠ .host) ||
  (a = 0x310201 && acc ≠ .host && acc ≠ .sdo)

/-- R127, R355: an object of the lead alone on another device; the correction objects are served on the standby too. -/
def roleForbids (d : Dev) (r : ObjRow) (a : Nat) : Bool :=
  if a / 256 = 0x2B03 then !(d.isLead || d.nat 0x2A0001 = 2) else r.leadOnly && !d.isLead

/-- R379, R381, R382: the abort of a write that fails a check other than authentication and state; none where it
passes. -/
def writeCheck (d : Dev) (acc : Accessor) (a : Nat) (v : Val) : Option Nat :=
  match objRow a with
  | none =>
    if a % 256 = 0 && highestSub (objSection (a / 4096)) (a / 256) > 0 then some 0x06010002
    else if hasIndex (objSection (a / 4096)) (a / 256) then some 0x06090011
    else some 0x06020000
  | some r =>
    if roleForbids d r a || pathForbids acc a then some 0x06010000
    else match r.kind with
      | .ro => some 0x06010002
      | .const => some 0x06010002
      | _ => rangeCheck r acc v

/-- R465: count an authentication failure; every 8th within 1 h raises 0x1702, the 32nd begins the lockout. -/
def Dev.authFailure (d : Dev) (a : Nat) : Dev :=
  let recent := d.lock.failures.filter fun t => d.time.now < t + 3600000000000
  let fs := recent ++ [d.time.now]
  let d := { d with lock := { failures := fs, until_ :=
    if d.lock.until_.isSome then d.lock.until_
    else if fs.length ≥ 32 then some (d.time.now + 600000000000) else none } }.bump 0x310303
  if fs.length % 8 = 0 then d.raise 0x1702 0 0xFFFF [(7, a), (3, fs.length)] else d

/-! ### Journal intake (R401 to R412) -/

/-- Table 17.1: the journal source of an accessor and its sub-key. -/
def sourceOf (d : Dev) : Accessor → Nat
  | .host => 0x11
  | .sdo => 0x12
  | .internal _ => 0x13
  | .mgmt _ => 0x14
  | .canI n => 0x18 + ((List.finRange 8).findIdx fun k => d.jrn.clients[k] = n)

/-- R403: the last sequence accepted from a source and sub-key. -/
def lastSeq (key : Nat × Nat) : List ((Nat × Nat) × Nat) → Option Nat
  | [] => none
  | (k, v) :: r => if k = key then some v else lastSeq key r

/-- R403: set the last sequence of a source and sub-key. -/
def putSeq (key : Nat × Nat) (v : Nat) : List ((Nat × Nat) × Nat) → List ((Nat × Nat) × Nat)
  | [] => [(key, v)]
  | (k, w) :: r => if k = key then (k, v) :: r else (k, w) :: putSeq key v r

/-- R403: work of a sequence is fresh when it lies ahead of the last sequence accepted. -/
def seqFresh (d : Dev) (key : Nat × Nat) (q : Nat) : Bool :=
  match lastSeq key d.jrn.seqs with
  | none => true
  | some l => ahead q l

/-- Table 17.4: bytes of a payload. -/
def payloadBytes : Payload → Nat
  | .none => 0
  | .write _ (.num _) => 12
  | .write _ (.bytes b) => 4 + b.length
  | .tile _ => 4
  | .target _ => 44
  | .share _ => 44
  | .owner _ => 8
  | .result _ => 8
  | .final _ => 28
  | .asApplied r => 36 + 16 * r.entries.length + (if r.signed then 68 else 0)
  | .ready _ => 8

/-- R407: bytes of an entry: header, payload and CRC, a multiple of 8 and at least 24. -/
def entryBytes (e : JEntry) : Nat := max 24 ((20 + payloadBytes e.payload + 7) / 8 * 8)

/-- Bytes of a list of entries. -/
def entriesBytes (l : List JEntry) : Nat := l.foldl (fun n e => n + entryBytes e) 0

/-- R408: bytes of a committed group: header, body, trailer. -/
def groupBytes (g : JGroup) : Nat := 16 + entriesBytes g.entries

/-- Table 17.2: bytes of the log. -/
def logSize : Nat := 1015808

/-- R406, R408: free bytes of the log, used in a circle: from the head to the tail. -/
def freeBetween (head : Nat) : List JGroup → Nat
  | [] => logSize
  | g :: _ => if head ≤ g.start then g.start - head else logSize + g.start - head

/-- R406: free bytes of the log. -/
def Dev.freeLog (d : Dev) : Nat := freeBetween d.nvm.logHead d.nvm.groups

/-- R408: where a group of some bytes starts: at the log head, or at the log start where it would pass the end. -/
def groupStart (head bytes : Nat) : Nat := if head + bytes ≤ logSize then head else 0

/-- R408: whether an entry belongs to the reserved half of the group buffer. -/
def inReserved (e : JEntry) : Bool :=
  e.source = 0x15 || e.source = 0x16 || e.kind = 6 || e.kind = 8 || e.kind = 9 || e.kind = 13 || e.kind = 14

/-- R411: rank 4 intake is answered busy. -/
def Dev.intakeBusy (d : Dev) : Bool :=
  d.freeLog < 1024 * d.nat 0x32000E || 32768 < entriesBytes d.jrn.openHalf + 4096

/-- R411: the proof-write entries not yet live. -/
def Dev.proofBytes (d : Dev) : Nat := entriesBytes (d.jrn.openEntries.filter fun e => e.kind = 1)

/-- Table 17.4: kinds whose entries stay open after their group is committed. -/
def opensWork (k : Nat) : Bool := k = 1 || k = 4 || k = 5 || k = 7 || k = 9 || k = 10 || k = 12

/-- R403: advance the last sequence of a source and sub-key; an older sequence (a closure, a confirmation) leaves it. -/
def advanceKey (key : Nat × Nat) (v : Nat) (seqs : List ((Nat × Nat) × Nat)) : List ((Nat × Nat) × Nat) :=
  match lastSeq key seqs with
  | none => putSeq key v seqs
  | some l => if ahead v l then putSeq key v seqs else seqs

/-- R408: put an entry into the group buffer, open where its work is still to be done. -/
def Dev.journal (d : Dev) (e : JEntry) : Dev :=
  let j := d.jrn
  let j := if inReserved e then { j with reserved := j.reserved ++ [e] } else { j with openHalf := j.openHalf ++ [e] }
  { d with jrn := { j with
      openEntries := if opensWork e.kind then j.openEntries ++ [e] else j.openEntries
      seqs := advanceKey (e.source, e.subKey) e.seq j.seqs } }

/-- R408: an entry of this kind, source, sequence and sub-key is in the group buffer still. -/
def Dev.unwritten (d : Dev) (kind source seq subKey : Nat) : Bool :=
  (d.jrn.openHalf ++ d.jrn.reserved).any fun e =>
    e.kind = kind && e.source = source && e.seq = seq && e.subKey = subKey

/-- Make an entry of the present batch. -/
def Dev.entry (d : Dev) (kind source seq subKey : Nat) (lead : Bool) (p : Payload) : JEntry :=
  { kind := kind, source := source, seq := seq, subKey := subKey, lead := lead, carried := false,
    batch := d.seq.number, payload := p }

/-- Close the open entries that satisfy a test. -/
def Dev.closeEntries (d : Dev) (p : JEntry → Bool) : Dev :=
  { d with jrn := { d.jrn with openEntries := d.jrn.openEntries.filter fun e => !p e } }

/-! ### The proof set (R50 to R52) -/

/-- The last of a list of writes to an object. -/
def lastWrite (a : Nat) : List (Nat × Val) → Option Val
  | [] => none
  | (b, v) :: r => match lastWrite a r with
    | some w => some w
    | none => if a = b then some v else none

/-- R52: the writes of the set that the device holds an announcement for; all that wait, where it holds none. -/
def Dev.setWrites (d : Dev) : List (Nat × Val) :=
  match d.swap.announced with
  | some a => d.swap.writes.take a.count
  | none => d.swap.writes

/-- The value of an object after some writes, over the proof values that came with the lead role. -/
def Dev.valueAfter (d : Dev) (writes : List (Nat × Val)) (a : Nat) : Val :=
  match lastWrite a writes with
  | some v => v
  | none => match storeFind d.swap.adopted a with
    | some v => v
    | none => storeGet d.obj a

/-- R392: the latest accepted value of an object. -/
def Dev.latest (d : Dev) (a : Nat) : Val := d.valueAfter d.swap.writes a

/-- The value of an object in the proof set of the set that is being formed or is announced. -/
def Dev.proofVal (d : Dev) (a : Nat) : Val := d.valueAfter d.setWrites a

/-- R392: the value that the ready set carries, or the latest value where no set is ready. -/
def Dev.readyValue (d : Dev) (a : Nat) : Val := if d.swap.ready then d.proofVal a else d.latest a

/-- The number of an object in the proof set that is being formed. -/
def Dev.proofInt (d : Dev) (a : Nat) : Int := valInt (d.proofVal a)

/-- R52: the lead counts writes of a position towards the next set. -/
def Dev.countWrites (d : Dev) (p : Fin 32) (n : Nat) : Dev :=
  { d with swap := { d.swap with
      counts := updateAt d.swap.counts p (· + n)
      first := if d.swap.first.isSome || n = 0 then d.swap.first else some d.seq.number } }

/-- R52: the number of proof writes that are not live (0x1810:05). -/
def Dev.publishPending (d : Dev) : Dev := d.put 0x181005 (min 65535 d.swap.writes.length : Nat)

/-- R50, R52: a proof write, which waits behind those before it: one beyond the count of an announced set belongs to the
next set (log entry 104). A wheeler's own write raises a swap request, once its batches run; the lead counts its own. -/
def Dev.proofWrite (d : Dev) (acc : Accessor) (a : Nat) (v : Val) (cal : Bool) : Dev :=
  let w := { d.swap with writes := d.swap.writes ++ [(a, v)] }
  let w := if cal then { w with calPending := w.calPending ++ [(a, v)] } else w
  let d := ({ d with swap := w } : Dev).publishPending
  match acc with
  | .mgmt _ => d
  | _ =>
    if d.isLead then d.countWrites d.pos32 1
    else if d.seq.running then d.send (.swapRequest 1)
    else { d with swap := { d.swap with unrequested := d.swap.unrequested + 1 } }

/-! ### Acceptance and answers -/

/-- Table 15.8: the status byte's code for a result; a write on the host port is pending when it is accepted. -/
def resultStatus (acc : Accessor) : WriteResult → Nat
  | .accepted => if acc = .host then 1 else 0
  | .busy => 3
  | .duplicate => 5
  | .aborted _ => 6

/-- The abort code of a result. -/
def resultAbort : WriteResult → Nat
  | .aborted c => c
  | _ => 0

/-- Table 15.11: the NIRQ cause. -/
def Dev.nirqCause (d : Dev) : Nat :=
  let on := fun (k : Nat) (b : Bool) => if b then 2 ^ k else 0
  on 0 (d.hp.completions ≠ []) + on 1 (d.isLead && d.que.pages ≠ []) + on 2 (d.isLead && d.que.writeBacks ≠ [])
  + on 3 (d.isLead && d.que.applied ≠ []) + on 4 (d.isLead && d.que.results ≠ []) + on 5 d.hp.recorded
  + on 6 (d.nat 0x2E0002 ≠ 0 || (d.isLead && d.nat 0x2E0003 ≠ 0))
  + on 7 (d.hlt.throttle ≠ 0 || (d.isLead && d.hlt.requestPositions ≠ 0))

/-- R374: NIRQ is asserted. -/
def Dev.nirq (d : Dev) : Bool := d.nirqCause &&& d.nat 0x110007 ≠ 0

/-- Table 15.8: the status byte of a code on the host port. -/
def Dev.statusByte (d : Dev) (code : Nat) (torn : Bool) : Nat :=
  code + (if torn then 64 else 0) + if d.nirq then 128 else 0

/-- R399, R423: answer a write that is not accepted at once; an accepted one waits for its journal group. On CAN-I and
CAN-P a busy condition is reported by the busy abort. -/
def Dev.answerWrite (d : Dev) (acc : Accessor) (r : WriteResult) : Dev :=
  match r, acc with
  | .accepted, .host => d.send (.answer acc (d.statusByte 1 false) 0 (.num 0))
  | .accepted, .sdo => { d with can := { d.can with copen := { d.can.copen with sdo := some 0 } } }
  | .accepted, _ => d
  | r, .host => d.send (.answer acc (d.statusByte (resultStatus acc r) false) (resultAbort r) (.num 0))
  | .busy, .canI _ => d.send (.answer acc 6 0x08000020 (.num 0))
  | .busy, .sdo => d.send (.answer acc 6 0x08000020 (.num 0))
  | r, _ => d.send (.answer acc (resultStatus acc r) (resultAbort r) (.num 0))

/-- R404, R371, R375: the sequence that the next write of an accessor takes. -/
def Dev.nextSeq (d : Dev) (acc : Accessor) : Nat :=
  match acc with
  | .host => d.nat 0x110003
  | .sdo => d.nat 0x2C3006
  | _ => match lastSeq (sourceOf d acc, 0) d.jrn.seqs with
    | some l => u32 (l + 1)
    | none => 1

/-- R375, R371: the device's own sequence rises by one with each write it takes. -/
def Dev.advanceSeq (d : Dev) (acc : Accessor) (q : Nat) : Dev :=
  match acc with
  | .host => d.put 0x110003 (u32 (q + 1))
  | .sdo => d.put 0x2C3006 (u32 (q + 1))
  | _ => d

/-- R405: bind a CAN-I client to a slot; none where all eight are bound to others. -/
def Dev.bindClient (d : Dev) (n : Nat) : Option Dev :=
  if d.jrn.clients.toList.any (· = n) then some d
  else match (List.finRange 8).find? fun k => d.jrn.clients[k] = 0 with
    | some k => some { d with jrn := { d.jrn with clients := d.jrn.clients.set k n } }
    | none => none

/-- R398: the lead notes a load-switch command that it sends to a position. -/
def Dev.noteMask (d : Dev) (p : Fin 32) (a : Nat) (v : Val) : Dev :=
  let was := d.dic.masks[p]
  let now := if a = 0x260004 then some (valInt v).toNat
    else if a % 256 = 8 && 0x2610 ≤ a / 256 && a / 256 ≤ 0x2617 then
      was.map fun m => m - (if m.testBit (a / 256 - 0x2610) then 2 ^ (a / 256 - 0x2610) else 0)
        + (if valInt v = 0 then 0 else 2 ^ (a / 256 - 0x2610))
    else was
  { d with dic := { d.dic with masks := d.dic.masks.set p now } }

/-- R387: forward a write to one position, for an origin path: the next aggregator sequence, a kind 12 entry, and a
request that waits for the commit and the mirror. -/
def Dev.forwardVia (d : Dev) (origin a : Nat) (v : Val) (counts : Bool) (p : Fin 32) : Dev :=
  if d.seq.map.testBit p && p.val ≠ d.position then
    let q := u32 (d.dic.aggSeqs[p] + 1)
    let d := { d with dic := { d.dic with
      aggSeqs := d.dic.aggSeqs.set p q
      nextTag := u16 (d.dic.nextTag + 1)
      remotes := d.dic.remotes ++ [Remote.mk p ⟨d.dic.nextTag, 2, origin, a, q, v⟩ d.time.now false none none false none] } }
    let d := (d.journal (d.entry 12 0x14 q p true (.write a v))).noteMask p a v
    if counts then d.countWrites p 1 else d
  else d

/-- R387: forward a write of a chain object to one position. -/
def Dev.forwardTo (d : Dev) (a : Nat) (v : Val) (counts : Bool) (p : Fin 32) : Dev := d.forwardVia 3 a v counts p

/-- R127, R387: forward to every present device. -/
def Dev.forwardAll (d : Dev) (a : Nat) (v : Val) (counts : Bool) : Dev :=
  (List.finRange 32).foldl (fun d p => d.forwardTo a v counts p) d

/-- Table 17.4: the kind of the entry of an accepted write. -/
def entryKind (r : ObjRow) (a : Nat) : Nat :=
  if a = 0x220202 then 4
  else if a = 0x2B0301 then 11
  else if r.kind = .rwb || r.kind = .cal || a % 256 = 0x25 then 1
  else if r.kind = .rw then 2 else 3

/-- R381, R453: apply an accepted write by its access kind: proof set, object, or (WO) the action that the object
names. -/
def Dev.applyWrite (d : Dev) (acc : Accessor) (r : ObjRow) (a : Nat) (v : Val) (act : Dev → Dev) : Dev :=
  match r.kind with
  | .rwb => d.proofWrite acc a v false
  | .cal => d.proofWrite acc a v true
  | .rw => act (d.putVal a v)
  | _ => act d

/-- R464: an accessor's write to an authenticated object consumes its tag. -/
def Dev.spendTag (d : Dev) (acc : Accessor) (needs : Bool) : Dev :=
  if needs && (d.accessor acc).tag.isSome then d.setAccessor { d.accessor acc with tag := none } else d

/-- R462: the objects that recovery serves. -/
def servedInRecovery (a : Nat) : Bool :=
  let i := a / 256
  i = 0x1018 || i = 0x1100 || i = 0x3101 || i = 0x3103

/-- R463: a write in recovery, where nothing is journalled and no sequence is checked: it is applied at once, and its
completion record carries the outcome. -/
def Dev.recoveryWrite (d : Dev) (a : Nat) (v : Val) (q : Nat) (state : Option Nat) (act : Dev → Dev) :
    WriteResult × Dev :=
  let needs := (objRow a).any fun r => authenticated r a
  let spent := d.spendTag .host needs
  match writeCheck d .host a v, objRow a with
  | some c, _ => (.aborted c, spent.recordAbort .host a c)
  | none, none => (.aborted 0x06020000, d.recordAbort .host a 0x06020000)
  | none, some r =>
    let passes := !needs || authPasses d .host r.ty a v
    let d := spent
    if !servedInRecovery a then (.aborted 0x06020000, d.recordAbort .host a 0x06020000)
    else if !passes then (.aborted 0x0F000002, (d.authFailure a).recordAbort .host a 0x0F000002)
    else match state with
    | some c => (.aborted c, d.recordAbort .host a c)
    | none =>
      let d := if needs && d.nat 0x310202 ≠ 1 then (d.bump 0x310302).bump 0x310004 else d
      let d := d.applyWrite .host r a v act
      (.accepted, { d with hp := { d.hp with completions := d.hp.completions ++ [(q, 0)] } })

/-- R375: the host port's writes that are pending. -/
def Dev.hostPending (d : Dev) : Nat :=
  ((d.jrn.waiting ++ d.jrn.held ++ d.dic.remoteAcks).filter fun w => w.acc = .host).length

/-- R375, R382 to R393, R401 to R423: one write of an accessor with a sequence. `busy` is a busy condition of the
object's own, `state` its state check (the abort code), `act` its action. A write that passes is journalled, applied
and, for a chain object on the lead, forwarded; its acknowledgement waits for the journal group. -/
def Dev.writeWith (d : Dev) (acc : Accessor) (a : Nat) (v : Val) (q : Nat) (busy : Bool) (state : Option Nat)
    (act : Dev → Dev) : WriteResult × Dev :=
  let needs := (objRow a).any fun r => authenticated r a
  let spent := d.spendTag acc needs
  match writeCheck d acc a v, objRow a with
  | some c, _ => (.aborted c, spent.recordAbort acc a c)
  | none, none => (.aborted 0x06020000, d.recordAbort acc a 0x06020000)
  | none, some r =>
    let passes := !needs || authPasses d acc r.ty a v
    let d := spent
    if !passes then (.aborted 0x0F000002, (d.authFailure a).recordAbort acc a 0x0F000002)
    else match state with
    | some c => (.aborted c, d.recordAbort acc a c)
    | none =>
      let bound := match acc with | .canI n => d.bindClient n | _ => some d
      match bound with
      | none => (.busy, d.bump 0x320008)
      | some bd =>
        let src := sourceOf bd acc
        if !seqFresh d (src, 0) q then (.duplicate, d.bump 0x320007)
        else if busy || d.intakeBusy || (acc = .host && d.hostPending ≥ 16) ||
            ((r.kind = .rwb || r.kind = .cal) && d.proofBytes ≥ 131072) then
          (.busy, if acc = .host then (d.bump 0x320008).bump 0x11000B else d.bump 0x320008)
        else
          let d := if needs && bd.nat 0x310202 ≠ 1 then
              ({ bd with jrn := { bd.jrn with counterDue := bd.jrn.counterDue + 1 } } : Dev).bump 0x310302
            else bd
          let k := entryKind r a
          let d := d.journal (d.entry k src q 0 (d.isLead && (k = 3 || k = 4))
            (if a = 0x2B0301 || a = 0x310106 then .none
             else if a = 0x220202 then .tile (leNat ((valBytes v).drop 4 |>.take 4)) else .write a v))
          let d := { d with jrn := { d.jrn with waiting := d.jrn.waiting ++ [Ack.mk acc q 0 none 0] } }
          let d := d.applyWrite acc r a v act
          let d := if r.chain && d.isLead then
              match acc with
              | .mgmt _ => d
              | _ => d.forwardAll a v (r.kind = .rwb || r.kind = .cal)
            else d
          (.accepted, d)

/-- R375: a write on a path: its result is answered and, on the paths whose sequence the device assigns, the sequence
rises where the write was taken or answered with an outcome. -/
def Dev.writeObject (d : Dev) (acc : Accessor) (a : Nat) (v : Val) (busy : Bool) (state : Option Nat)
    (act : Dev → Dev) : Dev :=
  let q := d.nextSeq acc
  let (r, d) := if d.power.run = .recovery then d.recoveryWrite a v q state act
    else d.writeWith acc a v q busy state act
  let d := match r with
    | .busy => d
    | _ => d.advanceSeq acc q
  d.answerWrite acc r

end Sys2Proof.Machine
end

