-- ==== Sys2Proof/Machine/Journal.lean ====
section
/-! DEFINITION. The accepted-work journal in MRAM (R406 to R419): groups and their commit, acknowledgements, checkpoints,
cleaning, replay, and the release of what waits for the standby's mirror. -/

namespace Sys2Proof.Machine

/-! ### The log (R406 to R409) -/

/-- Table 17.4: the bytes of a payload. -/
def payloadEncode : Payload → List Byte
  | .none => []
  | .write a v => leBytes 4 a ++ valueBytes ((objRow a).elim .u8 fun r => r.ty) v
  | .tile c => leBytes 4 c
  | .target r => targetEncode r
  | .share x => targetEncode x.record
  | .owner p => leBytes 8 p
  | .result c => leBytes 8 c
  | .final r => resultEncode r
  | .asApplied r => appliedEncode r
  | .ready k => leBytes 8 k

/-- Table 17.3: the bytes of an entry. -/
def journalEntry (e : JEntry) : List Byte :=
  let n := entryBytes e
  let body := leBytes 2 n ++ leBytes 1 e.kind ++ leBytes 1 e.source ++ leBytes 4 e.seq ++ leBytes 2 e.subKey
    ++ leBytes 2 ((if e.lead then 1 else 0) + if e.carried then 2 else 0) ++ leBytes 4 e.batch ++ payloadEncode e.payload
  let all := body ++ List.replicate (n - 4 - body.length) 0
  all ++ leBytes 4 (crc32 all)

/-- Table 17.5: the bytes of a group: header, entries, trailer with its CRC-32 over all before it. -/
def journalGroup (g : JGroup) : List Byte :=
  let body := g.entries.flatMap journalEntry
  let flags := (if g.entries.any fun e => e.carried then 1 else 0) + if g.entries.any fun e => e.lead then 2 else 0
  let all := leBytes 4 g.number ++ leBytes 4 body.length ++ body ++ leBytes 2 g.entries.length ++ leBytes 2 flags
  all ++ leBytes 4 (crc32 all)

/-- R409: bytes at the start of which stands a valid group of the expected number. -/
def groupValid (expected : Nat) (b : List Byte) : Bool :=
  let u := fun k n => leNat ((b.drop k).take n)
  let n := u 4 4
  u 0 4 = expected && n + 16 ≤ b.length && u (n + 12) 4 = crc32 (b.take (n + 12))

/-- R406, R408: what the log area holds: the bytes of each group from its offset on. -/
def Dev.logArea (d : Dev) : List (Nat × List Byte) := d.nvm.groups.map fun g => (g.start, journalGroup g)

/-- R303, R417: the lead has a named standby in its chain (log entry 98). -/
def Dev.hasStandby (d : Dev) : Bool := d.isLead && d.nat 0x2A0008 < 32 && d.seq.map.testBit (d.nat 0x2A0008)

/-- R331, R388: send the responses at the front of the request order that are known. -/
def Dev.flushAnswers (d : Dev) : Dev :=
  let go := d.dic.answers.takeWhile fun x => x.2.isSome
  let d := { d with dic := { d.dic with answers := d.dic.answers.dropWhile fun x => x.2.isSome } }
  go.foldl (fun (d : Dev) (x : Nat × Option DictResponse) => match x.2 with
    | some r => d.send (.response r)
    | none => d) d

/-- R388: answer a request at once, or behind those before it. -/
def Dev.respond (d : Dev) (r : DictResponse) : Dev :=
  if d.dic.answers = [] then d.send (.response r)
  else { d with dic := { d.dic with answers := d.dic.answers ++ [(r.tag, some r)] } }

/-- R388: a request whose response waits for its journal commit. -/
def Dev.awaitCommit (d : Dev) (tag : Nat) : Dev := { d with dic := { d.dic with answers := d.dic.answers ++ [(tag, none)] } }

/-- R388: the response of a request that waited. -/
def Dev.commitAnswer (d : Dev) (r : DictResponse) : Dev :=
  if d.dic.answers.any fun x => x.1 = r.tag && x.2.isNone then
    ({ d with dic := { d.dic with answers := d.dic.answers.map fun x =>
      if x.1 = r.tag && x.2.isNone then (x.1, some r) else x } } : Dev).flushAnswers
  else d.respond r

/-- R375, R388, R371: release one acknowledgement; an SDO transfer that has ended is not confirmed. -/
def Dev.releaseAck (d : Dev) (w : Ack) : Dev :=
  match w.acc with
  | .host =>
    let d := { d with hp := { d.hp with completions := d.hp.completions ++ [(w.seq, w.outcome)] } }
    if w.outcome = 0 then d.put 0x110004 w.seq else d
  | .mgmt _ => d.commitAnswer ⟨w.tag, if w.outcome = 0 then 0 else 6, w.outcome, .num 0⟩
  | .sdo =>
    if d.can.copen.sdo.isNone then d
    else ({ d with can := { d.can with copen := { d.can.copen with sdo := none } } } : Dev).send
      (.answer .sdo (if w.outcome = 0 then 0 else 6) w.outcome (.num 0))
  | acc => d.send (.answer acc (if w.outcome = 0 then 0 else 6) w.outcome (.num 0))

/-- Release acknowledgements in order. -/
def Dev.releaseAcks (d : Dev) (ws : List Ack) : Dev := ws.foldl Dev.releaseAck d

/-- R331: at most 4 requests outstanding for one position. -/
def outstanding (p : Nat) (rs : List Remote) : Nat := (rs.filter fun r => r.position = p && r.sent).length

/-- R387, R417: send the requests that may leave, oldest first: a forward only once its journal group is committed and the
standby has acknowledged the mirror that carries it. -/
def Dev.sendRemotes (d : Dev) : Dev :=
  let step := fun (acc : List Remote × Dev) (r : Remote) =>
    if r.sent || !r.committed || r.mirror.isSome || outstanding r.position acc.1 ≥ 4 then (acc.1 ++ [r], acc.2)
    else (acc.1 ++ [{ r with sent := true, sentAt := acc.2.time.now }], acc.2.send (.request r.position r.req))
  let (rs, d') := d.dic.remotes.foldl step ([], d)
  { d' with dic := { d'.dic with remotes := rs } }

/-- R417: an acknowledgement to a source outside the chain. -/
def outsideChain : Accessor → Bool
  | .mgmt _ => false
  | _ => true

/-- R410: one entry matches an open entry. -/
def stillOpen (opens : List JEntry) (e : JEntry) : Bool :=
  opens.any fun o => o.kind = e.kind && o.source = e.source && o.subKey = e.subKey && o.seq = e.seq

/-- R410: advance the tail while less than a quarter of the log is free, copying at most 8 KiB of open entries; answers
the groups left and the carried copies. -/
def cleanLog (opens : List JEntry) (free : Nat) : List JGroup → List JEntry → List JGroup × List JEntry
  | [], c => ([], c)
  | g :: gs, c =>
    let live := (g.entries.filter (stillOpen opens)).map fun e => { e with carried := true }
    if free < 253952 && entriesBytes c + entriesBytes live ≤ 8192 then
      cleanLog opens (match gs with
        | [] => logSize
        | n :: _ => free + (if g.start ≤ n.start then n.start - g.start else logSize + n.start - g.start)) gs (c ++ live)
    else (g :: gs, c)

/-- R387, R417: the forwards whose entries a group holds are committed; those of a lead with a standby wait for the mirror of
that batch. -/
def Dev.forwardsCommitted (d : Dev) (entries : List JEntry) (mirror : Option Nat) : Dev :=
  { d with dic := { d.dic with remotes := d.dic.remotes.map fun (r : Remote) =>
      if !r.committed && entries.any (fun e => e.kind = 12 && e.subKey = r.position && e.seq = r.req.seq) then
        { r with committed := true, mirror := mirror }
      else r } }

/-- R417: release what waits for a mirror that satisfies a test: acknowledgements, then forwards. -/
def Dev.releaseMirrored (d : Dev) (p : Nat → Bool) : Dev :=
  let ready := fun (w : Ack) => match w.mirror with
    | some b => p b
    | none => true
  let go := d.jrn.held.filter ready
  let d := { d with
    jrn := { d.jrn with held := d.jrn.held.filter fun w => !ready w }
    dic := { d.dic with remotes := d.dic.remotes.map fun (r : Remote) => if r.mirror.any p then { r with mirror := none } else r } }
  (d.releaseAcks go).sendRemotes

/-- R417: a lead that has no standby any more releases what waited for it. -/
def Dev.releaseUnmirrored (d : Dev) : Dev :=
  if d.hasStandby || (d.jrn.held = [] && !d.dic.remotes.any fun (r : Remote) => r.mirror.isSome) then d else d.releaseMirrored fun _ => true

/-- R408, R49: write the batch's group, or first a group carried past its boundary: header, body, trailer; then release its
acknowledgements, or hold those to sources outside the chain for the standby's mirror (R417). A batch with no entries
writes no group. -/
def groupCommitEff (d : Dev) : Dev :=
  let (groups, carried) := cleanLog d.jrn.openEntries d.freeLog d.nvm.groups []
  let part := d.jrn.late.getD (d.jrn.openHalf.length, d.jrn.reserved.length, d.jrn.waiting.length)
  let entries := d.jrn.openHalf.take part.1 ++ d.jrn.reserved.take part.2.1 ++ carried
  let d := { d with
    seq := { d.seq with journalDue := d.jrn.late.isSome && d.seq.journalDue }, jrn := { d.jrn with late := none } }
  if entries = [] then d.releaseUnmirrored
  else
    let moved := groups.length < d.nvm.groups.length
    let bytes := 16 + entriesBytes entries
    let g : JGroup := ⟨d.nvm.nextGroup, entries, groupStart d.nvm.logHead bytes⟩
    let us := Config.groupWriteTime d.draws % 141
    let acks := d.jrn.waiting.take part.2.2
    let d := { d.draw with
      nvm := { d.nvm with groups := groups ++ [g], nextGroup := u32 (d.nvm.nextGroup + 1), logHead := g.start + bytes }
      jrn := { d.jrn with
        openHalf := d.jrn.openHalf.drop part.1, reserved := d.jrn.reserved.drop part.2.1
        waiting := d.jrn.waiting.drop part.2.2, writes := (d.seq.number, us) :: d.jrn.writes, tailMoved := d.jrn.tailMoved || moved } }
    let d := (d.put 0x320001 g.number).put 0x320002 d.freeLog
    if d.hasStandby then
      let d := (d.forwardsCommitted entries (some d.seq.number)).releaseAcks (acks.filter fun w => !outsideChain w.acc)
      { d with jrn := { d.jrn with held := d.jrn.held ++
          (acks.filter fun w => outsideChain w.acc).map fun w => { w with mirror := some d.seq.number } } }
    else ((d.forwardsCommitted entries none).releaseUnmirrored.releaseAcks acks).sendRemotes

/-- R410: write a checkpoint into the copy that does not hold the newest: number, tail, sequences, bindings. -/
def checkpointEff (d : Dev) : Dev :=
  if d.jrn.tailMoved || d.time.now ≥ d.jrn.checkpointAt + 10000000000 then
    let tail := match d.nvm.groups with
      | [] => (d.nvm.logHead, d.nvm.nextGroup)
      | g :: _ => (g.start, g.number)
    let cp : Checkpoint := ⟨u32 (d.nvm.checkpoint.number + 1), tail.1, tail.2, d.jrn.seqs, d.jrn.clients⟩
    { d with nvm := { d.nvm with checkpoint := cp }, jrn := { d.jrn with tailMoved := false, checkpointAt := d.time.now } }
  else d

/-- R417: the standby has acknowledged the mirror of a batch: release the acknowledgements it carries and the
forwards. -/
def mirrorAcknowledgedEff (d : Dev) (batch : Nat) : Dev := d.releaseMirrored fun b => !ahead b batch

/-- R405: free a client slot. -/
def clientReleaseAct (v : Nat) (d : Dev) : Dev :=
  if h : v < 8 then
    { d with jrn := { d.jrn with clients := d.jrn.clients.set v 0
                                 seqs := d.jrn.seqs.filter fun e => e.1.1 ≠ 0x18 + v } }
  else d

/-! ### Replay -/

/-- R415: the proof writes to apply: those after the ready mark of the live set. -/
def proofAfterMark (k : Nat) : List JEntry → List JEntry → List JEntry
  | acc, [] => acc
  | acc, e :: es =>
    if e.kind = 14 && e.payload = .ready k then proofAfterMark k [] es
    else if e.kind = 1 then proofAfterMark k (acc ++ [e]) es
    else proofAfterMark k acc es

/-- Table 17.4: the open entries that replaying one entry leaves. A final result comes only after every owner has confirmed, so
it also ends the target accepted. -/
def replayOpen (opens : List JEntry) (e : JEntry) : List JEntry :=
  let opens := if e.kind = 9 then opens.filter fun o => !(o.kind = 5 && o.source = e.source && o.seq = e.seq) else opens
  if opensWork e.kind then
    if e.carried && stillOpen opens e then opens else opens ++ [e]
  else if e.kind = 8 then opens.filter fun o => !(o.kind = 7 && o.subKey = e.subKey && o.seq = e.seq)
  else if e.kind = 13 then opens.filter fun o => !(o.kind = 12 && o.subKey = e.subKey && o.seq = e.seq)
  else match e.payload with
    | .write 0x220207 (.bytes b) => opens.filter fun o => !(o.kind = 10 && o.seq = leNat (b.drop 4))
    | .write 0x230202 (.bytes b) =>
      opens.filter fun o => !(o.kind = 9 && match o.payload with
        | .final r => r.source = leNat (b.take 1) && r.seq = leNat (b.drop 4)
        | _ => false)
    | _ => opens

/-- R413, R414: a group that is not valid: at the log head it ends the log; before another valid group it is a gap, whose
work is lost. -/
def Dev.dropGroup (d : Dev) : Option Nat → Dev
  | none => d
  | some k =>
    match d.nvm.groups.find? fun g => g.number = k with
    | none => d
    | some b =>
      let gap := d.nvm.groups.any fun g => g.number = u32 (k + 1)
      let d := { d with nvm := { d.nvm with
        groups := d.nvm.groups.filter fun g => g.number ≠ k
        nextGroup := if gap then d.nvm.nextGroup else k
        logHead := if gap then d.nvm.logHead else b.start } }
      if gap then ((d.putBit 0x320004 7 true).bump 0x32000C).raise 0x1301 0 0xFFFF [(10, k)] else d

/-- R404, R413, R415, R419: replay of the log at start-up: last sequences, open entries, the proof set; lead-role entries
are set aside. -/
def replayEff (d0 : Dev) (micros : Nat) (bad : Option Nat) : Dev :=
  let d := d0.dropGroup bad
  let all := d.nvm.groups.flatMap fun g => g.entries
  let seqs := all.foldl (fun s e => advanceKey (e.source, e.subKey) e.seq s) d.nvm.checkpoint.seqs
  let own := all.filter fun e => !e.lead
  let proofs := proofAfterMark d.nvm.liveSet [] own
  let opens := own.foldl replayOpen []
  let opens := opens.filter fun e => e.kind ≠ 1 || proofs.any (· = e)
  let d := { d with jrn := { d.jrn with
      seqs := seqs, clients := d.nvm.checkpoint.clients, openEntries := opens,
      setAside := all.filter fun e => e.lead } }
  let apply := fun (d : Dev) (e : JEntry) => match e.payload with
    | .write a v => { d with swap := { d.swap with
        writes := d.swap.writes ++ [(a, v)]
        unrequested := d.swap.unrequested + 1
        calPending := if (objRow a).any (fun r => r.kind = .cal) then d.swap.calPending ++ [(a, v)]
          else d.swap.calPending } }
    | _ => d
  let d := (proofs.foldl apply d).publishPending
  let l11 := (lastSeq (0x11, 0) seqs).getD 0
  let l12 := (lastSeq (0x12, 0) seqs).getD 0
  let d := ((d.put 0x110003 (u32 (l11 + 1))).put 0x110004 l11).put 0x2C3006 (u32 (l12 + 1))
  let d := (d.put 0x320005 (min micros 30000 : Nat)).put 0x320006 all.length
  (d.put 0x320001 (match d.nvm.groups.getLast? with | some g => g.number | none => 0)).put 0x320002 d.freeLog

/-- Table 17.9: the journal status word. -/
def Dev.journalStatus (d : Dev) : Nat :=
  (if d.proofBytes ≥ 131072 then 1 else 0) + (if d.intakeBusy then 2 else 0)
  + (if d.jrn.late.isSome then 4 else 0) + (if d.freeLog < 253952 then 8 else 0)
  + (if d.nat 0x32000D ≤ d.tiles.records.length then 16 else 0) + (if d.jrn.held = [] then 0 else 32)
  + (if d.bit 0x320004 6 then 64 else 0) + (if d.bit 0x320004 7 then 128 else 0)

/-! ### Meanings -/

/-- JOURNAL_CHECKPOINT (R410). -/
def execJournalCheckpoint (t : Nat) (s : State) : Host.Outcome State Fault Refusal := s.logic t checkpointEff

/-- MIRROR_ACKNOWLEDGED (R417). -/
def execMirrorAcknowledged (batch t : Nat) (s : State) : Host.Outcome State Fault Refusal :=
  s.logic t fun d => mirrorAcknowledgedEff d batch

/-- CLIENT_SLOT_RELEASE (R405): a write to 0x3202:09. -/
def execClientSlotRelease (acc : Accessor) (v : Int) (s : State) : Host.Outcome State Fault Refusal :=
  s.logicNow fun d => d.writeObject acc 0x320209 (.num v) false none (clientReleaseAct v.toNat)

end Sys2Proof.Machine
end

