-- ==== Sys2Proof/Machine/Recorder.lean ====
section
/-! DEFINITION. The event recorder in MRAM (R444 to R456): areas and pages, the writing of records, notices, clearing and
reading. -/

namespace Sys2Proof.Machine

/-- R445: the operating time now, 0.1 s. -/
def Dev.opTime (d : Dev) : Nat := u32 (d.power.opBase + (d.time.now - d.power.releasedAt) / 100000000)

/-- R446: bytes used in a page, header included. -/
def pageBytes (p : Page) : Nat := p.records.foldl (fun n r => n + recordBytes r.event.items) 8

/-- R446: the highest page sequence of an area, 0 where no page is open. -/
def lastPageSeq (ps : List Page) : Nat := match ps.getLast? with | some p => p.seq | none => 0

/-- R446, R448: append a record to the current page of an area, opening a page where it does not fit; none where the
area may not open another page. -/
def appendRecord (r : Record) (mayOpen : Bool) : List Page → Option (List Page)
  | [] => if mayOpen then some [⟨1, [r]⟩] else none
  | [p] =>
    if pageBytes p + recordBytes r.event.items ≤ 4096 then some [{ p with records := p.records ++ [r] }]
    else if mayOpen then some [p, ⟨p.seq + 1, [r]⟩] else none
  | p :: q :: ps => (appendRecord r mayOpen (q :: ps)).map (p :: ·)

/-- R447: records of a source in the starter. -/
def starterCount (src : Nat) (ps : List Page) : Nat :=
  ps.foldl (fun n p => n + (p.records.filter fun r => r.event.code / 256 = src).length) 0

/-- R446: append to the ring; where it holds 176 pages the one with the lowest sequence is reopened. -/
def ringAppend (r : Record) (ps : List Page) : List Page × Bool :=
  match appendRecord r (ps.length < 176) ps with
  | some qs => (qs, false)
  | none => (ps.drop 1 ++ [⟨lastPageSeq ps + 1, [r]⟩], true)

/-- R452: add a record to the notice queue, or on the lead to the chain event queue; a full queue drops its oldest. -/
def Dev.notice (d : Dev) (r : Record) : Dev :=
  if d.isLead then
    let q := d.rcd.chainQueue ++ [(d.position, r)]
    let d := { d with hp := { d.hp with recorded := true } }
    if q.length > 256 then { d with rcd := { d.rcd with chainQueue := q.drop 1 } }.bump 0x2F0302
    else { d with rcd := { d.rcd with chainQueue := q } }
  else
    let q := d.rcd.notices ++ [r]
    if q.length > 64 then { d with rcd := { d.rcd with notices := q.drop 1 } }.bump 0x2F0202
    else { d with rcd := { d.rcd with notices := q } }

/-- R451: take the count of folded repeats of a code and unit, and note that its record is written now. -/
def takeRepeat (code unit now : Nat) : List Repeat → Nat × List Repeat
  | [] => (0, [⟨code, unit, now, 0⟩])
  | x :: r =>
    if x.code = code && x.unit = unit then (x.folded, ⟨code, unit, now, 0⟩ :: r)
    else
      let (n, r') := takeRepeat code unit now r
      (n, x :: r')

/-- R445, R447, R448, R451: write one event as a record: it takes its number now and stands under that number in the
sealed area (codes marked S, while there is room), the starter (below 40 of its source) and the ring. -/
def Dev.writeRecord (d : Dev) (e : Event) : Dev :=
  let (folded, reps) := if e.kind = 0 && !sealedCode e.code then takeRepeat e.code e.unit d.chain d.rcd.repeats
    else (0, d.rcd.repeats)
  let e := if folded = 0 then e else { e with items := (1, (folded : Int)) :: e.items }
  let n := u32 (d.nvm.lastRecord + 1)
  let mk := fun (b : Bool) => Record.mk n d.opTime (d.nat 0x2F0009) e b
  let sealing := if sealedCode e.code && !d.nvm.sealedFull then appendRecord (mk true) (d.nvm.sealedArea.length < 16) d.nvm.sealedArea
    else none
  let r := mk sealing.isSome
  let (ring, reopened) := ringAppend r d.nvm.ring
  let starter := if starterCount (e.code / 256) d.nvm.starter < 40 then
      (appendRecord r true d.nvm.starter).getD d.nvm.starter
    else d.nvm.starter
  let d := { d with
    rcd := { d.rcd with repeats := reps }
    nvm := { d.nvm with lastRecord := n, ring := ring, starter := starter,
                        sealedArea := sealing.getD d.nvm.sealedArea } }
  let d := (d.put 0x2F0002 n).put 0x2F000D (d.nvm.sealedArea.foldl (fun n p => n + pageBytes p) 0 : Nat)
  let d := if reopened then d.bump 0x2F0006 else d
  (if sealedCode e.code && sealing.isNone then d.bump 0x2F0007 else d).notice r

/-- R447: write an event, and after the first refusal by the sealed area the sealed-area-full record, once. -/
def Dev.writeEvent (d : Dev) (e : Event) : Dev :=
  let refused := d.nat 0x2F0007
  let d := d.writeRecord e
  if !d.nvm.sealedFull && d.nat 0x2F0007 ≠ refused then
    ({ d with nvm := { d.nvm with sealedFull := true } } : Dev).writeRecord ⟨0x1603, 0, 0xFFFF, [], e.raisedAt⟩
  else d

/-- R449: write at once, ahead of the buffer. -/
def Dev.writeNow (d : Dev) (code unit : Nat) (items : List (Nat × Int)) : Dev :=
  d.writeEvent ⟨code, 0, unit, (if d.seq.running then [(5, (d.seq.number : Int))] else []) ++ items,
    if d.time.seeded then d.chain else 0⟩

/-- R454: reopen every ring page, continuing the page sequence, and write the ring-cleared record. -/
def Dev.clearRing (d : Dev) (path : Nat) : Dev :=
  let l := lastPageSeq d.nvm.ring
  let d := { d with
    nvm := { d.nvm with ring := (List.range 176).map fun k => ⟨l + 1 + k, []⟩ }
    rcd := { d.rcd with clearRing := none } }.add 0x2F0006 176
  d.writeNow 0x1602 0xFFFF [(2, path)]

/-- R448: write buffered events in order while `budget` bytes remain. -/
def Dev.writeBuffer (d : Dev) : List Event → Nat → Dev
  | [], _ => { d with rcd := { d.rcd with buffer := [] } }
  | e :: es, budget =>
    if recordBytes e.items ≤ budget then (d.writeEvent e).writeBuffer es (budget - recordBytes e.items)
    else { d with rcd := { d.rcd with buffer := e :: es } }

/-- R448, R449, R454: the recorder's part of Phase D: a ring clear that was accepted, a records-lost record, then the
buffer, up to 8 KiB. -/
def recorderEff (d : Dev) : Dev :=
  let d := match d.rcd.clearRing with
    | some p => d.clearRing p
    | none => d
  let d := if d.rcd.lostPending = 0 then d
    else { d.writeNow 0x1601 0xFFFF [(3, d.rcd.lostPending)] with
      rcd := { (d.writeNow 0x1601 0xFFFF [(3, d.rcd.lostPending)]).rcd with lostPending := 0 } }
  let d := d.writeBuffer d.rcd.buffer 8192
  { d with seq := { d.seq with recorderDue := false } }

/-! ### Reading -/

/-- Table 19.3: the records of an area. -/
def areaRecords (n : Nvm) : Nat → List Record
  | 0 => n.starter.flatMap fun p => p.records
  | 1 => n.ring.flatMap fun p => p.records
  | _ => n.sealedArea.flatMap fun p => p.records

/-- R453: the valid record with the lowest number that is at least `k`. -/
def recordFrom (k : Nat) (rs : List Record) : Option Record :=
  rs.foldl (fun best r => if r.number < k then best else match best with
    | none => some r
    | some b => if r.number < b.number then some r else best) none

/-- R446: the bytes of a page: header, records, zeros to 4,096. -/
def pageEncode (area : Nat) : Option Page → List Byte
  | none => List.replicate 4096 0
  | some p =>
    let h := leBytes 4 p.seq ++ leBytes 1 area ++ leBytes 1 0
    let b := h ++ leBytes 2 (crc16 h) ++ p.records.flatMap recordEncode
    b ++ List.replicate (4096 - b.length) 0

/-- Table 19.3, R453: the page at a position of the region; an area's page of sequence `s` stands at `(s − 1)` modulo
its pages. -/
def pageAt (n : Nvm) (k : Nat) : List Byte :=
  if k < 64 then pageEncode 0 (n.starter.find? fun p => p.seq = k + 1)
  else if k < 240 then pageEncode 1 (n.ring.find? fun p => (p.seq - 1) % 176 = k - 64)
  else pageEncode 2 (n.sealedArea.find? fun p => p.seq = k - 239)

/-- R453: read the next record of the accessor's area and advance its record select. -/
def recordRead (d : Dev) (acc : Accessor) : List Byte × Dev :=
  let y := d.accessor acc
  match recordFrom y.record (areaRecords d.nvm y.area) with
  | none => ([], d)
  | some r => (recordEncode r, d.setAccessor { y with record := u32 (r.number + 1) })

/-- R445, R450: at boot the numbers go on from the highest record in the three areas. -/
def Dev.resumeNumbers (d : Dev) : Dev :=
  { d with nvm := { d.nvm with
    lastRecord := ([0, 1, 2].flatMap (areaRecords d.nvm)).foldl (fun m r => max m r.number) 0 } }

/-- R445: 60 s of operating time since the last commit. -/
def Dev.opTimeDue (d : Dev) : Bool := d.nvm.opTime + 600 ≤ d.opTime

/-- Table 19.7: the recorder status word. -/
def Dev.recorderStatus (d : Dev) : Nat :=
  (if d.rcd.buffer = [] then 0 else 1) + (if d.nat 0x2F0003 = 0 then 0 else 2)
  + (if d.nvm.sealedFull then 4 else 0) + (if d.nat 0x2F000B = 0 then 0 else 8)
  + (if d.nat 0x2F0006 = 0 then 0 else 16) + (if d.rcd.notices = [] then 0 else 32)

/-! ### Meanings -/

/-- CLEAR_RING (R454): a write to 0x2F00:0A; the clear runs in the Phase D of the accepting batch. -/
def execClearRing (acc : Accessor) (v : Int) (s : State) : Host.Outcome State Fault Refusal :=
  s.logicNow fun d => d.writeObject acc 0x2F000A (.num v) false none fun d =>
    { d with rcd := { d.rcd with clearRing := some (pathCode acc % 8) } }

/-- RECORD_READ (R453). -/
def execRecordRead (acc : Accessor) (t : Nat) (s : State) : Host.Outcome State Fault Refusal :=
  s.logic t fun d =>
    let (b, d) := recordRead d acc
    d.send (.answer acc 0 0 (.bytes b))

/-- PAGE_READ (R453): CAN-I carries no page and ends with the length abort. -/
def execPageRead (acc : Accessor) (t : Nat) (s : State) : Host.Outcome State Fault Refusal :=
  s.logic t fun d =>
    match acc with
    | .canI _ => (d.recordAbort acc 0x2F0105 0x06070012).send (.answer acc 6 0x06070012 (.num 0))
    | _ => d.send (.answer acc 0 0 (.bytes (pageAt d.nvm (d.accessor acc).page)))

/-- OPERATING_TIME_COMMIT (R445): every 60 s the operating time is committed. -/
def execOperatingTimeCommit (t : Nat) (s : State) : Host.Outcome State Fault Refusal :=
  s.logic t fun d => if d.opTimeDue then { d with nvm := { d.nvm with opTime := d.opTime } }.bump 0x310004 else d

end Sys2Proof.Machine
end

