-- ==== Sys2Proof/Machine/Nvm.lean ====
section
/-! DEFINITION. The nonvolatile store and security (chapter 20): set slots, firmware images, keys, authentication and the
lifecycle. -/

namespace Sys2Proof.Machine

/-! ### The ordered commit -/

/-- Table 20.2: the commit record of a copy, with its CRC-32 over the body and bytes 0 to 11. -/
def commitRecord (body : List Byte) (seq code state set : Nat) : List Byte :=
  let r := leBytes 4 seq ++ leBytes 2 code ++ leBytes 1 state ++ leBytes 1 0 ++ leBytes 4 (set % 2 ^ 16)
  r ++ leBytes 4 (crc32 (body ++ r))

/-- R458: the sequence of a copy (a body and its commit record) that is valid. -/
def copySequence (body record : List Byte) : Option Nat :=
  if record.length = 16 && leNat (record.drop 12) = crc32 (body ++ record.take 12) then some (leNat (record.take 4)) else none

/-- R458: the copy that a boot takes: the valid one whose sequence lies ahead, or the only valid one; neither: none, and
the structure takes its defaults (R459). -/
def newestCopy : Option Nat → Option Nat → Option (Fin 2)
  | some a, some b => some (if ahead b a then 1 else 0)
  | some _, none => some 0
  | none, some _ => some 1
  | none, none => none

/-! ### Set slots -/

/-- Table 20.3: an address that a set slot holds: an RWB or CAL object. -/
def inSetSlot (a : Nat) : Bool :=
  match objRow a with
  | some r => r.kind = .rwb || r.kind = .cal
  | none => false

/-- Bytes of the values of a store that another store does not hold alike. -/
def storeBytesOver (other : Store) : Store → Nat
  | [] => 0
  | (a, v) :: r => storeBytesOver other r +
    if storeGet other a = v then 0 else match objRow a, v with
      | some o, .num _ => typeBytes o.ty
      | _, .bytes b => b.length
      | none, .num _ => 0

/-- R460: the bytes that bring one slot to the contents of another: values to write and values that return to their
default. -/
def slotBytes (want have_ : Store) : Nat := storeBytesOver have_ want + storeBytesOver want (storeKeep (fun a => (storeFind want a).isNone) have_)

/-- R460: bytes written into the set slots in one Phase D. -/
def slotShare : Nat := 32768

/-- R460: after a swap the proof base takes the new live set; whole, it is committed with state 1, the new set number and
the next sequence. Answers the bytes that this Phase D has left. -/
def Dev.slotLive (d : Dev) : Dev × Nat :=
  let live := storeKeep inSetSlot d.obj
  let left := slotBytes live d.nvm.base - d.nvm.slotDone
  if !d.seq.slotsDue then (d, slotShare)
  else if left ≤ slotShare then
    (({ d with
      nvm := { d.nvm with live := live, base := d.nvm.live, liveSet := d.swap.doneSet, liveSlot := 1 - d.nvm.liveSlot,
                          liveSeq := u32 (d.nvm.baseSeq + 1), baseSeq := d.nvm.liveSeq, level := false, slotDone := 0
                          bootCopy := false }
      seq := { d.seq with slotsDue := false } } : Dev).bump 0x310004, slotShare - left)
  else ({ d with nvm := { d.nvm with slotDone := d.nvm.slotDone + slotShare } }, 0)

/-- R460: bring the other slot level and commit it with state 0. After a boot the commit of the CAL values that wait is
that commit (Example 20.1). -/
def Dev.slotLevel (d : Dev) (budget : Nat) : Dev :=
  let left := slotBytes d.nvm.live d.nvm.base - d.nvm.slotDone
  if d.nvm.level || d.seq.slotsDue then d
  else if left ≤ budget then
    let w := { d with nvm := { d.nvm with base := d.nvm.live, level := true, slotDone := 0, bootCopy := false } }
    if d.nvm.bootCopy then
      if d.swap.calPending = [] then
        ({ w with nvm := { w.nvm with baseSeq := u32 (w.nvm.baseSeq + 1) } } : Dev).bump 0x310004
      else w
    else ({ w with nvm := { w.nvm with baseSeq := u32 (w.nvm.liveSeq + 1) } } : Dev).bump 0x310004
  else { d with nvm := { d.nvm with slotDone := d.nvm.slotDone + budget } }

/-- R383, R460: CAL values that wait for their ordered commit go into the proof base, once the slots are level. -/
def Dev.slotCal (d : Dev) : Dev :=
  if d.swap.calPending = [] || !d.nvm.level || d.seq.slotsDue then d
  else
    ({ d with
      nvm := { d.nvm with base := d.swap.calPending.foldl (fun s e => storeSet s e.1 e.2) d.nvm.base,
                          baseSeq := u32 (d.nvm.baseSeq + 1) }
      swap := { d.swap with calPending := [] } } : Dev).bump 0x310004

/-- R383, R460: the Phase D work on the set slots, at most 32 KiB of it in one Phase D. -/
def slotsEff (d : Dev) : Dev :=
  let (d, budget) := d.slotLive
  (d.slotLevel budget).slotCal

/-- R464: the device records are committed with the raised authentication counter. -/
def Dev.commitCounter (d : Dev) : Dev :=
  if d.jrn.counterDue = 0 then d
  else ({ d with jrn := { d.jrn with counterDue := 0 } } : Dev).bump 0x310004

/-! ### Firmware images -/

/-- R463: whether image B is the inactive one: while A runs, and in recovery unless B was the last boot choice. -/
def Dev.inactiveB (d : Dev) : Bool :=
  if d.nat 0x310101 = 0xFF then d.nvm.bootChoice ≠ 1 else d.nat 0x310101 = 0

/-- The inactive image. -/
def Dev.inactive (d : Dev) : Image := if d.inactiveB then d.nvm.imageB else d.nvm.imageA

/-- Set the inactive image and its state (0x3101:02, 0x3101:03). -/
def Dev.putInactive (d : Dev) (i : Image) (state : Nat) : Dev :=
  if d.inactiveB then
    (({ d with nvm := { d.nvm with imageB := i } } : Dev).put 0x310103 state).put 0x310105 i.version
  else (({ d with nvm := { d.nvm with imageA := i } } : Dev).put 0x310102 state).put 0x310104 i.version

/-- State of the inactive image. -/
def Dev.inactiveState (d : Dev) : Nat := if d.inactiveB then d.nat 0x310103 else d.nat 0x310102

/-- Table 20.4: the security version of an image; that of the factory image where none has been loaded. -/
def imageSecurity (i : Image) : Nat :=
  if i.loaded = 0 then Config.securityVersion Config.factoryImageVersion % 2 ^ 32 else leNat (cellsRead i.bytes 8 4)

/-- R461: an image is valid: magic, length within its area and loaded, signature, security version, and no row of its area
fenced. -/
def imageValid (i : Image) (rollback : Nat) (fenced : Bool) : Bool :=
  let body := leNat (cellsRead i.bytes 12 4)
  leNat (cellsRead i.bytes 0 4) = 0x49583732 && 128 + body ≤ 1048576 && 128 + body ≤ i.loaded
  && rollback ≤ imageSecurity i && !fenced && Config.imageSignatureHolds (cellsRead i.bytes 0 (128 + body))

/-- R463: the contiguous bytes loaded once some chunks (first byte, end) are there. -/
def contiguous (chunks : List (Nat × Nat)) (n : Nat) : Nat :=
  chunks.foldl (fun n _ => chunks.foldl (fun n c => if c.1 ≤ n then max n c.2 else n) n) n

/-- R463: a chunk of the new image: its bytes, the contiguous bytes loaded, and the image's state. -/
def imageChunkAct (offset : Nat) (data : List Byte) (d : Dev) : Dev :=
  let i := d.inactive
  let i := { i with
    bytes := cellsWrite i.bytes offset data
    loaded := contiguous ((offset, offset + data.length) :: i.beyond) i.loaded
    beyond := ((offset, offset + data.length) :: i.beyond).filter fun c =>
      contiguous ((offset, offset + data.length) :: i.beyond) i.loaded < c.1 }
  let i := { i with version := leNat (cellsRead i.bytes 4 4) }
  (d.putInactive i (if imageValid i (d.nat 0x31010A) d.nvm.fenced[if d.inactiveB then (1 : Fin 2) else 0] then 2 else 1)).put 0x310107 i.loaded

/-- 0x3101:08: erase the inactive image. -/
def imageEraseAct (d : Dev) : Dev := (d.putInactive {} 0).put 0x310107 0

/-- R463: name the inactive image as the trial for the next start-up. -/
def imageActivateAct (d : Dev) : Dev :=
  let b := d.inactiveB
  let d := d.putInactive d.inactive 3
  { d with nvm := { d.nvm with bootChoice := if b then 1 else 0 } }

/-- R463: the state error of an activation: the inactive image is not valid. -/
def imageActivateState (d : Dev) : Option Nat :=
  if d.inactiveState = 2 || d.inactiveState = 4 then none else some 0x08000022

/-- State object of the running image. -/
def Dev.runningStateAddr (d : Dev) : Nat := if d.nat 0x310101 = 1 then 0x310103 else 0x310102

/-- R463: a trial image that has run 60 s after its first armed batch is confirmed, and the rollback counter rises to
its security version. -/
def trialConfirmationEff (d : Dev) : Dev :=
  if d.nat d.runningStateAddr = 3 && d.power.armedOnce && d.power.armedAt + 60000000000 ≤ d.time.now then
    let i := if d.nat 0x310101 = 1 then d.nvm.imageB else d.nvm.imageA
    ((d.put d.runningStateAddr 4).put 0x31010A (max (d.nat 0x31010A) (imageSecurity i) : Nat)).bump 0x310004
  else d

/-! ### Keys and lifecycle -/

/-- Table 20.5: enter a lifecycle state, with its record. -/
def Dev.lifecycle (d : Dev) (n : Nat) : Dev := (d.put 0x310202 n).raise 0x1703 0 0xFFFF [(2, n)]

/-- R466, R467: store or replace the calibration key, by an ordered commit of the key area. -/
def calibrationKeyAct (key : List Byte) (d : Dev) : Dev :=
  let first := d.nat 0x310202 = 1
  let d := (({ d with nvm := { d.nvm with calKey := some key } } : Dev).putBit 0x310203 0 true).bump 0x310004
  if first then d.lifecycle 2 else d.raise 0x1704 0 0xFFFF [(2, Config.eventCause 0x1704 0)]

/-- R466: enable the debug port at the next start-up. -/
def debugUnlockAct (d : Dev) : Dev := ({ d with nvm := { d.nvm with debugNext := true } } : Dev).lifecycle 3

/-- R466: erase both keys; the device never arms again. -/
def decommissionAct (d : Dev) : Dev :=
  let d := { d with nvm := { d.nvm with calKey := none, signingKey := false, decommissioned := true } }
  ((d.put 0x310203 0).raise 0x1704 0 0xFFFF [(2, Config.eventCause 0x1704 1)]).lifecycle 4

/-- Table 20.5: the state error of a lifecycle write: its row names no event in the present state. -/
def lifecycleState (d : Dev) (allowed : List Nat) : Option Nat :=
  if allowed.contains (d.nat 0x310202) then none else some 0x08000022

/-- R464: store an accessor's tag. -/
def tagAct (acc : Accessor) (tag : List Byte) (d : Dev) : Dev :=
  d.setAccessor { d.accessor acc with tag := some (tag, d.time.now) }

/-- R465: the lockout ends after 10 min. -/
def lockoutEndEff (d : Dev) : Dev :=
  match d.lock.until_ with
  | some u => if u ≤ d.time.now then { d with lock := {} } else d
  | none => d

/-- Table 20.7: the store status word. -/
def Dev.storeStatus (d : Dev) : Nat :=
  let valid := fun a => d.nat a = 2 || d.nat a = 3 || d.nat a = 4
  (if valid 0x310102 && valid 0x310103 then 0
    else if d.nat 0x310102 = 1 || d.nat 0x310103 = 1 then 0 else 1)
  + (if d.nat d.runningStateAddr = 3 then 2 else 0) + (if d.bit 0x310001 2 then 4 else 0)
  + (if d.bit 0x310001 3 then 8 else 0) + (if d.nvm.level then 0 else 16)
  + (if d.lock.until_.isSome then 32 else 0)

/-! ### Meanings -/

/-- IMAGE_CHUNK (R463): a write to 0x3101:06; a chunk beyond the image's area is out of range. -/
def execImageChunk (acc : Accessor) (offset : Nat) (data : List Byte) (s : State) :
    Host.Outcome State Fault Refusal :=
  s.served s.dev.time.now fun d => d.writeObject acc 0x310106 (.bytes (leBytes 4 offset ++ data)) false
    (if offset % 2 ^ 32 + data.length > 1048576 then some 0x06090030 else none) (imageChunkAct (offset % 2 ^ 32) data)

/-- IMAGE_ERASE (R463): an authenticated write to 0x3101:08. -/
def execImageErase (acc : Accessor) (v : Int) (s : State) : Host.Outcome State Fault Refusal :=
  s.served s.dev.time.now fun d => d.writeObject acc 0x310108 (.num v) false none imageEraseAct

/-- IMAGE_ACTIVATE (R463): an authenticated write to 0x3101:09. -/
def execImageActivate (acc : Accessor) (v : Int) (s : State) : Host.Outcome State Fault Refusal :=
  s.served s.dev.time.now fun d =>
    d.writeObject acc 0x310109 (.num v) false (imageActivateState d) imageActivateAct

/-- TRIAL_CONFIRMATION (R463). -/
def execTrialConfirmation (t : Nat) (s : State) : Host.Outcome State Fault Refusal := s.logic t trialConfirmationEff

/-- AUTHENTICATION_TAG (R464): a write to 0x3103:01. -/
def execAuthenticationTag (acc : Accessor) (tag : List Byte) (t : Nat) (s : State) :
    Host.Outcome State Fault Refusal :=
  s.served t fun d => d.writeObject acc 0x310301 (.bytes tag) false none (tagAct acc tag)

/-- AUTHENTICATION_LOCKOUT_END (R465). -/
def execAuthenticationLockoutEnd (t : Nat) (s : State) : Host.Outcome State Fault Refusal := s.served t lockoutEndEff

/-- CALIBRATION_KEY_WRITE (R466, R467): a write to 0x3102:01. -/
def execCalibrationKeyWrite (acc : Accessor) (key : List Byte) (s : State) : Host.Outcome State Fault Refusal :=
  s.logicNow fun d => d.writeObject acc 0x310201 (.bytes key) false (lifecycleState d [1, 2]) (calibrationKeyAct key)

/-- DEBUG_UNLOCK (R466): an authenticated write to 0x3102:06. -/
def execDebugUnlock (acc : Accessor) (v : Int) (s : State) : Host.Outcome State Fault Refusal :=
  s.logicNow fun d => d.writeObject acc 0x310206 (.num v) false (lifecycleState d [2]) debugUnlockAct

/-- DECOMMISSION (R466): an authenticated write to 0x3102:07. -/
def execDecommission (acc : Accessor) (v : Int) (s : State) : Host.Outcome State Fault Refusal :=
  s.logicNow fun d => d.writeObject acc 0x310207 (.num v) false (lifecycleState d [2, 3]) decommissionAct

end Sys2Proof.Machine
end

