-- ==== Sys2Proof/Machine/Health.lean ====
section
/-! DEFINITION. Faults, spares, the housekeeping round, bands and throttling (chapter 18). -/

namespace Sys2Proof.Machine

/-! ### Memory spares -/

/-- R427: a fenced row of the tile slice withdraws its slot; any other takes the device out of service. -/
def Dev.fenceRow (d : Dev) (region : SramRegion) : Dev :=
  match region with
  | .tileSlot k => { d with tiles := { d.tiles with
      withdrawn := d.tiles.withdrawn ++ [k], slots := d.tiles.slots.filter fun x => x.index ≠ k } }
  | _ => { d with hlt := { d.hlt with outOfService := true, deviceFault := true, rowLost := true } }

/-- R426, R427: the Phase D work on one suspect row: a row that passes its test keeps its place; one that fails takes a
spare for good, or is fenced where its macro has none left. -/
def Dev.settleRow (d : Dev) (region : SramRegion) (m : Fin 16) (row : Nat) (pass : Bool) : Dev :=
  if pass then d
  else if d.nvm.sramSpares[m] > 0 then
    let sp := d.nvm.sramSpares.set m (d.nvm.sramSpares[m] - 1)
    let d := ({ d with nvm := { d.nvm with sramSpares := sp } } : Dev).fault 1 true row
    let d := (d.bump 0x2E0103).put 0x2E0104 (min (d.nat 0x2E0104) (d.nvm.sramSpares[m]) : Nat)
    d.raise 0x1405 0 m [(2, Config.eventCause 0x1405 0), (3, row)]
  else
    let d := (d.fault 1 true row).bump 0x2E0105
    let d := d.raise 0x1405 0 m [(2, Config.eventCause 0x1405 1), (3, row)]
    ({ d with nvm := { d.nvm with sramFenced := d.nvm.sramFenced ++ [region] } } : Dev).fenceRow region

/-- R426: settle every suspect row. -/
def settleRowsEff (d : Dev) : Dev :=
  let d' := d.hlt.suspects.foldl (fun d s => d.settleRow s.1 s.2.1 s.2.2.1 s.2.2.2) d
  { d' with hlt := { d'.hlt with suspects := [] } }

/-- Table 20.1: the MRAM area of a block of 128 KiB: 0 image A, 1 image B, 2 set area, 3 recorder, 4 journal, 5 other. -/
def mramArea (b : Nat) : Nat :=
  if b < 8 then 0 else if b < 16 then 1 else if b < 20 then 2 else if b < 28 then 3 else if b < 36 then 4 else 5

/-- R428: a word that fails its third write makes its row faulty: replaced by a spare of its block, or fenced. A fenced
row of an image makes the image invalid; one of an ordered commit leaves the other copy to serve. -/
def mramWriteFaultEff (d : Dev) (b : Fin 64) (row : Nat) : Dev :=
  let d := (d.fault 2 true row).add 0x2E0202 2
  if d.nvm.mramSpares[b] > 0 then
    let sp := d.nvm.mramSpares.set b (d.nvm.mramSpares[b] - 1)
    let d := { d with nvm := { d.nvm with mramSpares := sp } }
    let d := (d.bump 0x2E0203).put 0x2E0204 (min (d.nat 0x2E0204) (d.nvm.mramSpares[b]) : Nat)
    d.raise 0x1405 0 b [(2, Config.eventCause 0x1405 2), (3, row)]
  else
    let d := (d.bump 0x2E0205).raise 0x1405 0 b [(2, Config.eventCause 0x1405 3), (3, row)]
    match mramArea b with
    | 0 => ({ d with nvm := { d.nvm with imageA := { d.nvm.imageA with bytes := [], loaded := 0 }, fenced := d.nvm.fenced.set 0 true } } : Dev).put 0x310102 5
    | 1 => ({ d with nvm := { d.nvm with imageB := { d.nvm.imageB with bytes := [], loaded := 0 }, fenced := d.nvm.fenced.set 1 true } } : Dev).put 0x310103 5
    | 2 => { d with hlt := { d.hlt with commitDegraded := true } }
    | 4 =>
      -- the two checkpoint copies are the first 32 KiB of the journal area (Table 17.2)
      if b.val = 28 && row < 128 then { d with hlt := { d.hlt with commitDegraded := true } } else d
    | _ => d

/-! ### The housekeeping round -/

/-- R431: the sensors of Table 18.5 retired so far. -/
def Dev.sensorRetired (d : Dev) (k : Fin 11) : Bool := d.bit 0x2D010C k

/-- R431: take one sensor's reading: implausible outside −55 °C to 200 °C or more than 20 K from the last accepted one,
and then replaced by that; the tenth implausible round in a row retires the sensor. -/
def Dev.takeSensor (d : Dev) (k : Fin 11) (v : Int) : Dev :=
  let prev := d.hlt.sensors[k]
  let far := match prev with
    | some p => decide (200 < (v - p).natAbs)
    | none => false
  if v < -550 || 2000 < v || far then
    let n := d.hlt.implausible[k] + 1
    let d := { d with hlt := { d.hlt with implausible := d.hlt.implausible.set k n } }
    if n = 10 && !d.sensorRetired k then
      ((d.fault 19 true k).putBit 0x2D010C k true).raise 0x1505 0 k [(3, v)]
    else d.fault 19 false k
  else
    { d with hlt := { d.hlt with
      sensors := d.hlt.sensors.set k (some v), implausible := d.hlt.implausible.set k 0 } }

/-- The highest accepted reading of the working sensors of a list, or of a fallback where none works. -/
def Dev.highest (d : Dev) (ks : List (Fin 11)) (fallback : Int) : Int :=
  (ks.filterMap fun k => if d.sensorRetired k then none else d.hlt.sensors[k]).foldl
    (fun best v => match best with | none => some v | some b => some (max b v)) (none : Option Int) |>.getD fallback

/-- R431: the sensors of the logic die and of the power die. -/
def logicSensors : List (Fin 11) := [0, 1, 2, 3]

/-- The sensors P0 to P5. -/
def powerSensors : List (Fin 11) := [4, 5, 6, 7, 8, 9]

/-- Table 18.5: the reading that stands for a sensor: its own, or its substitute's when it is retired. -/
def Dev.sensorValue (d : Dev) (k : Fin 11) : Int :=
  if d.sensorRetired k then
    if k.val < 4 then d.highest (logicSensors.filter (· ≠ k)) (d.int 0x2D0001)
    else if k.val < 10 then d.highest (powerSensors.filter (· ≠ k)) (d.int 0x2D0002)
    else d.highest logicSensors (d.int 0x2D0001) + 50
  else (d.hlt.sensors[k]).getD 0

/-- R433: the band of a reading, with 3 K of hysteresis on the way down. -/
def nextBand (cur : Nat) (v : Int) : Nat :=
  let up := if v ≥ 1000 then 3 else if v ≥ 700 then 2 else if v ≥ 0 then 1 else 0
  let down := if v > 970 then 3 else if v > 670 then 2 else if v > -30 then 1 else 0
  if up > cur then up else min cur down

/-- Table 18.5: the sensors of the seven bands: L0, M0, P5, P0 to P3. -/
def bandSensor (k : Fin 7) : Fin 11 := #v[0, 10, 9, 4, 5, 6, 7][k]

/-- R434: a die is at or above its request level less `k` (0.1 K). -/
def Dev.dieAt (d : Dev) (k : Int) : Bool :=
  d.int 0x2D0402 - k ≤ d.int 0x2D0001 || d.int 0x2D0403 - k ≤ d.int 0x2D0002

/-- R434: both dies lie more than 10 K below their request levels. -/
def Dev.belowRelease (d : Dev) : Bool :=
  d.int 0x2D0001 < d.int 0x2D0402 - 100 && d.int 0x2D0002 < d.int 0x2D0403 - 100

/-- R436: the logic-die shutdown begins: its record is written to the sealed area at once, and core 1 stops refreshing
its permission. -/
def Dev.beginShutdown (d : Dev) : Dev :=
  let d := d.writeNow 0x1503 0xFFFF [(3, d.int 0x2D0001)]
  { d with hlt := { d.hlt with throttle := 3 }
           nvm := { d.nvm with shutdownRecorded := true }
           power := { d.power with shutdownBegun := true, stoppedAt := some d.time.now } }

/-- R434: the throttle state at a round's readings. -/
def Dev.throttleRound (d : Dev) : Dev :=
  if d.power.shutdownBegun then d
  else if d.int 0x2D0406 ≤ d.int 0x2D0001 then d.beginShutdown
  else if d.hlt.throttle = 0 then
    if d.dieAt 0 then
      ({ d with hlt := { d.hlt with throttle := 1, requestedAt := d.time.now } } : Dev).raise 0x1501 1 0xFFFF
        [(3, max (d.int 0x2D0001) (d.int 0x2D0002))]
    else d
  else if d.hlt.throttle = 2 then
    { d with hlt := { d.hlt with belowSince :=
      if !d.belowRelease then none else if d.hlt.belowSince.isSome then d.hlt.belowSince else some d.time.now } }
  else d

/-- R431, R432: the next housekeeping round is due at a time: 10 ms after the last one. -/
def Dev.roundDueAt (d : Dev) (now : Nat) : Bool :=
  match d.hlt.roundAt with
  | some r => r + 10000000 ≤ now
  | none => true

/-- R431 to R434: one housekeeping round. -/
def housekeepingEff (d : Dev) (hk : Housekeeping) : Dev :=
  if !d.roundDueAt d.time.now then d
  else
  let d := { d with hlt := { d.hlt with roundAt := some d.time.now } }
  let d := (List.finRange 11).foldl (fun d k => d.takeSensor k hk.sensors[k]) d
  let d := (List.finRange 11).foldl (fun d k => d.put (0x2D0101 + k) (d.sensorValue k)) d
  let d := ((d.put 0x2D0001 (d.highest logicSensors (d.int 0x2D0001))).put 0x2D0002
    (d.highest powerSensors (d.int 0x2D0002))).put 0x2D0003 (d.sensorValue 10)
  let d := ((((d.put 0x2D0201 hk.vin).put 0x2D0202 hk.core).put 0x2D0203 hk.mram).put 0x2D0204 hk.reference).put
    0x2D0205 hk.vpd5
  let d := d.put 0x2D0606 (min (d.nat 0x2D0606) hk.vin : Nat)
  let bands := Vector.ofFn fun k => nextBand d.hlt.bandsNext[k] (d.sensorValue (bandSensor k))
  let d := { d with hlt := { d.hlt with bandsNext := bands, lateRound := d.hlt.lateRound || hk.late } }
  let d := d.bump 0x2D0501
  (if hk.late then d.bump 0x2D0502 else d).throttleRound

/-- Table 18.7: the grace time ends: enforce from the next boundary while a die is at or above its request level − 5 K,
else withdraw the request. -/
def graceEndEff (d : Dev) : Dev :=
  if d.hlt.throttle = 1 && d.hlt.requestedAt + 5000000000 ≤ d.time.now then
    if d.dieAt 50 then
      (({ d with hlt := { d.hlt with throttle := 2, enforceNext := true, belowSince := none } } : Dev).bump
        0x2D0409).raise 0x1502 1 0xFFFF [(3, max (d.int 0x2D0001) (d.int 0x2D0002))]
    else ({ d with hlt := { d.hlt with throttle := 0 } } : Dev).raise 0x1501 2 0xFFFF
      [(3, max (d.int 0x2D0001) (d.int 0x2D0002))]
  else d

/-- Table 18.7: both dies have been below release for 30 s: enforcement ends at the next boundary. -/
def throttleReleaseEff (d : Dev) : Dev :=
  match d.hlt.throttle, d.hlt.belowSince with
  | 2, some b =>
    if b + 30000000000 ≤ d.time.now then
      let items := [(3, max (d.int 0x2D0001) (d.int 0x2D0002))]
      (({ d with hlt := { d.hlt with throttle := 0, enforceNext := false, belowSince := none } } : Dev).raise
        0x1502 2 0xFFFF items).raise 0x1501 2 0xFFFF items
    else d
  | _, _ => d

/-- Table 18.12: the health status word, but for the replace-me bit. -/
def Dev.healthStatus (d : Dev) : Nat :=
  (if d.nat 0x2E0103 + d.nat 0x2E0203 = 0 then 0 else 2) + (if d.nat 0x2E0105 + d.nat 0x2E0205 = 0 then 0 else 4)
  + (if d.hlt.deviceFault || d.nvm.heldUnarmed then 8 else 0) + (if d.nvm.heldUnarmed then 16 else 0)
  + (if d.nat 0x2D010C = 0 then 0 else 32) + (if d.hlt.lateRound then 64 else 0)
  + (if d.hlt.commitDegraded then 128 else 0)

/-! ### Meanings -/

/-- MRAM_WRITE_FAULT (R428). -/
def execMramWriteFault (block : Fin 64) (row t : Nat) (s : State) : Host.Outcome State Fault Refusal :=
  s.logic t fun d => mramWriteFaultEff d block row

/-- HOUSEKEEPING_ROUND (R431 to R434). -/
def execHousekeepingRound (hk : Housekeeping) (t : Nat) (s : State) : Host.Outcome State Fault Refusal :=
  s.logic t fun d => housekeepingEff d hk

/-- THROTTLE_GRACE_END (R434). -/
def execThrottleGraceEnd (t : Nat) (s : State) : Host.Outcome State Fault Refusal := s.logic t graceEndEff

/-- THROTTLE_RELEASE (R434). -/
def execThrottleRelease (t : Nat) (s : State) : Host.Outcome State Fault Refusal := s.logic t throttleReleaseEff

end Sys2Proof.Machine
end

