-- ==== Sys2Proof/Machine/Checks.lean ====
section
/-! DEFINITION. The swap check (R382): the checks that relate one proof value to another, made before a device reports
ready. Each answers the address of the first object that fails. -/

namespace Sys2Proof.Machine

/-- The first failure of a list of checks. -/
def firstFail : List (Option Nat) → Option Nat
  | [] => none
  | some a :: _ => some a
  | none :: r => firstFail r

/-- Fail at an address unless a condition holds. -/
def require (ok : Bool) (a : Nat) : Option Nat := if ok then none else some a

/-- The latest proof value of a DOMAIN object. -/
def Dev.proofBytesOf (d : Dev) (a : Nat) : List Byte :=
  valBytes (d.proofVal a)

/-- The little-endian U16 at an offset. -/
def le16 (b : List Byte) (k : Nat) : Nat := leNat ((b.drop k).take 2)

/-- The little-endian U32 at an offset. -/
def le32 (b : List Byte) (k : Nat) : Nat := leNat ((b.drop k).take 4)

/-- R357: a controller's bit timing. -/
def Dev.canCheck (d : Dev) (i : Nat) : Option Nat :=
  let p := fun s => (d.proofInt (adr i s)).toNat
  let tq := 1 + p 3 + p 4
  let nom := p 2 * tq
  let sample := fun (a b : Nat) => 70 * (1 + a + b) ≤ 100 * (1 + a) && 100 * (1 + a) ≤ 90 * (1 + a + b)
  firstFail [
    require (i ≠ 0x2C01 || nom = 320) (adr i 2),
    require (80 ≤ nom) (adr i 2),
    require (sample (p 3) (p 4)) (adr i 3),
    require (i = 0x2C01 || 16 ≤ p 7 * (1 + p 8 + p 9)) (adr i 7),
    require (i = 0x2C01 || sample (p 8) (p 9)) (adr i 8)]

/-- R372: total bits of a mapping, and whether every mapped object is RW. -/
def mappingBits : List Byte → Nat
  | _ :: _ :: _ :: l :: r => l.toNat + mappingBits r
  | _ => 0

/-- R372: every entry of a mapping names an RW object. -/
def mappingRw : List Byte → Bool
  | i0 :: i1 :: s :: _ :: r =>
    (objRow (adr (i0.toNat + 256 * i1.toNat) s.toNat)).any (fun r => r.kind = .rw) && mappingRw r
  | _ => true

/-- R372: one PDO's mapping. -/
def Dev.pdoCheck (d : Dev) (i : Nat) : Option Nat :=
  let fd := d.proofInt (adr i 5) ≠ 0
  let m := d.proofBytesOf (adr i 6)
  firstFail [
    require (mappingBits m ≤ (if fd then 512 else 64)) (adr i 6),
    require (!fd || d.proofInt 0x2C0206 ≠ 0) (adr i 5),
    require (i < 0x2C48 || mappingRw m) (adr i 6)]

/-- R113: duties strictly rising, flows not falling. -/
def curveRises (b : List Byte) : Bool :=
  (List.range 8).all fun k => le16 b (4 + 4 * k) < le16 b (8 + 4 * k) && le16 b (6 + 4 * k) ≤ le16 b (10 + 4 * k)

/-- R113: one flow curve, with its reference pressure and duties in range. -/
def Dev.curveCheck (d : Dev) (k : Nat) : Option Nat :=
  let b := d.proofBytesOf (adr (0x2120 + k) 0)
  require (curveRises b && 50 ≤ le32 b 0 && le32 b 0 ≤ 2000 && le16 b 36 ≤ 10000) (adr (0x2120 + k) 0)

/-- R357, R372, R113: the checks of CAN, PDOs and flow curves. -/
def Dev.checksA (d : Dev) : Option Nat :=
  firstFail ([d.canCheck 0x2C01, d.canCheck 0x2C02] ++ (List.range 4).map (fun k => d.pdoCheck (0x2C40 + k))
    ++ (List.range 4).map (fun k => d.pdoCheck (0x2C48 + k)) ++ (List.range 8).map d.curveCheck)

/-- The natural number of an object in the proof set. -/
def Dev.proofNat (d : Dev) (a : Nat) : Nat := (d.proofInt a).toNat

/-- R63: the outlets that are used in the proof set. -/
def Dev.proofUsed (d : Dev) : List Nat := (List.range 32).filter fun n => d.proofInt (adr (0x3000 + n) 1) ≠ 0

/-- R66: whether a segment hangs on the body, by the parents in a table. -/
def reachesBody (parent : Nat → Nat) : Nat → Nat → Bool
  | 0, _ => false
  | f + 1, s => parent s = 0xFF || (parent s < 16 && reachesBody parent f (parent s))

/-- R65: the segment of an outlet exists in the lead's boom model as it will be after the swap: on a wheeler, the model that
the announcement carries (log entry 104). -/
def Dev.segmentExists (d : Dev) (s : Nat) : Bool :=
  let model := (d.swap.announced.map fun a => a.model).getD d.pose.boom.parents
  let parent := fun (k : Nat) =>
    if d.isLead then d.proofNat (adr (0x2020 + k) 1) else if h : k < 16 then model[k] else 0xFF
  s < 16 && reachesBody parent 16 s

/-- R64, R65: the profile of a nozzle: weights that sum to at least 1, and the ranges of Table 3.1. -/
def profileHolds (b : List Byte) : Bool :=
  (b.drop 8).any (fun w => w ≠ 0) && 100 ≤ le32 b 0 && le32 b 0 ≤ 3000 && 50 ≤ le32 b 4 && le32 b 4 ≤ 4000

/-- R65: one used outlet, and the used outlets before it. -/
def Dev.geometryCheck (d : Dev) (n : Nat) : Option Nat :=
  let a := adr (0x3000 + n)
  let x := d.proofInt (a 2)
  let y := d.proofInt (a 3)
  firstFail [
    require (d.proofInt (a 1) ≠ 1 || profileHolds (d.proofBytesOf (adr 0x2010 (1 + d.proofNat (a 7))))) (a 7),
    require (d.segmentExists (d.proofNat (a 4))) (a 4),
    require (!d.proofUsed.any fun m => m < n && d.proofInt (adr (0x3000 + m) 2) = x && d.proofInt (adr (0x3000 + m) 3) = y) (a 2),
    require (x.natAbs ≤ 40000) (a 2), require (y.natAbs ≤ 40000) (a 3)]

/-- R98, R99: the horizon of a used outlet stays within 500 ms, with the period that the set carries (µs). -/
def Dev.horizonCheck (d : Dev) (period n : Nat) : Option Nat :=
  let p := fun s => d.proofNat (adr (0x3000 + n) s)
  let margin := max (d.proofNat 0x210003) (period + period * 7 / 10 + 20)
  require (max (p 8 + p 0x1F) (p 9 + p 0x21) + margin ≤ 500000) (adr (0x3000 + n) 8)

/-- R70: a fold input has function 3. -/
def Dev.foldCheck (d : Dev) (s : Nat) : Option Nat :=
  let k := d.proofNat (adr (0x2020 + s) 0x0C)
  require (k = 0xFF || d.proofInt (adr 0x2050 (1 + k)) = 3) (adr (0x2020 + s) 0x0C)

/-- Tables 4.8, 8.14: the bounds of an outlet that relate two of its objects, the peak time limit of a channel on a boost
bank (R203), and nozzle PWM mode for nozzles alone (R193). -/
def Dev.boundsCheck (d : Dev) (n : Nat) : Option Nat :=
  let a := adr (0x3000 + n)
  let p := fun s => d.proofInt (a s)
  firstFail [
    require (p 0x1E ≤ p 0x1F) (a 0x1F), require (p 0x20 ≤ p 0x21) (a 0x21), require (p 0x31 ≤ p 0x30) (a 0x31),
    require (d.proofInt (adr (0x2501 + n / 8) 1) ≠ 1 || p 0x32 ≤ 10000) (a 0x32),
    require (p 1 ≠ 2 || p 0x35 = 0) (a 0x35)]

/-- R116: no outlet lies in two loops. -/
def Dev.loopCheck (d : Dev) (k : Nat) : Option Nat :=
  let m := fun j => d.proofNat (adr (0x2130 + j) 3)
  require ((List.range k).all fun j => m j &&& m k = 0) (adr (0x2130 + k) 3)

/-- R130: a tile of the session is dirty here. -/
def Dev.dirtyTiles (d : Dev) : Bool := d.tiles.slots.any fun x => x.role ≠ 3 && (x.state = 3 || x.dirtyRows ≠ [])

/-- R130: the swap check of a change of cell size or session. -/
def Dev.sessionCheck (d : Dev) : Option Nat :=
  let moves := fun a => d.proofInt a ≠ d.int a
  if !d.dirtyTiles || (if d.isLead then d.nat 0x22000A = 1 else d.pose.boom.noPaging) then none
  else if moves 0x220001 then some 0x220001 else if moves 0x220002 then some 0x220002 else none

/-- R245: the dead-time bounds of a pair. -/
def Dev.deadTimeCheck (d : Dev) (p : Nat) : Option Nat :=
  require (d.proofInt (adr (0x2710 + p) 4) ≤ d.proofInt (adr (0x2710 + p) 5)) (adr (0x2710 + p) 4)

/-- R250, Table 10.6: a stepper slot: its pairs' modes, its axis and its phase. -/
def Dev.stepperCheck (d : Dev) (k : Nat) : Option Nat :=
  let a := adr (0x2720 + k)
  let axis := d.proofInt (a 1)
  firstFail [
    require (axis = 0xFF || (List.range 4).all fun j => d.proofInt (adr (0x2710 + 4 * k + j) 1) = 2) (a 1),
    require (axis = 0xFF || (List.range k).all fun j => d.proofInt (adr (0x2720 + j) 1) ≠ axis) (a 1),
    require (d.proofInt (a 6) < d.proofInt (a 5)) (a 6)]

/-- R258, R259: an axis: its speed, its outlet's type, and the one axis of mode 3. -/
def Dev.axisCheck (d : Dev) (n : Nat) : Option Nat :=
  let mode := fun k => d.proofInt (adr (0x2810 + k) 1)
  let meter := decide (d.proofInt (adr (0x3000 + n) 1) = 3)
  firstFail [
    require (d.proofInt (adr (0x2810 + n) 0x0A) ≤ 10240000) (adr (0x2810 + n) 0x0A),
    require ((mode n = 1) = meter) (adr (0x2810 + n) 1),
    require (mode n ≠ 3 || ((List.range n).all fun k => mode k ≠ 3)) (adr (0x2810 + n) 1),
    require (mode n ≠ 3 || d.proofInt 0x280004 = n) (adr (0x2810 + n) 1)]

/-- What the aggregator last read of an object of another device. -/
def Dev.unitRead (d : Dev) (p a : Nat) : Option Nat := (d.dic.units.find? fun u => u.1 = (p, a)).map fun u => u.2.toNat

/-- R303: the named standby is present, cabled directly to a port of the lead, and has its GNSS enabled. -/
def Dev.standbyCheck (d : Dev) : Option Nat :=
  let p := d.proofNat 0x2A0008
  let far := d.ch.table.foldl (fun m n => max m n.hops) 0
  let direct := d.ch.table.any fun n =>
    n.kind = 0 && n.position = p && (n.hops = 1 || (d.ch.ring && !d.ch.reversed && n.hops = far))
  require (!d.isLead || p = 0xFF || p = d.nat 0x2A0008
    || (d.seq.map.testBit p && direct && d.unitRead p 0x2B0001 = some 1)) 0x2A0008

/-- R103, R197, R232, Table 14.9: single relations. -/
def Dev.relationsCheck (d : Dev) : Option Nat :=
  let boosted := (List.range 4).any fun b => d.proofInt (adr (0x2501 + b) 1) = 1
  firstFail [
    require (d.proofInt 0x210006 < d.proofInt 0x210005) 0x210006,
    require (!boosted || d.proofInt 0x250801 ≠ 0) 0x250801,
    require (d.proofNat 0x260007 = d.lsw.mapping || d.lsw.writes < 10000) 0x260007,
    require (d.proofInt 0x2B010E ≤ d.proofInt 0x2B010F) 0x2B010F]

/-- R382: the whole swap check, for a set that carries this batch period (µs). -/
def Dev.checkWith (d : Dev) (period : Nat) : Option Nat :=
  firstFail (d.proofUsed.map d.geometryCheck ++ d.proofUsed.map (d.horizonCheck period)
    ++ (List.range 16).map d.foldCheck ++ (List.range 32).map d.boundsCheck ++ (List.range 4).map d.loopCheck
    ++ [d.relationsCheck, d.sessionCheck] ++ (List.range 16).map d.deadTimeCheck ++ (List.range 4).map d.stepperCheck
    ++ (List.range 32).map d.axisCheck ++ [d.standbyCheck, d.checksA])

/-- R44, R435: the period in force after a set formed now: the configured one, or while a position enforces its double. -/
def Dev.nextPeriod (d : Dev) : Nat :=
  let cfg := (d.proofInt 0x180001).toNat
  if d.hlt.periodDoubled then min 4000 (2 * cfg) else cfg

/-- The period that the announced set puts in force; without one, that of a set formed now. -/
def Dev.setPeriod (d : Dev) : Nat := (d.swap.announced.map fun a => a.period).getD d.nextPeriod

/-- R382: the whole swap check. -/
def Dev.swapCheck (d : Dev) : Option Nat := d.checkWith d.setPeriod

end Sys2Proof.Machine
end

