-- ==== Sys2Proof/Machine/Swap.lean ====
section
/-! DEFINITION. Setting swaps (R44, R50 to R55, R491): naming, announcement, readiness, go, postponement, cancel, and the
swap itself. -/

namespace Sys2Proof.Machine

/-- Table 2.6, 0x1810:04: set the swap state. -/
def Dev.swapState (d : Dev) (k : Nat) : Dev := d.put 0x181004 k

/-- R52, R53: the device is ready: it holds the announcement, its writes reach the announced count, every CAL value is
committed, the slots are level and the swap check passes. -/
def Dev.swapReady (d : Dev) : Bool :=
  match d.swap.announced with
  | none => false
  | some a =>
    a.count ≤ d.swap.writes.length && d.swap.calPending = [] && d.nvm.level && !d.seq.slotsDue && d.swapCheck.isNone

/-- R65, R382: a proof set that fails the swap check raises geometry inconsistent, once while it fails. -/
def Dev.checkEvent (d : Dev) : Dev :=
  match d.swapCheck with
  | some a => if d.diag.dtcs.any (fun x => x.code = 0x0201 && x.active) then d else d.raise 0x0201 1 0xFFFF [(7, a)]
  | none => if d.diag.dtcs.any (fun x => x.code = 0x0201 && x.active) then d.raise 0x0201 2 0xFFFF [(7, 0)] else d

/-- R53: the lead takes a position's report. -/
def Dev.takeReport (d : Dev) (p : Fin 32) (ready : Bool) : Dev :=
  match d.swap.set with
  | none => d
  | some w => { d with swap := { d.swap with set := some { w with reports := w.reports.set p (some ready) } } }

/-- R138, R159: how far the device's used outlets reach after the swap. -/
def Dev.ownSpan (d : Dev) : Option DeviceSpan :=
  let p := fun (n : Nat) (s : Nat) => d.proofInt (adr (0x3000 + n) s)
  ((List.range 32).filter fun n => p n 1 ≠ 0).foldl (fun (m : Option DeviceSpan) n =>
    let lo := p n 3 - p n 6 / 2
    let hi := p n 3 + p n 6 / 2
    match m with
    | none => some ⟨lo, hi, p n 3, p n 3, p n 2⟩
    | some x => some ⟨min x.low lo, max x.high hi, min x.right (p n 3), max x.left (p n 3), min x.rear (p n 2)⟩) none

/-- R53, R415: in S − 2 the device reports ready or not ready; with its first ready report for a set it writes a ready
mark. -/
def Dev.report (d : Dev) : Dev :=
  match d.swap.announced with
  | none => d
  | some a =>
    if u32 (d.seq.number + 2) ≠ a.batch || d.swap.ready then d
    else
      let d := d.checkEvent
      let ok := d.swapReady
      let d := if ok then
          let d := (({ d with swap := { d.swap with ready := true } } : Dev).swapState 2)
          if d.swap.marked = some a.number then d
          else ({ d with swap := { d.swap with marked := some a.number } } : Dev).journal (d.entry 14 0x15 0 1 false (.ready a.number))
        else d
      let span := d.ownSpan
      if d.isLead then
        ({ d with pose := { d.pose with spansNext := d.pose.spansNext.set d.pos32 span } } : Dev).takeReport d.pos32 ok
      else d.send (.readyReport ok span)

/-- The device holds an announcement no longer: what it counted waits for the next set. -/
def Dev.dropAnnouncement (d : Dev) (state : Nat) : Dev :=
  (({ d with swap := { d.swap with announced := none, ready := false, go := none } } : Dev).put 0x181002 0xFFFFFFFF).swapState
    state

/-- R53: the device takes a postponement of the set of batch `s` to `s'`: its readiness ends, and its announcement moves. -/
def Dev.takePostponement (d : Dev) (s s' : Nat) : Dev :=
  match d.swap.announced with
  | none => d
  | some a =>
    if a.batch ≠ s then d
    else
      let d := { d with swap := { d.swap with announced := some { a with batch := s' }, ready := false, go := none } }
      ((d.put 0x181002 s').swapState 4).bump 0x181007

/-- R53, R491: take an announcement: the set held already, a later batch of it, which postpones it, or a new set. -/
def Dev.takeAnnouncement (d : Dev) (a : Announcement) : Dev :=
  match d.swap.announced with
  | some b =>
    if b = a then d
    else if b.number = a.number then d.takePostponement b.batch a.batch
    else (({ d with swap := { d.swap with announced := some a, ready := false, go := none, cancelled := none } } : Dev).put 0x181002
      a.batch |>.put 0x181003 a.number).swapState 1
  | none =>
    if d.swap.cancelled = some a.batch && d.int 0x181003 = a.number then d
    else (({ d with swap := { d.swap with announced := some a, ready := false, go := none, cancelled := none } } : Dev).put 0x181002
      a.batch |>.put 0x181003 a.number).swapState 1

/-- R44, R52: the first batch at or after `s` whose boundary is a chain-time multiple of a new period (µs), as the
present period brings the boundaries on. -/
def Dev.alignBatch (d : Dev) (period : Nat) : Nat → Nat → Nat
  | 0, s => s
  | f + 1, s =>
    let t := d.seq.t0 + u32 (s + 2 ^ 32 - d.seq.number % 2 ^ 32) * d.periodNs
    if t % (1000 * period) = 0 then s else d.alignBatch period f (u32 (s + 1))

/-- R44: a swap batch, moved later where the set changes the period. -/
def Dev.fitBatch (d : Dev) (period s : Nat) : Nat := if period = d.nat 0x180002 then s else d.alignBatch period 16 s

/-- R52: the swap batch of the next set: the named one, or the first write's batch plus 3, moved later under R44. One that
is less than 2 batches ahead when the set is formed becomes the earliest batch that the handshake can serve, this one plus 2;
a named one, by the default rule, this one plus 3 (log entry 104). -/
def Dev.chooseBatch (d : Dev) (first : Nat) : Nat :=
  d.fitBatch d.nextPeriod (match d.swap.named with
    | some n => if ahead n (u32 (d.seq.number + 1)) then n else u32 (d.seq.number + 3)
    | none => let b := u32 (first + 3); if ahead b (u32 (d.seq.number + 1)) then b else u32 (d.seq.number + 2))

/-- R53: broadcast the announcement of the set, and take it as a device. -/
def Dev.announce (d : Dev) : Dev :=
  match d.swap.set with
  | none => d
  | some w =>
    let model : Vector Nat 16 := Vector.ofFn fun s => d.proofNat (adr (0x2020 + s.val) 1)
    (d.send (.swapAnnouncement w.batch w.number w.counts w.period model)).takeAnnouncement
      ⟨w.batch, w.number, w.counts[d.pos32], w.period, model⟩

/-- R52: open a set of every write that is pending, for a batch. -/
def Dev.openSet (d : Dev) (batch : Nat) : Dev :=
  let w : SwapSet := ⟨batch, d.swap.nextNumber, d.nextPeriod, d.swap.counts, Vector.replicate 32 none, 0, false⟩
  { d with swap := { d.swap with
    set := some w, counts := Vector.replicate 32 0, first := none, nextNumber := u16 (d.swap.nextNumber + 1) } }

/-- R52: the lead forms the next set once writes, or a period change of R435, are pending and no set is open. -/
def Dev.formSet (d : Dev) : Dev :=
  match d.swap.set, d.swap.first with
  | none, some f =>
    let d := d.openSet (d.chooseBatch f)
    { d with swap := { d.swap with named := none } }
  | _, _ => d

/-- R53: every present position has reported ready. -/
def Dev.allReady (d : Dev) (w : SwapSet) : Bool :=
  (List.finRange 32).all fun p => !d.seq.map.testBit p || w.reports[p] = some true

/-- The device takes a go for a batch. -/
def Dev.takeGo (d : Dev) (s : Nat) : Dev :=
  ({ d with swap := { d.swap with go := some s } } : Dev).swapState 3

/-- The device takes a cancel for a batch: it does not swap there. -/
def Dev.takeCancel (d : Dev) (s : Nat) : Dev :=
  match d.swap.announced with
  | none => d
  | some a =>
    if a.batch ≠ s then d
    else (({ d with swap := { d.swap with cancelled := some s } } : Dev).dropAnnouncement 5).bump 0x181007

/-- The writes of a set that is closed without a swap are pending again. -/
def Dev.reopenWrites (d : Dev) (w : SwapSet) : Dev :=
  { d with swap := { d.swap with set := none, counts := Vector.ofFn fun p => d.swap.counts[p] + w.counts[p] } }

/-- R52, R53: the lead cancels its set and schedules the writes, with those accepted since, at once by the default rule from
this batch; a named batch stands for the set after that (log entry 104). -/
def Dev.cancelSet (d : Dev) : Dev :=
  match d.swap.set with
  | none => d
  | some w =>
    let d := ((d.send (.swapCancel w.batch)).takeCancel w.batch).reopenWrites w
    d.openSet (d.fitBatch d.nextPeriod (u32 (d.seq.number + 3)))

/-- R54: the lead postpones its set, with as many frames as the handshake asks for, or abandons it after 3 postponements,
keeping the writes for the next swap. -/
def Dev.postpone (d : Dev) (w : SwapSet) (s' frames : Nat) : Dev :=
  if w.postponements ≥ 3 then
    ((d.reopenWrites w).dropAnnouncement 6).raise 0x0105 0 0xFFFF [(10, w.number)]
  else
    let d := (List.range frames).foldl (fun d _ => d.send (.swapPostpone w.batch s')) d
    let d := d.takePostponement w.batch s'
    { d with swap := { d.swap with set := some { w with
      batch := s', postponements := w.postponements + 1, reports := Vector.replicate 32 none, goSent := false } } }

/-- R53: in Phase A of S − 1 the lead sends go in 3 frames when every present device is ready, else a postponement to
(S − 1) + 3, moved later under R44, in 3 frames. -/
def Dev.evaluate (d : Dev) : Dev :=
  match d.swap.set with
  | none => d
  | some w =>
    if u32 (d.seq.number + 1) ≠ w.batch || w.goSent then d
    else if d.allReady w then
      let d := { d with swap := { d.swap with set := some { w with goSent := true } } }
      (((d.send (.swapGo w.batch)).send (.swapGo w.batch)).send (.swapGo w.batch)).takeGo w.batch
    else d.postpone w (d.fitBatch w.period (u32 (d.seq.number + 3))) 3

/-- R491: S − 1 ended with no go sent: the lead counts the set as postponed, and announces it for the batch of the default
rule, moved later under R44. -/
def Dev.lateSet (d : Dev) : Dev :=
  match d.swap.set with
  | none => d
  | some w =>
    if w.batch = d.seq.number && !w.goSent then d.postpone w (d.fitBatch w.period (u32 (d.seq.number + 3))) 0 else d

/-- R53, R491: the batch of the announced set has come with no go for it: the device waits for its next announcement. -/
def Dev.passSet (d : Dev) : Dev :=
  match d.swap.announced with
  | none => d
  | some a => if a.batch = d.seq.number && !d.isLead then d.dropAnnouncement 0 else d

/-- R53: a device fault withdraws the readiness of the device: the lead's report falls, and where go is out before the end of
Phase C of S − 1 the lead cancels. -/
def Dev.notReady (d : Dev) (p : Fin 32) : Dev :=
  let d := d.takeReport p false
  match d.swap.set with
  | none => d
  | some w => if w.goSent && w.batch = u32 (d.seq.number + 1) && d.seq.phase ≠ 3 then d.cancelSet else d

/-- R53: a device fault of this device while it is ready. -/
def Dev.withdrawReady (d : Dev) : Dev :=
  if !d.swap.ready then d
  else
    let d := { d with swap := { d.swap with ready := false } }
    if d.isLead then d.notReady d.pos32 else d.send (.readyReport false d.ownSpan)

/-- R51, R54, R435: the swap at the boundary of S: the writes of the set become live in one step, the next set starts
from those after them, and the period in force is the set's. `effects` is what the swapped values start at once (R96, R197,
R361 and the like). -/
def Dev.swapNow (d : Dev) (effects : Store → Dev → Dev) : Dev :=
  let carried := d.setWrites.foldl (fun s w => storePut s w.1 w.2) d.swap.adopted
  let reset := fun a => a / 65536 = 0x30 && a % 256 = 0x25
  let k := (d.swap.announced.map fun a => a.number).getD d.swap.doneSet
  let n := d.setWrites.length
  let p := d.setPeriod
  let d := { d with obj := storeMerge d.obj (storeKeep (fun a => !reset a) carried) }
  let drop := (d.jrn.openEntries.filter fun e => e.kind = 1).take n
  let d := d.closeEntries fun e => e.kind = 1 && drop.any (· = e)
  let d := { d with
    swap := { d.swap with
      writes := d.swap.writes.drop n, adopted := [], ready := false
      go := none, announced := none, cancelled := none, set := none, doneSet := k }
    seq := { d.seq with slotsDue := true } }
  let d := ((d.put 0x180002 p).put 0x181006 d.seq.number).put 0x181002 0xFFFFFFFF
  effects carried ((d.swapState 0).publishPending)

/-- R51: the device holds a go for this batch and no cancel for it. -/
def Dev.swapsHere (d : Dev) : Bool := d.swap.go = some d.seq.number && d.swap.cancelled ≠ some d.seq.number

/-! ### Writes -/

/-- R52: the abort of a named batch. -/
def namedState (d : Dev) (v : Int) : Option Nat :=
  let n := v.toNat
  if v = 0xFFFFFFFF then none
  else if !ahead n (u32 (d.seq.number + 2)) || ahead n (u32 (d.seq.number + 65536)) then some 0x06090030
  else match d.swap.set with
    | some w => if ahead n (u32 (w.batch + 2)) then none else some 0x06090030
    | none => none

/-- R52, R54: name a swap batch, or clear the name; writes that an abandoned set left are pending for it. -/
def namedAct (v : Int) (d : Dev) : Dev :=
  let left := d.swap.set.isNone && d.swap.counts.toList.any (· ≠ 0)
  { d with swap := { d.swap with
    named := if v = 0xFFFFFFFF then none else some v.toNat
    first := if d.swap.first.isNone && left && v ≠ 0xFFFFFFFF then some d.seq.number else d.swap.first } }

/-- Table 2.4: a host cancel after the end of Phase C of S − 1 has the state error. -/
def cancelState (d : Dev) : Option Nat :=
  match d.swap.set with
  | none => none
  | some w => if w.batch = u32 (d.seq.number + 1) && d.seq.phase = 3 then some 0x08000022 else none

/-- Table 16.8: a PDO mapping that names an object which the swap check of R372 forbids. -/
def proofState (a : Nat) (v : Val) : Option Nat :=
  if 0x2C48 ≤ a / 256 && a / 256 ≤ 0x2C4B && a % 256 = 6 && !mappingRw (valBytes v) then some 0x06040041 else none

/-! ### Meanings -/

/-- NAMED_SWAP_WRITE (R52): a write to 0x1810:01. -/
def execNamedSwapWrite (acc : Accessor) (v : Int) (s : State) : Host.Outcome State Fault Refusal :=
  s.logicNow fun d => d.writeObject acc 0x181001 (.num v) false (namedState d v) (namedAct v)

/-- SWAP_CANCEL_WRITE (R53): a write to 0x1811:01. -/
def execSwapCancelWrite (acc : Accessor) (v : Int) (s : State) : Host.Outcome State Fault Refusal :=
  s.logicNow fun d => d.writeObject acc 0x181101 (.num v) false (cancelState d) Dev.cancelSet

/-- PROOF_WRITE (R50): a write to an RWB or CAL object; another object's write is not this command's. -/
def execProofWrite (acc : Accessor) (addr : Nat) (v : Val) (s : State) : Host.Outcome State Fault Refusal :=
  s.logicNow fun d => if inSetSlot addr then d.writeObject acc addr v false (proofState addr v) id else d

/-- RESET_LEARNING_WRITE (R96): a write of 1 to 0x3000:25, handled as a proof write. -/
def execResetLearningWrite (acc : Accessor) (outlet : Fin 32) (v : Int) (s : State) :
    Host.Outcome State Fault Refusal :=
  let a := adr (0x3000 + outlet) 0x25
  s.logicNow fun d => d.writeObject acc a (.num v) false none fun d => d.proofWrite acc a (.num v) false

/-- SWAP_REQUEST (R52): the lead adds a wheeler's writes to its count. -/
def execSwapRequest (pos : Fin 32) (writes : Nat) (s : State) : Host.Outcome State Fault Refusal :=
  s.logicNow fun d => if d.isLead then d.countWrites pos writes else d

/-- SWAP_ANNOUNCEMENT (R53): a device takes the announcement and, in S − 2, reports. -/
def execSwapAnnouncement (swapBatch setNo : Nat) (announced : SwapNotice) (s : State) : Host.Outcome State Fault Refusal :=
  s.logicNow fun d =>
    if d.isLead then d
    else (d.takeAnnouncement ⟨swapBatch, setNo, announced.counts[d.pos32], announced.period, announced.model⟩).report

/-- READY_REPORT (R53): the lead takes a device's report, and with it the device's span (R159). -/
def execReadyReport (pos : Fin 32) (ready : Bool) (span : Option DeviceSpan) (s : State) :
    Host.Outcome State Fault Refusal :=
  s.logicNow fun d =>
    if d.isLead then
      let d := { d with pose := { d.pose with spansNext := d.pose.spansNext.set pos span } }
      if ready then d.takeReport pos true else d.notReady pos
    else d

/-- SWAP_GO (R53): a device takes go for S, where it holds the announcement of S. -/
def execSwapGo (swapBatch : Nat) (s : State) : Host.Outcome State Fault Refusal :=
  s.logicNow fun d => if d.swap.announced.any (fun x => x.batch = swapBatch) then d.takeGo swapBatch else d

/-- SWAP_POSTPONEMENT (R53). -/
def execSwapPostponement (swapBatch newBatch : Nat) (s : State) : Host.Outcome State Fault Refusal :=
  s.logicNow fun d => d.takePostponement swapBatch newBatch

/-- SWAP_CANCEL (R53). -/
def execSwapCancel (swapBatch : Nat) (s : State) : Host.Outcome State Fault Refusal :=
  s.logicNow fun d => d.takeCancel swapBatch

end Sys2Proof.Machine
end

