-- ==== Sys2Proof/Machine/Time.lean ====
section
/-! DEFINITION. Chain time, its states, holdover and re-lock, PPS and the RTC (R35 to R41, R56 to R58, R490). -/

namespace Sys2Proof.Machine

/-- Table 2.1: enter a time state. -/
def Dev.timeState (d : Dev) (k : Nat) : Dev := { d with time := { d.time with state := k } }

/-- R38, Table 2.7: seed chain time so that it reads `v` now, from a source. -/
def Dev.seed (d : Dev) (v : Int) (source state : Nat) : Dev :=
  { d with time := { d.time with
      offset := v - d.time.now, seeded := true, source := source, state := state, slewLeft := 0, slewing := false } }

/-- R57: the RTC's time now, ns, with its trim applied. -/
def Dev.rtcNow (d : Dev) : Int :=
  d.time.now + d.rtc.offset + ((d.time.now : Int) - d.rtc.since) * d.rtc.trim / 1000000000

/-- R57: the trim of 0x1821:02 counts from now on. -/
def Dev.settleTrim (d : Dev) : Dev :=
  { d with rtc := { d.rtc with
    offset := d.rtcNow - d.time.now, since := d.time.now, trim := d.int 0x182102 } }

/-- R38: seed from the first source that is available: a GNSS time solution (chain time now by it), the RTC, or zero. -/
def Dev.seedFrom (d : Dev) (gnss : Option Int) : Dev :=
  match gnss with
  | some v => d.seed v 1 2
  | none => if d.rtc.valid then d.seed d.rtcNow 2 1 else d.seed 0 3 1

/-- CHAIN_TIME_SEED's effect: only the lead seeds, and only before the first armed batch. -/
def chainTimeSeedEff (d : Dev) (gnss : Option Int) : Dev :=
  if d.isLead && !d.power.armedOnce && !d.seq.running then d.seedFrom gnss else d

/-- R354: the seed wait runs out before a GNSS time solution. -/
def seedWaitExpiryEff (d : Dev) : Dev :=
  if d.isLead && !d.time.seeded && !d.seq.running then d.seedFrom none else d

/-- R38, R490: the lead's state and slew from |chain time − GNSS time| at a solution. -/
def Dev.steer (d : Dev) (err : Int) : Dev :=
  let d := d.put 0x180202 (clampI (-2147483647) 2147483647 err)
  if d.time.state = 1 || d.time.state = 2 || d.time.state = 3 then
    let a := err.natAbs
    if a ≤ 100 then { d with time := { d.time with state := 3, slewLeft := err, slewing := err ≠ 0 } }
    else if a ≤ 10000000 then { d with time := { d.time with state := 2, slewLeft := err, slewing := true } }
    else { d with time := { d.time with state := 6, slewLeft := 0, slewing := false } }
  else d

/-- R36, R38, R40: the slew of one batch: at most 20 ppm of the period, towards no error. -/
def Dev.slewBatch (d : Dev) : Dev :=
  let m : Int := d.periodNs * 20 / 1000000
  let s := clampI (-m) m d.time.slewLeft
  { d with time := { d.time with
      offset := d.time.offset - s, slewLeft := d.time.slewLeft - s, slewing := d.time.slewLeft - s ≠ 0 } }

/-- R39: the TCXO ageing model's error estimate after a time in holdover, ns. -/
def Dev.holdoverError (d : Dev) : Nat := Config.holdoverError (d.time.now - d.time.holdoverAt)

/-- R39: a wheeler that is locked, or has re-locked, loses its recovered clock. -/
def holdoverEntryEff (d : Dev) : Dev :=
  if !d.isLead && (d.time.state = 3 || (d.time.state = 4 && d.time.relocked)) then
    { d with time := { d.time with
      state := 4, holdoverAt := d.time.now, relocked := false, slewLeft := 0, slewing := false } }.put 0x180203 0
  else d

/-- R39: the error estimate has passed the holdover limit: time lost, and its action waits for the next boundary. The
command says that it has passed, whatever the ageing model gives. -/
def holdoverLimitEff (d : Dev) : Dev :=
  if d.time.state = 4 && !d.time.relocked then
    let limit := 1000 * d.nat 0x180301
    let err := max d.holdoverError (limit + 1)
    (({ d with time := { d.time with state := 5, lostPending := true } } : Dev).put 0x180203 err).raise
      0x0104 1 0xFFFF [(3, err), (4, limit)]
  else d

/-- R316: the error estimate has reached 20 ns: the wheeler stops filling report slots and clears time-good. -/
def reportSlotStopEff (d : Dev) : Dev :=
  if (d.time.state = 4 || d.time.state = 5) && !d.time.relocked then
    { d with time := { d.time with slotStopped := true } }.put 0x180203 (max 20 d.holdoverError : Nat)
  else d

/-- R40: re-lock: at most 1 µs of error is slewed out from the next boundary on, where a time-lost action ends; a larger one
is stepped there, where the pending edges are discarded. -/
def reLockEff (d : Dev) (err : Int) : Dev :=
  if (d.time.state = 4 || d.time.state = 5) && !d.time.relocked then
    let wasLost := d.time.state = 5
    let d := { d with time := { d.time with state := 4, relocked := true }
                      link := { d.link with filtered := 0, steady := 0, rest := 0 }
                      seq := { d.seq with synced := false } }.put 0x180203 err.natAbs
    if err.natAbs ≤ 1000 then
      let d := { d with time := { d.time with slewLeft := err, slewing := err ≠ 0, lostEnds := true } }
      if wasLost then d.raise 0x0104 2 0xFFFF [(3, err), (4, 1000 * d.nat 0x180301)] else d
    else
      let d := ({ d with time := { d.time with stepPending := some err } } : Dev).raise 0x0106 0 0xFFFF [(3, err)]
      if wasLost then d.raise 0x0104 2 0xFFFF [(3, err), (4, 1000 * d.nat 0x180301)] else d
  else d

/-- R56: at the next whole chain-time second, to which the command moves the clock, the PPS leading edge is driven where
PPS is enabled; the pulse ends after its width. -/
def ppsPulseEff (d : Dev) : Dev :=
  let sec := (d.chain + 999999999) / 1000000000 * 1000000000
  let d := d.at ((sec : Int) - d.time.offset).toNat
  let low := d.flag 0x182003
  if d.flag 0x182001 then
    { d with time := { d.time with ppsPulse := some (sec, sec + 1000 * d.nat 0x182002), ppsLow := low } }.send (.pps (!low))
  else { d with time := { d.time with ppsPulse := none, ppsLow := low } }

/-- R56: the level of the PPS pin now: active while the pulse lasts. -/
def Dev.ppsLevel (d : Dev) : Bool :=
  match d.time.ppsPulse with
  | some (a, b) => (a ≤ d.chain && d.chain < b) != d.time.ppsLow
  | none => d.time.ppsLow

/-- R57: at a whole chain-time second while the lead is locked, the RTC is disciplined to chain time and becomes
valid. Only the lead knows that it is locked, so only the lead's RTC is disciplined (log entry 106). -/
def rtcDisciplineEff (d : Dev) : Dev :=
  if d.isLead && d.time.state = 3 then
    { d with rtc := { d.rtc with offset := d.time.offset, since := d.time.now, valid := true, disciplined := some d.time.now } }
  else d

/-- R57: the RTC supply is lost. -/
def rtcSupplyLossEff (d : Dev) : Dev :=
  { d with rtc := { d.rtc with offset := - (d.time.now : Int), since := d.time.now, valid := false, disciplined := none } }

/-- R58: the RTC's uncertainty, ms: 20 ppm of the time since the last disciplining, plus that of the trim. -/
def Dev.rtcUncertainty (d : Dev) : Nat :=
  match d.rtc.disciplined with
  | none => 0xFFFFFFFF
  | some t => min 0xFFFFFFFE (((d.time.now - t) * 20 / 1000000 + Config.trimUncertainty (d.time.now - t)) / 1000000)

/-- 0x1821:01: RTC time: GPS seconds and 1/32,768 s. -/
def Dev.rtcWord (d : Dev) : Nat :=
  let n := d.rtcNow.toNat
  u64 (n / 1000000000 * 32768 + n % 1000000000 * 32768 / 1000000000)

/-- Table 2.7: the time status word. -/
def Dev.timeStatus (d : Dev) (stale : Bool) : Nat :=
  d.time.state + 16 * d.time.source + (if d.time.slewing then 64 else 0) + (if stale then 128 else 0)

/-! ### Meanings -/

/-- HOLDOVER_ENTRY (R39). -/
def execHoldoverEntry (t : Nat) (s : State) : Host.Outcome State Fault Refusal := s.logic t holdoverEntryEff

/-- HOLDOVER_LIMIT (R39). -/
def execHoldoverLimit (t : Nat) (s : State) : Host.Outcome State Fault Refusal := s.logic t holdoverLimitEff

/-- REPORT_SLOT_STOP (R316). -/
def execReportSlotStop (t : Nat) (s : State) : Host.Outcome State Fault Refusal := s.logic t reportSlotStopEff

/-- RE_LOCK (R40). -/
def execReLock (err : Int) (t : Nat) (s : State) : Host.Outcome State Fault Refusal :=
  s.logic t fun d => reLockEff d err

/-- PPS_PULSE (R56). -/
def execPpsPulse (s : State) : Host.Outcome State Fault Refusal := s.logicNow ppsPulseEff

/-- RTC_DISCIPLINE (R57). -/
def execRtcDiscipline (s : State) : Host.Outcome State Fault Refusal := s.logicNow rtcDisciplineEff

/-- RTC_SUPPLY_LOSS (R57): whatever the logic die is doing. -/
def execRtcSupplyLoss (t : Nat) (s : State) : Host.Outcome State Fault Refusal := s.act t rtcSupplyLossEff

end Sys2Proof.Machine
end

