-- ==== Sys2Proof/Machine/Valve.lean ====
section
/-! DEFINITION. The valve drive of the power die (chapter 8): channel states, boost, nozzle PWM, kinks, diagnostics and
current sensing. -/

namespace Sys2Proof.Machine

/-! ### Settings -/

/-- R19: an object of a local outlet's record. -/
def outletAdr (n : Fin 32) (sub : Nat) : Nat := adr (0x3000 + n) sub

/-- The bank of a channel (R60). -/
def bankOf (ch : Fin 32) : Fin 4 := ⟨ch.val / 8, by omega⟩

/-- An object of a bank. -/
def bankAdr (b : Fin 4) (sub : Nat) : Nat := adr (0x2501 + b) sub

/-- The channels of a bank. -/
def bankChannels (b : Fin 4) : List (Fin 32) := (List.finRange 32).filter fun ch => bankOf ch = b

/-- R193: a channel of an outlet of type 1 or 2. -/
def Dev.valveOutlet (d : Dev) (ch : Fin 32) : Bool := d.nat (outletAdr ch 1) = 1 || d.nat (outletAdr ch 1) = 2

/-- R193: a bank in use: the drive enabled and a channel of an outlet of type 1 or 2. -/
def Dev.bankInUse (d : Dev) (b : Fin 4) : Bool := d.flag 0x250001 && (bankChannels b).any d.valveOutlet

/-- R193: a channel that may be driven: the power die armed, the drive enabled, its outlet of type 1 or 2. -/
def Dev.driven (d : Dev) (ch : Fin 32) : Bool := d.pd.armed && d.flag 0x250001 && d.valveOutlet ch

/-- R193, R205: the channel runs in nozzle PWM mode. -/
def Dev.nozzlePwm (d : Dev) (ch : Fin 32) : Bool := d.flag (outletAdr ch 0x35) && d.nat (outletAdr ch 1) = 1

/-- R205: the period of the channel's generator, ns. -/
def Dev.slotPeriod (d : Dev) (ch : Fin 32) : Nat := 1000 * d.nat (bankAdr (bankOf ch) (3 + d.nat (outletAdr ch 0x36)))

/-- R205: the start of the slot that an instant lies in. -/
def Dev.slotStart (d : Dev) (ch : Fin 32) (t : Nat) : Nat :=
  let p := d.slotPeriod ch
  let phi := 1000 * d.nat (outletAdr ch 0x37) % p
  t - (t + p - phi) % p

/-- Update one channel. -/
def Dev.channel (d : Dev) (ch : Fin 32) (f : Channel → Channel) : Dev :=
  { d with valve := { d.valve with channels := updateAt d.valve.channels ch f } }

/-- Update one bank. -/
def Dev.bank (d : Dev) (b : Fin 4) (f : Bank → Bank) : Dev :=
  { d with valve := { d.valve with banks := updateAt d.valve.banks b f } }

/-- Update the boost converter. -/
def Dev.boost (d : Dev) (f : Boost → Boost) : Dev := { d with valve := { d.valve with boost := f d.valve.boost } }

/-- R195: boost is ready: VBST at or above the ready share of the target, also while the converter rests in overvoltage. -/
def Dev.boostReady (d : Dev) : Bool :=
  (d.valve.boost.state = 2 || d.valve.boost.state = 4) && d.nat 0x250802 * d.nat 0x250805 ≤ 100 * d.valve.boost.vbst

/-- R192: the bank's peaks come from boost. -/
def Dev.boostBank (d : Dev) (b : Fin 4) : Bool := d.nat (bankAdr b 1) = 1

/-! ### Pulses -/

/-- R198: start a peak now, from boost or from the battery. -/
def Dev.startPeak (d : Dev) (ch : Fin 32) (fromBoost fallback : Bool) : Dev :=
  let now := d.chain
  let d := d.channel ch fun c => { c with
    mode := .peak, freewheel := false, safeRelease := false, start := now, peakLimit := d.nat (outletAdr ch 0x32)
    peakTail := d.nat (outletAdr ch 0x33), arrival := none, releaseKink := none, fallback := fallback, noArrival := false
    unreachable := false
    reStrike := c.mode = .release || c.reStrike }
  d.bank (bankOf ch) fun b => { b with
    boostPeak := if fromBoost then some ch else b.boostPeak
    fallbackNow := b.fallbackNow || fallback }

/-- R196, R197: the bank's boost-not-ready action is the battery: as set, or because the converter is retired. -/
def Dev.fallsBack (d : Dev) (b : Fin 4) : Bool := d.nat (bankAdr b 5) = 0 || d.valve.boost.state = 5

/-- Table 8.3, rows Off: begin a pulse: from the battery, from boost, by the boost-not-ready action, or on the wait
list. -/
def Dev.beginPulse (d : Dev) (ch : Fin 32) : Dev :=
  let b := bankOf ch
  let wait := fun (d : Dev) =>
    ((d.channel ch fun c => { c with mode := .waiting, waitSince := d.chain, peakLimit := d.nat (outletAdr ch 0x32), reStrike := c.mode = .release }).bank b
      fun k => { k with waits := k.waits ++ [ch], waitedNow := true }).bump (bankAdr b 0x19)
  if !d.boostBank b then d.startPeak ch false false
  else if d.valve.banks[b].boostPeak.isSome then wait d
  else if d.boostReady then d.startPeak ch true false
  else
    let d := d.bump 0x250808
    if d.fallsBack b then d.startPeak ch false true else wait d

/-- R196, R202: the turn of the first waiting channels: from boost where it is ready; else by the bank's action, from the
battery with the fallback flag, which lets the next channel have its turn, or not yet. -/
def Dev.startWaiting (b : Fin 4) : List (Fin 32) → Dev → Dev
  | [], d => d
  | ch :: rest, d =>
    let go := fun (d : Dev) (fromBoost : Bool) =>
      let d := (d.bank b fun k => { k with waits := rest }).channel ch fun c => { c with waited := true }
      (d.startPeak ch fromBoost (!fromBoost)).bump 0x210205
    if d.boostReady then go d true
    else if d.fallsBack b then Dev.startWaiting b rest (go (d.bump 0x250808) false)
    else d

/-- R202: the boost peak of a bank has ended: the waiting channels have their turn. -/
def Dev.nextWaiting (d : Dev) (b : Fin 4) : Dev :=
  if d.valve.banks[b].boostPeak.isSome then d else Dev.startWaiting b d.valve.banks[b].waits d

/-- R202: a channel's boost peak ends. -/
def Dev.endBoostPeak (d : Dev) (ch : Fin 32) : Dev :=
  if d.valve.banks[bankOf ch].boostPeak = some ch then
    (d.bank (bankOf ch) fun k => { k with boostPeak := none }).nextWaiting (bankOf ch)
  else d

/-- R209: the report of a kink, or of a missing one. -/
def Dev.reportKink (d : Dev) (ch : Fin 32) (kind : KinkKind) (kink : Option Int) : Dev :=
  let c := d.valve.channels[ch]
  d.send (.kink ⟨ch, kind, if kind = .arrival then c.start else c.releaseStart, kink, c.fallback, c.waited,
    c.noArrival, c.slot, c.reStrike, c.withheld⟩)

/-- R198 step 4: release now, fast or slow by the channel's release mode. -/
def Dev.release (d : Dev) (ch : Fin 32) : Dev :=
  let slow := decide (d.nat (outletAdr ch 0x34) = 1)
  (d.channel ch fun c => { c with
    mode := .release, freewheel := slow, releaseStart := d.chain, onEnd := none }).endBoostPeak ch

/-- R114: the latest speed update whose instant lies before the running PWM period began is in force. -/
def Dev.switchDuty (d : Dev) (ch : Fin 32) : Dev :=
  let start := d.slotStart ch d.chain
  let mine := fun (f : PlFrame) => match f.action with
    | .valveDuty k v => if k = ch && f.instant ≤ (start : Int) then some v else none
    | _ => none
  match (d.pd.commands.filterMap mine).getLast? with
  | none => d
  | some v =>
    ({ d with pd := { d.pd with commands := d.pd.commands.filter fun f => (mine f).isNone } } : Dev).channel ch fun c =>
      { c with duty := v }

/-- R198, R206, Table 8.3: a switch-on at this tick. -/
def channelOnEff (d : Dev) (ch : Fin 32) : Dev :=
  if !d.driven ch then d
  else
    let d := if d.nozzlePwm ch then d.switchDuty ch else d
    let now := d.chain
    let c := d.valve.channels[ch]
    let fin := if d.nozzlePwm ch && c.duty < 10000 then
        some (max (d.slotStart ch now + c.duty * d.slotPeriod ch / 10000) (now + 1000 * d.nat (outletAdr ch 0x38)))
      else none
    match c.mode with
    | .off | .release =>
      (d.channel ch fun c => { c with
        on := true, onEnd := fin, slot := false, waited := false, reStrike := false, withheld := c.mode = .release
        missed := false }).beginPulse ch
    | .hold | .peak | .waiting => d.channel ch fun c => { c with on := true, onEnd := fin }
    | .tripped | .retired => d.channel ch fun c => { c with on := true }

/-- R206, Table 8.3: a switch-off at this tick. -/
def channelOffEff (d : Dev) (ch : Fin 32) : Dev :=
  let d := d.channel ch fun c => { c with on := false, onEnd := none }
  match d.valve.channels[ch].mode with
  | .waiting =>
    (d.channel ch fun c => { c with mode := .off }).bank (bankOf ch) fun k => { k with waits := k.waits.filter (· ≠ ch) }
  | .peak =>
    let d := if d.valve.channels[ch].arrival.isNone then
        (d.channel ch fun c => { c with withheld := true }).reportKink ch .arrival none
      else d
    (d.channel ch fun c => { c with slot := false }).release ch
  | .hold => (d.channel ch fun c => { c with slot := false }).release ch
  | _ => d

/-- R201: a switch-off whose tick is now is taken before what else falls on the tick. -/
def Dev.soonerOff (d : Dev) (ch : Fin 32) : Dev := d.onFrame (· = .valveOff ch) (channelOffEff · ch)

/-- R201: a switch-off and then a switch-on whose tick is now are taken before an end of peak or of on-time. -/
def Dev.sooner (d : Dev) (ch : Fin 32) : Dev := (d.soonerOff ch).onFrame (· = .valveOn ch) (channelOnEff · ch)

/-- R206: the on-time ends: the channel releases; still in peak, its pulse is short. The release kink that follows belongs to
no switch-off, and is not learned (R93). -/
def onTimeEndEff (d : Dev) (ch : Fin 32) : Dev :=
  let c := d.valve.channels[ch]
  match c.onEnd with
  | none => d
  | some e =>
    if d.chain < e then d
    else match c.mode with
      | .peak => (d.channel ch fun c => { c with shortPulse := true, slot := true }).release ch
      | .hold => (d.channel ch fun c => { c with slot := true }).release ch
      | .waiting => d
      | _ => d.channel ch fun c => { c with onEnd := none }

/-- R205, R206: a slot starts, at a chain time that is a whole number of periods from the phase offset: an on channel begins a
pulse, or extends its hold, to no earlier an end than it had; a duty of 0 leaves the slot empty. -/
def slotStartEff (d : Dev) (ch : Fin 32) : Dev :=
  let d := d.switchDuty ch
  let c := d.valve.channels[ch]
  if !d.driven ch || !c.on || !d.nozzlePwm ch || d.slotStart ch d.chain ≠ d.chain then d
  else
    let fin := if c.duty < 10000 then some (d.chain + c.duty * d.slotPeriod ch / 10000) else none
    match c.mode with
    | .off | .release =>
      if c.duty = 0 then d
      else (d.channel ch fun c => { c with
        onEnd := fin, slot := true, waited := false, reStrike := false, withheld := c.mode = .release }).beginPulse ch
    | .hold | .peak | .waiting =>
      let d := d.channel ch fun c => { c with onEnd := match c.onEnd, fin with
        | some e, some f => some (max e f)
        | _, _ => fin }
      if c.duty = 0 then onTimeEndEff d ch else d
    | _ => d

/-- R206: a rate edge: it moves the end of the running pulse within its on-time, else acts from the next slot. -/
def rateEdgeEff (d : Dev) (ch : Fin 32) (duty : Nat) : Dev :=
  let now := d.chain
  let c := d.valve.channels[ch]
  let d := d.channel ch fun c => { c with duty := duty }
  let runs := c.mode = .peak || c.mode = .hold
  let within := match c.onEnd with
    | some e => decide (now < e)
    | none => c.on && d.nozzlePwm ch && duty < 10000
  if runs && within then
    (d.channel ch fun c => { c with
      onEnd := some (max now (d.slotStart ch now + duty * d.slotPeriod ch / 10000)) }) |> (onTimeEndEff · ch)
  else d

/-- R208: a kink is stamped to 1 µs. -/
def kinkStamp (t : Int) : Int := t / 1000 * 1000

/-- R208: the arrival kink, found during the peak. -/
def arrivalKinkEff (d : Dev) (ch : Fin 32) (t : Int) : Dev :=
  let kink := kinkStamp t
  if d.valve.channels[ch].mode = .peak && d.valve.channels[ch].arrival.isNone then
    (d.channel ch fun c => { c with arrival := some kink }).reportKink ch .arrival (some kink)
  else d

/-- R215: the hold current in force: while the fault manager enforces a slow-down at most the throttle floor. -/
def Dev.holdInForce (d : Dev) (ch : Fin 32) : Nat :=
  let hold := d.nat (outletAdr ch 0x31)
  if d.hlt.enforcing then min hold (d.nat 0x250004) else hold

/-- R213: the channel runs open-loop: its bank's sensing is degraded, or its own mirror is faulted (Table 8.10). -/
def Dev.openLoop (d : Dev) (ch : Fin 32) : Bool := d.valve.banks[bankOf ch].degraded || d.valve.channels[ch].senseFault

/-- R198 step 2: the peak ends at the kink plus the tail, or at the peak time limit with the no-arrival flag; limit and tail as
they were when the peak began (R216). Open-loop it ends after the learned electrical on part and the tail (R213). -/
def endOfPeakEff (d : Dev) (ch : Fin 32) : Dev :=
  let c := d.valve.channels[ch]
  let now : Int := d.chain
  let limit : Int := c.start + 1000 * c.peakLimit
  let tailed := match c.arrival with
    | some k => decide (k + 1000 * c.peakTail ≤ now)
    | none => false
  let learned : Int := c.start + 1000 * (d.nat (outletAdr ch 0x22) + c.peakTail)
  let ended := if d.openLoop ch then decide (learned ≤ now) else tailed
  if c.mode = .peak && (ended || limit ≤ now) then
    let d := d.channel ch fun c => { c with
      mode := .hold, holdCurrent := d.holdInForce ch, noArrival := c.arrival.isNone && limit ≤ now }
    let d := if c.arrival.isNone then d.reportKink ch .arrival none else d
    d.endBoostPeak ch
  else d

/-- Table 8.3: the wait has reached the channel's peak time limit: the switch-on is missed. -/
def waitLimitEff (d : Dev) (ch : Fin 32) : Dev :=
  let c := d.valve.channels[ch]
  if c.mode = .waiting && c.waitSince + 1000 * c.peakLimit ≤ d.chain then
    let d := d.channel ch fun c => { c with mode := .off, on := false, missed := true }
    (d.bank (bankOf ch) fun k => { k with waits := k.waits.filter (· ≠ ch) }).send (.missed ch d.chain)
  else d

/-- R208, R217: the release kink of a release, or of the release into the safe state. -/
def releaseKinkEff (d : Dev) (ch : Fin 32) (t : Int) : Dev :=
  let kink := kinkStamp t
  let c := d.valve.channels[ch]
  if (c.mode = .release || c.safeRelease) && c.releaseKink.isNone then
    (d.channel ch fun c => { c with releaseKink := some kink }).reportKink ch .release (some kink)
  else d

/-- R211: the clearance of a short to supply, which names the state in which it was found. -/
def Dev.supplyCleared (d : Dev) (ch : Fin 32) (onState : Bool) : Dev :=
  d.raise 0x0803 2 ch [(2, Config.eventCause 0x0803 (if onState then 0 else 1))]

/-- R198, Table 8.3: release ends, once the current has fallen and the release kink window of twice the upper bound of the off
part has closed; a kink not found by then is missing. A pulse without a trip ends a run of trips, and a short
to supply found in one (R211). -/
def releaseEndEff (d : Dev) (ch : Fin 32) : Dev :=
  if d.valve.channels[ch].mode = .release
      && d.valve.channels[ch].releaseStart + 2000 * d.nat (outletAdr ch 0x21) ≤ d.chain then
    let short := d.valve.channels[ch].supplyOn
    let d := if d.valve.channels[ch].releaseKink.isNone then d.reportKink ch .release none else d
    let d := d.channel ch fun c => { c with mode := .off, freewheel := false, trips := 0, supplyOn := false, reStrike := false }
    if short then d.supplyCleared ch true else d
  else d

/-! ### Faults -/

/-- Table 8.9: retire a channel for good: it stays off across resets. -/
def Dev.retireChannel (d : Dev) (ch : Fin 32) : Dev :=
  let d := d.channel ch fun c => { c with
    mode := .retired, freewheel := false, on := false, onEnd := none, returning := false, testDue := false }
  (d.bank (bankOf ch) fun k => { k with waits := k.waits.filter (· ≠ ch) }).putBit 0x250006 ch true

/-- R211, Tables 8.3 and 8.9: a short to supply trips the channel; back-off of 10 ms, 100 ms, 1 s; the fourth trip in a
row retires it. -/
def tripEff (d : Dev) (ch : Fin 32) (onState : Bool) : Dev :=
  let c := d.valve.channels[ch]
  if c.mode = .retired || c.mode = .tripped || c.mode = .waiting then d
  else
    let n := c.trips + 1
    let d := (d.bump (outletAdr ch 0x3F)).endBoostPeak ch
    let d := d.channel ch fun c => { c with
      mode := .tripped, freewheel := false, trips := n, onEnd := none, cleanRun := 0, cleanOff := 0
      supplyOn := c.supplyOn || onState, supplyOff := c.supplyOff || !onState
      backOff := d.chain + (if n = 1 then 10000000 else if n = 2 then 100000000 else 1000000000) }
    let d := d.raise 0x0803 1 ch [(2, Config.eventCause 0x0803 (if onState then 0 else 1))]
    if n ≥ 4 then (d.fault 6 true ch).retireChannel ch else d.fault 6 false ch

/-- Table 8.3: the back-off has run. -/
def backOffEndEff (d : Dev) (ch : Fin 32) : Dev :=
  if d.valve.channels[ch].mode = .tripped && d.valve.channels[ch].backOff ≤ d.chain then
    d.channel ch fun c => { c with mode := .off }
  else d

/-- Table 8.9: a short to ground: an outlet fault at once; with 0x2501:06 = 1 the common switches off and the bank's
other outlets take outlet faults too. -/
def Dev.shortGround (d : Dev) (ch : Fin 32) (onState : Bool) : Dev :=
  let b := bankOf ch
  let known := d.valve.channels[ch].faultGround
  let d := d.channel ch fun c => { c with
    faultGround := true, cleanOff := 0, groundOn := c.groundOn || onState, groundOff := c.groundOff || !onState }
  let d := if known then d
    else (d.fault 7 false ch).raise 0x0802 1 ch [(2, Config.eventCause 0x0802 (if onState then 0 else 1))]
  if d.nat (bankAdr b 6) = 1 then
    (bankChannels b).foldl (fun d k => if k = ch then d else d.channel k fun c => { c with faultBank := true })
      (d.bank b fun k => { k with powered := false, groundOff := true, groundClear := false })
  else d

/-- Table 8.9: an open load: reported at the first detection, an outlet fault at the third in a row. -/
def Dev.openLoad (d : Dev) (ch : Fin 32) (onState : Bool) : Dev :=
  let n := d.valve.channels[ch].openRun + 1
  let d := d.channel ch fun c => { c with
    openRun := n, cleanRun := 0, openOn := c.openOn || onState, openOff := c.openOff || !onState
    faultOpen := c.faultOpen || n ≥ 3 }
  if n = 1 then (d.fault 7 false ch).raise 0x0801 1 ch [(2, Config.eventCause 0x0801 (if onState then 0 else 1))]
  else d

/-- Table 8.9: a clean check or test: the open-load run ends, and ten in a row end an open-load fault. -/
def Dev.cleanCheck (d : Dev) (ch : Fin 32) : Dev :=
  let c := d.valve.channels[ch]
  let d := d.channel ch fun c => { c with
    openRun := 0, cleanRun := c.cleanRun + 1
    faultOpen := c.faultOpen && c.cleanRun + 1 < 10
    openOn := c.openOn && c.cleanRun + 1 < 10, openOff := c.openOff && c.cleanRun + 1 < 10 }
  if (c.openOn || c.openOff) && c.cleanRun + 1 ≥ 10 then
    d.raise 0x0801 2 ch [(2, Config.eventCause 0x0801 (if c.openOn then 0 else 1))]
  else d

/-- R210, R211: the outcome of an on-state check. -/
def onDiagEff (d : Dev) (ch : Fin 32) (x : OnDiag) : Dev :=
  let m := d.valve.channels[ch].mode
  if m = .peak || m = .hold || m = .release then
    match x with
    | .clean => d.cleanCheck ch
    | .openLoad => d.openLoad ch true
    | .shortGround => d.shortGround ch true
  else d

/-- Table 8.9: a clean off-state short-to-ground test: ten in a row end the fault, and a common that was off for it is
powered again at the next boundary. -/
def Dev.cleanGround (d : Dev) (ch : Fin 32) : Dev :=
  let c := d.valve.channels[ch]
  let n := c.cleanOff + 1
  let d := d.channel ch fun c => { c with cleanOff := n }
  if c.faultGround && n ≥ 10 then
    let b := bankOf ch
    if d.valve.banks[b].groundClear then d
    else
    let d := d.raise 0x0802 2 ch [(2, Config.eventCause 0x0802 (if c.groundOn then 0 else 1))]
    if d.valve.banks[b].groundOff then d.bank b fun k => { k with groundClear := true }
    else d.channel ch fun c => { c with faultGround := false, groundOn := false, groundOff := false }
  else d

/-- R493: a retired channel whose return test finds no fault returns; otherwise it stays retired and a further write is
needed. -/
def Dev.returnTest (d : Dev) (ch : Fin 32) (r : OffTest) : Dev :=
  if r.openLoad || r.shortGround || r.shortSupply then d.channel ch fun c => { c with returning := false, testDue := false }
  else
    let found := d.valve.channels[ch].supplyOn
    let d := d.channel ch fun c => { c with
      mode := .off, returning := false, testDue := false, trips := 0, supplyOn := false, supplyOff := false }
    (d.putBit 0x250006 ch false).supplyCleared ch found

/-- R210: a switch-on instant of the channel falls within the next 1 ms. -/
def Dev.switchOnSoon (d : Dev) (ch : Fin 32) : Bool :=
  d.pd.commands.any fun f => f.action = .valveOn ch && f.instant < d.chain + 1000000

/-- R210: the channel has taken an off-state test within the test period; a return test (R493) does not wait for it. -/
def Dev.testedLately (d : Dev) (ch : Fin 32) : Bool :=
  let c := d.valve.channels[ch]
  c.mode ≠ .retired && c.testedAt.any fun x => d.time.now < x + 1000 * d.nat 0x250002

/-- R210, Table 8.8: an off-state test, where it may run, once per test period; with the common unpowered the channel reports not tested, but
for the short-to-ground test of a common switched off for it. -/
def offTestEff (d : Dev) (ch : Fin 32) (r : OffTest) : Dev :=
  let c := d.valve.channels[ch]
  let b := d.valve.banks[bankOf ch]
  if !d.driven ch || d.switchOnSoon ch || d.testedLately ch then d
  else if c.mode = .retired then
    if c.testDue && b.powered then d.returnTest ch r else d
  else if c.mode ≠ .off then d
  else if !b.powered then
    if b.groundOff && c.faultGround then
      let d := d.channel ch fun c => { c with testedAt := some d.time.now }
      if r.shortGround then d.shortGround ch false else d.cleanGround ch
    else d.channel ch fun c => { c with notTested := true }
  else if d.chain < b.poweredAt + 10000000 then d
  else
    let pulses := d.flag 0x250003
    let d := d.channel ch fun c => { c with notTested := !pulses, testedAt := some d.time.now }
    if r.shortSupply && pulses then tripEff d ch false
    else
      let d := d.channel ch fun c => { c with supplyOff := c.supplyOff && !pulses, trips := if pulses then 0 else c.trips }
      let d := if c.supplyOff && pulses then d.supplyCleared ch false else d
      let d := if r.shortGround then d.shortGround ch false else d.cleanGround ch
      if r.openLoad then d.openLoad ch false else if r.shortGround then d else d.cleanCheck ch

/-- R493: at the first boundary at which its bank's common is powered and the test may run, a retired channel that was written
to 0x2500:07 takes its return test. -/
def Dev.returnChannels (d : Dev) : Dev :=
  (List.finRange 32).foldl (fun (d : Dev) (ch : Fin 32) =>
    let b := d.valve.banks[bankOf ch]
    if d.valve.channels[ch].returning && b.powered && b.poweredAt + 10000000 ≤ d.chain && d.driven ch && !d.switchOnSoon ch then
      d.channel ch fun c => { c with testDue := true }
    else d) d

/-- R200: the hold current stays more than 10 % low at full duty. -/
def holdUnreachableEff (d : Dev) (ch : Fin 32) : Dev :=
  if d.valve.channels[ch].mode = .hold then d.channel ch fun c => { c with unreachable := true } else d

/-- Table 8.9: a common has been in limit for 100 ms: off for 1 s; after 3 such events in 60 s every channel of the
bank is retired. -/
def commonLimitEff (d : Dev) (b : Fin 4) : Dev :=
  if !d.valve.banks[b].powered then d
  else
    let now := d.time.now
    let recent := (d.valve.banks[b].limits.filter fun x => now < x + 60000000000) ++ [now]
    let d := d.bank b fun k => { k with
      powered := false, limits := recent, offUntil := some (now + 1000000000), limiting := true }
    let d := d.raise 0x0806 1 b [(3, recent.length)]
    if recent.length ≥ 3 then (bankChannels b).foldl Dev.retireChannel
      ((d.bank b fun k => { k with boostPeak := none, waits := [] }).fault 8 true b) else d.fault 8 false b

/-- Table 8.9: the common is powered again after 1 s. -/
def commonRestoreEff (d : Dev) (b : Fin 4) : Dev :=
  match d.valve.banks[b].offUntil with
  | none => d
  | some u =>
    if d.time.now < u then d
    else
      let d := d.bank b fun k => { k with
        powered := d.pd.armed && d.bankInUse b && !k.groundOff, poweredAt := d.chain, offUntil := none
        limiting := false }
      d.raise 0x0806 2 b [(3, d.valve.banks[b].limits.length)]

/-- R212: two figures agree when they lie within 15 % of each other. -/
def agree15 (x y : Nat) : Bool := 100 * (max x y - min x y) ≤ 15 * max x y

/-- R212: the mirror current M: the mirror readings without those of the channels flagged short to ground. -/
def Dev.mirrorCurrent (d : Dev) (b : Fin 4) (f : SenseFigures) : Nat :=
  (List.finRange 8).foldl (fun (n : Nat) (k : Fin 8) =>
    if h : 8 * b.val + k.val < 32 then
      if d.valve.channels[8 * b.val + k.val].faultGround then n else n + f.mirrors[k]
    else n) 0

/-- R212: the expected high-side current H. -/
def highSideCurrent (f : SenseFigures) : Nat := f.highSide + f.freewheel

/-- Table 8.10: the pattern of a window of shunt, mirror and high-side current: 0 normal, 1 shunt or Kelvin, 2 one mirror,
3 high-side sense, 4 no two agree. -/
def sensePattern (shunt mirror high : Nat) : Nat :=
  if agree15 shunt high then if agree15 mirror high then 0 else 2
  else if agree15 mirror high then 1
  else if agree15 shunt mirror then 3 else 4

/-- Table 8.10: the channel that conducts alone in a window whose mirror reading differs from the shunt current. -/
def loneMirror (b : Fin 4) (f : SenseFigures) : Option (Fin 32) :=
  match (List.finRange 8).filter fun k => f.mirrors[k] ≠ 0 with
  | [k] => if h : 8 * b.val + k.val < 32 then
      if agree15 f.mirrors[k] f.shunt then none else some ⟨8 * b.val + k.val, h⟩ else none
  | _ => none

/-- R213: a bank enters sense-degraded operation. -/
def Dev.degrade (d : Dev) (b : Fin 4) : Dev :=
  if d.valve.banks[b].degraded then d
  else ((d.bank b fun k => { k with degraded := true, normals := 0 }).fault 9 false b).raise 0x0804 1 b [(3, 0)]

/-- Table 8.10: the conclusion of ten windows with one pattern. -/
def Dev.concludeSense (d : Dev) (b : Fin 4) (p : Nat) : Dev :=
  let d := d.bank b fun k => { k with run := 0, normals := if p = 0 then k.normals + 1 else 0, highFault := p = 3 }
  match p with
  | 0 =>
    if d.valve.banks[b].degraded && d.valve.banks[b].normals ≥ 20 then
      (d.bank b fun k => { k with degraded := false }).raise 0x0804 2 b [(3, 0)]
    else d
  | 2 => match d.valve.banks[b].differs with
    | some ch => d.channel ch fun c => { c with senseFault := true }
    | none => d
  | 3 => d
  | _ => d.degrade b

/-- R207, R212: one 50 µs window in which at least 0.5 A flows: the three figures, the sense trim, an average that the manual
does not weight (log entry 138), and the pattern. -/
def senseWindowEff (d : Dev) (b : Fin 4) (f : SenseFigures) : Dev :=
  let mirror := d.mirrorCurrent b f
  let high := highSideCurrent f
  if max f.shunt (max mirror high) < 500 then d
  else
    let d := ((d.put (bankAdr b 0x14) (min 65535 f.highSide : Nat)).put (bankAdr b 0x15) (min 65535 f.shunt : Nat)).put
      (bankAdr b 0x16) (min 65535 mirror : Nat)
    let d := if f.shunt ≥ 500 && mirror > 0 then
        let ratio := min 262144 (65536 * f.shunt / mirror)
        let held := d.nat (bankAdr b 0x17)
        d.put (bankAdr b 0x17) (max (min held ratio) (min (max held ratio) (Config.senseTrim held ratio)) : Nat)
      else d
    let p := sensePattern f.shunt mirror high
    let d := d.bank b fun k =>
      let kept := if k.pattern = p && 0 < k.run then k.differs else none
      { k with
        pattern := p, run := if k.pattern = p then k.run + 1 else 1
        differs := if (loneMirror b f).isSome then loneMirror b f else kept }
    if d.valve.banks[b].run ≥ 10 then d.concludeSense b p else d

/-! ### Boost -/

/-- R195: start the converter with its soft start, where it is enabled and the power die armed. -/
def Dev.startBoost (d : Dev) : Dev :=
  if d.flag 0x250801 && d.flag 0x250001 && d.pd.armed && d.valve.boost.state ≠ 5 then
    d.boost fun b => { b with state := 1, startedAt := d.time.now, restartAt := none }
  else d

/-- R197: not ready within 100 ms of a start: restart after 1 s; after 3 failed restarts it is retired. -/
def boostTimeoutEff (d : Dev) : Dev :=
  if d.valve.boost.state = 1 && d.valve.boost.startedAt + 100000000 ≤ d.time.now then
    if d.valve.boost.restarts ≥ 3 then
      (List.finRange 4).foldl Dev.nextWaiting (((d.boost fun b => { b with state := 5, restartAt := none }).fault 11 true
        0).raise 0x0805 1 0xFFFF [(3, d.valve.boost.vbst)])
    else (d.boost fun b => { b with state := 0, restartAt := some (d.time.now + 1000000000) }).fault 11 false 0
  else d

/-- R197: the converter restarts after its 1 s wait. -/
def boostRestartEff (d : Dev) : Dev :=
  match d.valve.boost.restartAt with
  | some r =>
    if r ≤ d.time.now then (d.boost fun b => { b with restarts := b.restarts + 1 }).startBoost else d
  | none => d

/-- R195, R196: VBST reaches the ready share: soft start ends, and peaks that wait for boost-ready start. A converter that
rests in overvoltage switches again only once VBST is back below the target. -/
def boostReadyEff (d : Dev) (vbst : Nat) : Dev :=
  let s := d.valve.boost.state
  let ready := decide (d.nat 0x250802 * d.nat 0x250805 ≤ 100 * vbst)
  if s = 4 && vbst < d.nat 0x250802 then
    (List.finRange 4).foldl Dev.nextWaiting (d.boost fun b => { b with state := if ready then 2 else 3, vbst := vbst })
  else if (s = 1 || s = 3) && ready && 10 * vbst ≤ 11 * d.nat 0x250802 then
    (List.finRange 4).foldl Dev.nextWaiting (d.boost fun b => { b with state := 2, vbst := vbst, restarts := 0 })
  else d

/-- R195, R196: VBST has fallen: below the ready share boost is not ready, and a boost peak that runs goes on from boost;
below VBAT1 + 1 V the battery high-side takes over, the peak carries the fallback flag, and the waiting channels have their
turn. -/
def boostFallbackEff (d : Dev) (vbst : Nat) : Dev :=
  let low := decide (100 * vbst < d.nat 0x250802 * d.nat 0x250805)
  let d := d.boost fun b => { b with
    vbst := vbst, state := if low && (b.state = 2 || b.state = 4) then 3 else b.state }
  if vbst < d.pd.v1 + 1000 then
    (List.finRange 4).foldl (fun d b =>
      match d.valve.banks[b].boostPeak with
      | none => d
      | some ch =>
        (((d.channel ch fun c => { c with fallback := true }).bank b fun k =>
          { k with boostPeak := none, fallbackNow := true }).bump 0x250808).nextWaiting b) d
  else d

/-- R195: VBST exceeds its target by 10 %, or 63 V: the converter stops switching. -/
def boostOvervoltageEff (d : Dev) (vbst : Nat) : Dev :=
  if (d.valve.boost.state = 1 || d.valve.boost.state = 2 || d.valve.boost.state = 3) &&
      (11 * d.nat 0x250802 < 10 * vbst || 63000 < vbst) then
    d.boost fun b => { b with state := 4, vbst := vbst }
  else d

/-! ### Arming and the safe state -/

/-- R216: when the power die arms, the commons of the banks in use are powered and the boost starts. -/
def Dev.armValves (d : Dev) : Dev :=
  ((List.finRange 4).foldl (fun d b => d.bank b fun k => { k with
    powered := d.bankInUse b && !k.groundOff && k.offUntil.isNone, poweredAt := d.chain }) d).startBoost

/-- R32, R217: every channel fast off, every wait list cleared, commons and boost off. -/
def Dev.safeValves (d : Dev) : Dev :=
  { d with valve := { d.valve with
    channels := d.valve.channels.map fun c =>
      let conducts := c.mode = .peak || c.mode = .hold
      { c with
        mode := if c.mode = .retired then .retired else .off, freewheel := false, on := false, onEnd := none, withheld := true
        safeRelease := c.safeRelease || conducts || c.mode = .release
        releaseStart := if conducts then d.chain else c.releaseStart
        releaseKink := if conducts then none else c.releaseKink }
    banks := d.valve.banks.map fun k => { k with powered := false, boostPeak := none, waits := [] }
    boost := { d.valve.boost with state := if d.valve.boost.state = 5 then 5 else 0, restartAt := none } } }

/-! ### Status words -/

/-- Table 8.16: the bank status word. -/
def Dev.bankStatus (d : Dev) (b : Fin 4) : Nat :=
  let k := d.valve.banks[b]
  (if d.bankInUse b then 1 else 0) + (if k.powered then 2 else 0) + (if k.waitedNow then 4 else 0)
  + (if k.boostPeak.isSome then 8 else 0) + (if k.fallbackNow then 16 else 0) + (if k.limiting then 32 else 0)
  + (if k.groundOff then 64 else 0) + (if k.degraded then 128 else 0) + (if k.degraded then 256 else 0)
  + (if k.highFault then 512 else 0)

/-- Table 8.17: the channel status word. -/
def Dev.channelStatus (d : Dev) (ch : Fin 32) : Nat :=
  let c := d.valve.channels[ch]
  let bit := fun (k : Nat) (b : Bool) => if b then 2 ^ k else 0
  bit 0 (c.mode = .peak || c.mode = .hold) + bit 1 (c.mode = .hold) + bit 2 (c.mode = .tripped) + bit 3 c.openOn
  + bit 4 c.groundOn + bit 5 c.supplyOn + bit 6 c.openOff + bit 7 c.groundOff + bit 8 c.supplyOff
  + bit 9 c.notTested + bit 10 c.shortPulse + bit 11 c.unreachable
  + bit 12 (d.valve.banks[bankOf ch].degraded || c.senseFault) + bit 13 c.senseFault + bit 14 c.missed
  + bit 15 (c.mode = .retired)

/-- Table 8.15: the drive status word. -/
def Dev.driveStatus (d : Dev) : Nat :=
  (List.finRange 4).foldl (fun n b => n + if d.valve.banks[b].degraded then 2 ^ b.val else 0) 0
  + (if d.pd.v1 < 6000 then 16 else 0) + (if d.pd.v2 < 6000 then 32 else 0)
  + (if d.valve.boost.state = 5 then 64 else 0) + (if d.hlt.enforcing then 128 else 0)

/-- R493: a write to 0x2500:07 asks for a retired channel's return test. -/
def channelReturnAct (v : Nat) (d : Dev) : Dev :=
  if h : v < 32 then d.channel ⟨v, h⟩ fun c => { c with returning := c.mode = .retired, testDue := false } else d

/-! ### Meanings -/

/-- CHANNEL_SWITCH_ON (R198). -/
def execChannelSwitchOn (ch : Fin 32) (t : Nat) (s : State) : Host.Outcome State Fault Refusal :=
  s.act t fun d => (d.soonerOff ch).onFrame (· = .valveOn ch) (channelOnEff · ch)

/-- CHANNEL_SWITCH_OFF (R198). -/
def execChannelSwitchOff (ch : Fin 32) (t : Nat) (s : State) : Host.Outcome State Fault Refusal :=
  s.act t fun d => d.onFrame (· = .valveOff ch) (channelOffEff · ch)

/-- PWM_SLOT_START (R205, R206). -/
def execPwmSlotStart (ch : Fin 32) (t : Nat) (s : State) : Host.Outcome State Fault Refusal :=
  s.act t fun d => slotStartEff (d.soonerOff ch) ch

/-- VALVE_RATE_EDGE (R206). -/
def execValveRateEdge (ch : Fin 32) (duty t : Nat) (s : State) : Host.Outcome State Fault Refusal :=
  s.act t fun d => d.onFrame (· = .valveRate ch duty) fun d => if d.driven ch then rateEdgeEff d ch duty else d

/-- END_OF_ON_TIME (R206). -/
def execEndOfOnTime (ch : Fin 32) (t : Nat) (s : State) : Host.Outcome State Fault Refusal :=
  s.act t fun d => onTimeEndEff (d.sooner ch) ch

/-- ARRIVAL_KINK (R208). -/
def execArrivalKink (ch : Fin 32) (kink : Int) (t : Nat) (s : State) : Host.Outcome State Fault Refusal :=
  s.act t fun d => arrivalKinkEff d ch kink

/-- END_OF_PEAK (R198). -/
def execEndOfPeak (ch : Fin 32) (t : Nat) (s : State) : Host.Outcome State Fault Refusal :=
  s.act t fun d => endOfPeakEff (d.sooner ch) ch

/-- WAIT_LIMIT (R202). -/
def execWaitLimit (ch : Fin 32) (t : Nat) (s : State) : Host.Outcome State Fault Refusal :=
  s.act t fun d => waitLimitEff d ch

/-- RELEASE_KINK (R208). -/
def execReleaseKink (ch : Fin 32) (kink : Int) (t : Nat) (s : State) : Host.Outcome State Fault Refusal :=
  s.act t fun d => releaseKinkEff d ch kink

/-- RELEASE_END (R198). -/
def execReleaseEnd (ch : Fin 32) (t : Nat) (s : State) : Host.Outcome State Fault Refusal :=
  s.act t fun d => releaseEndEff d ch

/-- OVERCURRENT_TRIP (R211). -/
def execOvercurrentTrip (ch : Fin 32) (t : Nat) (s : State) : Host.Outcome State Fault Refusal :=
  s.act t fun d => if d.driven ch then tripEff d ch (d.valve.channels[ch].mode ≠ .off) else d

/-- CHANNEL_BACK_OFF_END (R211). -/
def execChannelBackOffEnd (ch : Fin 32) (t : Nat) (s : State) : Host.Outcome State Fault Refusal :=
  s.act t fun d => backOffEndEff d ch

/-- ON_STATE_DIAGNOSTIC (R210). -/
def execOnStateDiagnostic (ch : Fin 32) (diag : OnDiag) (t : Nat) (s : State) : Host.Outcome State Fault Refusal :=
  s.act t fun d => onDiagEff d ch diag

/-- OFF_STATE_TEST (R210). -/
def execOffStateTest (ch : Fin 32) (res : OffTest) (t : Nat) (s : State) : Host.Outcome State Fault Refusal :=
  s.act t fun d => offTestEff d ch res

/-- HOLD_UNREACHABLE (R200). -/
def execHoldUnreachable (ch : Fin 32) (t : Nat) (s : State) : Host.Outcome State Fault Refusal :=
  s.act t fun d => holdUnreachableEff d ch

/-- COMMON_CURRENT_LIMIT (R211). -/
def execCommonCurrentLimit (bank : Fin 4) (t : Nat) (s : State) : Host.Outcome State Fault Refusal :=
  s.act t fun d => commonLimitEff d bank

/-- COMMON_RESTORE (R211). -/
def execCommonRestore (bank : Fin 4) (t : Nat) (s : State) : Host.Outcome State Fault Refusal :=
  s.act t fun d => commonRestoreEff d bank

/-- SENSE_WINDOW (R212). -/
def execSenseWindow (bank : Fin 4) (figs : SenseFigures) (t : Nat) (s : State) : Host.Outcome State Fault Refusal :=
  s.act t fun d => if d.pd.armed then senseWindowEff d bank figs else d

/-- CHANNEL_RETURN_WRITE (R493): a write to 0x2500:07. -/
def execChannelReturnWrite (acc : Accessor) (v : Int) (s : State) : Host.Outcome State Fault Refusal :=
  s.logicNow fun d => d.writeObject acc 0x250007 (.num v) false none (channelReturnAct v.toNat)

/-- BOOST_START_TIMEOUT (R197). -/
def execBoostStartTimeout (t : Nat) (s : State) : Host.Outcome State Fault Refusal := s.act t boostTimeoutEff

/-- BOOST_RESTART (R197). -/
def execBoostRestart (t : Nat) (s : State) : Host.Outcome State Fault Refusal := s.act t boostRestartEff

/-- BOOST_FALLBACK (R196). -/
def execBoostFallback (vbst t : Nat) (s : State) : Host.Outcome State Fault Refusal :=
  s.act t fun d => boostFallbackEff d vbst

/-- BOOST_OVERVOLTAGE (R195). -/
def execBoostOvervoltage (vbst t : Nat) (s : State) : Host.Outcome State Fault Refusal :=
  s.act t fun d => boostOvervoltageEff d vbst

/-- BOOST_READY (R195, R196). -/
def execBoostReady (vbst t : Nat) (s : State) : Host.Outcome State Fault Refusal :=
  s.act t fun d => boostReadyEff d vbst

end Sys2Proof.Machine
end

