-- ==== Sys2Proof/Machine/LoadSwitch.lean ====
section
/-! DEFINITION. The protected load switches and limp-home (chapter 9). -/

namespace Sys2Proof.Machine

/-- An object of a load switch. -/
def switchAdr (n : Fin 8) (sub : Nat) : Nat := adr (0x2610 + n) sub

/-- Update one load switch. -/
def Dev.switch (d : Dev) (n : Fin 8) (f : Switch → Switch) : Dev :=
  { d with lsw := { d.lsw with switches := updateAt d.lsw.switches n f } }

/-- What the power die tells the logic die reaches it only while the logic die runs. -/
def Dev.told (d : Dev) (f : Dev → Dev) : Dev := if d.power.run = .running then f d else d

/-- R97: t_e of the present batch. -/
def Dev.te (d : Dev) : Nat := d.seq.t0 + 7 * d.periodNs / 10 + 20000

/-- R219: the VBAT of a switch, mV. -/
def Dev.switchVbat (d : Dev) (n : Fin 8) : Nat := if n.val < 4 then d.pd.v1 else d.pd.v2

/-- R228, R229, R436: commands, diagnostics and limp-home act. -/
def Dev.switchesAct (d : Dev) : Bool := d.pd.powered && !d.pd.reversed && !d.pd.pgndOpen && !d.pd.latched

/-- R221: mode of a switch. -/
def Dev.switchMode (d : Dev) (n : Fin 8) : Nat := d.nat (switchAdr n 1)

/-- R221: the switch takes commands: the power die armed with its clock, the switches enabled, its mode not unused. -/
def Dev.switchInUse (d : Dev) (n : Fin 8) : Bool :=
  d.switchesAct && d.pd.armed && d.flag 0x260001 && d.switchMode n ≠ 0

/-- Turn a switch's output off. -/
def Switch.off (c : Switch) (now : Nat) : Switch :=
  { c with on := false, pulseEnd := none, offSince := if c.on then now else c.offSince }

/-- R226: nothing keeps a switch from conducting: no latch, no back-off, no wait for the local restart. -/
def Switch.ready (c : Switch) : Bool := !c.latched && c.backOff.isNone && !c.hot

/-- R224, R226: a switch that is to be on starts: at once when switched, at its next period start when pulsed. -/
def Dev.switchStart (d : Dev) (n : Fin 8) : Dev :=
  d.switch n fun c =>
    if !c.ready then c
    else if d.switchMode n = 2 then { c with attempt := true, onSince := d.time.now }
    else { c with on := true, onSince := d.time.now }

/-- R226: a latched switch returns to service: its event clears. -/
def Dev.switchUnlatch (d : Dev) (n : Fin 8) : Dev :=
  (d.switch n fun c => { c with latched := false, rearmed := false, trips := 0, backOff := none }).told fun d =>
    d.raise 0x0902 2 n [(2, Config.eventCause 0x0902 0)]

/-- R221, R224, R226: a switch takes the state that a command carries. -/
def switchCommandEff (d : Dev) (n : Fin 8) (want : Bool) : Dev :=
  let c := d.lsw.switches[n]
  if !d.switchesAct || !d.pd.armed || d.pd.clockLost then d
  else if !want || !d.switchInUse n then
    d.switch n fun c => { (c.off d.time.now) with cmd := want, attempt := false, rearmed := c.latched && !want }
  else
    let d := if c.latched && c.rearmed then d.switchUnlatch n else d
    if c.cmd then d else (d.switch n fun c => { c with cmd := true }).switchStart n

/-- R223: the period of a pulse generator, ns. -/
def Dev.pulsePeriod (d : Dev) (g : Fin 8) : Nat := 1000 * d.nat (adr (0x2618 + g) 1)

/-- R223: a period of the generator starts at a chain time a whole number of periods from its phase. -/
def Dev.pulseStarts (d : Dev) (g : Fin 8) (t : Nat) : Bool :=
  (t + d.pulsePeriod g - 1000 * d.nat (adr (0x2618 + g) 2) % d.pulsePeriod g) % d.pulsePeriod g = 0

/-- R223, R224, Table 9.2: a generator starts a period: each pulsed switch on it that is commanded on begins its on-time. -/
def pulsePeriodEff (d : Dev) (g : Fin 8) : Dev :=
  if d.pd.clockLost || !d.pulseStarts g d.chain then d
  else (List.finRange 8).foldl (fun d n =>
    let c := d.lsw.switches[n]
    if !d.switchInUse n || d.switchMode n ≠ 2 || d.nat (switchAdr n 2) ≠ g.val || !c.cmd || !c.ready then d
    else
      let duty := if d.te ≤ d.chain then (d.takenInt (switchAdr n 3)).toNat else c.duty
      let period := d.pulsePeriod g
      let on := period * duty / 10000
      d.switch n fun c =>
        let c := { c with attempt := false, duty := duty, onSince := if c.attempt then d.time.now else c.onSince }
        if on < 50000 then c.off d.time.now
        else if period - on < 50000 then { c with on := true, pulseEnd := none }
        else { c with on := true, pulseEnd := some (d.chain + on) }) d

/-- R224: the on-time of a pulsed switch ends. -/
def pulseEndEff (d : Dev) (n : Fin 8) : Dev :=
  match d.lsw.switches[n].pulseEnd with
  | none => d
  | some e => if d.pd.clockLost || d.chain < e then d else d.switch n fun c => c.off d.time.now

/-- R226: the back-off before the next attempt, ns, by the trips so far. -/
def backOffTime (trips : Nat) : Nat :=
  if trips ≤ 1 then 10000000 else if trips = 2 then 100000000 else 1000000000

/-- R225, R226: a trip turns the switch off; the fourth in a row latches it off. -/
def switchTripEff (d : Dev) (n : Fin 8) (thermal : Bool) : Dev :=
  let c := d.lsw.switches[n]
  if !c.on then d
  else
    let k := c.trips + 1
    let d := d.bump (switchAdr n 0x0D)
    let d := d.switch n fun c => { (c.off d.time.now) with
      trips := k, backOff := some (d.time.now + backOffTime k), hot := thermal, latched := k ≥ 4, rearmed := false
      thermal := thermal, overload := c.overload || !thermal, attempt := false }
    let d := if k ≥ 4 then d.switch n fun c => { c with backOff := none } else d
    d.told fun d =>
      let d := (d.fault 10 (k ≥ 4) n).raise 0x0901 0 n [(2, Config.eventCause 0x0901 (if thermal then 1 else 0))]
      if k ≥ 4 then d.raise 0x0902 1 n [(2, Config.eventCause 0x0902 (if thermal then 1 else 0))] else d

/-! ### Limp-home -/

/-- R233: limp-home control applies. -/
def Dev.limpApplies (d : Dev) : Bool :=
  d.switchesAct && !d.pd.armed && d.lsw.enable && d.lsw.store ≠ 2

/-- Table 9.4: a switch is mapped. -/
def Dev.mapped (d : Dev) (n : Fin 8) : Bool := d.lsw.mapping.testBit (4 * n + 3)

/-- Table 9.4: the level of a switch's input. -/
def Dev.limpInput (d : Dev) (n : Fin 8) : Bool :=
  d.lsw.inputs[(⟨d.lsw.mapping / 2 ^ (4 * n.val) % 4, Nat.mod_lt _ (by decide)⟩ : Fin 4)]

/-- R233: one switch under limp-home control follows its input. -/
def Dev.limpSwitch (d : Dev) (n : Fin 8) : Dev :=
  let want := d.mapped n && d.limpInput n
  d.switch n fun c =>
    let c := { c with limp := c.limp || d.mapped n, cmd := false, attempt := false, pulseEnd := none }
    let c := if c.latched && !want then { c with rearmed := true }
      else if c.latched && c.rearmed then { c with latched := false, rearmed := false, trips := 0, backOff := none }
      else c
    if want && c.ready then (if c.on then c else { c with on := true, onSince := d.time.now }) else c.off d.time.now

/-- R234, Table 9.5: unarmed, the switches are under limp-home control or off. -/
def Dev.settleLimp (d : Dev) : Dev :=
  if d.pd.armed then d
  else if d.limpApplies then
    let d := if d.lsw.limpHome then d
      else ({ d with lsw := { d.lsw with limpHome := true, entries := u32 (d.lsw.entries + 1) } } : Dev).told fun d =>
        d.raise 0x0905 0 0xFFFF [(8, Config.eventCause 0x0905 0)]
    (List.finRange 8).foldl Dev.limpSwitch d
  else
    { d with lsw := { d.lsw with
      limpHome := false
      switches := d.lsw.switches.map fun c => { (c.off d.time.now) with cmd := false, attempt := false } } }

/-- R226: an attempt after the back-off, and in a thermal attempt after the local restart. -/
def Dev.switchAttempt (d : Dev) (n : Fin 8) : Dev :=
  if d.pd.armed then (if d.switchInUse n && d.lsw.switches[n].cmd then d.switchStart n else d) else d.settleLimp

/-- R226: the back-off of a tripped switch has run. -/
def switchBackOffEff (d : Dev) (n : Fin 8) : Dev :=
  match d.lsw.switches[n].backOff with
  | none => d
  | some e => if d.time.now < e then d else (d.switch n fun c => { c with backOff := none }).switchAttempt n

/-- R226: the switch has cooled to its local restart. -/
def switchRestartEff (d : Dev) (n : Fin 8) : Dev :=
  if d.lsw.switches[n].hot then (d.switch n fun c => { c with hot := false }).switchAttempt n else d

/-- R226, Table 9.3: 1 s on without a trip: the count returns to 0 and the overload report clears. -/
def switchCountEff (d : Dev) (n : Fin 8) : Dev :=
  let c := d.lsw.switches[n]
  if (c.on || (d.switchMode n = 2 && c.cmd && c.ready && !c.attempt)) && c.onSince + 1000000000 ≤ d.time.now then
    d.switch n fun c => { c with trips := 0, overload := false, thermal := false }
  else d

/-- Table 9.5: arming turns every switch off and resets the trip counts; a back-off runs on. -/
def Dev.armSwitches (d : Dev) : Dev :=
  { d with lsw := { d.lsw with
    limpHome := false
    switches := d.lsw.switches.map fun c => { (c.off d.time.now) with
      cmd := false, attempt := false, trips := 0 } } }

/-- R231, R233: a filtered limp-home input. -/
def limpInputEff (d : Dev) (n : Fin 4) (level : Bool) : Dev :=
  if d.pd.powered then ({ d with lsw := { d.lsw with inputs := d.lsw.inputs.set n level } } : Dev).settleLimp else d

/-- R234: LHEN after its filter. -/
def limpEnableEff (d : Dev) (level : Bool) : Dev :=
  if d.pd.powered then ({ d with lsw := { d.lsw with enable := level } } : Dev).settleLimp else d

/-- R232: at a swap the power die stores a mapping that differs from the stored one. -/
def Dev.storeMapping (d : Dev) : Dev :=
  let v := d.nat 0x260007
  if v = d.lsw.mapping || d.lsw.writes ≥ 10000 || !d.pd.powered then d
  else { d with lsw := { d.lsw with mapping := v, store := 0, writes := d.lsw.writes + 1 } }

/-! ### Diagnostics -/

/-- R227: an off-state test may run. -/
def Dev.switchTestable (d : Dev) (n : Fin 8) : Bool :=
  let c := d.lsw.switches[n]
  d.switchInUse n && !c.cmd && !c.on && c.offSince + 5000000 ≤ d.time.now && d.flag (switchAdr n 7)
    && 6000 ≤ d.switchVbat n && d.switchVbat n ≤ 40000 && !d.pd.loadDump

/-- Raise or clear a load-switch condition when it changes. -/
def Dev.switchEvent (d : Dev) (code : Nat) (n : Fin 8) (was now : Bool) (cause : Nat) : Dev :=
  if was = now then d
  else d.told fun d => d.raise code (if now then 1 else 2) n [(2, Config.eventCause code cause)]

/-- R227, Table 9.3: once per test period, step 1 looks for a short to supply; step 2, run only when step 1 is clean, for an
open load. -/
def switchOffTestEff (d : Dev) (n : Fin 8) (shortSupply openLoad : Bool) : Dev :=
  if !d.switchTestable n then d.switch n fun c => { c with notTested := true }
  else if d.lsw.switches[n].testedAt.any fun x => d.time.now < x + 1000 * d.nat 0x260002 then d
  else
    let c := d.lsw.switches[n]
    let supply := shortSupply || (c.supplyOff && c.cleanSupply + 1 < 3)
    let tested := !shortSupply
    let run := if !tested then c.openOffRun else if openLoad then c.openOffRun + 1 else 0
    let clean := if !tested then c.cleanOpenOff else if openLoad then 0 else c.cleanOpenOff + 1
    let openOff := if run ≥ 3 then true else c.openOff && clean < 3
    let d := d.switch n fun c => { c with
      notTested := false, testedAt := some d.time.now, supplyOff := supply, cleanSupply := if shortSupply then 0 else c.cleanSupply + 1
      openOffRun := run, cleanOpenOff := clean, openOff := openOff }
    (d.switchEvent 0x0904 n c.supplyOff supply 0).switchEvent 0x0903 n c.openOff openOff 0

/-- R227, Table 9.3: an on-state open-load check: low for 10 ms, or at the end of an on-time of 200 µs or more. -/
def switchOpenEff (d : Dev) (n : Fin 8) (low : Bool) : Dev :=
  let c := d.lsw.switches[n]
  let pulse := d.pulsePeriod ⟨d.nat (switchAdr n 2) % 8, Nat.mod_lt _ (by decide)⟩ * c.duty / 10000
  let checks := if d.switchMode n = 2 then decide (200000 ≤ pulse) else c.on
  if !d.switchInUse n || !c.cmd || !checks || d.switchVbat n < 6000 then d
  else
    let run := if low then c.openRun + 1 else 0
    let clean := if low then 0 else c.cleanOn + 1
    let openOn := if run ≥ 3 then true else c.openOn && clean < 3
    (d.switch n fun c => { c with openRun := run, cleanOn := clean, openOn := openOn }).switchEvent 0x0903 n
      c.openOn openOn 1

/-- Table 9.7: the switch status word. -/
def Dev.switchStatus (d : Dev) (n : Fin 8) : Nat :=
  let c := d.lsw.switches[n]
  let bit := fun (k : Nat) (b : Bool) => if b then 2 ^ k else 0
  bit 0 c.on + bit 1 (d.switchMode n = 2 && c.cmd) + bit 2 (c.notTested || !d.switchTestable n) + bit 3 c.openOn
  + bit 4 c.openOff + bit 5 c.supplyOff + bit 6 c.overload + bit 7 c.thermal + bit 8 c.backOff.isSome
  + bit 9 c.latched + bit 10 c.limp

/-- 0x2600:03: switches with a fault bit set. -/
def Dev.switchFaults (d : Dev) : Nat :=
  (List.finRange 8).foldl (fun m n => m + if d.switchStatus n / 8 % 128 ≠ 0 then 2 ^ n.val else 0) 0

/-- 0x2600:05: switches that conduct. -/
def Dev.switchActual (d : Dev) : Nat :=
  (List.finRange 8).foldl (fun m n => m + if d.lsw.switches[n].on then 2 ^ n.val else 0) 0

/-- 0x2600:06: limp-home inputs. -/
def Dev.limpInputs (d : Dev) : Nat :=
  (List.finRange 4).foldl (fun m k => m + if d.lsw.inputs[k] then 2 ^ k.val else 0) 0 + if d.lsw.enable then 16 else 0

/-- R221: the commanded mask and the commanded states of the switches are one set of bits. -/
def switchWriteAct (a : Nat) (v : Int) (d : Dev) : Dev :=
  if a = 0x260004 then
    (List.finRange 8).foldl (fun d n => d.put (switchAdr n 8) (if v.toNat.testBit n then 1 else 0)) d
  else d.putBit 0x260004 (a / 256 - 0x2610) (v ≠ 0)

/-- R222: at boot the commanded state comes from the start-up mask. -/
def Dev.loadStartMask (d : Dev) : Dev :=
  switchWriteAct 0x260004 (d.int 0x26000C) (d.put 0x260004 (d.int 0x26000C))

/-- R221: the addresses of the commanded state. -/
def switchCommandAdr (a : Nat) : Bool := a = 0x260004 || (a % 256 = 8 && 0x2610 ≤ a / 256 && a / 256 ≤ 0x2617)

/-! ### Meanings -/

/-- LOAD_SWITCH_COMMAND_WRITE (R221): a write to 0x2600:04 or 0x2610:08. -/
def execLoadSwitchCommandWrite (acc : Accessor) (addr : Nat) (v : Int) (s : State) : Host.Outcome State Fault Refusal :=
  s.logicNow fun d =>
    if switchCommandAdr addr then d.writeObject acc addr (.num v) false none (switchWriteAct addr v) else d

/-- LOAD_SWITCH_COMMAND (R221, R222). -/
def execLoadSwitchCommand (sw : Fin 8) (t : Nat) (s : State) : Host.Outcome State Fault Refusal :=
  s.act t fun d =>
    if d.frameDue (· = .loadSwitch sw true) then switchCommandEff (d.takeFrames (· = .loadSwitch sw true)) sw true
    else d.onFrame (· = .loadSwitch sw false) (switchCommandEff · sw false)

/-- PULSE_PERIOD_START (R223, R224). -/
def execPulsePeriodStart (g : Fin 8) (t : Nat) (s : State) : Host.Outcome State Fault Refusal :=
  s.act t fun d => pulsePeriodEff d g

/-- PULSE_END (R224). -/
def execPulseEnd (sw : Fin 8) (t : Nat) (s : State) : Host.Outcome State Fault Refusal :=
  s.act t fun d => pulseEndEff d sw

/-- LOAD_SWITCH_TRIP (R225, R226). -/
def execLoadSwitchTrip (sw : Fin 8) (thermal : Bool) (t : Nat) (s : State) : Host.Outcome State Fault Refusal :=
  s.act t fun d => switchTripEff d sw thermal

/-- LOAD_SWITCH_BACK_OFF_END (R226). -/
def execLoadSwitchBackOffEnd (sw : Fin 8) (t : Nat) (s : State) : Host.Outcome State Fault Refusal :=
  s.act t fun d => switchBackOffEff d sw

/-- LOAD_SWITCH_THERMAL_RESTART (R226). -/
def execLoadSwitchThermalRestart (sw : Fin 8) (t : Nat) (s : State) : Host.Outcome State Fault Refusal :=
  s.act t fun d => switchRestartEff d sw

/-- LOAD_SWITCH_COUNT_CLEAR (R226). -/
def execLoadSwitchCountClear (sw : Fin 8) (t : Nat) (s : State) : Host.Outcome State Fault Refusal :=
  s.act t fun d => switchCountEff d sw

/-- LOAD_SWITCH_OFF_STATE_TEST (R227). -/
def execLoadSwitchOffStateTest (sw : Fin 8) (shortSupply openLoad : Bool) (t : Nat) (s : State) :
    Host.Outcome State Fault Refusal :=
  s.act t fun d => switchOffTestEff d sw shortSupply openLoad

/-- LOAD_SWITCH_OPEN_LOAD (R227). -/
def execLoadSwitchOpenLoad (sw : Fin 8) (low : Bool) (t : Nat) (s : State) : Host.Outcome State Fault Refusal :=
  s.act t fun d => switchOpenEff d sw low

/-- LIMP_HOME_INPUT (R231, R233). -/
def execLimpHomeInput (n : Fin 4) (level : Bool) (t : Nat) (s : State) : Host.Outcome State Fault Refusal :=
  s.act t fun d => limpInputEff d n level

/-- LHEN_CHANGE (R231, R234). -/
def execLhenChange (level : Bool) (t : Nat) (s : State) : Host.Outcome State Fault Refusal :=
  s.act t fun d => limpEnableEff d level

end Sys2Proof.Machine
end

