-- ==== Sys2Proof/Machine/Bridge.lean ====
section
/-! DEFINITION. The bridge PWM generator (chapter 10). Edge instants inside a period are in units of 125 ps. -/

namespace Sys2Proof.Machine

/-! ### Settings -/

/-- An object of a pair. -/
def pairAdr (p : Fin 16) (sub : Nat) : Nat := adr (0x2710 + p) sub

/-- An object of a stepper slot. -/
def slotAdr (k : Fin 4) (sub : Nat) : Nat := adr (0x2720 + k) sub

/-- R250: the slot of a pair. -/
def slotOf (p : Fin 16) : Fin 4 := ⟨p.val / 4, by omega⟩

/-- Update one pair. -/
def Dev.pair (d : Dev) (p : Fin 16) (f : Pair → Pair) : Dev :=
  { d with pwm := { d.pwm with pairs := updateAt d.pwm.pairs p f } }

/-- Update every pair. -/
def Dev.eachPair (d : Dev) (f : Pair → Pair) : Dev := { d with pwm := { d.pwm with pairs := d.pwm.pairs.map f } }

/-- R238, R244 to R246, R250: the settings of a pair in the live set. -/
def Dev.livePair (d : Dev) (p : Fin 16) : PairSet :=
  ⟨d.nat (pairAdr p 1), d.nat (pairAdr p 4), d.nat (pairAdr p 5), d.nat (pairAdr p 6), d.nat (pairAdr p 7),
    d.nat (pairAdr p 8), d.nat (slotAdr (slotOf p) 1)⟩

/-- R253: the settings in force: those of the live set, or, for a pulse that was running at a swap, those before it. -/
def Dev.pairSet (d : Dev) (p : Fin 16) : PairSet := (d.pwm.pairs[p].held).getD (d.livePair p)

/-- R238, R250: mode of a pair. -/
def Dev.pairMode (d : Dev) (p : Fin 16) : Nat := (d.pairSet p).mode

/-- R245: the dead-time floor of the present band, ns. -/
def Dev.deadFloor (d : Dev) : Nat := d.nat (adr 0x2700 (9 + d.hlt.bands[(2 : Fin 7)]))

/-- R245: the effective minimum dead time, ns. -/
def Dev.deadMin (d : Dev) (p : Fin 16) : Nat := max (d.pairSet p).deadMin d.deadFloor

/-- R245: the effective maximum dead time, ns. -/
def Dev.deadMax (d : Dev) (p : Fin 16) : Nat := max (d.pairSet p).deadMax d.deadFloor

/-- Table 10.2, rows 1 and 2, and R251 for a slot without an axis: both outputs are low. -/
def Dev.pairLow (d : Dev) (p : Fin 16) : Bool :=
  !d.pd.armed || d.pd.clockLost || !d.flag 0x270001 || d.pairMode p = 0 || d.pwm.pairs[p].idle || d.pwm.pairs[p].faulted
    || (d.pairMode p = 2 && (d.pairSet p).axis = 255)

/-- Table 10.7 [0]: the pair drives. -/
def Dev.pairDrives (d : Dev) (p : Fin 16) : Bool := !d.pairLow p

/-! ### Requests -/

/-- R239: the high-side request window of a period of `f` units with compare `c`: from, to. -/
def requestWindow (centre : Bool) (f c : Nat) : Nat × Nat :=
  if c ≥ f then (0, f) else if centre then ((f - c) / 2, (f - c) / 2 + c) else (0, c)

/-- R239: the compare after the rule on short requests: a request shorter than the effective minimum dead time plus
8 ns is dropped. -/
def shortened (f c dead : Nat) : Nat :=
  let least := 8 * (dead + 8)
  if c ≥ f then f else if c = 0 then 0 else if c < least then 0 else if f - c < least then f else c

/-- R239, R243: the high-side request window of the running period; with coarse placement its edges lie on whole ticks. -/
def Dev.pairWindow (d : Dev) (p : Fin 16) : Nat × Nat :=
  let c := d.pwm.pairs[p]
  let f := 8 * c.length
  let w := requestWindow c.centre f (shortened f c.compare (d.deadMin p))
  if d.pwm.coarse then (w.1 / 32 * 32, w.2 / 32 * 32) else w

/-- R239: the compare-driven high-side request at an offset of the running period. -/
def Dev.compareHigh (d : Dev) (p : Fin 16) (x : Nat) : Bool := (d.pairWindow p).1 ≤ x && x < (d.pairWindow p).2

/-- Table 10.2, rows 4 to 6, and R247: the final requests for (GH, GL) at an offset of the running period. -/
def Dev.requests (d : Dev) (p : Fin 16) (x : Nat) : Bool × Bool :=
  let c := d.pwm.pairs[p]
  let high := d.compareHigh p x
  let fh := c.force % 4
  let fl := c.force / 4 % 4
  let h := if fh = 1 then false else if fh = 2 then true else if fl = 2 then false else high
  let l := if fl = 1 then false else if fl = 2 then true else if fh = 2 then false else !high
  let h := h && !c.cut
  let l := if c.cut && (d.pairSet p).action = 1 then false else l
  if h && l then (false, false) else (h, l)

/-- The offset of now in the running period, 125 ps. -/
def Dev.pairOffset (d : Dev) (p : Fin 16) : Nat := 8 * (d.chain - d.pwm.pairs[p].start)

/-- R244, R249: bring a pair's outputs to their requests: an output that is to be low falls at once; one that is to be
high waits for its dead time. -/
def Dev.settlePair (d : Dev) (p : Fin 16) : Dev :=
  if d.pairLow p then
    d.pair p fun c => { c with gh := false, gl := false, wantH := false, wantL := false, changed := 8 * d.chain }
  else if d.pwm.frozen then d
  else
    let (h, l) := d.requests p (d.pairOffset p)
    d.pair p fun c => { c with
      gh := c.gh && h, gl := c.gl && l, wantH := h, wantL := l
      changed := if h = c.wantH && l = c.wantL then c.changed else 8 * d.chain }

/-- The instant (125 ps) of the latest transition of a pair's requests, the edges of the running period among them. -/
def Dev.lastTransition (d : Dev) (p : Fin 16) : Nat :=
  let c := d.pwm.pairs[p]
  let f := 8 * c.length
  let w := d.pairWindow p
  let now := 8 * d.chain
  let edge := fun (e : Nat) (best : Nat) => if 8 * c.start + e ≤ now && best < 8 * c.start + e then 8 * c.start + e else best
  if w.2 = 0 || (w.1 = 0 && w.2 ≥ f) then c.changed else edge w.2 (edge w.1 c.changed)

/-- R244, R245: the incoming output rises: after the margin where the swing was seen, or at the effective maximum; never
before the effective minimum. -/
def Dev.deadTimeEnd (d : Dev) (p : Fin 16) (seen : Bool) : Dev :=
  if d.pairLow p || d.pwm.frozen then d
  else
    let (h, l) := d.requests p (d.pairOffset p)
    let c := d.pwm.pairs[p]
    if (h = c.gh && l = c.gl) then d
    else
      let past := 8 * d.chain - d.lastTransition p
      let free := if seen then past + 8 * (d.pairSet p).margin else past
      let dead := max free (8 * d.deadMin p)
      if !seen && past < 8 * d.deadMax p then d
      else
        let d := d.pair p fun c => { c with
          gh := h, gl := l, wantH := h, wantL := l
          pinMin := c.pinMin || (seen && free < 8 * d.deadMin p), pinMax := c.pinMax || !seen }
        d.put (pairAdr p (if h then 0x12 else 0x11)) (min 65535 dead : Nat)

/-! ### Period starts -/

/-- R241: the first start at or after an instant on the grid of a period and phase (ticks): the length of the running
period, ns. -/
def periodLength (now period phase : Nat) : Nat :=
  let p := 4 * period
  let off := (now + p - 4 * phase % p) % p
  if off = 0 then p else p - off

/-- R238: an instant lies on the grid of a period and a phase (ticks). -/
def onGrid (t period phase : Nat) : Bool :=
  let p := 4 * max 1 period
  (t + p - 4 * phase % p) % p = 0

/-- R240: the values of a load-all command for a pair. -/
def loadOf (p : Fin 16) : PlAction → Option (Nat × Nat × Nat)
  | .pwmLoad q period phase compare => if p = q then some (period, phase, compare) else none
  | _ => none

/-- R251: the value of a slot compare command for a pair. -/
def compareOf (p : Fin 16) : PlAction → Option Nat
  | .slotCompare q compare => if p = q then some compare else none
  | _ => none

/-- R242: the value of a force command for a pair. -/
def forceOf (p : Fin 16) : PlAction → Option Nat
  | .pwmForce q v => if p = q then some v else none
  | _ => none

/-- R240: a pair in mode 1 applies the values of its load-all command, whose instant is t_e; its mask bit clears. -/
def Dev.takeLoad (d : Dev) (p : Fin 16) : Dev :=
  match d.lastFrame (loadOf p) with
  | none => d
  | some (period, phase, compare) =>
    let d := (d.takeFrames fun a => (loadOf p a).isSome).pair p fun c => { c with
      idle := false, period := period, phase := phase, compare := compare, loading := false }
    d.putBit 0x270003 p false

/-- R251: a pair in mode 2 takes the latest slot compare whose instant, 4 µs after its update, has come, and its period from
its slot. -/
def Dev.takeSlot (d : Dev) (p : Fin 16) : Dev :=
  let k := slotOf p
  let due := d.lastFrame (compareOf p)
  (d.takeFrames fun a => (compareOf p a).isSome).pair p fun c => { c with
    period := d.nat (slotAdr k 5), phase := d.nat (slotAdr k 6), centre := d.nat (slotAdr k 7) = 1
    idle := c.idle && due.isNone
    compare := due.getD c.compare }

/-- R238, R241: a period of the pair starts now: at the end of the running one and on the grid in force; where none runs, on the
grid of the values that begin it. -/
def Dev.periodDue (d : Dev) (p : Fin 16) : Bool :=
  let c := d.pwm.pairs[p]
  if c.length ≠ 0 then c.start + c.length ≤ d.chain && onGrid d.chain c.period c.phase
  else if d.pairMode p = 1 then
    match d.lastFrame (loadOf p) with
    | some (period, phase, _) => onGrid d.chain period phase
    | none => c.idle || onGrid d.chain c.period c.phase
  else d.pairMode p = 0 || onGrid d.chain (d.nat (slotAdr (slotOf p) 5)) (d.nat (slotAdr (slotOf p) 6))

/-- R238 to R243, R246: a period of a pair starts. -/
def periodStartEff (d : Dev) (p : Fin 16) : Dev :=
  if d.pwm.frozen || !d.pd.armed || d.pd.clockLost || !d.periodDue p then d
  else
    let d := d.pair p fun c => { c with held := none }
    if d.pairMode p = 0 then d.settlePair p
    else
      let d := if d.pairMode p = 1 then
          (d.pair p fun c => { c with centre := d.nat (pairAdr p 2) = 1 }).takeLoad p
        else d.takeSlot p
      if d.pwm.pairs[p].idle then d
      else
        let input := (d.pairSet p).input
        let active := if h : input < 4 then d.pwm.inputs[(⟨input, h⟩ : Fin 4)] else false
        let now := d.chain
        let d := d.pair p fun c => { c with
          start := now, length := periodLength now (max 1 c.period) c.phase, tap := d.pwm.taps, overlaps := 0
          cut := active, cutBatch := c.cutBatch || active }
        let d := if active then d.bump (pairAdr p 0x14) else d
        let c := d.pwm.pairs[p]
        let f := 8 * c.length
        let s := shortened f c.compare (d.deadMin p)
        let d := if s ≠ min c.compare f then
            (d.pair p fun c => { c with dropBatch := true }).bump (pairAdr p 0x15)
          else d
        d.settlePair p

/-- R253: at a swap a pulse that is running completes under the settings before it; with the generator disabled every output
is low. -/
def Dev.swapPairs (d before : Dev) : Dev :=
  (List.finRange 16).foldl (fun (d : Dev) (p : Fin 16) =>
    let d := if before.pairLow p || before.pairSet p = d.pairSet p then d
      else d.pair p fun c => { c with held := some (before.pairSet p) }
    if d.pairLow p then d.settlePair p else d) d

/-! ### Forces, faults, calibration -/

/-- R242: the force command of a pair whose tick is now comes into force. -/
def Dev.takeForce (d : Dev) (p : Fin 16) : Dev :=
  match d.lastFrame (forceOf p) with
  | none => d
  | some v =>
    let due := d.frameDue fun a => (forceOf p a).isSome
    let d := d.takeFrames fun a => (forceOf p a).isSome
    if due then (d.pair p fun c => { c with force := v }).settlePair p else d

/-- R242: at t_e the forces that the batch took come into force on every pair at the same tick. -/
def forceApplyEff (d : Dev) : Dev :=
  if d.pwm.frozen || !d.pd.armed || d.pd.clockLost then d else (List.finRange 16).foldl Dev.takeForce d

/-- R243: one measurement of the replica line: 24 to 48 taps per tick are good; a failure places edges on whole ticks
until 100 good ones in a row. -/
def calibrationEff (d : Dev) (taps : Nat) : Dev :=
  let d := d.put 0x270004 (min 63 taps : Nat)
  if taps < 24 || 48 < taps then
    let d := d.bump 0x270005
    let was := d.pwm.coarse
    let d := { d with pwm := { d.pwm with coarse := true, goodRun := 0, taps := min 63 taps } }
    if was then d else d.told fun d => d.raise 0x0A03 1 0xFFFF [(3, taps)]
  else
    let n := d.pwm.goodRun + 1
    let ends := d.pwm.coarse && n ≥ 100
    let d := { d with pwm := { d.pwm with goodRun := n, taps := taps, coarse := d.pwm.coarse && !ends } }
    if ends then d.told fun d => d.raise 0x0A03 2 0xFFFF [(3, taps)] else d

/-- R246: a fault input: each pair that names it is cut for the rest of its period when it asserts. -/
def faultInputEff (d : Dev) (n : Fin 4) (active : Bool) : Dev :=
  let d := { d with pwm := { d.pwm with inputs := d.pwm.inputs.set n active } }
  if !active then d
  else (List.finRange 16).foldl (fun d p =>
    if (d.pairSet p).input = n.val && d.pairDrives p && !d.pwm.pairs[p].cut then
      ((d.pair p fun c => { c with
          cut := true, cutBatch := true
          gh := false, gl := c.gl && (d.pairSet p).action = 0 }).bump (pairAdr p 0x14)).settlePair p
    else d) d

/-- R247, R248: one overlap interval: both outputs are low for it; 8 in one period, or one longer than the period, fault
the pair. -/
def interlockEff (d : Dev) (p : Fin 16) (duration : Nat) : Dev :=
  if d.pairLow p then d
  else
    let c := d.pwm.pairs[p]
    let d := (d.bump (pairAdr p 0x13)).bump 0x270006
    let d := d.pair p fun c => { c with overlaps := c.overlaps + 1, gh := false, gl := false }
    let d := d.told fun d => d.raise 0x0A01 0 p []
    if c.overlaps + 1 ≥ 8 || c.length < duration then
      let d := (d.pair p fun c => { c with faulted := true }).putBit 0x270007 p true
      (d.settlePair p).told fun d =>
        d.raise 0x0A02 1 p [(2, Config.eventCause 0x0A02 (if c.length < duration then 1 else 0)), (3, c.overlaps + 1)]
    else d

/-- R248: at a boundary, the pairs that were written to 0x2700:08 return to service. -/
def Dev.returnPairs (d : Dev) : Dev :=
  (List.finRange 16).foldl (fun d p =>
    if d.pwm.pairs[p].returning then
      let was := d.pwm.pairs[p].faulted
      let d := (d.pair p fun c => { c with returning := false, faulted := false, overlaps := 0 }).putBit 0x270007 p false
      if was then d.raise 0x0A02 2 p [(2, Config.eventCause 0x0A02 2), (3, 0)] else d
    else d) d

/-- R248: a write to 0x2700:08. -/
def pairReturnAct (v : Nat) (d : Dev) : Dev :=
  if h : v < 16 then d.pair ⟨v, h⟩ fun c => { c with returning := c.faulted } else d

/-- R254: the forwarded clock is lost: every GH and GL low, and the commands that wait are discarded. -/
def clockLossEff (d : Dev) : Dev :=
  if d.pd.powered && !d.pd.clockLost then
    let d := { d with pd := { d.pd with clockLost := true, commands := [] }, pwm := { d.pwm with lostFlag := true } }
    let d := d.eachPair fun c => { c with gh := false, gl := false, wantH := false, wantL := false }
    d.told fun d => d.fault 16 false 0xFFFF
  else d

/-- R252, R254: the safe state: every output low, every pair idle; a debug freeze ends. -/
def Dev.safePairs (d : Dev) : Dev :=
  let d := { d with pwm := { d.pwm with frozen := false } }
  d.eachPair fun c => { c with
    gh := false, gl := false, wantH := false, wantL := false, idle := true, loading := false, length := 0, held := none }

/-! ### The Phase A snapshot and stepper slots -/

/-- R236, R240, R242: the Phase A snapshot takes the staged values of the pairs in the load-all mask, and the forces that
differ from those in force; the commands that carry them to the power die apply from t_e. -/
def Dev.takeStaged (d : Dev) : Dev :=
  if !d.commanding then d
  else (List.finRange 16).foldl (fun d (p : Fin 16) =>
    let d := if d.bit 0x270003 p && !d.pwm.pairs[p].loading && d.nat (pairAdr p 1) = 1 then
        (d.pair p fun c => { c with loading := true }).issue d.te
          (.pwmLoad p (d.nat (pairAdr p 9)) (d.nat (pairAdr p 0x0A)) (d.nat (pairAdr p 0x0B)))
      else d
    let force := d.nat (pairAdr p 0x0C)
    if force = d.pwm.pairs[p].force then d else d.issue d.te (.pwmForce p force)) d

/-- R251: an entry of the slot's sine table. -/
def Dev.tableEntry (d : Dev) (k : Fin 4) (a : Nat) : Int :=
  let b := d.str (adr (0x2728 + d.nat (slotAdr k 2)) 0)
  let w := leNat ((b.drop (2 * (a % 1024))).take 2)
  if w < 32768 then w else (w : Int) - 65536

/-- R251: round(F × (1 + A × s) / 2) with A in 0.01 % and s = entry / 32767. -/
def slotCompare (f amp : Nat) (entry : Int) : Nat :=
  let num : Int := f * (10000 * 32767 + amp * entry)
  let den : Int := 2 * 10000 * 32767
  ((2 * num + den) / (2 * den)).toNat

/-- R236, R251, R252: at an axis update the slot turns its axis's address into four compares, which go to the power die for
the first period start at least 4 µs later, from t_e of the first armed batch on. -/
def Dev.slotUpdate (d : Dev) (k : Fin 4) (address : Nat) : Dev :=
  let d := { d with pwm := { d.pwm with amplitude :=
    if d.te ≤ d.chain then d.pwm.amplitude.set k (d.takenInt (slotAdr k 3)).toNat else d.pwm.amplitude } }
  let d := d.put (slotAdr k 4) address
  let f := 32 * d.nat (slotAdr k 5)
  let amp := d.pwm.amplitude[k]
  let ca := slotCompare f amp (d.tableEntry k address)
  let cb := slotCompare f amp (d.tableEntry k (address + 256))
  if !d.pd.armed || !d.pd.opened.any (· ≤ d.chain) then d
  else
    let put := fun (d : Dev) (j : Fin 4) (c : Nat) =>
      d.issue (d.chain + 4000) (.slotCompare ⟨4 * k.val + j.val, by omega⟩ c)
    put (put (put (put d 0 ca) 1 (f - ca)) 2 cb) 3 (f - cb)

/-- Table 10.6: the generator status word. -/
def Dev.generatorStatus (d : Dev) : Nat :=
  (if d.pwm.lostFlag then 1 else 0) + (if d.nat 0x270007 = 0 then 0 else 2) + (if d.pwm.coarse then 4 else 0)
  + (if d.pwm.frozen then 8 else 0)

/-- Table 10.7: the pair status word. -/
def Dev.pairStatus (d : Dev) (p : Fin 16) : Nat :=
  let c := d.pwm.pairs[p]
  let bit := fun (k : Nat) (b : Bool) => if b then 2 ^ k else 0
  bit 0 (d.pairMode p ≠ 0 && !c.idle && !c.faulted) + bit 1 (c.force ≠ 0)
  + bit 2 ((d.pairSet p).deadMin < d.deadFloor || (d.pairSet p).deadMax < d.deadFloor) + bit 3 c.pinMin + bit 4 c.pinMax
  + bit 5 c.dropBatch + bit 6 c.cutBatch + bit 7 c.faulted + bit 8 c.idle + bit 9 d.pwm.frozen

/-! ### Meanings -/

/-- PWM_PERIOD_START (R238). -/
def execPwmPeriodStart (p : Fin 16) (t : Nat) (s : State) : Host.Outcome State Fault Refusal :=
  s.act t fun d => periodStartEff d p

/-- LOAD_ALL_WRITE (R240): a write to 0x2700:03. -/
def execLoadAllWrite (acc : Accessor) (v : Int) (s : State) : Host.Outcome State Fault Refusal :=
  s.logicNow fun d => d.writeObject acc 0x270003 (.num v) false none id

/-- FORCE_WRITE (R242): a write to a pair's force object. -/
def execForceWrite (acc : Accessor) (p : Fin 16) (v : Int) (s : State) : Host.Outcome State Fault Refusal :=
  s.logicNow fun d => d.writeObject acc (pairAdr p 0x0C) (.num v) false none id

/-- FORCE_APPLY (R242). -/
def execForceApply (t : Nat) (s : State) : Host.Outcome State Fault Refusal := s.act t forceApplyEff

/-- DELAY_LINE_CALIBRATION (R243). -/
def execDelayLineCalibration (taps t : Nat) (s : State) : Host.Outcome State Fault Refusal :=
  s.act t fun d => if d.pd.powered && !d.pd.clockLost then calibrationEff d taps else d

/-- SWITCH_NODE_SWING (R244). -/
def execSwitchNodeSwing (p : Fin 16) (t : Nat) (s : State) : Host.Outcome State Fault Refusal :=
  s.act t fun d => d.deadTimeEnd p true

/-- DEAD_TIME_MAXIMUM (R245). -/
def execDeadTimeMaximum (p : Fin 16) (t : Nat) (s : State) : Host.Outcome State Fault Refusal :=
  s.act t fun d => d.deadTimeEnd p false

/-- PWM_FAULT_INPUT (R246). -/
def execPwmFaultInput (n : Fin 4) (active : Bool) (t : Nat) (s : State) : Host.Outcome State Fault Refusal :=
  s.act t fun d => faultInputEff d n active

/-- INTERLOCK_EVENT (R248). -/
def execInterlockEvent (p : Fin 16) (duration t : Nat) (s : State) : Host.Outcome State Fault Refusal :=
  s.act t fun d => interlockEff d p duration

/-- PAIR_RETURN_WRITE (R248): a write to 0x2700:08. -/
def execPairReturnWrite (acc : Accessor) (v : Int) (s : State) : Host.Outcome State Fault Refusal :=
  s.logicNow fun d => d.writeObject acc 0x270008 (.num v) false none (pairReturnAct v.toNat)

/-- FORWARDED_CLOCK_LOSS (R254). -/
def execForwardedClockLoss (t : Nat) (s : State) : Host.Outcome State Fault Refusal := s.act t clockLossEff

end Sys2Proof.Machine
end

