-- ==== Sys2Proof/Machine/Axis.lean ====
section
/-! DEFINITION. The meter motion axes (chapter 11): planner, blends, interpolator, coarse steps, moves and the state
machine of Table 11.1. -/

namespace Sys2Proof.Machine

/-- An object of an axis. -/
def axisAdr (n : Fin 32) (sub : Nat) : Nat := adr (0x2810 + n) sub

/-- Update one axis. -/
def Dev.axis (d : Dev) (n : Fin 32) (f : Axis → Axis) : Dev := { d with axes := updateAt d.axes n f }

/-- R257: a position in microsteps as a wrapping I32. -/
def wrap32 (x : Int) : Int := (x + 2 ^ 31) % 2 ^ 32 - 2 ^ 31

/-- R257: the whole position, microsteps. -/
def Axis.whole (x : Axis) : Int := wrap32 (x.pos / 65536)

/-- R257: the microstep address. -/
def Axis.address (x : Axis) : Nat := (x.whole % 1024).toNat

/-- R272: the remaining distance. -/
def Axis.rest (x : Axis) : Int := if x.remaining then wrap32 (x.goal - x.whole) else 0

/-- R261 to R264: the profile settings of an axis: speeds in microsteps/s, accelerations, blend kind and updates. -/
structure Profile where
  start : Nat
  stop : Nat
  brk : Nat
  a1 : Nat
  a2 : Nat
  top : Nat
  kind : Nat
  blend : Nat
  quick : Nat

/-- The live profile of an axis. -/
def Dev.profile (d : Dev) (n : Fin 32) : Profile :=
  let g := fun s => d.nat (axisAdr n s)
  ⟨g 5, g 6, g 7, g 8, g 9, g 0x0A, g 0x0B, g 0x0C / 25, g 0x0D⟩

/-! ### The planner (R261 to R264) -/

/-- R264: how far, in 1/2^60, the acceleration has moved in the middle of step `k` of a blend of `n` updates. -/
def blendShape (kind k n : Nat) : Int :=
  if kind = 1 then
    let x := sineQuarter (2 * k + 1) (2 * n)
    x * x / 2 ^ 60
  else
    let a : Int := 2 * k + 1
    let b : Int := 2 * n
    2 ^ 60 * (3 * a * a * b - 2 * a * a * a) / (b * b * b)

/-- R261: the acceleration of the unblended profile from a speed towards a target (1/40,000 microstep/s). -/
def planAccel (p : Profile) (quick : Bool) (v target : Nat) : Int :=
  if v < target then (if v < 40000 * p.brk then p.a1 else p.a2 : Nat)
  else if target < v then
    - ((if quick then p.quick else if 40000 * p.brk < v then p.a2 else p.a1 : Nat) : Int)
  else 0

/-- R264: the corner ahead of a speed under an acceleration: its speed and the acceleration after it; none where it
adjoins a speed step or there is none. -/
def nextCorner (p : Profile) (a : Int) (v target : Nat) : Option (Nat × Int) :=
  let b := 40000 * p.brk
  if 0 < a then
    if v < b && b < target then some (b, p.a2) else some (target, 0)
  else if a < 0 then
    if target < b && b < v then some (b, - (p.a1 : Int))
    else if target = 0 then none else some (target, 0)
  else none

/-- R264: the blend time in force at a corner, in updates: at most the length `before` of the segment up to the corner, and
at most that of the segment after it. -/
def blendUpdates (p : Profile) (before corner : Nat) (after : Int) (target : Nat) : Nat :=
  if after = 0 then min p.blend before
  else min (min p.blend before) ((max corner target - min corner target) / after.natAbs)

/-- What an update makes of an axis's speed: speed, acceleration, running blend, and the updates since the last corner. -/
structure SpeedStep where
  speed : Nat
  accel : Int
  blend : Option (Int × Int × Nat × Nat)
  segment : Nat

/-- R261, R263, R264: one update of an axis's speed towards a target. -/
def speedUpdate (p : Profile) (x : Axis) (target : Nat) : SpeedStep :=
  let v := x.speed
  if v = 0 then
    if target = 0 then ⟨0, 0, none, 0⟩
    else
      let v' := min (40000 * p.start) target
      let a := planAccel p false v' target
      if v' = 0 then ⟨min a.toNat target, a, none, 0⟩ else ⟨v', a, none, 0⟩
  else
    let clamp := fun (a : Int) =>
      let w : Int := v + a
      (if v < target then min w target else if target < v then max w target else (target : Int)).toNat
    let fin := fun (y : SpeedStep) => if target = 0 && y.speed ≤ 40000 * p.stop then ⟨0, 0, none, 0⟩ else y
    match (if x.quick then none else x.blend) with
    | some (a0, a1, n, k) =>
      let a := a0 + (a1 - a0) * blendShape p.kind k n / 2 ^ 60
      if k + 1 ≥ n then fin ⟨clamp a, a1, none, n / 2⟩ else fin ⟨clamp a, a, some (a0, a1, n, k + 1), 0⟩
    | none =>
      let want := planAccel p x.quick v target
      let turn : Option (Int × Nat) :=
        if p.kind = 0 || p.blend = 0 || x.quick then none
        else if (0 < want && 0 < x.accel) || (want < 0 && x.accel < 0) then
          match nextCorner p x.accel v target with
          | some (c, a') =>
            let away := max v c - min v c
            let n := blendUpdates p (x.segment + away / x.accel.natAbs) c a' target
            if n ≠ 0 && 2 * away ≤ x.accel.natAbs * n then some (a', n) else none
          | none => none
        else if want ≠ x.accel then
          let n := blendUpdates p (2 * x.segment) v want target
          if n ≠ 0 then some (want, n) else none
        else none
      match turn with
      | some (a', n) =>
        let a := x.accel + (a' - x.accel) * blendShape p.kind 0 n / 2 ^ 60
        if n = 1 then fin ⟨clamp a, a', none, 0⟩ else fin ⟨clamp a, a, some (x.accel, a', n, 1), 0⟩
      | none => fin ⟨clamp want, want, none, if want = x.accel then x.segment + 1 else 0⟩

/-! ### Targets -/

/-- R267: the target speed of a rate (0.001 seeds/s), microsteps/s: r × 1,024 × E × G ÷ N. -/
def Axis.meterSpeed (x : Axis) : Nat :=
  x.rate * 1024 * x.set.cycles * x.set.gear / (65536 * 1000 * max 1 x.set.seeds)

/-- R268, R272: an edge from the outlet's queue acts on the axis. -/
def Axis.takeEdge (x : Axis) : AxisEdge → Axis
  | .switch on =>
    let x := { x with
      called := on, target := if on then x.meterSpeed else 0, targetReverse := x.set.invert, quick := x.quick && !on }
    if on && x.state ≠ 4 && x.target ≠ 0 then { x with state := 1 } else x
  | .rate r =>
    let x := { x with rate := r }
    if x.called && x.state ≤ 1 then
      { x with target := x.meterSpeed, state := if x.state = 0 && x.meterSpeed ≠ 0 then 1 else x.state }
    else x
  | .halt =>
    if x.state = 1 || x.state = 2 then { x with state := 2, target := 0, quick := true, blend := none } else x

/-- R268: the order of the edges of one update: switch edges, rate edges, and then a hard block's stop. -/
def AxisEdge.rank : AxisEdge → Nat
  | .switch _ => 0
  | .rate _ => 1
  | .halt => 2

/-- R268: take the edges that are due: switch edges before rate edges of one update. -/
def Axis.takeEdges (x : Axis) (now : Nat) : Axis :=
  let due := x.edges.filter fun e => e.1 ≤ now
  let x := { x with edges := x.edges.filter fun e => now < e.1 }
  let take := fun (x : Axis) (k : Nat) => (due.filter fun e => e.2.rank = k).foldl (fun x e => x.takeEdge e.2) x
  take (take (take x 0) 1) 2

/-- Table 11.1: a move command; `target` is the move target that the batch took. -/
def Axis.command (x : Axis) (c : Nat) (target : Int) : Axis :=
  match c with
  | 1 => if x.set.mode = 2 && x.state ≠ 4 then
      { x with goal := target, remaining := true, state := 1, quick := false, braking := false } else x
  | 2 => if x.state = 1 then { x with state := 2, target := 0 } else x
  | 3 => if x.state = 1 || x.state = 2 then { x with state := 2, target := 0, quick := true, blend := none } else x
  | 4 => if x.state = 3 && x.set.mode = 2 then { x with
      state := 1, quick := false, braking := false, remaining := true, goal := if x.remaining then x.goal else x.whole } else x
  | 5 => if x.state = 3 then { x with state := 0, remaining := false } else x
  | _ => x

/-- The commands and position writes that an update takes: those of earlier batches, once t_e has passed. -/
def Dev.axisCommands (d : Dev) (n : Fin 32) (x : Axis) : Axis :=
  if d.chain < d.te then x
  else
    let ripe := fun (b : Nat) => b ≠ d.seq.number
    let x := (x.commands.filter fun c => ripe c.2).foldl (fun x c => x.command c.1 (d.takenInt (axisAdr n 0x12))) x
    let x := { x with commands := x.commands.filter fun c => !ripe c.2 }
    let x := (x.places.filter fun c => ripe c.2).foldl (fun x c => { x with
      pos := c.1 * 65536, uncertain := false, coarse := c.1, coarsePrev := c.1, coarseAt := none, coarsePrevAt := none }) x
    { x with places := x.places.filter fun c => !ripe c.2 }

/-! ### One update -/

/-- R261: where the speed reaches 0, Table 11.1 says which state follows; a deferred setting is taken there. -/
def Axis.atRest (x : Axis) : Axis :=
  if x.speed ≠ 0 then x
  else match x.state with
    | 1 => if x.set.mode = 1 && x.target = 0 then { x with state := 0, remaining := false } else x
    | 2 => { x with state := 3, quick := false }
    | _ => x

/-- R262: the move is complete: the last update takes what remains, and the fraction is cleared. -/
def Axis.arrive (x : Axis) : Axis :=
  { x with pos := 65536 * wrap32 x.goal, speed := 0, accel := 0, blend := none, state := 0, remaining := false
           uncertain := false, braking := false }

/-- Distance of one update (1/65,536 microstep) from the speeds before and after it (1/40,000 microstep/s). -/
def updateDistance (v v' : Nat) : Int := (((v + v') * 65536 / 3200000000 : Nat) : Int)

/-- R258: move an axis one update by a step of its speed. -/
def Axis.ride (x : Axis) (y : SpeedStep) : Axis :=
  let step := updateDistance (if x.speed = 0 then y.speed else x.speed) (if y.speed = 0 then x.speed else y.speed)
  { x with
    speed := y.speed, accel := y.accel, blend := y.blend, segment := y.segment
    pos := if x.reverse then x.pos - step else x.pos + step
    travel := x.travel + step }

/-- R258, R261: move an axis one update towards its planner's target. -/
def Axis.advance (x : Axis) (p : Profile) (target : Nat) : Axis :=
  let wrong := x.speed ≠ 0 && x.reverse ≠ x.targetReverse
  let x := if x.speed = 0 then { x with reverse := x.targetReverse } else x
  let t := 40000 * (if wrong then 0 else min target p.top)
  { x.ride (speedUpdate p x t) with saturated := p.top < target }

/-- R262: the speed at which a move ends: the stop speed, or the change of one update's deceleration where that is more. -/
def Profile.crawl (p : Profile) : Nat := max 1 (min (max p.stop (p.a1 / 40000)) p.top)

/-- R262, R264: one update of a move that decelerates towards its end: down the profile, and no slower than the speed at which
it ends. -/
def Axis.brake (x : Axis) (p : Profile) : Axis :=
  let least := 40000 * p.crawl
  if x.speed ≤ least then x.advance p p.crawl
  else
    let y := speedUpdate p x 0
    x.ride (if y.speed ≤ least then ⟨least, 0, none, 0⟩ else y)

/-- R262, R264: how far (1/65,536 microstep) the blended profile runs until a move that decelerates from now has the speed at
which it ends. -/
def brakeRun (p : Profile) : Nat → Axis → Int → Int
  | 0, _, gone => gone
  | fuel + 1, x, gone =>
    if x.speed ≤ 40000 * p.crawl then gone
    else
      let y := x.brake p
      brakeRun p fuel y (gone + (y.travel - x.travel))

/-- R262: whether this update is the last from which a move with a distance `ahead` stops at its target: after one more update
at speed it no longer could. -/
def Axis.mustBrake (x : Axis) (p : Profile) (ahead : Int) : Bool :=
  let y := x.advance p p.top
  decide (ahead - (y.travel - x.travel) < brakeRun p (y.speed + 65536) y 0)

/-- Modes 1 and 2: one update. -/
def Axis.plannedUpdate (x : Axis) (p : Profile) : Axis :=
  if x.state = 0 || x.state = 3 || x.state = 4 then x
  else if x.set.mode = 2 && x.state = 1 then
    let left : Int := 65536 * wrap32 (x.goal - x.whole) - x.pos % 65536
    let x := { x with targetReverse := if x.speed = 0 then decide (left < 0) else x.reverse }
    let ahead := if x.targetReverse then - left else left
    let slow := 40000 * p.crawl
    if left = 0 && x.speed ≤ slow then x.arrive
    else if ahead ≤ 0 then (({ x with braking := false } : Axis).advance p 0).atRest
    else
      let x := { x with braking := x.braking || x.mustBrake p ahead }
      let y := if x.braking then x.brake p else x.advance p p.top
      if y.speed ≤ slow && (ahead ≤ y.travel - x.travel || (x.braking && ahead * 40000 < 65536 * (p.crawl : Int))) then
        ({ x with travel := x.travel + ahead } : Axis).arrive
      else y
  else (x.advance p (if x.state = 2 then 0 else x.target)).atRest

/-- R271: mode 3: one update: one interval behind the coarse position, at most 256 microsteps. -/
def Axis.coarseUpdate (x : Axis) (now : Nat) : Axis :=
  let goal : Int := match x.coarsePrevAt, x.coarseAt with
    | some a, some b =>
      let span := 65536 * wrap32 (x.coarse - x.coarsePrev)
      let part := if b ≤ a then span else span * ((now : Int) - b) / ((b : Int) - a)
      65536 * x.coarsePrev + (if 0 ≤ span then min span (max 0 part) else max span (min 0 part))
    | _, _ => 65536 * x.coarsePrev
  let left := 65536 * wrap32 (goal / 65536 - x.whole) + goal % 65536 - x.pos % 65536
  let step := clampI (-16777216) 16777216 left
  { x with
    pos := x.pos + step, travel := x.travel + step.natAbs, saturated := decide (16777216 < left.natAbs)
    reverse := decide (step < 0), speed := step.natAbs * 1600000000 / 65536, state := if step = 0 then 0 else 1 }

/-! ### Destinations -/

/-- R260: the local slot that names an axis. -/
def Dev.axisSlot (d : Dev) (n : Fin 32) : Option (Fin 4) := (List.finRange 4).find? fun k => d.nat (slotAdr k 1) = n.val

/-- R330, R260: a guest is enumerated and not missing. -/
def Dev.guestThere (d : Dev) (g : Nat) : Bool :=
  if h : g < 16 then
    let r := d.rowDrives[(⟨g, h⟩ : Fin 16)]
    d.bit 0x2A0007 g && !(r.sent && r.quiet ≥ 3)
  else false

/-- Table 11.1: whether the destination of an axis is available, and the case of its loss. -/
def Dev.axisLinked (d : Dev) (n : Fin 32) : Bool × Nat :=
  let x := d.axes[n]
  if x.set.dest = 1 then
    match d.axisSlot n with
    | none => (false, 0)
    | some k =>
      if !d.pd.armed then (false, 0)
      else if d.pd.clockLost then (false, 2)
      else if (List.finRange 16).any fun p => slotOf p = k && d.pwm.pairs[p].faulted then (false, 1)
      else (true, 0)
  else if x.set.dest = 2 then (d.guestThere x.set.guest, 3)
  else (false, 0)

/-- R260, Table 11.4: an axis whose destination is named but not there. -/
def Dev.noDestination (d : Dev) (n : Fin 32) : Bool :=
  let x := d.axes[n]
  (x.set.dest = 1 && (d.axisSlot n).isNone) || (x.set.dest = 2 && !(x.set.guest < 16 && d.bit 0x2A0007 x.set.guest))

/-- Table 11.1: a lost destination freezes the axis; R273: its position becomes uncertain. -/
def Dev.checkLink (d : Dev) (n : Fin 32) : Dev :=
  let (ok, cause) := d.axisLinked n
  let x := d.axes[n]
  if ok then (if x.linked then d else d.axis n fun x => { x with linked := true })
  else if x.linked && x.set.dest ≠ 0 then
    (d.axis n fun x => { x with
      linked := false, state := if x.set.mode = 1 || x.set.mode = 2 then 4 else x.state, uncertain := true, speed := 0
      accel := 0, blend := none, block := [] }).raise
      0x0B01 0 n [(2, Config.eventCause 0x0B01 cause)]
  else d

/-- R265: what an update gives the destination: an address to the slot, or every eighth a block to the guest. -/
def Dev.emitAddress (d : Dev) (n : Fin 32) : Dev :=
  let x := d.axes[n]
  if x.state = 4 || x.set.dest = 0 then d
  else if x.set.dest = 1 then
    match d.axisSlot n with
    | some k => d.slotUpdate k x.address
    | none => d
  else
    let first := if x.block.isEmpty then d.chain + 1000 * x.set.lead else x.blockAt
    let block := x.block ++ [x.address]
    if block.length < 8 then d.axis n fun x => { x with block := block, blockAt := first }
    else
      let d := d.axis n fun x => { x with block := [], blockAt := 0 }
      if h : x.set.guest < 16 then
        if d.guestThere x.set.guest then
          ({ d with rowDrives := updateAt d.rowDrives ⟨x.set.guest, h⟩ fun r => { r with sent := true } } : Dev).send
            (.axisBlock x.set.guest (axisBody first x.set.channel (decide (x.speed = 0)) block))
        else d
      else d

/-- R269: the travel of an update counts now, or, for a guest-bound axis, at the guest's update instant. -/
def Axis.settleTravel (x : Axis) (now lead before : Int) : Axis :=
  if x.set.dest = 2 then
    let step := x.travel - before
    let later := if step = 0 then x.later else x.later ++ [((now + lead).toNat, step)]
    let due := later.filter fun e => (e.1 : Int) ≤ now
    { x with travel := before + due.foldl (fun n e => n + e.2) 0, later := later.filter fun e => now < e.1 }
  else x

/-- R274, Tables 11.2 and 11.3: the live settings that an axis takes only at standstill. -/
def Dev.axisSettings (d : Dev) (n : Fin 32) : AxisSettings :=
  let g := fun s => d.nat (axisAdr n s)
  ⟨g 1, g 2, g 3, g 4, g 0x0E, g 0x0F, g 0x10, g 0x11 ≠ 0, if g 2 = 2 then d.nat 0x280002 else 0,
    g 1 = 3 && d.nat 0x280004 = n.val⟩

/-- R274: take the changed settings of an axis that does not move. It is at standstill with them, or faulted still until its
destination is there (Table 11.1). -/
def Dev.takeSettings (d : Dev) (n : Fin 32) : Dev :=
  let set := d.axisSettings n
  d.axis n fun x => { x with
    set := set, deferred := false, remaining := false
    state := if x.state = 4 && set.dest ≠ 0 && (set.mode = 1 || set.mode = 2) then 4 else 0
    linked := false, block := [], coarse := x.whole, coarsePrev := x.whole, coarseAt := none, coarsePrevAt := none }

/-- R258: one axis at an update tick. -/
def Dev.axisStep (d : Dev) (n : Fin 32) : Dev :=
  let x := d.axes[n]
  if x.set.mode = 0 && x.edges.isEmpty && x.commands.isEmpty && x.places.isEmpty && x.set.dest = 0 then d
  else
    let d := d.checkLink n
    let now := d.chain
    let p := d.profile n
    let x := d.axisCommands n (d.axes[n].takeEdges now)
    let before := x.travel
    let x := if x.set.mode = 3 then x.coarseUpdate now else if x.set.mode = 0 then x else x.plannedUpdate p
    let x := { x with pos := 65536 * wrap32 (x.pos / 65536) + x.pos % 65536 }
    let x := x.settleTravel now (1000 * x.set.lead) before
    let d := (d.axis n fun _ => x).emitAddress n
    if x.deferred && (x.state = 0 || x.state = 3) then d.takeSettings n else d

/-- R258: every axis advances at a chain-time multiple of 25 µs. -/
def axisUpdateEff (d : Dev) : Dev :=
  if d.flag 0x280001 && d.chain % 25000 = 0 then (List.finRange 32).foldl Dev.axisStep d else d

/-! ### Boundaries and swaps -/

/-- Table 11.1: at a boundary a faulted axis whose destination is back goes to Held. -/
def Dev.relinkAxes (d : Dev) : Dev :=
  (List.finRange 32).foldl (fun d (n : Fin 32) =>
    if d.axes[n].state = 4 && (d.axisLinked n).1 then
      d.axis n fun x => { x with state := 3, linked := true, called := false }
    else d) d

/-- R274: at a swap, changed settings of an axis that does not move are taken; a moving axis gets a stop command and defers
them. -/
def Dev.swapAxes (d : Dev) : Dev :=
  (List.finRange 32).foldl (fun d (n : Fin 32) =>
    let new := d.axisSettings n
    let x := d.axes[n]
    if new = x.set then d
    else if x.state = 0 || x.state = 3 || x.state = 4 || x.set.mode = 0 then d.takeSettings n
    else d.axis n fun x => { (x.command 2 0) with deferred := true }) d

/-- R269: the batch's travel becomes seeds, and is kept for PAINT. -/
def Dev.closeTravel (d : Dev) : Dev :=
  (List.finRange 32).foldl (fun d (n : Fin 32) =>
    let x := d.axes[n]
    if x.set.mode = 0 && x.travel = 0 && x.lastTravel = 0 then d
    else
      let s := x.seedRest + x.travel * x.set.seeds * 2 ^ 32 / (1024 * x.set.cycles * max 1 x.set.gear)
      let d := d.axis n fun x => { x with travel := 0, lastTravel := x.travel, seedRest := s % 2 ^ 32 }
      d.add (axisAdr n 0x19) (s / 2 ^ 32).toNat) d

/-- R330: a batch without a status of a guest that is sent axis blocks. -/
def Dev.countQuiet (d : Dev) : Dev :=
  { d with rowDrives := d.rowDrives.map fun r => if r.sent then { r with quiet := r.quiet + 1 } else r }

/-- Table 11.4: the axis status word. -/
def Dev.axisStatus (d : Dev) (n : Fin 32) : Nat :=
  let x := d.axes[n]
  let bit := fun (k : Nat) (b : Bool) => if b then 2 ^ k else 0
  bit 0 (x.speed ≠ 0) + bit 1 (x.speed ≠ 0 && x.reverse) + bit 2 x.blend.isSome + bit 3 x.saturated
  + bit 4 (d.noDestination n) + bit 5 x.uncertain + bit 6 x.deferred

/-- 0x2810:15: the speed now, microsteps/s. -/
def Axis.speedNow (x : Axis) : Int :=
  let v : Int := (x.speed / 40000 : Nat)
  if x.reverse then - v else v

/-- R272: a write to 0x2810:13 waits for the first update after t_e of the next batch. -/
def moveCommandAct (n : Fin 32) (c : Nat) (d : Dev) : Dev :=
  d.axis n fun x => { x with commands := x.commands ++ [(c, d.seq.number)] }

/-- R273: a write to 0x2810:14 away from standstill has the state error. -/
def positionState (d : Dev) (n : Fin 32) : Option Nat := if d.axes[n].state = 0 then none else some 0x08000022

/-- R273: a position write waits for the first update after t_e of the next batch. -/
def positionAct (n : Fin 32) (v : Int) (d : Dev) : Dev :=
  d.axis n fun x => { x with places := x.places ++ [(v, d.seq.number)] }

/-- One write of 0x2810:13. -/
def moveWrite (acc : Accessor) (n : Fin 32) (c : Nat) (s : State) : Host.Outcome State Fault Refusal :=
  s.logicNow fun d => d.writeObject acc (axisAdr n 0x13) (.num c) false none (moveCommandAct n c)

/-- R259, R270: the axis that follows the coarse steps. -/
def Dev.steppedAxis (d : Dev) : Option (Fin 32) :=
  (List.finRange 32).find? fun n => d.axes[n].set.mode = 3 && d.axes[n].set.stepped

/-- R270: a coarse step, stamped to 4 ns. -/
def coarseStepEff (d : Dev) (forward : Bool) : Dev :=
  match d.steppedAxis with
  | none => d
  | some n =>
    let size : Int := d.nat (axisAdr n 0x1B)
    let d := d.bump 0x280006
    d.axis n fun x => { x with
      coarsePrev := x.coarse, coarse := wrap32 (if forward then x.coarse + size else x.coarse - size)
      coarsePrevAt := if x.coarseForward = forward then x.coarseAt else none
      coarseAt := some (d.chain / 4 * 4), coarseForward := forward }

/-- R271: no further edge within the timeout: the axis goes on to the last coarse position. -/
def coarseTimeoutEff (d : Dev) : Dev :=
  match d.steppedAxis with
  | none => d
  | some n =>
    match d.axes[n].coarseAt with
    | none => d
    | some b =>
      if d.chain < b + 1000 * d.nat (axisAdr n 0x1C) then d
      else d.axis n fun x => { x with coarsePrev := x.coarse, coarseAt := none, coarsePrevAt := none }

/-- R330: a row-drive guest's status. -/
def rowDriveEff (d : Dev) (st : RowDriveStatus) : Dev :=
  { d with rowDrives := updateAt d.rowDrives st.guest fun r => { r with last := some st, quiet := 0 } }

/-! ### Meanings -/

/-- AXIS_UPDATE (R258). -/
def execAxisUpdate (t : Nat) (s : State) : Host.Outcome State Fault Refusal := s.logic t axisUpdateEff

/-- MOVE_GO (R272): move command 1. -/
def execMoveGo (acc : Accessor) (ax : Fin 32) (s : State) : Host.Outcome State Fault Refusal := moveWrite acc ax 1 s

/-- MOVE_STOP (R272): move command 2. -/
def execMoveStop (acc : Accessor) (ax : Fin 32) (s : State) : Host.Outcome State Fault Refusal := moveWrite acc ax 2 s

/-- QUICK_STOP (R272): move command 3. -/
def execQuickStop (acc : Accessor) (ax : Fin 32) (s : State) : Host.Outcome State Fault Refusal := moveWrite acc ax 3 s

/-- MOVE_RESUME (R272): move command 4. -/
def execMoveResume (acc : Accessor) (ax : Fin 32) (s : State) : Host.Outcome State Fault Refusal := moveWrite acc ax 4 s

/-- MOVE_ABANDON (R272): move command 5. -/
def execMoveAbandon (acc : Accessor) (ax : Fin 32) (s : State) : Host.Outcome State Fault Refusal := moveWrite acc ax 5 s

/-- POSITION_WRITE (R273): a write to 0x2810:14. -/
def execPositionWrite (acc : Accessor) (ax : Fin 32) (v : Int) (s : State) : Host.Outcome State Fault Refusal :=
  s.logicNow fun d => d.writeObject acc (axisAdr ax 0x14) (.num v) false (positionState d ax) (positionAct ax v)

/-- COARSE_STEP (R270). -/
def execCoarseStep (forward : Bool) (t : Nat) (s : State) : Host.Outcome State Fault Refusal :=
  s.logic t fun d => coarseStepEff d forward

/-- COARSE_STEP_TIMEOUT (R271). -/
def execCoarseStepTimeout (t : Nat) (s : State) : Host.Outcome State Fault Refusal := s.logic t coarseTimeoutEff

/-- ROW_DRIVE_STATUS (R330). -/
def execRowDriveStatus (st : RowDriveStatus) (t : Nat) (s : State) : Host.Outcome State Fault Refusal :=
  s.logic t fun d => rowDriveEff d st

end Sys2Proof.Machine
end

