-- ==== Sys2Proof/Machine/Tether.lean ====
section
/-! DEFINITION. The power link, the tether, supervision and the power die's supplies (R20 to R34, R217, R228 to R230,
R254, R436, R437, R471, R473). -/

namespace Sys2Proof.Machine

/-! ### The logic side of the tether -/

/-- R30: both permissions are less than 1 ms old. -/
def Dev.permitted (d : Dev) : Bool :=
  let fresh := fun (x : Option Nat) => match x with | some a => decide (d.time.now < a + 1000000) | none => false
  fresh d.teth.seqAt && fresh d.teth.coreAt

/-- R45: the device time at which the running phase ends. -/
def Dev.phaseEnd (d : Dev) : Int :=
  d.seq.t0 + d.periodNs * ([5, 60, 70, 100].getD d.seq.phase 100) / 100 - d.time.offset

/-- R30: the batch sequencer refreshes its permission at every phase start and throughout the phase that it has started; a
sequencer that starts no further phase refreshes no more. -/
def Dev.refreshSequencer (d : Dev) : Dev :=
  if d.seq.running then
    let fresh := min d.time.now d.phaseEnd.toNat
    { d with teth := { d.teth with seqAt := some (max fresh (d.teth.seqAt.getD 0)) } }
  else d

/-- R480 step 5, R306: states in which the armed flag is not set. -/
def Dev.mayArm (d : Dev) : Bool :=
  !(d.nvm.heldUnarmed || d.nvm.decommissioned || d.hlt.outOfService || d.ch.conflict || d.power.run = .recovery)

/-- R30, R480: a tether token, from the boundary of batch 0 on, while both permissions are fresh; armed from the tenth. -/
def tetherTokenEff (d : Dev) : Dev :=
  let d := d.refreshSequencer
  if d.seq.running && d.permitted then
    let n := d.teth.sent + 1
    let d := d.send (.token d.teth.count (n ≥ 10 && d.mayArm))
    { d with teth := { d.teth with sent := n, count := (d.teth.count + 1) % 16 } }
  else d

/-- R30, R27: core 1 refreshes its permission, unless it is halted, has stopped or has been revoked. -/
def permissionRefreshEff (d : Dev) : Dev :=
  if d.power.stoppedAt.isNone && !d.teth.revoked && !d.power.halted1 then
    { d with teth := { d.teth with coreAt := some d.time.now, lastRefresh := d.time.now } }
  else d

/-- R27, R30: a permission that has not been refreshed for 1 ms is void. -/
def permissionLapseEff (d : Dev) (which : Permission) : Dev :=
  let old := fun (x : Option Nat) => match x with
    | some a => if a + 1000000 ≤ d.time.now then none else some a
    | none => none
  match which with
  | .sequencer => { d with teth := { d.teth with seqAt := old d.teth.seqAt } }
  | .core1 => { d with teth := { d.teth with coreAt := old d.teth.coreAt } }

/-- R27: one round of mutual checks: at the third failure in a row core 1 stops refreshing, or core 0 revokes core 1's
permission, and a supervision reset is started, unless a core is halted from the debug port. -/
def supervisionCheckEff (d : Dev) (core0Up core1Up : Bool) : Dev :=
  let f0 := if core0Up && !d.power.halted0 then 0 else if core1Up && !d.power.halted1 then d.teth.failed0 + 1 else d.teth.failed0
  let f1 := if core1Up && !d.power.halted1 then 0 else if core0Up && !d.power.halted0 then d.teth.failed1 + 1 else d.teth.failed1
  let d := { d with teth := { d.teth with failed0 := f0, failed1 := f1 } }
  let starts := !d.power.halted0 && !d.power.halted1
  let d := if f0 ≥ 3 && d.power.stoppedAt.isNone then
      let d := { d with power := { d.power with stoppedAt := some d.time.now } }
      ({ d with teth := { d.teth with resetPending := d.teth.resetPending || starts } } : Dev).fault 15 false 0
    else d
  if f1 ≥ 3 && !d.teth.revoked then
    ({ d with teth := { d.teth with
      coreAt := none, revoked := true, lastRefresh := d.time.now
      resetPending := d.teth.resetPending || starts } } : Dev).fault 15 false 1
  else d

/-! ### The power die -/

/-- R32, Table 1.7: every output of the power die into its safe state. -/
def Dev.safeOutputs (d : Dev) : Dev :=
  let d := (d.safeValves).safePairs
  let d := { d with
    pd := { d.pd with armed := false, validRun := 0, commands := [], opened := none }
    lsw := { d.lsw with switches := d.lsw.switches.map fun (c : Switch) => { (c.off d.time.now) with cmd := false, attempt := false } } }
  d.settleLimp

/-- R31, R34: tether silence: the safe state, counted with the cause that the tokens after the last valid one set. -/
def tetherSilenceEff (d : Dev) : Dev :=
  if d.pd.powered && d.pd.armed && d.pd.lastValid + 2000000 ≤ d.time.now then
    { d with pd := { d.pd with entries := u32 (d.pd.entries + 1), cause := d.pd.trail, unread := true } }.safeOutputs
  else d

/-- R34: the logic die reads the count and the cause of a safe state that it has not read, and records it. -/
def Dev.readTether (d : Dev) : Dev :=
  if d.pd.powered && d.pd.unread then
    let c := d.pd.cause
    let d := (d.put 0x2E0401 d.pd.entries).put 0x2E0402 c
    (({ d with pd := { d.pd with unread := false, cause := 0 } } : Dev).fault 14 false 0xFFFF).raise 0x1402 0 0xFFFF
      [(2, c), (3, d.pd.entries)]
  else if d.pd.powered then d.put 0x2E0401 d.pd.entries
  else d

/-- R33: the power die arms. -/
def Dev.arm (d : Dev) : Dev :=
  ({ d with pd := { d.pd with armed := true, trail := 1, opened := none } } : Dev).armSwitches.armValves

/-- R436: the first power-link frame after a power-on reset clears the thermal latch. -/
def Dev.firstFrame (d : Dev) : Dev :=
  if d.power.firstFrame then
    { d with power := { d.power with firstFrame := false }, pd := { d.pd with latched := false } }
  else d

/-- R31, R33, R34, R473: a token at the power die, which arms once it has been sent the live settings. -/
def tokenReceivedEff (d : Dev) (crcOk : Bool) (count : Nat) (armed : Bool) : Dev :=
  if !d.pd.powered then d
  else if !crcOk then { d with pd := { d.pd with trail := 2, validRun := 0 } }
  else
    let d := d.firstFrame
    if d.pd.latched then d
    else
      let d := { d with pd := { d.pd with clockLost := false } }
      if d.pd.refCount = some ((count + 15) % 16) then
        let run := d.pd.validRun
        let d := { d with pd := { d.pd with
          refCount := some (count % 16), lastValid := d.time.now, trail := 1, validRun := run + 1 } }
        if !d.pd.armed && run ≥ 8 && armed && d.pd.settings then d.arm else d
      else { d with pd := { d.pd with refCount := some (count % 16), trail := 3, validRun := 0 } }

/-- R22, R23: a command frame at the power die: with a bad CRC it is discarded and a negative acknowledgement returned;
a good one waits for its tick; one whose tick has passed is never applied. -/
def linkCommandEff (d : Dev) (crcOk : Bool) (f : PlFrame) : Dev :=
  if !d.pd.powered || d.pd.reversed || d.pd.clockLost then d
  else if !crcOk then d.send (.negativeAck f.id)
  else
    let d := d.firstFrame
    if f.instant < d.chain then d else { d with pd := { d.pd with commands := d.pd.commands ++ [f] } }

/-- R471, R33: the power die's logic comes up unarmed. -/
def Dev.powerUp (d : Dev) (v1 v2 : Nat) : Dev :=
  let latched := d.pd.latched
  let d := { d with pd := { v1 := v1, v2 := v2, powered := true, latched := latched, loadDump := 40000 < max v1 v2, absent := d.pd.absent } }
  let d := { d with lsw := { d.lsw with switches := Vector.replicate 8 {}, limpHome := false } }
  (d.safeOutputs)

/-- R471, R217: below 4.5 V on both pins the power die resets into the safe state. -/
def Dev.powerLost (d : Dev) (v1 v2 : Nat) : Dev :=
  let d := { d with pd := { d.pd with v1 := v1, v2 := v2, powered := false } }.safeOutputs
  { d with pd := { v1 := v1, v2 := v2, latched := d.pd.latched, absent := d.pd.absent } }

/-- R473, R471: VBAT applied or back at these voltages. -/
def vbatAppliedEff (d : Dev) (v1 v2 : Nat) : Dev :=
  if max v1 v2 < 4500 then d.powerLost v1 v2
  else if d.pd.powered && !d.pd.reversed then
    { d with pd := { d.pd with v1 := v1, v2 := v2, pgndOpen := false, loadDump := 40000 < max v1 v2 } }.settleLimp
  else d.powerUp v1 v2

/-- R473: no frame from the power die for 1 ms: the logic die finds it absent. -/
def powerDieAbsentEff (d : Dev) : Dev :=
  if d.pd.powered then d else { d with pd := { d.pd with absent := true } }

/-- R217: an undervoltage of a VBAT pin, which the banks fed from it report. -/
def vbatUndervoltageEff (d : Dev) (v1 v2 : Nat) : Dev :=
  if max v1 v2 < 4500 then d.powerLost v1 v2 else { d with pd := { d.pd with v1 := v1, v2 := v2 } }

/-- R229: a reversed VBAT: the power die's logic is down, and each switch's reverse protection turns its channel on. -/
def vbatReverseEff (d : Dev) : Dev :=
  let d := d.powerLost 0 0
  { d with
    pd := { d.pd with reversed := true }
    lsw := { d.lsw with limpHome := false, switches := d.lsw.switches.map fun (c : Switch) => { c with on := true } } }

/-- R230: a load dump: switches keep their state; off-state tests are suspended while VBAT is above 40 V. -/
def loadDumpEff (d : Dev) (v1 v2 : Nat) : Dev :=
  if d.pd.powered then { d with pd := { d.pd with v1 := v1, v2 := v2, loadDump := 40000 < max v1 v2 } } else d

/-- R228: PGND opens: every switch turns off, and limp-home is inoperative. -/
def pgndOpenEff (d : Dev) : Dev :=
  if d.pd.powered then
    { d with
      pd := { d.pd with pgndOpen := true }
      lsw := { d.lsw with
        limpHome := false
        switches := d.lsw.switches.map fun (c : Switch) => { (c.off d.time.now) with cmd := false, attempt := false } } }
  else d

/-- R436: the power die at its shutdown level: every output off, limp-home among them, latched; the logic die, which has the
report, records it in the sealed area and shows the shutdown state (Table 18.7). -/
def powerShutdownEff (d : Dev) : Dev :=
  if d.pd.powered && !d.pd.latched then
    ({ d with pd := { d.pd with latched := true } }.safeOutputs).told fun d =>
      ({ d with hlt := { d.hlt with throttle := 3 } } : Dev).writeNow 0x1504 0xFFFF [(3, d.int 0x2D0002)]
  else d

/-- 0x2D06:05: state of the power die. -/
def Dev.powerDieState (d : Dev) : Nat :=
  if !d.pd.powered then 0 else if d.pd.latched then 4 else if d.pd.armed then 3 else if d.lsw.limpHome then 2 else 1

/-! ### Meanings -/

/-- TETHER_TOKEN (R30). -/
def execTetherToken (t : Nat) (s : State) : Host.Outcome State Fault Refusal := s.logic t tetherTokenEff

/-- PERMISSION_REFRESH (R30). -/
def execPermissionRefresh (t : Nat) (s : State) : Host.Outcome State Fault Refusal := s.served t permissionRefreshEff

/-- PERMISSION_LAPSE (R27, R30). -/
def execPermissionLapse (which : Permission) (t : Nat) (s : State) : Host.Outcome State Fault Refusal :=
  s.served t fun d => permissionLapseEff d which

/-- TETHER_TOKEN_RECEIVED (R31, R33, R34). -/
def execTetherTokenReceived (crcOk : Bool) (count : Nat) (armed : Bool) (t : Nat) (s : State) :
    Host.Outcome State Fault Refusal :=
  s.act t fun d => tokenReceivedEff d crcOk count armed

/-- TETHER_SILENCE (R31, R32, R34). -/
def execTetherSilence (t : Nat) (s : State) : Host.Outcome State Fault Refusal := s.act t tetherSilenceEff

/-- SUPERVISION_CHECK (R27). -/
def execSupervisionCheck (core0Up core1Up : Bool) (t : Nat) (s : State) : Host.Outcome State Fault Refusal :=
  s.logic t fun d => supervisionCheckEff d core0Up core1Up

/-- POWER_LINK_COMMAND (R22, R23). -/
def execPowerLinkCommand (crcOk : Bool) (frame : PlFrame) (t : Nat) (s : State) : Host.Outcome State Fault Refusal :=
  s.act t fun d => linkCommandEff d crcOk frame

/-- VBAT_APPLIED (R473). -/
def execVbatApplied (v1 v2 t : Nat) (s : State) : Host.Outcome State Fault Refusal :=
  s.act t fun d => vbatAppliedEff d v1 v2

/-- POWER_DIE_ABSENT (R473). -/
def execPowerDieAbsent (t : Nat) (s : State) : Host.Outcome State Fault Refusal := s.logic t powerDieAbsentEff

/-- POWER_DIE_RESET (R471). -/
def execPowerDieReset (v1 v2 t : Nat) (s : State) : Host.Outcome State Fault Refusal :=
  s.act t fun d => if max v1 v2 < 4500 then d.powerLost v1 v2 else d

/-- VBAT_UNDERVOLTAGE (R217). -/
def execVbatUndervoltage (v1 v2 t : Nat) (s : State) : Host.Outcome State Fault Refusal :=
  s.act t fun d => vbatUndervoltageEff d v1 v2

/-- VBAT_REVERSE (R229). -/
def execVbatReverse (t : Nat) (s : State) : Host.Outcome State Fault Refusal := s.act t vbatReverseEff

/-- LOAD_DUMP (R230). -/
def execLoadDump (v1 v2 t : Nat) (s : State) : Host.Outcome State Fault Refusal :=
  s.act t fun d => loadDumpEff d v1 v2

/-- PGND_OPEN (R228). -/
def execPgndOpen (t : Nat) (s : State) : Host.Outcome State Fault Refusal := s.act t pgndOpenEff

/-- POWER_THERMAL_SHUTDOWN (R436). -/
def execPowerThermalShutdown (t : Nat) (s : State) : Host.Outcome State Fault Refusal := s.act t powerShutdownEff

end Sys2Proof.Machine
end

