-- ==== Sys2Proof/Machine/Geometry.lean ====
section
/-! DEFINITION. Fixed-point geometry: angles of 1/2^32 turn, sines scaled by 2^30, positions of 1/65,536 mm; the path of
R81 and the boom model of R66, R67. -/

namespace Sys2Proof.Machine

/-! ### Angles -/

/-- The sine of an angle of 1/2^32 turn, scaled by 2^30. -/
def sin32 (a : Int) : Int := sineTurn (a % 2 ^ 32).toNat (2 ^ 30) / 2 ^ 30

/-- The cosine of an angle of 1/2^32 turn, scaled by 2^30. -/
def cos32 (a : Int) : Int := sin32 (a + 2 ^ 30)

/-- An angle of 1/2^32 turn as a signed one. -/
def signed32 (a : Int) : Int := (a + 2 ^ 31) % 2 ^ 32 - 2 ^ 31

/-- R8: a binary angle (ANG) as an angle of 1/2^32 turn. -/
def ofAng (a : Int) : Int := a * 65536 % 2 ^ 32

/-- R8: an angle of 1/2^32 turn as the nearest binary angle. -/
def toAng (a : Int) : Int := (a + 32768) / 65536 % 65536

/-- Rotate a vector by an angle, anticlockwise. -/
def rotate32 (v : Int × Int) (a : Int) : Int × Int :=
  if a % 2 ^ 32 = 0 then v
  else
    let s := sin32 a
    let c := cos32 a
    ((v.1 * c - v.2 * s) / 2 ^ 30, (v.1 * s + v.2 * c) / 2 ^ 30)

/-- The largest angle below a quarter turn whose tangent is at most y / x, for x, y not negative. -/
def quarterAngle (x y : Int) : Nat → Int → Int
  | 0, a => a
  | k + 1, a =>
    let b := a + 2 ^ k
    quarterAngle x y k (if x * sin32 b ≤ y * cos32 b then b else a)

/-- The angle of a vector, anticlockwise from its first axis. -/
def angleOf (v : Int × Int) : Int :=
  let (x, y) := v
  if x = 0 && y = 0 then 0
  else if 0 < x && 0 ≤ y then quarterAngle x y 30 0
  else if x ≤ 0 && 0 < y then 2 ^ 30 + quarterAngle y (-x) 30 0
  else if x < 0 && y ≤ 0 then 2 ^ 31 + quarterAngle (-x) (-y) 30 0
  else 3 * 2 ^ 30 + quarterAngle (-y) x 30 0

/-- The whole square root, by bits. -/
def rootBits (n : Nat) : Nat → Nat → Nat
  | 0, r => r
  | k + 1, r =>
    let s := r + 2 ^ k
    rootBits n k (if s * s ≤ n then s else r)

/-- The whole square root of a number below 2^128. -/
def root (n : Nat) : Nat := rootBits n 64 0

/-- The length of a vector. -/
def lengthOf (v : Int × Int) : Nat := root (v.1 * v.1 + v.2 * v.2).toNat

/-! ### The path of R81 -/

/-- R81: the motion that a prediction assumes: speed mm/s, acceleration mm/s², yaw rate 1/2^32 turn per s, heading
1/2^32 turn, position 1/65,536 mm. -/
structure Motion where
  speed : Int
  accel : Int
  yawRate : Int
  heading : Int
  east : Int
  north : Int

/-- R81: the displacement after `t` ns in the frame at t0, 1/65,536 mm. -/
def Motion.displacement (m : Motion) (t : Int) : Int × Int :=
  let a := clampI (-3000) 3000 m.accel
  let s := m.speed * t * 65536 / 10 ^ 9 + a * t * t * 65536 / (2 * 10 ^ 18)
  let th := m.yawRate * t / 10 ^ 9
  let pi : Int := 6746518852
  if th.natAbs < 683565 then (s, s * th * pi / 2 ^ 63)
  else
    let n := s * 2 ^ 62 / (th * pi)
    (n * sin32 th / 2 ^ 30, n * (2 ^ 30 - cos32 th) / 2 ^ 30)

/-- R81: a vector of the implement frame at t0 in the field frame. -/
def Motion.field (m : Motion) (q : Int × Int) : Int × Int :=
  let s := sin32 m.heading
  let c := cos32 m.heading
  (m.east + (- q.1 * s - q.2 * c) / 2 ^ 30, m.north + (q.1 * c - q.2 * s) / 2 ^ 30)

/-- R81: the field position after `t` ns of a point of the implement frame. -/
def Motion.at (m : Motion) (r : Int × Int) (t : Int) : Int × Int :=
  let d := m.displacement t
  let q := rotate32 r (m.yawRate * t / 10 ^ 9)
  m.field (d.1 + q.1, d.2 + q.2)

/-- The motion of a boom state. -/
def motionOf (b : BoomState) : Motion :=
  ⟨b.speed, b.accel, b.yawRate, ofAng b.heading, b.east * 65536, b.north * 65536⟩

/-! ### The boom model -/

/-- R67: move an offset (1/65,536 mm) with a segment and its parents. -/
def flexed (b : BoomState) : Nat → Nat → Int × Int → Int × Int
  | 0, _, v => v
  | f + 1, s, v =>
    if h : s < 16 then
      let hinge := b.hinges[s]
      let hx := hinge.1 * 65536
      let hy := hinge.2 * 65536
      let w := rotate32 (v.1 - hx, v.2 - hy) (b.deflection[s] * 65536)
      flexed b f b.parents[s] (w.1 + hx, w.2 + hy)
    else v

/-- R67: the sum of the deflections of a segment and its parents, ANG. -/
def flexSum (b : BoomState) : Nat → Nat → Int
  | 0, _ => 0
  | f + 1, s => if h : s < 16 then b.deflection[s] + flexSum b f b.parents[s] else 0

/-- R70: a segment is folded when it or a segment above it has its fold input active. -/
def foldedBy (parents : Vector Nat 16) (active : Nat) : Nat → Nat → Bool
  | 0, _ => false
  | f + 1, s => if h : s < 16 then active.testBit s || foldedBy parents active f parents[s] else false

/-- R61, R67: where an outlet hangs in the implement frame (1/65,536 mm). -/
def Dev.outletOffset (d : Dev) (b : BoomState) (n : Fin 32) : Int × Int :=
  flexed b 16 (d.nat (outletAdr n 4)) (d.int (outletAdr n 2) * 65536, d.int (outletAdr n 3) * 65536)

/-- R60: an outlet is used. -/
def Dev.used (d : Dev) (n : Fin 32) : Bool := d.nat (outletAdr n 1) ≠ 0

/-- The used outlets. -/
def Dev.usedOutlets (d : Dev) : List (Fin 32) := (List.finRange 32).filter d.used

/-- R80: yaw rate × an offset (1/65,536 mm), mm/s: π is 6746518852 / 2^31. -/
def yawTimes (yawRate r : Int) : Int := yawRate * r * 6746518852 / (2 ^ 62 * 65536)

/-- R80: the along-track speed of an outlet, mm/s. -/
def Dev.alongTrack (d : Dev) (b : BoomState) (n : Fin 32) : Int := b.speed - yawTimes b.yawRate (d.outletOffset b n).2

/-- R80: the lateral speed of an outlet, mm/s. -/
def Dev.lateral (d : Dev) (b : BoomState) (n : Fin 32) : Int := yawTimes b.yawRate (d.outletOffset b n).1

/-- R64: the width (mm) of an outlet's strip, and its 32 weights from the left; a row outlet has its footprint with equal
weight. The scale is cut to 1/65,536 and the width to whole millimetres (log entry 107). -/
def Dev.strip (d : Dev) (b : BoomState) (n : Fin 32) : Nat × List Nat :=
  if d.nat (outletAdr n 1) = 1 then
    let p := d.str (adr 0x2010 (1 + d.nat (outletAdr n 7)))
    let ref := max 1 (leNat (p.take 4))
    let width := leNat ((p.drop 4).take 4)
    let s := d.nat (outletAdr n 4)
    let h : Int := if hs : s < 16 then b.height[s] else 500
    let k := max 32768 (min 131072 (h.toNat * 65536 / ref))
    (width * k / 65536, (p.drop 8).map fun x => x.toNat)
  else (d.nat (outletAdr n 6), List.replicate 32 1)

/-- R64: the height scale of a nozzle is clamped. -/
def Dev.heightClamped (d : Dev) (b : BoomState) (n : Fin 32) : Bool :=
  if d.nat (outletAdr n 1) = 1 then
    let p := d.str (adr 0x2010 (1 + d.nat (outletAdr n 7)))
    let ref := leNat (p.take 4)
    let s := d.nat (outletAdr n 4)
    let h : Nat := if hs : s < 16 then (b.height[s]).toNat else 500
    2 * h < ref || 2 * ref < h
  else false

end Sys2Proof.Machine
end

