-- ==== Sys2Proof/Machine/Inputs.lean ====
section
/-! DEFINITION. The sensor inputs and sensor supplies (R83 to R88). -/

namespace Sys2Proof.Machine

/-- Update a FREQ input. -/
def Dev.freqInput (d : Dev) (n : Fin 8) (f : FreqInput → FreqInput) : Dev :=
  { d with inp := { d.inp with freq := updateAt d.inp.freq n f } }

/-- An object of a FREQ input. -/
def freqAdr (n : Fin 8) (sub : Nat) : Nat := adr (0x2030 + n) sub

/-- R84: quadrature is enabled on the pair of an input. -/
def Dev.quadrature (d : Dev) (n : Fin 8) : Bool := d.flag (adr (0x2030 + (n / 2 * 2 : Nat)) 7)

/-- R84: the count after an edge: a rising edge counts up; an edge of a quadrature pair counts with its direction. -/
def countEdge (count : Nat) (forward : Bool) : Nat := u32 (if forward then count + 1 else count + 0xFFFFFFFF)

/-- R84: the even input of an input's pair. -/
def evenOf (n : Fin 8) : Fin 8 := ⟨n.val / 2 * 2, by omega⟩

/-- R84: a filtered edge, stamped at 4 ns: a rising edge counts up; of a quadrature pair every edge of both inputs counts with
its direction on the even input. An edge that follows the pin's edge before it within the filter's time ends a pulse that the
filter rejects (log entry 108). -/
def freqEdgeEff (d : Dev) (n : Fin 8) (forward : Bool) : Dev :=
  let quad := d.quadrature n
  let now := d.chain / 4 * 4
  if d.inp.freq[n].pin.any fun l => now < l + 1000 * d.nat (freqAdr n 4) then d
  else
    (d.freqInput n fun x => { x with pin := some now }).freqInput (if quad then evenOf n else n) fun x => { x with
      count := countEdge x.count (!quad || forward)
      older := x.prev, prev := x.last, last := some now, edges := x.edges + 1
      first := if x.edges = 0 then some now else x.first
      wasForward := x.forward, forward := !quad || forward }

/-- R85: the frequency (0.01 Hz) at a boundary. -/
def FreqInput.frequency (x : FreqInput) (now timeout : Nat) : Nat :=
  match x.last with
  | none => 0
  | some l =>
    if l + timeout ≤ now then 0
    else
      let per := fun (k ns : Nat) => 100000000000 * k / max 1 ns
      let f := match x.first, x.prev with
        | some a, _ => if x.edges ≥ 2 then per (x.edges - 1) (l - a) else
            match x.prev with
            | some p => min (per 1 (l - p)) (per 1 (now - l))
            | none => 0
        | none, some p => min (per 1 (l - p)) (per 1 (now - l))
        | none, none => 0
      min 5000000 f

/-- R85: the scaled value of a frequency, by the function: mm/s, mL/min, or frequency over scale. -/
def Dev.freqScaled (d : Dev) (n : Fin 8) (f : Nat) (forward : Bool) : Int :=
  let scale : Nat := max 1 (d.nat (freqAdr n 5))
  let v : Int := (match d.nat (freqAdr n 1) with
    | 1 => f * 10 * 65536 / scale
    | 2 => f * 10 * 65536 / scale
    | 3 => f * 600 * 65536 / scale
    | _ => f * 65536 / (100 * scale) : Nat)
  if forward then v else - v

/-- R83: what the batch that ends at `t0` has counted: an edge on the boundary tick is not of it. -/
def FreqInput.until_ (x : FreqInput) (t0 : Nat) : FreqInput :=
  if x.last.any fun l => t0 ≤ l then
    { x with
      count := countEdge x.count (!x.forward), last := x.prev, prev := x.older, forward := x.wasForward
      edges := x.edges - 1, first := if x.edges ≤ 1 then none else x.first }
  else x

/-- R83, R85: latch the FREQ inputs at a boundary. -/
def Dev.latchFreq (d : Dev) : Dev :=
  (List.finRange 8).foldl (fun d n =>
    if d.quadrature n && n.val % 2 = 1 then
      (((d.freqInput n fun x => { pin := x.pin }).put (freqAdr n 8) 0).put (freqAdr n 9) 0).put (freqAdr n 0x0A) 0
    else
      let t0 := d.chain / 4 * 4
      let x := d.inp.freq[n].until_ t0
      if x.last.isNone && x.freq = 0 then d
      else
        let f := x.frequency d.chain (1000 * d.nat (freqAdr n 6))
        let d := d.freqInput n fun y =>
          let late := y.last.filter fun l => t0 ≤ l
          { y with freq := f, edges := if late.isSome then 1 else 0, first := late }
        ((d.put (freqAdr n 8) x.count).put (freqAdr n 9) f).put (freqAdr n 0x0A) (d.freqScaled n f x.forward)) d

/-- R88: a sensor supply is faulty. -/
def Dev.supplyFaulty (d : Dev) (k : Nat) : Bool :=
  if h : k < 2 then
    let s := d.inp.supplies[k]
    s.limit || s.latched || s.short
  else false

/-- R86: a channel's mean marks it failed, or its reference supply is faulty. -/
def Dev.ainBad (d : Dev) (n : Fin 16) (s : AinSample) : Bool :=
  let i := 0x2040 + n.val
  let ref := d.nat (adr i 3)
  (if d.nat (adr i 2) = 2 then s.microAmp < 3600 || 21000 < s.microAmp
   else 100 * s.mean ≤ 4095 || 100 * (4095 - s.mean) ≤ 4095)
  || (1 ≤ ref && d.supplyFaulty (ref - 1))

/-- R83, R86: latch one enabled AIN channel: mean, minimum, maximum, scaled value and failure. -/
def Dev.latchAin (d : Dev) (ain : Vector AinSample 16) (n : Fin 16) : Dev :=
  let i := 0x2040 + n.val
  if d.nat (adr i 1) = 0 then d
  else
    let s := ain[n]
    let bad := d.ainBad n s
    let was := d.inp.ainFailed[n]
    let d := { d with inp := { d.inp with ainFailed := d.inp.ainFailed.set n bad } }
    let d := ((d.put (adr i 6) s.mean).put (adr i 7) (s.high % 4096 * 65536 + s.low % 4096 : Nat)).put (adr i 8)
      (qMul ((s.mean : Int) - d.int (adr i 5)) (d.int (adr i 4)))
    let d := d.put (adr i 9) (if bad then 1 else 0)
    if bad = was then d else d.raise 0x1101 (if bad then 1 else 2) n [(3, s.mean)]

/-- R83: what the boundary tick latches of the sensor inputs. -/
def Dev.latchInputs (d : Dev) (ain : Vector AinSample 16) : Dev :=
  let d := { d with inp := { d.inp with dinSnap := d.inp.din } }
  let d := d.put 0x20500B ((List.finRange 8).foldl (fun m k => m + if d.inp.din[k] then 2 ^ k.val else 0) 0 : Nat)
  (List.finRange 16).foldl (fun d n => d.latchAin ain n) d.latchFreq

/-- Update a sensor supply. -/
def Dev.supply (d : Dev) (k : Fin 2) (f : Supply → Supply) : Dev :=
  { d with inp := { d.inp with supplies := updateAt d.inp.supplies k f } }

/-- Table 3.9: the sensor supply status. -/
def Dev.supplyStatus (d : Dev) : Nat :=
  let part := fun (s : Supply) => (if s.limit && s.on then 1 else 0) + (if s.short then 2 else 0) + (if s.latched then 4 else 0)
  part d.inp.supplies[(0 : Fin 2)] + 8 * part d.inp.supplies[(1 : Fin 2)]

/-- R88: a supply has been in current limit for more than 10 ms: off, a retry after 100 ms, and for good after the third
failed retry. -/
def supplyTripEff (d : Dev) (k : Fin 2) : Dev :=
  let s := d.inp.supplies[k]
  if !s.on then d
  else
    let last := s.retries ≥ 3
    let d := d.supply k fun s => { s with
      on := false, limit := true, latched := last, retryAt := if last then none else some (d.time.now + 100000000) }
    (d.fault 12 last k).raise 0x1102 1 k [(8, Config.eventCause 0x1102 0)]

/-- R88: a retry: the supply comes back, or fails again. -/
def supplyRetryEff (d : Dev) (k : Fin 2) (ok : Bool) : Dev :=
  let s := d.inp.supplies[k]
  match s.retryAt with
  | none => d
  | some r =>
    if d.time.now < r then d
    else if ok then
      (d.supply k fun s => { s with on := true, limit := false, retries := 0, retryAt := none }).raise 0x1102 2 k
        [(8, Config.eventCause 0x1102 2)]
    else
      let n := s.retries + 1
      let d := d.supply k fun s => { s with
        retries := n, latched := n ≥ 3, retryAt := if n ≥ 3 then none else some (d.time.now + 100000000) }
      d.fault 12 (n ≥ 3) k

/-- R88: an output above 5.5 V. -/
def supplyOvervoltageEff (d : Dev) (k : Fin 2) : Dev :=
  if d.inp.supplies[k].short then d
  else ((d.supply k fun s => { s with short := true }).fault 12 false k).raise 0x1102 1 k
    [(8, Config.eventCause 0x1102 1)]

/-- R88: an accepted write of an enable: 1 restarts the supply at once, 0 switches it off. -/
def supplyEnableAct (k : Fin 2) (v : Int) (d : Dev) : Dev :=
  let s := d.inp.supplies[k]
  let bad := s.limit || s.latched || s.short
  let d := d.supply k fun _ => { on := v ≠ 0 }
  if bad then d.raise 0x1102 2 k [(8, Config.eventCause 0x1102 2)] else d

/-- R88: at boot the supplies are switched on from the live set. -/
def Dev.bootSupplies (d : Dev) : Dev :=
  (List.finRange 2).foldl (fun d (k : Fin 2) => d.supply k fun _ => { on := d.flag (adr 0x2058 (1 + k)) }) d

/-! ### Meanings -/

/-- FREQ_EDGE (R84). -/
def execFreqEdge (n : Fin 8) (forward : Bool) (t : Nat) (s : State) : Host.Outcome State Fault Refusal :=
  s.logic t fun d => freqEdgeEff d n forward

/-- FREQ_ZERO_TIMEOUT (R85). -/
def execFreqZeroTimeout (n : Fin 8) (t : Nat) (s : State) : Host.Outcome State Fault Refusal :=
  s.logic t fun d =>
    match d.inp.freq[n].last with
    | some l =>
      if l + 1000 * d.nat (freqAdr n 6) ≤ d.chain then
        ((d.freqInput n fun x => { x with freq := 0, first := none, edges := 0 }).put (freqAdr n 9) 0).put
          (freqAdr n 0x0A) 0
      else d
    | none => d

/-- DIN_DEBOUNCED_CHANGE (R87). -/
def execDinDebouncedChange (n : Fin 8) (level : Bool) (t : Nat) (s : State) : Host.Outcome State Fault Refusal :=
  s.logic t fun d => { d with inp := { d.inp with din := d.inp.din.set n level } }

/-- SENSOR_SUPPLY_LIMIT_TRIP (R88). -/
def execSensorSupplyLimitTrip (k : Fin 2) (t : Nat) (s : State) : Host.Outcome State Fault Refusal :=
  s.logic t fun d => supplyTripEff d k

/-- SENSOR_SUPPLY_RETRY (R88). -/
def execSensorSupplyRetry (k : Fin 2) (ok : Bool) (t : Nat) (s : State) : Host.Outcome State Fault Refusal :=
  s.logic t fun d => supplyRetryEff d k ok

/-- SENSOR_SUPPLY_OVERVOLTAGE (R88). -/
def execSensorSupplyOvervoltage (k : Fin 2) (t : Nat) (s : State) : Host.Outcome State Fault Refusal :=
  s.logic t fun d => supplyOvervoltageEff d k

/-- SENSOR_SUPPLY_ENABLE_WRITE (R88): a write to 0x2058:01 or 0x2058:02. -/
def execSensorSupplyEnableWrite (acc : Accessor) (k : Fin 2) (v : Int) (s : State) : Host.Outcome State Fault Refusal :=
  s.logicNow fun d => d.writeObject acc (adr 0x2058 (1 + k)) (.num v) false none (supplyEnableAct k v)

end Sys2Proof.Machine
end

