-- ==== Sys2Proof/Machine/Pose.lean ====
section
/-! DEFINITION. SHAPE and its sources (R66 to R79, R492): the boom state that the lead publishes at each boundary, and
the boom state of a wheeler. -/

namespace Sys2Proof.Machine

/-! ### Sources -/

/-- The place of a source in Table 3.2, which is also its bit of 0x2003:01. -/
def sourcePlace : PoseSource → Fin 5
  | .gnss => 0
  | .movingBaseline => 1
  | .imu => 2
  | .radar => 3
  | .wheel => 4

/-- A source's state. -/
def Dev.source (d : Dev) (k : PoseSource) : Source := d.pose.sources[sourcePlace k]

/-- Update a source. -/
def Dev.setSource (d : Dev) (k : PoseSource) (f : Source → Source) : Dev :=
  { d with pose := { d.pose with sources := updateAt d.pose.sources (sourcePlace k) f } }

/-- R72: a source is enabled. -/
def Dev.sourceEnabled (d : Dev) (k : PoseSource) : Bool := d.bit 0x200301 (sourcePlace k)

/-- R72: a source is enabled, valid and plausible, and so takes part in the fusion. -/
def Dev.fused (d : Dev) (k : PoseSource) : Bool :=
  d.sourceEnabled k && (d.source k).valid && !(d.source k).implausible

/-- R77: an event that names the source, raised at its loss and cleared at its recovery. -/
def Dev.sourceEvent (d : Dev) (k : PoseSource) (lost : Bool) : Dev :=
  d.raise 0x0202 (if lost then 1 else 2) (sourcePlace k) [(2, Config.eventCause 0x0202 (sourcePlace k))]

/-- R68: a segment falls back, with its event, once. -/
def Dev.flexFails (d : Dev) (s : Fin 16) : Dev :=
  let x := d.pose.segments[s]
  let d' := { d with pose := { d.pose with
    segments := updateAt d.pose.segments s fun x => { x with flex := 0, flexFailed := true, flexGood := 0 } } }
  if x.flexFailed then d' else d'.raise 0x0203 1 s [(2, Config.eventCause 0x0203 0)]

/-- R68: a segment's source of flex. -/
def Dev.flexSource (d : Dev) (s : Fin 16) : Nat := d.nat (adr (0x2020 + s) 6)

/-- R77, Table 3.2: wheelers whose moving baseline has failed: the segments that take their flex from them fall back; with no
wheeler's fix left the source is lost. -/
def Dev.loseBases (d : Dev) (lost : List (Fin 32)) : Dev :=
  let d := { d with pose := { d.pose with
    baselines := lost.foldl (fun (v : Vector (Option BaselineFix) 32) (p : Fin 32) => v.set p none) d.pose.baselines
    newBases := d.pose.newBases.filter fun p => p ∉ lost } }
  let d := (List.finRange 16).foldl (fun (d : Dev) (s : Fin 16) =>
    if d.flexSource s = 1 && lost.any (fun p => p.val = d.nat (adr (0x2020 + s) 7)) then d.flexFails s else d) d
  if d.pose.baselines.toList.any Option.isSome then d
  else (d.setSource .movingBaseline fun x => { x with valid := false }).sourceEvent .movingBaseline true

/-- Table 3.2: the wheelers that have sent no fix for 150 ms; where none is so late, every wheeler that has sent one. -/
def Dev.silentBases (d : Dev) : List (Fin 32) :=
  let have_ := (List.finRange 32).filter fun p => d.pose.baselines[p].isSome
  let late := have_.filter fun p => d.pose.baselines[p].any fun b => b.epoch + 150000000 ≤ (d.chain : Int)
  if late = [] then have_ else late

/-- R77: a valid source is lost: Table 3.4. -/
def Dev.loseSource (d : Dev) (k : PoseSource) : Dev :=
  if !(d.sourceEnabled k && (d.source k).seen && (d.source k).valid) then d
  else match k with
    | .movingBaseline => d.loseBases d.silentBases
    | _ =>
      let d := (d.setSource k fun x => { x with valid := false }).sourceEvent k true
      if k = .gnss then { d with pose := { d.pose with gnssLostAt := some d.chain, deadEnded := false } } else d

/-- R77: a source delivers a valid measurement: the first one ends its awaiting, and one after a loss its loss. -/
def Dev.deliverSource (d : Dev) (k : PoseSource) : Dev :=
  if !d.sourceEnabled k || (d.source k).valid then d
  else
    let was := (d.source k).seen
    let d := d.setSource k fun x => { x with seen := true, valid := true }
    if was then d.sourceEvent k false else d

/-- R77: sources that a swap enables await their first measurement. -/
def Dev.swapSources (d : Dev) (before : Nat) : Dev :=
  [PoseSource.gnss, .movingBaseline, .imu, .radar, .wheel].foldl (fun d k =>
    if d.sourceEnabled k && !before.testBit (sourcePlace k).val then d.setSource k fun _ => {} else d) d

/-! ### Steps of SHAPE -/

/-- The motion of SHAPE's fused state. -/
def Dev.motion (d : Dev) : Motion :=
  ⟨d.pose.speed / 65536, d.pose.accel, d.pose.yawRate, d.pose.heading, d.pose.east, d.pose.north⟩

/-- R72, R73: the fused state carried over an interval in which the yaw rate and the acceleration hold; the speed in
1/65,536 mm/s. -/
structure Fused where
  east : Int
  north : Int
  heading : Int
  speed : Int

/-- R72, R73: one interval: its length in ns, the yaw rate and the acceleration. -/
def Fused.step (x : Fused) (i : Int × Int × Int) : Fused :=
  let p := ({ speed := x.speed / 65536, accel := i.2.2, yawRate := i.2.1, heading := x.heading, east := x.east
              north := x.north } : Motion).at (0, 0) i.1
  ⟨p.1, p.2, (x.heading + i.2.1 * i.1 / 10 ^ 9) % 2 ^ 32, x.speed + i.2.2 * i.1 * 65536 / 10 ^ 9⟩

/-- R73: the intervals from an instant to another, by the IMU samples (oldest first) that fall between them. -/
def intervals (yaw accel t1 : Int) : Int → List ImuSample → List (Int × Int × Int)
  | t, [] => [(t1 - t, yaw, accel)]
  | t, x :: r =>
    if x.instant ≤ t then intervals x.yawRate x.accel t1 t r
    else if t1 ≤ x.instant then [(t1 - t, yaw, accel)]
    else (x.instant - t, yaw, accel) :: intervals x.yawRate x.accel t1 x.instant r

/-- R72, Table 3.4: with neither GNSS nor an IMU the heading is held, and without a source of acceleration the speed
(log entry 109). -/
def Dev.holdHeading (d : Dev) (accel : Bool) : Dev :=
  { d with pose := { d.pose with
    yawRate := if d.fused .gnss || d.fused .imu then d.pose.yawRate else 0
    accel := if d.fused .gnss || accel then d.pose.accel else 0 } }

/-- R72: predict the state forward to t0. -/
def Dev.predictShape (d : Dev) (dt : Int) : Dev :=
  let x := (Fused.mk d.pose.east d.pose.north d.pose.heading d.pose.speed).step (dt, d.pose.yawRate, d.pose.accel)
  if d.pose.placed then
    { d with pose := { d.pose with east := x.east, north := x.north, heading := x.heading, speed := x.speed } }
  else d

/-- R72: roll and pitch (signed ANG) in the implement frame from the IMU and its mounting angles; 0 without an IMU
(R71). -/
def Dev.attitude (d : Dev) : Int × Int :=
  if d.fused .imu then
    let a := angSigned (d.takenInt 0x200309 - d.int 0x200304)
    let b := angSigned (d.takenInt 0x20030A - d.int 0x200305)
    let m := ofAng (d.int 0x200302)
    ((a * cos32 m - b * sin32 m) / 2 ^ 30, (a * sin32 m + b * cos32 m) / 2 ^ 30)
  else (0, 0)

/-- R72: the IMU's acceleration serves while its mounting yaw is at most 45°. -/
def Dev.imuAccel (d : Dev) : Option Int :=
  let m := angSigned (d.int 0x200302)
  if d.fused .imu && m.natAbs ≤ 0x2000 then
    some (d.takenInt 0x20030B * 2 ^ 30 / max 1 (cos32 (ofAng m)))
  else none

/-- R73: keep the IMU sample of the batch, with those of the last 100 ms; its own time stands where it is not more than
100 ms old (log entry 110). -/
def Dev.logImu (d : Dev) : Dev :=
  if !d.fused .imu then { d with pose := { d.pose with imuLog := [] } }
  else
    let t0 : Int := d.seq.t0
    let own := d.takenInt 0x20030C
    let a := d.attitude
    let x : ImuSample := ⟨if t0 < own + 100000000 && own ≤ t0 then own else t0, d.pose.yawRate, d.pose.accel, a.1, a.2⟩
    { d with pose := { d.pose with
      imuLog := x :: d.pose.imuLog.filter fun y => y.instant < x.instant && t0 ≤ y.instant + 100000000 } }

/-- R72: the IMU sample that the snapshot took is new; while it is valid it drives the prediction. -/
def Dev.imuStep (d : Dev) : Dev :=
  let n := (d.takenInt 0x20030D).toNat
  let new := n ≠ d.pose.imuCount
  let d := if new then
      ({ d with pose := { d.pose with imuCount := n, imuAt := some d.chain } } : Dev).deliverSource .imu
    else d
  let d := if d.fused .imu then { d with pose := { d.pose with yawRate := d.takenInt 0x200308 } } else d
  let d := match d.imuAccel with
    | some a => { d with pose := { d.pose with accel := a } }
    | none => d
  let d := d.holdHeading d.imuAccel.isSome
  if new || !d.fused .imu then d.logImu else d

/-- R71, R73: roll and pitch at an instant: of the newest IMU sample not later, else as now. -/
def Dev.attitudeAt (d : Dev) (e : Int) : Int × Int :=
  match d.pose.imuLog.find? fun x => x.instant ≤ e with
  | some x => (x.roll, x.pitch)
  | none => d.attitude

/-- R492: the course of a fix, where its horizontal speed is at least 500 mm/s. -/
def courseOf (f : GnssFix) : Option Int :=
  if 500 ≤ lengthOf (f.velE, f.velN) then some ((angleOf (f.velE, f.velN) - 2 ^ 30) % 2 ^ 32) else none

/-- R73: the boom state kept of an instant: the newest whose t0 is not later, or the oldest kept. -/
def stateAt (e : Int) (dflt : BoomState) : List BoomState → BoomState
  | [] => dflt
  | b :: r => if b.t0 ≤ e then b else stateAt e b r

/-- R73: the heading at an epoch by the boom states kept. -/
def Dev.headingAt (d : Dev) (e : Int) : Int :=
  let b := stateAt e d.pose.boom d.pose.history
  (ofAng b.heading + b.yawRate * (e - b.t0) / 10 ^ 9) % 2 ^ 32

/-- R492: the direction that a wheel-speed input in quadrature gives, while wheel speed is valid. -/
def Dev.wheelDirection (d : Dev) : Option Bool :=
  if d.fused .wheel then
    match (List.finRange 8).find? fun n => d.nat (freqAdr n 1) = 2 && d.quadrature n with
    | some n => some (!d.inp.freq[n].forward)
    | none => none
  else none

/-- The moving-baseline fixes in the fusion that no segment takes its flex from: the lowest of them gives the heading
(log entry 9). -/
def Dev.headingBase (d : Dev) : Option BaselineFix :=
  if d.fused .movingBaseline then
    match (List.finRange 32).find? fun p => d.pose.baselines[p].isSome &&
        (List.finRange 16).all (fun s => !(d.flexSource s = 1 && d.nat (adr (0x2020 + s) 7) = p.val)) with
    | some p => d.pose.baselines[p]
    | none => none
  else none

/-- R79, R71: where the reference point lies from the antenna, in the implement frame (mm), for a roll and a pitch: the terrain
offset on the lead; on a standby that has taken over, less its own antenna's offset as flexed and rotated (log entry 111). Its
third part goes up. -/
def Dev.referenceOffset (d : Dev) (roll pitch : Int) : Int × Int × Int :=
  let taken := d.nat 0x2A0001 = 3
  let h : Int := if taken then d.int 0x200403 else d.int 0x200002
  let sr := sin32 (ofAng roll)
  let sp := sin32 (ofAng pitch)
  let cr := cos32 (ofAng roll)
  let cp := cos32 (ofAng pitch)
  let times := fun (x a : Int) => x * a / 2 ^ 30
  let own := if taken then
      flexed d.pose.boom 16 (d.nat 0x200404) (d.int 0x200401 * 65536, d.int 0x200402 * 65536)
    else (0, 0)
  (times (h * 65536) sp - times own.1 cp - times (times own.2 sr) sp, - times (h * 65536) sr - times own.2 cr,
    - times (times (h * 65536) cr) cp - times own.1 sp + times (times own.2 sr) cp)

/-- R492: what a fix says of the motion at its epoch: the direction, the heading where there is one, the signed speed (mm/s),
and the yaw rate. -/
structure FixMotion where
  reverse : Bool
  heading : Option Int
  speed : Int
  yawRate : Int

/-- R492: heading, direction of travel and yaw rate at a fix. -/
def Dev.fixMotion (d : Dev) (f : GnssFix) : FixMotion :=
  let held := if d.pose.headed then some (d.headingAt f.epoch) else none
  let moving : Option (Int × Bool) := match courseOf f, held with
    | none, _ => none
    | some c, none => some (c, false)
    | some c, some h => if (signed32 (c - h)).natAbs ≤ 2 ^ 30 then some (c, false) else some ((c + 2 ^ 31) % 2 ^ 32, true)
  let rev := match d.wheelDirection, moving with
    | some r, _ => r
    | none, some (_, r) => r
    | none, none => d.pose.reverse
  let heading := match d.headingBase with
    | some _ => held
    | none => match courseOf f, d.wheelDirection with
      | some c, some r => some (if r then (c + 2 ^ 31) % 2 ^ 32 else c)
      | _, _ => match moving with
        | some (h, _) => some h
        | none => held
  let yaw := match d.pose.epochBefore, heading with
    | some (e, _, some h0), some h => signed32 (h - h0) * 10 ^ 9 / max 1 (f.epoch - e)
    | _, _ => 0
  ⟨rev, heading, (if rev then -1 else 1) * lengthOf (f.velE, f.velN), if d.fused .imu then d.pose.yawRate else yaw⟩

/-- R77: move to a corrected position: at once, or by at most 50 mm where a returning fix converges. -/
def Dev.correctTo (d : Dev) (target : Int × Int) (returning : Bool) : Dev :=
  let off := (target.1 - d.pose.east, target.2 - d.pose.north)
  let l := lengthOf off
  let limit := 50 * 65536
  if (returning || d.pose.converging) && d.pose.placed && limit < l then
    { d with pose := { d.pose with leftEast := off.1, leftNorth := off.2, converging := true } }
  else
    { d with pose := { d.pose with
      east := target.1, north := target.2, leftEast := 0, leftNorth := 0, converging := false, placed := true } }

/-- R71, R73: a fix in the fusion corrects the state at its epoch, which is then carried to t0 over the IMU samples since. -/
def Dev.applyFix (d : Dev) (f : GnssFix) (returning : Bool) : Dev :=
  let x := d.fixMotion f
  let h := x.heading.getD (d.headingAt f.epoch)
  let att := d.attitudeAt f.epoch
  let off := d.referenceOffset att.1 att.2
  let ref := ({ d.motion with heading := h, east := f.east * 65536, north := f.north * 65536 } : Motion).field (off.1, off.2.1)
  let st := (intervals x.yawRate d.pose.accel d.seq.t0 f.epoch d.pose.imuLog.reverse).foldl Fused.step
    ⟨ref.1, ref.2, h, x.speed * 65536⟩
  let d := { d with pose := { d.pose with
    reverse := x.reverse, yawRate := x.yawRate, headed := d.pose.headed || x.heading.isSome
    heading := if x.heading.isSome then st.heading else d.pose.heading
    speed := st.speed, up := f.up * 65536 + off.2.2, sigma := f.hSigma, epochNow := some (f.epoch, x.heading) } }
  d.correctTo (st.east, st.north) returning

/-- R73, R75: the solution that has arrived since the last boundary: one more than 100 ms old is discarded and counted; an
implausible source's does not correct the state (R74). -/
def Dev.fixStep (d : Dev) : Dev :=
  match d.pose.fresh, d.pose.fix with
  | true, some f =>
    let d := { d with pose := { d.pose with fresh := false } }
    if (d.seq.t0 : Int) - f.epoch > 100000000 then d.bump 0x20010E
    else if !d.sourceEnabled .gnss then d
    else
      let returning := (d.source .gnss).seen && !(d.source .gnss).valid
      let d := d.deliverSource .gnss
      let d := { d with pose := { d.pose with
        solution := f.kind, doppler := some (lengthOf (f.velE, f.velN)), gnssLostAt := none, deadEnded := false } }
      if (d.source .gnss).implausible then d else d.applyFix f returning
  | _, _ => d

/-- R492: without an IMU the acceleration is the change of the fused speed between the last two GNSS epochs. -/
def Dev.accelStep (d : Dev) : Dev :=
  match d.pose.epochNow with
  | none => d
  | some (e, h) =>
    let v := (d.pose.speed - d.pose.accel * (d.seq.t0 - e) * 65536 / 10 ^ 9) / 65536
    let acc := match d.pose.epochBefore with
      | some (e0, v0, _) => (v - v0) * 10 ^ 9 / max 1 (e - e0)
      | none => 0
    { d with pose := { d.pose with
      epochNow := none, epochBefore := some (e, v, h), accel := if d.imuAccel.isSome then d.pose.accel else acc } }

/-- R77: one batch of a correction that is being spread. -/
def Dev.spreadStep (d : Dev) : Dev :=
  if d.pose.converging then
    let l := lengthOf (d.pose.leftEast, d.pose.leftNorth)
    let limit := 50 * 65536
    let part := fun (x : Int) => if l ≤ limit then x else x * limit / max 1 l
    let e := part d.pose.leftEast
    let n := part d.pose.leftNorth
    { d with pose := { d.pose with
      east := d.pose.east + e, north := d.pose.north + n
      leftEast := d.pose.leftEast - e, leftNorth := d.pose.leftNorth - n, converging := !(l ≤ limit) } }
  else d

/-- R83, R85: the scaled speed of the first FREQ input of a function that has counted an edge. -/
def Dev.inputSpeed (d : Dev) (fn : Nat) : Option Int :=
  match (List.finRange 8).find? fun n => d.nat (freqAdr n 1) = fn && d.inp.freq[n].last.isSome with
  | some n => some (d.int (freqAdr n 0x0A)).natAbs
  | none => none

/-- R72: radar and wheel speed deliver once their input has counted an edge. -/
def Dev.speedDelivers (d : Dev) (fn : Nat) (k : PoseSource) : Dev :=
  if (d.inputSpeed fn).isSome && !(d.source k).seen then d.deliverSource k else d

/-- R72: the speeds (mm/s, not negative) of the speed sources in the fusion. -/
def Dev.speeds (d : Dev) : List Int :=
  let input := fun (fn : Nat) (k : PoseSource) => if d.fused k then (d.inputSpeed fn).toList else []
  (if d.fused .gnss then [((d.pose.speed / 65536).natAbs : Int)] else []) ++ input 1 .radar ++ input 2 .wheel

/-- R72, R492: the fused speed: the speed of the only source, or a free value where two or more are fused; its sign as
R492 says. -/
def Dev.speedStep (d : Dev) : Dev :=
  let d := (d.speedDelivers 1 .radar).speedDelivers 2 .wheel
  let rev := d.wheelDirection.getD d.pose.reverse
  let d := { d with pose := { d.pose with reverse := rev } }
  match d.speeds with
  | [] => d
  | [v] =>
    if d.fused .gnss then d
    else { d with pose := { d.pose with speed := (if rev then -v else v) * 65536 } }
  | vs =>
    let v := clampI 0 20000 (Config.fuseSpeed vs)
    { d with pose := { d.pose with speed := (if rev then -v else v) * 65536 } }

/-- R74: what a speed source reads, mm/s, not negative. -/
def Dev.reading (d : Dev) : PoseSource → Option Int
  | .gnss => d.pose.doppler
  | .radar => d.inputSpeed 1
  | .wheel => d.inputSpeed 2
  | _ => none

/-- R74: a reading disagrees with the fused speed by more than 10 % + 300 mm/s; a radar without pulses disagrees with any speed
above 600 mm/s. -/
def disagrees (fused reading : Int) : Bool := fused.natAbs + 3000 < 10 * ((reading.natAbs : Int) - fused.natAbs).natAbs

/-- R74: since when a speed source has disagreed or agreed. -/
def Dev.judgeSource (d : Dev) (k : PoseSource) : Dev :=
  match d.reading k with
  | none => d
  | some r =>
    let bad := disagrees (d.pose.speed / 65536) r || 20000 < r
    d.setSource k fun x => { x with
      disagreeAt := if bad then some (x.disagreeAt.getD d.seq.t0) else none
      agreeAt := if bad then none else some (x.agreeAt.getD d.seq.t0) }

/-- R68, Table 3.2: the deflection that a baseline fix gives: the angle from the baseline by the unflexed model to the
measured one. -/
def Dev.baseFlex (d : Dev) (b : BaselineFix) : Int :=
  let measured := angleOf (b.east, b.north) - 2 ^ 30 - d.headingAt b.epoch
  angSigned (toAng (signed32 (measured - angleOf (b.antX, b.antY)) % 2 ^ 32))

/-- R68: one measurement of a segment's deflection; none where it failed. -/
def Dev.measureFlex (d : Dev) (s : Fin 16) (v : Option Int) : Dev :=
  let x := d.pose.segments[s]
  match v with
  | some a =>
    if a.natAbs ≤ 2048 then
      if !x.flexFailed then
        { d with pose := { d.pose with segments := updateAt d.pose.segments s fun x => { x with flex := a } } }
      else if x.flexGood + 1 < 20 then
        { d with pose := { d.pose with
          segments := updateAt d.pose.segments s fun x => { x with flexGood := x.flexGood + 1 } } }
      else
        ({ d with pose := { d.pose with segments := updateAt d.pose.segments s fun x =>
          { x with flex := a, flexFailed := false, flexGood := 0 } } } : Dev).raise 0x0203 2 s
          [(2, Config.eventCause 0x0203 0)]
    else d.flexFails s
  | none => d.flexFails s

/-- R68: the deflection of a segment at a boundary. -/
def Dev.flexStep (d : Dev) (s : Fin 16) : Dev :=
  let k := d.nat (adr (0x2020 + s) 7)
  match d.flexSource s with
  | 0 => { d with pose := { d.pose with
      segments := updateAt d.pose.segments s fun x => { x with flex := 0, flexFailed := false, flexGood := 0 } } }
  | 1 =>
    if !d.sourceEnabled .movingBaseline then
      { d with pose := { d.pose with
        segments := updateAt d.pose.segments s fun x => { x with flex := 0, flexFailed := false, flexGood := 0 } } }
    else if d.fused .movingBaseline && d.pose.newBases.any (fun p => p.val = k) then
      match (if h : k < 32 then d.pose.baselines[k] else none) with
      | some b => d.measureFlex s (if b.implausible || b.state = 0 then none else some (d.baseFlex b))
      | none => d
    else d
  | _ =>
    if h : k < 16 then
      let bad := d.inp.ainFailed[k] || d.nat (adr (0x2040 + k) 1) = 0
      d.measureFlex s (if bad then none
        else some (qMul (d.int (adr (0x2040 + k) 8)) (d.int (adr (0x2020 + s) 8))))
    else d.flexFails s

/-- R69: a segment's height source fails, once with its event. -/
def Dev.heightFails (d : Dev) (s : Fin 16) : Dev :=
  let x := d.pose.segments[s]
  let d' := { d with pose := { d.pose with
    segments := updateAt d.pose.segments s fun x => { x with heightFailed := true, heightGood := 0 } } }
  if x.heightFailed then d' else d'.raise 0x0203 1 s [(2, Config.eventCause 0x0203 1)]

/-- R69: one good measurement of a height; the source returns at the twentieth in a row. -/
def Dev.heightGood (d : Dev) (s : Fin 16) : Dev :=
  let x := d.pose.segments[s]
  if !x.heightFailed then d
  else if x.heightGood + 1 < 20 then
    { d with pose := { d.pose with
      segments := updateAt d.pose.segments s fun x => { x with heightGood := x.heightGood + 1 } } }
  else
    ({ d with pose := { d.pose with segments := updateAt d.pose.segments s fun x =>
      { x with heightFailed := false, heightGood := 0 } } } : Dev).raise 0x0203 2 s [(2, Config.eventCause 0x0203 1)]

/-- R69: a write of 0x2020:0D that comes within 200 ms of the one before counts as a good measurement; a later one starts the
run again. -/
def Dev.heightWritten (d : Dev) (s : Fin 16) : Dev :=
  let x := d.pose.segments[s]
  let near : Bool := match x.heightAt with
    | some t => decide (d.time.now ≤ t + 200000000)
    | none => false
  let d : Dev := { d with pose := { d.pose with segments := updateAt d.pose.segments s fun x =>
    { x with heightAt := some d.time.now, heightGood := if near then x.heightGood else 0 } } }
  if near && d.nat (adr (0x2020 + s) 9) = 2 then d.heightGood s else d

/-- R69: the height source of a segment at a boundary. -/
def Dev.heightStep (d : Dev) (s : Fin 16) : Dev :=
  match d.nat (adr (0x2020 + s) 9) with
  | 1 =>
    let k := d.nat (adr (0x2020 + s) 0x0B)
    if h : k < 16 then
      if d.inp.ainFailed[k] || d.nat (adr (0x2040 + k) 1) = 0 then d.heightFails s else d.heightGood s
    else d.heightFails s
  | 2 =>
    match d.pose.segments[s].heightAt with
    | some t => if t + 200000000 < d.time.now then d.heightFails s else d
    | none => if d.power.releasedAt + 200000000 < d.time.now then d.heightFails s else d
  | _ => { d with pose := { d.pose with
      segments := updateAt d.pose.segments s fun x => { x with heightFailed := false, heightGood := 0 } } }

/-- R69: the height of a segment, mm. -/
def Dev.segmentHeight (d : Dev) (s : Fin 16) : Int :=
  let i := 0x2020 + s.val
  let k := d.nat (adr i 0x0B)
  if d.pose.segments[s].heightFailed then d.int (adr i 0x0A)
  else match d.nat (adr i 9) with
    | 1 => clampI 0 3000 (d.int (adr (0x2040 + k) 8))
    | 2 => d.takenInt (adr i 0x0D)
    | _ => d.int (adr i 0x0A)

/-- R101: a switch formed from the DIN inputs of a function: active when every one of them is high. -/
def Dev.dinSwitch (d : Dev) (fn : Nat) : Bool :=
  (List.finRange 8).all fun n => d.nat (adr 0x2050 (1 + n)) ≠ fn || d.inp.dinSnap[n]

/-- R70: the folded segments, as bits. -/
def Dev.foldedSegments (d : Dev) : Nat :=
  let parents : Vector Nat 16 := Vector.ofFn fun s => d.nat (adr (0x2020 + s.val) 1)
  let own := fun (s : Fin 16) =>
    let k := d.nat (adr (0x2020 + s) 0x0C)
    if h : k < 8 then d.inp.dinSnap[k] && d.nat (adr 0x2050 (1 + k)) = 3 else false
  let active := (List.finRange 16).foldl (fun m s => m + if own s then 2 ^ s.val else 0) 0
  (List.range 16).foldl (fun m s => m + if foldedBy parents active 16 s then 2 ^ s else 0) 0

/-- R75: the pose quality of the sources. -/
def Dev.quality (d : Dev) : Nat :=
  if d.sourceEnabled .gnss && (d.source .gnss).valid then d.pose.solution
  else match d.pose.gnssLostAt with
    | some t =>
      if (d.fused .radar || d.fused .wheel) && !d.pose.deadEnded && d.seq.t0 < t + 1000 * d.nat 0x200004 then 1 else 0
    | none => 0

/-- R72: SHAPE's boom state for t0. -/
def Dev.boomNow (d : Dev) : BoomState :=
  let (roll, pitch) := d.attitude
  let q := d.quality
  { t0 := d.seq.t0, east := d.pose.east / 65536, north := d.pose.north / 65536, up := d.pose.up / 65536,
    heading := toAng d.pose.heading, roll := roll % 65536, pitch := pitch % 65536,
    speed := clampI (-20000) 20000 (d.pose.speed / 65536), accel := d.pose.accel, yawRate := d.pose.yawRate,
    deflection := Vector.ofFn fun s => d.pose.segments[s].flex, height := Vector.ofFn fun s => d.segmentHeight s,
    quality := q,
    sigma := if 2 ≤ q then d.pose.sigma else if q = 1 then Config.deadSigma d.draws else 0xFFFFFFFF,
    automatic := d.nat 0x210001 = 1, sections := Vector.ofFn fun k => d.nat (adr 0x2101 (1 + k.val)),
    folded := d.foldedSegments, master := d.dinSwitch 1 && !d.can.iso.workOff, work := d.dinSwitch 2,
    blocked := d.can.iso.blocked,
    parents := Vector.ofFn fun s => d.nat (adr (0x2020 + s.val) 1),
    hinges := Vector.ofFn fun s => (d.int (adr (0x2020 + s.val) 2), d.int (adr (0x2020 + s.val) 3)),
    spans := d.pose.spans.map fun x => x.map fun y => (y.low - d.int 0x230007, y.high + d.int 0x230007)
    noPaging := decide (d.nat 0x22000A = 1) }

/-- R73: keep a boom state; those of the last 256 ms are kept. -/
def Dev.keepBoom (d : Dev) (b : BoomState) : Dev :=
  let keep := (b :: d.pose.history).filter fun x => b.t0 ≤ x.t0 + 256000000
  { d with pose := { d.pose with
    before := d.pose.boom, boom := b, history := keep, received := true, stale := false
    qualityAt := if 1 ≤ b.quality then some b.t0.toNat else d.pose.qualityAt } }

/-- R492, R350: a moving-baseline fix in the fusion gives the boom heading. -/
def Dev.baseHeading (d : Dev) : Dev :=
  match d.headingBase with
  | some b =>
    if d.pose.newBases.any (fun p => p = b.position) && b.state ≠ 0 && !b.implausible then
      let h := angleOf (b.east, b.north) - 2 ^ 30 - angleOf (b.antX, b.antY)
      { d with pose := { d.pose with
        headed := true, heading := (h + d.pose.yawRate * (d.seq.t0 - b.epoch) / 10 ^ 9) % 2 ^ 32 } }
    else d
  | none => d

/-- R73: drop the baseline fixes that arrive too late, and count them. -/
def Dev.oldBases (d : Dev) : Dev :=
  let old := fun (p : Fin 32) => match d.pose.baselines[p] with
    | some b => (d.seq.t0 : Int) - b.epoch > 100000000
    | none => true
  let n := (d.pose.newBases.filter old).length
  { d with pose := { d.pose with newBases := d.pose.newBases.filter fun p => !old p } }.add 0x20010E n

/-- R72, R183: the frame of SHAPE on the lead at a boundary: predict and correct. What it gives is the boom state of the batch
once the task has ended. -/
def Dev.shape (d : Dev) (dt : Int) : Dev :=
  let d := (d.imuStep.predictShape dt).oldBases
  let d := if d.pose.newBases = [] then d else d.deliverSource .movingBaseline
  let d := d.fixStep.spreadStep.baseHeading.speedStep.accelStep
  let d := [PoseSource.gnss, .radar, .wheel].foldl Dev.judgeSource d
  let d := (List.finRange 16).foldl (fun d s => (d.flexStep s).heightStep s) d
  let b := d.boomNow
  let d := if b.quality = 1 then d.draw else d
  { d with pose := { d.pose with newBases := [], shaped := some b } }

/-- R76: the boom state that SHAPE's task has ended with is published to every device. -/
def Dev.publishBoom (d : Dev) : Dev :=
  match d.pose.shaped with
  | none => d
  | some b =>
    let d := d.keepBoom b
    ({ d with
      pose := { d.pose with shaped := none, lastGood := b }
      seq := { d.seq with staleRun := 0 } } : Dev).send (.boom b)

/-! ### Wheelers -/

/-- R76: a device takes the lead's boom state: its own copy, and what a shadow SHAPE starts from (R79). -/
def Dev.takeBoom (d : Dev) (b : BoomState) : Dev :=
  let d := d.keepBoom b
  { d with
    pose := { d.pose with
      lastGood := b, east := b.east * 65536, north := b.north * 65536, up := b.up * 65536
      heading := ofAng b.heading, speed := b.speed * 65536, accel := b.accel, yawRate := b.yawRate
      reverse := b.speed < 0, placed := true, headed := true }
    seq := { d.seq with staleRun := 0 } }

/-- R46, R76: a boom state extrapolated to t0, with an acceleration and its quality capped. -/
def extrapolated (b : BoomState) (t0 accel : Int) (cap : Nat) : BoomState :=
  let m := motionOf b
  let x := (Fused.mk m.east m.north m.heading (b.speed * 65536)).step (t0 - b.t0, b.yawRate, accel)
  { b with
    t0 := t0, east := x.east / 65536, north := x.north / 65536, heading := toAng x.heading
    speed := clampI (-20000) 20000 (x.speed / 65536), accel := accel, quality := min cap b.quality }

/-- R46, R76: no boom state for the batch by the end of Phase A, on the lead or a wheeler: the first stale batch extrapolates
the one before; from the second on, the last one received or published, by its speed and yaw rate alone, at quality 1 at most,
and 0 once the dead-reckoning limit has run. -/
def Dev.staleBoom (d : Dev) : Dev :=
  if d.pose.received then d
  else
    let run := d.seq.staleRun + 1
    let g := d.pose.lastGood
    let ended := g.t0 + 1000 * d.nat 0x200004 ≤ d.seq.t0
    let b := if run ≤ 1 then extrapolated d.pose.boom d.seq.t0 (clampI (-3000) 3000 d.pose.boom.accel) 5
      else extrapolated g d.seq.t0 0 (if ended then 0 else 1)
    let d := { d with seq := { d.seq with staleRun := run } }
    let d := d.keepBoom b
    (({ d with pose := { d.pose with stale := true, received := false } } : Dev).bump 0x180404).raise 0x0103 0 0xFFFF []

/-! ### Status -/

/-- Table 3.8: the pose source status. -/
def Dev.poseStatus (d : Dev) : Nat :=
  let on := fun (k : Nat) (b : Bool) => if b then 2 ^ k else 0
  on 0 (d.fused .gnss) + on 1 (d.fused .gnss) + on 2 (d.fused .movingBaseline) + on 3 (d.fused .imu)
  + on 4 (d.fused .radar) + on 5 (d.fused .wheel)
  + on 6 (d.pose.segments.toList.any fun x => x.flexFailed || x.heightFailed)
  + on 7 (d.pose.gnssLostAt.isSome && d.pose.boom.quality = 1) + on 8 (d.fused .imu) + on 9 d.pose.converging

/-- Table 3.6: the objects of the boom state, for the status snapshot. -/
def Dev.publishPose (d : Dev) : Dev :=
  let b := d.pose.boom
  let d := (((d.put 0x200101 b.east).put 0x200102 b.north).put 0x200103 b.up).put 0x200104 b.heading
  let d := (((d.put 0x200105 b.speed).put 0x200106 b.yawRate).put 0x200107 b.quality).put 0x200108 b.sigma
  let d := ((((d.put 0x200109 b.t0).put 0x20010A d.poseStatus).put 0x20010B b.roll).put 0x20010C b.pitch).put
    0x20010D b.accel
  let d := (List.finRange 16).foldl (fun d s =>
    (d.put (adr (0x2020 + s) 0x0E) (b.deflection[s] % 65536)).put (adr (0x2020 + s) 0x0F) b.height[s]) d
  d.put 0x205803 d.supplyStatus

/-! ### Events -/

/-- R344, R73: a solution of the device's own baseband reaches SHAPE, which applies it at the next boundary. -/
def Dev.takeFix (d : Dev) (f : GnssFix) : Dev :=
  if f.kind < 2 then d else { d with pose := { d.pose with fix := some f, fresh := true } }

/-- R350, Table 3.2: a moving-baseline fix reaches the lead; an implausible one is not used, and loses the source. -/
def baselineFixEff (d : Dev) (b : BaselineFix) : Dev :=
  if !d.isLead then d
  else if b.implausible || b.state = 0 then
    if b.implausible && d.sourceEnabled .movingBaseline && (d.source .movingBaseline).valid then d.loseBases [b.position] else d
  else
    { d with pose := { d.pose with
      baselines := d.pose.baselines.set b.position (some b)
      newBases := d.pose.newBases.filter (fun p => p ≠ b.position) ++ [b.position] } }

/-- R72: no IMU update for the IMU timeout. -/
def imuTimeoutEff (d : Dev) : Dev :=
  match d.pose.imuAt with
  | some t => if t + 1000 * d.nat 0x200303 ≤ d.chain then d.loseSource .imu else d
  | none => d

/-- R69: 0x2020:0D has not been written for 200 ms. -/
def heightTimeoutEff (d : Dev) (s : Fin 16) : Dev :=
  if d.nat (adr (0x2020 + s) 9) = 2 then
    match d.pose.segments[s].heightAt with
    | some t => if t + 200000000 ≤ d.time.now then d.heightFails s else d
    | none => if d.power.releasedAt + 200000000 ≤ d.time.now then d.heightFails s else d
  else d

/-- R74: the speed sources that can be implausible. -/
def speedSource : PoseSource → Bool
  | .gnss => true
  | .radar => true
  | .wheel => true
  | _ => false

/-- R74: a speed source that has disagreed for 2 s running, or reads more than 20,000 mm/s, leaves the fusion; for radar and
wheel speed that is their loss (Table 3.2). -/
def implausibleEff (d : Dev) (k : PoseSource) (reading : Int) : Dev :=
  let long := (d.source k).disagreeAt.any fun t => t + 2000000000 ≤ d.chain
  if speedSource k && d.sourceEnabled k && (d.source k).seen && !(d.source k).implausible
      && ((long && disagrees d.pose.boom.speed reading) || 20000 < reading.natAbs) then
    let d := (d.setSource k fun x => { x with implausible := true }).raise 0x0204 1 (sourcePlace k)
      [(2, Config.eventCause 0x0204 (sourcePlace k)), (3, reading)]
    if k = .gnss then d else d.sourceEvent k true
  else d

/-- R74: an implausible source has agreed for 10 s running and rejoins. -/
def rejoinEff (d : Dev) (k : PoseSource) : Dev :=
  if (d.source k).implausible && (d.source k).agreeAt.any (fun t => t + 10000000000 ≤ d.chain) then
    let d := (d.setSource k fun x => { x with implausible := false }).raise 0x0204 2 (sourcePlace k)
      [(2, Config.eventCause 0x0204 (sourcePlace k)), (3, d.pose.boom.speed)]
    if k = .gnss then d else d.sourceEvent k false
  else d

/-- R76, Table 3.4: the dead-reckoning limit has run: quality 0. -/
def deadReckoningEff (d : Dev) : Dev :=
  let limit := 1000 * d.nat 0x200004
  let run := if d.isLead then
      match d.pose.gnssLostAt with
      | some t => t + limit ≤ d.chain
      | none => false
    else 2 ≤ d.seq.staleRun && d.pose.lastGood.t0 + limit ≤ d.chain
  if run then
    { d with pose := { d.pose with deadEnded := true, boom := { d.pose.boom with quality := 0 } } }
  else d

/-! ### Meanings -/

/-- MOVING_BASELINE_FIX (R350). -/
def execMovingBaselineFix (fix : BaselineFix) (t : Nat) (s : State) : Host.Outcome State Fault Refusal :=
  s.logic t fun d => baselineFixEff d fix

/-- BOOM_STATE (R46, R76): a wheeler takes the boom state of the present batch while Phase A lasts. -/
def execBoomState (state : BoomState) (t : Nat) (s : State) : Host.Outcome State Fault Refusal :=
  s.logic t fun d => if !d.isLead && d.seq.phase = 0 && state.t0 = d.seq.t0 then d.takeBoom state else d

/-- POSE_SOURCE_LOSS (R77). -/
def execPoseSourceLoss (src : PoseSource) (t : Nat) (s : State) : Host.Outcome State Fault Refusal :=
  s.logic t fun d => d.loseSource src

/-- IMU_TIMEOUT (R72). -/
def execImuTimeout (t : Nat) (s : State) : Host.Outcome State Fault Refusal := s.logic t imuTimeoutEff

/-- HEIGHT_INPUT_TIMEOUT (R69). -/
def execHeightInputTimeout (seg : Fin 16) (t : Nat) (s : State) : Host.Outcome State Fault Refusal :=
  s.logic t fun d => heightTimeoutEff d seg

/-- SPEED_SOURCE_IMPLAUSIBLE (R74). -/
def execSpeedSourceImplausible (src : PoseSource) (reading : Int) (t : Nat) (s : State) :
    Host.Outcome State Fault Refusal :=
  s.logic t fun d => implausibleEff d src reading

/-- SPEED_SOURCE_REJOIN (R74). -/
def execSpeedSourceRejoin (src : PoseSource) (t : Nat) (s : State) : Host.Outcome State Fault Refusal :=
  s.logic t fun d => rejoinEff d src

/-- DEAD_RECKONING_LIMIT (R76). -/
def execDeadReckoningLimit (t : Nat) (s : State) : Host.Outcome State Fault Refusal := s.logic t deadReckoningEff

end Sys2Proof.Machine
end

