-- ==== Sys2Proof/Machine/TileMap.lean ====
section
/-! DEFINITION. Tiles and cells as the decision and paint units read them (R128 to R137, R151): coordinates, the sparse
record in canonical form, homes, and which copies are valid. -/

namespace Sys2Proof.Machine

/-! ### Sparse records -/

/-- The entry of a key in a sparse table, or its fill value. -/
def sparseGet {α : Type} (fill : α) : List (Nat × α) → Nat → α
  | [], _ => fill
  | (j, v) :: r, k => if j = k then v else if k < j then fill else sparseGet fill r k

/-- Set a key, with keys rising and no entry equal to the fill value. -/
def sparseSet {α : Type} [DecidableEq α] (fill : α) : List (Nat × α) → Nat → α → List (Nat × α)
  | [], k, v => if v = fill then [] else [(k, v)]
  | (j, w) :: r, k, v =>
    if k < j then if v = fill then (j, w) :: r else (k, v) :: (j, w) :: r
    else if k = j then if v = fill then r else (k, v) :: r
    else (j, w) :: sparseSet fill r k v

/-- Table 5.3: the byte of a cell (key 256 r + c). -/
def cellOf (r : TileRecord) (k : Nat) : Nat := (sparseGet r.fill r.cells k).toNat

/-- Set the byte of a cell. -/
def setCell (r : TileRecord) (k v : Nat) : TileRecord :=
  { r with cells := sparseSet r.fill r.cells k (BitVec.ofNat 8 v) }

/-- Table 5.3: the prescription of product p in the sub-cell of a cell. -/
def prescription (r : TileRecord) (cell p : Nat) : Nat :=
  sparseGet r.rxFill r.rx (4 * (32 * (cell / 256 / 8) + cell % 256 / 8) + p)

/-- A record in canonical form from any other. -/
def canonicalRecord (r : TileRecord) : TileRecord :=
  { r with cells := r.cells.foldl (fun l e => sparseSet r.fill l e.1 e.2) []
           rx := r.rx.foldl (fun l e => sparseSet r.rxFill l e.1 e.2) [] }

/-- R143: a blank tile: dose 15, a class, no prescription. -/
def blankRecord (cls : Nat) : TileRecord :=
  { fill := BitVec.ofNat 8 (0xF0 + 4 * (cls % 4)), cells := [], rxFill := 0xFFFF, rx := [] }

/-! ### Coordinates -/

/-- R128: the cell size, mm. -/
def Dev.cellMm (d : Dev) : Nat := 25 * 2 ^ d.nat 0x220001

/-- R128: the tile edge, mm. -/
def Dev.tileMm (d : Dev) : Nat := 256 * d.cellMm

/-- R129: the tile coordinate of indices i (east) and j (north). -/
def tileCoord (i j : Int) : Nat := (j % 65536).toNat * 65536 + (i % 65536).toNat

/-- R129: the east index of a coordinate. -/
def tileI (c : Nat) : Int := angSigned (c % 65536)

/-- R129: the north index of a coordinate. -/
def tileJ (c : Nat) : Int := angSigned (c / 65536)

/-- R128, R129: the tile and the cell of a field position (1/65,536 mm). -/
def Dev.place (d : Dev) (p : Int × Int) : Nat × Nat :=
  let e : Int := 65536 * d.tileMm
  let c : Int := 65536 * d.cellMm
  (tileCoord (p.1 / e) (p.2 / e), 256 * (p.2 % e / c).toNat + (p.1 % e / c).toNat)

/-! ### Homes -/

/-- R139: the positions of a present-device map, in order. -/
def presentList (map : Nat) : List Nat := (List.range 32).filter map.testBit

/-- R139: the home of a tile by a present-device map. -/
def homeIn (map c : Nat) : Nat :=
  let l := presentList map
  let n : Int := max 1 l.length
  (l[((7 * tileI c + 13 * tileJ c) % n).toNat]?).getD 0

/-- R139: the home of a tile now. -/
def Dev.home (d : Dev) (c : Nat) : Nat := homeIn d.seq.map c

/-! ### Slots -/

/-- R151: a slot state with a valid copy. -/
def validState (k : Nat) : Bool := k = 2 || k = 3 || k = 4 || k = 5

/-- The slot of a tile of the current session. -/
def Dev.slotOf (d : Dev) (c : Nat) : Option Slot := d.tiles.slots.find? fun x => x.coord = c && x.role ≠ 3

/-- R151: the copy of a tile that serves SWEEP. -/
def Dev.serving (d : Dev) (c : Nat) : Option Slot :=
  d.tiles.slots.find? fun x => x.coord = c && x.role ≠ 3 && x.ready && validState x.state

/-- Update the slot of a tile. -/
def Dev.setSlot (d : Dev) (c : Nat) (f : Slot → Slot) : Dev :=
  { d with tiles := { d.tiles with
    slots := d.tiles.slots.map fun x => if x.coord = c && x.role ≠ 3 then f x else x } }

/-- R136: the lowest free slot. -/
def Dev.freeSlot (d : Dev) : Option (Fin 112) :=
  (List.finRange 112).find? fun k => !(d.tiles.withdrawn.any (· = k)) && d.tiles.slots.all fun x => x.index ≠ k

/-! ### Rates at a place -/

/-- R111, R133: the rate in counts that a copy of a tile, or the fallback without one, gives for a product. -/
def Dev.rateCounts (d : Dev) (product cell : Nat) (copy : Option Slot) : Nat :=
  let fallback := d.nat (adr 0x2110 (5 + product))
  match copy with
  | some x => let v := prescription x.record cell product; if v = 0xFFFF then fallback else v
  | none => fallback

/-- R111, R133: the rate in counts for an outlet at a cell of a copy, and the product whose scale applies. -/
def Dev.countsIn (d : Dev) (n : Fin 32) (cell : Nat) (copy : Option Slot) : Nat × Nat :=
  let p := d.nat (outletAdr n 0x18)
  if p = 0xFF then (d.nat (outletAdr n 0x19), 0) else (d.rateCounts p cell copy, p)

/-- R111: the rate in counts that RATE reads at a place. -/
def Dev.outletCounts (d : Dev) (n : Fin 32) (place_ cell : Nat) : Nat × Nat := d.countsIn n cell (d.serving place_)

/-- R133: the rate in counts that PAINT reads at a place: of any valid copy. -/
def Dev.paintCounts (d : Dev) (n : Fin 32) (place_ cell : Nat) : Nat × Nat :=
  d.countsIn n cell ((d.slotOf place_).filter fun x => validState x.state)

/-- R111: the scale of a product, Q16.16. -/
def Dev.productScale (d : Dev) (p : Nat) : Int := d.int (adr 0x2110 (1 + p))

/-! ### Flow curves -/

/-- Table 4.4: the curve of an outlet. -/
def Dev.curve (d : Dev) (n : Fin 32) : List Byte := d.str (adr (0x2120 + d.nat (outletAdr n 0x1A)) 0)

/-- R113: the duty for a flow by linear interpolation, free beyond the curve's points. -/
def curveDuty (c : List Byte) (flow : Nat) : Nat :=
  let du := fun k => le16 c (4 + 4 * k)
  let fl := fun k => le16 c (6 + 4 * k)
  if flow < fl 0 || fl 8 < flow then Config.curveDutyBeyond flow c
  else match (List.range 9).find? fun k => flow ≤ fl k with
    | none => du 8
    | some 0 => du 0
    | some k =>
      let j := k - 1
      du j + (du k - du j) * (flow - fl j) / max 1 (fl k - fl j)

/-- R116, R144: the flow for a duty by the same curve. -/
def curveFlow (c : List Byte) (duty : Nat) : Nat :=
  let du := fun k => le16 c (4 + 4 * k)
  let fl := fun k => le16 c (6 + 4 * k)
  if duty < du 0 || du 8 < duty then Config.curveFlowBeyond duty c
  else match (List.range 9).find? fun k => duty ≤ du k with
    | none => fl 8
    | some 0 => fl 0
    | some k =>
      let j := k - 1
      fl j + (fl k - fl j) * (duty - du j) / max 1 (du k - du j)

end Sys2Proof.Machine
end

