-- ==== Sys2Proof/Machine/Sweep.lean ====
section
/-! DEFINITION. PREDICT and SWEEP (R80 to R82, R90, R97 to R107, R151): what an outlet's path crosses within its
horizon. -/

namespace Sys2Proof.Machine

/-! ### Delays and horizon -/

/-- R95: a part within the bounds in force. -/
def Dev.inEnvelope (d : Dev) (n : Fin 32) (on : Bool) (v : Nat) : Nat :=
  max (d.nat (outletAdr n (if on then 0x1E else 0x20))) (min (d.nat (outletAdr n (if on then 0x1F else 0x21))) v)

/-- R90, R92, R95, R96: the electrical-mechanical part of an outlet's on-delay or off-delay, µs: what it has learned, or
the initial value within the bounds; a row meter's is the initial value. -/
def Dev.electrical (d : Dev) (n : Fin 32) (on : Bool) : Nat :=
  let x := d.dec.outlets[n]
  let first := d.nat (outletAdr n (if on then 0x1C else 0x1D))
  if d.nat (outletAdr n 1) = 3 then first
  else if !x.learned then d.inEnvelope n on first
  else if on then x.onDelay.value else x.offDelay.value

/-- R127: an outlet that has never learned shows the initial parts in force. -/
def Dev.showParts (d : Dev) (n : Fin 32) : Dev :=
  (d.put (outletAdr n 0x22) (d.electrical n true)).put (outletAdr n 0x23) (d.electrical n false)

/-- R90: an outlet's on-delay or off-delay, ns. -/
def Dev.delayNs (d : Dev) (n : Fin 32) (on : Bool) : Int :=
  1000 * (d.electrical n on + d.nat (outletAdr n (if on then 8 else 9)) : Nat)

/-- R98: the scheduling margin in force, ns. -/
def Dev.marginNs (d : Dev) : Nat :=
  max (1000 * d.nat 0x210003) (d.periodNs + d.periodNs * 7 / 10 + 20000)

/-- R98: the look-ahead horizon of an outlet, ns. -/
def Dev.horizonNs (d : Dev) (n : Fin 32) : Int := max (d.delayNs n true) (d.delayNs n false) + d.marginNs

/-! ### The path of one outlet -/

/-- R80, R81: what SWEEP and MATCH know of an outlet's path: the motion, where the outlet hangs, its along-track speed
(mm/s) and the acceleration. -/
structure Walk where
  motion : Motion
  hang : Int × Int
  speed : Int
  accel : Int

/-- The walk of an outlet at a boom state. -/
def Dev.walkOf (d : Dev) (b : BoomState) (n : Fin 32) : Walk :=
  ⟨motionOf b, d.outletOffset b n, d.alongTrack b n, clampI (-3000) 3000 b.accel⟩

/-- R81, R106: the distance along the outlet's path after `t` ns, 1/65,536 mm. -/
def Walk.dist (w : Walk) (t : Int) : Int :=
  w.speed * t * 65536 / 10 ^ 9 + w.accel * t * t * 65536 / (2 * 10 ^ 18)

/-- The time to which the path is followed: until it would turn back, at most 2^35 ns. -/
def Walk.limit (w : Walk) : Int :=
  if w.speed < 0 || (w.speed = 0 && w.accel ≤ 0) then 0
  else if w.accel < 0 then min (2 ^ 35 - 1) (w.speed * 10 ^ 9 / (- w.accel)) else 2 ^ 35 - 1

/-- R81, R98: how far along the path (mm) an outlet comes within a time (ns). -/
def Walk.reach (w : Walk) (t : Int) : Int := w.dist (min w.limit t) / 65536

/-- The last time at which the distance is at most `s`, by bits. -/
def Walk.invert (w : Walk) (s : Int) : Nat → Int → Int
  | 0, t => t
  | k + 1, t => w.invert s k (if w.dist (t + 2 ^ k) ≤ s && t + 2 ^ k ≤ w.limit then t + 2 ^ k else t)

/-- R106: the crossing time (ns) of a distance (mm): the path of R81 inverted. -/
def Walk.time (w : Walk) (s : Int) : Int :=
  if s ≤ 0 then s * 10 ^ 9 / max 1 w.speed else w.invert (s * 65536) 35 0

/-- The field position of the point at `y` (1/65,536 mm) to the left of the outlet, after `t` ns. -/
def Walk.point (w : Walk) (t y : Int) : Int × Int :=
  let p := w.motion.at w.hang t
  let h := w.motion.heading + w.motion.yawRate * t / 10 ^ 9
  (p.1 - y * cos32 h / 2 ^ 30, p.2 - y * sin32 h / 2 ^ 30)

/-! ### The sweep window -/

/-- R102, R104: what the sweep window at a point holds, as strip weight: all of it, over cells that need dose, over
cells in a blocking class; whether it reaches headland or a cell without a valid copy. -/
structure View where
  total : Nat := 0
  need : Nat := 0
  block : Nat := 0
  headland : Bool := false
  miss : Bool := false

/-- R102, R104, R151: add one sample of the window. -/
def Dev.sample (d : Dev) (v : View) (p : Int × Int) (weight : Nat) : View :=
  let (t, k) := d.place p
  let v := { v with total := v.total + weight }
  match d.serving t with
  | none => { v with miss := true, need := v.need + weight }
  | some x =>
    let c := cellOf x.record k
    let level := c / 16
    let cls := c / 4 % 4
    let needs := level < d.nat 0x210004 || level = 15
    let blocks := cls = 0 || cls = 3 || (cls = 2 && d.nat 0x21000B = 1)
    { v with
      need := if needs then v.need + weight else v.need
      block := if blocks then v.block + weight else v.block
      headland := v.headland || cls = 2 }

/-- R62, R64: the offsets (1/65,536 mm, from the left) and weights at which a strip is sampled, about a cell apart or
closer (log entry 11). -/
def stripSamples (cell : Nat) (strip : Nat × List Nat) : List (Int × Nat) :=
  let width := strip.1
  let bins := max 1 strip.2.length
  let k := (width / bins + cell) / cell
  let m := bins * k
  (List.range m).map fun (i : Nat) =>
    ((width : Int) * 65536 / 2 - ((2 * i + 1) * width * 65536 / (2 * m) : Nat), (strip.2[i / k]?).getD 0)

/-- R102: the sweep window from a distance (mm) along the path on. -/
def Dev.view (d : Dev) (w : Walk) (samples : List (Int × Nat)) (s : Int) : View :=
  let len := d.nat 0x210007
  let j := (len + d.cellMm - 1) / d.cellMm
  (List.range j).foldl (fun v k =>
    let t := w.time (s + (2 * k + 1) * len / (2 * j))
    samples.foldl (fun v y => d.sample v (w.point t y.1) y.2) v) {}

/-- R104: an outlet is blocked. -/
def Dev.blocked (d : Dev) (v : View) : Bool := 0 < v.block && d.nat 0x210008 * v.total ≤ 100 * v.block

/-- R103: the dose call after a window, from the call before it. -/
def Dev.doseNext (d : Dev) (call : Bool) (v : View) : Bool :=
  if call then d.nat 0x210006 * v.total ≤ 100 * v.need else d.nat 0x210005 * v.total ≤ 100 * v.need && 0 < v.total

/-! ### The walk -/

/-- R106: a crossing: its distance (mm) along the path with the tolerance of R105, what the call becomes, and whether
minimum times leave it where it is. -/
structure Crossing where
  s : Int
  on : Bool
  free : Bool

/-- What SWEEP finds for one outlet. -/
structure Swept where
  crossings : List Crossing := []
  dose : Bool := false
  blocked : Bool := false
  headland : Bool := false
  miss : Bool := false

/-- R151: the map-miss policy stops the walk at a miss (policies 1 and 2). -/
def Dev.missStops (d : Dev) (v : View) : Bool := v.miss && d.nat 0x220003 ≠ 0

/-- R106: the smallest distance in `(lo, lo + n]` (mm) at which a property holds, by halving; the far end where only it
does. -/
def firstHolds (p : Int → Bool) : Nat → Int → Int → Int
  | 0, _, hi => hi
  | k + 1, lo, hi =>
    if hi ≤ lo + 1 then hi
    else
      let mid := (lo + hi) / 2
      if p mid then firstHolds p k lo mid else firstHolds p k mid hi

/-- R103 to R106, R108: one stretch of the path, from `s`, where `dose` and `block` are in force, to `s'`: what they become, and
the crossings. A blocking area that begins gives its off crossing whatever the dose rule calls; one that ends gives an on
crossing where the dose rule then calls on. -/
def Dev.stretch (d : Dev) (w : Walk) (samples : List (Int × Nat)) (s s' : Int) (dose block : Bool) :
    Bool × Bool × List Crossing :=
  let v := d.view w samples s'
  let dose' := d.doseNext dose v
  let block' := d.blocked v
  let doseAt := fun (lo : Int) (was : Bool) => firstHolds (fun x => d.doseNext was (d.view w samples x) ≠ was) 12 lo s'
  let cs : List Crossing :=
    match block, block' with
    | true, true => []
    | false, false => if dose = dose' then [] else [⟨doseAt s dose, dose', false⟩]
    | false, true =>
      let c := firstHolds (fun x => d.blocked (d.view w samples x)) 12 s s'
      let first : List Crossing := if dose = dose' || c ≤ doseAt s dose then [] else [⟨doseAt s dose, dose', false⟩]
      first ++ [⟨c - d.int 0x21000A, false, true⟩]
    | true, false =>
      let c := firstHolds (fun x => !d.blocked (d.view w samples x)) 12 s s'
      let there := d.doseNext dose (d.view w samples c)
      if there then ⟨c + d.int 0x210009, true, true⟩ :: (if dose' then [] else [⟨doseAt c true, false, false⟩])
      else if dose' then [⟨doseAt c false, true, false⟩] else []
  (dose', block', cs)

/-- R103 to R106, R151: walk from step to step; `dose` and `block` are in force at `s`. Where a miss stops the walk, the stretch
up to it is evaluated first. -/
def Dev.walk (d : Dev) (w : Walk) (samples : List (Int × Nat)) : Nat → Int → Bool → Bool → Swept → Swept
  | 0, _, _, _, r => r
  | k + 1, s, dose, block, r =>
    let s' := s + d.cellMm
    let v := d.view w samples s'
    if d.missStops v then
      let m := firstHolds (fun x => d.missStops (d.view w samples x)) 12 s s'
      let cs := if m ≤ s + 1 then [] else (d.stretch w samples s (m - 1) dose block).2.2
      let off : List Crossing := if d.nat 0x220003 = 2 then [⟨m, false, true⟩] else []
      { r with miss := true, crossings := r.crossings ++ cs ++ off }
    else
      let x := d.stretch w samples s s' dose block
      d.walk w samples k s' x.1 x.2.1 { r with miss := r.miss || v.miss, crossings := r.crossings ++ x.2.2 }

/-- R105: the boundary crossings behind the outlet, from `s` to 0: whether it is blocked once those whose tolerance has run out
have taken effect, and those that a tolerance moves ahead of the outlet. -/
def Dev.passed (d : Dev) (w : Walk) (samples : List (Int × Nat)) : Nat → Int → Bool → Bool → List Crossing → Bool × List Crossing
  | 0, _, _, now, later => (now, later)
  | k + 1, s, block, now, later =>
    let s' := min 0 (s + d.cellMm)
    let block' := d.blocked (d.view w samples s')
    if block' = block then d.passed w samples k s' block' now later
    else
      let c := firstHolds (fun x => d.blocked (d.view w samples x) = block') 12 s s'
      let c' := if block' then c - d.int 0x21000A else c + d.int 0x210009
      if c' ≤ 0 then d.passed w samples k s' block' block' later
      else d.passed w samples k s' block' now (later ++ [⟨c', !block', true⟩])

/-- R100, R105, R106: SWEEP for one used outlet: its call at τ = 0 as the first crossing, and the crossings within its
horizon. The walk goes on beyond the horizon as far as a tolerance can move a crossing back into it, and begins behind the
outlet as far as one can move a crossing ahead. -/
def Dev.sweep (d : Dev) (n : Fin 32) : Swept :=
  let b := d.pose.boom
  let w := d.walkOf b n
  let samples := stripSamples d.cellMm (d.strip b n)
  let v := d.view w samples 0
  let reach := w.reach (d.horizonNs n)
  let ahead := max 0 (max (d.int 0x21000A) (- d.int 0x210009))
  let behind := max 0 (max (d.int 0x210009) (- d.int 0x21000A))
  let steps := ((reach + ahead) / d.cellMm).toNat + 1
  let block := d.blocked v
  if d.missStops v then
    { dose := d.dec.outlets[n].doseCall, miss := true, headland := v.headland,
      crossings := if d.nat 0x220003 = 2 then [⟨0, false, true⟩] else [] }
  else
    let dose := d.doseNext d.dec.outlets[n].doseCall v
    let start := d.blocked (d.view w samples (- behind))
    let back := if behind = 0 then (block, []) else
      d.passed w samples (behind / d.cellMm + 1).toNat (- behind) start start []
    let r := d.walk w samples steps 0 dose block
      { crossings := back.2.filter fun c => !c.on || dose, dose := dose, blocked := back.1, headland := v.headland, miss := v.miss }
    { r with crossings := ⟨0, dose && !back.1, block || back.1⟩ :: r.crossings.filter fun c => c.s ≤ reach }

/-! ### PREDICT -/

/-- R70: the outlet hangs on a folded segment. -/
def Dev.outletFolded (d : Dev) (n : Fin 32) : Bool := d.pose.boom.folded.testBit (d.nat (outletAdr n 4))

/-- Table 3.10: the prediction flags of an outlet at the boom state. -/
def Dev.predictFlags (d : Dev) (n : Fin 32) : Nat :=
  let b := d.pose.boom
  let u := d.alongTrack b n
  (if b.quality < d.nat 0x200003 then 1 else 0) + (if u < 0 then 2 else 0) + (if u < d.int 0x200005 then 4 else 0)
  + (if d.outletFolded n then 8 else 0) + (if d.heightClamped b n then 16 else 0)

/-- R80 to R82: PREDICT for one used outlet: speed, position and flags; the run of batches with both speed flags
clear. -/
def Dev.predict (d : Dev) (n : Fin 32) : Dev :=
  let b := d.pose.boom
  let p := (motionOf b).at (d.outletOffset b n) 0
  let f := d.predictFlags n
  { d with dec := { d.dec with outlets := updateAt d.dec.outlets n fun x => { x with
      lastAlong := if 1 ≤ b.quality then d.alongTrack b n else x.lastAlong
      along := clampI (-20000) 20000 (d.alongTrack b n), lateral := d.lateral b n, east := p.1 / 65536, north := p.2 / 65536, flags := f
      clearRun := if f / 2 % 4 = 0 then x.clearRun + 1 else 0 } } }

end Sys2Proof.Machine
end

