-- ==== Sys2Proof/Machine/Rate.lean ====
section
/-! DEFINITION. RATE and the rate loops (R111 to R118). -/

namespace Sys2Proof.Machine

/-- R115: the speed-lost rule, for an outlet under manual section control at quality 0: 0 not in use, 1 the last valid
speed is held, 2 the hold time has run. -/
def Dev.speedLost (d : Dev) : Nat :=
  if d.nat 0x210001 = 0 && d.pose.boom.quality = 0 then
    match d.pose.qualityAt with
    | some t => if d.seq.t0 < t + 1000 * d.nat 0x21000E then 1 else 2
    | none => 2
  else 0

/-- R112: the speed that the rate uses, mm/s. -/
def Dev.rateSpeed (d : Dev) (n : Fin 32) : Nat :=
  (if d.speedLost = 1 then d.dec.outlets[n].lastAlong else d.alongTrack d.pose.boom n).toNat

/-- R112: the target rate: mL/min for a nozzle, 0.001 seeds/s for a row meter, of a count of a product. -/
def Dev.targetRate (d : Dev) (n : Fin 32) (counts : Nat × Nat) : Nat :=
  let x := counts.1 * (d.productScale counts.2).toNat * d.rateSpeed n * d.nat (outletAdr n 6)
  match d.nat (outletAdr n 1) with
  | 1 => x * 6 / (65536 * 10 ^ 6)
  | 3 => x / (65536 * 10 ^ 7)
  | _ => 0

/-- R116: the loop that covers an outlet. -/
def Dev.loopOf (d : Dev) (n : Fin 32) : Option (Fin 4) :=
  (List.finRange 4).find? fun k => d.nat (adr (0x2130 + k) 1) ≠ 0 && (d.nat (adr (0x2130 + k) 3)).testBit n.val

/-- R116: the measured pressure (kPa) of a loop with pressure feedback. -/
def Dev.loopPressure (d : Dev) (k : Fin 4) : Int := d.int (adr (0x2040 + d.nat (adr (0x2130 + k) 2)) 8)

/-- R113: the flow that a target flow asks of the curve: with the loop's trim, and its pressure correction. -/
def Dev.curveTarget (d : Dev) (n : Fin 32) (flow : Nat) : Nat :=
  match d.loopOf n with
  | none => flow
  | some k =>
    let f := flow * (d.dec.loops[k].trim).toNat / 65536
    if d.nat (adr (0x2130 + k) 1) = 2 then
      let p := d.loopPressure k
      if p ≤ 0 then Config.flowWithoutPressure f else root (f * f * le32 (d.curve n) 0 / p.toNat)
    else f

/-- R113: duty and the rate-saturated flag of a target flow. -/
def Dev.dutyFor (d : Dev) (n : Fin 32) (flow : Nat) : Nat × Bool :=
  let x := curveDuty (d.curve n) (d.curveTarget n flow)
  let lo := d.nat (outletAdr n 0x1B)
  let y := max lo (min 10000 x)
  (y, y ≠ x && flow ≠ 0)

/-- R111: the counts at the outlet's predicted position after `t` ns. -/
def Dev.countsAt (d : Dev) (n : Fin 32) (w : Walk) (t : Int) : Nat × Nat :=
  let (c, k) := d.place (w.point t 0)
  d.outletCounts n c k

/-- Table 4.5: the value of a rate edge: duty for a nozzle, 0.01 seeds/s for a row meter. -/
def Dev.rateValue (d : Dev) (n : Fin 32) (counts : Nat × Nat) : Nat :=
  if d.nat (outletAdr n 1) = 3 then min 65535 (d.targetRate n counts / 10) else (d.dutyFor n (d.targetRate n counts)).1

/-- R111: an outlet that RATE drives: a nozzle in PWM mode or a row meter. -/
def Dev.rateDriven (d : Dev) (n : Fin 32) : Bool := d.nozzlePwm n || d.nat (outletAdr n 1) = 3

/-- R106: an instant rounded to the nearest 1 µs. -/
def micro (t : Int) : Nat := ((t + 500) / 1000 * 1000).toNat

/-- R114: the rate edges along the path: where the prescription changes between steps, the crossing to 1 mm, its instant and
the new counts. -/
def Dev.rateWalk (d : Dev) (n : Fin 32) (w : Walk) : Nat → Int → List (Int × Nat × (Nat × Nat))
  | 0, _ => []
  | k + 1, s =>
    let s' := s + d.cellMm
    let a := d.countsAt n w (w.time s)
    let b := d.countsAt n w (w.time s')
    if a = b then d.rateWalk n w k s'
    else
      let c := firstHolds (fun x => d.countsAt n w (w.time x) ≠ a) 12 s s'
      (c, micro (d.seq.t0 + w.time c - d.delayNs n true), b) :: d.rateWalk n w k s'

/-- What RATE finds for one outlet: target rate, value for a rate edge or speed update, flags, and rate edges. -/
structure Rated where
  rate : Nat := 0
  value : Nat := 0
  saturated : Bool := false
  lost : Bool := false
  edges : List (Nat × Nat) := []
  /-- the counts from τ = on-delay on, and from the instant of each rate edge on -/
  zone : Option (Nat × Nat) := none
  zones : List (Nat × (Nat × Nat)) := []

/-- R111 to R115: RATE for one used outlet. -/
def Dev.rateOf (d : Dev) (n : Fin 32) : Rated :=
  let ty := d.nat (outletAdr n 1)
  if ty = 2 then {}
  else match d.speedLost with
  | 2 =>
    if d.nozzlePwm n then
      { rate := curveFlow (d.curve n) (d.nat 0x21000F), value := d.nat 0x21000F, lost := true }
    else { lost := true }
  | k =>
    let w := d.walkOf d.pose.boom n
    let c := d.countsAt n w (d.delayNs n true)
    let rate := d.targetRate n c
    let reach := w.reach (d.horizonNs n)
    let found := if d.rateDriven n then (d.rateWalk n w ((reach / d.cellMm).toNat + 1) 0).filter fun x => x.1 ≤ reach else []
    { rate := rate, value := if d.rateDriven n then d.rateValue n c else 0,
      saturated := k = 0 && d.nozzlePwm n && (d.dutyFor n rate).2, lost := k = 1,
      edges := found.map fun x => (x.2.1, d.rateValue n x.2.2)
      zone := if d.rateDriven n then some c else none, zones := found.map fun x => x.2 }

/-! ### Rate loops -/

/-- R116: the outlets of a loop that are actually on. -/
def Dev.loopOutlets (d : Dev) (k : Fin 4) : List (Fin 32) :=
  d.usedOutlets.filter fun n => (d.nat (adr (0x2130 + k) 3)).testBit n.val && d.dec.outlets[n].on

/-- R116: the measured flow, mL/min. -/
def Dev.loopFlow (d : Dev) (k : Fin 4) : Nat :=
  let i := 0x2130 + k.val
  if d.nat (adr i 1) = 1 then
    let x := d.nat (adr i 2)
    (d.int (adr (0x2030 + x) 0x0A)).toNat
  else
    let p := (d.loopPressure k).toNat
    (d.loopOutlets k).foldl (fun q n =>
      let f := curveFlow (d.curve n) d.dec.outlets[n].duty
      q + root (f * f * p / max 1 (le32 (d.curve n) 0))) 0

/-- R117, R86: the feedback input of a loop has failed. -/
def Dev.feedbackBad (d : Dev) (k : Fin 4) : Bool :=
  let x := d.nat (adr (0x2130 + k) 2)
  if d.nat (adr (0x2130 + k) 1) = 2 then (if h : x < 16 then d.inp.ainFailed[x] else true)
  else false

/-- Update a loop. -/
def Dev.rateLoop (d : Dev) (k : Fin 4) (f : Loop → Loop) : Dev :=
  { d with dec := { d.dec with loops := updateAt d.dec.loops k f } }

/-- R117, R118: one batch of one loop. -/
def Dev.loopStep (d : Dev) (k : Fin 4) : Dev :=
  let i := 0x2130 + k.val
  let x := d.dec.loops[k]
  if d.nat (adr i 1) = 0 || d.nat 0x210002 = 0 then d.rateLoop k fun x => { x with state := 0, closed := false }
  else
    let qm := d.loopFlow k
    let d := d.rateLoop k fun x => { x with measured := qm }
    if d.feedbackBad k || (x.feedbackLost && !x.recovered) then
      d.rateLoop k fun x => { x with state := 3, closed := false, feedbackLost := true, recovered := false }
    else
      let outs := d.loopOutlets k
      let d := d.rateLoop k fun x => { x with feedbackLost := false, recovered := false }
      if outs = [] then d.rateLoop k fun x => { x with state := 4 }
      else
        let qt : Int := outs.foldl (fun q n => q + d.dec.outlets[n].rate) 0
        let e := if qt = 0 then Config.loopErrorAtZero qm else (qt - qm) * 65536 / qt
        let kp := d.int (adr i 4)
        if !x.closed then
          d.rateLoop k fun x => { x with
            integral := (x.trim - 65536) * 65536 - kp * e, closed := true, state := 1 }
        else
          let settle := 1000 * d.nat (adr i 8)
          let recent := fun (t : Option Nat) => match t with
            | some t => decide (d.seq.t0 < t + settle)
            | none => false
          let quiet := (List.finRange 32).all fun n => !(d.nat (adr i 3)).testBit n.val ||
            !(recent d.dec.outlets[n].lastOn || recent d.dec.outlets[n].lastOff)
          let step := d.int (adr i 5) * e * d.periodNs / 10 ^ 9
          let i' := if quiet then x.integral + step else x.integral
          let v := 65536 + (kp * e + i') / 65536
          let lo := d.int (adr i 6)
          let hi := d.int (adr i 7)
          if v < lo || hi < v then
            d.rateLoop k fun x => { x with trim := clampI lo hi v, state := 2 }
          else d.rateLoop k fun x => { x with trim := v, integral := i', state := 1 }

/-- R118: a swap that changes a loop's configuration returns its held trim to 1.0. -/
def Dev.swapLoops (d before : Dev) : Dev :=
  (List.finRange 4).foldl (fun d (k : Fin 4) =>
    let changed := (List.range 8).any fun s => d.int (adr (0x2130 + k) (s + 1)) ≠ before.int (adr (0x2130 + k) (s + 1))
    if changed then d.rateLoop k fun x => { inForce := x.inForce, inForceBefore := x.inForceBefore } else d) d

/-- The loop objects, for the status snapshot. -/
def Dev.publishLoops (d : Dev) : Dev :=
  (List.finRange 4).foldl (fun d (k : Fin 4) =>
    let x := d.dec.loops[k]
    ((d.put (adr (0x2130 + k) 9) x.trim).put (adr (0x2130 + k) 0x0A) x.measured).put (adr (0x2130 + k) 0x0B)
      x.state) d

/-- LOOP_FEEDBACK_RECOVERED (R117): the loop's input has been good for 1 s; the loop closes again in the next batch. -/
def execLoopFeedbackRecovered (loop : Fin 4) (t : Nat) (s : State) : Host.Outcome State Fault Refusal :=
  s.logic t fun d =>
    if d.dec.loops[loop].feedbackLost && !d.feedbackBad loop then d.rateLoop loop fun x => { x with recovered := true }
    else d

end Sys2Proof.Machine
end

