-- ==== Sys2Proof/Machine/Match.lean ====
section
/-! DEFINITION. MATCH (R161 to R168): the windows of a share on the nozzles of the device. -/

namespace Sys2Proof.Machine

/-! ### Areas -/

/-- R154, R161: an area in the field frame: a rectangle, its centre (1/65,536 mm), orientation (1/2^32 turn), half length and
half width (1/65,536 mm); widened along a direction of travel by a lead and a lag margin, and by a margin on each side of it. -/
structure Area where
  east : Int
  north : Int
  turn : Int
  long : Int
  wide : Int
  heading : Int
  lead : Int := 0
  lag : Int := 0
  side : Int := 0

/-- R8: the unit vectors forward and to the left of a heading, of length 2^30. -/
def forwardOf (h : Int) : Int × Int := (- sin32 h, cos32 h)

def leftOf (h : Int) : Int × Int := (- cos32 h, - sin32 h)

/-- The scalar product. -/
def dot (p q : Int × Int) : Int := p.1 * q.1 + p.2 * q.2

/-- The range of an area along a vector. -/
def Area.range (a : Area) (v : Int × Int) : Int × Int :=
  let part := fun (u : Int × Int) => dot u v / 2 ^ 30
  let c := dot (a.east, a.north) v
  let r := a.long * |part (forwardOf a.turn)| + a.wide * |part (leftOf a.turn)| + a.side * |part (leftOf a.heading)|
  let t := part (forwardOf a.heading)
  (c - r - max (a.lead * t) (- (a.lag * t)), c + r + max (a.lag * t) (- (a.lead * t)))

/-- The range of an area to the left of a point at a heading, 1/65,536 mm. -/
def Area.lateral (a : Area) (o : Int × Int) (h : Int) : Int × Int :=
  let r := a.range (leftOf h)
  ((r.1 - dot o (leftOf h)) / 2 ^ 30, (r.2 - dot o (leftOf h)) / 2 ^ 30)

/-- A segment overlaps an area: on the axes of the rectangle and of the margins, and on the segment's normal. -/
def Area.meets (a : Area) (p q : Int × Int) : Bool :=
  let cut := fun (v : Int × Int) =>
    let r := a.range v
    r.1 < max (dot p v) (dot q v) && min (dot p v) (dot q v) < r.2
  let n := (p.2 - q.2, q.1 - p.1)
  cut (forwardOf a.turn) && cut (leftOf a.turn) && cut (forwardOf a.heading) && cut (leftOf a.heading)
    && (a.range n).1 ≤ dot p n && dot p n ≤ (a.range n).2

/-- R154: the target rectangle itself. -/
def targetArea (r : TargetRec) : Area :=
  { east := r.posA * 65536, north := r.posB * 65536, turn := ofAng r.orientation, long := (r.halfLength : Int) * 65536
    wide := (r.halfWidth : Int) * 65536, heading := ofAng r.orientation }

/-- R161: the area of a share for an outlet that travels at a heading: widened by the margins of its class, which lie along and
across the direction of travel however the rectangle is turned (log entry 120). -/
def Dev.shareArea (d : Dev) (r : TargetRec) (heading : Int) : Area :=
  let m := fun s => d.int (adr (0x2310 + r.cls) s) * 65536
  { targetArea r with heading := heading, lead := m 4, lag := m 5, side := m 6 }

/-- R161: the footprint interval of an outlet at a distance (mm) along its path. -/
def Dev.footprintAt (d : Dev) (w : Walk) (n : Fin 32) (s : Int) : (Int × Int) × (Int × Int) :=
  let h : Int := d.int (outletAdr n 6) * 32768
  (w.point (w.time s) h, w.point (w.time s) (- h))

/-- R162: whether the footprint interval overlaps the area at a distance. -/
def Dev.overlaps (d : Dev) (w : Walk) (n : Fin 32) (a : Area) (s : Int) : Bool :=
  let f := d.footprintAt w n s
  a.meets f.1 f.2

/-- The first distance from `s` on, to 1 mm, at which a property holds. -/
def firstFrom (p : Int → Bool) : Nat → Int → Option Int
  | 0, _ => none
  | k + 1, s => if p s then some s else firstFrom p k (s + 1)

/-- The last distance, down to 1 mm and not below `s`, at which a property holds, looked for from `s + k` back. -/
def lastFrom (p : Int → Bool) : Nat → Int → Int
  | 0, s => s
  | k + 1, s => if p (s + k + 1) then s + k + 1 else lastFrom p k s

/-- R161, R162: the distances at which an outlet's footprint first and last overlaps the area; none where it does not
within the horizon. The path can overlap it no longer than the area and the footprint are across. -/
def Dev.crossArea (d : Dev) (w : Walk) (n : Fin 32) (a : Area) : Option (Int × Int) :=
  match firstFrom (d.overlaps w n a) ((w.reach (d.horizonNs n)).toNat + 1) 0 with
  | none => none
  | some s =>
    let across := (2 * a.long + 2 * a.wide + 2 * a.side + a.lead + a.lag) / 65536 + d.int (outletAdr n 6) + 1
    some (s, lastFrom (d.overlaps w n a) (min across (w.reach w.limit - s)).toNat s)

/-! ### Blocking -/

/-- R47, R189, R193, R305, R324, R437, R473, R475: row 1 of Table 4.2: the outlet is retired or in outlet fault, or the device
is out of service, held unarmed, winding down, at a position it does not expect, or rejoining, or its power die is
absent or its valve drive disabled. -/
def Dev.outletOut (d : Dev) (n : Fin 32) : Bool :=
  let c := d.valve.channels[n]
  let x := d.dec.outlets[n]
  x.lateFault || c.mode = .retired || c.faultOpen || c.faultGround || c.faultBank || d.hlt.outOfService || d.ch.mismatch || d.ch.rejoining
    || d.nvm.heldUnarmed || d.power.winding || ((d.pd.absent || !d.flag 0x250001) && d.valveOutlet n)
    || (d.nat (outletAdr n 1) = 3 && (d.axes[n].state = 4 || d.noDestination n))

/-- R367: the Task Controller blocks the outlet's section under automatic control, as under row 2. -/
def Dev.tcBlocked (d : Dev) (n : Fin 32) : Bool :=
  let k := d.nat (outletAdr n 5)
  d.nat 0x210001 = 1 && (if h : k < 256 then (d.pose.boom.blocked[k / 32]'(by omega)).testBit (k % 32) else false)

/-- R39, row 4 of Table 4.2: the time-lost action off is in force. -/
def Dev.lostOff (d : Dev) : Bool := d.time.lostAction && d.nat 0x180302 = 0

/-- R165: the conditions of rows 1 to 4 and 7 of Table 4.2, in either section control mode. -/
def Dev.targetBlocked (d : Dev) (n : Fin 32) : Bool :=
  let b := d.pose.boom
  d.outletOut n || !b.master || d.tcBlocked n || d.outletFolded n || d.lostOff || !b.work
    || d.dec.outlets[n].flags % 8 ≠ 0 || d.dec.outlets[n].clearRun < 2

/-- R165: row 8 along a window: the part from the first to the last distance that is not blocked. -/
def Dev.unblocked (d : Dev) (w : Walk) (n : Fin 32) (s e : Int) : Option (Int × Int) :=
  let samples := stripSamples d.cellMm (d.strip d.pose.boom n)
  let step : Int := d.cellMm
  let free := fun (x : Int) => !d.blocked (d.view w samples x)
  let k := ((e - s) / step).toNat
  match (List.range (k + 1)).find? fun i => free (s + i * step) with
  | none => none
  | some i =>
    let a := s + i * step
    let a' := if i = 0 then s else a + d.int 0x210009
    match (List.range (k + 1)).find? fun j => i < j && !free (s + j * step) with
    | none => some (a', e)
    | some j => some (a', s + j * step - d.int 0x21000A)

/-! ### Windows -/

/-- R163: the duty of a window: the class rate times the requested dose, or the outlet's own rate. -/
def Dev.windowDuty (d : Dev) (n : Fin 32) (r : TargetRec) (w : Walk) (t : Int) : Nat :=
  if !d.nozzlePwm n then 0
  else
    let i := 0x2310 + r.cls
    let counts := if d.nat (adr i 3) = 0xFFFF then d.countsAt n w t else (d.nat (adr i 3), d.nat (adr i 2))
    let rate := d.targetRate n counts * (if r.dose = 0 then 100 else r.dose) / 100
    (d.dutyFor n rate).1

/-- R162, R165, R166: plan one outlet's window for a share in the present batch; `edge` says whether edges may be
committed yet (R160). -/
def Dev.planWindow (d : Dev) (p : PendingShare) (n : Fin 32) (s e : Int) (reduced : Bool) : Window :=
  let w := d.walkOf d.pose.boom n
  let te := d.te
  let r := p.share.record
  let blocked8 := d.unblocked w n s e
  match blocked8 with
  | none => ⟨n, 0, 0, 0, 4, true, 0⟩
  | some (s', e') =>
    let reduced := reduced || s' ≠ s || e' ≠ e
    let tin := w.time s'
    let tout := w.time e'
    let on := micro (d.seq.t0 + tin - d.delayNs n true)
    let off0 := micro (d.seq.t0 + tout - d.delayNs n false)
    let off := max off0 (on + 1000 * d.nat 0x230005)
    let duty := d.windowDuty n r w tin
    if te ≤ on then ⟨n, on, off, duty, 0, reduced, 0⟩
    else
      let left := tout - ((te : Int) - d.seq.t0 + d.delayNs n true)
      if 0 < tout - tin && (d.nat 0x230006 : Int) * (tout - tin) ≤ 100 * left then
        ⟨n, te, max off (te + 1000 * d.nat 0x230005), duty, 0, true, ((te : Int) - on) / 1000⟩
      else ⟨n, on, off, duty, 3, reduced, 0⟩

/-- R167: the nearest used nozzle of the device to one side of an outlet that is not out itself. -/
def Dev.neighbour (d : Dev) (n : Fin 32) (left : Bool) : Option (Fin 32) :=
  let y := fun (m : Fin 32) => d.int (outletAdr m 3)
  (d.usedOutlets.filter fun m => d.nat (outletAdr m 1) = 1 && !d.outletOut m && m ≠ n &&
      (if left then y n < y m else y m < y n)).foldl (fun best m => match best with
    | none => some m
    | some k => if (y m - y n).natAbs < (y k - y n).natAbs then some m else some k) none

/-- R167: the neighbours whose pattern strip reaches into the part of the area within an outlet's footprint, and whether
the strips cover that part. -/
def Dev.standIns (d : Dev) (n : Fin 32) (a : Area) (w : Walk) (s : Int) : List (Fin 32) × Bool :=
  let t := w.time s
  let fp : Int := d.int (outletAdr n 6) * 32768
  let ys := a.lateral (w.point t 0) (w.motion.heading + w.motion.yawRate * t / 10 ^ 9)
  let lo := max ys.1 (- fp)
  let hi := min ys.2 fp
  let cover := fun (m : Fin 32) =>
    let y := (d.int (outletAdr m 3) - d.int (outletAdr n 3)) * 65536
    let half : Int := (d.strip d.pose.boom m).1 * 32768
    (y - half, y + half)
  let ms := ([d.neighbour n true, d.neighbour n false].filterMap id).filter fun m => (cover m).1 < hi && lo < (cover m).2
  let l := (d.neighbour n true).map fun m => (cover m).1
  let r := (d.neighbour n false).map fun m => (cover m).2
  let whole := match l, r with
    | some a, some b => a ≤ lo || hi ≤ b || a ≤ b
    | some a, none => a ≤ lo
    | none, some b => hi ≤ b
    | none, none => false
  (ms, whole && ms ≠ [])

/-- The window of an outlet in a list. -/
def windowOf (n : Fin 32) (ws : List Window) : Option Window := ws.find? fun x => x.outlet = n

/-- Put a window in place of the outlet's own, or add it. -/
def putWindow (x : Window) (ws : List Window) : List Window :=
  if ws.any (fun y => y.outlet = x.outlet) then ws.map fun y => if y.outlet = x.outlet then x else y else ws ++ [x]

/-- R161, R162: one window afresh: a window whose on edge is locked, and one that has ended, keep what they have; the off
edge of a locked one follows the path until it is locked too. -/
def Dev.refresh (d : Dev) (p : PendingShare) (n : Fin 32) (cross : Option (Int × Int)) (reduced : Bool)
    (ws : List Window) : List Window :=
  match windowOf n ws, cross with
  | some x, some (s, e) =>
    if x.stage = 0 then putWindow (d.planWindow p n s e (reduced || x.reduced)) ws
    else if x.stage = 1 then
      let w := d.walkOf d.pose.boom n
      let off := micro (d.seq.t0 + w.time e - d.delayNs n false)
      if d.te ≤ x.off then putWindow { x with off := max (max off (x.on + 1000 * d.nat 0x230005)) d.te } ws else ws
    else ws
  | some x, none => if x.stage = 0 then ws.filter fun y => y.outlet ≠ n else ws
  | none, some (s, e) => putWindow (d.planWindow p n s e reduced) ws
  | none, none => ws

/-- R161, R167: what MATCH finds for one nozzle before it plans: where its footprint crosses the area, and, where the nozzle is
out, the neighbours that stand in and whether they cover its part. -/
structure Found where
  nozzle : Fin 32
  cross : Option (Int × Int)
  standIns : List (Fin 32) := []
  whole : Bool := false

/-- R161, R167: what MATCH finds for a share on each used nozzle. -/
def Dev.findCrossings (d : Dev) (r : TargetRec) : List Found :=
  (d.usedOutlets.filter fun n => d.nat (outletAdr n 1) = 1).map fun n =>
    let w := d.walkOf d.pose.boom n
    let a := d.shareArea r w.motion.heading
    let cross := d.crossArea w n a
    match d.outletOut n, cross with
    | true, some (s, _) =>
      let x := d.standIns n a w s
      ⟨n, cross, x.1, x.2⟩
    | _, _ => ⟨n, cross, [], false⟩

/-- R165, R168: the windows of a blocked outlet: one that could no longer open is blocked, one that is open ends at the next
boundary, or at once where the outlet is out. -/
def Dev.blockWindows (d : Dev) (n : Fin 32) (before after : List Window) : List Window :=
  let late := (windowOf n before).filter fun x => x.stage = 0 && x.on ≤ d.te
  let ws := match late, windowOf n after with
    | some x, none => after ++ [x]
    | _, _ => after
  ws.map fun x =>
    if x.outlet ≠ n then x
    else if x.stage = 3 && !before.any (fun y => y.outlet = n && y.stage = 3) then { x with stage := 4 }
    else if x.stage = 0 && (windowOf n after).isNone then { x with stage := 4 }
    else if x.stage = 1 then
      (if d.outletOut n then { x with stage := 2, reduced := true }
       else { x with off := min x.off (d.seq.t0 + d.periodNs), reduced := true })
    else x

/-- R161 to R167: MATCH for one pending share: every nozzle that the area crosses, or that stands in for one that is out and
crosses it, has a window; a nozzle that is out and covered by its neighbours has none of its own, and one that they do not cover
keeps the share from ending as applied. -/
def Dev.matchShare (d : Dev) (p : PendingShare) : PendingShare :=
  let found := d.findCrossings p.share.record
  let one := fun (ws : List Window) (f : Found) =>
    let n := f.nozzle
    if d.outletOut n && f.whole then
      (ws.filter fun x => !(x.outlet = n && x.stage = 0)).map fun x =>
        if x.outlet = n && x.stage = 1 then { x with stage := 2, reduced := true } else x
    else
      let standing := found.find? fun g => g.standIns.any (· = n)
      let cross := match f.cross, standing with
        | none, some g => g.cross
        | c, _ => c
      let after := d.refresh p n cross (standing.any fun g => !g.whole) ws
      if d.targetBlocked n then d.blockWindows n ws after else after
  { p with windows := found.foldl one p.windows }

/-- R160, R170: edges of a share may be committed from the batch after its journal commit on; a share that replay has brought
back is in the journal already. -/
def Dev.committable (d : Dev) (p : PendingShare) : Bool :=
  p.afterReset || match p.journalled with
  | some b => ahead d.seq.number b
  | none => false

/-- R165: the windows of an outlet that its edges follow, with their duties: while it is blocked only those that have
begun. -/
def Dev.openWindows (d : Dev) (n : Fin 32) : List Window :=
  (d.tgt.store.filter d.committable).flatMap fun p => p.windows.filter fun x =>
    x.outlet = n && (x.stage = 0 && !d.targetBlocked n || x.stage = 1)

/-- R107, R166: how far, in µs, the on edge of a window that begins at an instant has been moved to t_e. -/
def Dev.windowMoved (d : Dev) (n : Fin 32) (on : Nat) : Int :=
  ((d.openWindows n).find? fun x => x.stage = 0 && x.on = on && x.moved ≠ 0).elim 0 fun x => clampI (-32768) 32767 x.moved

/-- R164: merge windows, by rising on edge, each of which begins less than the merge gap after all before it have ended. -/
def mergeWindows (gap : Nat) : Nat × Nat → List (Nat × Nat × Nat) → List (Nat × Nat)
  | x, [] => [x]
  | x, y :: r =>
    if y.1 < x.2 + gap then mergeWindows gap (x.1, max x.2 y.2.1) r else x :: mergeWindows gap (y.1, y.2.1) r

/-- Insert by rising on edge. -/
def insertWindow (x : Nat × Nat × Nat) : List (Nat × Nat × Nat) → List (Nat × Nat × Nat)
  | [] => [x]
  | y :: r => if x.1 ≤ y.1 then x :: y :: r else y :: insertWindow x r

/-- The windows of an outlet by rising on edge: on edge, off edge, duty. -/
def Dev.sortedWindows (d : Dev) (n : Fin 32) : List (Nat × Nat × Nat) :=
  (d.openWindows n).foldr (fun x l => insertWindow (x.on, x.off, x.duty) l) []

/-- R164: the merged windows of an outlet: on edge, off edge. -/
def Dev.mergedWindows (d : Dev) (n : Fin 32) : List (Nat × Nat) :=
  match d.sortedWindows n with
  | [] => []
  | x :: r => mergeWindows (1000 * d.nat 0x230004) (x.1, x.2.1) r

/-- R164: the off edge of the merged window of an outlet that holds a window with this off edge. -/
def Dev.mergedEnd (d : Dev) (n : Fin 32) (off : Nat) : Nat :=
  match (d.mergedWindows n).find? fun w => w.1 ≤ off && off ≤ w.2 with
  | some w => w.2
  | none => off

/-- R161, R162: after the commit, windows whose on edge lies before the next t_e are locked; those whose off edge, or that
of the merged window, has come are done. -/
def Dev.lockWindows (d : Dev) : Dev :=
  let step := fun (p : PendingShare) => if !d.committable p then p else
    { p with windows := p.windows.map fun x =>
      if x.stage = 0 && x.on < d.te + d.periodNs && !d.targetBlocked x.outlet then { x with stage := 1 }
      else if x.stage = 1 && d.mergedEnd x.outlet x.off ≤ d.chain then { x with stage := 2 } else x }
  { d with tgt := { d.tgt with store := d.tgt.store.map step } }

/-! ### Closing -/

/-- R168: the area lies behind every used nozzle's position at t0. -/
def Dev.areaBehind (d : Dev) (r : TargetRec) : Bool :=
  let m := motionOf d.pose.boom
  let a := d.shareArea r m.heading
  let ahead := forwardOf m.heading
  let front := ((a.range ahead).2 - dot (m.east, m.north) ahead) / 2 ^ 30
  d.usedOutlets.all fun n => d.nat (outletAdr n 1) ≠ 1 || front < (d.outletOffset d.pose.boom n).1

/-- R170: after a reset, a used nozzle whose footprint the area meets sideways has no window: its part was not seen to
complete. -/
def Dev.unseen (d : Dev) (p : PendingShare) : Bool :=
  let m := motionOf d.pose.boom
  let a := d.shareArea p.share.record m.heading
  let ys := a.lateral (m.east, m.north) m.heading
  d.usedOutlets.any fun n =>
    let y := (d.outletOffset d.pose.boom n).2
    let h : Int := d.int (outletAdr n 6) * 32768
    d.nat (outletAdr n 1) = 1 && ys.1 < y + h && y - h < ys.2 && p.windows.all fun x => x.outlet ≠ n

/-- Table 6.3: the result of a share that closes now; none while it stays open. -/
def Dev.shareResult (d : Dev) (p : PendingShare) : Option Nat :=
  let ws := p.windows
  let done := ws.filter fun x => x.stage = 2
  if ws ≠ [] && ws.all (fun x => 2 ≤ x.stage) then
    if done.length = ws.length && ws.all (fun x => !x.reduced) then some (if p.afterReset && d.unseen p then 2 else 1)
    else if done ≠ [] then some 2
    else if ws.any (fun x => x.stage = 3) then some 3
    else some 7
  else if ws.all (fun x => x.stage ≠ 1 && x.stage ≠ 2) && d.areaBehind p.share.record then
    some (if ws = [] then 6 else 4)
  else none

end Sys2Proof.Machine
end

