-- ==== Sys2Proof/Machine/Decide.lean ====
section
/-! DEFINITION. The decisions of a batch and the edge queue (R93 to R96, R100, R107 to R110, R114, R119 to R126), and what
the power link and the power die report back (R23, R204, R209). -/

namespace Sys2Proof.Machine

/-- Update an outlet. -/
def Dev.outlet (d : Dev) (n : Fin 32) (f : Outlet → Outlet) : Dev :=
  { d with dec := { d.dec with outlets := updateAt d.dec.outlets n f } }

/-- R114, R144: a new duty from a chain time on; PAINT needs the earlier ones too. -/
def Outlet.setDuty (x : Outlet) (t v : Nat) : Outlet :=
  { x with duty := v, duties := (if x.duties = [] then [(0, x.duty)] else x.duties) ++ [(t, v)] }

/-- R23, R144: a change of the duty at a chain time that did not reach the power die. -/
def Outlet.dropDuty (x : Outlet) (t v : Nat) : Outlet := { x with duty := v, duties := x.duties.filter fun q => q.1 ≠ t }

/-! ### Candidates -/

/-- A switch edge that a decision asks for, in the order of the path. -/
structure Cand where
  instant : Nat
  on : Bool
  free : Bool
  source : Nat

/-- R109: the commanded section state of an outlet; an outlet with no section is off. -/
def Dev.sectionOn (d : Dev) (n : Fin 32) : Bool :=
  let k := d.nat (outletAdr n 5)
  if h : k < 256 then (d.pose.boom.sections[k / 32]'(by omega)).testBit (k % 32) else false

/-- R109: section control is automatic. -/
def Dev.automatic (d : Dev) : Bool := d.nat 0x210001 = 1

/-- R97: the next boundary. -/
def Dev.nextBoundary (d : Dev) : Nat := d.seq.t0 + d.periodNs

/-- R100: which of rows 1 to 4 of Table 4.2 holds for an outlet: 0 none; 1 rows 1 and 4, which discard pending edges; 2
rows 2 and 3. -/
def Dev.hardRow (d : Dev) (n : Fin 32) : Nat :=
  if d.outletOut n || d.lostOff then 1
  else if !d.pose.boom.master || d.tcBlocked n || d.outletFolded n then 2
  else 0

/-- R100: the hard block that holds for an outlet: rows 1 to 4 or, under automatic control, row 7, which is a 2. -/
def Dev.hardBlock (d : Dev) (n : Fin 32) : Nat :=
  let x := d.dec.outlets[n]
  let b := d.pose.boom
  if d.hardRow n ≠ 0 then d.hardRow n
  else if d.automatic && !x.testing && (!b.work || x.flags % 8 ≠ 0 || x.clearRun < 2) then 2
  else 0

/-- R106: a crossing as a candidate. -/
def Dev.crossingCand (d : Dev) (n : Fin 32) (w : Walk) (c : Crossing) : Cand :=
  ⟨micro (d.seq.t0 + w.time c.s - d.delayNs n c.on), c.on, c.free, 0⟩

/-- R110: the hand-over hold: while the dose rule calls off, the outlet stays on until a row-8 crossing, until automatic has
called on and off again, or until the minimum on time has run from the boundary of the hand-over. -/
def Dev.holdCands (d : Dev) (n : Fin 32) (r : Swept) (cs : List Cand) : List Cand :=
  match d.dec.outlets[n].holdUntil with
  | none => cs
  | some h =>
    if r.dose || r.blocked then cs
    else
      let rest := cs.drop 1
      if rest.any (fun c => c.instant ≤ h) then rest else ⟨h, false, true, 4⟩ :: rest

/-- R151: the hold limit of a map miss has run. -/
def Dev.missEnded (d : Dev) (n : Fin 32) : Bool :=
  d.nat 0x220003 = 1 && match d.dec.outlets[n].missSince with
    | some t => t + 1000 * d.nat 0x220004 ≤ d.seq.t0
    | none => false

/-! ### Placing switch edges -/

/-- What stands after the edges placed so far: state, last on and last off instants, minimum holds used. -/
structure Placing where
  on : Bool
  lastOn : Option Nat
  lastOff : Option Nat
  out : List Edge := []
  holdOn : Bool := false
  holdOff : Bool := false

/-- The edges before an instant applied to a state. -/
def settle (te : Nat) (p : Placing) : List Edge → Placing
  | [] => p
  | e :: r =>
    if te ≤ e.instant then p
    else if e.kind = 1 then settle te { p with on := true, lastOn := some e.instant } r
    else if e.kind = 2 then settle te { p with on := false, lastOff := some e.instant } r
    else settle te p r

/-- Add a switch edge. -/
def Placing.put (p : Placing) (c : Cand) (t te : Nat) (moved : Int) (short : Bool) : Placing :=
  let e : Edge :=
    { instant := t, kind := if c.on then 1 else 2, source := c.source, moved := moved, short := short, free := c.free }
  let held := t ≠ max te c.instant
  { p with
    on := c.on, out := p.out ++ [e]
    lastOn := if c.on then some t else p.lastOn
    lastOff := if c.on then p.lastOff else some t
    holdOff := p.holdOff || (c.on && held)
    holdOn := p.holdOn || (!c.on && held) }

/-- R107, R108, R120: place one candidate: at t_e where its instant has passed; dropped where it changes nothing; moved by
a minimum time unless it is free; a free off that falls before the on edge just placed takes that edge away, and one before an
off edge that a minimum time has moved takes its place. `missed` is
the instant of a missed switch-on (R204), from which its displacement counts. -/
def Dev.placeOne (d : Dev) (te : Nat) (missed : Option Nat) (p : Placing) (c : Cand) : Placing :=
  if c.on = p.on then
    match p.out.getLast? with
    | some l =>
      if c.free && !c.on && l.kind = 2 && !l.free && max te c.instant < l.instant then
        { p with out := p.out.dropLast, lastOff := some (max te c.instant), on := true : Placing }.put c (max te c.instant) te 0 false
      else p
    | none => p
  else
    let source := match c.on, missed with
      | true, some m => m
      | _, _ => c.instant
    let bound := if c.on then p.lastOff.map (· + 1000 * d.nat 0x21000D) else p.lastOn.map (· + 1000 * d.nat 0x21000C)
    let t := max te (if c.free then c.instant else max c.instant (bound.getD 0))
    let short := c.instant < te && c.source ≠ 3 && t = te
    let moved : Int := if short then clampI (-32768) 32767 (((te : Int) - source) / 1000) else 0
    match p.out.getLast? with
    | some l =>
      if c.free && !c.on && l.kind = 1 && t ≤ l.instant then { p with on := false, out := p.out.dropLast }
      else p.put c t te moved short
    | none => p.put c t te moved short

/-- R107: of the candidates whose instants lie before t_e only the last still matters; it comes first. -/
def lastBefore (te : Nat) (cs : List Cand) : List Cand :=
  match (cs.filter fun c => c.instant < te).getLast? with
  | some c => c :: cs.filter fun c => te ≤ c.instant
  | none => cs

/-- Insert an edge by rising instant, after those of the same instant. -/
def insertEdge (e : Edge) : List Edge → List Edge
  | [] => [e]
  | f :: r => if e.instant < f.instant then e :: f :: r else f :: insertEdge e r

/-- Sort edges by instant. -/
def sortEdges (l : List Edge) : List Edge := l.foldl (fun acc e => insertEdge e acc) []

/-- R165: the switch edges of the section call and of the windows together: the outlet is on while either is; an event
that changes nothing gives no edge. An event is a placed edge, or a window that opens or closes (kinds 11 and 12). -/
def joinCalls : Bool → Nat → List Edge → List Edge
  | _, _, [] => []
  | sweep, k, e :: r =>
    let sweep' := if e.kind = 1 then true else if e.kind = 2 then false else sweep
    let k' := if e.kind = 11 then k + 1 else if e.kind = 12 then k - 1 else k
    let was := sweep || 0 < k
    let now := sweep' || 0 < k'
    let rest := joinCalls sweep' k' r
    if was = now then rest
    else { e with kind := if now then 1 else 2, source := if 10 < e.kind then 2 else e.source } :: rest

/-- R114, R163 to R165: what the duty (or seed rate) of an outlet follows: what RATE calls for before its rate edges, those
edges, the windows and the merged windows, and SWEEP's call with its switch edges. -/
structure DutyPlan where
  base : Nat
  rates : List (Nat × Nat)
  windows : List (Nat × Nat × Nat)
  merged : List (Nat × Nat)
  sweep : Bool
  switches : List Edge

/-- R164: the duty of the windows at an instant: the largest of those that overlap; between two that are merged, that of the one
that has ended last (log entry 122). -/
def DutyPlan.window (p : DutyPlan) (t : Nat) : Option Nat :=
  if !p.merged.any fun w => w.1 ≤ t && t < w.2 then none
  else
    match p.windows.filter fun w => w.1 ≤ t && t < w.2.1 with
    | [] => some ((p.windows.filter fun w => w.2.1 ≤ t).foldl (fun m w => if m.1 ≤ w.2.1 then w.2 else m) (0, 0)).2
    | ws => some (ws.foldl (fun m w => max m w.2.2) 0)

/-- R163, R165: the duty at an instant: RATE's with no window open; with one, the window's, and the larger of the two while SWEEP
calls on. -/
def DutyPlan.duty (p : DutyPlan) (t : Nat) : Nat :=
  let rate := (p.rates.filter fun r => r.1 ≤ t).foldl (fun _ r => r.2) p.base
  let sweep := (p.switches.filter fun e => e.instant ≤ t).foldl (fun on e => if e.kind = 1 then true else if e.kind = 2 then false else on) p.sweep
  match p.window t with
  | none => rate
  | some w => if sweep then max rate w else w

/-- R114, R163 to R165: the rate edges from an instant on: RATE's own, one at each on edge and off edge of a merged window, and
one wherever the duty of an open window changes. -/
def DutyPlan.edges (p : DutyPlan) (te : Nat) : List Edge :=
  let own := p.rates.filter fun r => te ≤ r.1
  let bounds := p.merged.flatMap fun w => [w.1, w.2]
  let inside := p.windows.flatMap (fun w => [w.1, w.2.1]) ++ p.switches.map fun e => e.instant
  let more := bounds ++ inside.filter fun t => !bounds.any (· = t) && (p.window t).isSome && p.duty t ≠ p.duty (t - 1)
  (own.map fun r => { instant := r.1, kind := 3, source := 1, value := p.duty r.1 : Edge }) ++
    ((more.filter fun t => te ≤ t && !own.any fun r => r.1 = t).dedup.map fun t =>
      { instant := t, kind := 3, source := 2, value := p.duty t, free := true : Edge })

/-! ### The commit of one outlet -/

/-- R165: SWEEP's call just before t_e: while a window is open it is the one kept beside the outlet's state. -/
def Dev.sweepBefore (d : Dev) (n : Fin 32) (locked : List Edge) (ws : List (Nat × Nat)) : Bool :=
  let x := d.dec.outlets[n]
  if ws.any fun w => w.1 < d.te && d.te ≤ w.2 then x.sweepOn
  else (settle d.te { on := x.on, lastOn := none, lastOff := none } locked).on

/-- R108, R120: the switch edges from t_e on, with the holds used. -/
def Dev.switchEdges (d : Dev) (n : Fin 32) (locked : List Edge) (cs : List Cand) (ws : List (Nat × Nat)) :
    List Edge × Placing :=
  let te := d.te
  let x := d.dec.outlets[n]
  let p0 := settle te { on := x.on, lastOn := x.lastOn, lastOff := x.lastOff } locked
  let isOpen := ws.filter fun w => w.1 < te && te ≤ w.2
  let sweep0 := d.sweepBefore n locked ws
  let p : Placing := (lastBefore te cs).foldl (d.placeOne te x.missedAt) { p0 with on := sweep0 }
  let events := p.out ++ ws.flatMap fun w =>
    (if te ≤ w.1 then [{ instant := w.1, kind := 11, source := 2, free := true, moved := d.windowMoved n w.1
                         short := decide (d.windowMoved n w.1 ≠ 0) : Edge }] else [])
    ++ (if te ≤ w.2 then [{ instant := w.2, kind := 12, source := 2, free := true : Edge }] else [])
  let next := settle (te + d.periodNs) { on := sweep0, lastOn := none, lastOff := none } p.out
  (joinCalls sweep0 isOpen.length (sortEdges events), { p with on := next.on })

/-- R114: a speed update: the duty that applies from the first PWM period after t_e, or the seed rate from the next axis
update after it. -/
def Dev.speedUpdate (d : Dev) (n : Fin 32) (value rate : Nat) : Dev :=
  let x := d.dec.outlets[n]
  if d.nozzlePwm n then
    if !d.commanding || (x.duty = value && d.pd.opened ≠ some d.te) then d
    else (d.outlet n fun x => x.setDuty d.te value).issue d.te (.valveDuty n value)
  else if d.nat (outletAdr n 1) = 3 then
    if x.rate = rate then d else d.axis n fun a => { a with edges := a.edges ++ [(d.te, .rate rate)] }
  else d

/-- R100, R119 to R121: decide one used outlet whose results are on time, and commit its edges. -/
def Dev.decideOutlet (d : Dev) (n : Fin 32) : Dev :=
  let te := d.te
  let x := d.dec.outlets[n]
  let hb := d.hardBlock n
  let auto := d.automatic && !x.testing
  let s := if auto then d.sweep n else {}
  let w := d.walkOf d.pose.boom n
  let missSince := if !s.miss then none else if x.missSince.isSome then x.missSince else some d.seq.t0
  let d := d.outlet n fun x => { x with missSince := missSince }
  let cs : List Cand :=
    if hb ≠ 0 || (auto && d.missEnded n) then [⟨d.nextBoundary, false, true, 0⟩]
    else if x.testing then ((x.tests.filter fun e => te ≤ e.1).take 4).map fun e => ⟨e.1, e.2, false, 3⟩
    else if !auto then [⟨te, d.sectionOn n, false, 3⟩]
    else d.holdCands n s (s.crossings.map (d.crossingCand n w))
  let ws := if hb ≠ 0 then [] else d.mergedWindows n
  let locked := if hb = 1 then [] else x.edges.filter fun e => e.instant < te
  let sp := d.switchEdges n locked cs ws
  let switch := sp.1
  let p := sp.2
  let r := d.rateOf n
  let early := (r.edges.filter fun e => e.1 < te).getLast?
  let base := (early.map fun e => e.2).getD r.value
  let zoneAt := fun (t : Nat) => match (r.zones.filter fun z => z.1 < t).getLast? with | some z => some z.2 | none => r.zone
  let surprise := early.isSome && x.zone.isSome && zoneAt te ≠ x.zone
  let pwm := d.nozzlePwm n
  let plan : DutyPlan :=
    { base := base, rates := r.edges, windows := if pwm && hb = 0 then d.sortedWindows n else [], merged := if pwm then ws else []
      sweep := d.sweepBefore n locked ws, switches := p.out }
  let given := if d.rateDriven n then plan.edges te else []
  let rates := match surprise, early with
    | true, some e => { instant := te, kind := 3, source := 1, value := plan.duty (te - 1), short := true
                        moved := clampI (-32768) 32767 (((te : Int) - e.1) / 1000) : Edge } :: given
    | _, _ => given
  let all : List Edge := locked.map (fun e => { e with locked := true }) ++ sortEdges (switch ++ rates)
  let keep := all.take 8
  let bits := fun (k : Nat) (b : Bool) => if b then 2 ^ k else 0
  let holds := x.holdUntil.isSome && !s.dose && !s.blocked && hb = 0
  let status := bits 0 s.dose + bits 1 (hb ≠ 0) + bits 2 s.blocked + bits 3 s.headland + bits 4 p.holdOn + bits 5 p.holdOff
    + bits 6 holds + bits 7 s.miss + bits 9 ((switch ++ rates).any fun e => e.short) + bits 11 (8 < all.length)
    + bits 15 r.saturated + bits 16 r.lost
  let ended := x.holdUntil.any fun h => s.dose || s.blocked || hb ≠ 0 || h ≤ d.seq.t0
  let d := if surprise then d else d.speedUpdate n (plan.duty (te - 1)) r.rate
  let d := d.outlet n fun x => { x with
    edges := keep, sweepOn := p.on, doseCall := if auto then s.dose else x.doseCall
    holdUntil := if ended then none else x.holdUntil, status := status, rate := r.rate, overflow := 8 < all.length
    missedAt := none, late := false, lateRun := 0, zone := zoneAt (te + d.periodNs)
    sumStatus := x.sumStatus ||| (bits 0 s.miss + bits 1 ((switch ++ rates).any fun e => e.short)) }
  let d := if 8 < all.length then d.bump 0x210202 else d
  if s.miss then d.bump 0x220105 else d

/-- R100: rows 1 to 4 of Table 4.2 come before row 5: they switch a late outlet off at the next boundary. -/
def Dev.lateBlock (d : Dev) (n : Fin 32) : Dev :=
  let hb := d.hardRow n
  if hb = 0 then d
  else
    let x := d.dec.outlets[n]
    let locked : List Edge := if hb = 1 then [] else x.edges.filter fun e => e.instant < d.te
    let rates : List Edge := if hb = 1 then [] else x.edges.filter fun e => d.te ≤ e.instant && e.kind = 3
    let sp := d.switchEdges n locked [⟨d.nextBoundary, false, true, 0⟩] []
    let all : List Edge := locked.map (fun e => { e with locked := true }) ++ sortEdges (sp.1 ++ rates)
    d.outlet n fun x => { x with edges := all.take 8, sweepOn := sp.2.on }

/-- R47, R181: a late outlet holds its pending edges; after the configured run of late batches it is switched off at the
next boundary with an outlet fault. -/
def Dev.lateOutlet (d : Dev) (n : Fin 32) : Dev :=
  let d := d.lateBlock n
  let run := d.dec.outlets[n].lateRun + 1
  let d := d.outlet n fun x => { x with
    late := true, lateRun := run, status := x.status % 2 + 2 + 256, sumStatus := x.sumStatus ||| 4 }
  let d := (d.put 0x180403 n).raise 0x0101 0 n []
  if d.nat 0x180402 ≤ run && !d.dec.outlets[n].lateFault then
    let off : List Edge := if d.dec.outlets[n].on then [{ instant := d.nextBoundary, kind := 2, source := 0, free := true }]
      else []
    (d.outlet n fun x => { x with lateFault := true, edges := off, sweepOn := false }).raise 0x0102 1 n []
  else d

/-- R47: an outlet fault of R47 ends at the first batch whose results are on time. -/
def Dev.onTime (d : Dev) (n : Fin 32) : Dev :=
  let d := d.outlet n fun x => { x with late := false, lateRun := 0 }
  if d.dec.outlets[n].lateFault then (d.outlet n fun x => { x with lateFault := false }).raise 0x0102 2 n [] else d

/-! ### Bank peak collisions -/

/-- R123, R124: a peak of a bank, in µs: instant, window, outlet, whether it is locked or a PWM slot, whether it has been
displaced later, and how far it has moved. -/
structure Peak where
  instant : Int
  window : Int
  outlet : Fin 32
  fixed : Bool
  later : Bool := false
  move : Int := 0

/-- Insert a peak by rising instant, in outlet order. -/
def insertPeak (p : Peak) : List Peak → List Peak
  | [] => [p]
  | q :: r => if p.instant < q.instant then p :: q :: r else q :: insertPeak p r

/-- R124: one pair of consecutive peaks. -/
def resolvePair (te : Int) (a b : Peak) : Peak × Peak :=
  let o := a.instant + a.window - b.instant
  let shift := fun (p : Peak) (by_ : Int) =>
    { p with instant := p.instant + by_, move := p.move + by_, later := p.later || 0 < by_ }
  if o ≤ 0 then (a, b)
  else
    let (a', b') :=
      if a.fixed || a.later then (if b.fixed then (a, b) else (a, shift b o))
      else if b.fixed then (shift a (- o), b)
      else (shift a (- (o / 2)), shift b (o - o / 2))
    if a'.instant < te && !a'.fixed then
      let a'' := shift a' (te - a'.instant)
      (a'', if b'.fixed then b' else shift b' (max 0 (te + a.window - b'.instant)))
    else (a', b')

/-- R124: walk the peaks of a bank. -/
def resolvePeaks (te : Int) : List Peak → List Peak
  | a :: b :: r =>
    match resolvePair te a b with
    | (a', b') => a' :: resolvePeaksFrom te b' r
  | l => l
where
  resolvePeaksFrom (te : Int) (a : Peak) : List Peak → List Peak
    | [] => [a]
    | b :: r => match resolvePair te a b with
      | (a', b') => a' :: resolvePeaksFrom te b' r

/-- R123: the window of a boost peak, µs. -/
def Dev.peakWindow (d : Dev) (n : Fin 32) : Int :=
  min (d.electrical n true + d.nat 0x210011) (d.nat (outletAdr n 0x32))

/-- R123, R124: the peaks of a bank: switch-on edges, a peak begun shortly before t_e, and the slots of nozzles in PWM
mode beside another channel's switch-on. -/
def Dev.bankPeaks (d : Dev) (b : Fin 4) : List Peak :=
  let te := d.te
  let valves := (bankChannels b).filter d.valveOutlet
  let edges := valves.flatMap fun n =>
    let w := d.peakWindow n
    let x := d.dec.outlets[n]
    (match x.lastOn with
      | some t => if te ≤ t + 1000 * w.toNat && t < te then [Peak.mk (t / 1000 : Nat) w n true false 0] else []
      | none => [])
    ++ (x.edges.filter fun e => e.kind = 1).map fun e => Peak.mk (e.instant / 1000 : Nat) w n (e.instant < te) false 0
  let slots := (valves.filter fun n => d.nozzlePwm n && d.dec.outlets[n].on && 0 < d.dec.outlets[n].duty && d.dec.outlets[n].duty < 10000).flatMap fun n =>
    (edges.filter fun p => p.outlet ≠ n && !p.fixed).flatMap fun p =>
      let s := d.slotStart n (p.instant * 1000).toNat
      [Peak.mk (s / 1000 : Nat) (d.peakWindow n) n true false 0,
       Peak.mk ((s + d.slotPeriod n) / 1000 : Nat) (d.peakWindow n) n true false 0]
  (edges ++ slots).foldl (fun acc p => insertPeak p acc) []

/-- R162: the windows that a moved on edge begins are moved with it. -/
def Dev.moveWindow (d : Dev) (n : Fin 32) (was on : Nat) : Dev :=
  let one := fun (x : Window) => if x.outlet = n && x.stage = 0 && x.on = was then { x with on := on } else x
  let each := fun (p : PendingShare) => if d.committable p then { p with windows := p.windows.map one } else p
  { d with tgt := { d.tgt with store := d.tgt.store.map each } }

/-- R124: put a moved peak back into its outlet's queue, with the rate edge of the window that it begins. -/
def Dev.movePeak (d : Dev) (p : Peak) : Dev :=
  if p.move = 0 then d
  else
    let was := ((p.instant - p.move) * 1000).toNat
    let d := d.outlet p.outlet fun x => { x with
      edges := sortEdges (x.edges.map fun e =>
        if e.kind = 1 && e.instant = was && !e.locked then
          { e with instant := (p.instant * 1000).toNat, collided := true, moved := clampI (-32768) 32767 (e.moved + p.move) }
        else if e.kind = 3 && e.source = 2 && e.instant = was then { e with instant := (p.instant * 1000).toNat }
        else e)
      status := if x.status.testBit 10 then x.status else x.status + 1024 }
    let d := d.moveWindow p.outlet was (p.instant * 1000).toNat
    { d with dec := { d.dec with largest := max d.dec.largest p.move.natAbs } }

/-- R124, R126: the collisions of every bank whose peaks come from boost, and the counts of the batch. -/
def Dev.collide (d : Dev) : Dev :=
  let d := { d with dec := { d.dec with largest := 0 } }
  let d := (List.finRange 4).foldl (fun d b =>
    if d.boostBank b && d.valve.boost.state ≠ 5 then (resolvePeaks (d.te / 1000 : Nat) (d.bankPeaks b)).foldl Dev.movePeak d else d) d
  let due := d.usedOutlets.flatMap fun n =>
    d.dec.outlets[n].edges.filter fun e => e.kind ≠ 3 && d.te ≤ e.instant && e.instant < d.te + d.periodNs
  let d := d.add 0x210201 (due.filter fun e => e.short).length
  d.add 0x210203 (due.filter fun e => e.short || (e.collided && 1000 < e.moved.natAbs)).length

/-- Table 11.1: a hard block of rows 1 to 4 stops the moving axis of a row meter at the next boundary. -/
def Dev.haltMeter (d : Dev) (n : Fin 32) : Dev :=
  let b := d.pose.boom
  let blocked := d.outletOut n || d.lostOff || !b.master || d.tcBlocked n || d.outletFolded n
  if blocked && d.axes[n].set.mode = 1 && (d.axes[n].state = 1 || d.axes[n].state = 2) then
    d.axis n fun a => { a with edges := a.edges ++ [(d.nextBoundary, .halt)] }
  else d

/-- R80 to R82: PREDICT for every used outlet whose result is on time. -/
def Dev.predictAll (d : Dev) (onTime : Fin 32 → Bool) : Dev := (d.usedOutlets.filter onTime).foldl Dev.predict d

/-- R39, R40, R47: a batch in which nothing is committed: its late outlets are late all the same. -/
def Dev.holdBatch (d : Dev) (late : Fin 32 → Bool) : Dev :=
  d.usedOutlets.foldl (fun d n => if late n then d.lateOutlet n else d.onTime n) d

/-- R97, R120, R182: Phase C: every used outlet in order, on time or late, then the loops, the banks and the windows. -/
def Dev.commitBatch (d : Dev) (late : Fin 32 → Bool) (loopLate : Fin 4 → Bool) : Dev :=
  let d := d.usedOutlets.foldl (fun d n =>
    if late n then d.lateOutlet n else (d.onTime n).decideOutlet n) d
  let d := (List.finRange 4).foldl (fun d k => if loopLate k then d else d.loopStep k) d
  ((d.usedOutlets.foldl Dev.haltMeter d).collide).lockWindows

/-! ### Issue of edges -/

/-- R120, R122: no later commit changes an edge: it lies before t_e of the batch, or, once the batch has committed, before
t_e of the next one. -/
def Dev.settled (d : Dev) (e : Edge) : Bool := e.instant < d.te + (if 2 ≤ d.seq.phase then d.periodNs else 0)

/-- R122: what the scheduler keeps of an outlet whose edge it issues: its state, its duty or rate, and the deposit. -/
def Dev.issueOutlet (d : Dev) (n : Fin 32) (e : Edge) : Dev :=
  let meter := d.nat (outletAdr n 1) = 3
  let begin_ := e.instant + (d.delayNs n true).toNat
  let stop := e.instant + (d.delayNs n false).toNat
  d.outlet n fun x => match e.kind with
    | 1 => { x with on := true, lastOn := some e.instant, deposits := x.deposits ++ [(begin_, none)] }
    | 2 => { x with on := false, lastOff := some e.instant
                    deposits := x.deposits.map fun q => if q.2.isNone then (q.1, some (max q.1 stop)) else q }
    | _ => if meter then { x with rate := 10 * e.value } else x.setDuty e.instant e.value

/-- R23, R204, R473: a missed edge: its count, its event and its fault; none while the power die is absent. -/
def Dev.missedEdge (d : Dev) (unit cause : Nat) : Dev :=
  if d.pd.absent then d
  else ((d.bump 0x2E0404).fault 13 false unit).raise 0x0701 0 unit [(2, Config.eventCause 0x0701 cause)]

/-- R22, R33, R120, R122: the front edge of an outlet's queue is issued: to the axis of a row meter, or over the power link
at least 4 µs before its instant; one that can no longer be sent in time is missed (log entry 102). While no command is sent,
or once the outlet is unused, a pending edge is not issued. -/
def edgeIssueEff (d : Dev) (n : Fin 32) : Dev :=
  match d.dec.outlets[n].edges with
  | [] => d
  | e :: r =>
    if !d.settled e then d
    else
      let d := d.outlet n fun x => { x with edges := r }
      if !d.commanding || !d.used n then d
      else if d.nat (outletAdr n 1) = 3 then
        (d.issueOutlet n e).axis n fun a => { a with edges := a.edges ++ [(e.instant, match e.kind with
          | 1 => .switch true
          | 2 => .switch false
          | _ => .rate (10 * e.value))] }
      else if e.instant < d.chain + 4000 then d.missedEdge n 2
      else
        (d.issueOutlet n e).issue e.instant (match e.kind with
          | 1 => .valveOn n
          | 2 => .valveOff n
          | _ => .valveRate n e.value)

/-- R204: a missed switch-on: the scheduler takes the outlet as off from that instant. -/
def missedOnEff (d : Dev) (n : Fin 32) (instant : Int) (cause : Nat) : Dev :=
  (d.outlet n fun x => { x with
    on := false, sweepOn := false, missed := true, missedAt := some instant.toNat
    deposits := x.deposits.filter fun q => q.2.isSome }).missedEdge n cause

/-- R23: a negative acknowledgement: the frame is sent again while its instant is at least 2 µs away; otherwise the
command is dropped and the edge is missed. -/
def negativeAckEff (d : Dev) (id : Nat) : Dev :=
  match d.teth.issued.find? fun f => f.id = id with
  | none => d
  | some f =>
    let d := d.bump 0x2E0403
    if (d.chain : Int) + 2000 ≤ f.instant then d.send (.powerLink f)
    else
      let d := { d with teth := { d.teth with issued := d.teth.issued.filter fun g => g.id ≠ id } }
      match f.action with
      | .valveOn n => missedOnEff d n f.instant 1
      | .valveOff n => (d.outlet n fun x => { x with
          on := true, missed := true
          deposits := match x.deposits.getLast? with
            | some q => x.deposits.dropLast ++ [(q.1, none)]
            | none => [] }).missedEdge n 1
      | .valveRate n _ => (d.outlet n fun x => x.dropDuty f.instant.toNat d.valve.channels[n].duty).missedEdge n 1
      | .valveDuty n _ => (d.outlet n fun x => x.dropDuty f.instant.toNat d.valve.channels[n].duty).missedEdge n 1
      | .loadSwitch n _ => d.missedEdge n 1
      | .pwmForce p _ => d.missedEdge p 1
      | .pwmLoad p _ _ _ => (d.pair p fun c => { c with loading := false }).missedEdge p 1
      | .slotCompare p _ => d.missedEdge p 1

/-- R23: commands are kept for their negative acknowledgement until a batch after their instant. -/
def Dev.pruneIssued (d : Dev) : Dev :=
  { d with teth := { d.teth with issued := d.teth.issued.filter fun f => (d.chain : Int) ≤ f.instant + d.periodNs } }

/-! ### Learning -/

/-- R93, R95, R196, R208: whether a report is offered to LEARN: no slot pulse, no re-strike, nothing of a pulse with the
fallback or the no-arrival flag, but for the missing arrival kink of a peak that has reached its time limit. -/
def kinkOffered (rep : KinkReport) : Bool :=
  !(rep.slotPulse || rep.reStrike || rep.notOffered) &&
    (!(rep.fallback || rep.noArrival) || (rep.kink.isNone && rep.kind = .arrival))

/-- R93, R94, R209: a kink report: its measurement waits for LEARN, and an accepted kink gives PAINT its stamps. -/
def kinkReportEff (d : Dev) (rep : KinkReport) : Dev :=
  let n := rep.channel
  let on : Bool := rep.kind = .arrival
  let us : Option Nat := rep.kink.map fun k => ((k - rep.start) / 1000).toNat
  let hi := d.nat (outletAdr n (if on then 0x1F else 0x21))
  let accepted := us.any fun m => 100 ≤ m && m ≤ 2 * hi
  let d := match us with
    | some m => d.put (outletAdr n (if on then 0x3B else 0x3C)) m
    | none => d
  let hyd := 1000 * d.nat (outletAdr n (if on then 8 else 9))
  let ground : Option Nat := if accepted then rep.kink.map fun k => k.toNat + hyd else none
  if !kinkOffered rep then d
  else
    d.outlet n fun x => { x with
      measures := x.measures ++ [(decide (rep.kind = .arrival), us)]
      deposits := match ground, x.deposits.getLast? with
        | some g, some (b, e) =>
          if on then (if e.isNone then x.deposits.dropLast ++ [(g, none)] else x.deposits)
          else (if e.isSome then x.deposits.dropLast ++ [(b, some (max b g))] else x.deposits)
        | _, _ => x.deposits }

/-- R93 to R95: one measurement of a delay. -/
def Delay.learn (y : Delay) (w lo hi : Nat) (m : Option Nat) : Delay :=
  match (match m with | some v => if 100 ≤ v && v ≤ 2 * hi then some v else none | none => none) with
  | none => { y with rejected := y.rejected + 1, accepted := 0, unmeasurable := y.unmeasurable || 8 ≤ y.rejected + 1 }
  | some v =>
    let u := y.value + (w * ((v : Int) - y.value) + 128) / 256
    let out := u < lo || hi < u
    { y with
      value := (clampI lo hi u).toNat, rejected := 0, accepted := y.accepted + 1
      unmeasurable := y.unmeasurable && y.accepted + 1 < 8
      pinned := out, pinnedRun := if out then y.pinnedRun + 1 else 0 }

/-- R94, R95: the events of a delay between two states. -/
def Dev.delayEvents (d : Dev) (n : Fin 32) (on : Bool) (a b : Delay) : Dev :=
  let k := if on then 0 else 1
  let d := if !a.unmeasurable && b.unmeasurable then d.raise 0x0301 1 n [(2, Config.eventCause 0x0301 k)]
    else if a.unmeasurable && !b.unmeasurable then d.raise 0x0301 2 n [(2, Config.eventCause 0x0301 k)] else d
  let items := [(2, (Config.eventCause 0x0302 k : Int)), (3, (b.value : Int)), (4, (b.value : Int))]
  if b.pinnedRun = 100 && a.pinnedRun < 100 then d.raise 0x0302 1 n items
  else if 100 ≤ a.pinnedRun && b.pinnedRun = 0 then d.raise 0x0302 2 n items else d

/-- R93, R184: LEARN for one outlet: the measurements of its frame, the first `k`, with the gain of the frame and the bounds of
the live set, where learning runs. -/
def Dev.learnOutlet (d : Dev) (n : Fin 32) (k gain : Nat) : Dev :=
  let ms := d.dec.outlets[n].measures.take k
  let d := d.outlet n fun x => { x with measures := x.measures.drop k }
  if !d.used n || d.nat (outletAdr n 1) = 3 || !d.flag (outletAdr n 0x24) then d
  else ms.foldl (fun d m =>
    let x := d.dec.outlets[n]
    let on := m.1
    let y := if on then x.onDelay else x.offDelay
    let y := { y with value := d.electrical n on }
    let lo := d.nat (outletAdr n (if on then 0x1E else 0x20))
    let hi := d.nat (outletAdr n (if on then 0x1F else 0x21))
    let z := y.learn gain lo hi m.2
    let other := { (if on then x.offDelay else x.onDelay) with value := d.electrical n (!on) }
    let d := d.outlet n fun x => { x with
      learned := x.learned || z.rejected = 0, onDelay := if on then z else other, offDelay := if on then other else z }
    d.delayEvents n on y z) d

/-- R96: the learned parts are committed to MRAM. -/
def Dev.commitDelays (d : Dev) : Dev :=
  let put := fun (s : Store) (n : Fin 32) =>
    let x := d.dec.outlets[n]
    if x.learned then
      storePut (storePut s (outletAdr n 0x22) (.num x.onDelay.value)) (outletAdr n 0x23) (.num x.offDelay.value)
    else storeDrop (storeDrop s (outletAdr n 0x22)) (outletAdr n 0x23)
  { d with nvm := { d.nvm with kept := (List.finRange 32).foldl put d.nvm.kept } }.bump 0x310004

/-- R96: at boot the last committed parts are used. -/
def Dev.bootDelays (d : Dev) : Dev :=
  (List.finRange 32).foldl (fun d n =>
    match storeFind d.nvm.kept (outletAdr n 0x22), storeFind d.nvm.kept (outletAdr n 0x23) with
    | some a, some b => (d.outlet n fun x => { x with
        learned := true, onDelay := { value := (valInt a).toNat }, offDelay := { value := (valInt b).toNat } }).showParts n
    | _, _ => d.showParts n) d

/-- R95, R96: at a swap, learning is reset where the set carries the reset, learned parts are clamped into new bounds,
and the parts are committed. -/
def Dev.swapDelays (d : Dev) (carried : Store) : Dev :=
  let one := fun (d : Dev) (n : Fin 32) =>
    if (storeFind carried (outletAdr n 0x25)).isSome then
      d.outlet n fun x => { x with learned := false, onDelay := {}, offDelay := {} }
    else
      let fit := fun (y : Delay) (lo hi : Nat) =>
        let v := max lo (min hi y.value)
        if v = y.value then y else { y with value := v, pinned := true }
      if d.dec.outlets[n].learned then
        d.outlet n fun x => { x with
          onDelay := fit x.onDelay (d.nat (outletAdr n 0x1E)) (d.nat (outletAdr n 0x1F))
          offDelay := fit x.offDelay (d.nat (outletAdr n 0x20)) (d.nat (outletAdr n 0x21)) }
      else if d.nat (outletAdr n 1) = 3 then d
      else
        let out := fun (on : Bool) (s : Nat) => decide (d.electrical n on ≠ d.nat (outletAdr n s))
        d.outlet n fun x => { x with
          onDelay := { x.onDelay with pinned := x.onDelay.pinned || out true 0x1C }
          offDelay := { x.offDelay with pinned := x.offDelay.pinned || out false 0x1D } }
  ((List.finRange 32).foldl one d).commitDelays

/-! ### Hand-over -/

/-- R110: a change of section control mode at a swap: the actual state is that after the locked edges up to t_e; the dose call
starts from it (log entry 115). -/
def Dev.swapControl (d : Dev) (before : Bool) : Dev :=
  if before = d.automatic then d
  else if d.automatic then
    d.usedOutlets.foldl (fun d n => d.outlet n fun x =>
      let on := (settle d.te { on := x.on, lastOn := none, lastOff := none } x.edges).on
      { x with doseCall := on, holdUntil := if on then some (d.seq.t0 + 1000 * d.nat 0x21000C) else none }) d
  else
    d.usedOutlets.foldl (fun d n => d.outlet n fun x => { x with
      holdUntil := none, edges := x.edges.filter fun e => e.instant < d.te || e.kind = 3 }) d

/-- R40, R39: every pending edge of the device is discarded. -/
def Dev.dropEdges (d : Dev) : Dev :=
  (List.finRange 32).foldl (fun d n => d.outlet n fun x => { x with edges := [] }) d

/-! ### Status -/

/-- Table 4.5: the bytes of a pending edge. -/
def edgeEncode (te : Nat) (e : Edge) : List Byte :=
  leBytes 8 e.instant ++ leBytes 1 e.kind ++ leBytes 1 e.source ++ leBytes 2 e.value ++ leInt 2 e.moved
    ++ leBytes 2 ((if e.instant < te then 1 else 0) + (if e.short then 2 else 0) + (if e.collided then 4 else 0))

/-- Table 4.9: the decision status of an outlet. -/
def Dev.decisionStatus (d : Dev) (n : Fin 32) : Nat :=
  let x := d.dec.outlets[n]
  x.status + (if x.onDelay.pinned then 4096 else 0) + (if x.offDelay.pinned then 8192 else 0)
    + (if x.onDelay.unmeasurable || x.offDelay.unmeasurable then 16384 else 0)
    + 2 ^ 24 * min 255 (max x.onDelay.rejected x.offDelay.rejected)

/-- R60, R127: an unused outlet has no figures: they read as their defaults. -/
def Dev.clearFigures (d : Dev) (n : Fin 32) : Dev :=
  let d := [0x0A, 0x0B, 0x0C, 0x0D, 0x26, 0x27, 0x28, 0x29, 0x2A].foldl (fun (d : Dev) s => d.put (outletAdr n s) 0) d
  let d := (d.put (outletAdr n 0x22) (d.nat (outletAdr n 0x1C))).put (outletAdr n 0x23) (d.nat (outletAdr n 0x1D))
  d.putVal (outletAdr n 0x2B) (.bytes [])

/-- R60: an outlet that a swap makes unused is off: its edges and its open deposit end at the boundary. -/
def Dev.swapUnused (d before : Dev) : Dev :=
  (before.usedOutlets.filter fun n => !d.used n).foldl (fun (d : Dev) (n : Fin 32) => d.outlet n fun x => { x with
    on := false, sweepOn := false, edges := [], status := 0, rate := 0, holdUntil := none, missSince := none
    deposits := x.deposits.map fun q => if q.2.isNone then (q.1, some (max q.1 d.seq.t0)) else q }) d

/-- Tables 3.7, 4.7 and 4.8: the outlet objects, for the status snapshot. -/
def Dev.publishOutlet (d : Dev) (n : Fin 32) : Dev :=
  if !d.used n then d.clearFigures n
  else
    let x := d.dec.outlets[n]
    let p := fun (d : Dev) (s : Nat) (v : Int) => d.put (outletAdr n s) v
    let d := p (p (p (p d 0x0A x.along) 0x0B x.east) 0x0C x.north) 0x0D x.flags
    let d := d.showParts n
    let d := p (p (p (p d 0x26 (d.decisionStatus n)) 0x27 x.rate) 0x28 x.duty) 0x29 x.edges.length
    let d := p d 0x2A (match x.edges with | e :: _ => e.instant | [] => 0 : Nat)
    d.putVal (outletAdr n 0x2B) (.bytes ((x.edges.flatMap (edgeEncode d.te) ++ List.replicate 128 0).take 128))

/-! ### Meanings -/

/-- EDGE_ISSUE (R122). -/
def execEdgeIssue (outlet : Fin 32) (t : Nat) (s : State) : Host.Outcome State Fault Refusal :=
  s.logic t fun d => edgeIssueEff d outlet

/-- R21: a frame of the power die to the logic die: one with a bad CRC is discarded and counted (log entry 103). -/
def Dev.powerFrame {α : Type} (d : Dev) (x : Framed α) (f : α → Dev) : Dev :=
  if x.crcOk then f x.frame else d.bump 0x2E0403

/-- MISSED_SWITCH_ON (R204). -/
def execMissedSwitchOn (outlet : Fin 32) (instant : Framed Int) (t : Nat) (s : State) :
    Host.Outcome State Fault Refusal :=
  s.logic t fun d => d.powerFrame instant fun at_ => missedOnEff d outlet at_ 0

/-- NEGATIVE_ACKNOWLEDGEMENT (R23). -/
def execNegativeAcknowledgement (id : Framed Nat) (t : Nat) (s : State) : Host.Outcome State Fault Refusal :=
  s.logic t fun d => d.powerFrame id (negativeAckEff d)

/-- KINK_REPORT (R209). -/
def execKinkReport (rep : Framed KinkReport) (t : Nat) (s : State) : Host.Outcome State Fault Refusal :=
  s.logic t fun d => d.powerFrame rep (kinkReportEff d)

/-- LEARNED_DELAY_COMMIT (R96). -/
def execLearnedDelayCommit (t : Nat) (s : State) : Host.Outcome State Fault Refusal := s.logic t Dev.commitDelays

/-- MANUAL_SECTION_WRITE (R109): a write to 0x2101:01 to 08. -/
def execManualSectionWrite (acc : Accessor) (k : Fin 8) (v : Int) (s : State) : Host.Outcome State Fault Refusal :=
  s.logicNow fun d => d.writeObject acc (adr 0x2101 (1 + k)) (.num v) false none id

/-- MAP_MISS_HOLD_LIMIT (R151): under the hold policy, an outlet whose miss has lasted the hold limit is switched off at
the next boundary. -/
def execMapMissHoldLimit (outlet : Fin 32) (t : Nat) (s : State) : Host.Outcome State Fault Refusal :=
  s.logic t fun d =>
    let x := d.dec.outlets[outlet]
    let ended := d.nat 0x220003 = 1 && d.automatic && x.missSince.any fun m => m + 1000 * d.nat 0x220004 ≤ d.chain
    if ended then
      let locked := x.edges.filter fun e => e.instant < d.te
      let on := (settle d.te { on := x.on, lastOn := x.lastOn, lastOff := x.lastOff } locked).on
      let off : List Edge := if on then [{ instant := d.nextBoundary, kind := 2, source := 0, free := true }] else []
      d.outlet outlet fun x => { x with edges := locked ++ off, sweepOn := false }
    else d

end Sys2Proof.Machine
end

