-- ==== Sys2Proof/Machine/Targets.lean ====
section
/-! DEFINITION. Spot targets from their intake to their closing (R154 to R160, R168 to R172, R328). -/

namespace Sys2Proof.Machine

/-! ### Records and messages -/

/-- Table 6.2: the bytes of a target message. -/
def targetMessageEncode (source : Nat) (recs : List TargetRec) : List Byte :=
  let body := leBytes 1 recs.length ++ leBytes 1 source ++ leBytes 2 0 ++ recs.flatMap targetEncode
  body ++ leBytes 4 (crc32 body)

/-- The signed integer of little-endian bytes. -/
def leSigned (b : List Byte) : Int :=
  let n : Int := leNat b
  if 2 * n < 256 ^ b.length then n else n - 256 ^ b.length

/-- Table 6.1: the record that 44 bytes hold. -/
def targetDecode (b : List Byte) : TargetRec :=
  let u := fun k n => leNat ((b.drop k).take n)
  let i := fun k n => leSigned ((b.drop k).take n)
  { seq := u 0 4, form := u 4 1, cls := u 5 1, dose := u 6 2, capture := i 8 8, posA := i 16 4, posB := i 20 4,
    halfLength := u 24 2, halfWidth := u 26 2, orientation := i 28 2, camSegment := u 30 1, camX := i 32 4,
    camY := i 36 4, camYaw := i 40 2 }

/-- The records of a message body. -/
def targetsDecode : Nat → List Byte → List TargetRec
  | 0, _ => []
  | k + 1, b => targetDecode b :: targetsDecode k (b.drop 44)

/-- R156: the records of a target message; none where its CRC or its count fails. -/
def targetMessageDecode (b : List Byte) : Option (List TargetRec) :=
  let k := leNat (b.take 1)
  if b.length = 8 + 44 * k && 1 ≤ k && leNat (b.drop (4 + 44 * k)) = crc32 (b.take (4 + 44 * k)) then
    some (targetsDecode k (b.drop 4))
  else none

/-! ### Results -/

/-- Update the targets. -/
def Dev.targets (d : Dev) (f : Targets → Targets) : Dev := { d with tgt := f d.tgt }

/-- R168: the lead's result queue is full. -/
def Dev.resultsFull (d : Dev) : Bool := 256 ≤ d.que.results.length

/-- R168, R171: a result goes to the host's queue: one of the host, or of a guest whose intake device is missing. -/
def Dev.forHost (d : Dev) (source : Nat) : Bool :=
  16 ≤ source || (d.isLead && !d.seq.map.testBit (d.nat (adr (0x2A10 + source) 2)))

/-- R168: deliver a result record: to the guest, or into the queue that the host reads; one beyond the 256 that the queue
holds waits behind them (log entry 65). -/
def Dev.deliverResult (d : Dev) (r : ResultRec) : Dev :=
  if d.forHost r.source then { d with que := { d.que with results := d.que.results ++ [⟨r, false, d.time.now⟩] } }
  else d.send (.guestResult r.source r)

/-- A result record of a target without any outlet. -/
def plainResult (source seq code : Nat) : ResultRec := ⟨source, code, 0xFFFF, seq, 0, 0, 0⟩

/-- R168: the final result from the owners' results. -/
def finalCode (rs : List (Nat × Nat)) : Nat :=
  if rs.all fun r => r.2 = 1 then 1
  else if rs.any fun r => r.2 = 1 || r.2 = 2 then 2
  else rs.foldl (fun m r => min m r.2) 12

/-- R168, R417: the targets whose owners have all reported end: their final result is journalled and delivered. A result
for the host waits while its queue is full. -/
def Dev.finishIntakes (d : Dev) : Dev :=
  let step := fun (d : Dev) (x : Intake) =>
    if 2 < x.stage && x.owners ≠ [] && x.stage ≠ 4 && x.owners.length ≤ x.results.length
        && !(d.forHost x.source && d.resultsFull) then
      let r : ResultRec := ⟨x.source, finalCode x.results, x.firstOutlet, x.record.seq, x.firstOn, x.lastOff, x.outlets⟩
      let d := d.targets fun t => { t with intake := t.intake.filter fun y => y ≠ x }
      let d := d.journal (d.entry 9 x.source x.record.seq 0 (d.isLead && x.source = 16) (.final r))
      let d := if d.forHost x.source then d
        else d.closeEntries fun e => e.kind = 9 && e.source = x.source && e.seq = x.record.seq
      d.deliverResult r
    else d
  d.tgt.intake.foldl step d

/-- R168: a result of a source whose intake device is missing: into the lead's result queue. -/
def Dev.strayResult (d : Dev) (r : ResultRec) : Dev :=
  if d.isLead && r.result ≠ 0 && d.forHost r.source && !d.que.results.any (fun q => q.item = r) then d.deliverResult r else d

/-- R160, R168: the intake device takes an owner's confirmation (result 0) or its closing result. -/
def confirmationEff (d : Dev) (pos : Fin 32) (r : ResultRec) : Dev :=
  match d.tgt.intake.find? fun x => x.source = r.source && x.record.seq = r.seq && 1 < x.stage with
  | none => d.strayResult r
  | some x =>
    let left := x.unconfirmed.filter fun p => p ≠ pos.val
    let again := x.results.any fun q => q.1 = pos.val
    let y : Intake :=
      if r.result = 0 || again then { x with unconfirmed := left }
      else
        { x with
          unconfirmed := left, results := x.results ++ [(pos.val, r.result)]
          firstOutlet := min x.firstOutlet r.firstOutlet
          firstOn := if x.firstOn = 0 then r.firstOn else if r.firstOn = 0 then x.firstOn else min x.firstOn r.firstOn
          lastOff := max x.lastOff r.lastOff, outlets := x.outlets + r.outlets }
    let d := d.targets fun t => { t with intake := t.intake.map fun z => if z = x then y else z }
    let d := if x.unconfirmed.any (fun p => p = pos.val) then
        d.journal (d.entry 6 x.source x.record.seq 0 d.isLead (.owner pos.val))
      else d
    let d := if left = [] then d.closeEntries fun e => e.kind = 5 && e.source = x.source && e.seq = x.record.seq else d
    d.finishIntakes

/-! ### Intake -/

/-- R169: a record takes its place in the intake until it has been committed and every owner has its share. -/
def Intake.waits (x : Intake) : Bool := x.stage ≠ 3 || x.unsent ≠ []

/-- R157, R169: the records that the intake holds. -/
def Dev.intakeHeld (d : Dev) : Nat := (d.tgt.intake.filter Intake.waits).length

/-- R157, R169: the intake has room for records. -/
def Dev.intakeRoom (d : Dev) (n : Nat) : Bool := d.intakeHeld + n ≤ 512

/-- Put records into the intake. -/
def Dev.intakeRecords (d : Dev) (source : Nat) (recs : List TargetRec) : Dev :=
  d.targets fun t => { t with
    intake := t.intake ++ recs.map fun r => { source := source, record := r, stage := 0, form0 := r : Intake } }

/-- R156, R328: a guest's target message, for one of its credits. -/
def targetMessageEff (d : Dev) (guest : Fin 16) (crcOk : Bool) (count : Nat) (recs : List TargetRec) : Dev :=
  let d := d.targets fun t => { t with guestCredits := updateAt t.guestCredits guest (· - 1) }
  if crcOk && count = recs.length && 1 ≤ count && count ≤ 32 && d.intakeRoom count then d.intakeRecords guest recs else d

/-- R158, R402: the records of an accepted host write; its completion waits for their commit. -/
def targetInAct (recs : List TargetRec) (d : Dev) : Dev :=
  if recs = [] then d
  else
    let ack := d.jrn.waiting.getLast?
    let d := { d with jrn := { d.jrn with waiting := d.jrn.waiting.dropLast } }
    let d := d.intakeRecords 16 recs
    d.targets fun t => { t with intake := t.intake.dropLast ++ (t.intake.getLast?.toList.map fun x => { x with ack := ack }) }

/-- R156: the action of a write of bytes to 0x2301:01; a message that does not decode never comes this far. -/
def targetBytesAct (b : List Byte) (d : Dev) : Dev := targetInAct ((targetMessageDecode b).getD []) d

/-- R328, R169: the credits that a guest may be granted now, up to a number. -/
def Dev.guestGrant (d : Dev) (guest : Fin 16) (credits : Nat) : Nat :=
  let sum := d.tgt.guestCredits.toList.sum
  let room := (512 - d.intakeHeld) / 32 - sum
  if d.tgt.stopped || d.intakeBusy then 0 else min credits (min room (2 - d.tgt.guestCredits[guest]))

/-- R328: grant a guest message credits. -/
def guestCreditEff (d : Dev) (guest : Fin 16) (credits : Nat) : Dev :=
  let n := d.guestGrant guest credits
  if n = 0 then d
  else (d.targets fun t => { t with guestCredits := updateAt t.guestCredits guest (· + n) }).send (.enumeration none (enumerationBody 5 0 (d.nat 0x22010E) (creditFields guest n)))

/-- R159: a share waits for its owner's credit. -/
def Dev.waitingShares (d : Dev) : Nat := (d.tgt.intake.filter fun x => 1 < x.stage && x.unsent ≠ []).length

/-- R157, R169: the cut-off: every record that has arrived, unless more than 256 wait for credit or the journal takes no
intake. -/
def Dev.cutOff (d : Dev) : Dev :=
  let stop := 256 < d.waitingShares || d.intakeBusy
  let n := (d.tgt.intake.filter fun x => x.stage = 0).length
  d.targets fun t => { t with
    stopped := stop
    taken := (t.taken.filter fun x => d.seq.t0 < x.1 + 1000000000) ++ (if stop || n = 0 then [] else [(d.seq.t0, n)])
    intake := if stop then t.intake else t.intake.map fun x => if x.stage = 0 then { x with stage := 1 } else x }

/-! ### Checks and conversion -/

/-- R158: two boom states at fraction `n`/`m`, headings by wrapped difference. -/
def blend (a b : BoomState) (n m : Int) : BoomState :=
  let mid := fun (x y : Int) => x + (y - x) * n / m
  { a with
    t0 := a.t0 + n, east := mid a.east b.east, north := mid a.north b.north, up := mid a.up b.up
    heading := (a.heading + angSigned (b.heading - a.heading) * n / m) % 65536
    deflection := Vector.ofFn fun k => a.deflection[k] + angSigned (b.deflection[k] - a.deflection[k]) * n / m
    quality := min a.quality b.quality }

/-- R158: the stored states around an instant, newest first. -/
def boomBetween (t : Int) : List BoomState → Option BoomState
  | b :: a :: r =>
    if a.t0 ≤ t && t < b.t0 then some (blend a b (t - a.t0) (b.t0 - a.t0)) else boomBetween t (a :: r)
  | _ => none

/-- R158: the boom state at an instant; none outside the history. -/
def Dev.boomAt (d : Dev) (t : Int) : Option BoomState :=
  if t = d.pose.boom.t0 then some d.pose.boom else boomBetween t d.pose.history

/-- R158: a camera-relative record in form 0. -/
def toField (b : BoomState) (r : TargetRec) : TargetRec :=
  let c := flexed b 16 r.camSegment (r.camX * 65536, r.camY * 65536)
  let v := rotate32 (r.posA * 65536, r.posB * 65536) (ofAng r.camYaw)
  let p := (motionOf b).field (c.1 + v.1, c.2 + v.2)
  { r with
    form := 0, capture := 0, posA := (p.1 + 32768) / 65536, posB := (p.2 + 32768) / 65536
    orientation := (b.heading + r.camYaw + flexSum b 16 r.camSegment + r.orientation) % 65536 }

/-- R159: the owners of a record in form 0: the present devices whose span overlaps its lateral interval. -/
def Dev.ownersOf (d : Dev) (r : TargetRec) : List Nat :=
  let b := d.pose.boom
  let m := motionOf b
  let ys := (targetArea r).lateral (m.east, m.north) m.heading
  ((List.finRange 32).filter fun (p : Fin 32) => d.seq.map.testBit p && match b.spans[p] with
    | some (lo, hi) => ys.1 ≤ hi * 65536 && lo * 65536 ≤ ys.2
    | none => false).map fun p => p.val

/-- R157: the fields of a record lie inside Table 6.1, its class is enabled, and spot targets are enabled. -/
def Dev.recordValid (d : Dev) (r : TargetRec) : Bool :=
  d.flag 0x230001 && r.form ≤ 1 && r.cls ≤ 15 && d.flag (adr (0x2310 + r.cls) 1) && r.dose ≤ 400 && 1 ≤ r.halfLength
    && r.halfLength ≤ 2000 && 1 ≤ r.halfWidth && r.halfWidth ≤ 2000 && (r.form = 0 || r.camSegment ≤ 15)

/-- R157: the checks of a record: its rejection code, or its form 0 and owners. -/
def Dev.checkRecord (d : Dev) (source : Nat) (r : TargetRec) : Nat ⊕ TargetRec × List Nat :=
  if !d.recordValid r then .inl 8
  else if !seqFresh d (source, 0) r.seq then .inl 11
  else if r.form = 1 && (d.seq.t0 < r.capture || r.capture + 1000 * d.nat 0x230002 < d.seq.t0) then .inl 9
  else
    match if r.form = 1 then d.boomAt r.capture else some d.pose.boom with
    | none => .inl 9
    | some b =>
      if b.quality < d.nat 0x230008 then .inl 10
      else
        let f := if r.form = 1 then toField b r else { r with capture := 0 }
        match d.ownersOf f with
        | [] => .inl 6
        | os => .inr (f, os)

/-- R159: place or send the shares that may go: into the own inbox at once, where it has an entry that no credit promises to
another device; to another owner against its credit. -/
def Dev.sendShares (d : Dev) : Dev :=
  let one := fun (acc : Intake × Dev) (o : Nat) =>
    let x := acc.1
    let d := acc.2
    let share : Share := ⟨x.origin.getD d.pos32, x.source, x.form0⟩
    let sent := { x with unsent := x.unsent.filter fun p => p ≠ o }
    if o = d.position then
      if d.tgt.inbox.length + d.tgt.granted.toList.sum < 512 then (sent, d.targets fun t => { t with inbox := t.inbox ++ [share] }) else (x, d)
    else if h : o < 32 then
      if 0 < d.tgt.credits[o] then
        (sent, (d.targets fun t => { t with credits := updateAt t.credits ⟨o, h⟩ (· - 1) }).send (.share o share))
      else (x, d)
    else (x, d)
  let step := fun (acc : List Intake × Dev) (x : Intake) =>
    if x.stage < 2 then (acc.1 ++ [x], acc.2)
    else
      let r := x.unsent.foldl one (x, acc.2)
      (acc.1 ++ [r.1], r.2)
  let r := d.tgt.intake.foldl step ([], d)
  r.2.targets fun t => { t with intake := r.1 }

/-- R171, R376: the acknowledgement of a host write goes back to those that wait for the journal commit. -/
def Dev.passAck (d : Dev) (x : Intake) : Dev :=
  match x.ack with
  | some a => { d with jrn := { d.jrn with waiting := d.jrn.waiting ++ [a] } }
  | none => d

/-- R157, R158: check one record taken at the cut-off. -/
def Dev.checkIntake (d : Dev) (x : Intake) : Dev :=
  match d.checkRecord x.source x.record with
  | .inl code =>
    let d := (d.targets fun t => { t with intake := t.intake.erase x }).bump 0x230308
    (d.passAck x).deliverResult (plainResult x.source x.record.seq code)
  | .inr (f, os) =>
    let y := { x with stage := 2, form0 := f, owners := os, unsent := os, unconfirmed := os, ack := none }
    let d := (d.targets fun t => { t with intake := t.intake.replace x y }).bump 0x230302
    (d.passAck x).journal (d.entry 5 x.source x.record.seq 0 (d.isLead && x.source = 16) (.target f))

/-- R170: a record to be forwarded again, once its owners can be found: those that have confirmed it, which the journal
names, and the others that its area has now (log entry 66). -/
def Dev.forwardAgain (d : Dev) (x : Intake) : Dev :=
  let left := (d.ownersOf x.form0).filter fun o => !x.owners.any (· = o)
  let owners := x.owners ++ left
  if owners = [] then d
  else
    let d := d.targets fun t => { t with intake := t.intake.map fun z =>
      if z = x then { x with stage := 3, owners := owners, unsent := left, unconfirmed := left } else z }
    if left = [] then d.closeEntries fun e => e.kind = 5 && e.source = x.source && e.seq = x.record.seq else d

/-- R158: of the records taken, those that are checked now: a late one holds back what follows it from its source. -/
def inOrder (late : Intake → Bool) : List Nat → List Intake → List Intake
  | _, [] => []
  | held, x :: r =>
    if x.stage ≠ 1 then inOrder late held r
    else if late x || held.any (· = x.source) then inOrder late (x.source :: held) r
    else x :: inOrder late held r

/-- R157 to R159, R181: the intake's part of Phase B: every record taken whose group is not late, in the order of its
source. -/
def Dev.checkIntakes (d : Dev) (late : Intake → Bool) : Dev :=
  let d := (d.tgt.intake.filter fun x => x.stage = 4).foldl Dev.forwardAgain d
  let d := (inOrder late [] d.tgt.intake).foldl Dev.checkIntake d
  d.sendShares

/-- R160: the key of the sequences that an owner has taken. -/
def shareKey (s : Share) : Nat := s.intake * 256 + s.source

/-- R156, R160, R168: an owner's answer to the intake device of a share: of the host path that is the lead, and for an intake
device that is missing it is the lead too. -/
def Dev.answerIntake (d : Dev) (s : Share) (r : ResultRec) : Dev :=
  let gone := !d.seq.map.testBit s.intake && s.intake.val ≠ d.position
  let p := if s.source = 16 || gone then d.leadPos else s.intake.val
  if p ≠ d.position then d.send (.shareConfirmation p r)
  else if gone && s.source ≠ 16 then (if r.result = 0 then d else d.deliverResult r)
  else confirmationEff d d.pos32 r

/-- R158, R160: after the journal commit: result 0 to the senders, and the owner's confirmations. -/
def Dev.targetsCommitted (d : Dev) : Dev :=
  let whole := fun (x : Intake) => x.stage = 2 && !d.unwritten 5 x.source x.record.seq 0
  let done := d.tgt.intake.filter whole
  let written := fun (p : PendingShare) => p.journalled.isNone && !d.unwritten 7 0x16 p.share.record.seq (shareKey p.share)
  let d := d.targets fun t => { t with intake := t.intake.map fun x => if whole x then { x with stage := 3 } else x }
  let d := done.foldl (fun d x =>
    if x.source < 16 then d.send (.guestResult x.source (plainResult x.source x.record.seq 0)) else d) d
  let taken := d.tgt.store.filter written
  let mark := fun (p : PendingShare) => if written p then { p with journalled := some d.seq.number } else p
  let d := d.targets fun t => { t with store := t.store.map mark }
  let d := taken.foldl (fun d p => d.answerIntake p.share (plainResult p.share.source p.share.record.seq 0)) d
  d.finishIntakes

/-! ### Owners -/

/-- R159: a share arrives for one of the credits granted to its intake device: the inbox has kept an entry for it. -/
def shareEff (d : Dev) (s : Share) : Dev :=
  let d := d.targets fun t => { t with granted := updateAt t.granted s.intake (· - 1) }
  d.targets fun t => { t with inbox := t.inbox ++ [s] }

/-- R160: one share leaves the inbox: dropped as a duplicate, or into the pending store and the journal. -/
def Dev.takeShare (d : Dev) (s : Share) : Dev :=
  if !seqFresh d (0x16, shareKey s) s.record.seq then d
  else
    let d := d.targets fun t => { t with store := t.store ++ [{ share := s, takenAt := d.chain, batch := d.seq.number }] }
    d.journal (d.entry 7 0x16 s.record.seq (shareKey s) false (.share s))

/-- R160, R169, R411: shares move into the pending store: at most 256 in a batch, and while it has room. -/
def Dev.moveShares (d : Dev) : Dev :=
  let n := min 256 (4096 - d.tgt.store.length)
  let now := d.tgt.inbox.take n
  now.foldl Dev.takeShare (d.targets fun t => { t with inbox := t.inbox.drop n })

/-- R159: grant share credits from the inbox: up to 16 outstanding for each other present device, as it has room. -/
def Dev.grantShares (d : Dev) : Dev :=
  if !d.flag 0x230001 then d
  else (List.finRange 32).foldl (fun d (p : Fin 32) =>
    if !d.seq.map.testBit p || p.val = d.position then d
    else
      let k := min (16 - d.tgt.granted[p]) (512 - d.tgt.inbox.length - d.tgt.granted.toList.sum)
      if k = 0 then d
      else (d.targets fun t => { t with granted := updateAt t.granted p (· + k) }).send (.shareCredit p k)) d

/-- R168: the result record of a share. -/
def Dev.shareRecord (d : Dev) (p : PendingShare) (code : Nat) : ResultRec :=
  let done := p.windows.filter fun x => x.stage = 2
  let least := fun (m x : Nat) => if m = 0 then x else min m x
  { source := p.share.source, result := code, seq := p.share.record.seq, outlets := p.windows.length
    firstOutlet := p.windows.foldl (fun m x => min m (32 * d.position + x.outlet)) 0xFFFF
    firstOn := (done.foldl (fun m x => least m x.on) 0 : Nat)
    lastOff := (done.foldl (fun m x => max m x.off) 0 : Nat) }

/-- R168: close a share: journalled, its entry freed, its result to the intake device, or to the lead where that device is
missing. -/
def Dev.closeShare (d : Dev) (p : PendingShare) (code : Nat) : Dev :=
  let r := d.shareRecord p code
  let k := shareKey p.share
  let d := d.targets fun t => { t with store := t.store.filter fun q => q.share ≠ p.share }
  let d := d.journal (d.entry 8 0x16 p.share.record.seq k false (.result code))
  let d := d.closeEntries fun e => e.kind = 7 && e.subKey = k && e.seq = p.share.record.seq
  let d := if code = 1 then d.bump 0x230303 else d.bump 0x230304
  d.answerIntake p.share r

/-- R168: the shares that close in Phase D. -/
def Dev.closeShares (d : Dev) : Dev :=
  d.tgt.store.foldl (fun d p => match d.shareResult p with
    | some c => d.closeShare p c
    | none => d) d

/-- R130, R168: a change of field session closes every share. -/
def Dev.cancelShares (d : Dev) : Dev := d.tgt.store.foldl (fun d p => d.closeShare p 12) d

/-- R168: a share that has been pending for the maximum pending time closes as expired. -/
def shareExpiryEff (d : Dev) (intake : Fin 32) (source seq : Nat) : Dev :=
  match d.tgt.store.find? fun p => p.share.intake = intake && p.share.source = source && p.share.record.seq = seq with
  | some p => if p.takenAt + 1000 * d.nat 0x230003 ≤ d.chain then d.closeShare p 5 else d
  | none => d

/-- R159: share credits of an owner arrive. -/
def shareCreditEff (d : Dev) (pos : Fin 32) (credits : Nat) : Dev :=
  (d.targets fun t => { t with credits := updateAt t.credits pos (· + credits) }).sendShares

/-! ### Acknowledgement, replay, takeover -/

/-- Table 6.6: 0x2302:02: the acknowledged result leaves the queue. -/
def resultAcknowledgeAct (source seq : Nat) (d : Dev) : Dev :=
  let d := { d with que := { d.que with results := d.que.results.filter fun r => !(r.item.source = source && r.item.seq = seq) } }
  (d.closeEntries fun e => e.kind = 9 && match e.payload with
    | .final r => r.source = source && r.seq = seq
    | _ => false).finishIntakes

/-- R170, Table 17.4: what replay does with the open target entries, and with the closures still in the log. -/
def Dev.replayTargets (d : Dev) (opens all : List JEntry) : Dev :=
  let one := fun (d : Dev) (e : JEntry) => match e.kind, e.payload with
    | 5, .target r =>
      let confirmed := all.filterMap fun c => match c.kind, c.payload with
        | 6, .owner p => if c.source = e.source && c.seq = e.seq then some p else none
        | _, _ => none
      d.targets fun t => { t with intake := t.intake ++ [{
        source := e.source, record := r, stage := 4, form0 := r, owners := confirmed : Intake }] }
    | 7, .share s => d.targets fun t => { t with store := t.store ++ [{
        share := s, takenAt := d.chain, batch := e.batch, journalled := some e.batch, afterReset := true : PendingShare }] }
    | 9, .final r => d.deliverResult r
    | _, _ => d
  let again := fun (d : Dev) (e : JEntry) => match e.kind, e.payload with
    | 8, .result c =>
      if e.subKey / 256 = d.position then
        (if d.tgt.intake.any fun x => x.source = e.subKey % 256 && x.record.seq = e.seq then
          confirmationEff d d.pos32 (plainResult (e.subKey % 256) e.seq c) else d)
      else d.send (.shareConfirmation (e.subKey / 256) (plainResult (e.subKey % 256) e.seq c))
    | _, _ => d
  all.foldl again (opens.foldl one d)

/-- R171: the new lead forwards every unconfirmed host target of the mirror again, to the owners that have not confirmed it and
under the key of the old lead, so that one that has taken it sees a duplicate; it takes over the result queue. -/
def Dev.takeoverTargets (d : Dev) (m : Mirror) (old : Fin 32) : Dev :=
  let d := d.targets fun t => { t with intake := t.intake ++ m.hostTargets.map fun x =>
    { source := 16, record := x.1, stage := 3, form0 := x.1, owners := x.2.1, unsent := x.2.2, unconfirmed := x.2.2
      origin := some old : Intake } }
  { d with que := { d.que with results := m.results.map fun r => ⟨r, false, d.time.now⟩ } }

/-! ### Status -/

/-- Table 6.8: the target intake status. -/
def Dev.targetStatus (d : Dev) : Nat :=
  let on := fun (k : Nat) (b : Bool) => if b then 2 ^ k else 0
  let oldest : Int := (d.pose.history.getLast?.map fun b => b.t0).getD (d.seq.t0 : Int)
  on 0 d.tgt.stopped + on 1 (4096 ≤ d.tgt.store.length) + on 2 (0 < d.waitingShares) + on 3 (!d.flag 0x230001)
    + on 4 ((d.seq.t0 : Int) - 1000 * d.nat 0x230002 < oldest) + on 5 (d.isLead && d.resultsFull)

/-- Table 6.6: the target objects, for the status snapshot. -/
def Dev.publishTargets (d : Dev) : Dev :=
  let waits := d.tgt.intake.foldl (fun n x => if 1 < x.stage then n + x.unsent.length else n) 0
  let d := (d.put 0x230301 d.tgt.store.length).put 0x230305 d.targetStatus
  let d := (d.put 0x230306 (min 512 waits : Nat)).put 0x230307 (min 65535 (d.tgt.taken.foldl (fun n x => n + x.2) 0) : Nat)
  match lastSeq (0x10, 0) d.jrn.seqs with
  | some q => d.put 0x230102 q
  | none => d

/-! ### Meanings -/

/-- GUEST_CREDIT (R328). -/
def execGuestCredit (guest : Fin 16) (credits : Nat) (s : State) : Host.Outcome State Fault Refusal :=
  s.logicNow fun d => guestCreditEff d guest credits

/-- TARGET_MESSAGE (R156). -/
def execTargetMessage (guest : Fin 16) (crcOk : Bool) (count : Nat) (recs : List TargetRec) (t : Nat) (s : State) :
    Host.Outcome State Fault Refusal :=
  s.logic t fun d => targetMessageEff d guest crcOk count recs

/-- TARGET_IN_WRITE (R156, R169): a write to 0x2301:01; busy while the intake has no room or the result queue is full. -/
def execTargetInWrite (acc : Accessor) (recs : List TargetRec) (s : State) : Host.Outcome State Fault Refusal :=
  s.logicNow fun d => d.writeObject acc 0x230101 (.bytes (targetMessageEncode 16 recs))
    (!d.intakeRoom recs.length || d.resultsFull) none
    (targetInAct recs)

/-- SHARE (R159). -/
def execShare (share : Share) (t : Nat) (s : State) : Host.Outcome State Fault Refusal :=
  s.logic t fun d => shareEff d share

/-- SHARE_CREDIT (R159). -/
def execShareCredit (pos : Fin 32) (credits t : Nat) (s : State) : Host.Outcome State Fault Refusal :=
  s.logic t fun d => shareCreditEff d pos credits

/-- SHARE_CONFIRMATION (R160, R168). -/
def execShareConfirmation (pos : Fin 32) (rec : ResultRec) (t : Nat) (s : State) : Host.Outcome State Fault Refusal :=
  s.logic t fun d => confirmationEff d pos rec

/-- SHARE_EXPIRY (R168). -/
def execShareExpiry (intake : Fin 32) (source seq t : Nat) (s : State) : Host.Outcome State Fault Refusal :=
  s.logic t fun d => shareExpiryEff d intake source seq

/-- TARGET_RESULT (R168): a final result is sent to the guest, or queued for the host. -/
def execTargetResult (rec : ResultRec) (t : Nat) (s : State) : Host.Outcome State Fault Refusal :=
  s.logic t fun d => d.deliverResult rec

/-- RESULT_ACKNOWLEDGE (R168): a write to 0x2302:02. -/
def execResultAcknowledge (acc : Accessor) (source seq : Nat) (s : State) : Host.Outcome State Fault Refusal :=
  s.logicNow fun d => d.writeObject acc 0x230202 (.bytes (leBytes 1 source ++ leBytes 3 0 ++ leBytes 4 seq)) false none
    (resultAcknowledgeAct source seq)

end Sys2Proof.Machine
end

