-- ==== Sys2Proof/Machine/Tiles.lean ====
section
/-! DEFINITION. The tile store (R136 to R151): slots and their transitions, window, homes and caches, paging, write-backs,
rebuilding, and uncorrectable SRAM words. -/

namespace Sys2Proof.Machine

/-- Update the tile store. -/
def Dev.store (d : Dev) (f : Tiles → Tiles) : Dev := { d with tiles := f d.tiles }

/-- R153: the current field session. -/
def Dev.session (d : Dev) : Nat := d.nat 0x220002

/-- Table 5.5: the transfer of a slot. -/
def Dev.transferOf (d : Dev) (x : Slot) : TileTransfer :=
  { session := x.session, coord := x.coord, epoch := d.nat 0x22010E, cellSize := x.cellSize, blank := x.blank,
    paintGap := x.paintGap, seq := x.sequence, marks := x.marks, record := x.record, crcOk := true, cachers := x.cachers }

/-- R137: a transfer that the device can take: whole, and of the session and the cell size in force. -/
def Dev.fits (d : Dev) (t : TileTransfer) : Bool :=
  t.crcOk && t.session = d.session && t.cellSize = d.nat 0x220001

/-! ### The slice -/

/-- R136: the bytes of the slice at which the directory entry and the tile slot of an index begin. -/
def entryAddress (k : Fin 112) : Nat := 16384 + 1024 * k
def slotAddress (k : Fin 112) : Nat := 131072 + 73728 * k

/-- Table 5.4: the leading fields of a directory entry, 176 bytes. -/
def directoryEntry (x : Slot) : List Byte :=
  let on := fun (k : Nat) (b : Bool) => if b then 2 ^ k else 0
  let rows := x.dirtyRows.eraseDups.foldl (fun m r => m + 2 ^ r) 0
  leBytes 4 x.coord ++ leBytes 1 x.state ++ leBytes 1 x.role
    ++ leBytes 2 (on 0 (x.dirtyRows ≠ []) + on 1 x.paintGap + on 2 x.blank + on 3 x.rebuilding)
    ++ leBytes 4 x.epoch ++ leBytes 4 x.sequence ++ x.marks.toList.flatMap (leBytes 4) ++ leBytes 32 rows

/-- R136: the directory entries of the slots in use, at their addresses in the slice; a free entry reads 0 in its role. -/
def Dev.directory (d : Dev) : List (Nat × List Byte) := d.tiles.slots.map fun x => (entryAddress x.index, directoryEntry x)

/-! ### Applying paint -/

/-- R145: whether a copy with this mark takes a delta of batch `b`. -/
def markTakes (mark b : Nat) : Bool := mark = 0xFFFFFFFF || ahead b mark

/-- R132, R145: one finished increment on a cell. -/
def paintCell (r : TileRecord) (c : CellInc) : TileRecord :=
  let v := cellOf r c.cell
  let level := if v / 16 = 15 then 0 else v / 16
  let sum := level + c.inc
  let over_ := v.testBit 1 || 14 < sum || c.overDose
  setCell r c.cell (16 * min 14 sum + v / 4 % 4 * 4 + (if over_ then 2 else 0) + 1)

/-- Add the rows of a delta's cells to a list of dirty rows. -/
def addRows (rows : List Nat) (cs : List CellInc) : List Nat :=
  cs.foldl (fun l c => if l.any (· = c.cell / 256) then l else l ++ [c.cell / 256]) rows

/-- R145: a copy applies a delta that its mark takes; a home copy gets dirty rows. -/
def applyDelta (x : Slot) (e : PaintDelta) : Slot :=
  { x with
    record := e.cells.foldl paintCell x.record
    marks := x.marks.set e.position e.batch
    dirtyRows := if x.role = 1 then addRows x.dirtyRows e.cells else x.dirtyRows
    state := if x.role = 1 && x.state = 2 then 3 else x.state
    blank := false }

/-- R145: apply a delta, or drop it by its mark. -/
def takeDelta (x : Slot) (e : PaintDelta) : Slot := if markTakes x.marks[e.position] e.batch then applyDelta x e else x

/-- Insert a delta before the later ones of its position, so that buffered deltas are taken in the order of their batches. -/
def insertDelta (e : PaintDelta) : List PaintDelta → List PaintDelta
  | [] => [e]
  | f :: r => if f.position = e.position && ahead f.batch e.batch then e :: f :: r else f :: insertDelta e r

/-- R143: a copy takes buffered deltas. -/
def takeDeltas (x : Slot) (es : List PaintDelta) : Slot := (es.foldl (fun l e => insertDelta e l) []).foldl takeDelta x

/-! ### Slots -/

/-- The distance (1/65,536 mm) ahead of the reference point at which a tile's centre lies. -/
def Dev.tileAhead (d : Dev) (c : Nat) : Int :=
  let m := motionOf d.pose.boom
  let e : Int := 65536 * d.tileMm
  let p := (tileI c * e + e / 2, tileJ c * e + e / 2)
  (- (p.1 - m.east) * sin32 m.heading + (p.2 - m.north) * cos32 m.heading) / 2 ^ 30

/-- R147: the squared distance (mm²) from the reference point to a tile's centre. -/
def Dev.tileDistance (d : Dev) (c : Nat) : Nat :=
  let e : Int := d.tileMm
  let x := tileI c * e + e / 2 - d.pose.boom.east
  let y := tileJ c * e + e / 2 - d.pose.boom.north
  (x * x + y * y).toNat

/-- Insert a tile by rising distance. -/
def Dev.insertNear (d : Dev) (c : Nat) : List Nat → List Nat
  | [] => [c]
  | x :: r => if d.tileDistance c < d.tileDistance x then c :: x :: r else x :: d.insertNear c r

/-- R147: the page request queue, nearest to the reference point first. -/
def Dev.pagesNear (d : Dev) : List Nat := d.que.pages.foldl (fun l c => d.insertNear c l) []

/-- Remove the slot of an index. -/
def Dev.dropSlot (d : Dev) (k : Fin 112) : Dev := d.store fun s => { s with slots := s.slots.filter fun x => x.index ≠ k }

/-- R130, R142, R150: the paging path is none: the lead's own setting, which a wheeler has from the boom state (log entry 118). -/
def Dev.pagingNone (d : Dev) : Bool := if d.isLead then d.nat 0x22000A = 1 else d.pose.boom.noPaging

/-- R142: the slot that gives way: one of the old session that waits for no write-back, the cached tile furthest behind, a home
copy outside the window that may go. -/
def Dev.victim (d : Dev) : Option Slot :=
  let cached := d.tiles.slots.filter fun x => x.role = 2
  let back := cached.foldl (fun (m : Option Slot) x => match m with
    | none => some x
    | some y => if d.tileAhead x.coord < d.tileAhead y.coord then some x else some y) none
  match d.tiles.slots.find? fun x => x.role = 3 && d.pagingNone with
  | some x => some x
  | none => match back with
    | some x => some x
    | none => d.tiles.slots.find? fun x => x.role = 1 && x.outside && (x.state = 2 || d.pagingNone)

/-- R143, R147: free a slot; the home of a cached tile drops this cacher, and the lead learns that a home copy is gone (log entry
117). -/
def Dev.evict (d : Dev) (x : Slot) : Dev :=
  let d := d.dropSlot x.index
  if x.role = 2 then d.send (.cacherDrop (d.home x.coord) x.coord)
  else if x.role = 1 && !d.isLead then d.send (.cacherDrop d.leadPos x.coord)
  else d

/-- R142: open a slot in Fetching, evicting where it must; without a slot the slice-full bit is set. -/
def Dev.openSlot (d : Dev) (c role : Nat) : Dev :=
  let full := role = 1 && d.nat 0x220008 ≤ (d.tiles.slots.filter fun x => x.role = 1).length
  let d := match d.freeSlot, d.victim with
    | none, some x => if full then d else d.evict x
    | _, _ => d
  match d.freeSlot with
  | some k =>
    if full then d.store fun s => { s with sliceFull := true }
    else d.store fun s => { s with slots := s.slots ++ [{
      index := k, coord := c, state := 1, role := role, session := d.session, cellSize := d.nat 0x220001,
      neededAt := d.time.now : Slot }] }
  | none => d.store fun s => { s with sliceFull := true }

/-! ### The lead's pages -/

/-- R138, R145: the lead takes a tile into the window, or keeps it there. -/
def Dev.touchWindow (d : Dev) (c : Nat) : Dev :=
  d.store fun s =>
    if s.window.any (fun w => w.coord = c) then
      { s with window := s.window.map fun w => if w.coord = c then { w with touchedAt := d.time.now, home := d.home c } else w }
    else { s with
      window := s.window ++ [⟨c, d.home c, d.time.now, none, s.left.any (· = c)⟩], left := s.left.filter (· ≠ c) }

/-- Update the window entry of a tile. -/
def Dev.windowTile (d : Dev) (c : Nat) (f : WindowTile → WindowTile) : Dev :=
  d.store fun s => { s with window := s.window.map fun w => if w.coord = c then f w else w }

/-- R149: a home copy keeps its dose bits and takes class and prescription from the host's copy. -/
def mergeHost (own host : TileRecord) : TileRecord :=
  let mix := fun (a b : Nat) => a / 16 * 16 + b / 4 % 4 * 4 + a % 4
  let fill := BitVec.ofNat 8 (mix own.fill.toNat host.fill.toNat)
  let keys := own.cells.map (fun e => e.1) ++ host.cells.map (fun e => e.1)
  { fill := fill, rxFill := host.rxFill, rx := host.rx,
    cells := keys.foldl (fun l k => sparseSet fill l k (BitVec.ofNat 8 (mix (cellOf own k) (cellOf host k)))) [] }

/-- R141, R143: send a home copy to its cachers. -/
def Dev.sendCopies (d : Dev) (x : Slot) : Dev :=
  x.cachers.foldl (fun d p => d.send (.tileTransfer p { d.transferOf x with cachers := [] })) d

/-- R140: the marks of a transfer: those of another epoch read as none. -/
def Dev.marksOf (d : Dev) (t : TileTransfer) : Vector Nat 32 :=
  if t.epoch = d.nat 0x22010E then t.marks else Vector.replicate 32 0xFFFFFFFF

/-- R143: a valid transfer fills a Fetching slot: its marks count only in the present epoch, and the buffered deltas
beyond them are applied. -/
def Dev.fillSlot (d : Dev) (x : Slot) (t : TileTransfer) : Dev :=
  let y : Slot := { x with
    record := canonicalRecord t.record
    marks := d.marksOf t
    epoch := d.nat 0x22010E, sequence := t.seq, paintGap := t.paintGap, blank := t.blank
    state := if x.role = 1 then 2 else 5, attempts := 0, ready := false
    deltas := if x.rebuilding then x.deltas else []
    cachers := x.cachers ++ t.cachers.filter fun p => !x.cachers.any (· = p) }
  let z := if x.rebuilding then y else takeDeltas y x.deltas
  let d := d.setSlot x.coord fun _ => z
  let d := if x.role = 1 && !t.blank then d.bump 0x220106 else d
  if x.role = 1 then d.sendCopies z else d

/-- R143: ask again for a tile: a cached one of its home, a home copy of the lead. -/
def Dev.askAgain (d : Dev) (x : Slot) : Dev :=
  if x.role = 2 then d.send (.tileRequest (d.home x.coord) x.coord)
  else if d.isLead then d
  else d.send (.tileRequest d.leadPos x.coord)

/-- R143: a bad transfer: asked for again, and given up at the third attempt. -/
def Dev.badTransfer (d : Dev) (x : Slot) : Dev :=
  if x.attempts + 1 ≥ 3 then (d.dropSlot x.index).raise 0x0401 0 0xFFFF [(9, x.coord)]
  else (d.setSlot x.coord fun y => { y with attempts := y.attempts + 1 }).askAgain x

/-- R148: the lead queues a write-back for the host. -/
def Dev.queueWriteBack (d : Dev) (t : TileTransfer) : Dev :=
  { d with que := { d.que with
    writeBacks := (d.que.writeBacks.filter fun w => w.item.coord ≠ t.coord) ++ [⟨t, false, d.time.now⟩] } }

/-- R146: how far a copy reaches: the sum of (mark + 1) mod 2^32. -/
def markSum (m : Vector Nat 32) : Nat := m.toList.foldl (fun n k => n + u32 (k + 1)) 0

/-- R146: the cell-wise larger dose level of two copies, with the marks of what has been painted. -/
def largerDose (a b : TileRecord) : TileRecord :=
  let level := fun (v : Nat) => if v / 16 = 15 then 0 else v / 16
  let mix := fun (v w : Nat) => (if level v < level w then 16 * level w + v % 16 else v) ||| w % 4
  let fill := BitVec.ofNat 8 (mix a.fill.toNat b.fill.toNat)
  let keys := a.cells.map (fun e => e.1) ++ b.cells.map (fun e => e.1)
  { a with fill := fill
           cells := keys.foldl (fun l k => sparseSet fill l k (BitVec.ofNat 8 (mix (cellOf a k) (cellOf b k)))) [] }

/-- R146: whether the device's own resend buffer holds every batch after a mark. -/
def Dev.resendHolds (d : Dev) (mark : Nat) : Bool :=
  mark = 0xFFFFFFFF || (u32 (d.seq.number + 2 ^ 32 - mark % 2 ^ 32) ≤ 8192 &&
    d.tiles.resendHole.all fun b => !ahead b mark)

/-- R146: a position is present, and its resend buffer holds every batch after a mark; another device's holds its last 8,192
batches (log entry 119). -/
def Dev.resends (d : Dev) (p : Fin 32) (mark : Nat) : Bool :=
  d.seq.map.testBit p.val && (if p.val = d.position then d.resendHolds mark
    else mark = 0xFFFFFFFF || u32 (d.seq.number + 2 ^ 32 - mark % 2 ^ 32) ≤ 8192)

/-- R146: the positions whose deltas after the mark in `base` cannot all be had, and whose mark in `m` lies ahead of it. -/
def Dev.goneAhead (d : Dev) (base m : Vector Nat 32) : List (Fin 32) :=
  (List.finRange 32).filter fun p => !d.resends p base[p] && m[p] ≠ 0xFFFFFFFF && markTakes base[p] m[p]

/-- R146, R149: another copy reaches a home that rebuilds: the copy that reaches furthest is the base, and what only the other
holds of positions whose deltas cannot be had is taken from it, which is a paint gap. A device that answers becomes a cacher; the
host's copy, which names none, gives class and prescription. -/
def Dev.mergeCopy (d : Dev) (x : Slot) (t : TileTransfer) : Dev :=
  let marks := d.marksOf t
  let rec_ := canonicalRecord t.record
  let further := markSum x.marks < markSum marks
  let base := if further then (rec_, marks) else (x.record, x.marks)
  let other := if further then (x.record, x.marks) else (rec_, marks)
  let gone := d.goneAhead base.2 other.2
  let merged := if gone = [] then base.1 else largerDose base.1 other.1
  d.setSlot x.coord fun y => { y with
    record := if t.cachers = [] then mergeHost merged rec_ else merged
    marks := gone.foldl (fun m (p : Fin 32) => m.set p other.2[p]) base.2
    sequence := if ahead t.seq y.sequence then t.seq else y.sequence
    paintGap := y.paintGap || t.paintGap || gone ≠ []
    cachers := y.cachers ++ t.cachers.filter fun p => p ≠ d.position && !y.cachers.any (· = p) }

/-- R148: what reaches the lead of a tile homed elsewhere is a write-back, and no copy for a cache: its sequence lies ahead of the
last one that the lead has seen of the tile, or it is one sent again that still waits for the host (log entry 117). -/
def Dev.isWriteBack (d : Dev) (t : TileTransfer) : Bool :=
  d.isLead && d.home t.coord ≠ d.position &&
    (match d.tiles.backSeqs.find? fun x => x.1 = t.coord with
      | some x => ahead t.seq x.2
      | none => (d.slotOf t.coord).all fun x => x.state ≠ 1 && ahead t.seq x.sequence)
    || d.que.writeBacks.any fun w => w.item.coord = t.coord && w.item.seq = t.seq && w.item.marks = t.marks

/-- R148: the write-back sequence of a tile that the lead has seen last. -/
def Dev.noteSequence (d : Dev) (c seq : Nat) : Dev :=
  d.store fun s => { s with backSeqs := (s.backSeqs.filter fun x => x.1 ≠ c) ++ [(c, seq)] }

/-- R137, R139, R143, R149: a tile transfer for a copy of the device. A transfer for a tile homed here and not held is the lead's
naming of its home, and is asked for again where it is bad (log entry 117). -/
def Dev.takeCopy (d : Dev) (t : TileTransfer) : Dev :=
  let mine := d.home t.coord = d.position
  let d := if mine && (d.slotOf t.coord).isNone then d.openSlot t.coord 1 else d
  match d.slotOf t.coord with
  | none => d
  | some x =>
    if x.state = 1 then
      if d.fits t then d.fillSlot (if mine then { x with role := 1 } else x) t else d.badTransfer x
    else if !d.fits t then d
    else if x.role = 1 && x.rebuilding then d.mergeCopy x t
    else if x.role = 1 then
      let y := { x with record := mergeHost x.record (canonicalRecord t.record), outside := false }
      (d.setSlot t.coord fun _ => y).sendCopies y
    else if mine then
      d.setSlot t.coord fun _ => { x with
        role := 1, state := 3, record := canonicalRecord t.record, marks := d.marksOf t, sequence := t.seq
        cachers := t.cachers.filter fun p => p ≠ d.position, rebuilding := false }
    else
      d.setSlot t.coord fun y => { y with record := canonicalRecord t.record, marks := d.marksOf t, sequence := t.seq }

/-- R137, R143, R148, R149: a tile transfer reaches the device: at the lead a write-back for the host, else a copy. -/
def Dev.takeTile (d : Dev) (t : TileTransfer) : Dev :=
  if d.isWriteBack t then (if d.fits t then (d.noteSequence t.coord t.seq).queueWriteBack t else d) else d.takeCopy t

/-- R147: the lead gives a tile to its home. -/
def Dev.giveTile (d : Dev) (t : TileTransfer) : Dev :=
  let d := (d.windowTile t.coord fun w => { w with held := true, queued := none }).noteSequence t.coord t.seq
  let h := d.home t.coord
  if h = d.position then d.takeCopy t else d.send (.tileTransfer h t)

/-- R143, R150: the blank tile of a coordinate, of the class of 0x2200:06. -/
def Dev.blankTile (d : Dev) (c : Nat) : TileTransfer :=
  { session := d.session, coord := c, epoch := d.nat 0x22010E, cellSize := d.nat 0x220001, blank := true, paintGap := false,
    seq := 0, marks := Vector.replicate 32 0xFFFFFFFF, record := blankRecord (d.nat 0x220006), crcOk := true }

/-- R143, R147, R150: the lead pages a tile in from the host, or builds it blank; where it is the home itself, its slot is
Fetching meanwhile. -/
def Dev.pageIn (d : Dev) (c : Nat) : Dev :=
  let d := if d.home c = d.position && (d.slotOf c).isNone then d.openSlot c 1 else d
  if d.nat 0x22000A = 1 then d.giveTile (d.blankTile c)
  else if d.que.pages.any (· = c) then d
  else
    { d with que := { d.que with pages := d.que.pages ++ [c] } }.windowTile c fun w => { w with queued := some d.time.now }

/-- R145: a home asks the lead for a tile. -/
def Dev.askLead (d : Dev) (c : Nat) : Dev :=
  if d.isLead then (d.touchWindow c).pageIn c else d.send (.tileRequest d.leadPos c)

/-! ### Requests, deltas, drops -/

/-- R146: a home that rebuilds is sent the deltas of the resend buffer, oldest first. -/
def Dev.sendResend (d : Dev) (pos : Fin 32) (c : Nat) : Dev :=
  if d.home c = pos.val then
    ((d.tiles.resend.filter fun e => e.coord = c).reverse).foldl (fun (d : Dev) e => d.send (.paintDelta pos e)) d
  else d

/-- R141, R145, R146: a tile request: the lead pages the tile in for its home; a home adds the cacher and sends its copy;
any other device is asked by a home that rebuilds, and sends its copy and its deltas. -/
def tileRequestEff (d : Dev) (pos : Fin 32) (c : Nat) : Dev :=
  if d.home c ≠ d.position then
    let d := if d.isLead && d.home c = pos.val then (d.touchWindow c).pageIn c else d
    match d.slotOf c with
    | some x =>
      let d := if validState x.state then d.send (.tileTransfer pos { d.transferOf x with cachers := [d.position] }) else d
      d.sendResend pos c
    | none => d.sendResend pos c
  else
    let d := if (d.slotOf c).isSome then d else (d.openSlot c 1).askLead c
    let d := d.setSlot c fun x => { x with cachers := if x.cachers.any (· = pos.val) then x.cachers else x.cachers ++ [pos.val] }
    match d.slotOf c with
    | some x => if validState x.state then d.send (.tileTransfer pos { d.transferOf x with cachers := [] }) else d
    | none => d

/-- R145: a paint delta at a copy: buffered while the copy is fetched, applied or dropped by its mark, and forwarded by
the home. -/
def paintDeltaEff (d : Dev) (e : PaintDelta) : Dev :=
  let buffer := fun (d : Dev) => d.setSlot e.coord fun x => { x with
    deltas := (x.deltas ++ [e]).filter fun y => !ahead e.batch (u32 (y.batch + 8192)) }
  match d.slotOf e.coord with
  | none => if d.home e.coord = d.position then (buffer (d.openSlot e.coord 1)).askLead e.coord else d
  | some x =>
    if x.state = 1 || x.rebuilding then buffer d
    else if markTakes x.marks[e.position] e.batch then
      let d := d.setSlot e.coord fun x => applyDelta x e
      if x.role = 1 then x.cachers.foldl (fun d p => d.send (.paintDelta p e)) d else d
    else d

/-- R143, R147: the home drops a cacher; the lead takes note that a home copy is gone (log entry 117). -/
def cacherDropEff (d : Dev) (pos : Fin 32) (c : Nat) : Dev :=
  if d.isLead && d.home c = pos.val && pos.val ≠ d.position then
    (d.windowTile c fun w => { w with held := false }).store fun s => { s with left := s.left.filter (· ≠ c) }
  else d.setSlot c fun x => { x with cachers := x.cachers.filter fun p => p ≠ pos.val }

/-- R141, R143: a cached tile that no swept strip has touched for 2 s is released. -/
def cachedReleaseEff (d : Dev) (c : Nat) : Dev :=
  match d.slotOf c with
  | some x => if x.role = 2 && x.neededAt + 2000000000 ≤ d.time.now then d.evict x else d
  | none => d

/-! ### Write-backs -/

/-- R148: send a write-back: the next sequence, rows clean. -/
def Dev.writeBack (d : Dev) (c : Nat) : Dev :=
  match d.slotOf c with
  | none => d
  | some x =>
    let t := { d.transferOf x with seq := u32 (x.sequence + 1), cachers := [] }
    let d := d.setSlot c fun x => { x with
      state := 4, sequence := t.seq, dirtyRows := [], sentCopy := some t, sentAt := d.time.now }
    let d := d.bump 0x220107
    if d.isLead then d.queueWriteBack t else d.send (.tileTransfer d.leadPos t)

/-- R143, R150: a dirty home copy goes back to the host. -/
def Dev.writeBackDirty (d : Dev) (c : Nat) : Dev :=
  match d.slotOf c with
  | some x => if x.role = 1 && x.state = 3 && !d.pagingNone then d.writeBack c else d
  | none => d

/-- R143: the write-back period has run for a dirty home copy: the period is the lead's setting, which a wheeler takes from the
command (log entry 118). -/
def writeBackPeriodEff (d : Dev) (c : Nat) : Dev :=
  match d.slotOf c with
  | some x => if d.isLead && d.time.now < x.sentAt + 1000 * d.nat 0x220009 then d else d.writeBackDirty c
  | none => d

/-- R143: a write-back that has had no acknowledgement for 10 s is sent again. -/
def writeBackResendEff (d : Dev) (c : Nat) : Dev :=
  match d.tiles.slots.find? fun x => x.coord = c && x.state = 4 && x.sentAt + 10000000000 ≤ d.time.now with
  | none => d
  | some x => match x.sentCopy with
    | none => d
    | some t =>
      let d := d.store fun s => { s with slots := s.slots.map fun y =>
        if y.index = x.index then { y with sentAt := d.time.now } else y }
      if d.isLead then d.queueWriteBack t else d.send (.tileTransfer d.leadPos t)

/-- R143, R148: the host has acknowledged a write-back of a tile homed here. -/
def Dev.writeBackDone (d : Dev) (c seq : Nat) : Dev :=
  match d.tiles.slots.find? fun x => x.coord = c && x.state = 4 && x.sequence = seq with
  | none => d
  | some x =>
    if x.role = 3 || (x.outside && x.dirtyRows = []) then d.evict x
    else d.setSlot c fun y => { y with state := if y.dirtyRows = [] then 2 else 3, sentCopy := none }

/-- R387: a write that the lead sends for itself to one position, under the aggregator source. -/
def Dev.tell (d : Dev) (position a : Nat) (v : Val) : Dev :=
  if h : position < 32 then d.forwardTo a v false ⟨position, h⟩ else d

/-- R148: 0x2202:05: the write-back leaves the queue, and its home learns of it. -/
def writeBackAckAct (c seq : Nat) (d : Dev) : Dev :=
  let d := { d with que := { d.que with writeBacks := d.que.writeBacks.filter fun w => !(w.item.coord = c && w.item.seq = seq) } }
  let d := d.writeBackDone c seq
  let h := d.home c
  if h = d.position then d else d.tell h 0x220205 (.bytes (leBytes 4 c ++ leBytes 4 seq))

/-! ### Window, homes and caches in Phase D -/

/-- R81: the path of the implement's reference point as distance only: no acceleration, straight ahead at standstill. -/
def Dev.corridorPoint (d : Dev) (s y : Int) : Int × Int :=
  let m := motionOf d.pose.boom
  let m := if m.speed = 0 then { m with speed := 1000, yawRate := 0, accel := 0 } else { m with accel := 0 }
  let t := s * 10 ^ 9 / m.speed
  let p := m.at (0, 0) t
  let h := m.heading + m.yawRate * t / 10 ^ 9
  (p.1 - y * cos32 h / 2 ^ 30, p.2 - y * sin32 h / 2 ^ 30)

/-- The tiles touched by a grid of points `step` mm apart: distances `s0` to `s1` along, offsets `y0` to `y1` across
(mm). -/
def gridTiles (point : Int → Int → Int × Int) (tile : Int × Int → Nat) (step : Nat) (s0 s1 y0 y1 : Int) : List Nat :=
  let n := ((s1 - s0) / step).toNat + 2
  let m := ((y1 - y0) / step).toNat + 2
  (List.range n).foldl (fun l (i : Nat) => (List.range m).foldl (fun l (j : Nat) =>
    let c := tile (point (min s1 (s0 + i * step)) (min y1 (y0 + j * step) * 65536))
    if l.any (· = c) then l else l ++ [c]) l) []

/-- R138: the tiles that the corridor touches: from the rightmost to the leftmost used outlet of the chain, widened by half an edge,
and from an edge behind the rearmost to the page look-ahead. -/
def Dev.corridorTiles (d : Dev) : List Nat :=
  let e : Int := d.tileMm
  let spans := (List.finRange 32).filterMap fun p => if d.seq.map.testBit p.val then d.pose.spans[p] else none
  match spans with
  | [] => []
  | x :: r =>
    let lo := r.foldl (fun m y => min m y.right) x.right
    let hi := r.foldl (fun m y => max m y.left) x.left
    let rear := r.foldl (fun m y => min m y.rear) x.rear
    gridTiles d.corridorPoint (fun p => (d.place p).1) (d.tileMm / 16) (rear - e) (d.int 0x220005) (lo - e / 2) (hi + e / 2)

/-- R138, R147: the lead's corridor of the batch: its tiles are touched, and those that no device holds are paged in. -/
def Dev.corridorStep (d : Dev) : Dev :=
  if !d.isLead || d.session = 0 then d
  else
    let one := fun (d : Dev) (c : Nat) =>
      let d := d.touchWindow c
      if d.tiles.window.any (fun w => w.coord = c && (w.held || w.queued.isSome)) then d
      else if (d.slotOf c).any (fun x => x.role = 1) then d.windowTile c fun w => { w with held := true } else d.pageIn c
    let d := d.corridorTiles.foldl one d
    let n := (presentList d.seq.map).length
    d.store fun s => { s with
      overBudget := d.nat 0x220008 * n < s.window.length
      slots := s.slots.map fun x => if s.window.any (fun w => w.coord = x.coord) then { x with outside := false } else x }

/-- R138, R143, R150: a tile that the corridor has not touched for 2 s leaves the window; its home writes a dirty copy
back. -/
def windowExpiryEff (d : Dev) (c : Nat) : Dev :=
  let due := !d.isLead || d.tiles.window.any fun w => w.coord = c && w.touchedAt + 2000000000 ≤ d.time.now
  if !due then d
  else
    let d := d.store fun s => { s with
      window := s.window.filter fun w => w.coord ≠ c
      left := s.left ++ if s.window.any fun w => w.coord = c && w.held && w.home ≠ d.position then [c] else [] }
    let d := { d with que := { d.que with pages := d.que.pages.filter (· ≠ c) } }
    let d := d.closeEntries fun e => e.kind = 4 && e.payload = .tile c
    let d := d.setSlot c fun x => if x.role = 1 then { x with outside := true } else x
    d.writeBackDirty c

/-- R141: the tiles that the swept strip of an outlet touches, along its path of R81; beyond where that ends, straight ahead. -/
def Dev.stripTiles (d : Dev) (n : Fin 32) : List Nat :=
  let w := d.walkOf d.pose.boom n
  let half : Int := ((d.strip d.pose.boom n).1 : Int) / 2
  let reach := w.reach (d.horizonNs n)
  let far := w.dist w.limit / 65536
  let point := fun (s y : Int) =>
    if s ≤ far then w.point (w.time s) y
    else
      let t := w.time far
      let p := w.point t y
      let h := w.motion.heading + w.motion.yawRate * t / 10 ^ 9
      (p.1 - (s - far) * 65536 * sin32 h / 2 ^ 30, p.2 + (s - far) * 65536 * cos32 h / 2 ^ 30)
  gridTiles point (fun p => (d.place p).1) (d.tileMm / 16) 0 (reach + d.int 0x220007) (- half) half

/-- R141: every tile that an own swept strip touches is needed; one homed elsewhere and not held is fetched. -/
def Dev.cacheStep (d : Dev) : Dev :=
  let d := d.store fun s => { s with sliceFull := false }
  if d.session = 0 then d
  else
    let one := fun (d : Dev) (c : Nat) =>
      if (d.slotOf c).isSome then d.setSlot c fun x => { x with neededAt := d.time.now }
      else if d.home c = d.position then d
      else
        let d := d.openSlot c 2
        if (d.slotOf c).isSome then d.send (.tileRequest (d.home c) c) else d
    (d.usedOutlets.flatMap d.stripTiles).foldl one d

/-- R146: a rebuild begins: the present devices are asked for their copies and deltas, and the host for its last
write-back. -/
def Dev.askCopies (d : Dev) (c : Nat) : Dev :=
  let d := (presentList d.seq.map).foldl (fun d p => if p = d.position then d else d.send (.tileRequest p c)) d
  if d.pagingNone then d else d.askLead c

/-- R139, R143: the present-device map has changed: home copies whose home has moved go to their new homes, and cached
copies whose home was missing become home copies that rebuild. -/
def Dev.rehome (d : Dev) (before : Nat) : Dev :=
  let one := fun (d : Dev) (x : Slot) =>
    let h := d.home x.coord
    if x.role = 1 && h ≠ d.position then
      let d := if validState x.state then d.send (.tileTransfer h { d.transferOf x with cachers := x.cachers ++ [d.position] }) else d
      if validState x.state then d.setSlot x.coord fun y => { y with role := 2, state := 5, cachers := [] } else d.dropSlot x.index
    else if x.role = 2 && h = d.position && !d.seq.map.testBit (homeIn before x.coord) then
      (d.setSlot x.coord fun y => { y with role := 1, state := if y.state = 1 then 1 else 3, rebuilding := true }).askCopies x.coord
    else d
  d.tiles.slots.foldl one d

/-- R139: the present-device map that the next batch sync carries, and what it names now. -/
def Sequencer.nextMap (q : Sequencer) : Nat := q.mapNext.getD q.map

/-- R139: the boundary whose batch sync first carries a new present-device map: it is in force, and homes move. -/
def Dev.takeMap (d : Dev) : Dev :=
  match d.seq.mapNext with
  | none => d
  | some m =>
    let before := d.seq.map
    let d := { d with seq := { d.seq with map := m, mapNext := none } }
    if m = before then d else d.rehome before

/-- R146: a rebuild ends: own deltas and those that have come are applied in order; a position that is gone or whose deltas
are not all held leaves a paint gap. -/
def Dev.endRebuild (d : Dev) (x : Slot) : Dev :=
  let own := (d.tiles.resend.filter fun e => e.coord = x.coord).reverse
  let gone := (List.finRange 32).filter fun p => x.marks[p] ≠ 0xFFFFFFFF &&
    !d.resends p x.marks[p]
  let gap := x.paintGap || gone ≠ []
  let y := takeDeltas { x with role := 1, state := 3, rebuilding := false, paintGap := gap, deltas := [] } (own ++ x.deltas)
  let d := d.setSlot x.coord fun _ => y
  let d := (x.deltas.foldl (fun l e => insertDelta e l) []).foldl (fun d e =>
    y.cachers.foldl (fun d p => d.send (.paintDelta p e)) d) d
  if !gap then d
  else
    let map := gone.foldl (fun m (p : Fin 32) => m + 2 ^ p.val) 0
    let d := (d.bump 0x22010A).raise 0x0402 0 0xFFFF [(9, x.coord), (8, map)]
    d.store fun s => { s with appliedGap := true }

/-- R146: rebuild a home copy whose home is missing. The row stands for the start, and where the rebuild runs and its slot
holds a copy, for the end (log entry 69). -/
def homeRebuildEff (d : Dev) (c : Nat) : Dev :=
  if d.home c ≠ d.position then d
  else
    let d := if (d.slotOf c).isSome then d else d.openSlot c 1
    match d.slotOf c with
    | none => d
    | some x =>
      if x.rebuilding && validState x.state then d.endRebuild x
      else (d.setSlot c fun y => { y with
        role := 1, rebuilding := true, state := if y.state = 1 then 1 else 3 }).askCopies c

/-- R140: the chain epoch changes: marks of another epoch read as none. -/
def Dev.newEpoch (d : Dev) (e : Nat) : Dev :=
  if e = d.nat 0x22010E then d
  else (d.put 0x22010E e).store fun s => { s with
    resend := [], slots := s.slots.map fun x => { x with marks := Vector.replicate 32 0xFFFFFFFF, epoch := e, deltas := [] } }

/-- R151: from the next Phase B the copies that have arrived serve SWEEP. -/
def Dev.readySlots (d : Dev) : Dev :=
  d.store fun s => { s with slots := s.slots.map fun x => if validState x.state then { x with ready := true } else x }

/-- R130: at a swap that changes cell size or session every slot is discarded; one whose write-back waits for the host
is closing. -/
def Dev.newSession (d : Dev) : Dev :=
  let d := d.store fun s => { s with
    slots := (s.slots.filter fun x => x.state = 4).map fun x => { x with role := 3, cachers := [], ready := false }
    window := [], left := [], backSeqs := [], transfer := [], resend := [], paints := [] }
  let d := (List.finRange 32).foldl (fun d n => d.outlet n fun x => { x with line := [] }) d
  ({ d with que := { d.que with pages := [] } }).cancelShares

/-! ### Tile writes of the host -/

/-- Keys of values that differ from a fill value, from a position on. -/
def listSparse {α : Type} [DecidableEq α] (fill : α) : Nat → List α → List (Nat × α)
  | _, [] => []
  | k, v :: r => if v = fill then listSparse fill (k + 1) r else (k, v) :: listSparse fill (k + 1) r

/-- The U16 values of a byte string. -/
def words16 : List Byte → List Nat
  | a :: b :: r => (a.toNat + 256 * b.toNat) :: words16 r
  | _ => []

/-- The U32 values of a byte string. -/
def words32 : List Byte → List Nat
  | a :: b :: c :: e :: r => leNat [a, b, c, e] :: words32 r
  | _ => []

/-- Table 5.5: the transfer that bytes hold. -/
def tileDecode (b : List Byte) : TileTransfer :=
  let u := fun k n => leNat ((b.drop k).take n)
  let marks := words32 ((b.drop 20).take 128)
  { session := u 0 4, coord := u 4 4, epoch := u 8 4, cellSize := u 12 1, blank := (u 13 1).testBit 0,
    paintGap := (u 13 1).testBit 1, seq := u 16 4, marks := Vector.ofFn fun k => (marks[k.val]?).getD 0xFFFFFFFF,
    record := { fill := 0xF4, cells := listSparse 0xF4 0 ((b.drop 160).take 65536), rxFill := 0xFFFF,
                rx := listSparse 0xFFFF 0 (words16 ((b.drop 65696).take 8192)) }
    crcOk := b.length = 73892 && u 73888 4 = crc32 (b.take 73888) }

/-- R137, R147, R149: 0x2202:02: a tile of the host: forwarded to its home through the transfer queue; one that does not
fit, or that nobody asked for, is discarded, and its request stays. -/
def tileInAct (t : TileTransfer) (d : Dev) : Dev :=
  let known := d.que.pages.any (· = t.coord) || (d.tiles.window.any fun w => w.coord = t.coord) || d.tiles.left.any (· = t.coord)
    || (d.slotOf t.coord).isSome
  if !d.fits t || !known then d
  else
    let d := { d with que := { d.que with pages := d.que.pages.filter (· ≠ t.coord) } }
    let h := d.home t.coord
    let d := if h = d.position then d else d.store fun s => { s with transfer := s.transfer ++ [(h, t)] }
    d.giveTile t

/-- R147: the tile transfer queue has no room. -/
def Dev.transferFull (d : Dev) : Bool := 8 ≤ d.tiles.transfer.length

/-- R147: the link has acknowledged the last segment of a transfer to a home: the oldest one leaves the queue. -/
def Dev.transferDone (d : Dev) : Dev := d.store fun s => { s with transfer := s.transfer.drop 1 }

/-- R143, R147: 0x2202:03: the host has no such tile: its home builds it blank. -/
def tileAbsentAct (c : Nat) (d : Dev) : Dev :=
  ({ d with que := { d.que with pages := d.que.pages.filter (· ≠ c) } }).giveTile (d.blankTile c)

/-! ### SRAM words -/

/-- Remove the entry at an index, modulo the length. -/
def dropIndex {α : Type} (l : List α) (k : Nat) : List α := l.eraseIdx (k % max 1 l.length)

/-- Table 18.2: what an uncorrectable word takes away. -/
def Dev.loseWord (d : Dev) (region : SramRegion) (k : Nat) : Dev :=
  match region with
  | .tileSlot n =>
    match d.tiles.slots.find? fun x => x.index = n with
    | none => d
    | some x =>
      let d := d.store fun s => { s with slots := s.slots.map fun y =>
        if y.index = n then { y with state := 1, ready := false, deltas := [], dirtyRows := [], rebuilding := y.role = 1 } else y }
      if x.role = 3 then d.dropSlot n
      else if x.role = 2 then d.send (.tileRequest (d.home x.coord) x.coord)
      else homeRebuildEff d x.coord
  | .resultStore => { d with eng := { d.eng with written := dropIndex d.eng.written k } }
  | .shareStore => d.targets fun t => { t with store := (List.range t.store.length).zipWith (fun i (p : PendingShare) =>
      if i = k % max 1 t.store.length then { p with windows := [], afterReset := true } else p) t.store }
  | .resendBuffer =>
    match d.tiles.resend[k % max 1 d.tiles.resend.length]? with
    | some e => d.store fun s => { s with resend := s.resend.filter fun y => y.batch ≠ e.batch, resendHole := some e.batch }
    | none => d
  | .boomHistory => { d with pose := { d.pose with history := dropIndex d.pose.history k } }
  | .duplicated => d
  | .ulardBuffer => d
  | .other => d

/-- R426, R427: a corrected or uncorrectable word: counted; its row becomes suspect at the second correction within 24 h
or at once, and is settled in the next Phase D. -/
def sramErrorEff (d : Dev) (region : SramRegion) (m : Fin 16) (row : Nat) (uncorrectable pass : Bool) : Dev :=
  let suspect := fun (d : Dev) => { d with hlt := { d.hlt with suspects := d.hlt.suspects ++ [(region, m, row, pass)] } }
  if uncorrectable then
    let d := (d.fault 1 false row).bump 0x2E0102
    suspect (d.loseWord region (Config.sramContent m row))
  else
    let d := (d.fault 1 false row).bump 0x2E0101
    let key := (m.val, row)
    let again := d.hlt.corrected.any fun c => c.1 = key && d.time.now < c.2 + 86400000000000
    let d := { d with hlt := { d.hlt with
      corrected := (d.hlt.corrected.filter fun c => c.1 ≠ key) ++ [(key, d.time.now)] } }
    if again then suspect d else d

/-! ### Status -/

/-- Table 5.11: the tile store status. -/
def Dev.tileStatus (d : Dev) : Nat :=
  let on := fun (k : Nat) (b : Bool) => if b then 2 ^ k else 0
  let fetching := (d.tiles.slots.filter fun x => x.state = 1).length
  on 0 (d.tiles.slots.any fun x => x.role = 3) + on 1 d.tiles.sliceFull + on 2 (d.isLead && d.tiles.overBudget)
    + on 3 (d.isLead && d.tiles.window.any fun w => w.queued.any fun q => q + 2000000000 < d.time.now)
    + on 4 (d.tiles.slots.any fun x => x.rebuilding) + 256 * min 255 fetching

/-- R146: the resend depth in force. -/
def Dev.resendDepth (d : Dev) : Nat :=
  match d.tiles.resendHole with
  | some b => min 8192 (u32 (d.seq.number + 2 ^ 32 - b % 2 ^ 32))
  | none => 8192

/-- Table 5.10: the tile objects, for the status snapshot. -/
def Dev.publishTiles (d : Dev) : Dev :=
  let count := fun (p : Slot → Bool) => ((d.tiles.slots.filter p).length : Int)
  let homes := count fun x => x.role = 1
  let cached := count fun x => x.role = 2
  let d := (d.put 0x220101 homes).put 0x220102 cached
  let d := (d.put 0x220103 (max 0 (112 - d.tiles.slots.length - d.tiles.withdrawn.length : Int))).put 0x220104 d.tiles.window.length
  let d := (d.put 0x220108 (count fun x => x.state = 4)).put 0x220109 d.tileStatus
  d.put 0x22010D d.resendDepth

/-! ### Meanings -/

/-- TILE_REQUEST (R141, R145). -/
def execTileRequest (pos : Fin 32) (coord t : Nat) (s : State) : Host.Outcome State Fault Refusal :=
  s.logic t fun d => tileRequestEff d pos coord

/-- TILE_TRANSFER (R137, R143, R149). -/
def execTileTransfer (tile : TileTransfer) (t : Nat) (s : State) : Host.Outcome State Fault Refusal :=
  s.logic t fun d => d.takeTile tile

/-- PAINT_DELTA (R145). -/
def execPaintDelta (delta : PaintDelta) (t : Nat) (s : State) : Host.Outcome State Fault Refusal :=
  s.logic t fun d => paintDeltaEff d delta

/-- CACHER_DROP (R143). -/
def execCacherDrop (pos : Fin 32) (coord t : Nat) (s : State) : Host.Outcome State Fault Refusal :=
  s.logic t fun d => cacherDropEff d pos coord

/-- HOME_REBUILD (R146). -/
def execHomeRebuild (coord t : Nat) (s : State) : Host.Outcome State Fault Refusal :=
  s.logic t fun d => homeRebuildEff d coord

/-- TILE_WINDOW_EXPIRY (R138). -/
def execTileWindowExpiry (coord t : Nat) (s : State) : Host.Outcome State Fault Refusal :=
  s.logic t fun d => windowExpiryEff d coord

/-- CACHED_TILE_RELEASE (R141). -/
def execCachedTileRelease (coord t : Nat) (s : State) : Host.Outcome State Fault Refusal :=
  s.logic t fun d => cachedReleaseEff d coord

/-- WRITE_BACK_PERIOD (R143). -/
def execWriteBackPeriod (coord t : Nat) (s : State) : Host.Outcome State Fault Refusal :=
  s.logic t fun d => writeBackPeriodEff d coord

/-- WRITE_BACK_RESEND (R143). -/
def execWriteBackResend (coord t : Nat) (s : State) : Host.Outcome State Fault Refusal :=
  s.logic t fun d => writeBackResendEff d coord

/-- TILE_IN_WRITE (R147): a write to 0x2202:02; busy while the transfer queue is full. -/
def execTileInWrite (acc : Accessor) (tile : TileTransfer) (s : State) : Host.Outcome State Fault Refusal :=
  s.logicNow fun d => d.writeObject acc 0x220202 (.bytes (tileEncode tile)) d.transferFull none (tileInAct tile)

/-- TILE_ABSENT_WRITE (R147): a write to 0x2202:03. -/
def execTileAbsentWrite (acc : Accessor) (v : Int) (s : State) : Host.Outcome State Fault Refusal :=
  s.logicNow fun d => d.writeObject acc 0x220203 (.num v) false none (tileAbsentAct v.toNat)

/-- WRITE_BACK_ACKNOWLEDGE (R148): a write to 0x2202:05; a home that is not the lead takes it from the lead. -/
def execWriteBackAcknowledge (acc : Accessor) (coord seq : Nat) (s : State) : Host.Outcome State Fault Refusal :=
  s.logicNow fun d => match acc, d.isLead with
    | .mgmt _, false => d.writeBackDone coord seq
    | _, _ => d.writeObject acc 0x220205 (.bytes (leBytes 4 coord ++ leBytes 4 seq)) false none (writeBackAckAct coord seq)

/-- SRAM_ERROR (R426, R427). -/
def execSramError (region : SramRegion) (array : Fin 16) (row : Nat) (uncorrectable rowTestPass : Bool) (t : Nat)
    (s : State) : Host.Outcome State Fault Refusal :=
  s.logic t fun d => sramErrorEff d region array row uncorrectable rowTestPass

end Sys2Proof.Machine
end

