-- ==== Sys2Proof/Machine/Paint.lean ====
section
/-! DEFINITION. PAINT (R132, R133, R144, R145) and the as-applied records (R152, R412, R468). -/

namespace Sys2Proof.Machine

/-! ### What an outlet laid -/

/-- R144: a place on the ground between two boom states: the outlet's position (1/65,536 mm) and heading at fraction
`n`/`m` of the batch, interpolated linearly. -/
structure Track where
  p0 : Int × Int
  p1 : Int × Int
  h0 : Int
  h1 : Int

/-- R144: the ground track of an outlet over a batch. -/
def Dev.track (d : Dev) (j : PaintJob) (n : Fin 32) : Track :=
  ⟨(motionOf j.before).at (d.outletOffset j.before n) 0, (motionOf j.after).at (d.outletOffset j.after n) 0,
    ofAng j.before.heading, ofAng j.after.heading⟩

/-- The field position at fraction `n`/`m` of the batch of a point `y` (1/65,536 mm) to the outlet's left. -/
def Track.point (k : Track) (n m y : Int) : Int × Int :=
  let h := k.h0 + signed32 (k.h1 - k.h0) * n / m
  (k.p0.1 + (k.p1.1 - k.p0.1) * n / m - y * cos32 h / 2 ^ 30, k.p0.2 + (k.p1.2 - k.p0.2) * n / m - y * sin32 h / 2 ^ 30)

/-- R144: the parts of a batch in which an outlet's deposit reaches the ground: start and end, ns from the batch's
start. -/
def depositParts (t0 t1 : Int) (ds : List (Nat × Option Nat)) : List (Int × Int) :=
  ds.filterMap fun q =>
    let a := max t0 (q.1 : Int)
    let b := match q.2 with | some e => min t1 (e : Int) | none => t1
    if a < b then some (a - t0, b - t0) else none

/-- R144: the duties of a nozzle between two instants: from, to and the duty in force, from the changes since. -/
def dutySpans (a b : Int) (first : Nat) : List (Nat × Nat) → List (Int × Int × Nat)
  | [] => if a < b then [(a, b, first)] else []
  | (t, v) :: r =>
    if (t : Int) ≤ a then dutySpans a b v r
    else if b ≤ (t : Int) then (if a < b then [(a, b, first)] else [])
    else (a, (t : Int), first) :: dutySpans t b v r

/-- R144: what an outlet lays between two instants of the batch (ns from its start), in units of 2^-32 mL or seeds: a nozzle's
curve flow at the duty in force times the trim of its loop, a row meter's seeds that its axis ran, spread over the `total` time
of its intervals. -/
def Dev.quantity (d : Dev) (j : PaintJob) (n : Fin 32) (total : Int) (q : Int × Int) : Int :=
  match d.nat (outletAdr n 1) with
  | 1 =>
    let trim : Int := match d.loopOf n with | some k => j.trims[k] | none => 65536
    let x := d.dec.outlets[n]
    let first := match x.duties with | y :: _ => y.2 | [] => x.duty
    let spans := if d.nozzlePwm n then dutySpans (j.before.t0 + q.1) (j.before.t0 + q.2) first x.duties
      else [(q.1, q.2, 10000)]
    spans.foldl (fun acc y => acc + curveFlow (d.curve n) y.2.2 * trim * (y.2.1 - y.1) * 2 ^ 16 / (60 * 10 ^ 9)) 0
  | 3 =>
    let x := d.axes[n]
    x.lastTravel * x.set.seeds * 2 ^ 32 * (q.2 - q.1) / (1024 * x.set.cycles * max 1 x.set.gear * max 1 total)
  | _ => 0

/-- R133, R144: what makes the reference dose of a cell, in units of 2^-32 mL or seeds, by the rate in force there. -/
def Dev.referenceDose (d : Dev) (n : Fin 32) (coord cell : Nat) : Int :=
  let counts := d.paintCounts n coord cell
  let rate : Int := counts.1 * d.productScale counts.2
  let area : Int := d.cellMm * d.cellMm
  rate * area * 2 ^ 16 / (if d.nat (outletAdr n 1) = 3 then 10 ^ 10 else 10 ^ 7)

/-! ### The line buffer -/

/-- R144: add a deposit to a cell of the line buffer. -/
def lineAdd (coord cell batch add : Nat) (excess once : Bool) : List LineCell → List LineCell
  | [] => [⟨coord, cell, add, excess, batch⟩]
  | x :: r =>
    if x.coord = coord && x.cell = cell then
      { x with acc := if once then x.acc else x.acc + add, excess := x.excess || excess, batch := batch } :: r
    else x :: lineAdd coord cell batch add excess once r

/-- R144: the finished increment of a cell. -/
def finishedCell (x : LineCell) : Nat × CellInc := (x.coord, ⟨x.cell, (x.acc + 128) / 256, x.excess⟩)

/-- R144: one sample of the strip at an instant of the batch. -/
def Dev.paintSample (d : Dev) (n : Fin 32) (batch : Nat) (p : Int × Int) (amount : Int) (line : List LineCell) :
    List LineCell :=
  let (coord, cell) := d.place p
  if d.nat (outletAdr n 1) = 2 then lineAdd coord cell batch 2048 false true line
  else
    let ref := d.referenceDose n coord cell
    if ref ≤ 0 then (if 0 < amount then lineAdd coord cell batch 0 true false line else line)
    else lineAdd coord cell batch ((2048 * amount + ref / 2) / ref).toNat false false line

/-- R144: PAINT for one outlet and batch: the line buffer after the deposits, and the quantity laid (2^-32). -/
def Dev.paintOutlet (d : Dev) (j : PaintJob) (n : Fin 32) : List LineCell × Int :=
  let len : Int := max 1 (j.after.t0 - j.before.t0)
  let parts := depositParts j.before.t0 j.after.t0 d.dec.outlets[n].deposits
  let k := d.track j n
  let travel := lengthOf (k.p1.1 - k.p0.1, k.p1.2 - k.p0.2) / 65536
  let strip := if d.nat (outletAdr n 1) = 1 then d.strip j.before n else (d.nat (outletAdr n 6), List.replicate 32 1)
  let samples := stripSamples (d.cellMm / 8) strip
  let total : Int := max 1 (samples.foldl (fun a y => a + y.2) 0 : Nat)
  let time := parts.foldl (fun a q => a + (q.2 - q.1)) 0
  parts.foldl (fun (acc : List LineCell × Int) q =>
    let share := d.quantity j n time q
    let steps := travel * (q.2 - q.1).toNat / len.toNat / (d.cellMm / 2) + 1
    let line := (List.range steps).foldl (fun l (i : Nat) =>
      let at_ : Int := q.1 + (q.2 - q.1) * (2 * i + 1) / (2 * steps)
      samples.foldl (fun l y => if y.2 = 0 then l
        else d.paintSample n j.batch (k.point at_ len y.1) (share * y.2 / (total * steps)) l) l) acc.1
    (line, acc.2 + share)) (d.dec.outlets[n].line, 0)

/-- R144: the cells that finish after a batch, and those that stay: untouched for a whole batch, the interval ended, or
beyond the 1,024 entries of the line buffer. -/
def splitLine (batch : Nat) (ended : Bool) (line : List LineCell) : List LineCell × List LineCell :=
  let done := line.filter fun x => ended || x.batch ≠ batch
  let left := line.filter fun x => !(ended || x.batch ≠ batch)
  let extra := left.length - 1024
  (done ++ left.take extra, left.drop extra)

/-- R145: gather finished increments into one delta a tile. -/
def gather (position : Fin 32) (batch : Nat) (l : List (Nat × CellInc)) : List PaintDelta :=
  l.foldl (fun ds x =>
    if ds.any (fun e => e.coord = x.1) then
      ds.map fun e => if e.coord = x.1 then { e with cells := e.cells ++ [x.2] } else e
    else ds ++ [⟨position, batch, x.1, [x.2]⟩]) []

/-- R144, R152: paint one outlet, its deposits that have ended before the batch's end, and its as-applied sums. -/
def Dev.paintOne (d : Dev) (j : PaintJob) (n : Fin 32) : Dev × List (Nat × CellInc) :=
  let x := d.dec.outlets[n]
  let paints := j.before.work && d.session ≠ 0
  let r := if paints then d.paintOutlet j n else (x.line, 0)
  let isOpen := x.deposits.any fun q => (q.1 : Int) < j.after.t0 && q.2.all fun e => j.after.t0 < (e : Int)
  let laid := paints && depositParts j.before.t0 j.after.t0 x.deposits ≠ []
  let (done, left) := splitLine j.batch (!isOpen || !paints) r.1
  let incs := (done.map finishedCell).filter fun y => 0 < y.2.inc || y.2.overDose
  let cells := (incs.filter fun y => 0 < y.2.inc).length
  let d := d.outlet n fun x => { x with
    line := left
    deposits := x.deposits.filter fun q => q.2.all fun e => j.after.t0 < (e : Int)
    sumOn := if laid then x.sumOn + 1 else x.sumOn
    sumQuantity := x.sumQuantity + (r.2 * 1000 / 2 ^ 32).toNat
    sumCells := x.sumCells + cells
    sumDuty := if laid then x.sumDuty + x.duty else x.sumDuty
    sumBatches := if laid then x.sumBatches + 1 else x.sumBatches }
  (d, incs)

/-- R145: send a delta to its tile's home, and keep it for R146. -/
def Dev.sendDelta (d : Dev) (e : PaintDelta) : Dev :=
  let d := d.store fun s => { s with resend := e :: s.resend.filter fun y => !ahead e.batch (u32 (y.batch + 8192)) }
  let h := d.home e.coord
  if h = d.position then paintDeltaEff d e else d.send (.paintDelta h e)

/-- R144, R184: paint one outlet with the settings of the job's frame, which the device's own state then takes up. -/
def Dev.paintWith (d : Dev) (j : PaintJob) (n : Fin 32) : Dev × List (Nat × CellInc) :=
  let y := ({ d with obj := j.settings } : Dev).paintOne j n
  ({ y.1 with obj := d.obj }, y.2)

/-- The tasks that drays run or hold, and those in the pending table. -/
def Dev.openTasks (d : Dev) : List Task :=
  (d.eng.drays.toList.flatMap fun x => x.running.toList ++ x.queue ++ x.overflow) ++ d.eng.waiting

/-- R145: the PAINT tasks of a job that have not ended. -/
def Dev.paintOpen (d : Dev) (batch : Nat) : Bool :=
  (d.eng.parked ++ d.openTasks).any fun t => t.kernel = 5 && t.batch = u32 (batch + 1)

/-- R144, R145, R49: PAINT for a batch has finished for every used outlet. -/
def paintCompleteEff (d : Dev) (batch : Nat) : Dev :=
  match d.tiles.paints.find? fun j => j.batch = batch && !d.paintOpen batch with
  | none => d
  | some j =>
    let r := ({ d with obj := j.settings } : Dev).usedOutlets.foldl (fun (acc : Dev × List (Nat × CellInc)) n =>
      let y := acc.1.paintWith j n
      (y.1, acc.2 ++ y.2)) (d, [])
    let d := r.1.store fun s => { s with paints := s.paints.filter fun x => x ≠ j }
    let d := { d with seq := { d.seq with paintDue := d.tiles.paints ≠ [] } }
    (gather d.pos32 batch r.2).foldl Dev.sendDelta d

/-- R144: the paint of the batch before the present one is due. -/
def Dev.paintDue (d : Dev) : Dev :=
  if d.usedOutlets = [] || d.pose.before.t0 = 0 || d.pose.boom.t0 ≤ d.pose.before.t0 then d
  else
    let j : PaintJob := ⟨u32 (d.seq.number + 2 ^ 32 - 1), d.pose.before, d.pose.boom, d.obj, d.dec.loops.map fun x => x.inForceBefore⟩
    if d.tiles.paints.any (fun x => x.batch = j.batch) then d
    else { d.store fun s => { s with paints := s.paints ++ [j] } with seq := { d.seq with paintDue := true } }

/-! ### As-applied records -/

/-- Table 5.9: an outlet's entry. -/
def Dev.appliedEntry (d : Dev) (n : Fin 32) : AppliedEntry :=
  let x := d.dec.outlets[n]
  ⟨n, d.nat (outletAdr n 0x18), u16 x.sumOn, u32 (x.sumQuantity / 1000), u32 x.sumCells,
    if x.sumBatches = 0 then 0 else x.sumDuty / x.sumBatches, x.sumStatus⟩

/-- R412: the backlog limit is reached. -/
def Dev.backlog (d : Dev) : Bool := d.nat 0x32000D ≤ d.tiles.records.length

/-- R152: a closed record is accepted work: journalled. -/
def Dev.journalApplied (d : Dev) (seq : Nat) : Dev :=
  match d.tiles.records.find? fun r => r.1.seq = seq with
  | none => d
  | some r =>
    (d.store fun s => { s with records := s.records.map fun r => if r.1.seq = seq then (r.1, 1) else r }).journal
      (d.entry 10 0x15 seq 0 false (.asApplied r.1))

/-- R152, R412, R468: close the as-applied record at the end of Phase D where its period has run. -/
def Dev.closeApplied (d : Dev) : Dev :=
  if d.seq.t0 < d.tiles.appliedAt + 1000 * d.nat 0x22000B || d.backlog then d
  else
    let q := u32 (d.tiles.appliedSeq + 1)
    let signs := d.flag 0x22000C && d.nvm.signingKey
    let r : AsApplied := ⟨q, d.position, signs, d.tiles.appliedGap, d.tiles.appliedFirst, d.seq.number, d.tiles.appliedStart,
      d.session, d.nat 0x22010E, d.usedOutlets.map d.appliedEntry⟩
    let d := d.store fun s => { s with
      appliedSeq := q, appliedAt := d.seq.t0, appliedFirst := u32 (d.seq.number + 1)
      appliedStart := d.nextBoundary, appliedGap := false, records := s.records ++ [(r, 0)] }
    let d := (List.finRange 32).foldl (fun d n => d.outlet n fun x => { x with
      sumOn := 0, sumQuantity := x.sumQuantity % 1000, sumCells := 0, sumDuty := 0, sumBatches := 0, sumStatus := 0 }) d
    let d := d.put 0x22010B q
    if signs then d else d.journalApplied q

/-- R152: offer a journalled record: in the lead's queue, or on its way to the lead as a management write (log entry 116). -/
def Dev.offerRecord (d : Dev) (r : AsApplied) : Dev :=
  if d.isLead then
    { d with que := { d.que with
      applied := (d.que.applied.filter fun q => !(q.item.position = r.position && q.item.seq = r.seq))
        ++ [⟨r, false, d.time.now⟩] } }
  else d.send (.request d.leadPos ⟨0, 2, 3, 0x220206, r.seq, .bytes (appliedEncode r)⟩)

/-- R152: after the journal commit the records of the group are offered. -/
def Dev.offerApplied (d : Dev) : Dev :=
  let whole := fun (r : AsApplied × Nat) => r.2 = 1 && !d.unwritten 10 0x15 r.1.seq 0
  let new := d.tiles.records.filter whole
  let d := d.store fun s => { s with records := s.records.map fun r => if whole r then (r.1, 2) else r }
  new.foldl (fun d r => d.offerRecord r.1) d

/-- R152: offer every unacknowledged record again; one in the lead's queue that was offered at least 5 s ago. -/
def appliedReofferEff (d : Dev) : Dev :=
  d.tiles.records.foldl (fun d r =>
    let recent := d.que.applied.any fun q => q.item = r.1 && d.time.now < q.at_ + 5000000000
    if r.2 = 2 && !recent then d.offerRecord r.1 else d) d

/-- R152: a record of the device is acknowledged. -/
def Dev.appliedDone (d : Dev) (seq : Nat) : Dev :=
  let d := d.store fun s => { s with records := s.records.filter fun r => r.1.seq ≠ seq }
  (d.closeEntries fun e => e.kind = 10 && e.seq = seq).put 0x22010C seq

/-- R152: 0x2202:07: the record leaves the queue, and its device learns of it. -/
def appliedAckAct (pos seq : Nat) (d : Dev) : Dev :=
  let d := { d with que := { d.que with applied := d.que.applied.filter fun q => !(q.item.position = pos && q.item.seq = seq) } }
  if pos = d.position then d.appliedDone seq
  else d.tell pos 0x220207 (.bytes (leBytes 1 pos ++ leBytes 3 0 ++ leBytes 4 seq))

/-- R468: the signature of a closed record is complete. -/
def recordSignedEff (d : Dev) (seq : Nat) : Dev :=
  if d.tiles.records.any fun r => r.1.seq = seq && r.2 = 0 && r.1.signed then (d.bump 0x310401).journalApplied seq else d

/-! ### Meanings -/

/-- PAINT_COMPLETE (R144, R145). -/
def execPaintComplete (batch t : Nat) (s : State) : Host.Outcome State Fault Refusal :=
  s.logic t fun d => paintCompleteEff d batch

/-- AS_APPLIED_ACKNOWLEDGE (R152): a write to 0x2202:07; a device that is not the lead takes it from the lead. -/
def execAsAppliedAcknowledge (acc : Accessor) (pos seq : Nat) (s : State) : Host.Outcome State Fault Refusal :=
  s.logicNow fun d => match acc, d.isLead with
    | .mgmt _, false => d.appliedDone seq
    | _, _ => d.writeObject acc 0x220207 (.bytes (leBytes 1 pos ++ leBytes 3 0 ++ leBytes 4 seq)) false none
        (appliedAckAct pos seq)

/-- AS_APPLIED_REOFFER (R152). -/
def execAsAppliedReoffer (t : Nat) (s : State) : Host.Outcome State Fault Refusal := s.logic t appliedReofferEff

/-- RECORD_SIGNED (R468). -/
def execRecordSigned (seq t : Nat) (s : State) : Host.Outcome State Fault Refusal :=
  s.logic t fun d => recordSignedEff d seq

end Sys2Proof.Machine
end

