-- ==== Sys2Proof/Machine/Engines.lean ====
section
/-! DEFINITION. The Ahnya engine array (R173 to R190): task lists, queues, stealing, results and the close, dray faults. -/

namespace Sys2Proof.Machine

/-- Update a dray. -/
def Dev.dray (d : Dev) (k : Fin 64) (f : Dray → Dray) : Dev :=
  { d with eng := { d.eng with drays := updateAt d.eng.drays k f } }

/-- Update the array. -/
def Dev.engine (d : Dev) (f : Engines → Engines) : Dev := { d with eng := f d.eng }

/-- R175: the working drays, in order of dray number. -/
def Dev.working (d : Dev) : List (Fin 64) := (List.finRange 64).filter fun k => d.eng.drays[k].state = 0

/-- Table 7.4: the victims of a dray, in order; columns and rows wrap around. -/
def victims (k : Fin 64) : List (Fin 64) :=
  let offsets : List (Int × Int) :=
    [(1, 0), (1, 1), (0, 1), (-1, 1), (-1, 0), (-1, -1), (0, -1), (1, -1),
     (2, 0), (2, 1), (2, 2), (1, 2), (0, 2), (-1, 2), (-2, 2), (-2, 1), (-2, 0), (-2, -1), (-2, -2), (-1, -2), (0, -2),
     (1, -2), (2, -2), (2, -1)]
  offsets.map fun o =>
    let c := (((k.val % 8 : Nat) : Int) + o.1) % 8
    let r := (((k.val / 8 : Nat) : Int) + o.2) % 8
    Fin.ofNat 64 (8 * r + c).toNat

/-- R173: the drays through whose routers a dray reaches the SRAM port at the west end of its row, and at the east end. -/
def portRoutes (k : Fin 64) : List (Fin 64) × List (Fin 64) :=
  let row := (List.finRange 64).filter fun x => x.val / 8 = k.val / 8
  (row.filter fun x => x ≤ k, row.filter fun x => k ≤ x)

/-- R173, Table 7.1: the tasks whose input frames a dray's local SRAM holds: the one that runs, and the one at the head of its
queue, which is fetched meanwhile. -/
def Dray.frames (x : Dray) : List Task := x.running.toList ++ x.queue.take 1

/-- R187: the first working dray of a dray's victim order. -/
def Dev.firstWorking (d : Dev) (k : Fin 64) : Option (Fin 64) := (victims k).find? fun v => d.eng.drays[v].state = 0

/-! ### Task lists -/

/-- R175: the home of an outlet task. -/
def outletHome (ws : List (Fin 64)) (n : Fin 32) : Fin 64 := (ws[n.val * ws.length / 32]?).getD 0

/-- R175: the home of the k-th device-level task. -/
def deviceHome (ws : List (Fin 64)) (k : Nat) : Fin 64 :=
  let w := max 1 ws.length
  (ws[w - 1 - k % w]?).getD 0

/-- Split a list into groups. -/
def groups {α : Type} (size : Nat) : Nat → List α → List (List α)
  | 0, _ => []
  | _ + 1, [] => []
  | k + 1, l => l.take size :: groups size k (l.drop size)

/-- R175: the lowest assigned local outlet of a share; 0 before it has any. -/
def lowestOutlet (p : PendingShare) : Nat :=
  match p.windows with
  | [] => 0
  | x :: r => r.foldl (fun m y => min m y.outlet.val) x.outlet.val

/-- R175, Table 7.2: a task list while it is built: the number of the next task and the tasks so far. -/
structure Building where
  next : Nat
  tasks : List Task := []

/-- Add a task; answers its number with the list. -/
def Building.add (b : Building) (t : Task) : Building := { next := b.next + 1, tasks := b.tasks ++ [{ t with number := b.next }] }

/-- Numbers of the tasks built so far that satisfy a test. -/
def Building.numbers (b : Building) (p : Task → Bool) : List Nat := (b.tasks.filter p).map fun t => t.number

/-- Table 7.2: the cost of a share in a MATCH group, in units of 10 operations. -/
def shareCost (p : PendingShare) : Nat := 15 + 5 * (p.windows.length - 1)

/-- R174, R175: groups of at most 16 shares and 4 kop, in the order of the store. -/
def matchGroups : List PendingShare → List PendingShare → List (List PendingShare)
  | [], cur => if cur = [] then [] else [cur]
  | p :: r, cur =>
    let cost := (cur.map shareCost).sum + shareCost p
    if cur ≠ [] && (cur.length = 16 || 400 < cost) then cur :: matchGroups r [p] else matchGroups r (cur ++ [p])

/-- R174 to R176, Table 7.2: the tasks of Phase B. -/
def Dev.phaseBTasks (d : Dev) : Building :=
  let ws := d.working
  let batch := d.seq.number
  let mk := fun (kernel variant : Nat) (n : Option (Fin 32)) (index cost : Nat) (home : Fin 64) (after : List Nat)
      (covers : List (Nat × Nat)) =>
    ({ number := 0, kernel := kernel, variant := variant, outlet := n, index := index, batch := batch, cost := cost,
       home := home, after := after, covers := covers } : Task)
  let b : Building := { next := d.eng.nextTask }
  let b := d.usedOutlets.foldl (fun (b : Building) n => b.add (mk 1 0 (some n) 0 120 (outletHome ws n) [] [])) b
  let b := d.usedOutlets.foldl (fun (b : Building) n =>
    let p := b.numbers fun t => t.kernel = 1 && t.outlet = some n
    (List.range 3).foldl (fun b i => b.add (mk 2 0 (some n) i 300 (outletHome ws n) p [])) b) b
  let b := d.usedOutlets.foldl (fun (b : Building) n =>
    let p := b.numbers fun t => t.kernel = 2 && t.outlet = some n
    b.add (mk 3 0 (some n) 0 60 (outletHome ws n) p [])) b
  let predicts := b.numbers fun t => t.kernel = 1
  let b := (List.range 32).foldl (fun (b : Building) o =>
    let shares := d.tgt.store.filter fun p => lowestOutlet p = o
    ((matchGroups shares []).zipIdx).foldl (fun b g =>
      let cost := (g.1.map shareCost).sum
      b.add (mk 4 0 (some (Fin.ofNat 32 o)) g.2 cost (outletHome ws (Fin.ofNat 32 o)) predicts
        (g.1.map fun p => (shareKey p.share, p.share.record.seq)))) b) b
  let taken := d.tgt.intake.filter fun x => x.stage = 1
  let b := ((groups 8 64 taken).zipIdx).foldl (fun (b : Building) g =>
    b.add (mk 4 1 none g.2 (30 * g.1.length) (deviceHome ws g.2) [] (g.1.map fun x => (x.source, x.record.seq)))) b
  let intakes := (groups 8 64 taken).length
  let loops := (List.range 4).filter fun k => d.nat (adr (0x2130 + k) 1) ≠ 0
  (loops.zipIdx).foldl (fun (b : Building) k =>
    let mask := d.nat (adr (0x2130 + k.1) 3)
    let p := b.numbers fun t => t.kernel = 3 && t.variant = 0 && t.outlet.any fun n => mask.testBit n.val
    b.add (mk 3 1 none k.1 200 (deviceHome ws (intakes + k.2)) p [])) b

/-- R174, R175: the device runs SHAPE: the lead, and as a shadow the standby lead. -/
def Dev.runsShape (d : Dev) : Bool := d.isLead || d.nat 0x2A0001 = 2

/-- R175: a SHAPE task, pinned to the lowest working dray. -/
def Dev.shapeTask (d : Dev) (variant cost : Nat) : Task :=
  { number := 0, kernel := 0, variant := variant, outlet := none, index := 0, batch := d.seq.number, cost := cost
    home := (d.working.head?).getD 0, after := [], pinned := true }

/-- R174, R183: the task of Phase A: SHAPE variant 1. -/
def Dev.phaseATasks (d : Dev) : Building :=
  let b : Building := { next := d.eng.nextTask }
  if d.runsShape then b.add (d.shapeTask 1 20) else b

/-- Table 7.7, 0x2401:02 and 03: results of the batch are computed again on other drays from their saved frames. -/
def Dev.auditTasks (d : Dev) : List Task :=
  let ts := d.eng.written
  if ts = [] || !d.flag 0x240102 then []
  else
    let picks := (List.range (d.nat 0x240103)).filterMap fun i => ts[Config.auditPick d.seq.number i % ts.length]?
    picks.eraseDups.map fun t =>
      { t with home := ((t.ran.bind d.firstWorking).getD 0), after := [], audit := true, pinned := true, stolen := false, ran := none }

/-- R174, R184: a LEARN task: its frame holds the measurements of the batch that no LEARN before it has taken, and the gain. -/
def Dev.learnTask (d : Dev) (n : Fin 32) (home : Fin 64) : Task :=
  let taken := ((d.eng.parked.filter fun t => t.kernel = 6 && t.outlet = some n).flatMap fun t => t.covers.map fun c => c.1).sum
  { number := 0, kernel := 6, variant := 0, outlet := some n, index := 0, batch := d.seq.number, cost := 20, home := home
    after := [], covers := [(d.dec.outlets[n].measures.length - taken, d.nat 0x210010)] }

/-- R174, R184, Table 7.2: the tasks of Phase D: the carried ones first. -/
def Dev.phaseDTasks (d : Dev) : Building :=
  let ws := d.working
  let batch := d.seq.number
  let b : Building := { next := d.eng.nextTask, tasks := [] }
  let b := if d.runsShape then b.add (d.shapeTask 0 300) else b
  let b := if d.tiles.paints = [] then b
    else d.usedOutlets.foldl (fun (b : Building) n => (List.range 2).foldl (fun b i =>
      b.add { number := 0, kernel := 5, variant := 0, outlet := some n, index := i, batch := batch, cost := 150
              home := outletHome ws n, after := [] }) b) b
  let b := d.usedOutlets.foldl (fun (b : Building) n => b.add (d.learnTask n (outletHome ws n))) b
  let b := d.auditTasks.foldl Building.add b
  { b with tasks := d.eng.parked ++ b.tasks }

/-- A task of Phase B. -/
def phaseB (t : Task) : Bool := 1 ≤ t.kernel && t.kernel ≤ 4 && !t.audit

/-- A task of Phase D, which a boundary parks (R184). -/
def phaseD (t : Task) : Bool := !phaseB t && (t.kernel ≠ 0 || t.variant = 0)

/-- R176: entries of an overflow list enter the queue as it has room. -/
def refill (x : Dray) : Dray :=
  let n := 16 - x.queue.length
  { x with queue := x.queue ++ x.overflow.take n, overflow := x.overflow.drop n }

/-- R175: Phase A (0), B (1) or D (3) starts: every queue empty, the task list in the pending table. -/
def Dev.startPhase (d : Dev) (b : Building) (phase : Nat) : Dev :=
  let e := d.eng
  let isB := decide (phase = 1)
  let isA := decide (phase = 0)
  let drays := e.drays.map fun x => { x with queue := [], overflow := [], running := none, asked := 0, askedAt := none }
  let aborted := (e.drays.toList.filter fun x => x.running.any phaseB).length
  let d := (d.engine fun e => { e with
    drays := drays, waiting := b.tasks, ended := [], nextTask := b.next
    parked := if phase = 3 then [] else e.parked
    tasks := if isB then b.tasks else e.tasks
    written := if isB then [] else e.written
    open_ := isB
    steals := if isA then 0 else e.steals, lateResults := if isB then 0 else e.lateResults
    dispatched := if isA then b.tasks.length else e.dispatched + b.tasks.length
    work := if isB then b.tasks.foldl (fun w t => w + t.cost) 0 else e.work
    finish := if isB then 0 else e.finish })
  d.add 0x240302 aborted

/-! ### Queue operations -/

/-- R176, R184: a task whose predecessors have all ended goes to the tail of its home's queue or overflow list; carried tasks go
first. -/
def taskReleaseEff (d : Dev) (number : Nat) : Dev :=
  match d.eng.waiting.find? fun t => t.number = number with
  | none => d
  | some t =>
    if !(t.after.all fun p => d.eng.ended.any (· = p)) || (!t.carried && d.eng.waiting.any fun x => x.carried) then d
    else
      let home := if d.eng.drays[t.home].state = 0 then some t.home else d.firstWorking t.home
      match home with
      | none => d
      | some h =>
        (d.engine fun e => { e with waiting := e.waiting.filter fun x => x.number ≠ number }).dray h fun x =>
          refill { x with overflow := x.overflow ++ [t] }

/-- R177: a dray takes the task at the head of its own queue. -/
def taskTakeEff (d : Dev) (k : Fin 64) : Dev :=
  let x := d.eng.drays[k]
  match x.queue with
  | [] => d
  | t :: r =>
    if x.state ≠ 0 || x.running.isSome then d
    else d.dray k fun x => refill { x with queue := r, running := some t, run := u32 (x.run + 1), asked := 0 }

/-- R93: LEARN for the measurements of an outlet that a task's frame holds. -/
def Dev.learnFrame (d : Dev) (t : Task) : Dev :=
  match t.outlet, t.covers with
  | some n, [(k, gain)] => d.learnOutlet n k gain
  | _, _ => d

/-- R180: the running task of a dray writes its result: a Phase B result on time while the slots are open, rejected after the
close; SHAPE's final result within Phase A gives the boom state of the batch (R46); LEARN stores its parts (R184). -/
def taskResultEff (d : Dev) (k : Fin 64) : Dev :=
  match d.eng.drays[k].running with
  | none => d
  | some t =>
    let d := (d.dray k fun x => { x with running := none }).engine fun e => { e with ended := e.ended ++ [t.number] }
    if !phaseB t then
      if t.kernel = 6 && !t.audit then d.learnFrame t
      else if t.kernel = 0 && t.variant = 1 && d.isLead && d.seq.phase = 0 && t.batch = d.seq.number then d.publishBoom
      else d
    else if d.eng.open_ && t.batch = d.seq.number then
      let d := d.engine fun e => { e with written := e.written ++ [{ t with ran := some k }], finish := (d.chain - d.seq.t0) / 1000 }
      if t.retry then d.bump 0x240303 else d
    else d.engine fun e => { e with lateResults := e.lateResults + 1 }

/-- R178: the drays that a thief asks, in the order of Table 7.4; retired and quarantined ones are skipped. -/
def Dev.toAsk (d : Dev) (k : Fin 64) : List (Fin 64) := (victims k).filter fun v => d.eng.drays[v].state = 0

/-- R179: the phases in which tasks are stolen. -/
def Dev.stealPhase (d : Dev) : Bool := d.seq.phase = 1 || d.seq.phase = 3

/-- R178: an idle dray asks the next victim of its order, which grants the oldest half of its waiting entries, or refuses. -/
def stealRequestEff (d : Dev) (thief victim : Fin 64) : Dev :=
  let a := d.eng.drays[thief]
  let b := d.eng.drays[victim]
  if d.nat 0x240104 = 0 || a.state ≠ 0 || b.state ≠ 0 || a.queue ≠ [] || a.running.isSome || !d.stealPhase
      || (d.toAsk thief)[a.asked]? ≠ some victim then d
  else
    let d := d.dray thief fun x => { x with asked := x.asked + 1, askedAt := some d.chain }
    let free := (b.queue.drop 1).filter fun t => !t.pinned
    let grant := free.take (free.length / 2)
    if grant = [] then d
    else
      let d := d.dray victim fun x => refill { x with queue := x.queue.filter fun t => !grant.any fun g => g.number = t.number }
      let d := d.dray thief fun x => { x with queue := x.queue ++ grant.map fun t => { t with stolen := true }, asked := 0 }
      (d.engine fun e => { e with steals := e.steals + 1 }).bump 0x24000B

/-- R179: 2 µs after it has asked all its victims in vain a thief starts again at ring 1, in the same phase. -/
def stealRetryEff (d : Dev) (thief : Fin 64) : Dev :=
  let x := d.eng.drays[thief]
  if d.stealPhase && (d.toAsk thief).length ≤ x.asked && x.askedAt.any (fun t => t + 2000 ≤ d.chain) then
    d.dray thief fun x => { x with asked := 0, askedAt := none }
  else d

/-! ### The close -/

/-- R180: the close: tasks still queued are dropped, and the slots take no more results. -/
def Dev.closeSlots (d : Dev) : Dev :=
  d.engine fun e => { e with
    open_ := false, waiting := []
    drays := e.drays.map fun x => { x with queue := [], overflow := [] } }

/-- A result of the batch has been written on time. -/
def Dev.onTimeResult (d : Dev) (p : Task → Bool) : Bool := d.eng.written.any fun t => t.batch = d.seq.number && p t

/-- R181: a MATCH group that holds this share is missing. -/
def Dev.matchMissing (d : Dev) (p : PendingShare) : Bool :=
  let key := (shareKey p.share, p.share.record.seq)
  !d.onTimeResult fun t => t.kernel = 4 && t.variant = 0 && t.covers.any (· = key)

/-- R181: the result of a loop RATE task is missing. -/
def Dev.loopMissing (d : Dev) (k : Fin 4) : Bool :=
  d.nat (adr (0x2130 + k) 1) ≠ 0 && !d.onTimeResult fun t => t.kernel = 3 && t.variant = 1 && t.index = k.val

/-- R181: an outlet is late. -/
def Dev.outletLate (d : Dev) (n : Fin 32) : Bool :=
  !(d.onTimeResult fun t => t.kernel = 1 && t.outlet = some n)
    || (List.range 3).any (fun i => !d.onTimeResult fun t => t.kernel = 2 && t.outlet = some n && t.index = i)
    || !(d.onTimeResult fun t => t.kernel = 3 && t.variant = 0 && t.outlet = some n)
    || (d.loopOf n).any d.loopMissing
    || d.tgt.store.any fun p => (p.windows.any fun x => x.outlet = n && x.stage < 2) && d.matchMissing p

/-- R181: the records of an intake group that is missing. -/
def Dev.intakeMissing (d : Dev) (x : Intake) : Bool :=
  !d.onTimeResult fun t => t.kernel = 4 && t.variant = 1 && t.covers.any (· = (x.source, x.record.seq))

/-- R184: at a boundary Phase D tasks that have not ended are parked, with their carried flag. -/
def Dev.parkTasks (d : Dev) : Dev :=
  let all := d.eng.parked ++ ((d.openTasks.filter phaseD).map fun t => { t with carried := true })
  d.engine fun e => { e with
    parked := all, carriedIn := decide (all ≠ []), waiting := []
    drays := e.drays.map fun x => { x with queue := [], overflow := [], running := none } }

/-! ### Faults of drays -/

/-- R189: what follows from the number of working drays: below 16 the device is out of service, and a lead gives up its
role to its standby. -/
def Dev.engineLevel (d : Dev) : Dev :=
  let w := d.working.length
  if w < 16 && !d.eng.below then
    let d := (d.engine fun e => { e with below := true }).raise 0x0604 1 0xFFFF [(3, w)]
    let d := ({ d with hlt := { d.hlt with outOfService := true, deviceFault := true } } : Dev).withdrawReady
    if d.isLead && d.nat 0x2A0008 < 32 then
      { d with seq := { d.seq with giveUp := some (u32 (d.seq.number + 2)) } }.send
        (.enumeration none (enumerationBody 4 0 (d.nat 0x22010E)
          (takeoverFields (d.nat 0x2A0008) (u32 (d.seq.number + 2)) (d.seq.t0 + 2 * d.periodNs))))
    else d
  else if 16 ≤ w && d.eng.below then
    let d := (d.engine fun e => { e with below := false }).raise 0x0604 2 0xFFFF [(3, w)]
    { d with hlt := { d.hlt with outOfService := d.hlt.rowLost, deviceFault := d.hlt.rowLost } }
  else d

/-- R187: a dray takes no task from now on: what it holds moves to the first working dray of its victim order, the task that it
ran at the head, as a pinned retry, unless it was one already. -/
def Dev.evacuate (d : Dev) (k : Fin 64) (state : Nat) : Dev :=
  let x := d.eng.drays[k]
  let d := d.dray k fun x => { x with state := state, queue := [], overflow := [], running := none, due := 0 }
  let d := match d.firstWorking k with
    | none => d
    | some v =>
      let retry : List Task := match x.running with
        | some t => if !t.retry then [{ t with retry := true, pinned := true }] else []
        | none => []
      if retry ++ x.queue ++ x.overflow = [] then d
      else d.dray v fun y => refill { y with
        queue := (retry ++ y.queue ++ x.queue).take 16
        overflow := (retry ++ y.queue ++ x.queue).drop 16 ++ y.overflow ++ x.overflow }
  if x.running.isSome then d.bump 0x240302 else d

/-- R187: quarantine a working dray. -/
def Dev.quarantine (d : Dev) (k : Fin 64) (cause : Nat) : Dev :=
  let x := d.eng.drays[k]
  if x.state ≠ 0 then d
  else
    let recent := x.recent.filter fun b => !ahead d.seq.number (u32 (b + 10000))
    let d := (d.evacuate k 1).dray k fun x => { x with
      quarantines := min 65535 (x.quarantines + 1), recent := recent ++ [d.seq.number], cause := cause
      memoryBad := x.memoryBad || cause = 1 }
    ((d.fault 0 false k).raise 0x0601 0 k [(2, cause)]).engineLevel

/-- R188: commit the retired dray map to MRAM, with the quarantine count of a dray. -/
def Dev.commitDrays (d : Dev) (k : Fin 64) : Dev :=
  { d with nvm := { d.nvm with
    kept := storePut d.nvm.kept 0x240002 (storeGet d.obj 0x240002)
    drayCounts := d.nvm.drayCounts.set k d.eng.drays[k].quarantines } }.bump 0x310004

/-- R187, R188: retire a dray; the map is committed to MRAM. -/
def Dev.retireDray (d : Dev) (k : Fin 64) (cause : Nat) : Dev :=
  let d := (((d.evacuate k 2).dray k fun x => { x with cause := cause }).putBit 0x240002 k true).commitDrays k
  ((d.fault 0 true k).raise 0x0602 0 k [(2, cause)]).engineLevel

/-- R187, Table 7.7: a dray fault. -/
def drayFaultEff (d : Dev) (k : Fin 64) (cause : Nat) : Dev :=
  if cause = 2 then (if d.eng.drays[k].state = 0 then (d.dray k fun x => { x with due := 1, cause := 2 }).add 0x240301 64 else d)
  else if cause = 5 then if !d.flag 0x240102 then d else ((d.bump 0x240304).raise 0x0603 0 k [(2, 5)]).quarantine k 5
  else if cause = 6 then d.retireDray k 6
  else if cause = 1 || cause = 3 || cause = 4 then d.quarantine k cause
  else d

/-- R187: the step overrun of a running task. -/
def stepOverrunEff (d : Dev) (k : Fin 64) : Dev := if d.eng.drays[k].running.isSome then d.quarantine k 3 else d

/-- R188: in Phase D every quarantined dray starts its self-test, its memory reloaded; one that a boundary interrupts is carried
(R184). -/
def Dev.startSelfTests (d : Dev) : Dev :=
  d.engine fun e => { e with drays := e.drays.map fun x =>
    if x.state = 1 && x.due = 0 then { x with state := 3, memoryBad := false } else x }

/-- R188: the self-test of a quarantined dray ends; one that passes is back at work from the next batch. -/
def selfTestEff (d : Dev) (k : Fin 64) (pass : Bool) : Dev :=
  let x := d.eng.drays[k]
  if x.state ≠ 3 then d
  else if !pass then d.retireDray k 6
  else if 3 ≤ x.recent.length then d.retireDray k x.cause
  else d.dray k fun x => { x with state := 1, due := 2 }

/-- R187, R188: what falls due at a boundary: quarantines of cause 2, and returns to work. -/
def Dev.dueDrays (d : Dev) : Dev :=
  (List.finRange 64).foldl (fun d k =>
    match d.eng.drays[k].due with
    | 1 => d.quarantine k 2
    | 2 => (d.dray k fun x => { x with state := 0, due := 0 }).engineLevel
    | _ => d) d

/-- R188, R189: the start-up tests: a retired dray asked for a test that passes is reinstated with its quarantine count, and one
that fails, or reaches neither SRAM port, is retired. -/
def Dev.startDrays (d : Dev) (retest fails : List (Fin 64)) : Dev :=
  let map := valInt ((storeFind d.nvm.kept 0x240002).getD (.num 0))
  let d := d.put 0x240002 map
  ((List.finRange 64).foldl (fun d k =>
    let retired := map.toNat.testBit k.val
    let fails := fails.any (· = k)
    if retired then
      if retest.any (· = k) && !fails then
        let d := d.dray k fun x => { x with quarantines := d.nvm.drayCounts[k] }
        ((d.putBit 0x240002 k false).commitDrays k).raise 0x0602 0 k [(2, 0)]
      else d.dray k fun x => { x with state := 2, quarantines := d.nvm.drayCounts[k] }
    else if fails then d.retireDray k 6 else d) d).engineLevel

/-! ### Status -/

/-- R186: the rated Phase B work, kop. -/
def Dev.ratedWork (d : Dev) : Nat := d.working.length * 42 * (d.periodNs / 1000 * 55) * 95 / (10000 * 1000)

/-- R190: the figures of a batch join those of the last 1,000. -/
def Dev.keepWork (d : Dev) : Dev :=
  d.engine fun e => { e with works := ((e.work, e.finish) :: e.works).take 1000 }

/-- Table 7.3: the bytes of a descriptor; the SRAM address of the input frame and the result slot are free
(log entry 12). -/
def taskEncode (t : Task) : List Byte :=
  let flag := fun (b : Bool) (v : Nat) => if b then v else 0
  leBytes 1 (16 * t.variant + t.kernel)
    ++ leBytes 1 (flag t.pinned 1 + flag t.stolen 2 + flag t.retry 4 + flag t.carried 8)
    ++ leBytes 2 (match t.outlet with | some n => n.val | none => 32768)
    ++ leBytes 2 (4096 * t.kernel + t.index) ++ leBytes 2 (u16 t.batch)
    ++ leBytes 4 (Config.taskFrame t.number) ++ leBytes 2 t.cost ++ leBytes 2 (Config.taskSlot t.number)

/-- Tables 7.8 and 7.9: the engine objects, for the status snapshot. -/
def Dev.publishEngines (d : Dev) : Dev :=
  let e := d.eng
  let on := fun (k : Nat) (b : Bool) => if b then 2 ^ k else 0
  let w := d.working.length
  let rated := d.ratedWork
  let work := e.work / 100
  let peak := e.works.foldl (fun m x => max m x.1) e.work / 100
  let latest := e.works.foldl (fun m x => max m x.2) e.finish
  let quarantined := (List.finRange 64).foldl (fun m k => if e.drays[k].state = 1 || e.drays[k].state = 3 then m + 2 ^ k.val else m) 0
  let d := ((d.put 0x240001 w).put 0x240003 quarantined).put 0x240004 rated
  let d := (((d.put 0x240005 work).put 0x240006 peak).put 0x240007 e.finish).put 0x240008 latest
  let d := ((d.putReading 0x240009 (Config.reading 0x240009 d.draws)).draw.put 0x24000A e.steals).put 0x24000C (min 65535 e.dispatched : Nat)
  let d := d.put 0x24000D (min 65535 e.lateResults : Nat)
  let d := d.put 0x24000E (on 0 (0 < e.lateResults) + on 1 e.carriedIn + on 2 (d.nat 0x240101 * rated < 100 * work)
    + on 3 (rated < work) + on 4 (w < 48) + on 5 (w < 16))
  if h : d.nat 0x240201 < 64 then
    let x := e.drays[d.nat 0x240201]
    let d := (((d.put 0x240202 x.state).put 0x240203 x.quarantines).put 0x240204 x.cause).put 0x240205 x.run
    d.putVal 0x240206 (.bytes (x.queue.flatMap taskEncode))
  else d

/-! ### Meanings -/

/-- TASK_RELEASE (R176). -/
def execTaskRelease (task : Nat) (s : State) : Host.Outcome State Fault Refusal := s.logicNow fun d => taskReleaseEff d task

/-- TASK_TAKE (R177). -/
def execTaskTake (dray : Fin 64) (s : State) : Host.Outcome State Fault Refusal := s.logicNow fun d => taskTakeEff d dray

/-- TASK_RESULT_WRITE (R180). -/
def execTaskResultWrite (dray : Fin 64) (t : Nat) (s : State) : Host.Outcome State Fault Refusal :=
  s.logic t fun d => taskResultEff d dray

/-- STEAL_REQUEST (R178). -/
def execStealRequest (thief victim : Fin 64) (t : Nat) (s : State) : Host.Outcome State Fault Refusal :=
  s.logic t fun d => stealRequestEff d thief victim

/-- STEAL_RETRY (R179). -/
def execStealRetry (thief : Fin 64) (t : Nat) (s : State) : Host.Outcome State Fault Refusal :=
  s.logic t fun d => stealRetryEff d thief

/-- DRAY_FAULT (R187). -/
def execDrayFault (dray : Fin 64) (cause t : Nat) (s : State) : Host.Outcome State Fault Refusal :=
  s.logic t fun d => drayFaultEff d dray cause

/-- DRAY_STEP_OVERRUN (R187). -/
def execDrayStepOverrun (dray : Fin 64) (t : Nat) (s : State) : Host.Outcome State Fault Refusal :=
  s.logic t fun d => stepOverrunEff d dray

/-- MESH_TIMEOUT (R187): the transfer is repeated by another route, and the task retried. -/
def execMeshTimeout (dray : Fin 64) (t : Nat) (s : State) : Host.Outcome State Fault Refusal :=
  s.logic t fun d => d.quarantine dray 4

/-- DRAY_SELF_TEST (R188). -/
def execDraySelfTest (dray : Fin 64) (pass : Bool) (t : Nat) (s : State) : Host.Outcome State Fault Refusal :=
  s.logic t fun d => selfTestEff d dray pass

/-- R188: the action of a write to 0x2402:07. -/
def drayRetestAct (d : Dev) : Dev :=
  if h : d.nat 0x240201 < 64 then d.engine fun e => { e with retest := e.retest ++ [⟨d.nat 0x240201, h⟩] } else d

/-- DRAY_RETEST_WRITE (R188): a write to 0x2402:07. -/
def execDrayRetestWrite (acc : Accessor) (v : Int) (s : State) : Host.Outcome State Fault Refusal :=
  s.logicNow fun d => d.writeObject acc 0x240207 (.num v) false none drayRetestAct

end Sys2Proof.Machine
end

