-- ==== Sys2Proof/Machine/Link.lean ====
section
/-! DEFINITION. The Ulard link (chapter 12): lanes, markers and their alignment, transmit modes, messages and replay,
retraining and retirement, and the break of a port (R317). -/

namespace Sys2Proof.Machine

/-! ### Lanes and ports -/

/-- The port of a lane: A0, A1, B0, B1. -/
def lanePort (k : Fin 4) : Port := if k.val < 2 then .a else .b

/-- The number of a lane on its port. -/
def laneNo (k : Fin 4) : Nat := k.val % 2

/-- Lane `n` of a port. -/
def laneOf (p : Port) (n : Fin 2) : Fin 4 :=
  match p, n with
  | .a, 0 => 0 | .a, 1 => 1 | .b, 0 => 2 | .b, 1 => 3

/-- The address of an object of a lane, or of a port. -/
def laneAdr (k : Fin 4) (sub : Nat) : Nat := adr (0x2920 + k) sub

/-- The address of an object of a port. -/
def portAdr (p : Port) (sub : Nat) : Nat := adr (0x2910 + portIx p) sub

/-- The state of a lane. -/
def Dev.lane (d : Dev) (k : Fin 4) : Lane := d.link.lanes[k]

/-- The state of a port. -/
def Dev.port (d : Dev) (p : Port) : PortLink := d.link.ports[portIx p]

/-- Update a lane. -/
def Dev.setLane (d : Dev) (k : Fin 4) (f : Lane → Lane) : Dev :=
  { d with link := { d.link with lanes := updateAt d.link.lanes k f } }

/-- Update a port. -/
def Dev.setPort (d : Dev) (p : Port) (f : PortLink → PortLink) : Dev :=
  { d with link := { d.link with ports := updateAt d.link.ports (portIx p) f } }

/-- 0x2910:01: the port is enabled. -/
def Dev.portEnabled (d : Dev) (p : Port) : Bool := d.flag (portAdr p 1)

/-- R298: the lane is in the retired lane map. -/
def Dev.laneRetired (d : Dev) (k : Fin 4) : Bool := d.bit 0x290002 k

/-- R289: the device sets the withheld bit for a lane. -/
def Dev.laneWithheld (d : Dev) (k : Fin 4) : Bool :=
  d.laneRetired k || (laneNo k = 1 && d.nat (portAdr (lanePort k) 2) = 1) || (d.lane k).thermal

/-- R289, R298: the lane's receiver is switched on: its port is enabled, and it is not withheld or is retired and trained
once at this start-up. -/
def Dev.laneOn (d : Dev) (k : Fin 4) : Bool :=
  d.portEnabled (lanePort k) && !(d.lane k).parked &&
    (!d.laneWithheld k || (d.laneRetired k && (d.lane k).retest && !(d.lane k).thermal))

/-- Table 12.5: the far end receives the lane good. -/
def Dev.farGood (d : Dev) (k : Fin 4) : Bool := (d.port (lanePort k)).far.testBit (4 + laneNo k)

/-- Table 12.5: the far end withholds the lane. -/
def Dev.farWithheld (d : Dev) (k : Fin 4) : Bool := (d.port (lanePort k)).far.testBit (2 + laneNo k)

/-- R300: a lane is up when it holds Sync at both ends. -/
def Dev.laneUp (d : Dev) (k : Fin 4) : Bool := (d.lane k).align = 3 && d.farGood k

/-- R298: a port is up while a lane of it is. -/
def Dev.portUp (d : Dev) (p : Port) : Bool := d.laneUp (laneOf p 0) || d.laneUp (laneOf p 1)

/-- R298: an MRAM object that is kept across a reset is committed by an ordered commit. -/
def Dev.keepObject (d : Dev) (a : Nat) : Dev :=
  ({ d with nvm := { d.nvm with kept := storePut d.nvm.kept a (storeGet d.obj a) } } : Dev).bump 0x310004

/-- R298: errored blocks of a lane, by the counter that they go to. -/
def Dev.errored (d : Dev) (k : Fin 4) (sub n : Nat) : Dev :=
  (d.setLane k fun l => { l with
    errors := List.replicate n d.time.now ++ l.errors.filter fun t => d.time.now < t + 1000000000 }).add (laneAdr k sub) n

/-! ### Breaks and reversal (R317) -/

/-- R317: the nodes of a ring: the length of the way round. -/
def Dev.ringNodes (d : Dev) : Nat := (d.ch.table.filter fun n => !(n.kind = 0 && n.position = 0)).length

/-- R317: the hop count of a node on the other way round. -/
def Dev.otherWay (d : Dev) (h : Nat) : Nat := d.ringNodes + 1 - h

/-- R317: whether a node of the table lies past a break that lies at hop count `h`. -/
def pastBreak (h : Nat) (n : TableNode) : Bool := n.arm = .a && h < n.hops

/-- R317: the device's own place is past the break. -/
def Dev.selfPast (d : Dev) (h : Nat) : Bool := !d.isLead && d.ch.arm = .a && h < d.ch.hops

/-- R317: the chain table and the device's own orientation after a break at hop count `h` of a ring: the nodes past it
lie on arm B, on the other way round. -/
def Dev.reverse (d : Dev) (h reporter : Nat) : Dev :=
  if d.ch.table.any (pastBreak h) then
    let self := d.selfPast h
    let table := d.ch.table.map fun n => if pastBreak h n then { n with arm := .b, hops := d.otherWay n.hops } else n
    let first := !d.ch.reversed && (self || d.isLead)
    let d := { d with ch := { d.ch with
      table := table, reversed := true
      upstream := if self then d.ch.upstream.map otherPort else d.ch.upstream
      arm := if self then .b else d.ch.arm
      hops := if self then d.otherWay d.ch.hops else d.ch.hops } }
    if first then (d.bump 0x2A000D).raise 0x0D02 1 0xFFFF [(6, reporter)] else d
  else d

/-- R326: what a break does to a running sweep: a device that is not done and has lost its path is marked missing, and
the sweep resumes. -/
def Dev.sweepBreak (d : Dev) (lost : Nat → Bool) : Dev :=
  if (d.swp.state = 1 || d.swp.state = 2) && d.swp.record.any (fun e => e.outcome = 0 && lost e.position) then
    { d with swp := { d.swp with
      state := 2
      current := if d.swp.current.any lost then none else d.swp.current
      record := d.swp.record.map fun e => if e.outcome = 0 && lost e.position then { e with outcome := 2 } else e } }
  else d

/-- R317, R326: a break at hop count `h`, reported from there: in a ring its nodes past the break reverse; a running sweep
loses them for the moment. -/
def Dev.takeBreak (d : Dev) (h reporter : Nat) : Dev :=
  if d.ch.ring then
    let lost := fun (p : Nat) => d.ch.table.any fun n => n.kind = 0 && n.position = p && pastBreak h n
    (if d.isLead then d.sweepBreak lost else d).reverse h reporter
  else d

/-- Table 13.1: the position that a node names itself by. -/
def Dev.selfName (d : Dev) : Nat := if d.isLead then d.position % 64 else d.position

/-- R307: the port holds the closing segment of a ring: the lead's port B, or at the last node of arm A the port away from
the lead. -/
def Dev.closingPort (d : Dev) (p : Port) : Bool :=
  d.ch.ring && !d.ch.reversed &&
    (if d.isLead then decide (p = .b) else d.ch.upstream ≠ some p && decide (d.ch.hops = d.ringNodes))

/-- R323: in a linear chain the cable at this port of the lead is the one to its standby. -/
def Dev.standbyBeyond (d : Dev) (p : Port) : Bool :=
  d.isLead && d.ch.enumerated && !d.ch.ring &&
    d.ch.table.any fun n => n.kind = 0 && n.position = d.nat 0x2A0008 && n.arm = p && n.hops = 1

/-- Table 13.1: send an enumeration message. A probe names the epoch that the chain will have. -/
def Dev.sendEnumeration (d : Dev) (p : Option Port) (opcode hops : Nat) (fields : List Byte) : Dev :=
  d.send (.enumeration p (enumerationBody opcode hops (if opcode = 0 then u32 (d.nat 0x22010E + 1) else d.nat 0x22010E) fields))

/-- R317, Table 12.11: both lanes of a port that was up are down: a link-segment fault. The node sends a break notice; a
node just past the break of a ring reverses at once, and one before it knows from itself what lies past it. A break of
the closing segment changes no path and only raises an event, to which the manual gives no code (log entry 14). -/
def Dev.portBreak (d : Dev) (p : Port) : Dev :=
  let d := ((d.setPort p fun x => { x with wasUp := false, down := true }).fault 4 false (portIx p).val).sendEnumeration none 3 0
    (breakFields d.selfName p d.chain)
  let toLead := d.ch.upstream = some p && !d.isLead
  let d := if d.standbyBeyond p then { d with ch := { d.ch with split := true, splitPort := some p } } else d
  if d.closingPort p then d.raise (Config.eventCode 2) 0 (portIx p).val []
  else if toLead then d.takeBreak (d.ch.hops - 1) d.selfName
  else d.takeBreak (if d.isLead then 0 else d.ch.hops) d.selfName

/-- R298, R317: find a port that has come up, or has gone down. -/
def Dev.checkPort (d : Dev) (p : Port) : Dev :=
  let synced := (d.lane (laneOf p 0)).align = 3 || (d.lane (laneOf p 1)).align = 3
  if (d.port p).wasUp then (if synced then d else d.portBreak p)
  else if d.portUp p then d.setPort p fun x => { x with wasUp := true, down := false }
  else d

/-! ### Lane faults (Table 12.11) -/

/-- R298: retire a lane: withheld, recorded in MRAM, event. -/
def Dev.retireLane (d : Dev) (k : Fin 4) (n : Nat) : Dev :=
  let d := (d.putBit 0x290002 k true).keepObject 0x290002
  let d := d.setLane k fun l => { errors := l.errors }
  ((d.fault 3 true k).raise 0x0C02 0 k [(3, n)]).checkPort (lanePort k)

/-- Table 12.2: where adaptation starts, 0.1 dB. -/
def ctleStart (band : Nat) : Int := if band = 0 then 70 else if band = 1 then 90 else if band = 2 then 110 else 125

/-- R298: a retrain attempt begins: counted, and the eighth within 60 s retires the lane. -/
def Dev.beginRetrain (d : Dev) (k : Fin 4) : Dev :=
  let d := (d.setLane k fun l => { l with
    attempt := true, attemptAt := d.time.now, ctle := ctleStart d.link.band, dfe := 0
    retrains := d.time.now :: l.retrains.filter fun t => d.time.now < t + 60000000000 }).bump (laneAdr k 6)
  if 8 ≤ (d.lane k).retrains.length then d.retireLane k 8 else d

/-- Table 12.11: a lane goes down: event, fault count, and the first retrain attempt at once. `align` is what the
receiver still holds. A retired lane that was trained at this start-up is trained once only. -/
def Dev.laneDown (d : Dev) (k : Fin 4) (align cause : Nat) : Dev :=
  if d.laneRetired k then (d.setLane k fun l => { errors := l.errors }).checkPort (lanePort k)
  else
    let d := d.setLane k fun l => { l with align := align, candidates := [], bad := 0, fails := 0 }
    let d := (d.put (laneAdr k 7) 0).fault 3 false k
    let d := (d.raise 0x0C01 0 k [(2, Config.eventCause 0x0C01 cause)]).checkPort (lanePort k)
    d.beginRetrain k

/-- R298: a lane has reached Sync: an attempt has succeeded, and the lane counts from now on as one that can go down. -/
def Dev.laneSynced (d : Dev) (k : Fin 4) : Dev :=
  (d.setLane k fun l => { l with
      syncAt := d.time.now, attempt := false, fails := 0, alarm := false, trained := true, candidates := [], bad := 0 }).put
    (laneAdr k 7) 0

/-- R284: 64 blocks with valid headers. -/
def blockLockEff (d : Dev) (k : Fin 4) : Dev :=
  if d.laneOn k && (d.lane k).align = 0 then d.setLane k fun l => { l with align := 1 } else d

/-- R284, R285: block lock is lost: all candidates are dropped, and a lane that was up goes down. -/
def blockLockLossEff (d : Dev) (k : Fin 4) : Dev :=
  let l := d.lane k
  if d.laneOn k && 0 < l.align then
    let d := d.errored k 2 16
    if l.trained && !l.attempt then d.laneDown k 0 1
    else d.setLane k fun l => { l with align := 0, candidates := [], bad := 0 }
  else d

/-- R298: the sliding count passes the threshold: the alarm, and the lane goes down. -/
def errorRateAlarmEff (d : Dev) (k : Fin 4) (errored : Nat) : Dev :=
  if d.laneOn k && d.nat 0x290001 < errored then
    let d := (d.setLane k fun l => { l with alarm := true }).put (laneAdr k 8) (errored % 2 ^ 32 : Nat)
    if (d.lane k).trained && !(d.lane k).attempt then d.laneDown k 0 2 else d
  else d

/-- R298: the next attempt of a lane that is down, after its back-off. -/
def retrainAttemptEff (d : Dev) (k : Fin 4) : Dev :=
  let l := d.lane k
  if d.laneOn k && l.align ≠ 3 && !l.attempt && l.retryAt ≤ d.time.now then d.beginRetrain k else d

/-- R298: an attempt has not reached Sync in 20 ms: the back-off, or at the fourth in a row retirement. A retired lane is
trained once only. -/
def retrainTimeoutEff (d : Dev) (k : Fin 4) : Dev :=
  let l := d.lane k
  if !l.attempt || l.align = 3 || d.time.now < l.attemptAt + 20000000 then d
  else if d.laneRetired k then d.setLane k fun _ => { errors := l.errors }
  else
    let wait := if l.fails = 0 then 1000000 else if l.fails = 1 then 10000000 else 100000000
    let d := (d.setLane k fun l => { l with attempt := false, fails := l.fails + 1, retryAt := d.time.now + wait }).put
      (laneAdr k 7) (l.fails + 1 : Nat)
    if 4 ≤ l.fails + 1 then d.retireLane k 4 else d

/-- R298: a retired lane that was trained at this start-up has run 1 s with no errored block. -/
def laneReinstateEff (d : Dev) (k : Fin 4) : Dev :=
  let l := d.lane k
  let clean := decide (l.syncAt + 1000000000 ≤ d.time.now) && l.errors.all fun t => decide (t + 1000000000 ≤ d.time.now)
  if d.laneRetired k && l.retest && l.align = 3 && clean then
    let d := (d.putBit 0x290002 k false).keepObject 0x290002
    (d.setLane k fun l => { l with retest := false }).raise 0x0C01 0 k [(2, Config.eventCause 0x0C01 3)]
  else d

/-- R298: 0x2900:03: clear a lane from the map; it is trained at the next start-up. -/
def laneRetestAct (v : Int) (d : Dev) : Dev :=
  if h : v.toNat < 4 then
    let k : Fin 4 := ⟨v.toNat, h⟩
    if d.laneRetired k then
      ((d.putBit 0x290002 k false).keepObject 0x290002).setLane k fun l => if l.retest then { l with retest := false } else { l with parked := true }
    else d
  else d

/-- R300: 200 ms after start-up a port whose lanes are not up reports port down, and its lanes are retried. -/
def portTrainingEff (d : Dev) (p : Port) : Dev :=
  if d.portEnabled p && !d.portUp p && d.power.releasedAt + 200000000 ≤ d.time.now then
    let d := d.setPort p fun x => { x with down := true }
    let one := fun (d : Dev) (k : Fin 4) =>
      if d.laneOn k && (d.lane k).align ≠ 3 && !(d.lane k).attempt then d.beginRetrain k else d
    one (one d (laneOf p 0)) (laneOf p 1)
  else d

/-- R298, R300: the lanes at start-up: the retired ones are trained once. -/
def Dev.bootLanes (d : Dev) : Dev :=
  let start := fun (k : Fin 4) => 
    let l : Lane := { ctle := ctleStart d.link.band }
    if d.laneRetired k then { l with retest := true, attempt := true, attemptAt := d.time.now } else l
  { d with link := { d.link with lanes := Vector.ofFn start } }

/-- R289, R298: a swap that disables a port, or withholds a lane by the lanes allowed, switches that receiver off: it holds
no alignment any more. -/
def Dev.swapLanes (d : Dev) : Dev :=
  let one := fun (d : Dev) (k : Fin 4) =>
    if d.laneOn k || (d.lane k).align = 0 then d
    else (d.setLane k fun l => { l with align := 0, candidates := [], bad := 0, attempt := false }).checkPort (lanePort k)
  (List.finRange 4).foldl one d

/-! ### Markers and alignment (Table 12.6a) -/

/-- R285: two instants lie at one block position: less than half a block apart. -/
def samePosition (t e : Nat) : Bool := t ≤ e + 3 && e ≤ t + 3

/-- R285: a candidate holds the position of an instant. -/
def Candidate.holds (c : Candidate) (t : Nat) : Bool :=
  let r := (t + 1600 - c.instant % 1600) % 1600
  r ≤ 3 || 1597 ≤ r

/-- Hunt: a block of marker type arrives; answers the candidates left, or the one that has reached 4 confirmations. -/
def huntMarker (cs : List Candidate) (m : Marker) (t : Nat) : List Candidate ⊕ Candidate :=
  let live := cs.filter fun c => t ≤ c.instant + 1603
  match live.find? fun c => samePosition t (c.instant + 1600) with
  | some c =>
    let others := live.filter (· ≠ c)
    if m.crcOk && m.counter = u16 (c.counter + 1) then
      let c' : Candidate := ⟨t, m.counter, c.confirmed + 1⟩
      if 4 ≤ c'.confirmed then .inr c' else .inl (others ++ [c'])
    else .inl others
  | none =>
    if m.crcOk && live.length < 8 && !live.any (fun c => c.holds t) then .inl (live ++ [⟨t, m.counter, 1⟩])
    else .inl live

/-- R314: the link delay in force on a port, ps. -/
def Dev.linkDelay (d : Dev) (p : Port) : Int := d.int (adr 0x2A01 (1 + portIx p))

/-- R283: arrival of a marker less its departure and the link delay, ps: the offset of R315, the slot error of R313. -/
def Dev.markerOffset (d : Dev) (p : Port) (m : Marker) : Int :=
  (d.time.now + d.time.offset) * 1000 - (m.stamp * 125 / 2 + d.linkDelay p)

/-- R315, R40: a wheeler takes time from a marker of its timing port with both flags: the first one sets chain time; then,
but in holdover before its re-lock, the
loop of 20 Hz steers it, by at most 100 ppm, and 64 markers in a row within 5 ns lock it. The filter and the steering
count in 1/4,974 ps: 4,974 frames are the loop's time constant. -/
def Dev.takeTime (d : Dev) (p : Port) (m : Marker) : Dev :=
  if d.isLead || d.ch.upstream ≠ some p || !m.downstream || !m.timeGood then d
  else if !d.time.seeded then
    let base : Int := (m.stamp * 125 / 2 + d.linkDelay p) / 1000
    { d with time := { d.time with offset := base - d.time.now, seeded := true }
             link := { d.link with filtered := 0, steady := 0, rest := 0 } }
  else if (d.time.state = 4 || d.time.state = 5) && !d.time.relocked then d
  else
    let e := d.markerOffset p m
    let filtered := d.link.filtered + e - d.link.filtered / 4974
    let rest := if d.time.slewing || d.time.stepPending.isSome then d.link.rest
      else d.link.rest + clampI (-795840) 795840 e
    let ns := Int.tdiv rest 4974000
    let steady := if (filtered / 4974).natAbs ≤ 5000 then d.link.steady + 1 else 0
    let locks := decide (64 ≤ steady) && (d.time.state = 0 || d.time.state = 4) && d.time.stepPending.isNone
    { d with
      time := { d.time with
        offset := d.time.offset - ns, state := if locks then 3 else d.time.state
        slotStopped := d.time.slotStopped && !locks, relocked := d.time.relocked && !locks }
      link := { d.link with filtered := filtered, steady := steady, rest := rest - ns * 4974000 } }

/-- R311: the port receives the upstream direction of a link, with its frame plan. -/
def Dev.upstreamIn (d : Dev) (p : Port) : Bool := d.ch.enumerated && (d.isLead || d.ch.upstream ≠ some p)

/-- R313: the upstream receiver's slot error: beyond half a guard band the report slot of the frame is not used. -/
def Dev.slotCheck (d : Dev) (p : Port) (m : Marker) : Dev :=
  let bad := d.time.seeded && d.upstreamIn p && decide (25600 < (d.markerOffset p m).natAbs)
  let d := d.setPort p fun x => { x with slotBad := bad }
  if bad then d.bump 0x2A0104 else d

/-- R311, R313: nothing is taken from a guard band of an upstream frame, nor from a report slot whose slot error is too large.
The position is that of the block that ends the message. -/
def Dev.slotDrops (d : Dev) (p : Port) : Bool :=
  let k := if (d.lane (laneOf p 0)).align = 3 then laneOf p 0 else laneOf p 1
  let use := upstreamUse ((d.time.now - (d.lane k).instant) * 10 / 64 % 250)
  d.upstreamIn p && (decide (use = 1) || (decide (use = 2) && (d.port p).slotBad))

/-- R288: the skew of a port's lanes, from markers of one counter: lane 1 later is positive; beyond 16 blocks the port
cannot bond, which raises an event to which the manual gives no code (log entry 14). -/
def Dev.skewCheck (d : Dev) (p : Port) : Dev :=
  let a := d.lane (laneOf p 0)
  let b := d.lane (laneOf p 1)
  if a.align = 3 && b.align = 3 && a.counter = b.counter then
    let blocks := ((b.instant : Int) - a.instant) * 10
    let skew := (2 * blocks + 64) / 128
    let far := 160 < (Int.natAbs blocks * 10 / 64)
    let d := d.put (portAdr p 0x0A) (clampI (-127) 127 skew)
    if far && !(d.port p).skew then
      (d.setPort p fun x => { x with skew := true }).raise (Config.eventCode 1) 0 (portIx p).val []
    else if far then d
    else d.setPort p fun x => { x with skew := false }
  else d

/-- Table 13.1, opcode 1: the device's report. -/
def Dev.ownReport (d : Dev) : NodeReport :=
  { identity := Config.nodeIdentity, kind := 0, position := if d.isLead then 0 else d.position
    upstream := d.ch.upstream.getD .a
    portsUp := (if d.portUp .a then 1 else 0) + (if d.portUp .b then 2 else 0)
    expected := d.nat 0x2A0003, guestRate := 0, ready := d.swap.ready, rejoining := d.ch.rejoining
    enforcing := d.hlt.enforcing, notices := d.rcd.notices ≠ [], replaceMe := d.nat 0x2E0002 ≠ 0
    hops := d.ch.hops, arm := d.ch.arm }

/-- R304, R312: send the device's report, under a position. -/
def Dev.sendReport (d : Dev) (position : Nat) : Dev :=
  d.sendEnumeration none 1 d.ch.hops (reportFields { d.ownReport with position := position })

/-- R324: a device without a position hears markers with both flags: its chain is running, so it takes that port as its
upstream port, as a wheeler whatever its strap, and reports with the rejoining bit. -/
def Dev.joinRunning (d : Dev) (p : Port) (m : Marker) : Dev :=
  if d.ch.enumerated || d.position < 32 || d.ch.probedA || d.ch.probedB || d.ch.rejoining || !m.downstream || !m.timeGood then d
  else
    let d := { d with ch := { d.ch with upstream := some p, original := some p, rejoining := true } }.put 0x2A0001 0
    d.sendReport d.ownReport.position

/-- R283, R285: accept a good marker in Sync: the far end's link state, the stamps for the chain layer, the skew. -/
def Dev.acceptMarker (d : Dev) (k : Fin 4) (m : Marker) : Dev :=
  let p := lanePort k
  let d := (d.setLane k fun l => { l with counter := m.counter, instant := d.time.now, bad := 0 }).put (laneAdr k 0x0C) (m.counter % 65536 : Nat)
  let d := ((d.setPort p fun x => { x with far := markerByte m }).checkPort p).joinRunning p m
  let d := if d.ch.upstream = some p then { d with ch := { d.ch with silent := 0, leadAlive := false } } else d
  ((d.skewCheck p).slotCheck p m).takeTime p m

/-- R285, R298: a bad marker in Sync: the third in a row ends it. -/
def Dev.badMarker (d : Dev) (k : Fin 4) (n : Nat) : Dev :=
  let d := d.errored k 3 n
  let bad := (d.lane k).bad + n
  if 3 ≤ bad then
    if (d.lane k).attempt then d.setLane k fun l => { l with align := 2, bad := 0, candidates := [] } else d.laneDown k 2 4
  else d.setLane k fun l => { l with bad := bad }

/-- R285, Table 12.6a: a block of marker type arrives on a lane. In Sync it counts at its expected position only, and
elsewhere it is payload; expected positions that have passed without a good marker were bad ones. -/
def markerBlockEff (d : Dev) (k : Fin 4) (m : Marker) : Dev :=
  let l := d.lane k
  let t := d.time.now
  if !d.laneOn k || l.align = 0 then d
  else if l.align = 3 then
    let gone := (t - 4 - l.instant) / 1600
    let e := l.instant + 1600 * (gone + 1)
    let d := if 0 < gone then d.badMarker k gone else d
    if (d.lane k).align ≠ 3 || !samePosition t e then d.setLane k fun l => if l.align = 3 then { l with instant := e - 1600 } else l
    else if m.crcOk && m.counter = u16 (l.counter + 1) then d.acceptMarker k m
    else (d.setLane k fun l => { l with instant := e }).badMarker k 1
  else
    let d := if m.crcOk then d else d.errored k 4 1
    match huntMarker l.candidates m t with
    | .inl cs => d.setLane k fun l => { l with align := if cs = [] then l.align else 2, candidates := cs }
    | .inr c => ((d.setLane k fun l => { l with align := 3 }).laneSynced k).acceptMarker k { m with counter := c.counter }

/-- R285: something else than a good marker arrives at an expected position: in Sync of the lane, in Hunt of its oldest
candidate that is due. -/
def expectedMarkerEff (d : Dev) (k : Fin 4) : Dev :=
  let l := d.lane k
  if !d.laneOn k then d
  else if l.align = 3 then (d.setLane k fun l => { l with instant := l.instant + 1600 }).badMarker k 1
  else d.setLane k fun l => { l with candidates := l.candidates.filter fun c => !samePosition d.time.now (c.instant + 1600) }

/-! ### Frames and transmit modes -/

/-- R289: the transmit mode of a port: 0 bonded, 1 single on lane 0, 2 single on lane 1, 3 training. -/
def Dev.modeOf (d : Dev) (p : Port) : Nat :=
  let good := fun (n : Fin 2) => d.farGood (laneOf p n) && !d.farWithheld (laneOf p n)
  let own := fun (n : Fin 2) => d.laneWithheld (laneOf p n)
  if good 0 && good 1 && !own 0 && !own 1 && d.nat (portAdr p 2) = 2 && !(d.port p).skew then 0
  else if good 0 then 1
  else if good 1 then 2
  else 3

/-- R299: while a slow-down is enforced lane 1 is withheld, provided that lane 0 receives good at both ends; when that ends
the lane is trained again. -/
def Dev.thermalLanes (d : Dev) (p : Port) : Dev :=
  let k := laneOf p 1
  let now := d.hlt.enforcing && d.laneUp (laneOf p 0)
  if now && !(d.lane k).thermal then
    d.setLane k fun l => { l with thermal := true, align := 0, candidates := [], bad := 0, attempt := false }
  else if !now && (d.lane k).thermal then
    d.setLane k fun l => { l with
      thermal := false, attempt := true, attemptAt := d.time.now, ctle := ctleStart d.link.band, dfe := 0, fails := 0
      retryAt := d.time.now }
  else d

/-- Table 13.4: the port is one of the device's downstream ports: away from the lead, or on the lead an arm in use. -/
def Dev.downstreamPort (d : Dev) (p : Port) : Bool :=
  if d.isLead then d.ch.enumerated && (decide (p = .a) || !d.ch.ring || d.ch.reversed)
  else d.ch.upstream.isSome && d.ch.upstream ≠ some p && !d.closingPort p

/-- Table 13.4: the device's time is good. -/
def Dev.timeGood (d : Dev) : Bool := (d.isLead && d.time.seeded) || (d.time.state = 3 && !d.time.slotStopped)

/-- R304: the lead probes a port. -/
def Dev.probe (d : Dev) (p : Port) : Dev :=
  ({ d with ch := { d.ch with
      probedA := d.ch.probedA || decide (p = .a), probedB := d.ch.probedB || decide (p = .b), lastReport := d.time.now } } : Dev).sendEnumeration
    (some p) 0 1 (probeFields 1 p)

/-- R304: the lead probes port A once its ports are up, and port B where port A has nothing on it. -/
def Dev.startProbe (d : Dev) (p : Port) : Dev :=
  let settled := fun (q : Port) => d.portUp q || (d.port q).down || !d.portEnabled q
  if !d.isLead || d.ch.enumerated || d.ch.probedA || d.ch.probedB || !settled .a || !settled .b then d
  else if p = .a && d.portUp .a then d.probe .a
  else if p = .b && !d.portUp .a && d.portUp .b then d.probe .b
  else d

/-- R312: the rotation index of this device. -/
def Dev.rotationIndex (d : Dev) : Option Nat :=
  (d.ch.table.find? fun n => n.kind = 0 && n.position = d.position).map fun n => n.rotation

/-- R312, R316: in its own turn a wheeler fills the report slot of its upstream port with a report. -/
def Dev.turnReport (d : Dev) (p : Port) : Dev :=
  if d.isLead || !d.ch.enumerated || d.ch.upstream ≠ some p || d.time.slotStopped then d
  else if d.rotationIndex = some ((d.chain / 1600 + d.ch.hops - 1) % max 1 d.ringNodes) then d.sendReport d.ownReport.position
  else d

/-- R283, Tables 12.4 and 12.5: the marker that a port sends at a frame start: the frame number, the departure in chain time,
and the link state byte's fields. -/
def Dev.ownMarker (d : Dev) (p : Port) (mode : Nat) : Marker :=
  let good := fun (n : Fin 2) => decide ((d.lane (laneOf p n)).align = 3)
  let withheld := fun (n : Fin 2) => d.laneWithheld (laneOf p n)
  { crcOk := true, counter := d.chain / 1600 % 65536, stamp := 16 * d.chain, mode := mode, good0 := good 0, good1 := good 1
    withheld0 := withheld 0, withheld1 := withheld 1, downstream := d.downstreamPort p, timeGood := d.timeGood }

/-- Table 12.2: the transmit post-cursor of a band, 0.1 dB. -/
def postCursor (band : Nat) : Nat := if band < 2 then 35 else if band = 2 then 45 else 60

/-- Table 12.2: CTLE bounds in 0.1 dB and DFE bound in mV of a band. -/
def equaliser (band : Nat) : Int × Int × Int :=
  if band = 0 then (40, 100, 60) else if band = 1 then (60, 120, 80) else if band = 2 then (80, 140, 90) else (90, 160, 100)

/-- R278: one frame of adaptation of a value: one outside the bounds walks towards them by a step, one inside follows what
adaptation calls for, and stays at a bound that it calls beyond. -/
def adaptValue (lo hi step v want : Int) : Int :=
  if v < lo then min lo (v + step) else if hi < v then max hi (v - step) else clampI lo hi want

/-- R278: one frame of a lane's adaptation; what it calls for is a reading (log entry 13). -/
def Dev.adaptLane (d : Dev) (k : Fin 4) : Dev :=
  let l := d.lane k
  if !d.laneOn k || l.align = 0 then d
  else
    let q := equaliser d.link.band
    let ctle := Config.reading (laneAdr k 9) d.draws
    let dfe := Config.reading (laneAdr k 0x0A) d.draws
    (d.setLane k fun l => { l with
      ctle := adaptValue q.1 q.2.1 5 l.ctle ctle, dfe := adaptValue (-q.2.2) q.2.2 5 l.dfe dfe
      pinned := ctle < q.1 || q.2.1 < ctle || dfe < -q.2.2 || q.2.2 < dfe }).draw

/-- R282, R289: at a chain time that is a multiple of 1,600 ns a frame starts on a port: the mode is decided, the marker
leaves, and the guest messages that wait leave where the port carries payload (log entry 17: the room in a frame is timing). -/
def frameStartEff (d : Dev) (p : Port) : Dev :=
  if !d.portEnabled p || d.chain % 1600 ≠ 0 then d
  else
    let d := ((d.thermalLanes p).adaptLane (laneOf p 0)).adaptLane (laneOf p 1)
    let mode := d.modeOf p
    let d := (d.setPort p fun x => { x with mode := mode }).send (.marker p (markerPayload (d.ownMarker p mode)))
    let d := (d.startProbe p).turnReport p
    if mode = 3 || d.closingPort p || d.ch.splitPort = some p then d
    else
      let waiting := (d.port p).guests
      waiting.foldl (fun d g => d.send (.message p g.1)) (d.setPort p fun x => { x with guests := [] })

/-! ### Messages and replay -/

/-- R292: resend from the oldest message on; one that has been sent 4 times is undeliverable and is dropped. -/
def Dev.resend (d : Dev) (p : Port) (cls : Nat) (counts : Bool) : Dev :=
  let c := d.getClass p cls
  let lost := c.replay.filter fun o => counts && 4 ≤ o.sends
  let left := (c.replay.filter fun o => !(counts && 4 ≤ o.sends)).map fun o =>
    { o with sentAt := d.time.now, sends := if counts then o.sends + 1 else o.sends }
  let d := d.classLink p cls fun c => { c with replay := left }
  let d := (d.add (portAdr p 6) left.length).add (portAdr p 7) lost.length
  let d := left.foldl (fun d o => d.send (.resent p cls o.seq o.emit)) d
  let again := fun (d : Dev) (o : Outgoing) =>
    match d.portTo o.dest with
    | some q =>
      if q ≠ p then
        let c := d.getClass q cls
        let r := c.push d.time.now o.kind o.dest o.emit
        let d := d.classLink q cls fun _ => r.1
        if r.2 then d.send (.resent q cls c.next o.emit) else d
      else d.raise (Config.eventCode 3) 0 o.dest []
    | none => d.raise (Config.eventCode 3) 0 o.dest []
  lost.foldl again d

/-- R292, R147: messages that are acknowledged leave the replay buffer; a tile that has been delivered leaves the lead's
transfer list. -/
def Dev.acknowledge (d : Dev) (p : Port) (cls seq : Nat) : Dev :=
  let c := d.getClass p cls
  if !c.replay.any (fun o => o.seq = seq) then d
  else
    let done := c.replay.takeWhile (fun o => o.seq ≠ seq) ++ (c.replay.filter fun o => o.seq = seq).take 1
    let d := d.classLink p cls fun c => { c with replay := c.replay.drop done.length }
    let tiles := done.filterMap fun o => match o.emit with | .tileTransfer h x => some (h, x.coord) | _ => none
    d.store fun s => { s with transfer := s.transfer.filter fun x => !tiles.any fun y => y = (x.1, x.2.coord) }

/-- R292, R293: what waits for room in the replay buffer leaves in order. -/
def Dev.pullQueue (d : Dev) (p : Port) (cls : Nat) : Nat → Dev
  | 0 => d
  | n + 1 =>
    let c := d.getClass p cls
    match c.queue with
    | [] => d
    | o :: rest =>
      if c.replay.length < 64 && c.busyUntil.isNone then
        let d := d.classLink p cls fun c => { c with
          queue := rest, next := u8 (c.next + 1), replay := c.replay ++ [{ o with seq := c.next, sends := 1, sentAt := d.time.now }] }
        (d.send (.resent p cls c.next o.emit)).pullQueue p cls n
      else d

/-- R295: a segment of a transfer for this device. -/
def Dev.takeSegment (d : Dev) (m : Msg) : Dev :=
  if !m.segmented then d
  else
    let tag := leNat (m.body.take 2)
    let no := leNat ((m.body.drop 2).take 1)
    let count := leNat ((m.body.drop 3).take 1)
    let same := fun (x : Segments) => x.source = m.source && x.tag = tag
    let x : Segments := (d.link.segments.find? same).getD ⟨m.source, tag, d.time.now, [], count⟩
    let x := { x with numbers := if x.numbers.any (· = no) then x.numbers else x.numbers ++ [no] }
    let others := d.link.segments.filter fun y => !same y
    { d with link := { d.link with segments := if x.count ≤ x.numbers.length then others else others ++ [x] } }

/-- R290, R309: the message is for this device. -/
def Dev.isMine (d : Dev) (dest : Nat) : Bool := dest = d.position && dest < 32

/-- R317, R322: a break notice and a takeover notice are broadcast in both directions. -/
def bothWays (m : Msg) : Bool := m.cls = 1 && m.kind = 8 && (m.body.head? = some 3 || m.body.head? = some 4)

/-- R309: where a broadcast that arrives on a port leaves. -/
def Dev.broadcastTo (d : Dev) (p : Port) (m : Msg) : Option Port :=
  let q := otherPort p
  let away := decide (d.ch.upstream = some p) && !d.isLead && !d.closingPort q
  if d.portUp q && d.ch.splitPort ≠ some q && (away || bothWays m) then some q else none

/-- R309, R311, R316: forward a time or control message, before its CRC is checked: a broadcast away from the lead, a
message to the lead by the report slot, another on its path; echo messages never. A copy whose sequence is not ahead is
dropped. -/
def Dev.cutThrough (d : Dev) (p : Port) (m : Msg) : Dev :=
  let key := (m.source, m.cls)
  let old := match lastSeq key d.link.last with | some q => !ahead8 m.seq q | none => false
  if m.cls = 0 || old then d
  else
    let d := { d with link := { d.link with last := putSeq key (u8 m.seq) d.link.last } }
    if m.dest = 63 then
      match d.broadcastTo p m with
      | some q => d.send (.message q (hopRaised m))
      | none => d
    else if d.isMine m.dest then d
    else match d.portTo m.dest with
      | some q => if q ≠ p && !(d.ch.upstream = some q && d.time.slotStopped) then d.send (.message q m) else d
      | none => d

/-- R292: a data or management message, whole and expected, behind the expected, in a gap, or without room. -/
def Dev.takeReliable (d : Dev) (p : Port) (m : Msg) (crcOk : Bool) : Dev :=
  let c := d.getClass p m.cls
  let behind := ahead8 c.expected m.seq
  let answer := fun (d : Dev) (kind seq : Nat) => d.send (.linkControl p (linkControlBlock kind m.cls seq))
  if !crcOk then answer d 1 c.expected
  else if behind then answer d 0 m.seq
  else if m.seq ≠ c.expected then answer d 1 c.expected
  else
    let way := if d.isMine m.dest then none else if m.dest = 63 then d.broadcastTo p m else (d.portTo m.dest).filter (· ≠ p)
    let full : Bool := match way with | some q => decide (64 ≤ (d.getClass q m.cls).queue.length) | none => false
    if full then answer d 2 m.seq
    else
      let d := answer (d.classLink p m.cls fun c => { c with expected := u8 (c.expected + 1) }) 0 m.seq
      match way with
      | some q =>
        let r := (d.getClass q m.cls).push d.time.now m.kind m.dest (.message q m)
        let seq := (d.getClass q m.cls).next
        let d := d.classLink q m.cls fun _ => r.1
        let d := if m.dest = 63 then d.takeSegment m else d
        if r.2 then d.send (.message q { m with seq := seq, resent := false }) else d
      | none => if d.isMine m.dest || m.dest = 63 then d.takeSegment m else d

/-- R292, R299: a guest message: forwarded whole, or dropped and counted. -/
def Dev.takeGuest (d : Dev) (p : Port) (m : Msg) (crcOk : Bool) : Dev :=
  if !crcOk then d.bump (portAdr p 8)
  else if d.isMine m.dest then d
  else if m.dest = 63 then
    match d.broadcastTo p m with
    | some q => d.setPort q fun x => { x with guests := x.guests ++ [(m, d.time.now)] }
    | none => d
  else match d.portTo m.dest with
    | some q =>
      if q = p then d.bump (portAdr p 8)
      else d.setPort q fun x => { x with guests := x.guests ++ [(m, d.time.now)] }
    | none => d.bump (portAdr p 8)

/-- R290, R292, R298: a message has arrived on a port. What its body says acts by the row of its own kind (log entry
15); here it is forwarded, acknowledged, delivered or dropped by its class. `crc` is the CRC-32 that ends its body. -/
def messageReceivedEff (d : Dev) (p : Port) (m : Msg) (crc : Nat) : Dev :=
  let crcOk := decide (crc = crc32 m.body)
  let k := if (d.lane (laneOf p 0)).align = 3 then laneOf p 0 else laneOf p 1
  if (d.lane k).align ≠ 3 || d.slotDrops p then d
  else
    let d := if crcOk then d else d.errored k 5 1
    if m.cls < 2 then d.cutThrough p m
    else if m.cls < 4 then d.takeReliable p m crcOk
    else if m.cls = 4 then d.takeGuest p m crcOk
    else d

/-- R292: an acknowledgement. -/
def linkAckEff (d : Dev) (p : Port) (cls seq : Nat) : Dev :=
  if cls = 2 || cls = 3 then (d.acknowledge p cls seq).pullQueue p cls 64 else d

/-- R292: a negative acknowledgement, or none in time. -/
def linkResendEff (d : Dev) (p : Port) (cls : Nat) : Dev :=
  if cls = 2 || cls = 3 then
    if (d.getClass p cls).busyUntil.isSome then d else (d.resend p cls true).pullQueue p cls 64
  else d

/-- R292: the oldest message of a class has had no acknowledgement within 10 µs. -/
def replayTimeoutEff (d : Dev) (p : Port) (cls : Nat) : Dev :=
  if (d.getClass p cls).replay.head?.any fun o => o.sentAt + 10000 ≤ d.time.now then linkResendEff d p cls else d

/-- R292: a busy negative acknowledgement. -/
def linkBusyEff (d : Dev) (p : Port) (cls : Nat) : Dev :=
  if cls = 2 || cls = 3 then
    (d.classLink p cls fun c => { c with busyUntil := some (d.time.now + 10000) }).bump (portAdr p 9)
  else d

/-- R292: the wait after busy has ended: the messages are sent again, which counts as no attempt. -/
def busyWaitEndEff (d : Dev) (p : Port) (cls : Nat) : Dev :=
  if (cls = 2 || cls = 3) && (d.getClass p cls).busyUntil.any (· ≤ d.time.now) then
    ((d.classLink p cls fun c => { c with busyUntil := none }).resend p cls false).pullQueue p cls 64
  else d

/-- R295: 10 ms after its first segment a transfer is discarded. -/
def segmentTimeoutEff (d : Dev) (source : Nat) : Dev :=
  { d with link := { d.link with
    segments := d.link.segments.filter fun x => !(x.source = source && x.since + 10000000 ≤ d.time.now) } }

/-- R299: guest messages that have waited more than 2 ms are dropped and counted. -/
def guestTimeoutEff (d : Dev) (p : Port) : Dev :=
  let late := (d.port p).guests.filter fun g => g.2 + 2000000 < d.time.now
  (d.setPort p fun x => { x with guests := x.guests.filter fun g => !(g.2 + 2000000 < d.time.now) }).add (portAdr p 8) late.length

/-! ### Status -/

/-- 0x2920:01: the lane state. -/
def Dev.laneState (d : Dev) (k : Fin 4) : Nat :=
  let l := d.lane k
  if !d.portEnabled (lanePort k) then 0
  else if d.laneRetired k && !l.retest then 5
  else if d.laneWithheld k && !l.retest then 6
  else if l.parked then 0
  else if l.align = 0 then 1
  else l.align + 1

/-- 0x2910:03: the port state. -/
def Dev.portState (d : Dev) (p : Port) : Nat :=
  let m := (d.port p).mode
  if !d.portEnabled p || (!d.portUp p && (d.port p).down) then 0
  else if !d.portUp p || m = 3 then 1
  else if m = 0 then 3
  else 2

/-- R278, Tables 12.14 and 12.16: the objects of a lane. -/
def Dev.publishLane (d : Dev) (k : Fin 4) : Dev :=
  let l := d.lane k
  let on := fun (n : Nat) (b : Bool) => if b then 2 ^ n else 0
  let status := on 7 (d.farWithheld k) + on 6 l.thermal + on 5 (d.laneRetired k) + on 4 l.alarm
    + on 3 l.pinned + on 2 (d.farGood k) + on 1 (l.align = 3) + on 0 (0 < l.align)
  let d := (d.put (laneAdr k 1) (d.laneState k)).putReading (laneAdr k 0x0B) (status : Nat)
  let d := d.put (laneAdr k 8) ((l.errors.filter fun t => d.time.now < t + 1000000000).length : Nat)
  (d.putReading (laneAdr k 9) l.ctle).putReading (laneAdr k 0x0A) l.dfe

/-- Tables 12.12, 12.13 and 12.15: the objects of the ports and of the link. The blocks sent in the last batch are a meter
of the device (log entry 13). -/
def Dev.publishLink (d : Dev) : Dev :=
  let one := fun (d : Dev) (p : Port) =>
    let count := (List.range 5).flatMap fun k => leBytes 4 (Config.reading (portAdr p 0x0B + 65536 * k) d.draws).toNat
    let d := ((d.put (portAdr p 3) (d.portState p)).put (portAdr p 4) (d.port p).mode).put (portAdr p 5) (d.port p).far
    ({ d with obj := storePut d.obj (portAdr p 0x0B) (.bytes count) } : Dev)
  let d := (one (one d .a) .b).draw
  let d := (List.finRange 4).foldl (fun (d : Dev) (k : Fin 4) => d.publishLane k) d
  let on := fun (n : Nat) (b : Bool) => if b then 2 ^ n else 0
  let st := fun (p : Port) => d.nat (portAdr p 3)
  d.put 0x290005 (on 0 (st .a = 3) + on 1 (st .a = 2) + on 2 (st .b = 3) + on 3 (st .b = 2) + on 4 (d.nat 0x290002 ≠ 0)
    + on 5 ((d.lane 1).thermal || (d.lane 3).thermal) + on 6 ((d.port .a).skew || (d.port .b).skew) : Nat)

/-! ### Meanings -/

/-- BLOCK_LOCK (R284). -/
def execBlockLock (lane : Fin 4) (t : Nat) (s : State) : Host.Outcome State Fault Refusal :=
  s.logic t fun d => blockLockEff d lane

/-- BLOCK_LOCK_LOSS (R284). -/
def execBlockLockLoss (lane : Fin 4) (t : Nat) (s : State) : Host.Outcome State Fault Refusal :=
  s.logic t fun d => blockLockLossEff d lane

/-- R280, R298: what a block counts as errored: an invalid sync header, or in Sync a control block of an unknown type or with a bad
CRC-8 that is no marker. -/
def Dev.blockErrors (d : Dev) (k : Fin 4) (b : LineBlock) : Dev :=
  let w := payloadOf b
  let type := w.toNat % 256
  if !d.laneOn k || (d.lane k).align = 0 then d
  else if headerOf b = 0 || headerOf b = 3 then d.errored k 2 1
  else if headerOf b = 2 && (d.lane k).align = 3 && type ≠ 0xD2 && !([0xE1, 0x66, 0x33].contains type && controlOk w) then
    d.errored k 4 1
  else d

/-- R279, R283, R285: a block arrives on a lane: one with a control header and the marker's type is a marker block; any other
one counts at an expected position only. A device without chain time reads the stamp near the arrival's `coarse` (log entry 124). -/
def lineBlockEff (d : Dev) (k : Fin 4) (a : Arrival) : Dev :=
  let b := a.block
  let d := d.blockErrors k b
  if headerOf b = 2 && (payloadOf b).toNat % 256 = 0xD2 then
    markerBlockEff d k (markerOf (if d.time.seeded then (d.chain : Int) else a.coarse) b)
  else if (d.lane k).align ≠ 3 || samePosition d.time.now ((d.lane k).instant + 1600) then expectedMarkerEff d k
  else d

/-- MARKER_BLOCK (R285). -/
def execMarkerBlock (lane : Fin 4) (arrived : Arrival) (t : Nat) (s : State) :
    Host.Outcome State Fault Refusal := s.logic t fun d => lineBlockEff d lane arrived

/-- EXPECTED_MARKER_POSITION (R285). -/
def execExpectedMarkerPosition (lane : Fin 4) (t : Nat) (s : State) : Host.Outcome State Fault Refusal :=
  s.logic t fun d => expectedMarkerEff d lane

/-- FRAME_START (R282). -/
def execFrameStart (port : Port) (t : Nat) (s : State) : Host.Outcome State Fault Refusal :=
  s.logic t fun d => frameStartEff d port

/-- MESSAGE_RECEIVED (R290). -/
def execMessageReceived (port : Port) (msg : Msg) (crc t : Nat) (s : State) :
    Host.Outcome State Fault Refusal := s.logic t fun d => messageReceivedEff d port msg crc

/-- LINK_ACKNOWLEDGEMENT (R292). -/
def execLinkAcknowledgement (port : Port) (cls seq t : Nat) (s : State) : Host.Outcome State Fault Refusal :=
  s.logic t fun d => linkAckEff d port cls seq

/-- LINK_NEGATIVE_ACKNOWLEDGEMENT (R292). -/
def execLinkNegativeAcknowledgement (port : Port) (cls _seq t : Nat) (s : State) : Host.Outcome State Fault Refusal :=
  s.logic t fun d => linkResendEff d port cls

/-- LINK_BUSY (R292). -/
def execLinkBusy (port : Port) (cls _seq t : Nat) (s : State) : Host.Outcome State Fault Refusal :=
  s.logic t fun d => linkBusyEff d port cls

/-- REPLAY_TIMEOUT (R292). -/
def execReplayTimeout (port : Port) (cls t : Nat) (s : State) : Host.Outcome State Fault Refusal :=
  s.logic t fun d => replayTimeoutEff d port cls

/-- BUSY_WAIT_END (R292). -/
def execBusyWaitEnd (port : Port) (cls t : Nat) (s : State) : Host.Outcome State Fault Refusal :=
  s.logic t fun d => busyWaitEndEff d port cls

/-- SEGMENT_TIMEOUT (R295). -/
def execSegmentTimeout (source t : Nat) (s : State) : Host.Outcome State Fault Refusal :=
  s.logic t fun d => segmentTimeoutEff d source

/-- GUEST_MESSAGE_TIMEOUT (R299). -/
def execGuestMessageTimeout (port : Port) (t : Nat) (s : State) : Host.Outcome State Fault Refusal :=
  s.logic t fun d => guestTimeoutEff d port

/-- ERROR_RATE_ALARM (R298). -/
def execErrorRateAlarm (lane : Fin 4) (errored t : Nat) (s : State) : Host.Outcome State Fault Refusal :=
  s.logic t fun d => errorRateAlarmEff d lane errored

/-- RETRAIN_ATTEMPT (R298). -/
def execRetrainAttempt (lane : Fin 4) (t : Nat) (s : State) : Host.Outcome State Fault Refusal :=
  s.logic t fun d => retrainAttemptEff d lane

/-- RETRAIN_TIMEOUT (R298). -/
def execRetrainTimeout (lane : Fin 4) (t : Nat) (s : State) : Host.Outcome State Fault Refusal :=
  s.logic t fun d => retrainTimeoutEff d lane

/-- LANE_REINSTATE (R298). -/
def execLaneReinstate (lane : Fin 4) (t : Nat) (s : State) : Host.Outcome State Fault Refusal :=
  s.logic t fun d => laneReinstateEff d lane

/-- RETIRED_LANE_RETEST_WRITE (R298): a write to 0x2900:03. -/
def execRetiredLaneRetestWrite (acc : Accessor) (v : Int) (s : State) : Host.Outcome State Fault Refusal :=
  s.logicNow fun d => d.writeObject acc 0x290003 (.num v) false none (laneRetestAct v)

/-- PORT_TRAINING_TIMEOUT (R300). -/
def execPortTrainingTimeout (port : Port) (t : Nat) (s : State) : Host.Outcome State Fault Refusal :=
  s.logic t fun d => portTrainingEff d port

end Sys2Proof.Machine
end

