-- ==== Sys2Proof/Machine/Chain.lean ====
section
/-! DEFINITION. The Ulard chain (chapter 13): enumeration, orientation, hop delay, lead failover and sweeps. -/

namespace Sys2Proof.Machine

/-! ### The chain table -/

/-- R312: the order of a node in the rotation: devices by position, then guests by number. -/
def nodeKey (n : TableNode) : Nat := if n.kind = 0 then n.position else 32 + n.position

/-- R312: give every node its rotation index: its place among the present nodes without the lead. -/
def rotated (lead : Nat) (ns : List TableNode) : List TableNode :=
  let others := ns.filter fun n => nodeKey n ≠ lead
  ns.map fun n => { n with rotation := if nodeKey n = lead then 255 else (others.filter fun x => nodeKey x < nodeKey n).length }

/-- R327: the number of a guest by the guest table. -/
def Dev.guestNumber (d : Dev) (identity : Nat) : Option Nat :=
  ((List.range 16).find? fun g => identity ≠ 0 && d.nat (adr (0x2A10 + g) 1) = identity)

/-- R304, R327: add the reports, oldest first: devices at their positions, guests under their numbers; answers the nodes
and whether one lay beyond a limit. -/
def Dev.addReporter (d : Dev) : List NodeReport → List TableNode → Bool → List TableNode × Bool
  | [], ns, beyond => (ns, beyond)
  | r :: rs, ns, beyond =>
    let node := fun (p : Nat) => (⟨r.identity, r.kind, p, r.arm, r.hops, 0⟩ : TableNode)
    if r.kind = 0 then
      if r.position < 32 then d.addReporter rs (ns ++ [node r.position]) beyond else d.addReporter rs ns true
    else
      let free := (List.range 16).find? fun g =>
        d.nat (adr (0x2A10 + g) 1) = 0 && !ns.any fun n => n.kind ≠ 0 && n.position = g
      match d.guestNumber r.identity <|> free with
      | some g => d.addReporter rs (ns ++ [node g]) beyond
      | none => d.addReporter rs ns true

/-- Present-device map of a table. -/
def mapOf (ns : List TableNode) : Nat :=
  (List.range 32).foldl (fun m p => if ns.any (fun n => n.kind = 0 && n.position = p) then m + 2 ^ p else m) 0

/-- Present guests of a table. -/
def guestsOf (ns : List TableNode) : Nat :=
  (List.range 16).foldl (fun m p => if ns.any (fun n => n.kind ≠ 0 && n.position = p) then m + 2 ^ p else m) 0

/-- The longest path of a table, in hops. -/
def longest (ns : List TableNode) : Nat := ns.foldl (fun m n => max m n.hops) 0

/-- R321: the takeover wait, frames: in a ring for the way round from the lead's other port. -/
def Dev.takeoverWait (d : Dev) : Nat := if d.ch.ring then max 3 ((6100 + 1784 * d.ringNodes + 15999) / 16000) else 3

/-- R305, Table 16.10: a device takes its position: the global outlet numbers follow, and a position that differs from the
expected one raises its event. -/
def Dev.takePosition (d : Dev) (p : Nat) : Dev :=
  let d := d.put 0x2A0002 p
  let d := (List.finRange 32).foldl (fun (d : Dev) (n : Fin 32) =>
    d.put (outletAdr n 0x17) (if p < 32 then 32 * p + n else 0xFFFF : Nat)) d
  let e := d.nat 0x2A0003
  let wrong := decide (p < 32) && e ≠ 255 && e ≠ p
  let was := d.ch.mismatch
  let d := { d with ch := { d.ch with mismatch := wrong } }
  if wrong && !was then d.raise 0x0D05 1 0xFFFF [(6, p)]
  else if was && !wrong then d.raise 0x0D05 2 0xFFFF [(6, p)]
  else d

/-- R419: the entries that replay set aside: the lead acts on them, any other device drops them. -/
def Dev.settleAside (d : Dev) : Dev :=
  if d.jrn.setAside = [] then d
  else if d.isLead then
    let opens := d.jrn.setAside.foldl replayOpen []
    let all := d.jrn.setAside
    let d := { d with jrn := { d.jrn with setAside := [], openEntries := d.jrn.openEntries ++ opens } }
    let d := d.replayTargets opens all
    let again := fun (d : Dev) (e : JEntry) => match e.kind, e.payload with
      | 12, .write a v =>
        { d with dic := { d.dic with
          aggSeqs := if h : e.subKey < 32 then d.dic.aggSeqs.set e.subKey e.seq else d.dic.aggSeqs
          nextTag := u16 (d.dic.nextTag + 1)
          remotes := d.dic.remotes ++ [⟨e.subKey, ⟨d.dic.nextTag, 2, 3, a, e.seq, v⟩, d.time.now, false, none, none, true, none⟩] } }
      | 4, .tile c => { d with que := { d.que with pages := d.que.pages ++ [c] } }
      | _, _ => d
    (opens.foldl again d).sendRemotes
  else ({ d with jrn := { d.jrn with setAside := [] } } : Dev).putBit 0x320004 6 true

/-- R304, R307: take a chain table: the device's arm, hops and role, the chain's map, guests and epoch, and, after a
reversal, the original orientation. -/
def Dev.takeTable (d : Dev) (nodes : List TableNode) (epoch standby map : Nat) : Dev :=
  let mine := nodes.find? fun n => n.kind = 0 &&
    (if d.position < 32 then n.position = d.position else n.identity = Config.nodeIdentity)
  let d := match mine with
    | some n =>
      let d := { d with ch := { d.ch with arm := n.arm, hops := n.hops } }
      if d.position < 32 then d else d.takePosition n.position
    | none => d
  let before := d.seq.map
  let first := !d.ch.enumerated
  let d := { d with
    ch := { d.ch with
      table := nodes, enumerated := true, guests := guestsOf nodes
      ring := if d.isLead then d.ch.ring else Config.tableRing nodes
      upstream := if d.ch.reversed then d.ch.original else d.ch.upstream, reversed := false }
    seq := { d.seq with map := map, mapNext := none, running := d.seq.running && !first, synced := d.seq.synced && !first } }
  let role := d.nat 0x2A0001
  let d := if role = 0 || role = 2 then d.put 0x2A0001 (if standby = d.position then 2 else 0) else d
  let d := ((d.put 0x2A0010 (longest nodes)).put 0x2A000C d.takeoverWait).newEpoch epoch
  let d := if first then d.settleAside else d
  if d.seq.running && before ≠ map then d.rehome before else d

/-- R303: the standby that the lead's live set names, where it is present. -/
def Dev.standby (d : Dev) : Nat :=
  let p := d.nat 0x2A0008
  if d.ch.table.any (fun n => n.kind = 0 && n.position = p) then p else 255

/-! ### Enumeration -/

/-- R306: a device that acts as lead hears of another: the conflict is raised once. -/
def Dev.rivalHeard (d : Dev) : Dev :=
  let was := d.ch.conflict
  let d := { d with ch := { d.ch with
    conflict := true, rival := true, retryAt := if was then d.ch.retryAt else d.time.now + 1000000000 } }
  if was then d else d.raise 0x0D04 1 0xFFFF []

/-- R304, R306: a probe arrives. The lead takes its own probe of port A on port B as the ring's closing; a device strapped
as lead that gets another's reports itself and forwards nothing; a wheeler takes its place and forwards the probe. -/
def enumerationProbeEff (d : Dev) (p : Port) (number : Nat) (arm : Port) (hops : Nat) : Dev :=
  if d.seq.running then d
  else if d.pins.role then
    if d.ch.probedA && p = .b && arm = .a && 1 < hops then
      { d with ch := { d.ch with ring := true, probedB := true, lastReport := d.time.now } }
    else d.rivalHeard.sendReport d.ownReport.position
  else
    let q := otherPort p
    let d := { d with ch := { d.ch with upstream := some p, original := some p, arm := arm, hops := hops } }
    let d := if number < 32 then d.takePosition number else d.takePosition 255
    let d := if d.portUp q then d.sendEnumeration (some q) 0 (hops + 1) (probeFields (number + 1) arm) else d
    d.sendReport number

/-- R312: the lead's record of a node's reports. -/
def putReport (r : NodeReport) (t : Nat) : List (NodeReport × Nat) → List (NodeReport × Nat)
  | [] => [(r, t)]
  | x :: xs => if x.1.identity = r.identity then (r, t) :: xs else x :: putReport r t xs

/-- Set or clear a bit of a mask. -/
def maskBit (m k : Nat) (b : Bool) : Nat :=
  if b then (if m.testBit k then m else m + 2 ^ k) else if m.testBit k then m - 2 ^ k else m

/-- R331, R324: the lead reads an object of another device for itself. -/
def Dev.ask (d : Dev) (p a k : Nat) : Dev :=
  let again := d.dic.remotes.any fun r => r.position = p && r.req.address = a && r.req.command = 1
  if again then d
  else
    ({ d with dic := { d.dic with
      nextTag := u16 (d.dic.nextTag + 1)
      remotes := d.dic.remotes ++ [⟨p, ⟨d.dic.nextTag, 1, 3, a, 0, .num 0⟩, d.time.now, false, none, some (.internal k), true, none⟩] } } : Dev).sendRemotes

/-- R312, R324: a node that had gone missing reports again: it is present. -/
def Dev.nodeBack (d : Dev) (n : TableNode) : Dev :=
  if n.kind = 0 then
    if d.ch.missing.testBit n.position then
      let d := { d with
        ch := { d.ch with missing := maskBit d.ch.missing n.position false }
        seq := { d.seq with mapNext := some (maskBit d.seq.nextMap n.position true) } }
      d.raise 0x0D01 2 n.position [(6, n.position)]
    else d
  else if d.ch.missingGuests.testBit n.position then
    ({ d with ch := { d.ch with
      missingGuests := maskBit d.ch.missingGuests n.position false
      guests := maskBit d.ch.guests n.position true } } : Dev).raise 0x0D01 2 (32 + n.position) [(6, n.position)]
  else d

/-- R312, R430, R435, R452, R324, Table 13.1: what the status bits of a report tell the lead. A rejoining device that has no
position yet is sent the chain table first. -/
def Dev.reportBits (d : Dev) (p : Nat) (r : NodeReport) : Dev :=
  let d := { d with hlt := { d.hlt with
    enforcePositions := maskBit d.hlt.enforcePositions p r.enforcing
    replacePositions := maskBit d.hlt.replacePositions p r.replaceMe } }
  let d := if r.notices then d.ask p 0x2F0201 3 else d
  let d := if r.ready then (if h : p < 32 then d.takeReport ⟨p, h⟩ true else d) else d
  if !r.rejoining then d
  else if 32 ≤ r.position then d.sendEnumeration none 2 0 (tableFields d.ch.table)
  else d.ask p 0x181003 2

/-- R304, R306, R312, R324: a report reaches the lead. -/
def enumerationReportEff (d : Dev) (r : NodeReport) : Dev :=
  if !d.isLead then d
  else if r.kind = 0 && r.position = 0 then (if d.ch.enumerated then d else d.rivalHeard)
  else if !d.ch.enumerated then
    let new := !d.ch.reports.any fun x => x.1.identity = r.identity
    { d with ch := { d.ch with
      reports := putReport r d.time.now d.ch.reports, lastReport := if new then d.time.now else d.ch.lastReport } }
  else
    match d.ch.table.find? fun n => n.identity = r.identity with
    | none => d
    | some n =>
      let d := { d with ch := { d.ch with reports := putReport r d.time.now d.ch.reports } }
      let d := d.nodeBack n
      if n.kind = 0 then d.reportBits n.position r else d

/-- R304, R354: form the chain from the reports, broadcast its table and raise the epoch; the guests' objects follow. Before
chain time is seeded the table is held. -/
def Dev.formChain (d : Dev) : Dev :=
  if !d.time.seeded then { d with ch := { d.ch with tableHeld := true } }
  else
  let r := d.addReporter (d.ch.reports.map fun x => x.1) [] false
  let self : TableNode := ⟨Config.nodeIdentity, 0, 0, .a, 0, 255⟩
  let nodes := rotated 0 (self :: r.1)
  let wasConflict := d.ch.conflict
  let d := { d with ch := { d.ch with limit := r.2, conflict := false, tableHeld := false, hops := 0, table := nodes, missing := 0, missingGuests := 0 } }
  let d := d.takePosition 0
  let epoch := u32 (d.nat 0x22010E + 1)
  let guests := fun (d : Dev) (n : TableNode) =>
    if n.kind = 0 then d
    else
      let rate := (d.ch.reports.find? fun x => x.1.identity = n.identity).map fun x => x.1.guestRate
      (d.put (adr (0x2A10 + n.position) 3) (rate.getD 0)).put (adr (0x2A10 + n.position) 4) n.kind
  let d := nodes.foldl guests d
  let d := (d.takeTable nodes epoch d.standby (mapOf nodes)).keepObject 0x22010E
  let d := d.sendEnumeration none 2 0 (tableFields nodes)
  if wasConflict then d.raise 0x0D04 2 0xFFFF [] else d

/-- R354: once chain time is seeded, a table that was held is broadcast. -/
def Dev.releaseTable (d : Dev) : Dev := if d.ch.tableHeld && d.time.seeded && !d.ch.rival then d.formChain else d

/-- R304: 20 ms after the last new report: the other arm is probed where it has not been, or the chain is formed; with a
conflicting lead it is not (R306). -/
def reportWaitEff (d : Dev) : Dev :=
  if !d.isLead || d.ch.enumerated || d.ch.rival || d.time.now < d.ch.lastReport + 20000000 then d
  else if !d.ch.probedA && d.portUp .a then d.probe .a
  else if !d.ch.probedB && d.portUp .b then d.probe .b
  else d.formChain

/-- R306: the conflicting leads try again every 1 s. -/
def enumerationRetryEff (d : Dev) : Dev :=
  if d.isLead && d.ch.conflict && !d.ch.enumerated && d.ch.retryAt ≤ d.time.now then
    let d := { d with ch := { d.ch with
      retryAt := d.time.now + 1000000000, rival := false, probedA := false, probedB := false, reports := [], ring := false, lastReport := d.time.now } }
    if d.portUp .a then d.probe .a else if d.portUp .b then d.probe .b else d
  else d

/-- R324: a chain table at a device. -/
def chainTableEff (d : Dev) (nodes : List TableNode) (epoch standby map : Nat) : Dev :=
  if d.isLead then d else d.takeTable nodes epoch standby map

/-! ### Presence at the lead's boundary -/

/-- R312, R326: the lead marks missing what has sent no report in 3 turns, in a running sweep too. -/
def Dev.missingCheck (d : Dev) : Dev :=
  let turn := 1600 * max 1 d.ringNodes
  let one := fun (d : Dev) (n : TableNode) =>
    let last := ((d.ch.reports.find? fun x => x.1.identity = n.identity).map fun x => x.2).getD 0
    let late := last + 3 * turn < d.time.now && nodeKey n ≠ d.position
    if !late then d
    else if n.kind = 0 then
      if d.ch.missing.testBit n.position || !d.seq.nextMap.testBit n.position then d
      else
        (({ d with
          ch := { d.ch with missing := maskBit d.ch.missing n.position true }
          seq := { d.seq with mapNext := some (maskBit d.seq.nextMap n.position false) } } : Dev).sweepBreak fun q => decide (q = n.position)).raise
          0x0D01 1 n.position [(6, n.position)]
    else if d.ch.missingGuests.testBit n.position then d
    else
      ({ d with ch := { d.ch with
        missingGuests := maskBit d.ch.missingGuests n.position true
        guests := maskBit d.ch.guests n.position false } } : Dev).raise 0x0D01 1 (32 + n.position) [(6, n.position)]
  if d.isLead && d.ch.enumerated then d.ch.table.foldl one d else d

/-- R319: at the boundary after RING_RESTORE the lead restores the original orientation and broadcasts the table. -/
def Dev.restoreRing (d : Dev) : Dev :=
  if !d.ch.restore then d
  else
    let table := d.ch.table.map fun n => if n.arm = .b then { n with arm := .a, hops := d.otherWay n.hops } else n
    let d := { d with ch := { d.ch with restore := false, reversed := false, table := table } }
    (d.sendEnumeration none 2 0 (tableFields table)).raise 0x0D02 2 0xFFFF [(6, d.position)]

/-! ### Breaks, echo, batch sync -/

/-- R317, R321: a break notice from a node: a position, or 32 and more for a guest. The standby notes that the lead is
alive. -/
def breakNoticeEff (d : Dev) (position : Nat) : Dev :=
  let d := if position = d.seq.leadAt then { d with ch := { d.ch with leadAlive := true } } else d
  match d.ch.table.find? fun n => nodeKey n = position with
  | some n => if n.arm = .a then d.takeBreak n.hops position else d
  | none => d

/-- R319: the broken segment has held Sync for 1 s. -/
def ringRestoreEff (d : Dev) : Dev :=
  if d.isLead && d.ch.ring && d.ch.reversed then { d with ch := { d.ch with restore := true } } else d

/-- R314: once in 625 frames an echo request on each port that is up, with the counter and the departure of the latest
marker. -/
def echoPeriodEff (d : Dev) : Dev :=
  let frame := d.chain / 1600
  let one := fun (d : Dev) (p : Port) =>
    if d.portUp p && (d.port p).echoAt.all fun t => t + 1000000 ≤ d.time.now then
      (d.setPort p fun x => { x with echoAt := some d.time.now }).send (.echo p 0 (echoRequestBody (frame % 65536) (1600 * frame)))
    else d
  one (one d .a) .b

/-- R314: the arrival, in chain time, of the marker of a counter at a port: that of the latest, and one frame less for each
counter before it. -/
def Dev.arrivalOf (d : Dev) (p : Port) (counter : Nat) : Int :=
  let l := d.lane (if (d.lane (laneOf p 0)).align = 3 then laneOf p 0 else laneOf p 1)
  l.instant + d.time.offset - 1600 * nearestOf 65536 (l.counter - counter)

/-- R314: answer an echo request. -/
def echoRequestEff (d : Dev) (p : Port) (id : Nat) : Dev :=
  let frame := d.chain / 1600
  if d.portUp p then d.send (.echo p 1 (echoResponseBody id (d.arrivalOf p id) (frame % 65536) (1600 * frame))) else d

/-- The mean of a list of delays. -/
def meanOf (l : List Int) : Int := if l = [] then 0 else l.foldl (· + ·) 0 / l.length

/-- R314: a link delay value joins the last 16; one more than 2 ns off their mean is ignored, and the fourth such in a row
restarts the mean. -/
def PortLink.delayValue (x : PortLink) (v : Int) : PortLink :=
  if x.delays ≠ [] && 2000 < (v - meanOf x.delays).natAbs then
    let odd := v :: x.odd
    if 4 ≤ odd.length then { x with delays := odd, odd := [] } else { x with odd := odd }
  else { x with delays := (v :: x.delays).take 16, odd := [] }

/-- R314: an echo response: the link delay's value and the neighbour's offset. -/
def echoResponseEff (d : Dev) (p : Port) (x : EchoTimes) : Dev :=
  if !d.portUp p then d
  else
    let d := d.setPort p fun y => { y.delayValue ((x.there + x.back) / 2) with theta := (x.there - x.back) / 2 }
    (d.put (adr 0x2A01 (1 + portIx p)) (clampI 0 4294967295 (meanOf (d.port p).delays))).bump 0x2A0105

/-- R43, R139: a wheeler takes the batch number at enumeration and after re-lock, and the present-device map, from which
it computes the homes again. -/
def batchSyncEff (d : Dev) (number map : Nat) : Dev :=
  if d.isLead || !d.ch.enumerated then d
  else
    let before := d.seq.map
    let d := { d with seq := { d.seq with
      number := if d.seq.synced then d.seq.number else u32 number, synced := true, map := map, mapNext := none } }
    if before = map then d else d.rehome before

/-! ### Standby and takeover -/

/-- R320: a whole mirror at the standby. -/
def standbyMirrorEff (d : Dev) (m : Mirror) : Dev :=
  if d.nat 0x2A0001 = 2 then ({ d with ch := { d.ch with mirror := some m } } : Dev).put 0x2A0106 m.batch else d

/-- R320: at a boundary the standby counts a batch whose mirror it has not received whole. -/
def Dev.mirrorCheck (d : Dev) : Dev :=
  if d.nat 0x2A0001 = 2 && !(d.ch.mirror.any fun m => u32 (m.batch + 1) = d.seq.number || m.batch = d.seq.number) then d.bump 0x2A0107 else d

/-- R322: where a node of the table lies after position `s` has become the lead: `away` is the new lead's port away from
the old one, `back` the port towards it; in a ring whose far end it was, the way round is taken from its other side. -/
def reoriented (s : TableNode) (far : Bool) (n : Nat) (away back : Port) (x : TableNode) : TableNode :=
  if nodeKey x = nodeKey s then { x with hops := 0, arm := away }
  else if far then
    if x.hops = 0 then { x with hops := 1, arm := back } else { x with hops := n - x.hops, arm := away }
  else if x.arm = s.arm && s.hops < x.hops then { x with hops := x.hops - s.hops, arm := away }
  else { x with hops := x.hops + s.hops, arm := back }

/-- R322, R351: every node reorients towards a new lead; a wheeler's moving baseline refers to its antenna from now on, so the
ambiguities restart. -/
def Dev.orientTo (d : Dev) (p : Nat) : Dev :=
  let d := { d with gnss := { d.gnss with baseRtk := {}, baseFixed := false } }
  match d.ch.table.find? fun n => n.kind = 0 && n.position = p with
  | none => { d with seq := { d.seq with leadAt := p } }
  | some s =>
    let n := d.ringNodes
    let far := d.ch.ring && !d.ch.reversed && s.hops = n && 1 < n
    let towardsOld := if far then d.ch.upstream.map otherPort else d.ch.upstream
    let back := if p = d.position then towardsOld.getD .a else .b
    let table := rotated p (d.ch.table.map (reoriented s far n (otherPort back) back))
    let mine := table.find? fun x => x.kind = 0 && x.position = d.position
    let flips := far && !d.isLead && p ≠ d.position
    { d with
      seq := { d.seq with leadAt := p }
      ch := { d.ch with
        table := table
        upstream := if p = d.position then none else if d.isLead then some (if far then .b else s.arm)
          else if flips then d.ch.upstream.map otherPort else d.ch.upstream
        arm := (mine.map fun x => x.arm).getD d.ch.arm, hops := (mine.map fun x => x.hops).getD d.ch.hops } }

/-- Table 2.5, R491: what the new lead does with a pending swap. -/
def Dev.takeoverSwap (d : Dev) (m : Mirror) : Dev :=
  let d := { d with swap := { d.swap with nextNumber := u16 (m.swapSet + 1) } }
  match m.swapBatch with
  | none =>
    { d with swap := { d.swap with
      counts := m.counts, first := if m.counts.toList.any (· ≠ 0) then some d.seq.number else none } }
  | some s =>
    let held := decide (d.swap.go = some s)
    let period := (d.swap.announced.map fun a => a.period).getD d.nextPeriod
    let set : SwapSet := ⟨s, m.swapSet, period, m.counts, m.ready.map fun b => if b then some true else none, m.postponements, held⟩
    let ours := { d with swap := { d.swap with set := some set } }
    if !ahead s d.seq.number then d
    else if s = u32 (d.seq.number + 1) then
      if d.seq.phase = 3 then ours
      else if held then ((ours.send (.swapGo s)).send (.swapGo s)).send (.swapGo s)
      else ours.cancelSet
    else ours

/-- R418: the open lead-role entries go into the takeover batch's group as carried copies, the sequences become the new
lead's own, and every unconfirmed forward is sent again; its own counts as confirmed where it is a duplicate. -/
def Dev.takeoverJournal (d : Dev) (m : Mirror) : Dev :=
  let takes := fun (s : Nat) => (0x10 ≤ s && s ≤ 0x14) || (0x18 ≤ s && s ≤ 0x1F)
  let seqs := (m.sequences.filter fun x => takes x.1).foldl (fun l x => advanceKey (x.1, x.2.1) x.2.2 l) d.jrn.seqs
  let aggs := (m.sequences.filter fun x => x.1 = 0x14).foldl (fun (v : Vector Nat 32) x =>
    if h : x.2.1 < 32 then v.set x.2.1 x.2.2 else v) d.dic.aggSeqs
  let last := fun (s : Nat) => (m.sequences.find? fun x => x.1 = s).map fun x => x.2.2
  let d := { d with jrn := { d.jrn with seqs := seqs }, dic := { d.dic with aggSeqs := aggs } }
  let d := match last 0x11 with
    | some q => (d.put 0x110004 q).put 0x110003 (u32 (q + 1))
    | none => d
  let d := match last 0x12 with
    | some q => d.put 0x2C3006 (u32 (q + 1))
    | none => d
  let one := fun (d : Dev) (x : Nat × Nat × Nat × Val) =>
    let (p, a, q, v) := x
    if p = d.position then
      if seqFresh d (0x14, 0) q then (d.writeWith (.mgmt 3) a v q false none id).2 else d
    else
      let e := { d.entry 12 0x14 q p true (.write a v) with carried := true }
      let d := { d with
        jrn := { d.jrn with reserved := d.jrn.reserved ++ [e], openEntries := d.jrn.openEntries ++ [e] }
        dic := { d.dic with
          nextTag := u16 (d.dic.nextTag + 1)
          remotes := d.dic.remotes ++ [⟨p, ⟨d.dic.nextTag, 2, 3, a, q, v⟩, d.time.now, false, none, none, true, none⟩] } }
      d
  m.openForwards.foldl one d

/-- R326: the new lead takes the sweep over: what is not done has lost its path for the moment. -/
def Dev.takeoverSweep (d : Dev) (m : Mirror) : Dev :=
  let running := m.sweepState = 1 || m.sweepState = 2
  { d with swp := { d.swp with
    kind := m.sweepKind, batch := m.sweepBatch, state := if running then 2 else m.sweepState, current := none
    record := m.sweepRecord.map fun e => { e with outcome := if e.outcome = 0 then 2 else e.outcome } } }

/-- R79: the new lead's own sensor delivers: a FREQ input with the function has a frequency, the IMU has written samples. -/
def Dev.ownSensor (d : Dev) : PoseSource → Bool
  | .radar => (d.inputSpeed 1).isSome
  | .wheel => (d.inputSpeed 2).isSome
  | .imu => d.int 0x20030D ≠ d.pose.imuCount
  | _ => true

/-- R79: the radar, wheel speed and IMU of the failed lead's pins are lost, unless the sensor is also wired to the new lead. -/
def Dev.lostSensors (d : Dev) (m : Mirror) : Dev :=
  [PoseSource.imu, .radar, .wheel].foldl (fun d k =>
    if m.sources[sourcePlace k] && d.sourceEnabled k && !(d.source k).valid && !d.ownSensor k then
      (d.setSource k fun x => { x with seen := true }).sourceEvent k true
    else d) d

/-- R171, R322, R416: what the new lead adopts from the mirror. -/
def Dev.adoptMirror (d : Dev) (m : Mirror) (old : Nat) : Dev :=
  let d := { d with
    obj := m.leadLive.foldl (fun o x => storeSet o x.1 x.2) d.obj
    swap := { d.swap with adopted := m.leadProof.foldl (fun o x => storePut o x.1 x.2) d.swap.adopted } }
  let d := (List.finRange 8).foldl (fun (d : Dev) (k : Fin 8) => d.put (adr 0x2101 (1 + k)) m.sections[k]) d
  let d := d.store fun s => { s with window := m.window.map fun w => ⟨w.1, w.2.1, d.time.now, none, w.2.2⟩ }
  let d := { d with pose := { d.pose with spans := m.spans, spansNext := m.spans, history := m.history } }
  let d := ((d.takeoverSwap m).takeoverJournal m).takeoverSweep m
  ((d.takeoverTargets m ⟨old % 32, Nat.mod_lt _ (by omega)⟩).lostSensors m).sendRemotes

/-- R322, R323: the standby becomes the lead, with `failed` where the old lead counts as failed: it is marked missing, and
in a linear chain the chain counts as split. -/
def Dev.takeRole (d : Dev) (failed : Bool) : Dev :=
  let old := d.seq.leadAt
  let towards := d.ch.upstream
  let d := d.orientTo d.position
  let d := ((d.put 0x2A0001 3).bump 0x2A000E).sendEnumeration none 4 0 (takeoverFields d.position d.seq.number d.chain)
  let d := { d with
    time := { d.time with state := 1, slewLeft := 0, slewing := false, relocked := false, lostEnds := true }
    hlt := { d.hlt with periodDoubled := d.setPeriod ≠ (d.proofInt 0x180001).toNat }
    pose := { d.pose with spansNext := d.pose.spans } }
  let d := if failed then
      { d with
        ch := { d.ch with split := !d.ch.ring, splitPort := if d.ch.ring then none else towards, ring := false, missing := maskBit d.ch.missing old true }
        seq := { d.seq with mapNext := some (maskBit d.seq.nextMap old false) } }
    else d
  let d := d.raise 0x0D03 0 0xFFFF [(6, d.position)]
  let d := if failed then (d.fault 5 true old).raise 0x0D01 1 old [(6, old)] else d
  let d := match d.ch.mirror with
    | some m => d.adoptMirror m old
    | none => d
  if d.seq.phase = 0 then
    let d := d.takeMap
    d.send (.batchSync d.seq.number d.seq.t0 d.seq.map)
  else d

/-- R321: the latest marker at a port, in device time. -/
def Dev.lastMarker (d : Dev) (p : Port) : Nat := max (d.lane (laneOf p 0)).instant (d.lane (laneOf p 1)).instant

/-- R321: the next lead marker is missing: 1,150 ns have passed since its expected arrival. -/
def Dev.markerDue (d : Dev) : Bool :=
  match d.ch.upstream with
  | some p => d.lastMarker p + 1600 * (d.ch.silent + 1) + 1150 ≤ d.time.now
  | none => true

/-- R321: one more lead marker is missing at the standby; after the takeover wait, and with no break notice from the lead
itself, it takes over. -/
def markerMissingEff (d : Dev) : Dev :=
  if d.nat 0x2A0001 ≠ 2 || !d.markerDue then d
  else
    let n := d.ch.silent + 1
    let d := { d with ch := { d.ch with silent := n } }
    if d.nat 0x2A000C ≤ n && !d.ch.leadAlive then d.takeRole true else d

/-- R322, R323: a takeover notice: the named standby takes the role at batch N + 2, every other node reorients. -/
def takeoverNoticeEff (d : Dev) (p : Nat) : Dev :=
  if !d.ch.enumerated then d
  else if p = d.position then
    if d.isLead then d else { d with ch := { d.ch with takeAt := some (u32 (d.seq.number + 2)) } }
  else if d.isLead then d
  else d.orientTo p

/-- R40: a lead that becomes a wheeler keeps its chain time and follows the new lead's markers until it meets the locked
condition (log entry 105). -/
def Dev.followTime (d : Dev) : Dev :=
  { d with
    time := { d.time with state := 4, holdoverAt := d.time.now, relocked := true, slewLeft := 0, slewing := false }
    link := { d.link with filtered := 0, steady := 0, rest := 0 } }

/-- R323: the role change of a planned handover, at its boundary: the old lead becomes a wheeler, the standby the lead. -/
def Dev.handover (d : Dev) : Dev :=
  let d := if d.seq.giveUp = some d.seq.number then
      let p := d.nat 0x2A0008
      ((({ d with seq := { d.seq with giveUp := none, synced := true } } : Dev).orientTo p).put 0x2A0001 0).followTime
    else d
  if d.ch.takeAt = some d.seq.number then ({ d with ch := { d.ch with takeAt := none } } : Dev).takeRole false else d

/-! ### Sweeps (R325, R326) -/

/-- R325: the condition of a sweep kind: delay calibration needs every used outlet below its minimum speed and the work
switch inactive. -/
def Dev.sweepAllowed (d : Dev) (kind : Nat) : Bool :=
  kind ≠ 1 || (!d.pose.boom.work && d.usedOutlets.all fun n => d.alongTrack d.pose.boom n < d.int 0x200005)

/-- Table 13.7, kind 1: the output tests of a used outlet: its place among the used outlets of its bank gives its start. -/
def Dev.testPlan (d : Dev) (n : Fin 32) : List (Nat × Bool) :=
  let on := 1000 * d.nat 0x2A2005
  let cycles := d.nat 0x2A2006
  let place := (d.usedOutlets.filter fun m => m.val / 8 = n.val / 8 && m.val < n.val).length
  let start := d.seq.t0 + 3 * d.periodNs + place * (2 * cycles * on)
  (List.range cycles).flatMap fun c => [(start + 2 * c * on, true), (start + (2 * c + 1) * on, false)]

/-- R325, Table 13.7, kind 3: what the current batch shows: positions of the used outlets and segment deflections. The manual
does not lay them out (log entry 140). -/
def Dev.shapeBytes (d : Dev) : List Byte :=
  Config.shapeResult (d.usedOutlets.map fun n => (n.val, d.int (outletAdr n 0x0B), d.int (outletAdr n 0x0C))) d.pose.boom.deflection.toList

/-- R325, Table 13.7, kind 3: at the status snapshot of the named batch, or the first one after it, the shape is kept for the
result (log entry 140). -/
def Dev.takeShape (d : Dev) : Dev :=
  if d.swp.step = 1 && d.swp.stepKind = 3 && !ahead d.swp.stepBatch d.seq.number && d.swp.shape.isNone then
    { d with swp := { d.swp with shape := some d.shapeBytes } }
  else d

/-- R325: a step starts on this device. The off-state tests of kind 2 may run at once. -/
def Dev.startStep (d : Dev) (kind batch : Nat) : Dev :=
  let d := { d with swp := { d.swp with
    step := 1, result := [], stepKind := kind, stepBatch := batch, stepAt := d.chain, shape := none } }
  if kind = 2 then
    { d with
      valve := { d.valve with channels := d.valve.channels.map fun c => { c with testedAt := none } }
      lsw := { d.lsw with switches := d.lsw.switches.map fun c => { c with testedAt := none } } }
  else if kind = 1 then
    let used := d.usedOutlets
    used.foldl (fun (d : Dev) (n : Fin 32) =>
      let plan := d.testPlan n
      { d with dec := { d.dec with outlets := updateAt d.dec.outlets n fun x => { x with testing := true, tests := plan } } }) d
  else d

/-- The value of a step request: kind, 3 reserved bytes, batch. -/
def stepBytes (kind batch : Nat) : List Byte := leBytes 1 kind ++ leBytes 3 0 ++ leBytes 4 batch

/-- Update the entry of a position of the sweep record. -/
def Dev.sweepEntry (d : Dev) (p : Nat) (f : SweepEntry → SweepEntry) : Dev :=
  { d with swp := { d.swp with record := d.swp.record.map fun e => if e.position = p then f e else e } }

/-- Table 13.8: the path byte of a result. -/
def Dev.pathByte (d : Dev) (p : Nat) : Nat :=
  let port := if p = d.position then 0 else match d.portTo p with | some .a => 1 | some .b => 2 | none => 0
  port + (if d.ch.reversed then 4 else 0) + (if d.nat 0x2A0001 = 3 then 8 else 0)

/-- R325: deliver the step to a position: to the device itself, or by a write of the aggregator. -/
def Dev.deliverStep (d : Dev) (p : Nat) : Dev :=
  let d := d.sweepEntry p fun e => { e with attempts := min 255 (e.attempts + 1), start := d.chain }
  if p = d.position then d.startStep d.swp.kind d.swp.batch
  else d.tell p 0x2A2101 (.bytes (stepBytes d.swp.kind d.swp.batch))

/-- R326: the missing device to resume with: reachable again, on the fewest hops. -/
def Dev.resumeNext (d : Dev) : Option Nat :=
  let hops := fun (p : Nat) => ((d.ch.table.find? fun n => n.kind = 0 && n.position = p).map fun n => n.hops).getD 99
  let back := (d.swp.record.filter fun e => e.outcome = 2 && d.seq.map.testBit e.position && !d.ch.missing.testBit e.position).map
    fun e => e.position
  back.foldl (fun b p => match b with | none => some p | some q => if hops p < hops q then some p else some q) none

/-- R325, R326: go on with the sweep where no step is in hand: first the missing devices that are back, whose step state
is read before anything is delivered; then the pending ones in ascending position; else it is complete. -/
def Dev.sweepNext (d : Dev) : Dev :=
  if d.swp.current.isSome || (d.swp.state ≠ 1 && d.swp.state ≠ 2) then d
  else
    match d.resumeNext with
    | some p =>
      let sent := (d.swp.record.find? fun e => e.position = p).any fun e => 0 < e.attempts
      let d := { d with swp := { d.swp with current := some p, state := 2 } }
      if sent || d.nat 0x2A0001 = 3 then (if p = d.position then d else d.ask p 0x2A2102 1) else d.deliverStep p
    | none =>
      match d.swp.record.find? fun e => e.outcome = 0 with
      | some e => ({ d with swp := { d.swp with current := some e.position } } : Dev).deliverStep e.position
      | none => { d with swp := { d.swp with state := 3 } }

/-- Table 13.8: a position's step has ended: done, or failed; its result code is in the first two bytes of its result. -/
def Dev.sweepEnd (d : Dev) (p : Nat) (ok : Bool) (result : List Byte) : Dev :=
  let path := d.pathByte p
  let d := d.sweepEntry p fun e => { e with
    outcome := if !ok then 3 else if e.outcome = 2 then 4 else 1
    path := path, code := leNat (result.take 2), stop := d.chain }
  ({ d with swp := { d.swp with current := none } } : Dev).sweepNext

/-- R325: the answer to a read of the step state: a running step is polled on, one that was never delivered is started,
an ended one has its result read. -/
def Dev.sweepAnswer (d : Dev) (p state : Nat) : Dev :=
  if d.swp.current ≠ some p then d
  else if state = 0 then d.deliverStep p
  else if state = 1 then d
  else if state = 3 then d.sweepEnd p false []
  else d.ask p 0x2A2103 1

/-- R325: 0x2A20:01: start a sweep over the present devices. -/
def sweepStartAct (kind batch : Nat) (d : Dev) : Dev :=
  let all := (List.range 32).filter fun p => d.seq.map.testBit p
  ({ d with swp := { d.swp with
    kind := kind, batch := batch, state := 1, current := none, cancel := false
    record := all.map fun p => { position := p } } } : Dev).sweepNext

/-- R325: the abort of a sweep start. -/
def sweepStartState (d : Dev) (kind : Nat) : Option Nat :=
  if kind = 0 || 3 < kind then some 0x06090030
  else if d.swp.state = 1 || d.swp.state = 2 || !d.sweepAllowed kind then some 0x08000022
  else none

/-- 0x2A20:04: cancel at the next boundary. -/
def sweepCancelAct (d : Dev) : Dev :=
  if d.swp.state = 1 || d.swp.state = 2 then { d with swp := { d.swp with cancel := true } } else d

/-- R325: the device's own step ends, and with it the output tests. -/
def Dev.endStep (d : Dev) (ok : Bool) (result : List Byte) : Dev :=
  { d with
    swp := { d.swp with step := if ok then 2 else 3, result := result }
    dec := { d.dec with outlets := d.dec.outlets.map fun x => { x with testing := false, tests := [] } } }

/-- 0x2A20:04 at the boundary: the sweep is cancelled, and a step that runs here ends. -/
def Dev.sweepBoundary (d : Dev) : Dev :=
  if !d.swp.cancel then d.sweepNext
  else
    let d := { d with swp := { d.swp with cancel := false, state := 4, current := none } }
    if d.swp.step = 1 then d.endStep false [] else d

/-- Table 13.7: the work of the device's step may be complete: its output tests are over, its 20 ms have passed, or its batch
has been seen. -/
def Dev.stepOver (d : Dev) : Bool :=
  if d.swp.stepKind = 1 then (List.finRange 32).all fun n => d.dec.outlets[n].tests.all fun x => decide (x.1 ≤ d.chain)
  else if d.swp.stepKind = 2 then decide (d.swp.stepAt + 20000000 ≤ d.chain)
  else d.swp.shape.isSome

/-- Table 13.8: the first fault event that was raised since the device's step started; 0 none. -/
def Dev.stepCode (d : Dev) : Nat :=
  let raised := ((areaRecords d.nvm 0 ++ areaRecords d.nvm 1).map fun r => r.event) ++ d.rcd.buffer
  ((raised.find? fun e => decide (e.kind = 1) && decide (d.swp.stepAt ≤ e.raisedAt)).map fun e => e.code).getD 0

/-- R325: a step of this device has finished: its result is the result code, then what its kind shows. -/
def stepCompleteEff (d : Dev) (ok : Bool) (shown : List Byte) : Dev :=
  if d.swp.step ≠ 1 || (ok && !d.stepOver) then d
  else
    let result := leBytes 2 d.stepCode ++ (if d.swp.stepKind = 3 then d.swp.shape.getD [] else shown)
    let d := d.endStep ok result
    if d.swp.current = some d.position then d.sweepEnd d.position ok result else d

/-- R325: every 100 ms the lead polls the current step. -/
def sweepPollEff (d : Dev) : Dev :=
  match d.swp.current with
  | some p =>
    if d.swp.polledAt.any fun t => d.time.now < t + 100000000 then d
    else
    let d := { d with swp := { d.swp with polledAt := some d.time.now } }
    if p = d.position then d.sweepAnswer p d.swp.step
    else d.ask p 0x2A2102 1
  | none => d

/-- R325: the timeout of a step, ns. -/
def Dev.stepLimit (d : Dev) : Nat :=
  if d.swp.kind = 1 then 3 * 16 * d.nat 0x2A2006 * 1000 * d.nat 0x2A2005
  else if d.swp.kind = 2 then 1000000000 else 100000000

/-- R325: a step has exceeded its timeout. -/
def stepTimeoutEff (d : Dev) : Dev :=
  match d.swp.current with
  | none => d
  | some p =>
    let start := ((d.swp.record.find? fun e => e.position = p).map fun e => e.start).getD 0
    if start + d.stepLimit ≤ d.chain then d.sweepEnd p false [] else d

/-! ### Status -/

/-- R329: declared guest rates of an arm exceed the budget share of its upstream capacity, Mbit/s. -/
def Dev.armOver (d : Dev) (p : Port) : Bool :=
  let rate := (d.ch.table.filter fun n => n.kind ≠ 0 && n.arm = p).foldl (fun s n => s + d.nat (adr (0x2A10 + n.position) 3)) 0
  let capacity := if (d.port p).far / 64 = 0 then 18000 else 9000
  d.nat 0x2A000F * capacity < 100 * rate

/-- R329: the lead raises the over-budget event, to which the manual gives no code (log entry 14), when a direction
comes over its budget. -/
def Dev.guestBudget (d : Dev) : Dev :=
  let now := d.isLead && (d.armOver .a || d.armOver .b)
  let was := d.ch.overBudget
  let d := { d with ch := { d.ch with overBudget := now } }
  if now && !was then d.raise (Config.eventCode 4) 0 0xFFFF [] else d

/-- Table 13.11: the chain status word. -/
def Dev.chainStatus (d : Dev) : Nat :=
  let on := fun (n : Nat) (b : Bool) => if b then 2 ^ n else 0
  let role := d.nat 0x2A0001
  on 0 d.ch.ring + on 1 d.ch.reversed + on 2 d.ch.split + on 3 (d.ch.missing ≠ 0) + on 4 (d.ch.missingGuests ≠ 0)
    + on 5 (role = 2 && d.ch.mirror.any fun m => u32 (m.batch + 1) = d.seq.number || m.batch = d.seq.number)
    + on 6 d.time.slotStopped + on 7 d.ch.overBudget
    + on 8 ((d.isLead && (role = 3 || d.nat 0x2A0008 = 255)) || d.ch.reversed) + on 9 d.ch.limit

/-- Table 13.10: the chain objects, for the status snapshot. -/
def Dev.publishChain (d : Dev) : Dev :=
  let d := d.guestBudget
  let d := d.put 0x2A0005 (if d.ch.split then 3 else if d.ch.reversed then 2 else if d.ch.ring then 1 else 0)
  let d := (d.put 0x2A0006 d.seq.map).put 0x2A0007 d.ch.guests
  let d := d.put 0x2A0009 (match d.ch.upstream with | some .a => 0 | some .b => 1 | none => 255)
  let d := (d.put 0x2A000A (min 47 d.ch.hops : Nat)).put 0x2A000B d.chainStatus
  let d := d.put 0x2A0103 (clampI (-2147483648) 2147483647 (d.link.filtered / 4974))
  let d := ((d.put 0x2A2002 d.swp.state).put 0x2A2102 d.swp.step).putVal 0x2A2103 (.bytes d.swp.result)
  if d.isLead then
    (List.range 16).foldl (fun (d : Dev) (g : Nat) =>
      d.put (adr (0x2A10 + g) 5) (if d.ch.missingGuests.testBit g then 2 else if d.ch.guests.testBit g then 1 else 0)) d
  else d

/-! ### Meanings -/

/-- ENUMERATION_PROBE (R304). -/
def execEnumerationProbe (port : Port) (number : Nat) (arm : Port) (hops t : Nat) (s : State) :
    Host.Outcome State Fault Refusal := s.logic t fun d => enumerationProbeEff d port number arm hops

/-- ENUMERATION_REPORT (R312). -/
def execEnumerationReport (rep : NodeReport) (t : Nat) (s : State) : Host.Outcome State Fault Refusal :=
  s.logic t fun d => enumerationReportEff d rep

/-- ENUMERATION_REPORT_WAIT (R304). -/
def execEnumerationReportWait (t : Nat) (s : State) : Host.Outcome State Fault Refusal := s.logic t reportWaitEff

/-- CHAIN_TABLE (R304). -/
def execChainTable (nodes : List TableNode) (epoch standby map t : Nat) (s : State) :
    Host.Outcome State Fault Refusal := s.logic t fun d => chainTableEff d nodes epoch standby map

/-- ENUMERATION_RETRY (R306). -/
def execEnumerationRetry (t : Nat) (s : State) : Host.Outcome State Fault Refusal := s.logic t enumerationRetryEff

/-- BREAK_NOTICE (R317). -/
def execBreakNotice (position t : Nat) (s : State) : Host.Outcome State Fault Refusal :=
  s.logic t fun d => breakNoticeEff d position

/-- RING_RESTORE (R319). -/
def execRingRestore (t : Nat) (s : State) : Host.Outcome State Fault Refusal := s.logic t ringRestoreEff

/-- ECHO_PERIOD (R314). -/
def execEchoPeriod (t : Nat) (s : State) : Host.Outcome State Fault Refusal := s.logic t echoPeriodEff

/-- ECHO_REQUEST (R314). -/
def execEchoRequest (port : Port) (id t : Nat) (s : State) : Host.Outcome State Fault Refusal :=
  s.logic t fun d => echoRequestEff d port id

/-- ECHO_RESPONSE (R314). -/
def execEchoResponse (port : Port) (_id : Nat) (times : EchoTimes) (t : Nat) (s : State) : Host.Outcome State Fault Refusal :=
  s.logic t fun d => echoResponseEff d port times

/-- BATCH_SYNC (R43). -/
def execBatchSync (number : Nat) (_t0 : Int) (map t : Nat) (s : State) : Host.Outcome State Fault Refusal :=
  s.logic t fun d => batchSyncEff d number map

/-- STANDBY_MIRROR (R320). -/
def execStandbyMirror (mirror : Mirror) (t : Nat) (s : State) : Host.Outcome State Fault Refusal :=
  s.logic t fun d => standbyMirrorEff d mirror

/-- MARKER_MISSING (R321). -/
def execMarkerMissing (t : Nat) (s : State) : Host.Outcome State Fault Refusal := s.logic t markerMissingEff

/-- TAKEOVER_NOTICE (R322). -/
def execTakeoverNotice (position t : Nat) (s : State) : Host.Outcome State Fault Refusal :=
  s.logic t fun d => takeoverNoticeEff d position

/-- SWEEP_START (R325): a write to 0x2A20:01. -/
def execSweepStart (acc : Accessor) (kind batch : Nat) (s : State) : Host.Outcome State Fault Refusal :=
  s.logicNow fun d => d.writeObject acc 0x2A2001 (.bytes (stepBytes kind batch)) false (sweepStartState d kind) (sweepStartAct kind batch)

/-- SWEEP_CANCEL (R325): a write to 0x2A20:04. -/
def execSweepCancel (acc : Accessor) (v : Int) (s : State) : Host.Outcome State Fault Refusal :=
  s.logicNow fun d => d.writeObject acc 0x2A2004 (.num v) false none sweepCancelAct

/-- SWEEP_STEP_REQUEST (R325): a write to 0x2A21:01. -/
def execSweepStepRequest (acc : Accessor) (kind unit : Nat) (s : State) : Host.Outcome State Fault Refusal :=
  s.logicNow fun d => d.writeObject acc 0x2A2101 (.bytes (stepBytes kind unit)) false none fun d => d.startStep kind unit

/-- SWEEP_STEP_COMPLETE (R325). -/
def execSweepStepComplete (ok : Bool) (result : List Byte) (t : Nat) (s : State) : Host.Outcome State Fault Refusal :=
  s.logic t fun d => stepCompleteEff d ok result

/-- SWEEP_POLL (R325). -/
def execSweepPoll (t : Nat) (s : State) : Host.Outcome State Fault Refusal := s.logic t sweepPollEff

/-- SWEEP_STEP_TIMEOUT (R325). -/
def execSweepStepTimeout (t : Nat) (s : State) : Host.Outcome State Fault Refusal := s.logic t stepTimeoutEff

end Sys2Proof.Machine
end

