-- ==== Sys2Proof/Machine/Gnss.lean ====
section
/-! DEFINITION. The GNSS baseband and RTK engine (chapter 14): front end, interference, channels, epochs and solutions,
corrections, moving baseline and kept data. -/

namespace Sys2Proof.Machine

/-- Update the baseband. -/
def Dev.baseband (d : Dev) (f : Gnss → Gnss) : Dev := { d with gnss := f d.gnss }

/-- Update an IF input. -/
def Dev.setInput (d : Dev) (n : Fin 2) (f : GnssInput → GnssInput) : Dev :=
  d.baseband fun g => { g with inputs := updateAt g.inputs n f }

/-- Update a channel. -/
def Dev.setChannel (d : Dev) (c : Fin 64) (f : GnssChannel → GnssChannel) : Dev :=
  d.baseband fun g => { g with channels := updateAt g.channels c f }

/-! ### Front end and starts -/

/-- R336: gain control word: register, least significant bit and width of the gain field. -/
def Dev.gainField (d : Dev) : Nat × Nat × Nat :=
  let w := d.nat 0x2B0106
  (w / 65536, w / 256 % 256, w % 256)

/-- R335: the entries of a script: flags, address, value. -/
def scriptEntries : List Byte → List (Nat × Nat × Nat)
  | f :: a :: l :: h :: r => (f.toNat, a.toNat, l.toNat + 256 * h.toNat) :: scriptEntries r
  | _ => []

/-- R335, R336: the gain code that the script leaves in the gain field; 0 where it does not write the register. -/
def Dev.scriptGain (d : Dev) : Nat :=
  let (reg, lsb, width) := d.gainField
  let writes := (scriptEntries (d.str 0x2B0105)).filter fun e => !e.1.testBit 1 && e.2.1 = reg
  match writes.getLast? with
  | some e => e.2.2 / 2 ^ lsb % 2 ^ width
  | none => 0

/-- R353: the start kind whose conditions hold: 0 hot, 1 warm, 2 cold. -/
def Dev.startKindNow (d : Dev) : Nat :=
  if !d.rtc.valid || !d.nvm.keptData then 2
  else if d.rtcUncertainty ≤ 2000 && decide (5 ≤ Config.validEphemerides (d.rtcNow - d.nvm.keptEpoch)) then 0
  else if d.rtcNow < d.nvm.keptEpoch + 2592000000000000 then 1
  else 2

/-- R335, R425: the third failed run faults the front end: GNSS stops, and every source that it feeds is lost. -/
def Dev.frontEndFault (d : Dev) : Dev :=
  let d := d.fault 18 true 0xFFFF
  let d := { d with gnss := { faulted := true, changed := d.gnss.changed, erase := d.gnss.erase, keptAt := d.gnss.keptAt } }
  let d := (d.raise 0x0E01 1 0xFFFF [(7, 0x2B0105)]).put 0x2B0405 0
  if d.isLead then d.loseSource .gnss else d

/-- R335: a run of the script, and what its verify makes of it. -/
def Dev.runScript (d : Dev) (verifyOk : Bool) : Dev :=
  let d := (d.send (.frontEnd (scriptTransfers (d.str 0x2B0105)))).baseband fun g => { g with scriptAt := d.time.now }
  if verifyOk then
    let gain := d.scriptGain
    d.baseband fun g => { g with
      running := true, failedRuns := 0, inputs := g.inputs.map fun (x : GnssInput) => { x with gain := gain } }
  else if 2 ≤ d.gnss.failedRuns then d.frontEndFault
  else (d.fault 18 false 0xFFFF).baseband fun g => { g with failedRuns := g.failedRuns + 1 }

/-- R335, R353, R354: the baseband starts. -/
def basebandStartEff (d : Dev) (verifyOk : Bool) : Dev :=
  if !d.flag 0x2B0001 || d.gnss.running || d.gnss.faulted || 0 < d.gnss.failedRuns then d
  else
    let kind := d.startKindNow
    let d := { d with gnss := {
      startedAt := d.time.now, kindAt := d.time.now, startKind := kind, waits := d.isLead && kind = 0 && !d.time.seeded
      changed := d.gnss.changed, erase := d.gnss.erase, keptAt := d.gnss.keptAt } }
    d.runScript verifyOk

/-- R335: the script runs again after a failed verify: after 100 ms, and after 1 s more. -/
def scriptRetryEff (d : Dev) (verifyOk : Bool) : Dev :=
  let wait := if d.gnss.failedRuns = 1 then 100000000 else 1000000000
  if 0 < d.gnss.failedRuns && d.gnss.scriptAt + wait ≤ d.time.now then d.runScript verifyOk else d

/-- R353: no fix in time: the next start kind, whose own limit runs from here (log entry 96). -/
def startFallbackEff (d : Dev) : Dev :=
  let g := d.gnss
  let limit := if g.startKind = 0 then 5000000000 else 60000000000
  if g.running && !g.fixed && g.startKind < 2 && g.kindAt + limit ≤ d.time.now then
    d.baseband fun g => { g with startKind := g.startKind + 1, waits := false, kindAt := d.time.now }
  else d

/-- R335, Table 14.9: what swapped GNSS settings start at once: a written enable restarts a faulted front end, or switches
the baseband off; new input settings restart it. -/
def Dev.swapGnss (d : Dev) (carried : Store) : Dev :=
  let d := match storeFind carried 0x2B0001 with
    | some (.num 1) => if d.gnss.faulted then ({ d with gnss := { changed := d.gnss.changed, erase := d.gnss.erase, keptAt := d.gnss.keptAt } } : Dev).raise 0x0E01 2 0xFFFF [(7, 0x2B0001)] else d
    | some (.num 0) => { d with gnss := { faulted := d.gnss.faulted, changed := d.gnss.changed, erase := d.gnss.erase, keptAt := d.gnss.keptAt } }
    | _ => d
  let restart := [0x2B0101, 0x2B0102, 0x2B0103, 0x2B0104, 0x2B0105].any fun a => (storeFind carried a).isSome
  if restart && d.gnss.running then { d with gnss := { changed := d.gnss.changed, erase := d.gnss.erase, keptAt := d.gnss.keptAt } } else d

/-! ### Gain, jamming and notches -/

/-- R338: one level of the jamming indicator: whether its bit is set, and since when J/N has been 3 dB below it. -/
def jamBit (now ratio level : Nat) (on : Bool) (quiet : Option Nat) : Bool × Option Nat :=
  if level ≤ ratio then (true, none)
  else if !on then (false, none)
  else if ratio + 3 ≤ level then
    let since := quiet.getD now
    if since + 5000000000 ≤ now then (false, none) else (true, some since)
  else (true, none)

/-- R336, R338: the 10 ms round of an input: its gain moves by one code towards an RMS of 3.5 LSB, and J/N follows. -/
def agcRoundEff (d : Dev) (n : Fin 2) (rms : Nat) : Dev :=
  let x := d.gnss.inputs[n]
  if !d.gnss.running || !x.clock || x.agcAt.any (fun t => d.time.now < t + 10000000) then d
  else
    let (_, _, width) := d.gainField
    let code := if d.nat 0x2B0106 = 0 then x.gain
      else if rms < 300 then min (2 ^ width - 1) (x.gain + 1)
      else if 400 < rms then x.gain - 1
      else x.gain
    let ratio := min 63 (Config.jammingRatio rms (x.gain * d.int 0x2B0107))
    let w := jamBit d.time.now ratio (d.nat 0x2B010E) x.warning x.quietWarning
    let a := jamBit d.time.now ratio (d.nat 0x2B010F) x.alarm x.quietAlarm
    let d := d.setInput n fun x => { x with
      agcAt := some d.time.now, gain := code, ratio := ratio, warning := w.1, quietWarning := w.2, alarm := a.1, quietAlarm := a.2 }
    let d := if code ≠ x.gain then d.send (.gain n code) else d
    if a.1 && !x.alarm then d.raise 0x0E02 1 n [(3, ratio)]
    else if x.alarm && !a.1 then d.raise 0x0E02 2 n [(3, ratio)]
    else d

/-- R337: a notch lies on a line: within half of its width. -/
def notchOn (f : Int) (x : Notch) : Bool := (x.freq - f).natAbs ≤ 25000

/-- R337: enter a line by falling level. -/
def byLevel (x : SpectrumLine) : List SpectrumLine → List SpectrumLine
  | [] => [x]
  | y :: r => if y.level < x.level then x :: y :: r else y :: byLevel x r

/-- R337: the 10 ms search of an input over the lines of its spectrum. The notches track their lines, are released when these
have stood below the threshold less 3 dB for 1 s, and the four strongest lines at the threshold or above are notched. -/
def notchSearchEff (d : Dev) (n : Fin 2) (lines : List SpectrumLine) : Dev :=
  let x := d.gnss.inputs[n]
  if !d.gnss.running || !x.clock || x.searchAt.any (fun t => d.time.now < t + 10000000) then d
  else
    let now := d.time.now
    let ranked := lines.foldl (fun l x => byLevel x l) []
    let level := 10 * d.nat 0x2B010D
    let peaks := (ranked.filter fun l => decide (level ≤ l.level)).map fun l => l.freq
    let kept := (ranked.filter fun l => decide (level ≤ l.level + 30)).map fun l => l.freq
    let strong := peaks.take 4
    let tracked := x.notches.map fun k => match kept.find? fun f => notchOn f k with
      | some f => ⟨f, now⟩
      | none => k
    let held := tracked.filter fun k => now < k.seen + 1000000000
    let fresh := (strong.filter fun f => !held.any (notchOn f)).map fun f => (⟨f, now⟩ : Notch)
    let idle := held.filter fun k => !strong.any fun f => notchOn f k
    let used := held.filter fun k => strong.any fun f => notchOn f k
    d.setInput n fun x => { x with searchAt := some now, notches := (used ++ fresh ++ idle).take 4, overflow := 4 < peaks.length }

/-! ### Channels -/

/-- A channel goes Idle, keeping its satellite for up to 10 s (R339). -/
def GnssChannel.release (c : GnssChannel) (now : Nat) : GnssChannel := { c with state := 0, idleSince := now, enteredAt := now, slip := false }

/-- R336: the sample clock of an input is absent: its channels go Idle. -/
def sampleClockLossEff (d : Dev) (n : Fin 2) : Dev :=
  if !d.gnss.running then d
  else
    let d := d.setInput n fun x => { x with clock := false, clockLost := true }
    d.baseband fun g => { g with channels := g.channels.map fun (c : GnssChannel) =>
      if c.band = n.val && c.state ≠ 0 then c.release d.time.now else c }

/-- Enter a satellite by falling elevation. -/
def byElevation (x : Satellite) : List Satellite → List Satellite
  | [] => [x]
  | y :: r => if y.elevation < x.elevation then x :: y :: r else y :: byElevation x r

/-- One satellite. -/
def sameSatellite (x y : Satellite) : Bool := x.constellation = y.constellation && x.prn = y.prn

/-- R339: a cold start, when elevations are unknown. -/
def Dev.coldSearch (d : Dev) : Bool := d.gnss.startKind = 2 && !d.gnss.fixed

/-- R339: the satellites to allocate: of an enabled constellation and above the mask, highest first. -/
def Dev.listed (d : Dev) (sats : List Satellite) : List Satellite :=
  (sats.filter fun x => d.bit 0x2B0003 x.constellation && (d.coldSearch || d.int 0x2B0005 ≤ x.elevation)).foldl
    (fun l x => byElevation x l) []

/-- R339: whether a channel keeps its satellite. -/
def Dev.keepChannel (d : Dev) (sats : List Satellite) (c : GnssChannel) : GnssChannel :=
  match c.satellite with
  | none => c
  | some x =>
    match sats.find? (sameSatellite x) with
    | none => {}
    | some y =>
      let sunk := !d.coldSearch && y.elevation + 364 < d.int 0x2B0005
      let tired := c.state = 0 && c.idleSince + 10000000000 ≤ d.time.now
      if sunk || tired || !d.bit 0x2B0004 c.band || !d.bit 0x2B0003 x.constellation then {} else { c with satellite := some y }

/-- R339: give a satellite a channel of a band, where it has none and one is free. -/
def allot (now band : Nat) (v : Vector GnssChannel 64) (x : Satellite) : Vector GnssChannel 64 :=
  if v.toList.any fun c => c.band = band && c.satellite.any (sameSatellite x) then v
  else match (List.finRange 64).find? fun k => v[k].satellite.isNone with
    | some k => v.set k { state := 1, satellite := some x, band := band, enteredAt := now }
    | none => v

/-- R339: the allocation. -/
def channelAllocationEff (d : Dev) (sats : List Satellite) : Dev :=
  if !d.gnss.running then d
  else
    let kept := d.gnss.channels.map (d.keepChannel sats)
    let list := d.listed sats
    let one := fun (v : Vector GnssChannel 64) (b : Fin 2) =>
      if d.bit 0x2B0004 b && d.gnss.inputs[b].clock then list.foldl (allot d.time.now b) v else v
    d.baseband fun g => { g with channels := one (one kept 0) 1, allottedAt := some d.time.now }

/-- R339: the allocation at a start and once a second. -/
def allocationEff (d : Dev) (sats : List Satellite) : Dev :=
  if d.gnss.allottedAt.any fun t => d.time.now < t + 1000000000 then d else channelAllocationEff d sats

/-- R336: the sample clock returns: the script runs again, and the channels are allocated afresh. -/
def sampleClockReturnEff (d : Dev) (n : Fin 2) (verifyOk : Bool) (sats : List Satellite) : Dev :=
  if !d.gnss.running || d.gnss.inputs[n].clock then d
  else
    let d := d.setInput n fun x => { x with clock := true, clockLost := false }
    let d := d.baseband fun g => { g with channels := g.channels.map fun (c : GnssChannel) => if c.band = n.val then {} else c }
    let d := d.runScript verifyOk
    if verifyOk then channelAllocationEff d sats else d

/-- Table 14.3: an event moves a channel from one state, in which it has been for `after` ns, to another. -/
def Dev.moveChannel (d : Dev) (c : Fin 64) (source dest after : Nat) (f : GnssChannel → GnssChannel) : Dev :=
  let x := d.gnss.channels[c]
  if d.gnss.running && x.state = source && x.satellite.isSome && x.enteredAt + after ≤ d.time.now then
    d.setChannel c fun x => f { x with state := dest, enteredAt := d.time.now }
  else d

/-- R341: the discriminator mode is reduced by the sample rate. -/
def Dev.modeLimited (d : Dev) : Bool := d.nat 0x2B0007 ≠ 0 && d.nat 0x2B0101 < 16368000

/-- R341: the code discriminator mode of the signals of a band. -/
def Dev.discriminatorMode (d : Dev) (band : Nat) : Nat := if band ≠ 0 || d.modeLimited then 0 else d.nat 0x2B0007

/-- Table 14.2: the positions of the seven correlators, 1/10 chip: VE, E, NE, P, NL, L, VL. -/
def correlators (mode : Nat) : Vector Int 7 :=
  let e : Int := if mode = 2 then 2 else 5
  #v[-10, -e, -1, 0, 1, e, 10]

/-- R340: where on the code the correlators of a channel stand, 1/10 chip from where it was acquired. -/
def Dev.channelTaps (d : Dev) (c : GnssChannel) : Vector Int 7 := (correlators (d.discriminatorMode c.band)).map (· + c.code)

/-- R341: the code discriminator over the magnitudes of the seven correlators. -/
def discriminator (mode : Nat) (v : Vector Int 7) : Int :=
  if mode = 1 then v[2] - v[4] else if mode = 2 then 2 * (v[2] - v[4]) - (v[1] - v[5]) else v[1] - v[5]

/-- R341: VE or VL lies above 0.7 of P. -/
def sidePeak (v : Vector Nat 7) : Bool := 7 * v[3] < 10 * max v[0] v[6]

/-- R341: the channel's signal is a BOC signal: Galileo E1 or BeiDou B1C. -/
def bocSignal (c : GnssChannel) : Bool := c.band = 0 && c.satellite.any fun x => x.constellation = 1 || x.constellation = 2

/-! ### Epochs and solutions -/

/-- R346: the solution rate in force is 10 Hz. -/
def Dev.rateReduced (d : Dev) : Bool := d.hlt.enforcing || d.nat 0x2B0002 = 10

/-- R343, Table 14.8: the observation of a channel at an epoch, with the flags that the channel itself knows. -/
def observed (c : GnssChannel) (o : Observation) : Observation :=
  match c.satellite with
  | none => {}
  | some x =>
    if c.state ≠ 3 then { constellation := x.constellation, satellite := x.prn, signal := c.band }
    else { o with
      constellation := x.constellation, satellite := x.prn, signal := c.band
      flags := o.flags / 2 % 4 * 2 + 8 + (if c.slip then 1 else 0) }

/-- R343, R346: the epoch interval, ns. -/
def Dev.epochInterval (d : Dev) : Nat := if d.rateReduced then 100000000 else 50000000

/-- R350: the base epoch of the lead: its solution, and the observations of the channels in Track. -/
def Dev.baseBody (d : Dev) : List Byte :=
  baseEpochBody d.position (d.nat 0x2B0207) d.chain (d.int 0x2B0201) (d.int 0x2B0202) (d.int 0x2B0203)
    ((d.gnss.channels.toList.filter fun c => c.state = 3 && c.satellite.isSome).map fun c => c.obs)

/-- R343, R346, R350: a measurement epoch, at a chain-time multiple of the epoch interval. -/
def measurementEpochEff (d : Dev) (obs : Vector Observation 64) : Dev :=
  if !d.gnss.running || d.chain % d.epochInterval ≠ 0 then d
  else
    let d := d.baseband fun g => { g with
      reduced := d.rateReduced
      channels := Vector.ofFn fun (k : Fin 64) => { g.channels[k] with obs := observed g.channels[k] obs[k], slip := false } }
    if d.isLead && d.seq.running && 1 < (presentList d.seq.map).length then d.send (.baseEpoch d.baseBody) else d

/-- R349: one epoch of the RTK engine: `usable` where the observations and the corrections allow an RTK solution at all. A fix
needs the ratio at 3 epochs in a row, and is lost when it lies below at 3, or with fewer than 5 double differences. While RTK
rests its ambiguities are kept for 30 s. -/
def Rtk.epoch (x : Rtk) (now : Nat) (threshold ratio : Int) (pairs : Nat) (usable : Bool) : Rtk :=
  let x := if x.lostAt.any fun t => t + 30000000000 ≤ now then {} else x
  if !usable then { x with good := 0, bad := 0, lostAt := some (x.lostAt.getD now) }
  else if x.fixed then
    let bad := if ratio < threshold then x.bad + 1 else 0
    if 3 ≤ bad || pairs < 5 then {} else { x with bad := bad, lostAt := none }
  else
    let good := if threshold ≤ ratio then x.good + 1 else 0
    if 3 ≤ good then { fixed := true } else { x with good := good, lostAt := none }

/-- R349: corrections are older than the age limit. -/
def Dev.correctionsStale (d : Dev) : Bool := d.gnss.correctedAt.any fun t => decide (t + 1000 * d.nat 0x2B0302 < d.time.now)

/-- R344, R349: the solution type in force, of a solution that the measurements allow: without usable corrections standalone,
and with them float until the engine has fixed it. -/
def Dev.solutionKind (d : Dev) (x : Rtk) (kind : Nat) : Nat :=
  if kind < 3 then kind
  else if d.gnss.correctedAt.isNone || d.correctionsStale then 2
  else if kind = 3 then 3
  else if x.fixed then 5 else 4

/-- R344, R490, R353, R354, R349: a solution completes. The lead seeds chain time from the first one where it has not been
seeded, steers it by the later ones, and gives them to SHAPE. -/
def gnssSolutionEff (d : Dev) (f : GnssFix) : Dev :=
  if !d.gnss.running then d
  else
    let usable := decide (4 ≤ f.kind) && d.gnss.correctedAt.isSome && !d.correctionsStale
    let rtk := d.gnss.rtk.epoch d.time.now (d.int 0x2B0303) f.ratio f.pairs usable
    let f := { f with kind := d.solutionKind rtk f.kind }
    let fix := decide (2 ≤ f.kind)
    let d := (((d.put 0x2B0201 f.lat).put 0x2B0202 f.lon).put 0x2B0203 f.height).put 0x2B0204 f.velE
    let d := (((d.put 0x2B0205 f.velN).put 0x2B0206 f.velU).put 0x2B0207 f.kind).put 0x2B0208 f.sats
    let d := (((d.put 0x2B0209 f.pdop).put 0x2B020A f.hSigma).put 0x2B020B f.vSigma).put 0x2B020C f.epoch
    let d := (d.put 0x2B020E f.corrAge).put 0x2B020F f.ratio
    let d := if fix && !d.gnss.fixed then
        (d.put 0x2B0009 d.gnss.startKind).put 0x2B000A (min 4294967295 ((d.time.now - d.gnss.startedAt) / 1000) : Nat)
      else d
    let d := d.baseband fun g => { g with
      fixed := g.fixed || fix, hasFix := fix, changed := g.changed || fix
      stale := d.correctionsStale, rtk := rtk }
    if !fix || !d.isLead then d
    else if !d.time.seeded then
      let d := d.baseband fun g => { g with waits := false }
      ((d.seedFrom (some (d.chain - f.clockOffset))).takeFix f).releaseTable
    else (d.steer f.clockOffset).takeFix f

/-- R350, R349: a base epoch at a wheeler with moving baseline: its fix, by the engine of R349, goes to the lead; epochs that did
not come are counted. -/
def baseEpochEff (d : Dev) (epoch : Int) (m : BaselineMeasure) : Dev :=
  if d.isLead || !d.flag 0x2B0401 || !d.gnss.running then d
  else
    let step : Int := if d.gnss.reduced then 100000000 else 50000000
    let gap := match d.gnss.baseAt with | some e => ((epoch - e) / step - 1).toNat | none => 0
    let d := (d.baseband fun g => { g with baseAt := some epoch }).add 0x2B0406 gap
    if epoch + 150000000 < d.chain then d.bump 0x2B0406
    else
      let rtk := d.gnss.baseRtk.epoch d.time.now (d.int 0x2B0303) m.ratio m.pairs (decide (m.fix.state ≠ 0))
      let f := { m.fix with position := d.pos32, state := if m.fix.state = 0 then 0 else if rtk.fixed then 5 else 4 }
      let d := (((d.put 0x2B0402 f.east).put 0x2B0403 f.north).put 0x2B0404 f.up).put 0x2B0405 f.state
      let d := d.baseband fun g => { g with baseFixed := decide (f.state = 5), baseRtk := rtk }
      d.send (.baseline (baselineBody f))

/-! ### Corrections -/

/-- R347: one step of CRC-24Q, the check of an RTCM 3 frame. -/
def crc24Bit (c : Nat) : Nat := if c.testBit 23 then ((c * 2) ^^^ 0x1864CFB) % 2 ^ 24 else c * 2

/-- R347: CRC-24Q over bytes. -/
def crc24 (bs : List Byte) : Nat := bs.foldl (fun c b => iter crc24Bit 8 (c ^^^ (b.toNat * 65536))) 0

/-- Bits `o` to `o + w − 1` of a payload, the first bit being its most significant. -/
def rtcmField (b : List Byte) (o w : Nat) : Nat :=
  b.foldl (fun n x => n * 256 + x.toNat) 0 / 2 ^ (8 * b.length - o - w) % 2 ^ w

/-- A signed field of 38 bits. -/
def rtcmSigned (b : List Byte) (o : Nat) : Int :=
  let v := rtcmField b o 38
  if v < 2 ^ 37 then v else (v : Int) - 2 ^ 38

/-- R347, R348: the frames of a correction write; one that fails its CRC or runs past the end is marked. The frame and the
fields of 1005 and 1006 are those of RTCM 10403.3 (PRESUMED, log entry 20). -/
def rtcmDecode : Nat → List Byte → List RtcmFrame
  | 0, _ => []
  | _, [] => []
  | n + 1, b =>
    let len := rtcmField (b.take 3) 14 10
    let payload := (b.drop 3).take len
    if leNat (b.take 1) ≠ 0xD3 || b.length < len + 6 then [⟨0, 0, false, (0, 0, 0)⟩]
    else
      let crc := rtcmField ((b.drop (3 + len)).take 3) 0 24
      ⟨rtcmField payload 0 12, rtcmField payload 12 12, crc = crc24 (b.take (3 + len)),
        (rtcmSigned payload 34, rtcmSigned payload 74, rtcmSigned payload 114)⟩ :: rtcmDecode n (b.drop (len + 6))

/-- Table 14.5: the correction messages, which carry a station. -/
def isMsm (k : Nat) : Bool := [1074, 1077, 1094, 1097, 1114, 1117, 1124, 1127].any (· = k)

/-- Table 14.5: ephemerides. -/
def isEphemeris (k : Nat) : Bool := [1019, 1042, 1044, 1045, 1046].any (· = k)

/-- The bytes of a base position: 3 × I64. -/
def baseBytes (p : Int × Int × Int) : List Byte := leInt 8 p.1 ++ leInt 8 p.2.1 ++ leInt 8 p.2.2

/-- Three coordinates of 8 bytes each. -/
def leInt64 (b : List Byte) (o : Nat) : Int :=
  let v := leNat ((b.drop o).take 8)
  if v < 2 ^ 63 then v else (v : Int) - 2 ^ 64

/-- Table 14.5: a base position lies more than 10 mm (100 units of 0.1 mm) from the one held. -/
def baseMoved (held : List Byte) (p : Int × Int × Int) : Bool :=
  let x := p.1 - leInt64 held 0
  let y := p.2.1 - leInt64 held 8
  let z := p.2.2 - leInt64 held 16
  10000 < x * x + y * y + z * z

/-- R348: use, discard or ignore one frame. -/
def Dev.takeFrame (d : Dev) (f : RtcmFrame) : Dev :=
  if !f.crcOk then d.bump 0x2B0307
  else if f.kind = 1005 || f.kind = 1006 then
    let moved := d.nat 0x2B0304 ≠ f.station || d.str 0x2B0305 ≠ baseBytes f.base
    let reset := d.nat 0x2B0304 ≠ f.station || baseMoved (d.str 0x2B0305) f.base
    let d := ((d.put 0x2B0304 f.station).putVal 0x2B0305 (.bytes (baseBytes f.base))).bump 0x2B0306
    d.baseband fun g => { g with changed := g.changed || moved, rtk := if reset then {} else g.rtk }
  else if isMsm f.kind then
    if d.nat 0x2B0304 = f.station then
      (d.baseband fun g => { g with correctedAt := some d.time.now, stale := false }).bump 0x2B0306
    else d.bump 0x2B0308
  else if isEphemeris f.kind then (d.baseband fun g => { g with changed := true }).bump 0x2B0306
  else d.bump 0x2B0308

/-- R347: an accepted correction write under its sequence. -/
def correctionAct (q : Nat) (frames : List RtcmFrame) (d : Dev) : Dev := (frames.foldl Dev.takeFrame d).put 0x2B0309 q

/-! ### Leap second and kept data -/

/-- R345: the announced leap second: the UTC offset changes by one. -/
def leapSecondEff (d : Dev) : Dev :=
  let v := d.int 0x2B020D + (if Config.leapInserted d.draws then 1 else -1)
  ((d.draw).put 0x2B020D v).baseband fun g => { g with changed := true }

/-- R352: the objects among the kept data. -/
def keptGnss : List Nat := [0x2B0201, 0x2B0202, 0x2B0203, 0x2B0204, 0x2B0205, 0x2B0206, 0x2B020D, 0x2B0304, 0x2B0305]

/-- R352: commit the kept data where they have changed, or erase them. -/
def Dev.commitKept (d : Dev) : Dev :=
  if d.gnss.erase then
    let d := { d with nvm := { d.nvm with gnss := [], keptData := false } }
    (d.baseband fun g => { g with erase := false, changed := false, keptAt := d.time.now }).bump 0x310004
  else if d.gnss.changed then
    let d := { d with nvm := { d.nvm with
      gnss := keptGnss.foldl (fun s a => storePut s a (storeGet d.obj a)) []
      keptData := d.nvm.keptData || d.gnss.fixed, keptEpoch := d.chain } }
    (d.baseband fun g => { g with changed := false, keptAt := d.time.now }).bump 0x310004
  else d

/-- R352: the commit every 60 s. -/
def keptCommitEff (d : Dev) : Dev := if d.gnss.keptAt + 60000000000 ≤ d.time.now then d.commitKept else d

/-- R345, R352: at boot the UTC offset and the RTK base come from the kept data. -/
def Dev.bootGnss (d : Dev) : Dev :=
  [0x2B020D, 0x2B0304, 0x2B0305].foldl (fun (d : Dev) (a : Nat) => match storeFind d.nvm.gnss a with
    | some v => d.putVal a v
    | none => d) d

/-! ### Status -/

/-- Table 14.10: the receiver status. -/
def Dev.receiverStatus (d : Dev) : Nat :=
  let on := fun (k : Nat) (b : Bool) => if b then 2 ^ k else 0
  let g := d.gnss
  let a := g.inputs[(0 : Fin 2)]
  let b := g.inputs[(1 : Fin 2)]
  on 0 g.running + on 1 g.hasFix + on 2 (d.nat 0x2B0207 = 4) + on 3 (d.nat 0x2B0207 = 5) + on 4 g.baseFixed + on 5 g.stale
    + on 6 g.reduced + on 7 g.faulted + on 8 (!a.clock || !b.clock) + on 9 (a.warning || b.warning)
    + on 10 (a.alarm || b.alarm) + on 11 (a.overflow || b.overflow) + on 12 d.modeLimited

/-- Table 14.9: the GNSS objects, for the status snapshot. The TCXO offset is a reading (log entry 13). -/
def Dev.publishGnss (d : Dev) : Dev :=
  let g := d.gnss
  let freq := fun (n : Fin 2) =>
    let l := g.inputs[n].notches
    (List.range 4).flatMap fun (k : Nat) => leInt 4 ((l[k]?.map fun x => x.freq).getD 0)
  let d := (d.put 0x2B0008 d.receiverStatus).put 0x2B000B ((g.channels.toList.filter fun c => c.state = 3).length : Nat)
  let d := (d.put 0x2B000C (if g.reduced then 10 else 20)).put 0x2B0108 g.inputs[(0 : Fin 2)].ratio
  let d := (d.put 0x2B0109 g.inputs[(1 : Fin 2)].ratio).put 0x2B010A (g.inputs[(0 : Fin 2)].notches.length : Nat)
  let d := (d.put 0x2B010B (g.inputs[(1 : Fin 2)].notches.length : Nat)).putVal 0x2B010C (.bytes (freq 0 ++ freq 1))
  let d := (d.put 0x2B0601 (if d.nvm.keptData then 2 else 0)).putReading 0x2B0603
    (clampI (-2147483648) 2147483647 (Config.reading 0x2B0603 d.draws))
  d.draw

/-! ### Meanings -/

/-- CHAIN_TIME_SEED (R38, R354): while a hot start waits for a GNSS time solution nothing else seeds. -/
def execChainTimeSeed (gnss : Option Int) (t : Nat) (s : State) : Host.Outcome State Fault Refusal :=
  s.logic t fun d => if d.gnss.waits && gnss.isNone then d else (chainTimeSeedEff d gnss).releaseTable

/-- SEED_WAIT_EXPIRY (R354). -/
def execSeedWaitExpiry (t : Nat) (s : State) : Host.Outcome State Fault Refusal :=
  s.logic t fun d =>
    if d.gnss.waits && d.gnss.startedAt + 1000 * d.nat 0x2B000D ≤ d.time.now then
      (seedWaitExpiryEff (d.baseband fun g => { g with waits := false })).releaseTable
    else d

/-- BASEBAND_START (R335). -/
def execBasebandStart (verifyOk : Bool) (t : Nat) (s : State) : Host.Outcome State Fault Refusal :=
  s.logic t fun d => basebandStartEff d verifyOk

/-- SCRIPT_RETRY (R335). -/
def execScriptRetry (verifyOk : Bool) (t : Nat) (s : State) : Host.Outcome State Fault Refusal :=
  s.logic t fun d => scriptRetryEff d verifyOk

/-- AGC_ROUND (R336). -/
def execAgcRound (n : Fin 2) (rms t : Nat) (s : State) : Host.Outcome State Fault Refusal :=
  s.logic t fun d => agcRoundEff d n rms

/-- NOTCH_SEARCH (R337). -/
def execNotchSearch (n : Fin 2) (lines : List SpectrumLine) (t : Nat) (s : State) : Host.Outcome State Fault Refusal :=
  s.logic t fun d => notchSearchEff d n lines

/-- SAMPLE_CLOCK_LOSS (R336). -/
def execSampleClockLoss (n : Fin 2) (t : Nat) (s : State) : Host.Outcome State Fault Refusal :=
  s.logic t fun d => sampleClockLossEff d n

/-- SAMPLE_CLOCK_RETURN (R336). -/
def execSampleClockReturn (n : Fin 2) (verifyOk : Bool) (sats : List Satellite) (t : Nat) (s : State) :
    Host.Outcome State Fault Refusal := s.logic t fun d => sampleClockReturnEff d n verifyOk sats

/-- CHANNEL_ALLOCATION (R339). -/
def execChannelAllocation (sats : List Satellite) (t : Nat) (s : State) : Host.Outcome State Fault Refusal :=
  s.logic t fun d => allocationEff d sats

/-- ACQUISITION_PEAK (R342). -/
def execAcquisitionPeak (ch : Fin 64) (t : Nat) (s : State) : Host.Outcome State Fault Refusal :=
  s.logic t fun d => d.moveChannel ch 1 2 0 id

/-- ACQUISITION_EXHAUSTED (R342). -/
def execAcquisitionExhausted (ch : Fin 64) (t : Nat) (s : State) : Host.Outcome State Fault Refusal :=
  s.logic t fun d => d.moveChannel ch 1 0 0 fun c => c.release d.time.now

/-- CHANNEL_LOCK (R342). -/
def execChannelLock (ch : Fin 64) (t : Nat) (s : State) : Host.Outcome State Fault Refusal :=
  s.logic t fun d => d.moveChannel ch 2 3 200000000 id

/-- PULL_IN_TIMEOUT (R342). -/
def execPullInTimeout (ch : Fin 64) (t : Nat) (s : State) : Host.Outcome State Fault Refusal :=
  s.logic t fun d => d.moveChannel ch 2 1 2000000000 id

/-- TRACK_LOSS (R342). -/
def execTrackLoss (ch : Fin 64) (t : Nat) (s : State) : Host.Outcome State Fault Refusal :=
  s.logic t fun d => d.moveChannel ch 3 4 200000000 fun c => { c with slip := true }

/-- SIDE_PEAK_LOCK (R340, R341, R342): on a BOC signal only, by the magnitudes of the seven correlators, which have stood so for
100 ms: the code moves half a chip towards the larger of VE and VL. -/
def execSidePeakLock (ch : ChannelOutputs) (t : Nat) (s : State) : Host.Outcome State Fault Refusal :=
  s.logic t fun d =>
    if bocSignal d.gnss.channels[ch.channel] && sidePeak ch.outputs then
      d.moveChannel ch.channel 3 2 100000000 fun c => { c with code := c.code + (if ch.outputs[6] < ch.outputs[0] then -5 else 5) }
    else d

/-- REACQUIRE_PEAK (R342). -/
def execReacquirePeak (ch : Fin 64) (t : Nat) (s : State) : Host.Outcome State Fault Refusal :=
  s.logic t fun d => d.moveChannel ch 4 2 0 id

/-- REACQUIRE_TIMEOUT (R342). -/
def execReacquireTimeout (ch : Fin 64) (t : Nat) (s : State) : Host.Outcome State Fault Refusal :=
  s.logic t fun d => d.moveChannel ch 4 0 10000000000 fun c => c.release d.time.now

/-- MEASUREMENT_EPOCH (R343). -/
def execMeasurementEpoch (obs : Vector Observation 64) (t : Nat) (s : State) : Host.Outcome State Fault Refusal :=
  s.logic t fun d => measurementEpochEff d obs

/-- GNSS_SOLUTION (R344). -/
def execGnssSolution (fix : GnssFix) (t : Nat) (s : State) : Host.Outcome State Fault Refusal :=
  s.logic t fun d => gnssSolutionEff d fix

/-- BASE_EPOCH (R350). -/
def execBaseEpoch (epoch : Int) (fix : BaselineMeasure) (t : Nat) (s : State) : Host.Outcome State Fault Refusal :=
  s.logic t fun d => baseEpochEff d epoch fix

/-- CORRECTION_INPUT (R347): a write to 0x2B03:01 of frames as decoded, 8 bytes each for the length check. -/
def execCorrectionInput (acc : Accessor) (frames : List RtcmFrame) (t : Nat) (s : State) :
    Host.Outcome State Fault Refusal :=
  s.logic t fun d =>
    let q := d.nextSeq acc
    d.writeObject acc 0x2B0301 (.bytes (List.replicate (8 * frames.length) 0)) false none (correctionAct q frames)

/-- LEAP_SECOND (R345). -/
def execLeapSecond (t : Nat) (s : State) : Host.Outcome State Fault Refusal := s.logic t leapSecondEff

/-- KEPT_DATA_COMMIT (R352). -/
def execKeptDataCommit (t : Nat) (s : State) : Host.Outcome State Fault Refusal := s.logic t keptCommitEff

/-- KEPT_DATA_ERASE (R352): a write to 0x2B06:02. -/
def execKeptDataErase (acc : Accessor) (v : Int) (s : State) : Host.Outcome State Fault Refusal :=
  s.logicNow fun d => d.writeObject acc 0x2B0602 (.num v) false none fun d => d.baseband fun g => { g with erase := true }

/-- START_FALLBACK (R353). -/
def execStartFallback (t : Nat) (s : State) : Host.Outcome State Fault Refusal := s.logic t startFallbackEff

end Sys2Proof.Machine
end

