-- ==== Sys2Proof/Machine/Power.lean ====
section
/-! DEFINITION. Resets, boot and power modes (R436 to R441, R462, R475 to R480): what a reset of the logic and MRAM dies
leaves, the order of a boot, dormant and off mode, and the restart. -/

namespace Sys2Proof.Machine

/-! ### Resets -/

/-- R385, R460, Table 20.3: the objects that the device records keep across a reset. -/
def keptAddr (a : Nat) : Bool :=
  a = 0x240002 || a = 0x250006 || a = 0x290002 || a = 0x2D010C || a = 0x22010E
  || (0x2E0103 ≤ a && a ≤ 0x2E0105) || (0x2E0203 ≤ a && a ≤ 0x2E0205) || a = 0x2E0302 || a = 0x2E0303 || a = 0x2F0009
  || (0x310102 ≤ a && a ≤ 0x310105) || a = 0x310107 || a = 0x31010A || a = 0x310202 || a = 0x310203 || a = 0x310302
  || a = 0x2D0608

/-- The device records as they stand at a reset. -/
def Dev.keptNow (d : Dev) : Store :=
  if d.power.run = .running || d.power.run = .recovery then
    let k := storeMerge (storeKeep (fun a => !keptAddr a) d.nvm.kept) (storeKeep keptAddr d.obj)
    if d.jrn.counterDue = 0 then k else storePut k 0x310302 (.num (d.int 0x310302 - d.jrn.counterDue))
  else d.nvm.kept

/-- R479: a reset of the logic and MRAM dies: what is neither in MRAM, nor on the power die, nor in the always-on domain
is lost. -/
def Dev.resetLogic (d : Dev) (run : RunState) (cause : Nat) : Dev :=
  { pins := d.pins
    power := { run := run, cause := cause, firstFrame := d.power.firstFrame, porArmed := d.power.porArmed
               releasedAt := d.time.now }
    pd := { d.pd with settings := false, absent := false }
    valve := d.valve
    lsw := d.lsw
    pwm := { d.pwm with frozen := false }
    inp := { din := d.inp.din }
    eng := { retest := d.eng.retest }
    time := { now := d.time.now }
    rtc := d.rtc
    nvm := { d.nvm with kept := d.keptNow }
    out := d.out
    draws := d.draws }

/-- Add one to a counter of the device records. -/
def Dev.bumpKept (d : Dev) (a : Nat) : Dev :=
  let v := valInt ((storeFind d.nvm.kept a).getD (objDefault a))
  { d with nvm := { d.nvm with kept := storePut d.nvm.kept a (.num ((v + 1) % 2 ^ 32)) } }

/-- The number that the device records hold for an object. -/
def Dev.keptInt (d : Dev) (a : Nat) : Int := valInt ((storeFind d.nvm.kept a).getD (objDefault a))

/-- R29, R436, R437, R466, R479: the power-on reset releases: the power-cycle count rises, the thermal latch may be
cleared by the next frame, a device held unarmed is freed, and the debug state ends. -/
def powerOnEff (d : Dev) (role : Bool) : Dev :=
  if d.power.porArmed then
    let d := d.resetLogic .hold 1
    let d := { d with
      pins := { d.pins with role := role }
      power := { d.power with firstFrame := true, porArmed := false }
      nvm := { d.nvm with heldUnarmed := false } }
    let d := d.bumpKept 0x2F0009
    if d.keptInt 0x310202 = 3 then
      ({ d with nvm := { d.nvm with kept := storePut d.nvm.kept 0x310202 (.num 2) } } : Dev).writeNow 0x1703 0xFFFF [(2, 2)]
    else d
  else d

/-- R439: VIN falls below 0.9 V: the power-on reset re-arms, and the logic die is held. -/
def powerRearmEff (d : Dev) : Dev :=
  let d := d.resetLogic .hold 1
  { d with power := { d.power with porArmed := true } }

/-- R463: a supervision or lock-loss reset during the trial marks the trial image failed. -/
def Dev.failTrial (d : Dev) : Dev := if d.nat d.runningStateAddr = 3 then d.put d.runningStateAddr 5 else d

/-- R439, R441: a clock monitor declares loss of lock: the logic die is held in a lock-loss reset. -/
def lockLossEff (d : Dev) : Dev :=
  match d.power.run with
  | .running => (d.failTrial.resetLogic .lockLoss 4).bumpKept 0x2E0303
  | .recovery => (d.resetLogic .lockLoss 4).bumpKept 0x2E0303
  | _ => d

/-- R436: the logic die is held in reset 4 ms after the last refresh of a shutdown. -/
def shutdownHoldEff (d : Dev) : Dev :=
  if d.power.shutdownBegun && d.teth.lastRefresh + 4000000 ≤ d.time.now then d.resetLogic .shutdown 1 else d

/-- R437: the supervision reset takes effect; the third within 1 h makes the device boot unarmed. -/
def supervisionResetEff (d : Dev) : Dev :=
  if d.power.run = .running && d.teth.resetPending && d.teth.lastRefresh + 4000000 ≤ d.time.now then
    let recent := d.nvm.supervision.filter fun t => d.time.now < t + 3600000000000
    let d := (d.failTrial.resetLogic .hold 3).bumpKept 0x2E0302
    { d with nvm := { d.nvm with
        supervision := recent ++ [d.time.now], heldUnarmed := d.nvm.heldUnarmed || 2 ≤ recent.length } }
  else d

/-- R476, Table 21.4: the device leaves dormant or off mode; the wake source goes to 0x2D06:09. -/
def Dev.wake (d : Dev) (source : Nat) : Dev :=
  let cause := if d.power.run = .offMode then 6 else 5
  (d.resetLogic .hold cause).put 0x2D0609 source

/-- R476, R479: NRST was held low for a time and is released: pulses below 1 µs are rejected, and a wake takes 10 µs. A
thermal shutdown stays latched (R436). -/
def nrstEff (d : Dev) (low : Nat) : Dev :=
  match d.power.run with
  | .dormant => if 10000 ≤ low then d.wake 4 else d
  | .offMode => if 10000 ≤ low then d.wake 4 else d
  | .shutdown => d
  | _ => if 1000 ≤ low then d.resetLogic .hold 2 else d

/-- R466: the debug port answers. -/
def Dev.debugPort (d : Dev) : Bool := d.nat 0x310202 = 3 && !d.nvm.debugNext

/-- R479: a reset from the debug port. -/
def debugResetEff (d : Dev) : Dev :=
  if (d.power.run = .running || d.power.run = .recovery) && d.debugPort then d.resetLogic .hold 8 else d

/-- R27, R255: a halt of a core from the debug port freezes the bridge PWM generator. -/
def debugHaltEff (d : Dev) (core1 : Bool) : Dev :=
  if d.debugPort then
    { d with
      power := { d.power with halted0 := d.power.halted0 || !core1, halted1 := d.power.halted1 || core1 }
      pwm := { d.pwm with frozen := true } }
  else d

/-! ### Boot -/

/-- States of an image that may run. -/
def imageRuns (n : Int) : Bool := n = 2 || n = 3 || n = 4

/-- R461: an image that was found valid when it was loaded still is: its security version is not below the rollback
counter, and no row of its area is fenced. -/
def Dev.imageStands (d : Dev) (b : Bool) : Bool :=
  d.nat 0x31010A ≤ imageSecurity (if b then d.nvm.imageB else d.nvm.imageA) && !d.nvm.fenced[if b then (1 : Fin 2) else 0]

/-- R461, R462: one image at boot: one that fails its verification is recorded, and failed from then on. -/
def Dev.verifyImage (d : Dev) (b : Bool) : Dev :=
  let a := if b then 0x310103 else 0x310102
  let i := if b then d.nvm.imageB else d.nvm.imageA
  let broken := (imageRuns (d.int a) && !d.imageStands b) ||
    (d.nat a = 5 && !imageValid i (d.nat 0x31010A) d.nvm.fenced[if b then (1 : Fin 2) else 0])
  if broken then (d.put a 5).writeNow 0x1701 0xFFFF [(2, (if b then 1 else 0))] else d

/-- R461, R462: the image that the boot code runs: none is recovery. -/
def Dev.chooseImage (d : Dev) : Option Bool × Dev :=
  let chosen := d.nvm.bootChoice = 1
  let d := (d.verifyImage false).verifyImage true
  let stateOf := fun (b : Bool) => d.int (if b then 0x310103 else 0x310102)
  if imageRuns (stateOf chosen) then (some chosen, d)
  else if imageRuns (stateOf !chosen) then
    let n := if chosen then 0 else 1
    (some !chosen, ({ d with nvm := { d.nvm with bootChoice := n } } : Dev).raise 0x1705 0 0xFFFF [(2, n)])
  else (none, if stateOf chosen = 5 then d else d.writeNow 0x1701 0xFFFF [(2, (if chosen then 1 else 0))])

/-- R431: a sensor that was implausible throughout the start-up round is retired. -/
def Dev.retireSensor (d : Dev) (k : Fin 11) : Dev :=
  if d.sensorRetired k then d
  else ((d.fault 19 true k).putBit 0x2D010C k true).raise 0x1505 0 k [(3, Config.reading (0x2D0101 + k) d.draws)]

/-- R460: at boot the other slot is copied level from the live slot before the device first reports ready. -/
def Dev.slotsAtBoot (d : Dev) : Dev :=
  if d.nvm.level && d.nvm.base = d.nvm.live then d
  else { d with nvm := { d.nvm with level := false, slotDone := 0, bootCopy := true } }

/-- R385, R454, R460: objects at boot: the live set, the device records, and the defaults that follow the ROLE strap. -/
def Dev.loadObjects (d : Dev) : Dev :=
  let d := { d with obj := storeMerge (storeMerge d.obj d.nvm.live) d.nvm.kept }
  let d := if d.pins.role then (d.put 0x2A0001 1).put 0x182001 1 else d
  let d := if d.pins.role && d.nvm.liveSeq = 0 then d.put 0x2B0001 1 else d
  let d := d.put 0x181003 d.nvm.liveSet
  let d := { d with swap := { d.swap with nextNumber := u16 (d.nvm.liveSet + 1) } }
  (d.put 0x180002 (d.int 0x180001)).settleTrim

/-- R459: structures with no valid copy take their defaults. -/
def Dev.lostStores (d : Dev) (rep : BootReport) : Dev :=
  let d := if rep.setsLost then { d with nvm := { d.nvm with live := [], base := [], liveSet := 0 } } else d
  if rep.recordsLost then
    { d with nvm := { d.nvm with
      kept := [], opTime := 0, bootChoice := 0, sramSpares := Vector.replicate 16 16, sramFenced := [] } }
  else d

/-- R450: a torn record is lost, and writing resumes on a new page. -/
def tearPage (ps : List Page) : List Page :=
  match ps.getLast? with
  | some p => ps.dropLast ++ [{ p with records := p.records.dropLast }, ⟨p.seq + 1, []⟩]
  | none => ps

/-- R450, R458, R459: what the boot has found in MRAM. -/
def Dev.findings (d : Dev) (rep : BootReport) : Dev :=
  let d := ((d.putBit 0x310001 2 rep.setsLost).putBit 0x310001 3 rep.recordsLost).put 0x310005 rep.invalidCopies
  rep.torn.foldl (fun (d : Dev) a => ({ d with nvm := match a with
    | 0 => { d.nvm with starter := tearPage d.nvm.starter }
    | 1 => { d.nvm with ring := tearPage d.nvm.ring }
    | 2 => { d.nvm with sealedArea := tearPage d.nvm.sealedArea } } : Dev).bump 0x2F000B) d |>.resumeNumbers

/-- R437, R441: the reset cause, and the records of a supervision or lock-loss reset and of a device held unarmed. -/
def Dev.reportReset (d : Dev) : Dev :=
  let c := d.power.cause
  let d := d.put 0x2E0301 c
  let d := if c = 4 then d.fault 16 false 0xFFFF else d
  let d := if c = 3 || c = 4 then d.raise 0x1403 0 0xFFFF [(2, c)] else d
  if d.nvm.heldUnarmed then
    (({ d with hlt := { d.hlt with deviceFault := true } } : Dev).fault 15 true 0xFFFF).raise 0x1404 1 0xFFFF []
  else d

/-- R152, R170, R413: what replay gives back beside the proof set: targets, unacknowledged records and their sequence. -/
def Dev.replayWork (d : Dev) : Dev :=
  let own := (d.nvm.groups.flatMap fun g => g.entries).filter fun e => !e.lead
  let d := d.replayTargets d.jrn.openEntries own
  let recs := d.jrn.openEntries.filterMap fun e => match e.payload with
    | .asApplied r => some (r, 2)
    | _ => none
  d.store fun s => { s with records := recs, appliedSeq := (lastSeq (0x15, 0) d.jrn.seqs).getD 0 }

/-- R480, step 2: boot. In recovery only the host port is served (R462, R463). -/
def Dev.boot (d : Dev) (rep : BootReport) : Dev :=
  let d := { d with power := { d.power with releasedAt := d.time.now - rep.sinceRelease, opBase := d.nvm.opTime } }
  let d := ((d.lostStores rep).slotsAtBoot.loadObjects).findings rep
  let d := { d with nvm := { d.nvm with debugNext := false } }
  let (image, d) := d.chooseImage
  match image with
  | none =>
    let d := (d.put 0x310101 0xFF).put 0x110003 1
    { d.put 0x2E0301 d.power.cause with power := { d.power with run := .recovery } }
  | some b =>
    let d := d.put 0x310101 (if b then 1 else 0)
    let d := { d with power := { d.power with run := .running } }
    let d := d.nvm.sramFenced.foldl Dev.fenceRow d.reportReset
    let d := d.startDrays d.eng.retest rep.drayFails
    let d := { d with eng := { d.eng with retest := [] } }
    let d := rep.sensorFails.foldl Dev.retireSensor d
    let d := replayEff d rep.replayMicros rep.badGroup
    let d := d.replayWork
    let d := (((d.bootDelays).bootSupplies).bootLanes).bootGnss
    (d.loadStartMask).readTether

/-- R480: the boot that ends a hold in reset. -/
def bootEff (d : Dev) (rep : BootReport) : Dev :=
  if d.power.run = .hold && !d.power.porArmed then d.boot rep else d

/-- R441: the boot that ends a lock-loss reset. -/
def lockHeldEff (d : Dev) (rep : BootReport) : Dev :=
  if d.power.run = .lockLoss && !d.power.porArmed then d.boot rep else d

/-! ### Dormant mode, off mode and restart (R475, R479) -/

/-- R475, R479: an accepted power-mode request; on the lead a dormant or off request goes to every present device. -/
def powerRequestAct (acc : Accessor) (r : PowerRequest) (d : Dev) : Dev :=
  let d := { d with power := { d.power with request := some (r, d.seq.number) } }
  match acc, r with
  | .mgmt _, _ => d
  | _, .restart => d
  | _, .dormant => if d.isLead then d.forwardAll 0x2D0601 (.num 1) false else d
  | _, .off => if d.isLead then d.forwardAll 0x2D0601 (.num 2) false else d

/-- 0x2D06:01: the request that a value names. -/
def requestOf (v : Int) : PowerRequest := if v = 2 then .off else .dormant

/-- R475: a forward of the request is unconfirmed and its device is not missing. -/
def Dev.requestForwarded (d : Dev) : Bool :=
  d.dic.remotes.any fun r => r.req.address = 0x2D0601 && d.seq.map.testBit r.position

/-- R475, R479: the journal group of the work so far is whole. -/
def Dev.journalWhole (d : Dev) : Bool := d.jrn.openHalf = [] && d.jrn.reserved = [] && !d.seq.journalDue

/-- R475, step 2: commit what must be whole, and stop refreshing the permission. -/
def Dev.stopPermission (d : Dev) : Dev :=
  let d := { d with jrn := { d.jrn with tailMoved := true } }
  let d := checkpointEff d
  let d := d.commitKept
  let d := ({ d with nvm := { d.nvm with opTime := d.opTime } } : Dev).bump 0x310004
  { d with power := { d.power with stoppedAt := some d.time.now } }

/-- R475, R479: what a boundary does for a request: outlets out of service and load switches off; the restart stops the
permission 3 batches after its acceptance. -/
def Dev.windDown (d : Dev) : Dev :=
  match d.power.request with
  | none => d
  | some (r, n) =>
    if !d.power.winding then
      if r ≠ .restart && d.requestForwarded then
        { d with power := { d.power with request := some (r, d.seq.number) } }
      else
        let d := { d with power := { d.power with winding := true } }
        switchWriteAct 0x260004 0 (d.put 0x260004 0)
    else if r = .restart && d.power.stoppedAt.isNone && 3 ≤ u32 (d.seq.number + 2 ^ 32 - n) && d.journalWhole then
      d.stopPermission
    else d

/-- R475, step 2. -/
def powerDownEff (d : Dev) : Dev :=
  match d.power.request with
  | some (r, n) =>
    if r ≠ .restart && d.power.winding && d.power.stoppedAt.isNone && 10 ≤ u32 (d.seq.number + 2 ^ 32 - n)
        && d.journalWhole then d.stopPermission
    else d
  | none => d

/-- R475, R479: the permission has been stopped for a request, and 4 ms have passed since the last refresh. -/
def Dev.silentLong (d : Dev) : Bool := d.power.stoppedAt.isSome && d.teth.lastRefresh + 4000000 ≤ d.time.now

/-- R475, step 3: every island but the always-on domain switches off; off mode stops the RTC too. -/
def switchOffEff (d : Dev) : Dev :=
  match d.power.request with
  | some (.dormant, _) =>
    if d.silentLong then
      let alarm := d.nat 0x2D0603
      let d := (d.resetLogic .dormant 5).bumpKept 0x2D0608
      { d with rtc := { d.rtc with alarm := alarm } }
    else d
  | some (.off, _) => if d.silentLong then { d.resetLogic .offMode 6 with rtc := {} } else d
  | _ => d

/-- R479: the reset of a restart. -/
def restartEff (d : Dev) : Dev :=
  match d.power.request with
  | some (.restart, _) => if d.silentLong then d.resetLogic .hold 7 else d
  | _ => d

/-- R476: a wake source that the live set enables, in dormant mode. -/
def Dev.wakeEnabled (d : Dev) (k : Nat) : Bool :=
  d.power.run = .dormant && (valInt (storeGet d.nvm.live 0x2D0602)).toNat.testBit k

/-! ### Meanings -/

/-- POWER_ON_RESET (R29). -/
def execPowerOnReset (roleHigh : Bool) (t : Nat) (s : State) : Host.Outcome State Fault Refusal :=
  s.act t fun d => powerOnEff d roleHigh

/-- SHUTDOWN_RESET_HOLD (R436). -/
def execShutdownResetHold (t : Nat) (s : State) : Host.Outcome State Fault Refusal := s.logic t shutdownHoldEff

/-- CLOCK_LOCK_LOSS (R439). -/
def execClockLockLoss (t : Nat) (s : State) : Host.Outcome State Fault Refusal := s.act t lockLossEff

/-- NRST_ASSERT (R476, R479). -/
def execNrstAssert (lowNs t : Nat) (s : State) : Host.Outcome State Fault Refusal := s.act t fun d => nrstEff d lowNs

/-- DEBUG_PORT_RESET (R479). -/
def execDebugPortReset (t : Nat) (s : State) : Host.Outcome State Fault Refusal := s.act t debugResetEff

/-- DEBUG_HALT (R255). -/
def execDebugHalt (core : Bool) (t : Nat) (s : State) : Host.Outcome State Fault Refusal :=
  s.logic t fun d => debugHaltEff d core

/-- SUPERVISION_RESET (R437). -/
def execSupervisionReset (t : Nat) (s : State) : Host.Outcome State Fault Refusal := s.act t supervisionResetEff

/-- DORMANT_REQUEST (R475): a write of 1 to 0x2D06:01. -/
def execDormantRequest (acc : Accessor) (s : State) : Host.Outcome State Fault Refusal :=
  s.logicNow fun d => d.writeObject acc 0x2D0601 (.num 1) false none (powerRequestAct acc .dormant)

/-- OFF_REQUEST (R475): a write of 2 to 0x2D06:01. -/
def execOffRequest (acc : Accessor) (s : State) : Host.Outcome State Fault Refusal :=
  s.logicNow fun d => d.writeObject acc 0x2D0601 (.num 2) false none (powerRequestAct acc .off)

/-- POWER_DOWN_ENTRY (R475). -/
def execPowerDownEntry (t : Nat) (s : State) : Host.Outcome State Fault Refusal := s.logic t powerDownEff

/-- POWER_DOWN_SWITCH_OFF (R475). -/
def execPowerDownSwitchOff (t : Nat) (s : State) : Host.Outcome State Fault Refusal := s.logic t switchOffEff

/-- RESTART_REQUEST (R479): a write to 0x2D06:04. -/
def execRestartRequest (acc : Accessor) (v : Int) (s : State) : Host.Outcome State Fault Refusal :=
  s.logicNow fun d => d.writeObject acc 0x2D0604 (.num v) false none (powerRequestAct acc .restart)

/-- RESTART_RESET (R479). -/
def execRestartReset (t : Nat) (s : State) : Host.Outcome State Fault Refusal := s.logic t restartEff

/-- WAKE_DIN0 (R476): DIN0 has held a level for 10 ms. -/
def execWakeDin0 (level : Bool) (t : Nat) (s : State) : Host.Outcome State Fault Refusal :=
  s.act t fun d => if d.wakeEnabled (if level then 0 else 1) then d.wake 1 else d

/-- WAKE_HOST_SELECT (R476). -/
def execWakeHostSelect (t : Nat) (s : State) : Host.Outcome State Fault Refusal :=
  s.act t fun d => if d.wakeEnabled 2 then d.wake 2 else d

/-- RTC_ALARM (R476). -/
def execRtcAlarm (t : Nat) (s : State) : Host.Outcome State Fault Refusal :=
  s.act t fun d =>
    if d.wakeEnabled 3 && d.rtc.alarm ≠ 0 && d.rtc.valid && (d.rtc.alarm : Int) * 1000000000 ≤ d.rtcNow then d.wake 3 else d

/-- POWER_ON_RESET_REARM (R439). -/
def execPowerOnResetRearm (t : Nat) (s : State) : Host.Outcome State Fault Refusal := s.act t powerRearmEff

end Sys2Proof.Machine
end

