-- ==== Sys2Proof/Machine/Service.lean ====
section
/-! DEFINITION. The dictionary as every path uses it (R374 to R392): what a read of an object returns, captures and
queues, which action a written object names, and the aggregator's reads and writes of other devices. -/

namespace Sys2Proof.Machine

/-! ### Values on a 32-bit data word (R380) -/

/-- Two's complement of a 32-bit word. -/
def wordSigned (w : Nat) : Int := if w % 2 ^ 32 < 2 ^ 31 then (w % 2 ^ 32 : Nat) else (w % 2 ^ 32 : Nat) - 2 ^ 32

/-- R380: the value that a 32-bit data word spells for a type of at most 32 bits; none where the bits above the value are
no extension of it. -/
def wordValue (ty : OType) (w : Nat) : Option Val :=
  let unsigned := fun (n : Nat) => if w < n then some (Val.num w) else none
  let signed := fun (n : Int) =>
    let i := wordSigned w
    if w < 2 ^ 32 && -n ≤ i && i < n then some (Val.num i) else none
  match ty with
  | .bool => unsigned 2
  | .u8 => unsigned (2 ^ 8)
  | .u16 => unsigned (2 ^ 16)
  | .ang => unsigned (2 ^ 16)
  | .u32 => unsigned (2 ^ 32)
  | .us => unsigned (2 ^ 32)
  | .i8 => signed (2 ^ 7)
  | .i16 => signed (2 ^ 15)
  | .i32 => signed (2 ^ 31)
  | .mm => signed (2 ^ 31)
  | .q16 => signed (2 ^ 31)
  | _ => none

/-- R380: the 32-bit data word of a value. -/
def valueWord (v : Int) : Nat := (v % 2 ^ 32).toNat

/-- R380: whether a type is signed. -/
def typeSigned : OType → Bool
  | .i8 => true
  | .i16 => true
  | .i32 => true
  | .mm => true
  | .q16 => true
  | _ => false

/-- R380: the value that little-endian bytes spell for a type; none where their number is wrong for it. -/
def bytesValue (ty : OType) (b : List Byte) : Option Val :=
  if typeIsBytes ty then some (.bytes b)
  else if b.length ≠ typeBytes ty then none
  else
    let n := leNat b
    let m := 256 ^ b.length
    some (.num (if typeSigned ty && m ≤ 2 * n then (n : Int) - m else n))

/-! ### What a read returns -/

/-- Table 13.8: one entry of the sweep record. -/
def sweepEncode (e : SweepEntry) : List Byte :=
  leBytes 1 e.position ++ leBytes 1 e.outcome ++ leBytes 1 e.path ++ leBytes 1 e.attempts ++ leBytes 2 e.code
    ++ leBytes 2 0 ++ leBytes 8 e.start ++ leBytes 8 e.stop

/-- The record number at one end of an area, 0 where it is empty. -/
def endRecord (low : Bool) (rs : List Record) : Nat :=
  match rs with
  | [] => 0
  | r :: rest => rest.foldl (fun m x => if low then min m x.number else max m x.number) r.number

/-- The channel that 0x2B05:01 selects. -/
def Dev.selectedChannel (d : Dev) : GnssChannel :=
  if h : d.nat 0x2B0501 < 64 then d.gnss.channels[d.nat 0x2B0501] else {}

/-- The fault kind that 0x2E05:01 selects. -/
def Dev.selectedFault (d : Dev) : FaultCount :=
  if h : d.nat 0x2E0501 - 1 < 20 then d.hlt.faults[d.nat 0x2E0501 - 1] else {}

/-- The bytes of a value of an object. -/
def objectBytes (a : Nat) (v : Val) : List Byte :=
  match objRow a with
  | some r => valueBytes r.ty v
  | none => valueBytes .u8 v

/-- R384, Read time: the objects whose value is formed when the read is served; the selects that each accessor has a copy
of (R453) are among them. -/
def Dev.readTime (d : Dev) (acc : Accessor) (a : Nat) : Option Val :=
  let num := fun (n : Nat) => some (Val.num n)
  let y := d.accessor acc
  match a with
  | 0x103003 => some (.bytes (objectBytes (d.nat 0x103002) (d.latest (d.nat 0x103002))))
  | 0x103007 => some (.bytes (objectBytes (d.nat 0x103002) (d.readyValue (d.nat 0x103002))))
  | 0x103101 => num (if h : d.nat 0x103102 < 32 then d.dic.aggSeqs[d.nat 0x103102] else 0)
  | 0x103103 => num (d.dic.remotes.filter fun r => r.sent).length
  | 0x110006 => num d.hp.completions.length
  | 0x110008 => num d.nirqCause
  | 0x180102 => num (u64 d.chain)
  | 0x182101 => num d.rtcWord
  | 0x220201 => some (.bytes ((d.pagesNear.take 16).flatMap (leBytes 4)))
  | 0x220301 => some (.bytes (match d.tiles.slots.find? fun x => x.coord = d.nat 0x220302 with
      | some x => tileEncode (d.transferOf x)
      | none => []))
  | 0x2A0201 => some (.bytes (tableFields d.ch.table))
  | 0x2A2003 => some (.bytes (d.swp.record.flatMap sweepEncode))
  | 0x2A2103 => some (.bytes d.swp.result)
  | 0x2B0502 => some (.bytes (observationEncode d.selectedChannel.obs))
  | 0x2B0503 => num d.selectedChannel.state
  | 0x2B0504 => num (match d.selectedChannel.satellite with
      | some s => 65536 * (s.azimuth % 65536).toNat + (s.elevation % 65536).toNat
      | none => 0)
  | 0x2C0114 => some (.bytes (Config.filterTable 0 (storeKeep inSetSlot d.obj)))
  | 0x2C0214 => some (.bytes (Config.filterTable 1 (storeKeep inSetSlot d.obj)))
  | 0x2E0502 => num d.selectedFault.transient
  | 0x2E0503 => num d.selectedFault.permanent
  | 0x2E0504 => num d.selectedFault.lastUnit
  | 0x2F0008 => num d.opTime
  | 0x2F0101 => num y.area
  | 0x2F0102 => num y.record
  | 0x2F0104 => num y.page
  | 0x2F0105 => some (.bytes (pageAt d.nvm y.page))
  | 0x2F0106 => num (endRecord true (areaRecords d.nvm y.area))
  | 0x2F0107 => num (endRecord false (areaRecords d.nvm y.area))
  | 0x310304 => num (match d.lock.until_ with | some u => (u - d.time.now) / 1000 | none => 0)
  | 0x320103 => num ((lastSeq (d.nat 0x320101, d.nat 0x320102) d.jrn.seqs).getD 0)
  | 0x320104 => num (d.jrn.openEntries.filter fun e => e.source = d.nat 0x320101 && e.subKey = d.nat 0x320102).length
  | _ => none

/-- R374, R390: the DOMAIN objects that are queues. -/
def isQueue (a : Nat) : Bool :=
  a = 0x110005 || a = 0x220204 || a = 0x220206 || a = 0x230201 || a = 0x2F0201 || a = 0x2F0301

/-- The next item of a queue whose records stay until they are acknowledged: the first not yet offered. -/
def nextOffered {α : Type} (now : Nat) : List (Offered α) → Option α × List (Offered α)
  | [] => (none, [])
  | x :: r =>
    if x.offered then
      let (i, r') := nextOffered now r
      (i, x :: r')
    else (some x.item, { x with offered := true, at_ := now } :: r)

/-- R374: take the record at the head of a queue: the bytes latched, and the queue moved on. -/
def Dev.takeHead (d : Dev) (a : Nat) : List Byte × Dev :=
  let now := d.time.now
  match a with
  | 0x110005 => match d.hp.completions with
    | [] => ([], d)
    | (q, o) :: r => (leBytes 4 q ++ leBytes 4 o, { d with hp := { d.hp with completions := r } })
  | 0x220204 =>
    let (i, l) := nextOffered now d.que.writeBacks
    ((i.map tileEncode).getD [], { d with que := { d.que with writeBacks := l } })
  | 0x220206 =>
    let (i, l) := nextOffered now d.que.applied
    ((i.map appliedEncode).getD [], { d with que := { d.que with applied := l } })
  | 0x230201 =>
    let (i, l) := nextOffered now d.que.results
    ((i.map resultEncode).getD [], { d with que := { d.que with results := l } })
  | 0x2F0201 => match d.rcd.notices with
    | [] => ([], d)
    | x :: r => (recordEncode x, { d with rcd := { d.rcd with notices := r } })
  | 0x2F0301 => match d.rcd.chainQueue with
    | [] => ([], d)
    | (p, x) :: r => (leBytes 1 p ++ leBytes 1 0 ++ recordEncode x, { d with rcd := { d.rcd with chainQueue := r } })
  | _ => ([], d)

/-- R381 to R385: the abort of a read; none where it is served. A proof read needs an RWB or CAL object (R392), the
notice queue the aggregator (R456). -/
def Dev.readCheck (d : Dev) (acc : Accessor) (a : Nat) : Option Nat :=
  if d.power.run = .recovery && !servedInRecovery a then some 0x06020000
  else match objRow a with
  | none =>
    let section_ := objSection (a / 4096)
    if !hasIndex section_ (a / 256) then some 0x06020000
    else if a % 256 = 0 && highestSub section_ (a / 256) > 0 then none
    else some 0x06090011
  | some r =>
    if roleForbids d r a || (0x110001 ≤ a && a ≤ 0x11000F && acc ≠ .host) then some 0x06010000
    else if r.kind = .wo then some 0x06010001
    else if (a = 0x103003 || a = 0x103007) && !inSetSlot (d.nat 0x103002) then some 0x06010000
    else if a = 0x2F0201 && (match acc with | .mgmt _ => false | _ => true) then some 0x06010000
    else none

/-- R380, Table 16.4: the largest value that a path carries. -/
def pathLimit : Accessor → Nat
  | .canI _ => 1785
  | .sdo => 65535
  | _ => 131072

/-- R24, R381: the value that a read returns where nothing is taken from a queue. -/
def Dev.valueOf (d : Dev) (acc : Accessor) (a : Nat) : Val :=
  match d.readTime acc a with
  | some v => v
  | none => match objRow a with
    | some r => if r.eff = .snap && d.power.run = .running then storeGet d.snap a else storeGet d.obj a
    | none => storeGet d.obj a

/-- R374, R381, R453: a read of a whole value: a queue moves on and a record read advances its select. -/
def Dev.readObject (d : Dev) (acc : Accessor) (a : Nat) : ReadResult × Dev :=
  match d.readCheck acc a with
  | some c => (.aborted c, d.recordAbort acc a c)
  | none =>
    let r : Val × Dev :=
      if isQueue a then
        let (b, d) := d.takeHead a
        (.bytes b, d)
      else if a = 0x2F0103 then
        let (b, d) := recordRead d acc
        (.bytes b, d)
      else (d.valueOf acc a, d)
    if pathLimit acc < (valBytes r.1).length then (.aborted 0x06070012, d.recordAbort acc a 0x06070012)
    else (.value r.1 false, r.2)

/-! ### Captures (R389, R390) -/

/-- R389: a low-half read: the whole value goes into the accessor's slot. -/
def Dev.captureWide (d : Dev) (acc : Accessor) (tag : Nat) (v : Nat) : Dev :=
  d.setAccessor { d.accessor acc with wide := some (tag, v, d.time.now) }

/-- R389: the captured value of a tag, at most 10 ms old. -/
def Dev.wideCapture (d : Dev) (acc : Accessor) (tag : Nat) : Option Nat :=
  match (d.accessor acc).wide with
  | some (t, v, at_) => if t = tag && d.time.now < at_ + 10000000 then some v else none
  | none => none

/-- R390: capture the bytes of a DOMAIN or STR value, or of a queue record. -/
def Dev.captureBlock (d : Dev) (acc : Accessor) (tag : Nat) (b : List Byte) (queue : Bool) : Dev :=
  d.setAccessor { d.accessor acc with block := some (tag, b, d.time.now, queue) }

/-- R390: the captured bytes of a tag: at most 1 s old, a queue record without limit. -/
def Dev.blockCapture (d : Dev) (acc : Accessor) (tag : Nat) : Option (List Byte) :=
  match (d.accessor acc).block with
  | some (t, b, at_, queue) => if t = tag && (queue || d.time.now < at_ + 1000000000) then some b else none
  | none => none

/-- R391: stage a high half. -/
def Dev.stageHalf (d : Dev) (acc : Accessor) (tag data : Nat) : Dev :=
  d.setAccessor { d.accessor acc with staged := some (tag, data, d.time.now) }

/-- R391: take the staged half of a tag, at most 10 ms old. -/
def Dev.takeStagedHalf (d : Dev) (acc : Accessor) (tag : Nat) : Option Nat × Dev :=
  match (d.accessor acc).staged with
  | some (t, v, at_) =>
    if t = tag && d.time.now < at_ + 10000000 then (some v, d.setAccessor { d.accessor acc with staged := none })
    else (none, d)
  | none => (none, d)

/-- R391: a staged half that has not been completed in 10 ms is discarded. -/
def stagedExpiryEff (d : Dev) (acc : Accessor) : Dev :=
  match (d.accessor acc).staged with
  | some (_, _, at_) => if at_ + 10000000 ≤ d.time.now then d.setAccessor { d.accessor acc with staged := none } else d
  | none => d

/-! ### The action that a written object names -/

/-- What a write of an object brings beside the access rules: a busy condition, a state check, and its action. -/
structure ObjAction where
  busy : Bool
  state : Option Nat
  act : Dev → Dev

/-- An action that has neither a busy condition nor a state check. -/
def plainAct (f : Dev → Dev) : ObjAction := ⟨false, none, f⟩

/-- The local unit of a record address. -/
def unitOf (a base n : Nat) (h : 0 < n) : Fin n := ⟨(a / 256 - base) % n, Nat.mod_lt _ h⟩

/-- R381, Table 16.2: the action of a write to an address, where its chapter names one. -/
def Dev.actionOf (d : Dev) (acc : Accessor) (a : Nat) (v : Val) : ObjAction :=
  let i := valInt v
  let n := i.toNat
  let b := valBytes v
  match a with
  | 0x181001 => ⟨false, namedState d i, namedAct i⟩
  | 0x181101 => ⟨false, cancelState d, Dev.cancelSet⟩
  | 0x205801 => plainAct (supplyEnableAct 0 i)
  | 0x205802 => plainAct (supplyEnableAct 1 i)
  | 0x220202 => ⟨d.transferFull, none, tileInAct (tileDecode b)⟩
  | 0x220203 => plainAct (tileAbsentAct n)
  | 0x220205 => plainAct (writeBackAckAct (le32 b 0) (le32 b 4))
  | 0x220207 => plainAct (appliedAckAct (le32 b 0 % 256) (le32 b 4))
  | 0x230101 => ⟨!d.intakeRoom ((b.length - 8) / 44) || d.resultsFull, none, targetBytesAct b⟩
  | 0x230202 => plainAct (resultAcknowledgeAct (le32 b 0 % 256) (le32 b 4))
  | 0x240207 => plainAct drayRetestAct
  | 0x250007 => plainAct (channelReturnAct n)
  | 0x260004 => plainAct (switchWriteAct a i)
  | 0x270008 => plainAct (pairReturnAct n)
  | 0x290003 => plainAct (laneRetestAct i)
  | 0x2A2001 => ⟨false, sweepStartState d (le32 b 0 % 256), sweepStartAct (le32 b 0 % 256) (le32 b 4)⟩
  | 0x2A2004 => plainAct sweepCancelAct
  | 0x2A2101 => plainAct fun d => d.startStep (le32 b 0 % 256) (le32 b 4)
  | 0x2B0301 => plainAct (correctionAct (d.nextSeq acc) (rtcmDecode b.length b))
  | 0x2B0602 => plainAct fun d => d.baseband fun g => { g with erase := true }
  | 0x2D0601 => plainAct (powerRequestAct acc (requestOf i))
  | 0x2D0604 => plainAct (powerRequestAct acc .restart)
  | 0x2F000A => plainAct fun d => { d with rcd := { d.rcd with clearRing := some (pathCode acc % 8) } }
  | 0x2F0101 => plainAct fun d => d.setAccessor { d.accessor acc with area := n }
  | 0x2F0102 => plainAct fun d => d.setAccessor { d.accessor acc with record := n }
  | 0x2F0104 => plainAct fun d => d.setAccessor { d.accessor acc with page := n }
  | 0x310106 =>
    let o := le32 b 0
    ⟨false, if o + (b.length - 4) > 1048576 then some 0x06090030 else none, imageChunkAct o (b.drop 4)⟩
  | 0x310108 => plainAct imageEraseAct
  | 0x310109 => ⟨false, imageActivateState d, imageActivateAct⟩
  | 0x310201 => ⟨false, lifecycleState d [1, 2], calibrationKeyAct b⟩
  | 0x310206 => ⟨false, lifecycleState d [2], debugUnlockAct⟩
  | 0x310207 => ⟨false, lifecycleState d [2, 3], decommissionAct⟩
  | 0x310301 => plainAct (tagAct acc b)
  | 0x320209 => plainAct (clientReleaseAct n)
  | _ =>
    let x := a / 256
    let s := a % 256
    if 0x2020 ≤ x && x ≤ 0x202F && s = 0x0D then plainAct fun d => d.heightWritten (unitOf a 0x2020 16 (by omega))
    else if 0x2610 ≤ x && x ≤ 0x2617 && s = 8 then plainAct (switchWriteAct a i)
    else if 0x2810 ≤ x && x ≤ 0x282F && s = 0x13 then plainAct (moveCommandAct (unitOf a 0x2810 32 (by omega)) n)
    else if 0x2810 ≤ x && x ≤ 0x282F && s = 0x14 then
      ⟨false, positionState d (unitOf a 0x2810 32 (by omega)), positionAct (unitOf a 0x2810 32 (by omega)) i⟩
    else if 0x3000 ≤ x && x ≤ 0x301F && s = 0x25 then plainAct fun d => d.proofWrite acc a v false
    else ⟨false, proofState a v, id⟩

/-- R453: a write of a select goes to the writing accessor's copy alone. -/
def perAccessor (a : Nat) : Bool := a = 0x2F0101 || a = 0x2F0102 || a = 0x2F0104

/-- R156: a host's target message that fails its CRC or its count check: it is discarded and nothing is answered. -/
def Dev.badTargets (d : Dev) (acc : Accessor) (a : Nat) (v : Val) : Bool :=
  a = 0x230101 && (writeCheck d acc a v).isNone &&
    match targetMessageDecode (valBytes v) with
    | some recs => 16 < recs.length
    | none => true

/-- R375, R381: one write of an accessor to the device itself. -/
def Dev.performWrite (d : Dev) (acc : Accessor) (a : Nat) (v : Val) : Dev :=
  if d.badTargets acc a v then d
  else
    let x := d.actionOf acc a v
    let keep := storeGet d.obj a
    let d := d.writeObject acc a v x.busy x.state x.act
    if perAccessor a then d.putVal a keep else d

/-! ### Other devices (R387, R388) -/

/-- Table 16.5: the origin path of an accessor. -/
def originOf : Accessor → Nat
  | .host => 0
  | .canI _ => 1
  | .sdo => 2
  | .internal _ => 3
  | .mgmt o => o

/-- R331: the abort of a remote access that cannot be sent: only the lead reaches other devices, and only present ones. -/
def Dev.remoteForbids (d : Dev) (p : Nat) : Option Nat :=
  if !d.isLead then some 0x06010000 else if !d.seq.map.testBit p then some 0x0F000001 else none

/-- R331, R387: the aggregator sends a read for an accessor, unless the same read is outstanding. -/
def Dev.remoteRead (d : Dev) (acc : Accessor) (p a : Nat) : Dev :=
  if d.dic.remotes.any fun r => r.position = p && r.req.address = a && r.req.command = 1 && r.origin = some acc then d
  else
    ({ d with dic := { d.dic with
      nextTag := u16 (d.dic.nextTag + 1)
      remotes := d.dic.remotes ++
        [⟨p, ⟨d.dic.nextTag, 1, originOf acc, a, 0, .num 0⟩, d.time.now, false, none, some acc, true, none⟩] } } : Dev).sendRemotes

/-- R375, R387: a write to another device: taken under the accessor's sequence, journalled and forwarded under the
aggregator's, and acknowledged after the target's response. -/
def Dev.remoteWrite (d : Dev) (acc : Accessor) (p a : Nat) (v : Val) : Dev :=
  let q := d.nextSeq acc
  let src := sourceOf d acc
  match d.remoteForbids p with
  | some c => ((d.recordAbort acc a c).advanceSeq acc q).answerWrite acc (.aborted c)
  | none =>
    if pathLimit acc < (valBytes v).length then ((d.recordAbort acc a 0x06070012).advanceSeq acc q).answerWrite acc (.aborted 0x06070012)
    else if !seqFresh d (src, 0) q then ((d.bump 0x320007).advanceSeq acc q).answerWrite acc .duplicate
    else if d.intakeBusy || (acc = .host && d.hostPending ≥ 16) then
      (if acc = .host then (d.bump 0x320008).bump 0x11000B else d.bump 0x320008).answerWrite acc .busy
    else
      let tag := d.dic.nextTag
      let to32 : Fin 32 := ⟨p % 32, Nat.mod_lt _ (by omega)⟩
      let d := d.forwardVia (originOf acc) a v (inSetSlot a) to32
      let d := { d with
        dic := { d.dic with remoteAcks := d.dic.remoteAcks ++ [Ack.mk acc q 0 none tag] }
        jrn := { d.jrn with seqs := advanceKey (src, 0) q d.jrn.seqs } }
      (d.advanceSeq acc q).answerWrite acc .accepted

/-- Table 19.1: a record as its bytes spell it. -/
def itemsDecode : Nat → List Byte → List (Nat × Int)
  | 0, _ => []
  | f + 1, b =>
    match b with
    | i :: l :: r =>
      if i.toNat = 0 then []
      else (i.toNat, (leNat (r.take l.toNat) : Int)) :: itemsDecode f (r.drop l.toNat)
    | _ => []

/-- Table 19.1: a record as its bytes spell it; none for an empty value. -/
def recordDecode (b : List Byte) : Option Record :=
  if b.length < 30 then none
  else
    let flags := leNat ((b.drop 5).take 1)
    let e : Event :=
      { code := leNat ((b.drop 2).take 2), kind := flags % 4, unit := leNat ((b.drop 6).take 2)
        items := itemsDecode 64 ((b.drop 28).take (b.length - 30)), raisedAt := leNat ((b.drop 20).take 8) }
    some { number := leNat ((b.drop 8).take 4), opTime := leNat ((b.drop 12).take 4), cycles := leNat ((b.drop 16).take 4)
           event := e, inSealed := flags / 4 % 2 = 1 }

/-- R452: a notice that does not follow the last one of its position shows that notices were dropped: the lead reads the
device's replace-me causes directly. -/
def Dev.noticeGap (d : Dev) (p number : Nat) : Dev :=
  if h : p < 32 then
    let last := d.rcd.noticed[p]
    let d := { d with rcd := { d.rcd with noticed := d.rcd.noticed.set p number } }
    if last ≠ 0 && number ≠ u32 (last + 1) then d.ask p 0x2E0002 6 else d
  else d

/-- R398, R434, R452: the lead takes a notice of a wheeler into the chain event queue; a mismatch event waits for the
reconciliation at the next boundary. -/
def Dev.takeNotice (d : Dev) (p : Nat) (r : Record) : Dev :=
  let d := d.noticeGap p r.number
  let q := d.rcd.chainQueue ++ [(p, r)]
  let d := { d with hp := { d.hp with recorded := true } }
  let d := if q.length > 256 then ({ d with rcd := { d.rcd with chainQueue := q.drop 1 } } : Dev).bump 0x2F0302
    else { d with rcd := { d.rcd with chainQueue := q } }
  let cause := ((r.event.items.find? fun i => i.1 = 2).map fun i => i.2.toNat).getD 0
  if r.event.code = 0x1201 then
    { d with dic := { d.dic with reconcile := d.dic.reconcile ++ [(p, r.event.unit, cause)] } }
  else if r.event.code = 0x1501 then
    { d with hlt := { d.hlt with requestPositions := maskBit d.hlt.requestPositions p (decide (r.event.kind = 1)) } }
  else d

/-- R324: the lead sends a rejoining device the values of every chain object that lies in the sets, and so brings its
set level. -/
def Dev.forwardLive (d : Dev) (p : Nat) : Dev :=
  let chained := storeKeep (fun a => match objRow a with
    | some r => r.chain && (r.kind = .rwb || r.kind = .cal)
    | none => false) d.obj
  let q : Fin 32 := ⟨p % 32, Nat.mod_lt _ (by omega)⟩
  chained.foldl (fun (d : Dev) (e : Nat × Val) => d.forwardTo e.1 e.2 true q) d

/-- R394, R398: the commanded, actual and mismatch figures of a unit of another device, as the aggregator last read
them. -/
def Dev.noteUnit (d : Dev) (p a : Nat) (v : Val) : Dev :=
  let x := a / 256
  let s := a % 256
  let unit := (0x3000 ≤ x && x ≤ 0x301F && (s = 0x10 || s = 0x11 || s = 0x13)) ||
    (0x2610 ≤ x && x ≤ 0x2617 && (s = 8 || s = 9)) || a = 0x2B0001
  if unit then
    { d with dic := { d.dic with units := (d.dic.units.filter fun u => u.1 ≠ (p, a)) ++ [((p, a), valInt v)] } }
  else d

/-- The key of a result that the host port keeps (R376): command, target, address. -/
def resultKey (command target a : Nat) : Nat := 2 ^ 40 * command + 2 ^ 24 * (target + 1) + a

/-- R398: the lead sends a device the load-switch mask that it has commanded of it, again. -/
def Dev.sendMask (d : Dev) (p : Nat) : Dev :=
  if h : p < 32 then
    match d.dic.masks[p] with
    | some m => d.forwardTo 0x260004 (.num m) false ⟨p, h⟩
    | none => d
  else d

/-- R398: the refreshed commanded state of a load switch differs from the lead's own. -/
def Dev.resendMask (d : Dev) (p a : Nat) (v : Val) : Dev :=
  let m := if h : p < 32 then d.dic.masks[p] else none
  if 0x261008 ≤ a && a ≤ 0x261708 && a % 256 = 8 && m.any (fun m => m.testBit (a / 256 - 0x2610) != (valInt v != 0)) then
    d.sendMask p
  else d

/-- R376, R388, R325, R452: what the response to a read is for. -/
def Dev.readAnswered (d : Dev) (p a : Nat) (acc : Accessor) (r : ReadResult) : Dev :=
  let d := match r with
    | .value v _ => d.noteUnit p a v
    | .aborted _ => d
  match acc with
  | .host =>
    let keys := d.hp.awaited.filter fun k => k % 2 ^ 40 = resultKey 0 p a
    { d with hp := { d.hp with
      awaited := d.hp.awaited.filter fun k => !keys.any (· = k)
      results := (d.hp.results.filter fun x => !keys.any (· = x.1)) ++ keys.map fun k => (k, r, d.time.now) } }
  | .sdo =>
    let d := { d with can := { d.can with copen := { d.can.copen with sdo := none } } }
    match r with
    | .value v _ =>
      if pathLimit .sdo < (valBytes v).length then (d.recordAbort .sdo a 0x06070012).send (.answer .sdo 6 0x06070012 (.num 0))
      else d.send (.answer .sdo 0 0 v)
    | .aborted c => (d.recordAbort .sdo a c).send (.answer .sdo 6 c (.num 0))
  | .internal 1 =>
    match r with
    | .value v _ =>
      if a = 0x2A2102 then d.sweepAnswer p (valInt v).toNat
      else if d.swp.current = some p then d.sweepEnd p true (valBytes v) else d
    | .aborted _ => d
  | .internal 2 =>
    match r with
    | .value v _ => if valInt v ≠ d.int 0x181003 then d.forwardLive p else d
    | .aborted _ => d
  | .internal 6 =>
    match r with
    | .value v _ =>
      { d with hlt := { d.hlt with replacePositions := maskBit d.hlt.replacePositions p (decide (valInt v ≠ 0)) } }
    | .aborted _ => d
  | .internal 4 =>
    match r with
    | .value v _ => d.resendMask p a v
    | .aborted _ => d
  | .internal 3 =>
    match r with
    | .value v _ => match recordDecode (valBytes v) with
      | some x => (d.takeNotice p x).ask p 0x2F0201 3
      | none => d
    | .aborted _ => d
  | _ => d

/-- The outstanding request of a position and tag. -/
def Dev.findRemote (d : Dev) (p tag : Nat) : Option Remote :=
  d.dic.remotes.find? fun r => r.position = p && r.req.tag = tag && r.sent

/-- A request has ended. -/
def Dev.dropRemote (d : Dev) (p tag : Nat) : Dev :=
  { d with dic := { d.dic with remotes := d.dic.remotes.filter fun r => !(r.position = p && r.req.tag = tag) } }

/-- R387, Table 17.4: a forward has been confirmed, or its write has ended: kind 13 closes kind 12. -/
def Dev.closeForward (d : Dev) (p seq : Nat) : Dev :=
  let d := d.journal (d.entry 13 0x14 seq p true .none)
  d.closeEntries fun e => e.kind = 12 && e.subKey = p && e.seq = seq

/-- R387: acknowledge a write to another device with an outcome. -/
def Dev.answerRemote (d : Dev) (tag outcome : Nat) : Dev :=
  match d.dic.remoteAcks.find? fun w => w.tag = tag with
  | some w =>
    let d := { d with dic := { d.dic with remoteAcks := d.dic.remoteAcks.filter fun w => w.tag ≠ tag } }
    d.releaseAck { w with outcome := outcome, tag := 0 }
  | none => d

/-- R387: a write waits for the target's response on behalf of an accessor. -/
def Dev.awaited (d : Dev) (tag : Nat) : Bool := d.dic.remoteAcks.any fun w => w.tag = tag

/-- Update the outstanding request of a position and tag. -/
def Dev.setRemote (d : Dev) (p tag : Nat) (f : Remote → Remote) : Dev :=
  { d with dic := { d.dic with remotes := d.dic.remotes.map fun r => if r.position = p && r.req.tag = tag then f r else r } }

/-- R387, R388: the aggregator takes a response. A busy answer, and an abort of a forward of a chain object, leave the
request to be sent again; a duplicate counts as accepted. -/
def responseEff (d : Dev) (p : Nat) (resp : DictResponse) : Dev :=
  match d.findRemote p resp.tag with
  | none => d
  | some r =>
    if resp.status = 3 || (resp.status = 6 && r.req.command = 2 && !d.awaited resp.tag) then
      d.setRemote p resp.tag fun r => { r with busyAt := some d.time.now }
    else
      let d := d.dropRemote p resp.tag
      let d := if r.req.command = 2 then
          (d.closeForward p r.req.seq).answerRemote resp.tag (if resp.status = 6 then resp.abort else 0)
        else match r.origin with
          | some acc => d.readAnswered p r.req.address acc (if resp.status = 6 then .aborted resp.abort else .value resp.value false)
          | none => d
      d.sendRemotes

/-- R331: a request has had no response within 20 ms: the device-missing abort; a forward of a chain object is sent
again (R387). -/
def remoteTimeoutEff (d : Dev) (p tag : Nat) : Dev :=
  match d.findRemote p tag with
  | none => d
  | some r =>
    if d.time.now < r.sentAt + 20000000 then d
    else
      let d := d.bump 0x103104
      if r.req.command = 2 && !d.awaited tag then
        (d.setRemote p tag fun r => { r with sent := false, busyAt := none }).sendRemotes
      else
        let d := d.dropRemote p tag
        let d := if r.req.command = 2 then (d.closeForward p r.req.seq).answerRemote tag 0x0F000001
          else match r.origin with
            | some acc => d.readAnswered p r.req.address acc (.aborted 0x0F000001)
            | none => d
        d.sendRemotes

/-- R388: 2 ms after a busy answer the request is sent again under the same tag and sequence. -/
def busyResendEff (d : Dev) (p tag : Nat) : Dev :=
  match d.findRemote p tag with
  | some r => match r.busyAt with
    | some b =>
      if b + 2000000 ≤ d.time.now then
        (d.setRemote p tag fun r => { r with busyAt := none, sentAt := d.time.now }).send (.request p r.req)
      else d
    | none => d
  | none => d

/-- R331, R387, R388: a device serves one management-class request: a read or proof read at once, a write by its aggregator
sequence, answered after its journal commit; the responses leave in request order. The lead takes a device's as-applied record (log entry 116). The two acknowledgements of the lead to a home and to an as-applied source
are taken by any device. -/
def requestEff (d : Dev) (req : DictRequest) : Dev :=
  let acc : Accessor := .mgmt req.origin
  let a := req.address
  let answer := fun (d : Dev) (status abort : Nat) (v : Val) => d.respond ⟨req.tag, status, abort, v⟩
  match req.command with
  | 1 =>
    match d.readObject acc a with
    | (.value v _, d) => answer d 0 0 v
    | (.aborted c, d) => answer d 6 c (.num 0)
  | 2 =>
    if d.isLead && a = 0x220206 then
      match appliedDecode (valBytes req.value) with
      | some r => d.offerRecord r
      | none => d
    else if !d.isLead && (a = 0x220205 || a = 0x220207) then
      let b := valBytes req.value
      answer (if a = 0x220205 then d.writeBackDone (le32 b 0) (le32 b 4) else d.appliedDone (le32 b 4)) 0 0 (.num 0)
    else
      let x := d.actionOf acc a req.value
      match d.writeWith acc a req.value req.seq x.busy x.state x.act with
      | (.accepted, d) =>
        ({ d with jrn := { d.jrn with waiting := d.jrn.waiting.map fun w =>
          if w.acc = acc && w.seq = req.seq then { w with tag := req.tag } else w } } : Dev).awaitCommit req.tag
      | (.busy, d) => answer d 3 0 (.num 0)
      | (.duplicate, d) => answer d 5 0 (.num 0)
      | (.aborted c, d) => answer d 6 c (.num 0)
  | c =>
    if c = 3 || c = 4 then
      if inSetSlot a then
        answer d 0 0 (.bytes (objectBytes a (if c = 3 then d.latest a else d.readyValue a)))
      else answer (d.recordAbort acc a 0x06010000) 6 0x06010000 (.num 0)
    else answer (d.recordAbort acc a 0x05040001) 6 0x05040001 (.num 0)

/-! ### Meanings -/

/-- DICTIONARY_REQUEST (R387, R388). -/
def execDictionaryRequest (req : DictRequest) (t : Nat) (s : State) : Host.Outcome State Fault Refusal :=
  s.logic t fun d => requestEff d req

/-- DICTIONARY_RESPONSE (R387, R388). -/
def execDictionaryResponse (pos : Fin 32) (resp : DictResponse) (t : Nat) (s : State) : Host.Outcome State Fault Refusal :=
  s.logic t fun d => responseEff d pos resp

/-- REMOTE_REQUEST_TIMEOUT (R331). -/
def execRemoteRequestTimeout (pos : Fin 32) (tag t : Nat) (s : State) : Host.Outcome State Fault Refusal :=
  s.logic t fun d => remoteTimeoutEff d pos tag

/-- AGGREGATOR_BUSY_RESEND (R388). -/
def execAggregatorBusyResend (pos : Fin 32) (tag t : Nat) (s : State) : Host.Outcome State Fault Refusal :=
  s.logic t fun d => busyResendEff d pos tag

/-- STAGED_HALF_EXPIRY (R391). -/
def execStagedHalfExpiry (acc : Accessor) (t : Nat) (s : State) : Host.Outcome State Fault Refusal :=
  s.served t fun d => stagedExpiryEff d acc

/-- REGISTER_WRITE (R381): an object that has no row of its own is checked and applied by its access kind. -/
def execRegisterWrite (acc : Accessor) (addr : Nat) (v : Val) (t : Nat) (s : State) : Host.Outcome State Fault Refusal :=
  s.served t fun d => d.performWrite acc addr v

/-- QUEUE_READ (R374): a read of a queue DOMAIN latches the record at its head and moves the queue on. -/
def execQueueRead (acc : Accessor) (addr t : Nat) (s : State) : Host.Outcome State Fault Refusal :=
  s.served t fun d =>
    if isQueue addr then
      match d.readObject acc addr with
      | (.value v _, d) => (d.captureBlock acc addr (valBytes v) true).send (.answer acc 0 0 v)
      | (.aborted c, d) => d.send (.answer acc 6 c (.num 0))
    else d

end Sys2Proof.Machine
end

