-- ==== Sys2Proof/Machine/HostPort.lean ====
section
/-! DEFINITION. The host port (R374 to R376): its transactions, the port registers, reads with their captures, writes
under the write sequence, staging, and access to another device through 0x1100:02. -/

namespace Sys2Proof.Machine

/-- Table 15.6: the device's answer: status byte, abort code, response data. -/
def Dev.hostAnswer (d : Dev) (code abort : Nat) (v : Val) (torn : Bool) : Dev :=
  d.send (.answer .host (d.statusByte code torn) abort v)

/-- Table 15.8, code 6: abort and its record. -/
def Dev.hostAbort (d : Dev) (a c : Nat) : Dev := (d.recordAbort .host a c).hostAnswer 6 c (.num 0) false

/-- R374: every whole transaction is counted; one with a bad request CRC is counted and has no action. -/
def Dev.transaction (d : Dev) (crcOk : Bool) (f : Dev → Dev) : Dev :=
  let d := d.bump 0x110009
  if crcOk then f d else (d.bump 0x11000A).hostAnswer 4 0 (.num 0) false

/-- 0x1100:02: the other device that a transaction reaches; the port registers are always the port's own. -/
def Dev.hostTarget (d : Dev) (a : Nat) : Option Nat :=
  let t := d.nat 0x110002
  if t = 255 || t = d.position || a / 256 = 0x1100 || d.power.run = .recovery then none else some t

/-- The tag of a capture: the object, and the device where it is another one. -/
def captureTag (target : Option Nat) (a : Nat) : Nat := match target with | none => a | some t => 2 ^ 24 * (t + 1) + a

/-- R380: the type of an object; subindex 0x00 of a record is a U8. -/
def objType (a : Nat) : OType := match objRow a with | some r => r.ty | none => .u8

/-- Table 15.7, 0x01: a value, the low half of a 64-bit value with its capture, or the length of a byte string with its
capture. -/
def Dev.serveRead (d : Dev) (target : Option Nat) (a : Nat) (r : ReadResult) : Dev :=
  match r with
  | .aborted c => d.hostAnswer 6 c (.num 0) false
  | .value v _ =>
    let tag := captureTag target a
    if typeIsBytes (objType a) then
      (d.captureBlock .host tag (valBytes v) (isQueue a)).hostAnswer 0 0 (.num (valBytes v).length) false
    else if typeIsWide (objType a) then
      (d.captureWide .host tag (valInt v).toNat).hostAnswer 0 0 (.num (valueWord (valInt v))) false
    else d.hostAnswer 0 0 (.num (valueWord (valInt v))) false

/-- R376: a result kept for a repetition of the same command and address, at most 30 ms old. -/
def Dev.keptResult (d : Dev) (command p a : Nat) : Option ReadResult :=
  match d.hp.results.find? fun x => x.1 = resultKey command p a with
  | some (_, r, at_) => if d.time.now < at_ + 30000000 then some r else none
  | none => none

/-- R376: a read of another device by a command: retry first, then the result kept for that command. -/
def Dev.remoteServe (d : Dev) (command p a : Nat) (f : Dev → ReadResult → Dev) : Dev :=
  match d.remoteForbids p with
  | some c => d.hostAbort a c
  | none => match d.keptResult command p a with
    | some r => f d r
    | none =>
      let key := resultKey command p a
      let waits := if d.hp.awaited.any (· = key) then d.hp.awaited else d.hp.awaited ++ [key]
      (({ d with hp := { d.hp with awaited := waits } } : Dev).remoteRead .host p a).hostAnswer 2 0 (.num 0) false

/-- HOST_READ: command 0x01. -/
def hostReadEff (d : Dev) (a : Nat) : Dev :=
  match d.hostTarget a with
  | some p => d.remoteServe 0x01 p a fun d r => d.serveRead (some p) a r
  | none =>
    let (r, d) := d.readObject .host a
    d.serveRead none a r

/-- R389: the live high half with the torn flag. -/
def Dev.tornHigh (d : Dev) (r : ReadResult) : Dev :=
  match r with
  | .aborted c => d.hostAnswer 6 c (.num 0) false
  | .value v _ => (d.bump 0x103001).hostAnswer 0 0 (.num (valueWord (valInt v / 2 ^ 32))) true

/-- HOST_READ_HIGH: command 0x09: the captured high half, or the live one with the torn flag. -/
def hostReadHighEff (d : Dev) (a : Nat) : Dev :=
  let target := d.hostTarget a
  if !typeIsWide (objType a) then d.hostAbort a 0x06070010
  else match d.wideCapture .host (captureTag target a) with
    | some v => d.hostAnswer 0 0 (.num (valueWord (v / 2 ^ 32 : Nat))) false
    | none => match target with
      | some p => d.remoteServe 0x09 p a fun d r => d.tornHigh r
      | none =>
        let (r, d) := d.readObject .host a
        d.tornHigh r

/-- Words of a byte string from an offset on, 0 beyond its end. -/
def wordsAt (b : List Byte) (offset n : Nat) : List Byte :=
  let part := (b.drop offset).take (4 * n)
  part ++ List.replicate (4 * n - part.length) 0

/-- HOST_BLOCK_READ: command 0x21: words of the capture, or live bytes with the torn flag. A host that clocks fewer words
than 0x1100:0C cuts the transaction short. -/
def hostBlockReadEff (d : Dev) (a offset words : Nat) : Dev :=
  let n := d.nat 0x11000C
  let target := d.hostTarget a
  let live := fun (d : Dev) (r : ReadResult) => match r with
    | .aborted c => d.hostAnswer 6 c (.num 0) false
    | .value v _ => (d.bump 0x103001).hostAnswer 0 0 (.bytes (wordsAt (valBytes v) offset n)) true
  if words < n then d
  else if !typeIsBytes (objType a) then d.hostAbort a 0x06070010
  else match d.blockCapture .host (captureTag target a) with
    | some b => d.hostAnswer 0 0 (.bytes (wordsAt b offset n)) false
    | none => match target with
      | some p => d.remoteServe 0x21 p a live
      | none => match d.readCheck .host a with
        | some c => d.hostAbort a c
        | none => live d (.value (if isQueue a then .bytes [] else d.valueOf .host a) false)

/-- R375: the port registers are written at once and are no accepted work. -/
def Dev.portWrite (d : Dev) (a data : Nat) : Dev :=
  match objRow a with
  | none => d.hostAbort a ((writeCheck d .host a (.num data)).getD 0x06020000)
  | some r => match wordValue r.ty data with
    | none => if r.kind = .rw then d.hostAbort a 0x06090030 else d.hostAbort a 0x06010002
    | some v => match writeCheck d .host a v with
      | some c => d.hostAbort a c
      | none => (d.putVal a v).hostAnswer 0 0 (.num 0) false

/-- R375: one write of the host port, to the device itself or to another. -/
def Dev.hostWriteVal (d : Dev) (a : Nat) (v : Val) : Dev :=
  match d.hostTarget a with
  | some p => d.remoteWrite .host p a v
  | none => d.performWrite .host a v

/-- R375, R399: a write that its data word or staged half rules out. -/
def Dev.hostWriteAbort (d : Dev) (a c : Nat) : Dev := (d.advanceSeq .host (d.nextSeq .host)).hostAbort a c

/-- HOST_WRITE: command 0x02. -/
def hostWriteEff (d : Dev) (a data : Nat) : Dev :=
  if a / 256 = 0x1100 && 1 ≤ a % 256 && a % 256 ≤ 15 then d.portWrite a data
  else if typeIsWide (objType a) then
    match d.takeStagedHalf .host (captureTag (d.hostTarget a) a) with
    | (some hi, d) => d.hostWriteVal a (.num (hi % 2 ^ 32 * 2 ^ 32 + data % 2 ^ 32 : Nat))
    | (none, d) => d.hostWriteAbort a 0x06070010
  else if typeIsBytes (objType a) then d.hostWriteAbort a 0x06070010
  else match wordValue (objType a) data with
    | some v => d.hostWriteVal a v
    | none => d.hostWriteAbort a 0x06090030

/-- HOST_WRITE_HIGH: command 0x0A. -/
def hostWriteHighEff (d : Dev) (a data : Nat) : Dev :=
  if typeIsWide (objType a) then
    (d.stageHalf .host (captureTag (d.hostTarget a) a) (data % 2 ^ 32)).hostAnswer 0 0 (.num 0) false
  else d.hostAbort a 0x06070010

/-- HOST_STAGE: command 0x31: n words into the 128 KiB staging buffer; a shorter transaction is cut short. -/
def hostStageEff (d : Dev) (offset : Nat) (data : List Byte) : Dev :=
  let n := 4 * d.nat 0x11000C
  if data.length < n then d
  else if 131072 < offset + n then d.hostAbort 0 0x06090030
  else ({ d with hp := { d.hp with staging := cellsWrite d.hp.staging offset (data.take n) } } : Dev).hostAnswer 0 0 (.num 0) false

/-- HOST_COMMIT_STAGED: command 0x32: the staged bytes as one write. -/
def hostCommitEff (d : Dev) (a length : Nat) : Dev :=
  if 131072 < length then d.hostWriteAbort a 0x06070012
  else d.hostWriteVal a (.bytes (cellsRead d.hp.staging 0 length))

/-- HOST_PORT_STATUS: command 0x40: the NIRQ cause; bit [5] starts again. -/
def hostStatusEff (d : Dev) : Dev :=
  let d := d.hostAnswer 0 0 (.num d.nirqCause) false
  { d with hp := { d.hp with recorded := false } }

/-! ### Meanings -/

/-- HOST_READ (R374). -/
def execHostRead (crcOk : Bool) (addr t : Nat) (s : State) : Host.Outcome State Fault Refusal :=
  s.served t fun d => d.transaction crcOk fun d => hostReadEff d addr

/-- HOST_READ_HIGH (R389). -/
def execHostReadHigh (crcOk : Bool) (addr t : Nat) (s : State) : Host.Outcome State Fault Refusal :=
  s.served t fun d => d.transaction crcOk fun d => hostReadHighEff d addr

/-- HOST_WRITE (R375). -/
def execHostWrite (crcOk : Bool) (addr data t : Nat) (s : State) : Host.Outcome State Fault Refusal :=
  s.served t fun d => d.transaction crcOk fun d => hostWriteEff d addr data

/-- HOST_WRITE_HIGH (R391). -/
def execHostWriteHigh (crcOk : Bool) (addr data t : Nat) (s : State) : Host.Outcome State Fault Refusal :=
  s.served t fun d => d.transaction crcOk fun d => hostWriteHighEff d addr data

/-- HOST_BLOCK_READ (R390). -/
def execHostBlockRead (crcOk : Bool) (addr offset words t : Nat) (s : State) : Host.Outcome State Fault Refusal :=
  s.served t fun d => if words < d.nat 0x11000C then d else d.transaction crcOk fun d => hostBlockReadEff d addr offset words

/-- HOST_STAGE (R374). -/
def execHostStage (crcOk : Bool) (offset : Nat) (data : List Byte) (t : Nat) (s : State) : Host.Outcome State Fault Refusal :=
  s.served t fun d =>
    if data.length < 4 * d.nat 0x11000C then d else d.transaction crcOk fun d => hostStageEff d offset data

/-- HOST_COMMIT_STAGED (R375). -/
def execHostCommitStaged (crcOk : Bool) (addr length t : Nat) (s : State) : Host.Outcome State Fault Refusal :=
  s.served t fun d => d.transaction crcOk fun d => hostCommitEff d addr length

/-- HOST_PORT_STATUS (R374). -/
def execHostPortStatus (crcOk : Bool) (t : Nat) (s : State) : Host.Outcome State Fault Refusal :=
  s.served t fun d => d.transaction crcOk hostStatusEff

/-- HOST_UNKNOWN_COMMAND (R374): status 7. -/
def execHostUnknownCommand (crcOk : Bool) (t : Nat) (s : State) : Host.Outcome State Fault Refusal :=
  s.served t fun d => d.transaction crcOk fun d => d.hostAnswer 7 0 (.num 0) false

/-- HOST_TRANSACTION_ABORTED (R374): a transaction cut short is discarded with no effect. -/
def execHostTransactionAborted (t : Nat) (s : State) : Host.Outcome State Fault Refusal := s.act t id

end Sys2Proof.Machine
end

