-- ==== Sys2Proof/Machine/Can.lean ====
section
/-! DEFINITION. The two CAN controllers, ISO 11783 on CAN-I and CANopen on CAN-P (R356 to R373). -/

namespace Sys2Proof.Machine

/-! ### The controllers -/

/-- Update a CAN controller. -/
def Dev.bus (d : Dev) (b : Fin 2) (f : CanController → CanController) : Dev :=
  { d with can := { d.can with buses := updateAt d.can.buses b f } }

/-- An object of a controller's record. -/
def busAdr (b : Fin 2) (sub : Nat) : Nat := adr (0x2C01 + b) sub

/-- Update the ISO 11783 state. -/
def Dev.iso (d : Dev) (f : Iso → Iso) : Dev := { d with can := { d.can with iso := f d.can.iso } }

/-- Update the CANopen state. -/
def Dev.copen (d : Dev) (f : CanOpen → CanOpen) : Dev := { d with can := { d.can with copen := f d.can.copen } }

/-- R357, R358: a controller as its live settings put it: off, or integrated and error active. -/
def Dev.integrate (d : Dev) (b : Fin 2) : Dev :=
  let on := d.flag (0x2C0001 + b)
  d.bus b fun c => { c with state := if on then 2 else 0, fifo := [], waitUntil := none, txErrors := 0, rxErrors := 0 }

/-! ### Network management on CAN-I (R364) -/

/-- R364: the NAME built from 0x2C20, with industry group 2. -/
def Dev.isoName (d : Dev) : Nat :=
  let o := fun (s : Nat) => d.nat (adr 0x2C20 s)
  o 1 + 2 ^ 21 * o 2 + 2 ^ 32 * o 4 + 2 ^ 35 * o 3 + 2 ^ 40 * o 0x10 + 2 ^ 49 * o 0x0F + 2 ^ 60 * 2 + 2 ^ 63 * o 6

/-- R361, R364: the protocols of CAN-I may send: an address is claimed. -/
def Dev.isoTalks (d : Dev) : Bool := d.busTalks 0 && d.can.iso.address ≤ 253

/-- R364: claim an address. -/
def Dev.claim (d : Dev) (address : Nat) : Dev :=
  let d := d.iso fun x => { x with address := address }
  (d.put 0x2C200E d.isoName).send (.claim d.isoName address)

/-- R364: claim the preferred address; nothing while the controller does not talk. -/
def Dev.startClaim (d : Dev) : Dev :=
  if d.busTalks 0 then d.claim (d.nat 0x2C2005) else d.iso fun x => { x with address := 254 }

/-- R364: the lowest free address from 128 to 247. -/
def Dev.freeAddress (d : Dev) : Option Nat :=
  (List.range 120).map (· + 128) |>.find? fun a => !d.can.iso.others.any fun o => o.2 = a

/-- R364: another control function claims an address: the lower NAME keeps it; the loser claims the lowest free one if it
is self-configurable, and else cannot claim. -/
def addressClaimEff (d : Dev) (name address : Nat) : Dev :=
  if d.can.buses[(0 : Fin 2)].state < 2 || 3 < d.can.buses[(0 : Fin 2)].state then d
  else
    let d := d.iso fun x => { x with others := (x.others.filter fun o => o.1 ≠ name) ++ (if address ≤ 253 then [(name, address)] else []) }
    if !d.isoTalks || address ≠ d.can.iso.address then d
    else if d.isoName < name then d.send (.claim d.isoName address)
    else
      match (if d.flag 0x2C2006 then d.freeAddress else none) with
      | some a => d.claim a
      | none => (d.iso fun x => { x with address := 254 }).send (.claim d.isoName 254)

/-! ### Transport (R365) -/

/-- R365: a packet of a message: reassembled within the limits, or refused with a connection abort. -/
def transportEff (d : Dev) (source pgn : Nat) (data : List Byte) (last : Bool) : Dev :=
  if !d.isoTalks then d
  else
    let ss := d.can.iso.sessions
    let rest := ss.filter fun x => !(x.source = source && x.pgn = pgn)
    let abort := (d.iso fun x => { x with sessions := rest }).send (.transport 2 source pgn)
    let old := ss.find? fun x => x.source = source && x.pgn = pgn
    let x : Transport := old.getD ⟨source, pgn, 0, 0, false⟩
    let bytes := x.bytes + data.length
    let etp := decide (1785 < bytes)
    if 65536 < bytes then abort
    else if etp && !x.etp && rest.any fun y => y.etp then abort
    else if !etp && 2 ≤ (rest.filter fun y => !y.etp).length then abort
    else if last then (d.iso fun z => { z with sessions := rest }).send (.transport 1 source pgn)
    else
      let y : Transport := { x with bytes := bytes, packets := x.packets + 1, etp := etp }
      let d := d.iso fun z => { z with sessions := rest ++ [y] }
      if old.isNone || y.packets % 16 = 0 then d.send (.transport 0 source pgn) else d

/-- R365: the sessions of a source time out and are aborted. -/
def transportTimeoutEff (d : Dev) (source : Nat) : Dev :=
  let gone := d.can.iso.sessions.filter fun x => x.source = source
  let d := d.iso fun x => { x with sessions := x.sessions.filter fun y => y.source ≠ source }
  if d.isoTalks then gone.foldl (fun (d : Dev) (x : Transport) => d.send (.transport 2 source x.pgn)) d else d

/-! ### Diagnostics (Table 15.2) -/

/-- R366, R455: the DTCs that are active, or were; the lead's carry replace-me for any position (R430). -/
def Dev.dtcList (d : Dev) (active : Bool) : List (Nat × Nat × Nat) :=
  let own := d.diag.dtcs.filter fun x => x.active = active
  let chain := 0 < d.diag.chainCount && d.diag.chainActive = active &&
    !d.diag.dtcs.any fun x => x.code = 0x1401 && (x.active || !active)
  (own.map fun x => (eventSpn x.code, ((eventDtc x.code).map fun y => y.1).getD 0, x.count))
    ++ if chain then [(520192, 31, d.diag.chainCount)] else []

/-- R366: the amber warning lamp is on while any DTC is active. -/
def Dev.amber (d : Dev) : Bool := d.diag.chainActive || d.diag.dtcs.any fun x => x.active

/-- Table 15.2: answer a request: DM2, the identifications, the diagnostic protocol; no other (PGNs of ISO 11783-12, log
entry 23). -/
def diagnosticEff (d : Dev) (pgn source : Nat) : Dev :=
  if !d.isoTalks then d
  else
    let ident := fun (b : List Byte) => d.send (.identification pgn source b)
    match pgn with
    | 65227 => d.send (.dtcs 65227 source d.amber (d.dtcList false))
    | 65242 => ident (d.str 0x100A00)
    | 64965 => ident ([1, 2, 3, 4].flatMap fun s => leBytes 4 (d.nat (adr 0x1018 s)))
    | 64653 => ident (d.str 0x100800)
    | 64818 => ident (leBytes 1 1)
    | _ => d

/-- R365: DM3: the list of previously active DTCs is cleared; the recorder is not touched. -/
def dm3Eff (d : Dev) : Dev :=
  if d.isoTalks then
    { d with diag := { d.diag with
      dtcs := d.diag.dtcs.filter fun x => x.active, chainCount := if d.diag.chainActive then d.diag.chainCount else 0 } }
  else d

/-- R365: DM11 clears active DTCs whose condition has ended. A DTC is active exactly while its condition is raised (R455), so
none is, and every active one stays. -/
def dm11Eff (d : Dev) : Dev := d

/-- Table 15.2: DM1 is due: once per second while any DTC is active, and at once for a new one. -/
def Dev.dm1Due (d : Dev) : Bool :=
  d.amber && (d.diag.fresh || match d.diag.dm1At with
    | some x => decide (x + 1000000000 ≤ d.time.now)
    | none => true)

/-- R365, R366: DM1 lists the active DTCs. -/
def dm1Eff (d : Dev) : Dev :=
  if d.isoTalks && d.dm1Due then
    ({ d with diag := { d.diag with fresh := false, dm1At := some d.time.now } } : Dev).send
      (.dtcs 65226 255 true (d.dtcList true))
  else d

/-! ### Task Controller client (R367) -/

/-- R367: the lead runs the client. -/
def Dev.tcEnabled (d : Dev) : Bool := d.isLead && d.flag 0x2C2008

/-- R63, R367: section and footprint width of an outlet of the chain as the lead knows them; none where it has no section. -/
def Dev.sectionOf (d : Dev) (g : Nat) : Option (Nat × Nat) :=
  let x :=
    if g / 32 = d.position then
      let n : Fin 32 := Fin.ofNat 32 g
      if d.used n then (d.nat (outletAdr n 5), d.nat (outletAdr n 6)) else (0xFFFF, 0)
    else Config.chainOutlet d.swap.doneSet g
  if x.1 ≤ 255 then some x else none

/-- R367: the pool: the device, the boom, and one element for each section number in use. -/
def Dev.poolElements (d : Dev) : List PoolElement :=
  let outlets := (List.range 1024).filterMap d.sectionOf
  let parts := (List.range 256).filterMap fun s =>
    let own := outlets.filter fun x => x.1 = s
    if own.isEmpty then none
    else some (PoolElement.part s (Config.sectionOffset d.swap.doneSet s) (own.foldl (fun w x => w + x.2) 0))
  [.device, .boom] ++ parts

/-- R367: transfer and activate the pool under a structure label. -/
def Dev.sendPool (d : Dev) (label : List Byte) : Dev :=
  (d.iso fun x => { x with tc := 2 }).send (.tcPool label d.poolElements)

/-- The client off, or searching where it was off: it announces its working set of one member. -/
def Dev.settleTc (d : Dev) : Dev :=
  if !d.tcEnabled then
    d.iso fun x => { x with tc := 0, workOff := false, blocked := Vector.replicate 8 0, triggers := [] }
  else if d.can.iso.tc = 0 then
    let d := d.iso fun x => { x with tc := 1 }
    if d.isoTalks then d.send (.workingSet 1) else d
  else d

/-- R367: a message of the server: the client finds it, transfers and activates the pool, and is active once the server
reports its structure label. -/
def tcStatusEff (d : Dev) (label : List Byte) : Dev :=
  let d := d.settleTc
  if d.can.iso.tc = 0 || !d.isoTalks then d
  else
    let own := d.str 0x2C200B
    let was := d.can.iso.tc
    let d := d.iso fun x => { x with heardAt := d.time.now }
    let d := if was = 1 || was = 4 then d.raise 0x0F03 2 0xFFFF [] else d
    if was = 3 then d
    else if label = own then d.iso fun x => { x with tc := 3, activeLabel := own }
    else if was = 2 then d
    else d.sendPool own

/-- R367: the server has been silent for 6 s: its setpoints stop acting, and what they block is released. -/
def tcLostEff (d : Dev) : Dev :=
  if (d.can.iso.tc = 2 || d.can.iso.tc = 3) && d.can.iso.heardAt + 6000000000 ≤ d.time.now then
    (d.iso fun x => { x with tc := 4, workOff := false, blocked := Vector.replicate 8 0, triggers := [] }).raise
      0x0F03 1 0xFFFF []
  else d

/-- Two bits of a condensed work state (0 off, 1 on, others leave the section). -/
def condensed (v j : Nat) : Nat := v / 4 ^ j % 4

/-- The 16 section bits of a condensed work state over those that stood. -/
def condensedWord (v old : Nat) : Nat :=
  (List.range 16).foldl (fun m j =>
    let b := match condensed v j with | 0 => false | 1 => true | _ => old.testBit j
    m + if b then 2 ^ j else 0) 0

/-- R367, R402: a value command that names no object of the dictionary: accepted work of source 0x13, with its effect. -/
def Dev.tcAction (d : Dev) (f : Dev → Dev) : Dev :=
  let acc : Accessor := .internal 0
  let q := d.nextSeq acc
  if d.intakeBusy then (d.bump 0x320008).answerWrite acc .busy
  else
    let d := d.journal (d.entry 3 0x13 q 0 true .none)
    f { d with jrn := { d.jrn with waiting := d.jrn.waiting ++ [Ack.mk acc q 0 none 0] } }

/-- R367: block the sections that a condensed setpoint sets off, release those it sets on. -/
def Dev.tcSections (d : Dev) (k v : Nat) : Dev :=
  d.iso fun x => { x with blocked := Vector.ofFn fun (w : Fin 8) =>
    if w.val = k / 2 then
      let sh := 16 * (k % 2)
      let old := x.blocked[w] / 2 ^ sh % 2 ^ 16
      let off := 65535 - condensedWord v (65535 - old)
      x.blocked[w] - old * 2 ^ sh + off * 2 ^ sh
    else x.blocked[w] }

/-- R367: a value command of the server (data dictionary identifiers of ISO 11783-11, log entry 23). -/
def tcValueEff (d : Dev) (ddi : Nat) (value : Int) : Dev :=
  if d.can.iso.tc ≠ 3 || !d.isoTalks then d
  else if ddi = 160 then d.performWrite (.internal 0) 0x210001 (.num value)
  else if ddi = 289 then d.tcAction fun d => d.iso fun x => { x with workOff := value = 0 }
  else if 290 ≤ ddi && ddi ≤ 305 then
    let k := ddi - 290
    if !d.flag 0x2C2009 then d.tcAction id
    else if d.nat 0x210001 = 1 then d.tcAction fun d => d.tcSections k value.toNat
    else
      let a := adr 0x2101 (1 + k / 2)
      let sh := 16 * (k % 2)
      let old := d.nat a / 2 ^ sh % 2 ^ 16
      d.performWrite (.internal 0) a (.num (d.nat a - old * 2 ^ sh + condensedWord value.toNat old * 2 ^ sh : Nat))
  else (d.recordAbort (.internal 0) 0 0x06020000).answerWrite (.internal 0) (.aborted 0x06020000)

/-- R367: a measurement command: the reporting of an element's value under one trigger. -/
def tcMeasureEff (d : Dev) (element ddi kind : Nat) (value : Int) : Dev :=
  if d.can.iso.tc ≠ 3 || !d.isoTalks || 4 < kind then d
  else d.iso fun x => { x with triggers :=
    (x.triggers.filter fun t => !(t.element = element && t.ddi = ddi && t.kind = kind)) ++
      [{ element := element, ddi := ddi, kind := kind, value := value, sentAt := d.time.now, sentTravel := x.travel }] }

/-- R394: the actual state of an outlet of the chain as 0x1032:02 reports it. -/
def Dev.mapState (d : Dev) (map : Nat) (g : Nat) : Nat :=
  match (d.str map)[g / 4]? with
  | some b => b.toNat / 4 ^ (g % 4) % 4
  | none => 3

/-- R367: a section has an outlet of the chain that is actually on. -/
def Dev.sectionActual (d : Dev) (s : Nat) : Bool :=
  (List.range 1024).any fun g => d.mapState 0x103202 g = 1 && match d.sectionOf g with
    | some x => x.1 = s
    | none => false

/-- R367: the value of a data dictionary identifier; none for one the client does not report. -/
def Dev.ddiValue (d : Dev) (ddi : Nat) : Option Int :=
  if ddi = 141 then
    some (if (List.range 1024).any fun g => d.mapState 0x103202 g = 1 then 1 else 0)
  else if 161 ≤ ddi && ddi ≤ 176 then
    some ((List.range 16).foldl (fun m j => m + (if d.sectionActual (16 * (ddi - 161) + j) then 4 ^ j else 0)) 0 : Nat)
  else if ddi = 160 then some (d.int 0x210001)
  else none

/-- R367: whether a trigger reports now: at most every 100 ms. -/
def Dev.triggerDue (d : Dev) (t : Trigger) (v : Int) : Bool :=
  let since := d.time.now - t.sentAt
  100000000 ≤ since &&
  (match t.kind with
    | 0 => decide (1000000 * t.value ≤ (since : Int))
    | 1 => decide (t.value ≤ d.can.iso.travel - t.sentTravel)
    | 2 => decide (t.value ≤ v) && t.sent ≠ some v
    | 3 => decide (v ≤ t.value) && t.sent ≠ some v
    | _ => t.sent ≠ some v)

/-- R367: the client's reports of a batch. -/
def Dev.tcReports (d : Dev) : Dev :=
  if d.can.iso.tc ≠ 3 || !d.isoTalks then d
  else
    let step := d.pose.boom.speed.natAbs * (d.periodNs / 1000) / 1000000
    let d := d.iso fun x => { x with travel := x.travel + step }
    let one := fun (acc : List Trigger × Dev) (t : Trigger) =>
      match acc.2.ddiValue t.ddi with
      | some v =>
        if acc.2.triggerDue t v then
          (acc.1 ++ [{ t with sentAt := d.time.now, sentTravel := d.can.iso.travel, sent := some v }],
            acc.2.send (.tcValue t.element t.ddi v))
        else (acc.1 ++ [t], acc.2)
      | none => (acc.1 ++ [t], acc.2)
    let (ts, d') := d.can.iso.triggers.foldl one ([], d)
    d'.iso fun x => { x with triggers := ts }

/-- R367: whether a set changes sections or geometry. -/
def sectionAddress (a : Nat) : Bool :=
  (0x3000 ≤ a / 256 && a / 256 ≤ 0x301F && 1 ≤ a % 256 && a % 256 ≤ 6) || (0x2000 ≤ a / 256 && a / 256 ≤ 0x202F)

/-- R367: the structure label after a swap; a changed one brings the pool over again. -/
def Dev.relabel (d : Dev) (carried : Store) : Dev :=
  if d.isLead && carried.any fun e => sectionAddress e.1 then
    let label := (Config.structureLabel (storeKeep sectionAddress d.obj)).take 7
    let d := d.putVal 0x2C200B (.bytes label)
    if (d.can.iso.tc = 2 || d.can.iso.tc = 3) && d.can.iso.activeLabel ≠ label && d.isoTalks then
      d.sendPool label
    else d
  else d

/-! ### Dictionary messages (R368) -/

/-- R368: one request in Proprietary A, answered to its client; a request of any other control function than the one named
in 0x2C20:0C is not accepted. -/
def proprietaryEff (d : Dev) (name command a seq : Nat) (v : Val) : Dev :=
  let acc : Accessor := .canI name
  let answer := fun (d : Dev) (status abort : Nat) (v : Val) => d.send (.answer acc status abort v)
  let abort := fun (d : Dev) (c : Nat) => answer (d.recordAbort acc a c) 6 c (.num 0)
  if !d.isoTalks || (d.nat 0x2C200C ≠ 0 && d.nat 0x2C200C ≠ name) then d
  else match command with
  | 0x01 =>
    match d.readObject acc a with
    | (.aborted c, d) => answer d 6 c (.num 0)
    | (.value v _, d) =>
      if typeIsBytes (objType a) then answer d 0 0 v
      else if typeIsWide (objType a) then answer (d.captureWide acc a (valInt v).toNat) 0 0 (.num (valueWord (valInt v)))
      else answer d 0 0 (.num (valueWord (valInt v)))
  | 0x09 =>
    if !typeIsWide (objType a) then abort d 0x06070010
    else match d.wideCapture acc a with
      | some w => answer d 0 0 (.num (valueWord (w / 2 ^ 32 : Nat)))
      | none => match d.readObject acc a with
        | (.aborted c, d) => answer d 6 c (.num 0)
        | (.value v _, d) => answer (d.bump 0x103001) 64 0 (.num (valueWord (valInt v / 2 ^ 32)))
  | 0x0A =>
    if typeIsWide (objType a) then answer (d.stageHalf acc a ((valInt v).toNat % 2 ^ 32)) 0 0 (.num 0) else abort d 0x06070010
  | 0x02 =>
    let (hi, d) := if typeIsWide (objType a) then d.takeStagedHalf acc a else (none, d)
    let word := (valInt v).toNat
    let value : Option Val :=
      if typeIsBytes (objType a) then some v
      else if typeIsWide (objType a) then hi.map fun h => Val.num (h * 2 ^ 32 + word % 2 ^ 32 : Nat)
      else match v with
        | .num _ => wordValue (objType a) word
        | .bytes _ => none
    match value with
    | none => abort d (if typeIsWide (objType a) then 0x06070010 else match v with
        | .num _ => 0x06090030
        | .bytes _ => 0x06070010)
    | some w =>
      let x := d.actionOf acc a w
      let keep := storeGet d.obj a
      let (r, d) := d.writeWith acc a w seq x.busy x.state x.act
      let d := if perAccessor a then d.putVal a keep else d
      d.answerWrite acc r
  | _ => answer d 7 0 (.num 0)

/-! ### CANopen on CAN-P (R369 to R373) -/

/-- R369: the node ID. -/
def Dev.nodeId (d : Dev) : Nat := d.nat 0x2C3001

/-- R361: a controller that receives from its bus: error active or passive, and not in loopback. -/
def Dev.busHears (d : Dev) (b : Fin 2) : Bool :=
  let s := d.can.buses[b].state
  (s = 2 || s = 3) && d.nat (busAdr b 1) ≠ 3

/-- R370: communication starts: pre-operational with its boot-up message, then operational where 0x2C30:03 is set. -/
def Dev.resetCommunication (d : Dev) : Dev :=
  let d := d.copen fun _ => { nmt := if d.flag 0x2C3003 then 5 else 0x7F, beatAt := d.time.now }
  if d.busTalks 1 then d.send (.can 1 ⟨0x700 + d.nodeId, false, false, [0]⟩) else d

/-- R370: an NMT command for one node, or for all (0). -/
def Dev.nmtFor (d : Dev) (node : Nat) (f : Dev → Dev) : Dev :=
  if d.busHears 1 && (node = 0 || node = d.nodeId) then f d else d

/-- R370: enter an NMT state. -/
def nmtEff (k : Nat) (d : Dev) : Dev := d.copen fun x => { x with nmt := k }

/-- R399: abort the SDO transfer of an object. -/
def Dev.sdoAbort (d : Dev) (a c : Nat) : Dev :=
  let d := (d.recordAbort .sdo a c).copen fun x => { x with sdo := none, upload := none }
  if d.busTalks 1 then d.send (.answer .sdo 6 c (.num 0)) else d

/-- R371: the chain position that SDO requests are for; none for the device itself. -/
def Dev.sdoTarget (d : Dev) : Option Nat :=
  let p := d.nat 0x2C3007
  if d.isLead && p ≠ 0xFF && p ≠ d.position then some p else none

/-- R371, R399: a transfer begins. -/
def Dev.sdoOpen (d : Dev) (a : Nat) : Dev := d.copen fun x => { x with sdo := some a, sdoAt := d.time.now }

/-- R371, R399: an SDO read or write: a read is answered at once, a write after its journal commit, and one for another
device after its response. -/
def sdoEff (d : Dev) (write : Option Val) (a : Nat) : Dev :=
  if !d.busTalks 1 || d.can.copen.nmt = 4 then d
  else if d.can.copen.sdo.isSome then d.send (.answer .sdo 6 0x08000020 (.num 0))
  else
    let d := d.copen fun x => { x with upload := none }
    match d.sdoTarget, write with
    | some p, none =>
      match d.remoteForbids p with
      | some c => d.sdoAbort a c
      | none => (d.sdoOpen a).remoteRead .sdo p a
    | some p, some v =>
      let d := d.remoteWrite .sdo p a v
      if d.can.copen.sdo.isSome then d.sdoOpen a else d
    | none, none =>
      match d.readObject .sdo a with
      | (.aborted c, d) => d.send (.answer .sdo 6 c (.num 0))
      | (.value v _, d) =>
        let d := if 4 < (objectBytes a v).length then d.copen fun x => { x with upload := some a, sdoAt := d.time.now } else d
        d.send (.answer .sdo 0 0 v)
    | none, some v =>
      let d := d.performWrite .sdo a v
      if d.can.copen.sdo.isSome then d.sdoOpen a else d

/-- R399: the transfer in progress has not been continued within 1 s. -/
def sdoTimeoutEff (d : Dev) : Dev :=
  if d.time.now < d.can.copen.sdoAt + 1000000000 then d
  else match d.can.copen.sdo, d.can.copen.upload with
  | some a, _ => d.sdoAbort a 0x05040000
  | none, some a => d.sdoAbort a 0x05040000
  | none, none => d

/-! ### PDOs (R372) -/

/-- 0x2C4n:06: the entries of a mapping: object address and length in bits. -/
def mappingEntries : List Byte → List (Nat × Nat)
  | i0 :: i1 :: s :: l :: r => (adr (i0.toNat + 256 * i1.toNat) s.toNat, l.toNat) :: mappingEntries r
  | _ => []

/-- The value of a mapped object's type from its bits in a frame. -/
def pdoValue (ty : OType) (n bits : Nat) : Val :=
  if typeIsBytes ty then .bytes (leBytes (bits / 8) n)
  else .num (if typeSigned ty && 0 < bits && 2 ^ bits ≤ 2 * n then (n : Int) - 2 ^ bits else n)

/-- R372: write one mapped object: by the object's own checks, without a journal entry or an answer; a chain object of the
lead goes to the chain as with any write (R387). -/
def Dev.pdoWrite (d : Dev) (a n bits : Nat) : Dev :=
  match objRow a with
  | none => d
  | some r =>
    let v := pdoValue r.ty n bits
    if r.kind ≠ .rw || authenticated r a || (writeCheck d .sdo a v).isSome then d
    else
      let x := d.actionOf .sdo a v
      if x.busy || x.state.isSome then d
      else
        let keep := storeGet d.obj a
        let d := x.act (d.putVal a v)
        let d := if perAccessor a then d.putVal a keep else d
        if r.chain && d.isLead then d.forwardAll a v false else d

/-- R372: write the mapped objects from a frame's bits, lowest first. -/
def Dev.pdoTake (d : Dev) : List (Nat × Nat) → Nat → Dev
  | [], _ => d
  | (a, l) :: r, n => (d.pdoWrite a (n % 2 ^ l) l).pdoTake r (n / 2 ^ l)

/-- R372: an RPDO arrives; a frame shorter than its mapping writes nothing. -/
def rpdoEff (d : Dev) (n : Fin 4) (data : List Byte) : Dev :=
  let i := 0x2C48 + n.val
  if !d.busHears 1 || d.can.copen.nmt ≠ 5 || d.bit (adr i 1) 31 then d
  else
    let m := mappingEntries (d.str (adr i 6))
    if 8 * data.length < m.foldl (fun k e => k + e.2) 0 then d
    else (d.bump (adr i 7)).pdoTake m (leNat data)

/-- R372: the bytes of a TPDO, from the status snapshot. -/
def Dev.pdoBytes (d : Dev) (i : Nat) : List Byte :=
  let m := mappingEntries (d.str (adr i 6))
  let z := m.foldl (fun (acc : Nat × Nat) e =>
    let v := storeGet d.snap e.1
    let w := match v with
      | .num x => (x % 2 ^ e.2).toNat
      | .bytes b => leNat b % 2 ^ e.2
    (acc.1 + w * 2 ^ acc.2, acc.2 + e.2)) (0, 0)
  leBytes ((z.2 + 7) / 8) z.1

/-- R372: one TPDO of a batch: every period batches, or on change, at most once in the inhibit time. -/
def Dev.tpdo (d : Dev) (n : Fin 4) : Dev :=
  let i := 0x2C40 + n.val
  let x := d.can.copen.tpdos[n]
  let x := { x with batches := x.batches + 1 }
  let data := d.pdoBytes i
  let period := d.nat (adr i 2)
  let due := (0 < period && period ≤ x.batches) || (d.flag (adr i 4) && data ≠ x.sent)
  let free := match x.sentAt with
    | some t => decide (t + 100000 * d.nat (adr i 3) ≤ d.time.now)
    | none => true
  let put := fun (d : Dev) (y : Tpdo) => d.copen fun z => { z with tpdos := z.tpdos.set n y }
  if !d.busTalks 1 || d.can.copen.nmt ≠ 5 || d.bit (adr i 1) 31 then put d { x with batches := 0 }
  else if due && free then
    ((put d { batches := 0, sentAt := some d.time.now, sent := data }).bump (adr i 7)).send
      (.can 1 ⟨d.nat (adr i 1) % 2 ^ 29, d.bit (adr i 1) 29, d.flag (adr i 5), data⟩)
  else put d x

/-- R372: the TPDOs of a batch. -/
def Dev.sendTpdos (d : Dev) : Dev := (List.finRange 4).foldl Dev.tpdo d

/-! ### EMCY and heartbeat (R369, R373) -/

/-- R373: the EMCY messages that the inhibit time has held back, as it lets them out. -/
def Dev.drainEmcy (d : Dev) : Dev :=
  let step := fun (d : Dev) (e : Nat × Nat) =>
    let early := match d.can.copen.emcyAt with
      | some t => decide (d.time.now < t + 100000 * d.nat 0x101500)
      | none => false
    if early then d.copen fun x => { x with emcys := x.emcys ++ [e] }
    else
      let d := (d.copen fun x => { x with emcyAt := some d.time.now }).bump 0x2C3004
      d.send (.emcy e.1 d.errorRegister e.2 d.position)
  let held := d.can.copen.emcys
  let d := d.copen fun x => { x with emcys := [] }
  if d.busTalks 1 && d.can.copen.nmt ≠ 4 && !d.bit 0x101400 31 then held.foldl step d else d

/-- R369: the heartbeat producer, each 0x1017 ms. -/
def heartbeatEff (d : Dev) : Dev :=
  if d.busTalks 1 && d.nat 0x101700 ≠ 0 && d.can.copen.beatAt + 1000000 * d.nat 0x101700 ≤ d.time.now then
    (d.copen fun x => { x with beatAt := d.time.now }).send (.can 1 ⟨0x700 + d.nodeId, false, false, [BitVec.ofNat 8 d.can.copen.nmt]⟩)
  else d

/-- R373: a consumed producer, once heard, has been silent for its time. -/
def Dev.beatMissing (d : Dev) (k : Fin 2) : Bool :=
  let ms := d.nat (adr 0x1016 (k + 1)) % 2 ^ 16
  ms ≠ 0 && match d.can.copen.heard[k] with
    | some x => decide (x + 1000000 * ms ≤ d.time.now)
    | none => false

/-- R373: a consumed producer falls silent for its time: an event, and nothing else. -/
def heartbeatLostEff (d : Dev) (k : Fin 2) : Dev :=
  if !d.beatMissing k || d.can.copen.lost[k] || !d.busHears 1 then d
  else (d.copen fun x => { x with lost := x.lost.set k true }).raise (Config.eventCode 5) 0 k []

/-- R369: a heartbeat of a consumed producer arrives. -/
def Dev.heartbeatSeen (d : Dev) (node : Nat) : Dev :=
  let mine := fun (k : Fin 2) => d.nat (adr 0x1016 (k + 1)) / 2 ^ 16 % 256 = node
  d.copen fun x => { x with
    lost := Vector.ofFn fun (k : Fin 2) => x.lost[k] && !decide (mine k)
    heard := Vector.ofFn fun (k : Fin 2) => if mine k then some d.time.now else x.heard[k] }

/-! ### Frames and bus-off (R356 to R362) -/

/-- R356, R360: a frame on a bus: into the receive FIFO where a filter matches, dropped where the FIFO is full. Management
core 0 empties the FIFO unless it is halted. What the message in it asks for is the effect of that message's own command
(log entry 15); a heartbeat has none, and is taken here. -/
def frameEff (d : Dev) (b : Fin 2) (f : CanFrame) : Dev :=
  let fdOk := b = 1 && d.flag 0x2C0206
  if !d.busHears b || (f.fd && !fdOk) || !Config.filterMatches (Config.filterTable b (storeKeep inSetSlot d.obj)) f then d
  else if 32 ≤ d.can.buses[b].fifo.length then (d.bump (busAdr b 0x11)).raise 0x0F02 0 0xFFFF [(2, b.val)]
  else
    let d := (d.bump (busAdr b 0x12)).bus b fun c => { c with fifo := c.fifo ++ [f] }
    if d.power.halted0 then d
    else
      let taken := d.can.buses[b].fifo
      let d := d.bus b fun c => { c with fifo := [] }
      taken.foldl (fun (d : Dev) (f : CanFrame) =>
        if b = 1 && !f.extended && !f.fd && 0x700 < f.id && f.id ≤ 0x77F then d.heartbeatSeen (f.id - 0x700) else d) d

/-- R359, R362: a controller goes bus-off: its pending frames are gone, its protocols are told, and the wait before the
recovery follows from the bus-offs of the last 60 s and 10 s. -/
def busOffEff (d : Dev) (b : Fin 2) : Dev :=
  if !d.busTalks b then d
  else
    let now := d.time.now
    let offs := (d.can.buses[b].busOffs.filter fun t => now < t + 60000000000) ++ [now]
    let in10 := (offs.filter fun t => now < t + 10000000000).length
    let wait := if 10 ≤ offs.length then 10000000000 else if in10 ≤ 3 then 0 else 1000000000
    let d := d.bus b fun c => { c with
      state := if wait = 0 then 4 else 5, busOffs := offs, waitUntil := if wait = 0 then none else some (now + wait) }
    let d := (d.bump (busAdr b 0x10)).fault 17 false b
    let d := if b = 0 then d.iso fun x => { x with sessions := [] }
      else match d.can.copen.sdo, d.can.copen.upload with
        | some a, _ => d.sdoAbort a 0x08000000
        | none, some a => d.sdoAbort a 0x08000000
        | none, none => d
    d.raise 0x0F01 0 0xFFFF [(2, b.val)]

/-- R362: the wait ends and the recovery starts. -/
def recoveryEff (d : Dev) (b : Fin 2) : Dev :=
  match d.can.buses[b].waitUntil with
  | some w =>
    if d.can.buses[b].state = 5 && w ≤ d.time.now then d.bus b fun c => { c with state := 4, waitUntil := none } else d
  | none => d

/-- R362: the recovery is complete: error active. -/
def recoveredEff (d : Dev) (b : Fin 2) : Dev :=
  if d.can.buses[b].state = 4 then d.bus b fun c => { c with state := 2, txErrors := 0, rxErrors := 0 } else d

/-! ### Start-up, swap and status -/

/-- R356, R364, R367, R370: the buses as the device starts. -/
def Dev.bootCan (d : Dev) : Dev := ((((d.integrate 0).integrate 1).startClaim).resetCommunication).settleTc

/-- R358, R364, R367, R370: what a swap of CAN settings starts. -/
def Dev.swapCan (carried : Store) (d : Dev) : Dev :=
  let any := fun (p : Nat → Bool) => carried.any fun e => p e.1
  let changed := fun (b : Nat) (a : Nat) => a = 0x2C0001 + b || (a / 256 = 0x2C01 + b && a % 256 ≤ 0x0B)
  let d := if any (changed 0) then d.integrate 0 else d
  let d := if any (changed 1) then d.integrate 1 else d
  let named := fun (a : Nat) => a / 256 = 0x2C20 && ((1 ≤ a % 256 && a % 256 ≤ 6) || a % 256 = 0x0F || a % 256 = 0x10)
  let d := if any (changed 0) || any named then d.startClaim else d
  let d := if any (changed 1) || any (fun a => a = 0x2C3001) then d.resetCommunication else d
  (d.settleTc).relabel carried

/-- The error counters of a controller (log entry 13), and with them error active or passive (R362). -/
def Dev.readErrors (d : Dev) (b : Fin 2) : Dev :=
  let s := d.can.buses[b].state
  if s = 2 || s = 3 then
    let tx := (Config.reading (busAdr b 0x0E) d.draws).toNat % 256
    let d := d.draw
    let rx := (Config.reading (busAdr b 0x0F) d.draws).toNat % 256
    let d := d.draw
    d.bus b fun c => { c with txErrors := tx, rxErrors := rx, state := if 128 ≤ tx || 128 ≤ rx then 3 else 2 }
  else d

/-- The status snapshot of chapter 15. -/
def publishCan (d : Dev) : Dev :=
  let d := (d.readErrors 0).readErrors 1
  let d := [(0 : Fin 2), 1].foldl (fun (d : Dev) (b : Fin 2) =>
    ((d.putReading (busAdr b 0x0D) d.can.buses[b].state).putReading (busAdr b 0x0E) d.can.buses[b].txErrors).putReading
      (busAdr b 0x0F) d.can.buses[b].rxErrors) d
  let d := ((d.put 0x2C2007 d.can.iso.address).put 0x2C200A d.can.iso.tc).put 0x2C200D
    (min 255 (d.dtcList true).length)
  let lost := (if d.can.copen.lost[0] then 1 else 0) + (if d.can.copen.lost[1] then 2 else 0)
  ((d.put 0x2C3002 d.can.copen.nmt).put 0x2C3005 (lost : Nat)).put 0x100100 d.errorRegister

/-! ### Meanings -/

/-- BOOT (R480). -/
def execBoot (rep : BootReport) (t : Nat) (s : State) : Host.Outcome State Fault Refusal :=
  s.act t fun d =>
    let held := d.power.run
    let d := bootEff d rep
    if held = .hold && d.power.run = .running then d.bootCan else d

/-- CLOCK_LOCK_HELD (R441). -/
def execClockLockHeld (rep : BootReport) (t : Nat) (s : State) : Host.Outcome State Fault Refusal :=
  s.act t fun d =>
    let held := d.power.run
    let d := lockHeldEff d rep
    if held = .lockLoss && d.power.run = .running then d.bootCan else d

/-- CAN_FRAME_RECEIVED (R360). -/
def execCanFrameReceived (bus : Fin 2) (frame : CanFrame) (t : Nat) (s : State) : Host.Outcome State Fault Refusal :=
  s.logic t fun d => frameEff d bus frame

/-- BUS_OFF (R362). -/
def execBusOff (bus : Fin 2) (t : Nat) (s : State) : Host.Outcome State Fault Refusal := s.logic t fun d => busOffEff d bus

/-- BUS_OFF_RECOVERY (R362). -/
def execBusOffRecovery (bus : Fin 2) (t : Nat) (s : State) : Host.Outcome State Fault Refusal :=
  s.logic t fun d => recoveryEff d bus

/-- BUS_OFF_RECOVERY_COMPLETE (R362). -/
def execBusOffRecoveryComplete (bus : Fin 2) (t : Nat) (s : State) : Host.Outcome State Fault Refusal :=
  s.logic t fun d => recoveredEff d bus

/-- ADDRESS_CLAIM (R364). -/
def execAddressClaim (name address t : Nat) (s : State) : Host.Outcome State Fault Refusal :=
  s.logic t fun d => addressClaimEff d name address

/-- TRANSPORT_PACKET (R365). -/
def execTransportPacket (source pgn : Nat) (data : List Byte) (last : Bool) (t : Nat) (s : State) :
    Host.Outcome State Fault Refusal :=
  s.logic t fun d => transportEff d source pgn data last

/-- TRANSPORT_TIMEOUT (R365). -/
def execTransportTimeout (source t : Nat) (s : State) : Host.Outcome State Fault Refusal :=
  s.logic t fun d => transportTimeoutEff d source

/-- DIAGNOSTIC_REQUEST (R365, Table 15.2). -/
def execDiagnosticRequest (pgn source t : Nat) (s : State) : Host.Outcome State Fault Refusal :=
  s.logic t fun d => diagnosticEff d pgn source

/-- DM3_CLEAR (R365, Table 15.2): from any control function. -/
def execDm3Clear (_source t : Nat) (s : State) : Host.Outcome State Fault Refusal := s.logic t dm3Eff

/-- DM11_CLEAR (R365, Table 15.2): from any control function. -/
def execDm11Clear (_source t : Nat) (s : State) : Host.Outcome State Fault Refusal := s.logic t dm11Eff

/-- DM1_SEND (R365, R366). -/
def execDm1Send (t : Nat) (s : State) : Host.Outcome State Fault Refusal := s.logic t dm1Eff

/-- TC_SERVER_STATUS (R367): the status byte of the server decides nothing that the manual describes. -/
def execTcServerStatus (_status : Nat) (structureLabel : List Byte) (t : Nat) (s : State) :
    Host.Outcome State Fault Refusal :=
  s.logic t fun d => tcStatusEff d structureLabel

/-- TC_SERVER_LOST (R367). -/
def execTcServerLost (t : Nat) (s : State) : Host.Outcome State Fault Refusal := s.logic t tcLostEff

/-- TC_VALUE_COMMAND (R367): the pool has one boom with one work state, so the element decides nothing. -/
def execTcValueCommand (_element ddi : Nat) (value : Int) (t : Nat) (s : State) : Host.Outcome State Fault Refusal :=
  s.logic t fun d => tcValueEff d ddi value

/-- TC_MEASUREMENT_COMMAND (R367). -/
def execTcMeasurementCommand (element ddi kind : Nat) (value : Int) (t : Nat) (s : State) :
    Host.Outcome State Fault Refusal :=
  s.logic t fun d => tcMeasureEff d element ddi kind value

/-- PROPRIETARY_A_REQUEST (R368). -/
def execProprietaryARequest (name command addr seq : Nat) (v : Val) (t : Nat) (s : State) :
    Host.Outcome State Fault Refusal :=
  s.logic t fun d => proprietaryEff d name command addr seq v

/-- NMT_OPERATIONAL (R370). -/
def execNmtOperational (node t : Nat) (s : State) : Host.Outcome State Fault Refusal :=
  s.logic t fun d => d.nmtFor node (nmtEff 5)

/-- NMT_PRE_OPERATIONAL (R370). -/
def execNmtPreOperational (node t : Nat) (s : State) : Host.Outcome State Fault Refusal :=
  s.logic t fun d => d.nmtFor node (nmtEff 0x7F)

/-- NMT_STOP (R370). -/
def execNmtStop (node t : Nat) (s : State) : Host.Outcome State Fault Refusal :=
  s.logic t fun d => d.nmtFor node (nmtEff 4)

/-- NMT_RESET_COMMUNICATION (R370). -/
def execNmtResetCommunication (node t : Nat) (s : State) : Host.Outcome State Fault Refusal :=
  s.logic t fun d => d.nmtFor node Dev.resetCommunication

/-- NMT_RESET_NODE (R370): as reset communication; the device, its outputs and its batches go on. -/
def execNmtResetNode (node t : Nat) (s : State) : Host.Outcome State Fault Refusal :=
  s.logic t fun d => d.nmtFor node Dev.resetCommunication

/-- SDO_REQUEST (R371). -/
def execSdoRequest (write : Option Val) (addr t : Nat) (s : State) : Host.Outcome State Fault Refusal :=
  s.logic t fun d => sdoEff d write addr

/-- SDO_TIMEOUT (R399). -/
def execSdoTimeout (t : Nat) (s : State) : Host.Outcome State Fault Refusal := s.logic t sdoTimeoutEff

/-- RPDO (R372). -/
def execRpdo (n : Fin 4) (data : List Byte) (t : Nat) (s : State) : Host.Outcome State Fault Refusal :=
  s.logic t fun d => rpdoEff d n data

/-- HEARTBEAT_SEND (R369). -/
def execHeartbeatSend (t : Nat) (s : State) : Host.Outcome State Fault Refusal := s.logic t heartbeatEff

/-- HEARTBEAT_TIMEOUT (R373). -/
def execHeartbeatTimeout (k : Fin 2) (t : Nat) (s : State) : Host.Outcome State Fault Refusal :=
  s.logic t fun d => heartbeatLostEff d k

end Sys2Proof.Machine
end

