-- ==== Sys2Proof/Machine/Status.lean ====
section
/-! DEFINITION. The status snapshot (R24, R394 to R397, R430, R435): what the data path publishes once a batch. -/

namespace Sys2Proof.Machine

/-! ### Outlets: commanded and actual state -/

/-- R395: the commanded state of a used outlet. -/
def Dev.commandedState (d : Dev) (n : Fin 32) : Nat :=
  if d.dec.outlets[n].testing then 3 else if d.automatic then 2 else if d.sectionOn n then 1 else 0

/-- 0x3000:16: the service state; of several the one with the lowest code. -/
def Dev.serviceState (d : Dev) (n : Fin 32) : Nat :=
  let c := d.valve.channels[n]
  let valve := d.valveOutlet n
  if valve && c.mode = .retired then 1
  else if d.dec.outlets[n].lateFault || c.faultOpen || c.faultGround || c.faultBank
      || (!valve && (d.axes[n].state = 4 || d.noDestination n)) then 2
  else if d.ch.mismatch then 3
  else if d.ch.rejoining then 4
  else if d.hlt.outOfService || d.nvm.heldUnarmed || d.power.winding then 5
  else if valve && !d.flag 0x250001 then 6
  else if valve && d.pd.absent then 7
  else 0

/-- 0x3000:11: the actual state at the end of the batch. -/
def Dev.actualState (d : Dev) (n : Fin 32) : Nat :=
  if d.serviceState n ≠ 0 then 2 else if d.dec.outlets[n].on then 1 else 0

/-- Table 16.7: why an outlet is not in its commanded state. -/
def Dev.mismatchCause (d : Dev) (n : Fin 32) : Nat :=
  let x := d.dec.outlets[n]
  if d.outletOut n then 1
  else if !d.pose.boom.master || d.tcBlocked n then 2
  else if d.outletFolded n then 3
  else if d.lostOff then 4
  else if x.late then 5
  else if x.missed then 6
  else 7

/-- R396: a batch is a mismatch batch for an outlet. -/
def Dev.mismatchBatch (d : Dev) (n : Fin 32) : Bool :=
  let c := d.commandedState n
  c < 2 && d.actualState n ≠ c && !d.dec.outlets[n].edges.any fun e => e.kind = (if c = 1 then 1 else 2)

/-- R396: the mismatch event of a unit (32 and more for a load switch); a lead learns of its own at once (R398). -/
def Dev.mismatchEvent (d : Dev) (unit cause : Nat) : Dev :=
  let d := d.raise 0x1201 0 unit [(2, cause)]
  if d.isLead then
    { d with dic := { d.dic with reconcile := d.dic.reconcile ++ [(d.position, unit, cause)] } }
  else d

/-- 0x3000:12: the instant of the last actual change: of its edges, or the boundary at which its service changed. -/
def Dev.actualSince (d : Dev) (n : Fin 32) (was now : Nat) : Nat :=
  let x := d.dec.outlets[n]
  let edge := if now = 1 then x.lastOn.getD 0 else if now = 0 then x.lastOff.getD 0 else 0
  max (d.nat (outletAdr n 0x12)) (max edge (if (was = 2) ≠ (now = 2) then d.seq.t0 else 0))

/-- R395, R396: commanded and actual state of an outlet, and its mismatch batches. -/
def Dev.publishState (d : Dev) (n : Fin 32) : Dev :=
  let put := fun (d : Dev) (s : Nat) (v : Nat) => d.put (outletAdr n s) v
  if !d.used n then
    if d.nat (outletAdr n 0x10) = 2 && d.nat (outletAdr n 0x11) = 0 then d
    else (put (put (put (put (put d 0x10 2) 0x11 0) 0x13 0) 0x14 0) 0x16 0).outlet n fun x => { x with mismatch := 0 }
  else
    let now := d.actualState n
    let since := d.actualSince n (d.nat (outletAdr n 0x11)) now
    let bad := d.mismatchBatch n
    let cause := if bad then d.mismatchCause n else 0
    let count := if bad then d.dec.outlets[n].mismatch + 1 else 0
    let d := put (put (put (put d 0x10 (d.commandedState n)) 0x11 now) 0x12 since) 0x16 (d.serviceState n)
    let d := put (put d 0x13 (min 65535 count)) 0x14 cause
    let d := d.outlet n fun x => { x with mismatch := count, missed := false }
    if count = 3 then (d.bump (outletAdr n 0x15)).mismatchEvent n cause else d

/-- R397: a load switch's commanded state and its actual one differ; a pulsed switch that runs its pulses is on. -/
def Dev.switchMismatch (d : Dev) (n : Fin 8) : Bool :=
  let c := d.lsw.switches[n]
  let pulses := d.switchMode n = 2 && c.cmd && c.ready && d.switchInUse n
  d.flag (switchAdr n 8) != (c.on || pulses)

/-- R397: mismatch batches of a load switch. -/
def Dev.publishSwitch (d : Dev) (n : Fin 8) : Dev :=
  let c := d.lsw.switches[n]
  let d := (d.put (switchAdr n 9) (if c.on then 1 else 0)).put (switchAdr n 0x0A) (d.switchStatus n)
  let count := if d.switchMismatch n then d.dic.switchRun[n] + 1 else 0
  let d := { d with dic := { d.dic with switchRun := d.dic.switchRun.set n count } }
  let cause := if c.latched || d.switchMode n = 0 || c.backOff.isSome || c.hot then 1 else 7
  if count = 3 then d.mismatchEvent (32 + n) cause else d

/-! ### The chain's maps on the lead (R394, R398) -/

/-- The state of an outlet of a position in object `sub`: its own value here, the last value read of another device, and
`gone` where the position is not present. -/
def Dev.chainState (d : Dev) (sub gone p : Nat) (n : Nat) : Nat :=
  if p = d.position then d.nat (adr (0x3000 + n) sub) % 4
  else if !d.seq.map.testBit p then gone
  else (d.unitRead p (adr (0x3000 + n) sub)).getD 0 % 4

/-- 0x1032:01, 0x1032:02: the bytes of a chain map. -/
def Dev.chainMap (d : Dev) (sub gone : Nat) : List Byte :=
  (List.range 256).map fun k =>
    let at_ := fun (j : Nat) => d.chainState sub gone (k / 8) ((4 * k + j) % 32) * 4 ^ j
    BitVec.ofNat 8 (at_ 0 + at_ 1 + at_ 2 + at_ 3)

/-- The global outlets whose bit is set in the chain mismatch map. -/
def Dev.mismatched (d : Dev) : List Nat :=
  ((d.str 0x103203).zipIdx).flatMap fun b => ((List.range 8).filter b.1.toNat.testBit).map fun j => 8 * b.2 + j

/-- R398: set or clear a bit of the chain mismatch map. -/
def Dev.markOutlet (d : Dev) (g : Nat) (on : Bool) : Dev :=
  let b := d.str 0x103203
  d.putVal 0x103203 (.bytes ((b.zipIdx).map fun x =>
    if x.2 = g / 8 then BitVec.ofNat 8 (maskBit x.1.toNat (g % 8) on) else x.1))

/-- R398: the lead clears the bit of a unit whose device reports no mismatch batch; of another device it asks again. -/
def Dev.clearMarks (d : Dev) : Dev :=
  d.mismatched.foldl (fun (d : Dev) (g : Nat) =>
    let p := g / 32
    let a := adr (0x3000 + g % 32) 0x13
    if p = d.position then (if d.nat a = 0 then d.markOutlet g false else d)
    else match d.unitRead p a with
      | some 0 => (({ d with dic := { d.dic with units := d.dic.units.filter fun u => u.1 ≠ (p, a) } } : Dev).markOutlet g false)
      | _ => (d.ask p a 4).ask p (adr (0x3000 + g % 32) 0x11) 4) d

/-- The chain objects of the lead. -/
def Dev.publishMaps (d : Dev) : Dev :=
  if !d.isLead then d
  else
    let d := d.clearMarks
    (d.putVal 0x103201 (.bytes (d.chainMap 0x10 0))).putVal 0x103202 (.bytes (d.chainMap 0x11 3))

/-! ### Replace-me and throttle -/

/-- Table 18.4: the replace-me causes that hold. -/
def Dev.replaceCauses (d : Dev) : Nat :=
  let on := fun (k : Nat) (b : Bool) => if b then 2 ^ k else 0
  let live := fun (ks : List (Fin 11)) => (ks.filter fun k => !d.sensorRetired k).length
  on 0 (d.working.length < 48) + on 1 (d.nat 0x290002 ≠ 0) + on 2 (d.chainStatus / 256 % 2 = 1)
    + on 3 (d.valve.banks.toList.any fun k => k.degraded) + on 4 (d.nvm.sramSpares.toList.any fun n => n ≤ 1)
    + on 5 (d.nvm.mramSpares.toList.any fun n => n ≤ 1)
    + on 6 (live logicSensors ≤ 1 || live powerSensors ≤ 1 || d.sensorRetired 10) + on 7 (d.storeStatus % 2 = 1)

/-- R430: the lead's DM1 carries replace-me for any position of the chain. -/
def Dev.chainReplace (d : Dev) (on : Bool) : Dev :=
  let x := d.diag
  { d with diag := { x with
      chainActive := on
      chainCount := if on && !x.chainActive then min 126 (x.chainCount + 1) else x.chainCount
      fresh := x.fresh || (on && !x.chainActive) } }

/-- R430: replace-me is raised while a cause holds, recorded on each change of the causes, and withdrawn. -/
def Dev.publishReplace (d : Dev) : Dev :=
  let was := d.nat 0x2E0002
  let now := d.replaceCauses
  let d := d.put 0x2E0002 now
  let d := if was = 0 && now ≠ 0 then (d.bump 0x2E0004).put 0x2E0005 d.chain else d
  let d := if now = was then d
    else if now = 0 then d.raise 0x1401 2 0xFFFF [(8, 0)] else d.raise 0x1401 1 0xFFFF [(8, now)]
  let d := d.put 0x2E0001 (d.healthStatus + if now = 0 then 0 else 1 : Nat)
  if d.isLead then
    let d := { d with hlt := { d.hlt with replacePositions := maskBit d.hlt.replacePositions d.position (decide (now ≠ 0)) } }
    (d.put 0x2E0003 d.hlt.replacePositions).chainReplace (decide (d.hlt.replacePositions ≠ 0))
  else d

/-- Table 18.11: the throttle status word. -/
def Dev.throttleStatus (d : Dev) : Nat :=
  let on := fun (k : Nat) (b : Bool) => if b then 2 ^ k else 0
  let t := d.hlt.throttle
  on 0 (t = 1 || t = 2) + on 1 (t = 2) + on 2 d.hlt.periodDoubled + on 3 (d.isLead && d.hlt.enforcePositions ≠ 0)
    + on 4 d.nvm.shutdownRecorded + on 5 d.pd.latched

/-- Tables 18.9 to 18.12: the objects of chapter 18. -/
def Dev.publishHealth (d : Dev) : Dev :=
  let d := (d.put 0x2D0401 d.hlt.throttle).put 0x2D0408 d.throttleStatus
  let d := if d.isLead then d.put 0x2D040A d.hlt.enforcePositions else d
  let d := (d.putReading 0x2E0201 (Config.reading 0x2E0201 d.draws)).publishReplace
  { d with hlt := { d.hlt with lateRound := false } }

/-! ### The power die's units -/

/-- Tables 8.12 to 8.14: the objects of the valve drive. Currents, resistances and voltages that no command carries are
readings (log entry 13). -/
def Dev.publishValves (d : Dev) : Dev :=
  let d := ((d.put 0x250005 d.driveStatus).put 0x250008 (min 65535 d.pd.v1 : Nat)).put 0x250009 (min 65535 d.pd.v2 : Nat)
  let d := (d.put 0x250806 d.valve.boost.vbst).put 0x250807 d.valve.boost.state
  let d := (List.finRange 4).foldl (fun (d : Dev) (b : Fin 4) =>
    (d.put (bankAdr b 0x13) (d.bankStatus b)).bank b fun k => { k with waitedNow := false, fallbackNow := false }) d
  (List.finRange 32).foldl (fun (d : Dev) (n : Fin 32) =>
    if !d.valveOutlet n then d
    else
      let r := fun (d : Dev) (s : Nat) => d.putReading (outletAdr n s) (Config.reading (outletAdr n s) d.draws)
      ((r (r (r (d.put (outletAdr n 0x39) (d.channelStatus n)) 0x3A) 0x3D) 0x3E).channel n fun c =>
        { c with shortPulse := false, missed := false })) d

/-- Tables 9.6 and 9.7: the objects of the load switches. -/
def Dev.publishSwitches (d : Dev) : Dev :=
  let d := ((d.put 0x260003 d.switchFaults).put 0x260005 d.switchActual).put 0x260006 d.limpInputs
  let d := (((d.put 0x260008 d.lsw.mapping).put 0x260009 d.lsw.store).put 0x26000A d.lsw.writes).put 0x26000B d.lsw.entries
  (List.finRange 8).foldl (fun (d : Dev) (n : Fin 8) =>
    let r := fun (d : Dev) (s : Nat) => d.putReading (switchAdr n s) (Config.reading (switchAdr n s) d.draws)
    (r (r (d.publishSwitch n) 0x0B) 0x0C).switch n fun c => { c with limp := d.lsw.limpHome && d.mapped n }) d

/-- Tables 10.5 to 10.7: the objects of the bridge PWM generator. -/
def Dev.publishPairs (d : Dev) : Dev :=
  let d := (d.put 0x270002 d.generatorStatus).put 0x270004 d.pwm.taps
  let d := (List.finRange 16).foldl (fun (d : Dev) (p : Fin 16) =>
    let c := d.pwm.pairs[p]
    let put := fun (d : Dev) (s : Nat) (v : Nat) => d.put (pairAdr p s) v
    (put (put (put (put d 0x0D c.period) 0x0E c.compare) 0x0F c.phase) 0x10 (d.pairStatus p)).pair p fun c =>
      { c with cutBatch := false, dropBatch := false, pinMin := false, pinMax := false }) d
  { d with pwm := { d.pwm with lostFlag := false } }

/-- Tables 11.3 and 11.4: the objects of the meter axes. -/
def Dev.publishAxes (d : Dev) : Dev :=
  (List.finRange 32).foldl (fun (d : Dev) (n : Fin 32) =>
    let x := d.axes[n]
    let put := fun (d : Dev) (s : Nat) (v : Int) => d.put (axisAdr n s) v
    put (put (put (put (put (put d 0x15 x.speedNow) 0x16 x.rest) 0x17 x.state) 0x18 (d.axisStatus n)) 0x1A x.address) 0x14 x.whole) d

/-! ### The management side -/

/-- Table 17.8: the journal objects. -/
def Dev.publishJournal (d : Dev) : Dev :=
  let recent := d.jrn.writes.filter fun w => u32 (d.seq.number + 2 ^ 32 - w.1) < 1000
  let d := { d with jrn := { d.jrn with writes := recent } }
  let last := ((recent.find? fun w => w.1 = d.seq.number).map fun w => w.2).getD 0
  let d := (d.putReading 0x320009 last).putReading 0x32000A (recent.foldl (fun m w => max m w.2) 0 : Nat)
  let d := (d.put 0x320003 d.jrn.openEntries.length).put 0x320004 d.journalStatus
  let d := (List.finRange 8).foldl (fun (d : Dev) (k : Fin 8) => d.put (0x320201 + k.val) d.jrn.clients[k]) d
  if d.isLead then d.put 0x320301 (min 65535 d.jrn.held.length : Nat) else d

/-- Tables 19.6, 20.6 and 21.12: recorder, store and power. -/
def Dev.publishStore (d : Dev) : Dev :=
  let d := ((d.put 0x2F0001 d.recorderStatus).put 0x310001 d.storeStatus).put 0x2F0002 d.nvm.lastRecord
  let d := d.put 0x2F000D (d.nvm.sealedArea.foldl (fun n p => n + pageBytes p) 0 : Nat)
  ((d.put 0x310002 d.nvm.liveSlot).put 0x310003 d.nvm.liveSeq).put 0x2D0605 d.powerDieState

/-- Table 2.6: the time objects. -/
def Dev.publishTime (d : Dev) : Dev :=
  let d := d.put 0x180201 (d.timeStatus d.pose.stale)
  let d := if d.time.state = 4 || d.time.state = 5 then d.putReading 0x180203 (min 4294967295 d.holdoverError : Nat) else d
  (d.putReading 0x182103 d.rtcUncertainty).put 0x182104 (if d.rtc.valid then 1 else 0)

/-! ### The snapshot -/

/-- R34, R473: the power die has dropped its outputs: nothing pending is issued, and valve outlets are off. -/
def Dev.outputsLost (d : Dev) : Dev :=
  (List.finRange 32).foldl (fun (d : Dev) (n : Fin 32) =>
    if !d.valveOutlet n then d
    else
      let stop := d.chain + (d.delayNs n false).toNat
      d.outlet n fun x => { x with
        on := false, sweepOn := false, edges := []
        deposits := x.deposits.map fun q => if q.2.isNone then (q.1, some (max q.1 stop)) else q }) d

/-- R34: the logic die reads the tether's count and cause; a safe state has dropped the outputs. -/
def Dev.readPower (d : Dev) : Dev :=
  let lost := (d.pd.powered && d.pd.unread) || d.pd.absent
  let d := if lost then d.outputsLost else d
  d.readTether

/-- R24: every object of the snapshot. -/
def Dev.publish (d : Dev) : Dev :=
  let d := d.publishTime.publishPose
  let d := (d.putReading 0x205804 (Config.reading 0x205804 d.draws)).putReading 0x205805 (Config.reading 0x205805 d.draws)
  let d := (d.publishLoops.publishTargets).publishTiles
  let d := (List.finRange 32).foldl (fun (d : Dev) (n : Fin 32) => (d.publishOutlet n).publishState n) d
  let d := d.put 0x210204 d.dec.largest
  let d := (d.publishEngines.publishValves.publishSwitches).publishPairs
  let d := (d.publishAxes.publishLink.publishChain).publishGnss
  (publishCan (d.publishMaps.publishHealth.publishJournal.publishStore)).draw

/-- R49: the batch's own Phase D work is complete, the tasks of the engine array among it. -/
def Dev.workDone (d : Dev) : Bool :=
  d.seq.phase = 3 && d.openTasks = [] && !d.seq.journalDue && !d.seq.recorderDue && !d.seq.slotsDue && d.nvm.level && !d.seq.paintDue && d.jrn.late.isNone

/-- R320: the contents of the standby mirror. -/
def Dev.mirrorNow (d : Dev) : Mirror :=
  let leadOnly := fun (a : Nat) => match objRow a with
    | some r => r.leadOnly && (r.kind = .rwb || r.kind = .cal || r.kind = .rw)
    | none => false
  let w := d.swap.set
  { batch := d.seq.number
    swapBatch := w.map fun w => w.batch
    swapSet := match w with | some w => w.number | none => u16 (d.swap.nextNumber + 65535)
    counts := match w with | some w => w.counts | none => d.swap.counts
    ready := match w with | some w => w.reports.map (· = some true) | none => Vector.replicate 32 false
    postponements := (w.map fun w => w.postponements).getD 0
    goSent := w.any fun w => w.goSent
    leadLive := storeKeep leadOnly d.obj
    leadProof := storeKeep leadOnly (d.swap.writes.foldl (fun o w => storePut o w.1 w.2) d.swap.adopted)
    boom := d.pose.boom, sources := d.pose.sources.map fun x => x.valid
    window := d.tiles.window.map fun t => (t.coord, t.home, t.held)
    spans := d.pose.spans
    group := u32 (d.nvm.nextGroup + 2 ^ 32 - 1)
    sequences := d.jrn.seqs.map fun s => (s.1.1, s.1.2, s.2)
    openForwards := d.jrn.openEntries.filterMap fun e => match e.kind, e.payload with
      | 12, .write a v => some (e.subKey, a, e.seq, v)
      | _, _ => none
    hostTargets := (d.tgt.intake.filter fun x => x.source = 16 && 1 < x.stage && x.unconfirmed ≠ []).map fun x => (x.form0, x.owners, x.unconfirmed)
    results := d.que.results.map fun r => r.item
    sections := Vector.ofFn fun k => d.nat (adr 0x2101 (1 + k.val))
    table := d.ch.table
    guests := (List.range 16).map fun g => (g, d.nat (adr (0x2A10 + g) 1))
    sweepKind := d.swp.kind
    sweepState := d.swp.state
    sweepRecord := d.swp.record
    sweepBatch := d.swp.batch
    history := d.pose.history }

/-- R320: at the end of Phase D the lead sends the mirror to its standby. -/
def Dev.sendMirror (d : Dev) : Dev :=
  if !d.seq.mirrorDue then d
  else
    let d := { d with seq := { d.seq with mirrorDue := false } }
    if d.hasStandby then d.send (.mirror d.mirrorNow) else d

/-- R24, R49: the status snapshot, once the batch's own Phase D work is complete; what follows from it goes out on the
buses (R367, R372, R373), and the mirror to the standby. -/
def snapshotEff (d : Dev) : Dev :=
  if !d.workDone then d
  else
    let d := d.readPower.publish.takeShape
    let d := { d with snap := d.obj }
    ((d.sendTpdos.tcReports).drainEmcy).sendMirror

/-- STATUS_SNAPSHOT (R24). -/
def execStatusSnapshot (s : State) : Host.Outcome State Fault Refusal := s.logicNow snapshotEff

end Sys2Proof.Machine
end

