-- ==== Sys2Proof/Machine/Batch.lean ====
section
/-! DEFINITION. The batch (R39, R40, R42 to R49, R51, R398, R435): the boundary with its swap and its snapshot of the
inputs, the start and the deadline of Phase B, Phase D, and the journal group. -/

namespace Sys2Proof.Machine

/-! ### The swap -/

/-- R193, R197, R216: what swapped settings of the valve drive do on the tick of the boundary. -/
def Dev.swapValves (d : Dev) (before : Dev) (carried : Store) : Dev :=
  let d := (List.finRange 4).foldl (fun (d : Dev) (b : Fin 4) => d.bank b fun k =>
    let on := d.pd.armed && d.bankInUse b && !k.groundOff && k.offUntil.isNone
    { k with powered := on, poweredAt := if on && !k.powered then d.chain else k.poweredAt
             boostPeak := if on then k.boostPeak else none, waits := if on then k.waits else [] }) d
  let d := (List.finRange 32).foldl (fun (d : Dev) (n : Fin 32) =>
    if d.flag 0x250001 && d.valveOutlet n then d
    else d.channel n fun c =>
      { c with mode := if c.mode = .retired then .retired else .off, freewheel := false, on := false, onEnd := none }) d
  let d := (List.finRange 32).foldl (fun (d : Dev) (n : Fin 32) =>
    if d.flag 0x250001 || !d.valveOutlet n then d
    else d.outlet n fun x => { x with
      on := false, sweepOn := false, edges := []
      deposits := x.deposits.map fun q => if q.2.isNone then (q.1, some (max q.1 d.seq.t0)) else q }) d
  let retired := decide (d.valve.boost.state = 5)
  let again := match storeFind carried 0x250801 with
    | some (.num 1) => true
    | _ => false
  let d := if again && d.valve.boost.state = 5 then
      (d.boost fun b => { b with state := 0, restarts := 0 }).raise 0x0805 2 0xFFFF [(3, d.valve.boost.vbst)]
    else d
  if !d.flag 0x250801 || !d.flag 0x250001 then
    d.boost fun b => { b with state := if b.state = 5 then 5 else 0, restartAt := none }
  else if (again && retired) || !before.flag 0x250801 || !before.flag 0x250001 then d.startBoost
  else d

/-- R221: what swapped settings of the load switches do: an unused switch is off, and one that changes its mode starts in the
new one. -/
def Dev.swapSwitches (d before : Dev) : Dev :=
  (List.finRange 8).foldl (fun (d : Dev) (n : Fin 8) =>
    if !d.pd.armed then d
    else if !d.switchInUse n then
      d.switch n fun c => { (c.off d.time.now) with cmd := false, attempt := false }
    else if d.switchMode n ≠ before.switchMode n && d.lsw.switches[n].cmd then
      (d.switch n fun c => { c with pulseEnd := none }).switchStart n
    else d) d

/-- R159: the span table that the reports have brought comes into force. -/
def Dev.swapSpans (d : Dev) : Dev :=
  if d.isLead then { d with pose := { d.pose with spans := d.pose.spansNext } } else d

/-- R51: what the values of a swap start at its boundary. -/
def Dev.swapEffects (before : Dev) (carried : Store) (d : Dev) : Dev :=
  let d := (((d.swapUnused before).storeMapping.swapAxes.swapDelays carried).swapLoops before).swapControl before.automatic
  let d := ((d.swapSources (before.nat 0x200301)).swapValves before carried).swapSwitches before
  let d := d.swapPairs before
  let d := if before.int 0x220001 = d.int 0x220001 && before.int 0x220002 = d.int 0x220002 then d else d.newSession
  let d := ((swapCan carried (d.swapGnss carried)).swapSpans).swapLanes
  ({ d with ch := { d.ch with rejoining := false } } : Dev).settleTrim

/-- R51: the swap of the boundary, where the device holds go. -/
def Dev.swapHere (d : Dev) : Dev := if d.swapsHere then d.swapNow d.swapEffects else d

/-! ### The boundary -/

/-- R42: the chain time of the boundary that the command stands for: the next multiple of the batch period. -/
def Dev.boundaryTime (d : Dev) : Nat :=
  let p := d.periodNs
  let low := if d.seq.running then max d.chain (d.seq.t0 + 1) else d.chain
  (low + p - 1) / p * p

/-- R49: Phase D work of the last batch that is not finished is carried over, each piece counted; an open journal group
is closed against new entries and written first. -/
def Dev.carryOver (d : Dev) : Dev :=
  let one := fun (b : Bool) => if b then 1 else 0
  let left := fun (kernel : Nat) => d.eng.parked.any fun t => t.kernel = kernel && !t.audit
  let n := one d.seq.journalDue + one d.seq.recorderDue + one (d.seq.paintDue || left 5) + one (left 6)
    + one (d.seq.slotsDue || !d.nvm.level)
  let d := d.add 0x180501 n
  if d.seq.journalDue then
    ({ d with
      jrn := { d.jrn with late := some (d.jrn.openHalf.length, d.jrn.reserved.length, d.jrn.waiting.length) }
      seq := { d.seq with journalDue := false } } : Dev).bump 0x32000B
  else d

/-- R43: the batch number and the boundary's time. -/
def Dev.numberBatch (d : Dev) (t0 : Nat) : Dev :=
  let n := if d.seq.running then u32 (d.seq.number + 1) else if d.seq.synced then u32 (d.seq.number + 1) else 0
  let d := { d with seq := { d.seq with number := n, running := true, t0 := t0, phase := 0 } }
  (d.put 0x180101 n).put 0x180103 t0

/-- R52, R415: at its first boundary a device reports the writes that it took before. -/
def Dev.firstRequest (d : Dev) : Dev :=
  let n := d.swap.unrequested
  if n = 0 then d
  else
    let d := { d with swap := { d.swap with unrequested := 0 } }
    if d.isLead then d.countWrites d.pos32 n else d.send (.swapRequest n)

/-- R152: the first as-applied period begins with the first batch. -/
def Dev.startApplied (d : Dev) : Dev :=
  d.store fun s => { s with appliedAt := d.seq.t0, appliedFirst := d.seq.number, appliedStart := d.seq.t0 }

/-- R40: a step of chain time falls at the boundary, where every pending edge is discarded and none is committed in the
batch; the boundary then is the multiple of the period nearest to the new time (log entry 27). There, or where a slew begins,
a time-lost action ends. -/
def Dev.stepTime (d : Dev) : Dev :=
  let ends := d.time.lostEnds || d.time.stepPending.isSome
  let d := { d with time := { d.time with
    lostPending := d.time.lostPending && !ends, lostAction := d.time.lostAction && !ends, lostEnds := false } }
  match d.time.stepPending with
  | none => { d with seq := { d.seq with held := false } }
  | some e =>
    let d := { d with
      time := { d.time with offset := d.time.offset - e, stepPending := none }
      link := { d.link with filtered := 0, steady := 0, rest := 0 } }
    let t0 : Nat := (d.chain + d.periodNs / 2) / d.periodNs * d.periodNs
    (({ d with seq := { d.seq with held := true, t0 := t0 } } : Dev).dropEdges).put 0x180103 t0

/-- R39: the time-lost action begins at the boundary: off switches every outlet off; hold commits no new edges while it
lasts. -/
def Dev.timeLost (d : Dev) : Dev :=
  let d := if d.time.lostPending then
      let d := { d with time := { d.time with lostPending := false, lostAction := true } }
      if d.nat 0x180302 ≠ 0 then d
      else (List.finRange 32).foldl (fun (d : Dev) (n : Fin 32) => d.outlet n fun x =>
        let off : Edge := { instant := d.seq.t0 + 4000, kind := 2, source := 0, free := true }
        { x with edges := if x.on then [off] else [], sweepOn := false }) d
    else d
  if d.time.lostAction && d.nat 0x180302 ≠ 0 then { d with seq := { d.seq with held := true } } else d

/-- R52 to R54: the lead's part of the handshake in Phase A, and the device's report. -/
def Dev.handshake (d : Dev) : Dev :=
  let d := if d.isLead then d.lateSet.evaluate.formSet.announce else d.passSet
  d.report

/-- R433: the bands that the last round found come into force. -/
def Dev.takeBands (d : Dev) : Dev :=
  let b := d.hlt.bandsNext
  let d := { d with hlt := { d.hlt with bands := b }, link := { d.link with band := b[0] } }.put 0x290004 b[0]
  let d := (List.finRange 4).foldl (fun (d : Dev) (k : Fin 4) => d.put (bankAdr k 0x18) (b.toList.getD (3 + k.val) 1)) d
  ((d.put 0x2D0301 b[0]).put 0x2D0302 b[1]).put 0x2D0303 b[2]

/-- R215: the hold currents follow the start and the end of a slow-down at the boundary. -/
def Dev.limitHolds (d : Dev) : Dev :=
  (List.finRange 32).foldl (fun (d : Dev) (ch : Fin 32) => d.channel ch fun c =>
    { c with holdCurrent := if c.mode = .hold then d.holdInForce ch else c.holdCurrent }) d

/-- R435: enforcement starts and ends at the boundary; on the lead the first position that enforces doubles the period
by a swap, and the last one that ends takes it back. -/
def Dev.enforce (d : Dev) : Dev :=
  let changed := d.hlt.enforcing ≠ d.hlt.enforceNext
  let d := { d with hlt := { d.hlt with enforcing := d.hlt.enforceNext } }
  let d := if changed then d.limitHolds else d
  if !d.isLead then d
  else
    let d := { d with hlt := { d.hlt with
      enforcePositions := maskBit d.hlt.enforcePositions d.position d.hlt.enforcing } }
    let any := decide (d.hlt.enforcePositions ≠ 0)
    if any = d.hlt.periodDoubled then d
    else
      { d with
        hlt := { d.hlt with periodDoubled := any }
        swap := { d.swap with
          first := if d.swap.first.isSome then d.swap.first else some d.seq.number } }

/-- R211: a common that was off for a short to ground that is gone is powered again. -/
def Dev.restoreCommons (d : Dev) : Dev :=
  (List.finRange 4).foldl (fun (d : Dev) (b : Fin 4) =>
    let k := d.valve.banks[b]
    if !k.groundOff || !k.groundClear then d
    else
      let d := d.bank b fun k => { k with
        groundOff := false, groundClear := false, powered := d.pd.armed && d.bankInUse b && k.offUntil.isNone
        poweredAt := d.chain }
      (bankChannels b).foldl (fun (d : Dev) (ch : Fin 32) => d.channel ch fun c => { c with
        faultGround := false, faultBank := false, groundOn := false, groundOff := false }) d) d

/-- R33, R473, R480: the first batch after arming: commands are sent from now on, the power die counts as present again, and the first armed batch since the
reset gives the start-up time. -/
def Dev.armedBatch (d : Dev) : Dev :=
  if !d.pd.armed then d
  else
    let d := { d with pd := { d.pd with absent := false, opened := some (d.pd.opened.getD d.te) } }
    if d.power.armedOnce then d
    else ({ d with power := { d.power with armedOnce := true, armedAt := d.time.now } } : Dev).put 0x2D0607
      (min 4294967295 ((d.time.now - d.power.releasedAt) / 1000) : Nat)

/-- R24, R45: the Phase A snapshot: the RW values, the sensor inputs, and what takes effect with them. -/
def Dev.snapshotA (d : Dev) (ain : Vector AinSample 16) : Dev :=
  let d := (List.finRange 8).foldl (fun (d : Dev) (n : Fin 8) => d.switch n fun c =>
    { c with duty := (d.takenInt (switchAdr n 3)).toNat }) d
  let d := { d with taken := d.obj }
  (((d.latchInputs ain).returnPairs.relinkAxes).takeStaged.closeTravel).countQuiet

/-- R46, R72, R183: the lead sends its batch sync, and its SHAPE computes the boom state, which the end of the task publishes;
a wheeler waits for both. -/
def Dev.poseBoundary (d : Dev) : Dev :=
  let d := { d with pose := { d.pose with received := false, shaped := none } }
  let d := if d.isLead then
      let was := d.pose.boom.t0
      let d := d.send (.batchSync d.seq.number d.seq.t0 d.seq.map)
      d.shape (if was = 0 then d.periodNs else d.seq.t0 - was)
    else d
  d.startPhase d.phaseATasks 0

/-- R144: the duties and the trims in force, kept for PAINT of the batch. -/
def Dev.latchQuantities (d : Dev) : Dev :=
  let before := d.seq.t0 - d.periodNs
  { d with dec := { d.dec with
    outlets := d.dec.outlets.map fun x =>
      { x with duties := (x.duties.filter fun q => q.1 ≤ before).drop ((x.duties.filter fun q => q.1 ≤ before).length - 1)
                 ++ x.duties.filter fun q => before < q.1 }
    loops := d.dec.loops.map fun x => { x with inForceBefore := x.inForce, inForce := x.trim } } }

/-- R398: the lead reconciles the mismatch events that it has learned of. -/
def Dev.reconcileOne (d : Dev) (e : Nat × Nat × Nat) : Dev :=
  let (p, unit, cause) := e
  let far := decide (p ≠ d.position)
  if unit < 32 then
    let d := (d.markOutlet (32 * p + unit) true).bump 0x103204
    if !far then d
    else
      let a := 0x3000 + unit
      ((d.ask p (adr a 0x10) 4).ask p (adr a 0x11) 4).ask p (adr a 0x13) 4
  else
    let a := 0x2610 + (unit - 32)
    let d := d.bump 0x103204
    if !far then d
    else
      let d := (d.ask p (adr a 8) 4).ask p (adr a 9) 4
      if cause = 6 || cause = 7 then d.sendMask p else d

/-- R398: the first boundary after the lead has learned of mismatch events. -/
def Dev.reconcileAll (d : Dev) : Dev :=
  let es := d.dic.reconcile
  let d := { d with dic := { d.dic with reconcile := [] } }
  if d.isLead then es.foldl Dev.reconcileOne d else d

/-- R303: while the proof set names a standby, the lead reads whether its GNSS is enabled. -/
def Dev.askStandby (d : Dev) : Dev :=
  let p := d.proofNat 0x2A0008
  if d.isLead && p ≠ 0xFF && p ≠ d.nat 0x2A0008 && d.seq.map.testBit p && p ≠ d.position then d.ask p 0x2B0001 5 else d

/-- R42: batches run once the chain is enumerated and chain time has a state. -/
def Dev.batchesRun (d : Dev) : Bool := d.ch.enumerated && d.time.state ≠ 0

/-- R42 to R46, R49, R51: a batch boundary and its Phase A. -/
def boundaryEff (d : Dev) (ain : Vector AinSample 16) : Dev :=
  if !d.batchesRun then d
  else
    let first := !d.seq.running
    let d := d.slewBatch
    let t0 := d.boundaryTime
    let d := d.at ((t0 : Int) - d.time.offset).toNat
    let d := ((d.sendMirror.parkTasks).carryOver).numberBatch t0
    let d := if first then d.firstRequest.startApplied else d
    let d := (d.takeMap.handover.swapHere).stepTime.timeLost
    let d := (d.handshake.takeBands.enforce).restoreCommons.returnChannels.armedBatch
    let d := (d.refreshSequencer.snapshotA ain).dueDrays.poseBoundary
    let d := ((d.latchQuantities.cutOff.moveShares.grantShares).pruneIssued.restoreRing).sweepBoundary
    ((d.missingCheck.mirrorCheck).windDown).reconcileAll.askStandby

/-! ### Phases B and C -/

/-- Move the clock to a fraction of the batch, and set the phase. -/
def Dev.toPhase (d : Dev) (phase percent : Nat) : Dev :=
  let t := d.seq.t0 + d.periodNs * percent / 100
  let d := d.at ((t : Int) - d.time.offset).toNat
  ({ d with seq := { d.seq with phase := phase } } : Dev).refreshSequencer

/-- R45, R174: Phase B starts: the tasks of the batch are dispatched. -/
def phaseBEff (d : Dev) : Dev :=
  if !d.seq.running || d.seq.phase ≠ 0 then d
  else
    let d := ((d.toPhase 1 5).staleBoom).readySlots
    d.startPhase d.phaseBTasks 1

/-- R47, R180: Phase B tasks that have returned no result by the deadline. -/
def Dev.lateTasks (d : Dev) : Nat :=
  (d.eng.tasks.filter fun t => !d.eng.written.any fun w => w.number = t.number || (w.batch = t.batch
    && w.kernel = t.kernel && w.variant = t.variant && w.outlet = t.outlet && w.index = t.index)).length

/-- R181: the shares whose group is on time are matched. -/
def Dev.matchAll (d : Dev) : Dev :=
  { d with tgt := { d.tgt with store := d.tgt.store.map fun p => if d.matchMissing p then p else d.matchShare p } }

/-- R180, R181: the PREDICT result of an outlet is on time. -/
def Dev.predicted (d : Dev) (n : Fin 32) : Bool := d.onTimeResult fun t => t.kernel = 1 && t.outlet = some n

/-- R48: the commit of an outlet has not finished by the end of Phase C: the last ones in outlet order, as many as the free
value says. -/
def Dev.uncommitted (d : Dev) (n : Fin 32) : Bool :=
  decide ((d.usedOutlets.filter fun m => n ≤ m).length ≤ Config.commitShort d.seq.number)

/-- R45, R48, R180 to R182: the Phase B deadline closes the result slots, and Phase C commits. -/
def deadlineEff (d : Dev) : Dev :=
  if !d.seq.running || d.seq.phase ≠ 1 then d
  else
    let d := ((d.toPhase 2 60).closeSlots).add 0x180401 d.lateTasks
    let d := ((d.predictAll d.predicted).checkIntakes d.intakeMissing).matchAll
    let late := fun n => d.outletLate n || d.uncommitted n
    if d.seq.held then d.holdBatch late else d.commitBatch late d.loopMissing

/-! ### Phase D -/

/-- R22, R221: the load-switch commands of the batch go to the power die for t_e. -/
def Dev.sendSwitches (d : Dev) : Dev :=
  if !d.commanding || d.pd.absent then d
  else (List.finRange 8).foldl (fun (d : Dev) (n : Fin 8) =>
    let on := (d.takenInt 0x260004).toNat.testBit n.val && d.flag 0x260001 && d.switchMode n ≠ 0
    if on = d.lsw.switches[n].cmd then d else d.issue d.te (.loadSwitch n on)) d

/-- R45, R188, R473: Phase D starts: rows are settled, paint falls due, its tasks are dispatched, quarantined drays test
themselves, shares close, tiles move (log entry 114), and the journal and recorder of the batch are due. -/
def phaseDEff (d : Dev) : Dev :=
  if !d.seq.running || d.seq.phase ≠ 2 then d
  else
    let well := !d.hlt.deviceFault
    let d := settleRowsEff (d.toPhase 3 70)
    let d := (if well && d.hlt.deviceFault then d.withdrawReady else d).paintDue
    let d := ((d.startPhase d.phaseDTasks 3).startSelfTests).keepWork
    let d := (d.closeShares.corridorStep).cacheStep.sendSwitches
    let d := if d.pd.powered then { d with pd := { d.pd with settings := true } } else d
    let d := d.closeApplied
    let journal := d.jrn.openHalf ≠ [] || d.jrn.reserved ≠ []
    let recorder := d.rcd.buffer ≠ [] || d.rcd.lostPending ≠ 0 || d.rcd.clearRing.isSome
    { d with seq := { d.seq with journalDue := decide journal, recorderDue := decide recorder, mirrorDue := d.hasStandby } }

/-- R408, R49: a journal group is committed: what it acknowledges, and with it the recorder's page and the set slots of the
batch; with CAL values committed a device may have become ready (R53). -/
def groupEff (d : Dev) : Dev :=
  let d := ((groupCommitEff d).targetsCommitted).offerApplied
  (slotsEff (recorderEff d.commitCounter)).report

/-! ### Meanings -/

/-- BATCH_BOUNDARY (R42). -/
def execBatchBoundary (ain : Vector AinSample 16) (s : State) : Host.Outcome State Fault Refusal :=
  s.logicNow fun d => boundaryEff d ain

/-- PHASE_B_START (R45). -/
def execPhaseBStart (s : State) : Host.Outcome State Fault Refusal := s.logicNow phaseBEff

/-- PHASE_B_DEADLINE (R180). -/
def execPhaseBDeadline (s : State) : Host.Outcome State Fault Refusal := s.logicNow deadlineEff

/-- PHASE_D_START (R45). -/
def execPhaseDStart (s : State) : Host.Outcome State Fault Refusal := s.logicNow phaseDEff

/-- JOURNAL_GROUP_COMMIT (R408). -/
def execJournalGroupCommit (t : Nat) (s : State) : Host.Outcome State Fault Refusal := s.logic t groupEff

end Sys2Proof.Machine
end

