-- ==== Sys2Proof/Machine/Dispatch.lean ====
section
/-! DEFINITION. The meaning of every command, one arm for each constructor: the command's effect on everything but the
queue. -/

namespace Sys2Proof.Machine

/-- The effect of one command. -/
def exec (i : Instr) (s : State) : Host.Outcome State Fault Refusal :=
  match i with
  | .powerOnReset roleHigh t => Sys2Proof.Machine.execPowerOnReset roleHigh t s
  | .boot rep t => Sys2Proof.Machine.execBoot rep t s
  | .chainTimeSeed gnss t => Sys2Proof.Machine.execChainTimeSeed gnss t s
  | .seedWaitExpiry t => Sys2Proof.Machine.execSeedWaitExpiry t s
  | .clockLockLoss t => Sys2Proof.Machine.execClockLockLoss t s
  | .clockLockHeld rep t => Sys2Proof.Machine.execClockLockHeld rep t s
  | .nrstAssert lowNs t => Sys2Proof.Machine.execNrstAssert lowNs t s
  | .debugPortReset t => Sys2Proof.Machine.execDebugPortReset t s
  | .debugHalt core t => Sys2Proof.Machine.execDebugHalt core t s
  | .vbatApplied v1 v2 t => Sys2Proof.Machine.execVbatApplied v1 v2 t s
  | .powerDieAbsent t => Sys2Proof.Machine.execPowerDieAbsent t s
  | .powerDieReset v1 v2 t => Sys2Proof.Machine.execPowerDieReset v1 v2 t s
  | .vbatUndervoltage v1 v2 t => Sys2Proof.Machine.execVbatUndervoltage v1 v2 t s
  | .vbatReverse t => Sys2Proof.Machine.execVbatReverse t s
  | .loadDump v1 v2 t => Sys2Proof.Machine.execLoadDump v1 v2 t s
  | .pgndOpen t => Sys2Proof.Machine.execPgndOpen t s
  | .powerLinkCommand crcOk frame t => Sys2Proof.Machine.execPowerLinkCommand crcOk frame t s
  | .negativeAcknowledgement id t => Sys2Proof.Machine.execNegativeAcknowledgement id t s
  | .tetherToken t => Sys2Proof.Machine.execTetherToken t s
  | .permissionRefresh t => Sys2Proof.Machine.execPermissionRefresh t s
  | .permissionLapse which t => Sys2Proof.Machine.execPermissionLapse which t s
  | .tetherTokenReceived crcOk count armed t => Sys2Proof.Machine.execTetherTokenReceived crcOk count armed t s
  | .tetherSilence t => Sys2Proof.Machine.execTetherSilence t s
  | .supervisionCheck core0Up core1Up t => Sys2Proof.Machine.execSupervisionCheck core0Up core1Up t s
  | .supervisionReset t => Sys2Proof.Machine.execSupervisionReset t s
  | .batchBoundary ain => Sys2Proof.Machine.execBatchBoundary ain s
  | .phaseBStart => Sys2Proof.Machine.execPhaseBStart s
  | .phaseBDeadline => Sys2Proof.Machine.execPhaseBDeadline s
  | .phaseDStart => Sys2Proof.Machine.execPhaseDStart s
  | .statusSnapshot => Sys2Proof.Machine.execStatusSnapshot s
  | .taskRelease task => Sys2Proof.Machine.execTaskRelease task s
  | .taskTake dray => Sys2Proof.Machine.execTaskTake dray s
  | .taskResultWrite dray t => Sys2Proof.Machine.execTaskResultWrite dray t s
  | .stealRequest thief victim t => Sys2Proof.Machine.execStealRequest thief victim t s
  | .stealRetry thief t => Sys2Proof.Machine.execStealRetry thief t s
  | .drayFault dray cause t => Sys2Proof.Machine.execDrayFault dray cause t s
  | .drayStepOverrun dray t => Sys2Proof.Machine.execDrayStepOverrun dray t s
  | .meshTimeout dray t => Sys2Proof.Machine.execMeshTimeout dray t s
  | .draySelfTest dray pass t => Sys2Proof.Machine.execDraySelfTest dray pass t s
  | .drayRetestWrite acc v => Sys2Proof.Machine.execDrayRetestWrite acc v s
  | .gnssSolution fix t => Sys2Proof.Machine.execGnssSolution fix t s
  | .holdoverEntry t => Sys2Proof.Machine.execHoldoverEntry t s
  | .holdoverLimit t => Sys2Proof.Machine.execHoldoverLimit t s
  | .reportSlotStop t => Sys2Proof.Machine.execReportSlotStop t s
  | .reLock err t => Sys2Proof.Machine.execReLock err t s
  | .namedSwapWrite acc v => Sys2Proof.Machine.execNamedSwapWrite acc v s
  | .swapCancelWrite acc v => Sys2Proof.Machine.execSwapCancelWrite acc v s
  | .proofWrite acc addr v => Sys2Proof.Machine.execProofWrite acc addr v s
  | .resetLearningWrite acc outlet v => Sys2Proof.Machine.execResetLearningWrite acc outlet v s
  | .swapRequest pos writes => Sys2Proof.Machine.execSwapRequest pos writes s
  | .swapAnnouncement swapBatch setNo announced => Sys2Proof.Machine.execSwapAnnouncement swapBatch setNo announced s
  | .readyReport pos ready span => Sys2Proof.Machine.execReadyReport pos ready span s
  | .swapGo swapBatch => Sys2Proof.Machine.execSwapGo swapBatch s
  | .swapPostponement swapBatch newBatch => Sys2Proof.Machine.execSwapPostponement swapBatch newBatch s
  | .swapCancel swapBatch => Sys2Proof.Machine.execSwapCancel swapBatch s
  | .ppsPulse => Sys2Proof.Machine.execPpsPulse s
  | .rtcDiscipline => Sys2Proof.Machine.execRtcDiscipline s
  | .rtcSupplyLoss t => Sys2Proof.Machine.execRtcSupplyLoss t s
  | .movingBaselineFix fix t => Sys2Proof.Machine.execMovingBaselineFix fix t s
  | .boomState state t => Sys2Proof.Machine.execBoomState state t s
  | .batchSync number t0 map t => Sys2Proof.Machine.execBatchSync number t0 map t s
  | .poseSourceLoss src t => Sys2Proof.Machine.execPoseSourceLoss src t s
  | .imuTimeout t => Sys2Proof.Machine.execImuTimeout t s
  | .heightInputTimeout seg t => Sys2Proof.Machine.execHeightInputTimeout seg t s
  | .speedSourceImplausible src reading t => Sys2Proof.Machine.execSpeedSourceImplausible src reading t s
  | .speedSourceRejoin src t => Sys2Proof.Machine.execSpeedSourceRejoin src t s
  | .deadReckoningLimit t => Sys2Proof.Machine.execDeadReckoningLimit t s
  | .freqEdge n forward t => Sys2Proof.Machine.execFreqEdge n forward t s
  | .freqZeroTimeout n t => Sys2Proof.Machine.execFreqZeroTimeout n t s
  | .dinDebouncedChange n level t => Sys2Proof.Machine.execDinDebouncedChange n level t s
  | .sensorSupplyLimitTrip k t => Sys2Proof.Machine.execSensorSupplyLimitTrip k t s
  | .sensorSupplyRetry k ok t => Sys2Proof.Machine.execSensorSupplyRetry k ok t s
  | .sensorSupplyOvervoltage k t => Sys2Proof.Machine.execSensorSupplyOvervoltage k t s
  | .sensorSupplyEnableWrite acc k v => Sys2Proof.Machine.execSensorSupplyEnableWrite acc k v s
  | .manualSectionWrite acc k v => Sys2Proof.Machine.execManualSectionWrite acc k v s
  | .learnedDelayCommit t => Sys2Proof.Machine.execLearnedDelayCommit t s
  | .loopFeedbackRecovered loop t => Sys2Proof.Machine.execLoopFeedbackRecovered loop t s
  | .edgeIssue outlet t => Sys2Proof.Machine.execEdgeIssue outlet t s
  | .missedSwitchOn outlet instant t => Sys2Proof.Machine.execMissedSwitchOn outlet instant t s
  | .kinkReport rep t => Sys2Proof.Machine.execKinkReport rep t s
  | .channelSwitchOn ch t => Sys2Proof.Machine.execChannelSwitchOn ch t s
  | .channelSwitchOff ch t => Sys2Proof.Machine.execChannelSwitchOff ch t s
  | .pwmSlotStart ch t => Sys2Proof.Machine.execPwmSlotStart ch t s
  | .valveRateEdge ch duty t => Sys2Proof.Machine.execValveRateEdge ch duty t s
  | .endOfOnTime ch t => Sys2Proof.Machine.execEndOfOnTime ch t s
  | .arrivalKink ch kink t => Sys2Proof.Machine.execArrivalKink ch kink t s
  | .endOfPeak ch t => Sys2Proof.Machine.execEndOfPeak ch t s
  | .waitLimit ch t => Sys2Proof.Machine.execWaitLimit ch t s
  | .releaseKink ch kink t => Sys2Proof.Machine.execReleaseKink ch kink t s
  | .releaseEnd ch t => Sys2Proof.Machine.execReleaseEnd ch t s
  | .overcurrentTrip ch t => Sys2Proof.Machine.execOvercurrentTrip ch t s
  | .channelBackOffEnd ch t => Sys2Proof.Machine.execChannelBackOffEnd ch t s
  | .onStateDiagnostic ch diag t => Sys2Proof.Machine.execOnStateDiagnostic ch diag t s
  | .offStateTest ch res t => Sys2Proof.Machine.execOffStateTest ch res t s
  | .holdUnreachable ch t => Sys2Proof.Machine.execHoldUnreachable ch t s
  | .commonCurrentLimit bank t => Sys2Proof.Machine.execCommonCurrentLimit bank t s
  | .commonRestore bank t => Sys2Proof.Machine.execCommonRestore bank t s
  | .senseWindow bank figs t => Sys2Proof.Machine.execSenseWindow bank figs t s
  | .channelReturnWrite acc v => Sys2Proof.Machine.execChannelReturnWrite acc v s
  | .boostStartTimeout t => Sys2Proof.Machine.execBoostStartTimeout t s
  | .boostRestart t => Sys2Proof.Machine.execBoostRestart t s
  | .boostFallback vbst t => Sys2Proof.Machine.execBoostFallback vbst t s
  | .boostOvervoltage vbst t => Sys2Proof.Machine.execBoostOvervoltage vbst t s
  | .loadSwitchCommandWrite acc addr v => Sys2Proof.Machine.execLoadSwitchCommandWrite acc addr v s
  | .loadSwitchCommand sw t => Sys2Proof.Machine.execLoadSwitchCommand sw t s
  | .pulsePeriodStart g t => Sys2Proof.Machine.execPulsePeriodStart g t s
  | .pulseEnd sw t => Sys2Proof.Machine.execPulseEnd sw t s
  | .loadSwitchTrip sw thermal t => Sys2Proof.Machine.execLoadSwitchTrip sw thermal t s
  | .loadSwitchBackOffEnd sw t => Sys2Proof.Machine.execLoadSwitchBackOffEnd sw t s
  | .loadSwitchCountClear sw t => Sys2Proof.Machine.execLoadSwitchCountClear sw t s
  | .loadSwitchOffStateTest sw shortSupply openLoad t => Sys2Proof.Machine.execLoadSwitchOffStateTest sw shortSupply openLoad t s
  | .loadSwitchOpenLoad sw low t => Sys2Proof.Machine.execLoadSwitchOpenLoad sw low t s
  | .limpHomeInput n level t => Sys2Proof.Machine.execLimpHomeInput n level t s
  | .lhenChange level t => Sys2Proof.Machine.execLhenChange level t s
  | .pwmPeriodStart p t => Sys2Proof.Machine.execPwmPeriodStart p t s
  | .loadAllWrite acc v => Sys2Proof.Machine.execLoadAllWrite acc v s
  | .forceWrite acc p v => Sys2Proof.Machine.execForceWrite acc p v s
  | .forceApply t => Sys2Proof.Machine.execForceApply t s
  | .delayLineCalibration taps t => Sys2Proof.Machine.execDelayLineCalibration taps t s
  | .switchNodeSwing p t => Sys2Proof.Machine.execSwitchNodeSwing p t s
  | .deadTimeMaximum p t => Sys2Proof.Machine.execDeadTimeMaximum p t s
  | .pwmFaultInput n active t => Sys2Proof.Machine.execPwmFaultInput n active t s
  | .interlockEvent p duration t => Sys2Proof.Machine.execInterlockEvent p duration t s
  | .pairReturnWrite acc v => Sys2Proof.Machine.execPairReturnWrite acc v s
  | .forwardedClockLoss t => Sys2Proof.Machine.execForwardedClockLoss t s
  | .axisUpdate t => Sys2Proof.Machine.execAxisUpdate t s
  | .moveGo acc ax => Sys2Proof.Machine.execMoveGo acc ax s
  | .moveStop acc ax => Sys2Proof.Machine.execMoveStop acc ax s
  | .quickStop acc ax => Sys2Proof.Machine.execQuickStop acc ax s
  | .moveResume acc ax => Sys2Proof.Machine.execMoveResume acc ax s
  | .moveAbandon acc ax => Sys2Proof.Machine.execMoveAbandon acc ax s
  | .positionWrite acc ax v => Sys2Proof.Machine.execPositionWrite acc ax v s
  | .coarseStep forward t => Sys2Proof.Machine.execCoarseStep forward t s
  | .coarseStepTimeout t => Sys2Proof.Machine.execCoarseStepTimeout t s
  | .rowDriveStatus st t => Sys2Proof.Machine.execRowDriveStatus st t s
  | .blockLock lane t => Sys2Proof.Machine.execBlockLock lane t s
  | .blockLockLoss lane t => Sys2Proof.Machine.execBlockLockLoss lane t s
  | .markerBlock lane arrived t => Sys2Proof.Machine.execMarkerBlock lane arrived t s
  | .frameStart port t => Sys2Proof.Machine.execFrameStart port t s
  | .messageReceived port msg crc t => Sys2Proof.Machine.execMessageReceived port msg crc t s
  | .linkAcknowledgement port cls seq t => Sys2Proof.Machine.execLinkAcknowledgement port cls seq t s
  | .linkNegativeAcknowledgement port cls seq t => Sys2Proof.Machine.execLinkNegativeAcknowledgement port cls seq t s
  | .linkBusy port cls seq t => Sys2Proof.Machine.execLinkBusy port cls seq t s
  | .replayTimeout port cls t => Sys2Proof.Machine.execReplayTimeout port cls t s
  | .busyWaitEnd port cls t => Sys2Proof.Machine.execBusyWaitEnd port cls t s
  | .segmentTimeout source t => Sys2Proof.Machine.execSegmentTimeout source t s
  | .guestMessageTimeout port t => Sys2Proof.Machine.execGuestMessageTimeout port t s
  | .errorRateAlarm lane errored t => Sys2Proof.Machine.execErrorRateAlarm lane errored t s
  | .retrainAttempt lane t => Sys2Proof.Machine.execRetrainAttempt lane t s
  | .retrainTimeout lane t => Sys2Proof.Machine.execRetrainTimeout lane t s
  | .laneReinstate lane t => Sys2Proof.Machine.execLaneReinstate lane t s
  | .retiredLaneRetestWrite acc v => Sys2Proof.Machine.execRetiredLaneRetestWrite acc v s
  | .portTrainingTimeout port t => Sys2Proof.Machine.execPortTrainingTimeout port t s
  | .enumerationProbe port number arm hops t => Sys2Proof.Machine.execEnumerationProbe port number arm hops t s
  | .enumerationReport rep t => Sys2Proof.Machine.execEnumerationReport rep t s
  | .enumerationReportWait t => Sys2Proof.Machine.execEnumerationReportWait t s
  | .chainTable nodes epoch standby map t => Sys2Proof.Machine.execChainTable nodes epoch standby map t s
  | .enumerationRetry t => Sys2Proof.Machine.execEnumerationRetry t s
  | .breakNotice position t => Sys2Proof.Machine.execBreakNotice position t s
  | .ringRestore t => Sys2Proof.Machine.execRingRestore t s
  | .echoPeriod t => Sys2Proof.Machine.execEchoPeriod t s
  | .echoRequest port id t => Sys2Proof.Machine.execEchoRequest port id t s
  | .echoResponse port id times t => Sys2Proof.Machine.execEchoResponse port id times t s
  | .standbyMirror mirror t => Sys2Proof.Machine.execStandbyMirror mirror t s
  | .markerMissing t => Sys2Proof.Machine.execMarkerMissing t s
  | .takeoverNotice position t => Sys2Proof.Machine.execTakeoverNotice position t s
  | .guestCredit guest credits => Sys2Proof.Machine.execGuestCredit guest credits s
  | .sweepStart acc kind batch => Sys2Proof.Machine.execSweepStart acc kind batch s
  | .sweepCancel acc v => Sys2Proof.Machine.execSweepCancel acc v s
  | .sweepStepRequest acc kind unit => Sys2Proof.Machine.execSweepStepRequest acc kind unit s
  | .sweepStepComplete ok result t => Sys2Proof.Machine.execSweepStepComplete ok result t s
  | .sweepPoll t => Sys2Proof.Machine.execSweepPoll t s
  | .sweepStepTimeout t => Sys2Proof.Machine.execSweepStepTimeout t s
  | .dictionaryRequest req t => Sys2Proof.Machine.execDictionaryRequest req t s
  | .dictionaryResponse pos resp t => Sys2Proof.Machine.execDictionaryResponse pos resp t s
  | .remoteRequestTimeout pos tag t => Sys2Proof.Machine.execRemoteRequestTimeout pos tag t s
  | .aggregatorBusyResend pos tag t => Sys2Proof.Machine.execAggregatorBusyResend pos tag t s
  | .tileRequest pos coord t => Sys2Proof.Machine.execTileRequest pos coord t s
  | .tileTransfer tile t => Sys2Proof.Machine.execTileTransfer tile t s
  | .paintDelta delta t => Sys2Proof.Machine.execPaintDelta delta t s
  | .paintComplete batch t => Sys2Proof.Machine.execPaintComplete batch t s
  | .cacherDrop pos coord t => Sys2Proof.Machine.execCacherDrop pos coord t s
  | .homeRebuild coord t => Sys2Proof.Machine.execHomeRebuild coord t s
  | .tileWindowExpiry coord t => Sys2Proof.Machine.execTileWindowExpiry coord t s
  | .cachedTileRelease coord t => Sys2Proof.Machine.execCachedTileRelease coord t s
  | .writeBackPeriod coord t => Sys2Proof.Machine.execWriteBackPeriod coord t s
  | .writeBackResend coord t => Sys2Proof.Machine.execWriteBackResend coord t s
  | .tileInWrite acc tile => Sys2Proof.Machine.execTileInWrite acc tile s
  | .tileAbsentWrite acc v => Sys2Proof.Machine.execTileAbsentWrite acc v s
  | .writeBackAcknowledge acc coord seq => Sys2Proof.Machine.execWriteBackAcknowledge acc coord seq s
  | .asAppliedAcknowledge acc pos seq => Sys2Proof.Machine.execAsAppliedAcknowledge acc pos seq s
  | .asAppliedReoffer t => Sys2Proof.Machine.execAsAppliedReoffer t s
  | .recordSigned seq t => Sys2Proof.Machine.execRecordSigned seq t s
  | .mapMissHoldLimit outlet t => Sys2Proof.Machine.execMapMissHoldLimit outlet t s
  | .targetMessage guest crcOk count recs t => Sys2Proof.Machine.execTargetMessage guest crcOk count recs t s
  | .targetInWrite acc recs => Sys2Proof.Machine.execTargetInWrite acc recs s
  | .share share t => Sys2Proof.Machine.execShare share t s
  | .shareCredit pos credits t => Sys2Proof.Machine.execShareCredit pos credits t s
  | .shareConfirmation pos rec t => Sys2Proof.Machine.execShareConfirmation pos rec t s
  | .shareExpiry intake source seq t => Sys2Proof.Machine.execShareExpiry intake source seq t s
  | .targetResult rec t => Sys2Proof.Machine.execTargetResult rec t s
  | .resultAcknowledge acc source seq => Sys2Proof.Machine.execResultAcknowledge acc source seq s
  | .basebandStart verifyOk t => Sys2Proof.Machine.execBasebandStart verifyOk t s
  | .scriptRetry verifyOk t => Sys2Proof.Machine.execScriptRetry verifyOk t s
  | .agcRound n rms t => Sys2Proof.Machine.execAgcRound n rms t s
  | .notchSearch n lines t => Sys2Proof.Machine.execNotchSearch n lines t s
  | .sampleClockLoss n t => Sys2Proof.Machine.execSampleClockLoss n t s
  | .sampleClockReturn n verifyOk sats t => Sys2Proof.Machine.execSampleClockReturn n verifyOk sats t s
  | .channelAllocation sats t => Sys2Proof.Machine.execChannelAllocation sats t s
  | .acquisitionPeak ch t => Sys2Proof.Machine.execAcquisitionPeak ch t s
  | .acquisitionExhausted ch t => Sys2Proof.Machine.execAcquisitionExhausted ch t s
  | .channelLock ch t => Sys2Proof.Machine.execChannelLock ch t s
  | .pullInTimeout ch t => Sys2Proof.Machine.execPullInTimeout ch t s
  | .trackLoss ch t => Sys2Proof.Machine.execTrackLoss ch t s
  | .sidePeakLock ch t => Sys2Proof.Machine.execSidePeakLock ch t s
  | .reacquirePeak ch t => Sys2Proof.Machine.execReacquirePeak ch t s
  | .reacquireTimeout ch t => Sys2Proof.Machine.execReacquireTimeout ch t s
  | .measurementEpoch obs t => Sys2Proof.Machine.execMeasurementEpoch obs t s
  | .baseEpoch epoch fix t => Sys2Proof.Machine.execBaseEpoch epoch fix t s
  | .correctionInput acc frames t => Sys2Proof.Machine.execCorrectionInput acc frames t s
  | .leapSecond t => Sys2Proof.Machine.execLeapSecond t s
  | .keptDataCommit t => Sys2Proof.Machine.execKeptDataCommit t s
  | .keptDataErase acc v => Sys2Proof.Machine.execKeptDataErase acc v s
  | .startFallback t => Sys2Proof.Machine.execStartFallback t s
  | .canFrameReceived bus frame t => Sys2Proof.Machine.execCanFrameReceived bus frame t s
  | .busOff bus t => Sys2Proof.Machine.execBusOff bus t s
  | .busOffRecovery bus t => Sys2Proof.Machine.execBusOffRecovery bus t s
  | .addressClaim name address t => Sys2Proof.Machine.execAddressClaim name address t s
  | .transportPacket source pgn data last t => Sys2Proof.Machine.execTransportPacket source pgn data last t s
  | .diagnosticRequest pgn source t => Sys2Proof.Machine.execDiagnosticRequest pgn source t s
  | .dm3Clear source t => Sys2Proof.Machine.execDm3Clear source t s
  | .dm11Clear source t => Sys2Proof.Machine.execDm11Clear source t s
  | .dm1Send t => Sys2Proof.Machine.execDm1Send t s
  | .tcValueCommand element ddi value t => Sys2Proof.Machine.execTcValueCommand element ddi value t s
  | .tcMeasurementCommand element ddi kind value t => Sys2Proof.Machine.execTcMeasurementCommand element ddi kind value t s
  | .tcServerLost t => Sys2Proof.Machine.execTcServerLost t s
  | .proprietaryARequest name command addr seq v t => Sys2Proof.Machine.execProprietaryARequest name command addr seq v t s
  | .nmtOperational node t => Sys2Proof.Machine.execNmtOperational node t s
  | .nmtPreOperational node t => Sys2Proof.Machine.execNmtPreOperational node t s
  | .nmtStop node t => Sys2Proof.Machine.execNmtStop node t s
  | .nmtResetCommunication node t => Sys2Proof.Machine.execNmtResetCommunication node t s
  | .nmtResetNode node t => Sys2Proof.Machine.execNmtResetNode node t s
  | .sdoRequest write addr t => Sys2Proof.Machine.execSdoRequest write addr t s
  | .sdoTimeout t => Sys2Proof.Machine.execSdoTimeout t s
  | .rpdo n data t => Sys2Proof.Machine.execRpdo n data t s
  | .heartbeatSend t => Sys2Proof.Machine.execHeartbeatSend t s
  | .heartbeatTimeout k t => Sys2Proof.Machine.execHeartbeatTimeout k t s
  | .hostRead crcOk addr t => Sys2Proof.Machine.execHostRead crcOk addr t s
  | .hostReadHigh crcOk addr t => Sys2Proof.Machine.execHostReadHigh crcOk addr t s
  | .hostWrite crcOk addr data t => Sys2Proof.Machine.execHostWrite crcOk addr data t s
  | .hostWriteHigh crcOk addr data t => Sys2Proof.Machine.execHostWriteHigh crcOk addr data t s
  | .hostBlockRead crcOk addr offset words t => Sys2Proof.Machine.execHostBlockRead crcOk addr offset words t s
  | .hostStage crcOk offset data t => Sys2Proof.Machine.execHostStage crcOk offset data t s
  | .hostCommitStaged crcOk addr length t => Sys2Proof.Machine.execHostCommitStaged crcOk addr length t s
  | .hostPortStatus crcOk t => Sys2Proof.Machine.execHostPortStatus crcOk t s
  | .hostUnknownCommand crcOk t => Sys2Proof.Machine.execHostUnknownCommand crcOk t s
  | .hostTransactionAborted t => Sys2Proof.Machine.execHostTransactionAborted t s
  | .stagedHalfExpiry acc t => Sys2Proof.Machine.execStagedHalfExpiry acc t s
  | .registerWrite acc addr v t => Sys2Proof.Machine.execRegisterWrite acc addr v t s
  | .queueRead acc addr t => Sys2Proof.Machine.execQueueRead acc addr t s
  | .recordRead acc t => Sys2Proof.Machine.execRecordRead acc t s
  | .pageRead acc t => Sys2Proof.Machine.execPageRead acc t s
  | .journalGroupCommit t => Sys2Proof.Machine.execJournalGroupCommit t s
  | .journalCheckpoint t => Sys2Proof.Machine.execJournalCheckpoint t s
  | .mirrorAcknowledged batch t => Sys2Proof.Machine.execMirrorAcknowledged batch t s
  | .clientSlotRelease acc v => Sys2Proof.Machine.execClientSlotRelease acc v s
  | .sramError region array row uncorrectable rowTestPass t => Sys2Proof.Machine.execSramError region array row uncorrectable rowTestPass t s
  | .mramWriteFault block row t => Sys2Proof.Machine.execMramWriteFault block row t s
  | .housekeepingRound hk t => Sys2Proof.Machine.execHousekeepingRound hk t s
  | .throttleGraceEnd t => Sys2Proof.Machine.execThrottleGraceEnd t s
  | .throttleRelease t => Sys2Proof.Machine.execThrottleRelease t s
  | .powerThermalShutdown t => Sys2Proof.Machine.execPowerThermalShutdown t s
  | .shutdownResetHold t => Sys2Proof.Machine.execShutdownResetHold t s
  | .clearRing acc v => Sys2Proof.Machine.execClearRing acc v s
  | .imageChunk acc offset data => Sys2Proof.Machine.execImageChunk acc offset data s
  | .imageErase acc v => Sys2Proof.Machine.execImageErase acc v s
  | .imageActivate acc v => Sys2Proof.Machine.execImageActivate acc v s
  | .trialConfirmation t => Sys2Proof.Machine.execTrialConfirmation t s
  | .authenticationTag acc tag t => Sys2Proof.Machine.execAuthenticationTag acc tag t s
  | .authenticationLockoutEnd t => Sys2Proof.Machine.execAuthenticationLockoutEnd t s
  | .calibrationKeyWrite acc key => Sys2Proof.Machine.execCalibrationKeyWrite acc key s
  | .debugUnlock acc v => Sys2Proof.Machine.execDebugUnlock acc v s
  | .decommission acc v => Sys2Proof.Machine.execDecommission acc v s
  | .dormantRequest acc => Sys2Proof.Machine.execDormantRequest acc s
  | .offRequest acc => Sys2Proof.Machine.execOffRequest acc s
  | .powerDownEntry t => Sys2Proof.Machine.execPowerDownEntry t s
  | .powerDownSwitchOff t => Sys2Proof.Machine.execPowerDownSwitchOff t s
  | .restartRequest acc v => Sys2Proof.Machine.execRestartRequest acc v s
  | .restartReset t => Sys2Proof.Machine.execRestartReset t s
  | .wakeDin0 level t => Sys2Proof.Machine.execWakeDin0 level t s
  | .wakeHostSelect t => Sys2Proof.Machine.execWakeHostSelect t s
  | .rtcAlarm t => Sys2Proof.Machine.execRtcAlarm t s
  | .boostReady vbst t => Sys2Proof.Machine.execBoostReady vbst t s
  | .loadSwitchThermalRestart sw t => Sys2Proof.Machine.execLoadSwitchThermalRestart sw t s
  | .expectedMarkerPosition lane t => Sys2Proof.Machine.execExpectedMarkerPosition lane t s
  | .busOffRecoveryComplete bus t => Sys2Proof.Machine.execBusOffRecoveryComplete bus t s
  | .transportTimeout source t => Sys2Proof.Machine.execTransportTimeout source t s
  | .tcServerStatus status structureLabel t => Sys2Proof.Machine.execTcServerStatus status structureLabel t s
  | .powerOnResetRearm t => Sys2Proof.Machine.execPowerOnResetRearm t s
  | .operatingTimeCommit t => Sys2Proof.Machine.execOperatingTimeCommit t s

end Sys2Proof.Machine
end

