-- ==== Sys2Proof/Safety.lean ====
section
/-! DEFINITION. What a safe run is, in the terms that statements use: the stores stay in canonical form, and the power die
drives nothing while it is not armed. -/

namespace Sys2Proof.Machine

/-- The addresses of a store rise strictly from `lo` on. -/
def storeWfFrom (lo : Nat) : Store → Bool
  | [] => true
  | (a, _) :: r => lo ≤ a && storeWfFrom (a + 1) r

/-- The canonical form of an object store: addresses rise strictly. -/
def storeWf (s : Store) : Bool := storeWfFrom 0 s

/-- The object stores and the buffers of a device are in canonical form. -/
def Dev.stores (d : Dev) : Bool :=
  storeWf d.obj && storeWf d.snap && storeWf d.taken && storeWf d.nvm.live && storeWf d.nvm.base && storeWf d.nvm.kept
    && cellsWf d.hp.staging && cellsWf d.nvm.imageA.bytes && cellsWf d.nvm.imageB.bytes

/-- R32: in the safe state no valve channel conducts, no bridge output is high, and no load switch conducts but under
limp-home control. -/
def Dev.outputsSafe (d : Dev) : Bool :=
  d.valve.channels.toList.all (fun c => c.mode = .off || c.mode = .retired)
    && d.pwm.pairs.toList.all (fun c => !c.gh && !c.gl)
    && d.valve.banks.toList.all (fun k => !k.powered)

/-- R292: every message of the data or management class that the latest command sent over a known path lies in the replay
buffer of its port and class. -/
def SentHeld (d : Dev) : Prop :=
  ∀ e ∈ d.out, ∀ cls kind dest p, d.route e = some (cls, kind, dest) → d.portTo dest = some p →
    ∃ o ∈ (d.getClass p cls).replay, o.emit = e ∧ o.kind = kind ∧ o.dest = dest

/-- Table 6.1: the fields of a target record lie in their widths. -/
def TargetFits (r : TargetRec) : Prop :=
  r.seq < 2 ^ 32 ∧ r.form < 2 ^ 8 ∧ r.cls < 2 ^ 8 ∧ r.dose < 2 ^ 16 ∧ -2 ^ 63 ≤ r.capture ∧ r.capture < 2 ^ 63 ∧
  -2 ^ 31 ≤ r.posA ∧ r.posA < 2 ^ 31 ∧ -2 ^ 31 ≤ r.posB ∧ r.posB < 2 ^ 31 ∧ r.halfLength < 2 ^ 16 ∧ r.halfWidth < 2 ^ 16 ∧
  -2 ^ 15 ≤ r.orientation ∧ r.orientation < 2 ^ 15 ∧ r.camSegment < 2 ^ 8 ∧ -2 ^ 31 ≤ r.camX ∧ r.camX < 2 ^ 31 ∧
  -2 ^ 31 ≤ r.camY ∧ r.camY < 2 ^ 31 ∧ -2 ^ 15 ≤ r.camYaw ∧ r.camYaw < 2 ^ 15

/-- The parts of a device that a statement's frame names. The clock and the free-value counter move freely (`time` is what
else the time chapter holds), what the command sends is stated where it matters, and the object store has a frame of its
own. -/
inductive Part where
  | pins
  | power
  | teth
  | pd
  | valve
  | lsw
  | pwm
  | axes
  | rowDrives
  | inp
  | pose
  | dec
  | eng
  | tiles
  | tgt
  | link
  | ch
  | swp
  | gnss
  | time
  | rtc
  | seq
  | swap
  | snap
  | taken
  | dic
  | jrn
  | rcd
  | hlt
  | lock
  | diag
  | can
  | hp
  | que
  | nvm
  deriving DecidableEq, Repr

/-- A part is the same in two devices. -/
def Part.same : Part → Dev → Dev → Prop
  | .pins, a, b => a.pins = b.pins
  | .power, a, b => a.power = b.power
  | .teth, a, b => a.teth = b.teth
  | .pd, a, b => a.pd = b.pd
  | .valve, a, b => a.valve = b.valve
  | .lsw, a, b => a.lsw = b.lsw
  | .pwm, a, b => a.pwm = b.pwm
  | .axes, a, b => a.axes = b.axes
  | .rowDrives, a, b => a.rowDrives = b.rowDrives
  | .inp, a, b => a.inp = b.inp
  | .pose, a, b => a.pose = b.pose
  | .dec, a, b => a.dec = b.dec
  | .eng, a, b => a.eng = b.eng
  | .tiles, a, b => a.tiles = b.tiles
  | .tgt, a, b => a.tgt = b.tgt
  | .link, a, b => a.link = b.link
  | .ch, a, b => a.ch = b.ch
  | .swp, a, b => a.swp = b.swp
  | .gnss, a, b => a.gnss = b.gnss
  | .time, a, b => { a.time with now := 0 } = { b.time with now := 0 }
  | .rtc, a, b => a.rtc = b.rtc
  | .seq, a, b => a.seq = b.seq
  | .swap, a, b => a.swap = b.swap
  | .snap, a, b => a.snap = b.snap
  | .taken, a, b => a.taken = b.taken
  | .dic, a, b => a.dic = b.dic
  | .jrn, a, b => a.jrn = b.jrn
  | .rcd, a, b => a.rcd = b.rcd
  | .hlt, a, b => a.hlt = b.hlt
  | .lock, a, b => a.lock = b.lock
  | .diag, a, b => a.diag = b.diag
  | .can, a, b => a.can = b.can
  | .hp, a, b => a.hp = b.hp
  | .que, a, b => a.que = b.que
  | .nvm, a, b => a.nvm = b.nvm

/-- Every part that is not listed is unchanged. -/
def Frame (ps : List Part) (a b : Dev) : Prop := ∀ p, p ∉ ps → p.same a b

/-- Membership in a list of addresses. -/
def among (as : List Nat) (x : Nat) : Bool := as.contains x

/-- Every object outside a set of addresses keeps its value. -/
def ObjFrame (p : Nat → Bool) (a b : Dev) : Prop := ∀ x, p x = false → storeGet b.obj x = storeGet a.obj x

/-- The parts that raising an event may change: the recorder's buffer, the trouble codes and the EMCY queue. -/
def eventParts : List Part := [.rcd, .diag, .can]

/-- The objects that raising an event may count in: records lost and folded, EMCYs and frames sent. -/
def eventObjs : Nat → Bool := among [0x2F0003, 0x2F0004, 0x2C3004, 0x2C0113, 0x2C0213]

/-- The logic die runs. -/
abbrev Runs (s : State) : Prop := s.dev.power.run = .running

/-- Device time once an event at `t` has been taken. -/
def State.nowAt (s : State) (t : Nat) : Nat := max s.dev.time.now t

/-- Chain time once an event at `t` has been taken. -/
def State.chainAt (s : State) (t : Nat) : Nat := (s.dev.at t).chain

/-- R22: a command of the power die's queue has its tick at `t`. -/
def State.due (s : State) (t : Nat) (p : PlAction → Bool) : Bool := (s.dev.at t).frameDue p

/-- R22: no command of the power die's queue has its tick at `t` or before. -/
def State.undue (s : State) (t : Nat) (p : PlAction → Bool) : Bool :=
  s.dev.pd.commands.all fun f => !(p f.action && f.instant ≤ (s.chainAt t : Int))

/-- R22: the actions of the power link that act on a valve channel. -/
def ofChannel (ch : Fin 32) : PlAction → Bool
  | .valveOn k => k = ch
  | .valveOff k => k = ch
  | .valveRate k _ => k = ch
  | .valveDuty k _ => k = ch
  | _ => false

/-- What a rule of the manual says of the command that `cmd` gives for operands `a`: from every state that meets `pre`, it
completes; the parts and objects that are not named keep their values, and `post` holds of the device after it. -/
structure Rule (α : Type) where
  cmd : α → Instr → Prop
  pre : α → State → Prop
  parts : List Part
  objs : α → Nat → Bool
  post : α → State → Dev → Prop

/-- The rule holds: the command answers a next state with the queue as it was, the frame, and what the rule says. -/
def Rule.Holds {α : Type} (r : Rule α) : Prop :=
  ∀ (a : α) (c : Instr) (s : State), r.cmd a c → r.pre a s →
    ∃ u : State, exec c s = .next u ∧ u.pending = s.pending ∧ Frame r.parts s.dev u.dev ∧
      ObjFrame (r.objs a) s.dev u.dev ∧ r.post a s u.dev

/-- Some command, operands and state meet the rule's hypotheses. -/
def Rule.Met {α : Type} (r : Rule α) : Prop := ∃ (a : α) (c : Instr) (s : State), r.cmd a c ∧ r.pre a s

end Sys2Proof.Machine
end

