-- ==== Sys2Proof/Certificates/Slice0/Obligations.lean ====
section
/-! DEFINITION. The statements for the provers: a rule for each command, and the obligations that gather them. -/

namespace Sys2Proof.Rules

open Sys2Proof.Machine

/-! ### Words that the rules share -/

/-- A channel, a bank, a load switch, a pair, an axis, an outlet, a lane, a port, a channel of the baseband, a dray. -/
abbrev chan (d : Dev) (k : Fin 32) : Channel := d.valve.channels[k]
abbrev bank (d : Dev) (k : Fin 4) : Bank := d.valve.banks[k]
abbrev swch (d : Dev) (k : Fin 8) : Switch := d.lsw.switches[k]
abbrev pair (d : Dev) (k : Fin 16) : Pair := d.pwm.pairs[k]
abbrev axis (d : Dev) (k : Fin 32) : Axis := d.axes[k]
abbrev outlet (d : Dev) (k : Fin 32) : Outlet := d.dec.outlets[k]
abbrev lane (d : Dev) (k : Fin 4) : Lane := d.link.lanes[k]
abbrev port (d : Dev) (k : Fin 2) : PortLink := d.link.ports[k]
abbrev tracker (d : Dev) (k : Fin 64) : GnssChannel := d.gnss.channels[k]
abbrev dray (d : Dev) (k : Fin 64) : Dray := d.eng.drays[k]

/-- Only this channel of the valve drive differs. -/
abbrev onlyChannel (ch : Fin 32) (a b : Dev) : Prop := ∀ k : Fin 32, k ≠ ch → chan b k = chan a k

/-- Only this bank differs. -/
abbrev onlyBank (x : Fin 4) (a b : Dev) : Prop := ∀ k : Fin 4, k ≠ x → bank b k = bank a k

/-- Only this load switch differs. -/
abbrev onlySwitch (n : Fin 8) (a b : Dev) : Prop := ∀ k : Fin 8, k ≠ n → swch b k = swch a k

/-- Only this pair of the bridge PWM differs. -/
abbrev onlyPair (n : Fin 16) (a b : Dev) : Prop := ∀ k : Fin 16, k ≠ n → pair b k = pair a k

/-- Only this axis differs. -/
abbrev onlyAxis (n : Fin 32) (a b : Dev) : Prop := ∀ k : Fin 32, k ≠ n → axis b k = axis a k

/-- Only this outlet of the decision unit differs. -/
abbrev onlyOutlet (n : Fin 32) (a b : Dev) : Prop := ∀ k : Fin 32, k ≠ n → outlet b k = outlet a k

/-- Only this lane differs. -/
abbrev onlyLane (n : Fin 4) (a b : Dev) : Prop := ∀ k : Fin 4, k ≠ n → lane b k = lane a k

/-- Only this port differs. -/
abbrev onlyPort (n : Fin 2) (a b : Dev) : Prop := ∀ k : Fin 2, k ≠ n → port b k = port a k

/-- Only this channel of the baseband differs. -/
abbrev onlyTracker (n : Fin 64) (a b : Dev) : Prop := ∀ k : Fin 64, k ≠ n → tracker b k = tracker a k

/-- Only this dray differs. -/
abbrev onlyDray (n : Fin 64) (a b : Dev) : Prop := ∀ k : Fin 64, k ≠ n → dray b k = dray a k

/-- R375, R382, R403, R411: a write on the device's own host port passes every check: the object may be written, the value is
in range, nothing is busy, and its sequence is fresh (in provisioning no tag is needed). -/
abbrev HostMay (s : State) (a : Nat) (v : Val) : Prop :=
  Runs s ∧ writeCheck s.dev .host a v = none ∧ s.dev.nat 0x310202 = 1 ∧ s.dev.lock.until_ = none ∧
  seqFresh s.dev (0x11, 0) (s.dev.nat 0x110003) = true ∧ s.dev.intakeBusy = false ∧ s.dev.hostPending < 16 ∧
  s.dev.proofBytes < 131072

/-- R375, R403, R408: the write has been taken: it is in the open half of the group buffer as an entry of kind `k` under
the host's sequence, which rises by one, and its acknowledgement waits for the group. -/
abbrev HostTook (s : State) (d : Dev) (k : Nat) (p : Payload) : Prop :=
  d.jrn.openHalf = s.dev.jrn.openHalf ++ [s.dev.entry k 0x11 (s.dev.nat 0x110003) 0 (s.dev.isLead && (k = 3 || k = 4)) p] ∧
  d.jrn.waiting = s.dev.jrn.waiting ++ [⟨.host, s.dev.nat 0x110003, 0, none, 0⟩] ∧
  d.nat 0x110003 = (s.dev.nat 0x110003 + 1) % 2 ^ 32 ∧
  (Emit.answer .host 1 0 (.num 0) ∈ d.out ∨ Emit.answer .host 129 0 (.num 0) ∈ d.out)

/-- A message of the data or management class leaves: it is sent, or waits at the link for room in a replay buffer (R292). -/
abbrev Leaves (d : Dev) (e : Emit) : Prop :=
  e ∈ d.out ∨ ∃ p : Fin 2, ((port d p).data.queue.any fun o => decide (o.emit = e)) = true ∨
    ((port d p).mgmt.queue.any fun o => decide (o.emit = e)) = true

/-! ### The tether and the power die's supplies -/

/-- R30: with both permissions fresh (core 1's by its last refresh, the sequencer's by its running phase) a token leaves with the rolling count, which rises by one; R480 step 5: it is armed from
the tenth token on, unless the device is held unarmed, decommissioned, out of service or a conflicting lead. -/
abbrev tetherToken : Rule Nat where
  cmd t c := c = .tetherToken t
  pre t s := Runs s ∧ s.dev.seq.running = true ∧ (s.dev.teth.coreAt.any fun a => decide (s.nowAt t < a + 1000000)) = true ∧
    (s.nowAt t : Int) ≤ s.dev.phaseEnd ∧ (s.dev.teth.seqAt.all fun a => decide (a ≤ s.nowAt t)) = true
  parts := [.teth]
  objs _ := among []
  post t s d :=
    d.out = [.token s.dev.teth.count (decide (10 ≤ s.dev.teth.sent + 1) && !(s.dev.nvm.heldUnarmed || s.dev.nvm.decommissioned
      || s.dev.hlt.outOfService || s.dev.ch.conflict))] ∧
    d.teth = { s.dev.teth with
      seqAt := some (s.nowAt t), sent := s.dev.teth.sent + 1, count := (s.dev.teth.count + 1) % 16 }

/-- R30: when core 1's permission is 1 ms old or void, no token is sent. -/
abbrev tetherTokenWithheld : Rule Nat where
  cmd t c := c = .tetherToken t
  pre t s := Runs s ∧ s.dev.seq.running = true ∧ (s.dev.teth.coreAt.all fun a => decide (a + 1000000 ≤ s.nowAt t)) = true
  parts := [.teth]
  objs _ := among []
  post _ s d := d.out = [] ∧ d.teth.count = s.dev.teth.count ∧ d.teth.sent = s.dev.teth.sent

/-- R30: a sequencer whose phase ended 1 ms ago with no next phase started has let its permission lapse: no token is sent. -/
abbrev tetherTokenSequencerStopped : Rule Nat where
  cmd t c := c = .tetherToken t
  pre t s := Runs s ∧ s.dev.seq.running = true ∧ (s.dev.teth.seqAt.all fun a => decide (a + 1000000 ≤ s.nowAt t)) = true ∧
    s.dev.phaseEnd + 1000000 ≤ s.nowAt t ∧ 1000000 ≤ s.nowAt t
  parts := [.teth]
  objs _ := among []
  post _ s d := d.out = [] ∧ d.teth.count = s.dev.teth.count ∧ d.teth.sent = s.dev.teth.sent

/-- R30: management core 1 refreshes its permission, which is then as old as the present instant. -/
abbrev permissionRefresh : Rule Nat where
  cmd t c := c = .permissionRefresh t
  pre _ s := Runs s ∧ s.dev.power.stoppedAt = none ∧ s.dev.teth.revoked = false ∧ s.dev.power.halted1 = false
  parts := [.teth]
  objs _ := among []
  post t s d := d.out = [] ∧ d.teth = { s.dev.teth with coreAt := some (s.nowAt t), lastRefresh := s.nowAt t }

/-- R27, R30: core 1's permission, 1 ms after its last refresh, is void. -/
abbrev permissionLapse : Rule Nat where
  cmd t c := c = .permissionLapse .core1 t
  pre t s := Runs s ∧ (s.dev.teth.coreAt.any fun a => decide (a + 1000000 ≤ s.nowAt t)) = true
  parts := [.teth]
  objs _ := among []
  post _ s d := d.out = [] ∧ d.teth = { s.dev.teth with coreAt := none }

/-- R27, R30: so does the batch sequencer's. -/
abbrev permissionLapseSequencer : Rule Nat where
  cmd t c := c = .permissionLapse .sequencer t
  pre t s := Runs s ∧ (s.dev.teth.seqAt.any fun a => decide (a + 1000000 ≤ s.nowAt t)) = true
  parts := [.teth]
  objs _ := among []
  post _ s d := d.out = [] ∧ d.teth = { s.dev.teth with seqAt := none }

/-- R31: a token with a good CRC whose count follows on is valid: its count becomes the reference count and the silence
timer runs from now; while the power die is armed nothing else changes. -/
abbrev tokenValid : Rule (Nat × Bool × Nat) where
  cmd a c := c = .tetherTokenReceived true a.1 a.2.1 a.2.2
  pre a s := s.dev.pd.powered = true ∧ s.dev.pd.latched = false ∧ s.dev.power.firstFrame = false ∧
    s.dev.pd.refCount = some ((a.1 + 15) % 16) ∧ s.dev.pd.armed = true
  parts := [.pd]
  objs _ := among []
  post a s d := d.out = [] ∧ d.pd = { s.dev.pd with
    clockLost := false, refCount := some (a.1 % 16), lastValid := s.nowAt a.2.2, trail := 1, validRun := s.dev.pd.validRun + 1 }

/-- R33: 8 valid tokens in a row and then one with the armed flag arm the power die (R473: once it has the live
settings); outputs come out of the safe state off: every load switch is off, no valve channel and no pair changes. -/
abbrev tokenArms : Rule (Nat × Nat) where
  cmd a c := c = .tetherTokenReceived true a.1 true a.2
  pre a s := s.dev.pd.powered = true ∧ s.dev.pd.latched = false ∧ s.dev.power.firstFrame = false ∧
    s.dev.pd.refCount = some ((a.1 + 15) % 16) ∧ s.dev.pd.armed = false ∧ 8 ≤ s.dev.pd.validRun ∧ s.dev.pd.settings = true
  parts := [.pd, .valve, .lsw]
  objs _ := among []
  post a s d := d.pd.armed = true ∧ d.pd.lastValid = s.nowAt a.2 ∧ d.pd.refCount = some (a.1 % 16) ∧
    d.valve.channels = s.dev.valve.channels ∧ (∀ n : Fin 8, (swch d n).on = false ∧ (swch d n).cmd = false) ∧
    d.lsw.limpHome = false ∧ d.pd.opened = none

/-- R31, R34: a token with a bad CRC is not valid: the silence timer runs on, the run of valid tokens ends, and it is the
last token received. -/
abbrev tokenBadCrc : Rule (Nat × Bool × Nat) where
  cmd a c := c = .tetherTokenReceived false a.1 a.2.1 a.2.2
  pre _ s := s.dev.pd.powered = true
  parts := [.pd]
  objs _ := among []
  post _ s d := d.out = [] ∧ d.pd = { s.dev.pd with trail := 2, validRun := 0 }

/-- R34: a good token whose count does not follow on is not valid; its count becomes the reference count, and the silence
timer runs on. -/
abbrev tokenResynchronises : Rule (Nat × Bool × Nat) where
  cmd a c := c = .tetherTokenReceived true a.1 a.2.1 a.2.2
  pre a s := s.dev.pd.powered = true ∧ s.dev.pd.latched = false ∧ s.dev.power.firstFrame = false ∧
    s.dev.pd.refCount ≠ some ((a.1 + 15) % 16)
  parts := [.pd]
  objs _ := among []
  post a s d := d.out = [] ∧
    d.pd = { s.dev.pd with clockLost := false, refCount := some (a.1 % 16), trail := 3, validRun := 0 }

/-- R31, R32, R34: 2 ms without a valid token and the power die puts every output into its safe state, counts the entry
and keeps its cause: with LHEN low, channels, pairs, commons and switches are off and the boost is stopped. -/
abbrev tetherSilence : Rule Nat where
  cmd t c := c = .tetherSilence t
  pre t s := s.dev.pd.powered = true ∧ s.dev.pd.armed = true ∧ s.dev.pd.lastValid + 2000000 ≤ s.nowAt t ∧ s.dev.lsw.enable = false
  parts := [.pd, .valve, .pwm, .lsw]
  objs _ := among []
  post _ s d := d.outputsSafe = true ∧ (∀ n : Fin 8, (swch d n).on = false) ∧ d.pd.armed = false ∧
    d.pd.entries = (s.dev.pd.entries + 1) % 2 ^ 32 ∧ d.pd.cause = s.dev.pd.trail ∧ d.pd.unread = true ∧ d.pd.commands = [] ∧
    (d.valve.boost.state = 0 ∨ d.valve.boost.state = 5) ∧ d.inp = s.dev.inp

/-- R32, R233, Table 1.7: with LHEN high and a valid mapping, a mapped switch with nothing that keeps it off follows its
input, and an unmapped one is off. -/
abbrev tetherSilenceLimpHome : Rule Nat where
  cmd t c := c = .tetherSilence t
  pre t s := Runs s ∧ s.dev.pd.powered = true ∧ s.dev.pd.armed = true ∧ s.dev.pd.lastValid + 2000000 ≤ s.nowAt t ∧
    s.dev.lsw.enable = true ∧ s.dev.lsw.store ≠ 2 ∧ s.dev.lsw.limpHome = true ∧ s.dev.pd.reversed = false ∧
    s.dev.pd.pgndOpen = false ∧ s.dev.pd.latched = false
  parts := [.pd, .valve, .pwm, .lsw]
  objs _ := among []
  post _ s d := d.outputsSafe = true ∧ d.pd.armed = false ∧ ∀ n : Fin 8,
    ((swch s.dev n).latched = false → (swch s.dev n).backOff = none → (swch s.dev n).hot = false →
      (swch d n).on = (s.dev.mapped n && s.dev.limpInput n)) ∧
    (s.dev.mapped n = false → (swch d n).on = false)

/-- R27: at the third check in a row in which core 1 finds core 0 unresponsive, core 1 stops refreshing its permission and
starts the supervision reset. -/
abbrev supervisionCore0 : Rule Nat where
  cmd t c := c = .supervisionCheck false true t
  pre _ s := Runs s ∧ s.dev.power.halted0 = false ∧ s.dev.power.halted1 = false ∧ s.dev.teth.failed0 = 2 ∧
    s.dev.power.stoppedAt = none
  parts := [.teth, .power, .hlt]
  objs _ := among []
  post t s d := d.power = { s.dev.power with stoppedAt := some (s.nowAt t) } ∧
    d.teth = { s.dev.teth with failed0 := 3, failed1 := 0, resetPending := true }

/-- R27: at the third check in a row in which core 0 finds core 1 unresponsive, core 0 revokes core 1's permission and
starts the supervision reset. -/
abbrev supervisionCore1 : Rule Nat where
  cmd t c := c = .supervisionCheck true false t
  pre _ s := Runs s ∧ s.dev.power.halted0 = false ∧ s.dev.power.halted1 = false ∧ s.dev.teth.failed1 = 2 ∧
    s.dev.teth.revoked = false
  parts := [.teth, .hlt]
  objs _ := among []
  post t s d := d.teth = { s.dev.teth with
    failed0 := 0, failed1 := 3, coreAt := none, revoked := true, lastRefresh := s.nowAt t, resetPending := true }

/-- R22: the power die keeps a good command frame whose tick has not come until that tick. -/
abbrev powerLinkCommand : Rule (PlFrame × Nat) where
  cmd a c := c = .powerLinkCommand true a.1 a.2
  pre a s := s.dev.pd.powered = true ∧ s.dev.pd.reversed = false ∧ s.dev.pd.clockLost = false ∧ s.dev.power.firstFrame = false ∧
    (s.chainAt a.2 : Int) ≤ a.1.instant
  parts := [.pd]
  objs _ := among []
  post a s d := d.out = [] ∧ d.pd = { s.dev.pd with commands := s.dev.pd.commands ++ [a.1] }

/-- R23: a command frame with a bad CRC is discarded and negatively acknowledged. -/
abbrev powerLinkCommandBad : Rule (PlFrame × Nat) where
  cmd a c := c = .powerLinkCommand false a.1 a.2
  pre _ s := s.dev.pd.powered = true ∧ s.dev.pd.reversed = false ∧ s.dev.pd.clockLost = false
  parts := []
  objs _ := among []
  post a _ d := d.out = [.negativeAck a.1.id]

/-- R33, R471, R473: VBAT applied to a power die without supply: it boots unarmed, with every output in the safe state
(LHEN low). -/
abbrev vbatApplied : Rule (Nat × Nat × Nat) where
  cmd a c := c = .vbatApplied a.1 a.2.1 a.2.2
  pre a s := 4500 ≤ max a.1 a.2.1 ∧ s.dev.pd.powered = false ∧ s.dev.lsw.enable = false
  parts := [.pd, .valve, .pwm, .lsw]
  objs _ := among []
  post a _ d := d.pd.powered = true ∧ d.pd.v1 = a.1 ∧ d.pd.v2 = a.2.1 ∧ d.pd.armed = false ∧ d.pd.settings = false ∧
    d.pd.refCount = none ∧ d.pd.validRun = 0 ∧ d.pd.commands = [] ∧ d.outputsSafe = true ∧
    ∀ n : Fin 8, (swch d n).on = false

/-- R473: no frame from a power die without supply for 1 ms: the logic die finds it absent. -/
abbrev powerDieAbsent : Rule Nat where
  cmd t c := c = .powerDieAbsent t
  pre _ s := Runs s ∧ s.dev.pd.powered = false
  parts := [.pd]
  objs _ := among []
  post _ s d := d.out = [] ∧ d.pd = { s.dev.pd with absent := true }

/-- R217, R471: below 4.5 V on both VBAT pins the power die resets into the safe state. -/
abbrev powerDieReset : Rule (Nat × Nat × Nat) where
  cmd a c := c = .powerDieReset a.1 a.2.1 a.2.2
  pre a _ := a.1 < 4500 ∧ a.2.1 < 4500
  parts := [.pd, .valve, .pwm, .lsw]
  objs _ := among []
  post a _ d := d.pd.powered = false ∧ d.pd.armed = false ∧ d.pd.v1 = a.1 ∧ d.pd.v2 = a.2.1 ∧ d.outputsSafe = true ∧
    ∀ n : Fin 8, (swch d n).on = false

/-- R217: below 6.0 V on one pin the banks fed from it report undervoltage (bits 4 and 5 of Table 8.15) and go on
driving: no channel, common, pair or switch changes. -/
abbrev vbatUndervoltage : Rule (Nat × Nat × Nat) where
  cmd a c := c = .vbatUndervoltage a.1 a.2.1 a.2.2
  pre a _ := 4500 ≤ max a.1 a.2.1
  parts := [.pd]
  objs _ := among []
  post a s d := d.out = [] ∧ d.pd = { s.dev.pd with v1 := a.1, v2 := a.2.1 } ∧
    d.driveStatus.testBit 4 = decide (a.1 < 6000) ∧ d.driveStatus.testBit 5 = decide (a.2.1 < 6000)

/-- R229: under a reverse VBAT every load switch's reverse protection turns its channel on, and no valve channel conducts
(R194). -/
abbrev vbatReverse : Rule Nat where
  cmd t c := c = .vbatReverse t
  pre _ _ := True
  parts := [.pd, .valve, .pwm, .lsw]
  objs _ := among []
  post _ _ d := d.pd.reversed = true ∧ d.pd.powered = false ∧ d.outputsSafe = true ∧ d.lsw.limpHome = false ∧
    ∀ n : Fin 8, (swch d n).on = true

/-- R230: in a load dump every switch keeps its state; off-state tests are suspended while VBAT is above 40 V. -/
abbrev loadDump : Rule (Nat × Nat × Nat) where
  cmd a c := c = .loadDump a.1 a.2.1 a.2.2
  pre a s := s.dev.pd.powered = true ∧ 40000 < max a.1 a.2.1
  parts := [.pd]
  objs _ := among []
  post a s d := d.out = [] ∧ d.pd = { s.dev.pd with v1 := a.1, v2 := a.2.1, loadDump := true } ∧
    ∀ n : Fin 8, d.switchTestable n = false

/-- R228: PGND opens with VBAT present: every switch turns off, and limp-home is inoperative. -/
abbrev pgndOpen : Rule Nat where
  cmd t c := c = .pgndOpen t
  pre _ s := s.dev.pd.powered = true
  parts := [.pd, .lsw]
  objs _ := among []
  post _ s d := d.out = [] ∧ d.pd = { s.dev.pd with pgndOpen := true } ∧ d.limpApplies = false ∧ d.lsw.limpHome = false ∧
    ∀ n : Fin 8, (swch d n).on = false

/-! ### Batches, chain time and setting swaps -/

/-- R38, R490: before its first armed batch the lead seeds chain time from a GNSS time solution, and enters Steering. -/
abbrev chainTimeSeed : Rule (Nat × Nat) where
  cmd a c := c = .chainTimeSeed (some (a.1 : Int)) a.2
  pre _ s := Runs s ∧ s.dev.isLead = true ∧ s.dev.power.armedOnce = false ∧ s.dev.seq.running = false ∧ s.dev.ch.tableHeld = false
  parts := [.time]
  objs _ := among []
  post a s d := d.out = [] ∧ d.chain = a.1 ∧ d.time.now = s.nowAt a.2 ∧ d.time.seeded = true ∧ d.time.source = 1 ∧
    d.time.state = 2 ∧ d.time.slewing = false

/-- R38, R490: without a GNSS time solution it seeds from a valid RTC with its trim applied (R57), and enters Seeded. -/
abbrev chainTimeSeedRtc : Rule Nat where
  cmd t c := c = .chainTimeSeed none t
  pre _ s := Runs s ∧ s.dev.isLead = true ∧ s.dev.power.armedOnce = false ∧ s.dev.seq.running = false ∧ s.dev.ch.tableHeld = false ∧
    s.dev.gnss.waits = false ∧ s.dev.rtc.valid = true
  parts := [.time]
  objs _ := among []
  post t s d := d.out = [] ∧
    d.time.offset = s.dev.rtc.offset + ((s.nowAt t : Int) - s.dev.rtc.since) * s.dev.rtc.trim / 1000000000 ∧ d.time.now = s.nowAt t ∧ d.time.seeded = true ∧ d.time.source = 2 ∧
    d.time.state = 1

/-- R354: the seed wait of a hot start runs for 0x2B00:0D. -/
abbrev seedWaitEarly : Rule Nat where
  cmd t c := c = .seedWaitExpiry t
  pre t s := Runs s ∧ (s.dev.gnss.waits = false ∨ s.nowAt t < s.dev.gnss.startedAt + 1000 * s.dev.nat 0x2B000D)
  parts := []
  objs _ := among []
  post _ _ d := d.out = []

/-- R38, R354: when the seed wait runs out with no GNSS time solution and no valid RTC, chain time is seeded with zero. -/
abbrev seedWaitExpiry : Rule Nat where
  cmd t c := c = .seedWaitExpiry t
  pre t s := Runs s ∧ s.dev.gnss.waits = true ∧ s.dev.gnss.startedAt + 1000 * s.dev.nat 0x2B000D ≤ s.nowAt t ∧ s.dev.isLead = true ∧ s.dev.time.seeded = false ∧ s.dev.seq.running = false ∧ s.dev.ch.tableHeld = false ∧
    s.dev.rtc.valid = false
  parts := [.time, .gnss]
  objs _ := among []
  post _ s d := d.out = [] ∧ d.gnss = { s.dev.gnss with waits := false } ∧ d.chain = 0 ∧ d.time.seeded = true ∧ d.time.source = 3 ∧
    d.time.state = 1

/-- R39: a locked wheeler that loses its recovered clock enters holdover, its error estimate starting from 0. -/
abbrev holdoverEntry : Rule Nat where
  cmd t c := c = .holdoverEntry t
  pre _ s := Runs s ∧ s.dev.isLead = false ∧ s.dev.time.state = 3
  parts := [.time]
  objs _ := among [0x180203]
  post t s d := d.out = [] ∧ d.int 0x180203 = 0 ∧
    d.time = { s.dev.time with
      now := s.nowAt t, state := 4, holdoverAt := s.nowAt t, relocked := false, slewLeft := 0, slewing := false }

/-- R39: when the error estimate passes the holdover limit the wheeler is in time lost, and the time-lost action waits for
its next boundary. How far past it is, is the ageing model's, a free value (log entry 7). -/
abbrev holdoverLimit : Rule Nat where
  cmd t c := c = .holdoverLimit t
  pre _ s := Runs s ∧ s.dev.time.state = 4 ∧ s.dev.time.relocked = false
  parts := [.time, .rcd, .diag, .can]
  objs _ x := eventObjs x || among [0x180203] x
  post t s d := d.time = { s.dev.time with now := s.nowAt t, state := 5, lostPending := true } ∧
    1000 * s.dev.int 0x180301 < d.int 0x180203

/-- R316: in holdover, from an error estimate of 20 ns on, the wheeler fills no report slots. -/
abbrev reportSlotStop : Rule Nat where
  cmd t c := c = .reportSlotStop t
  pre _ s := Runs s ∧ s.dev.time.state = 4 ∧ s.dev.time.relocked = false
  parts := [.time]
  objs _ := among [0x180203]
  post t s d := d.out = [] ∧ d.time = { s.dev.time with now := s.nowAt t, slotStopped := true } ∧ 20 ≤ d.int 0x180203

/-- R40: re-lock with an error of at most 1 µs: it is slewed out, a time-lost action ends at the next boundary, where the slew
begins, and the wheeler reports holdover still; its batch number comes from the lead again (R43). -/
abbrev reLock : Rule (Int × Nat) where
  cmd a c := c = .reLock a.1 a.2
  pre a s := Runs s ∧ s.dev.time.state = 4 ∧ s.dev.time.relocked = false ∧ a.1.natAbs ≤ 1000 ∧ a.1 ≠ 0
  parts := [.time, .seq, .link]
  objs _ := among [0x180203]
  post a s d := d.out = [] ∧ d.time = { s.dev.time with
      now := s.nowAt a.2, relocked := true, slewLeft := a.1, slewing := true, lostEnds := true } ∧
    d.seq = { s.dev.seq with synced := false } ∧ d.int 0x180203 = a.1.natAbs

/-- R40: re-lock with an error of more than 1 µs: the step waits for the next boundary; chain time has not moved yet. -/
abbrev reLockStep : Rule (Int × Nat) where
  cmd a c := c = .reLock a.1 a.2
  pre a s := Runs s ∧ s.dev.time.state = 4 ∧ s.dev.time.relocked = false ∧ 1000 < a.1.natAbs
  parts := [.time, .seq, .link, .rcd, .diag, .can]
  objs _ x := eventObjs x || among [0x180203] x
  post a s d := d.time = { s.dev.time with now := s.nowAt a.2, relocked := true, stepPending := some a.1 } ∧
    d.seq = { s.dev.seq with synced := false }

/-- R42 to R44: at its next boundary, which is the next chain-time multiple of the batch period, the batch number rises by one
and Phase A begins (no step of chain time waits, and no slew is left). -/
abbrev batchBoundary : Rule (Vector AinSample 16) where
  cmd a c := c = .batchBoundary a
  pre _ s := Runs s ∧ s.dev.ch.enumerated = true ∧ s.dev.time.state ≠ 0 ∧ s.dev.seq.running = true ∧
    s.dev.time.stepPending = none ∧ s.dev.time.slewLeft = 0 ∧ s.dev.seq.t0 < s.dev.chain
  parts := [.power, .teth, .pd, .valve, .lsw, .pwm, .axes, .rowDrives, .inp, .pose, .dec, .eng, .tiles, .tgt, .link, .ch, .swp,
    .gnss, .time, .seq, .swap, .snap, .taken, .dic, .jrn, .rcd, .hlt, .diag, .can, .hp, .que, .nvm]
  objs _ _ := true
  post _ s d := d.seq.number = (s.dev.seq.number + 1) % 2 ^ 32 ∧ d.seq.phase = 0 ∧ d.seq.running = true ∧
    d.seq.t0 % s.dev.periodNs = 0 ∧ s.dev.chain ≤ d.seq.t0 ∧ d.seq.t0 < s.dev.chain + s.dev.periodNs ∧
    d.time.offset = s.dev.time.offset ∧ d.chain = d.seq.t0

/-- R43: at the first boundary after enumeration the batch number of a lead is 0. -/
abbrev firstBoundary : Rule (Vector AinSample 16) where
  cmd a c := c = .batchBoundary a
  pre _ s := Runs s ∧ s.dev.ch.enumerated = true ∧ s.dev.time.state ≠ 0 ∧ s.dev.seq.running = false ∧ s.dev.seq.synced = false ∧
    s.dev.time.stepPending = none
  parts := [.power, .teth, .pd, .valve, .lsw, .pwm, .axes, .rowDrives, .inp, .pose, .dec, .eng, .tiles, .tgt, .link, .ch, .swp,
    .gnss, .time, .seq, .swap, .snap, .taken, .dic, .jrn, .rcd, .hlt, .diag, .can, .hp, .que, .nvm]
  objs _ _ := true
  post _ _ d := d.seq.number = 0 ∧ d.seq.running = true ∧ d.seq.phase = 0

/-- R51: a device that holds go for the batch and no cancel swaps at its boundary: the proof value of the consecutive-late
limit is the live one, the proof set starts over from the writes after the set, and the swap is idle again. -/
abbrev swapAtBoundary : Rule (Vector AinSample 16 × Nat) where
  cmd a c := c = .batchBoundary a.1
  pre a s := Runs s ∧ s.dev.ch.enumerated = true ∧ s.dev.time.state ≠ 0 ∧ s.dev.seq.running = true ∧ s.dev.isLead = false ∧
    s.dev.swap.go = some ((s.dev.seq.number + 1) % 2 ^ 32) ∧ s.dev.swap.cancelled = none ∧
    s.dev.swap.adopted = [] ∧ s.dev.setWrites = [(0x180402, .num a.2)] ∧ s.dev.seq.giveUp = none ∧ s.dev.ch.takeAt = none
  parts := [.power, .teth, .pd, .valve, .lsw, .pwm, .axes, .rowDrives, .inp, .pose, .dec, .eng, .tiles, .tgt, .link, .ch, .swp,
    .gnss, .time, .rtc, .seq, .swap, .snap, .taken, .dic, .jrn, .rcd, .hlt, .diag, .can, .hp, .que, .nvm]
  objs _ _ := true
  post a s d := d.int 0x180402 = a.2 ∧ d.swap.writes = s.dev.swap.writes.drop 1 ∧ d.swap.go = none ∧ d.swap.announced = none ∧
    d.int 0x181006 = (s.dev.seq.number + 1) % 2 ^ 32 ∧ d.seq.slotsDue = true

/-- R45: Phase B starts 5 % into the batch. -/
abbrev phaseBStart : Rule Unit where
  cmd _ c := c = .phaseBStart
  pre _ s := Runs s ∧ s.dev.seq.running = true ∧ s.dev.seq.phase = 0 ∧ s.dev.pose.received = true ∧
    s.dev.chain ≤ s.dev.seq.t0 + s.dev.periodNs * 5 / 100
  parts := [.seq, .eng, .pose, .tiles, .teth]
  objs _ := among [0x240006, 0x240206]
  post _ s d := d.seq.phase = 1 ∧ d.seq.t0 = s.dev.seq.t0 ∧ d.seq.number = s.dev.seq.number ∧
    d.chain = s.dev.seq.t0 + s.dev.periodNs * 5 / 100

/-- R46: Phase B of a batch without fresh boom state uses the last one extrapolated and marks it stale. -/
abbrev phaseBStale : Rule Unit where
  cmd _ c := c = .phaseBStart
  pre _ s := Runs s ∧ s.dev.seq.running = true ∧ s.dev.seq.phase = 0 ∧ s.dev.pose.received = false ∧ s.dev.isLead = false
  parts := [.seq, .eng, .pose, .tiles, .teth, .rcd, .diag, .can]
  objs _ x := eventObjs x || among [0x180404, 0x240006, 0x240206] x
  post _ s d := d.seq.phase = 1 ∧ d.pose.stale = true ∧ d.int 0x180404 = (s.dev.int 0x180404 + 1) % 2 ^ 32

/-- R45, R47: the Phase B deadline falls 60 % into the batch; results that have not come by then are late. -/
abbrev phaseBDeadline : Rule Unit where
  cmd _ c := c = .phaseBDeadline
  pre _ s := Runs s ∧ s.dev.seq.running = true ∧ s.dev.seq.phase = 1 ∧ s.dev.chain ≤ s.dev.seq.t0 + s.dev.periodNs * 60 / 100
  parts := [.seq, .eng, .dec, .tgt, .jrn, .pose, .teth, .pd, .axes, .que, .rcd, .diag, .can, .link, .dic, .hlt]
  objs _ _ := true
  post _ s d := d.seq.phase = 2 ∧ d.eng.open_ = false ∧ d.chain = s.dev.seq.t0 + s.dev.periodNs * 60 / 100

/-- R45: Phase D starts 70 % into the batch. -/
abbrev phaseDStart : Rule Unit where
  cmd _ c := c = .phaseDStart
  pre _ s := Runs s ∧ s.dev.seq.running = true ∧ s.dev.seq.phase = 2 ∧ s.dev.chain ≤ s.dev.seq.t0 + s.dev.periodNs * 70 / 100
  parts := [.seq, .eng, .dec, .tgt, .jrn, .tiles, .teth, .pd, .que, .rcd, .diag, .can, .link, .pose, .swap, .nvm, .dic, .hlt]
  objs _ _ := true
  post _ s d := d.seq.phase = 3 ∧ d.seq.number = s.dev.seq.number ∧ d.chain = s.dev.seq.t0 + s.dev.periodNs * 70 / 100 ∧
    (s.dev.jrn.openHalf ≠ [] → d.seq.journalDue = true)

/-- R24: once the batch's Phase D work is complete the status snapshot is published: what it shows from then on are the
objects as they now are. -/
abbrev statusSnapshot : Rule Unit where
  cmd _ c := c = .statusSnapshot
  pre _ s := Runs s ∧ s.dev.workDone = true
  parts := [.power, .teth, .valve, .lsw, .pwm, .pd, .dec, .eng, .pose, .hlt, .snap, .dic, .rcd, .diag, .can, .jrn, .ch, .seq, .link,
    .nvm, .tiles, .tgt, .gnss]
  objs _ _ := true
  post _ s d := storeGet d.snap 0x180201 = .num (s.dev.timeStatus s.dev.pose.stale) ∧ storeGet d.snap 0x310002 = .num s.dev.nvm.liveSlot

/-- R49: while the batch's Phase D work is not complete its previous snapshot stays for one more batch. -/
abbrev statusSnapshotWaits : Rule Unit where
  cmd _ c := c = .statusSnapshot
  pre _ s := Runs s ∧ s.dev.workDone = false
  parts := []
  objs _ := among []
  post _ s d := d.out = [] ∧ d.snap = s.dev.snap

/-- R490: at a GNSS solution a lead within 100 ns of GNSS time is Locked, and its offset is reported. -/
abbrev gnssSolution : Rule (GnssFix × Nat) where
  cmd a c := c = .gnssSolution a.1 a.2
  pre a s := Runs s ∧ s.dev.gnss.running = true ∧ s.dev.isLead = true ∧ s.dev.time.seeded = true ∧ s.dev.time.state = 2 ∧
    2 ≤ a.1.kind ∧ a.1.clockOffset.natAbs ≤ 100
  parts := [.time, .gnss, .pose, .rcd, .diag, .can]
  objs _ _ := true
  post a s d := d.time.state = 3 ∧ d.time.offset = s.dev.time.offset ∧ d.int 0x180202 = a.1.clockOffset ∧ d.time.slewLeft = a.1.clockOffset

/-- R349: the RTK engine over one epoch: the third epoch in a row with the ratio at the threshold fixes it, the third below it
returns it to float, and so do fewer than 5 double differences; corrections that are too old leave a standalone solution, and
with them a float or fixed one. -/
abbrev gnssSolutionRtk : Rule (GnssFix × Nat × Nat) where
  cmd a c := c = .gnssSolution a.1 a.2.2
  pre a s := Runs s ∧ s.dev.gnss.running = true ∧ s.dev.isLead = false ∧ a.1.kind = 5 ∧ s.dev.gnss.correctedAt = some a.2.1 ∧
    s.dev.gnss.rtk.lostAt = none ∧ s.dev.gnss.rtk.good = 2 ∧ s.dev.gnss.rtk.bad = 2
  parts := [.gnss, .pose]
  objs _ _ := true
  post a s d :=
    let stale := decide (a.2.1 + 1000 * s.dev.nat 0x2B0302 < s.nowAt a.2.2)
    let good := decide (s.dev.int 0x2B0303 ≤ a.1.ratio)
    let fixed := if s.dev.gnss.rtk.fixed then good && decide (5 ≤ a.1.pairs) else good
    d.gnss.stale = stale ∧ (stale = true → d.int 0x2B0207 = 2 ∧ d.gnss.rtk.fixed = s.dev.gnss.rtk.fixed) ∧
      (stale = false → d.int 0x2B0207 = (if fixed then 5 else 4) ∧ d.gnss.rtk.fixed = fixed)

/-- R38, R490: more than 10 ms off it is Unsteered: no slewing until the next start-up. -/
abbrev gnssSolutionUnsteered : Rule (GnssFix × Nat) where
  cmd a c := c = .gnssSolution a.1 a.2
  pre a s := Runs s ∧ s.dev.gnss.running = true ∧ s.dev.isLead = true ∧ s.dev.time.seeded = true ∧ s.dev.time.state = 3 ∧
    2 ≤ a.1.kind ∧ 10000000 < a.1.clockOffset.natAbs
  parts := [.time, .gnss, .pose, .rcd, .diag, .can]
  objs _ _ := true
  post _ s d := d.time.state = 6 ∧ d.time.offset = s.dev.time.offset ∧ d.time.slewing = false ∧ d.time.slewLeft = 0

/-- R52: on the lead, with no set announced, the host names a swap batch 3 to 65,536 batches ahead. -/
abbrev namedSwapWrite : Rule Nat where
  cmd v c := c = .namedSwapWrite .host v
  pre v s := HostMay s 0x181001 (.num v) ∧ s.dev.swap.set = none ∧ v ≠ 0xFFFFFFFF ∧ s.dev.seq.number < 2 ^ 32 ∧
    3 ≤ (v + 2 ^ 32 - s.dev.seq.number) % 2 ^ 32 ∧ (v + 2 ^ 32 - s.dev.seq.number) % 2 ^ 32 ≤ 65536
  parts := [.swap, .jrn]
  objs _ := among [0x110003, 0x181001]
  post v s d := d.swap = { s.dev.swap with named := some v } ∧ d.int 0x181001 = v ∧ HostTook s d 2 (.write 0x181001 (.num v))

/-- R52: a write that names a nearer batch has the value-range abort: no batch is named, nothing is journalled. -/
abbrev namedSwapTooNear : Rule Nat where
  cmd v c := c = .namedSwapWrite .host v
  pre v s := HostMay s 0x181001 (.num v) ∧ v ≠ 0xFFFFFFFF ∧ s.dev.seq.number < 2 ^ 32 ∧
    (v + 2 ^ 32 - s.dev.seq.number) % 2 ^ 32 < 3
  parts := []
  objs _ := among [0x110003, 0x103004, 0x103005, 0x103006]
  post _ s d := d.swap = s.dev.swap ∧ d.int 0x103005 = 0x06090030 ∧ d.int 0x103004 = (s.dev.int 0x103004 + 1) % 2 ^ 32

/-- R52, R53: the host's cancel on the lead, before the end of Phase C of S − 1: cancel is sent, the device holds no
announcement, and the writes are scheduled again for this batch plus 3, under a new set number. -/
abbrev swapCancelWrite : Rule SwapSet where
  cmd _ c := c = .swapCancelWrite .host 1
  pre w s := HostMay s 0x181101 (.num 1) ∧ s.dev.isLead = true ∧ s.dev.swap.set = some w ∧ s.dev.seq.phase < 3 ∧
    s.dev.swap.announced.any (fun x => x.batch = w.batch) = true ∧ s.dev.nextPeriod = s.dev.nat 0x180002
  parts := [.swap, .jrn]
  objs _ := among [0x110003, 0x181002, 0x181004, 0x181007]
  post w s d := Emit.swapCancel w.batch ∈ d.out ∧ d.swap.go = none ∧ d.swap.cancelled = some w.batch ∧ d.swap.announced = none ∧
    d.int 0x181004 = 5 ∧ d.int 0x181002 = 0xFFFFFFFF ∧ d.swap.writes = s.dev.swap.writes ∧
    (d.swap.set.any fun x => x.batch = (s.dev.seq.number + 3) % 2 ^ 32 && x.number = s.dev.swap.nextNumber && !x.goSent
      && (List.finRange 32).all fun p => x.counts[p] = s.dev.swap.counts[p] + w.counts[p]) = true

/-- R50, R52: the host's write to an RWB object (here the consecutive-late limit) of a running wheeler: only the proof set
holds the new value, the live value stays, and a swap request for one write goes to the lead. -/
abbrev proofWrite : Rule (Fin 1000) where
  cmd a c := c = .proofWrite .host 0x180402 (.num (a.val + 1))
  pre a s := HostMay s 0x180402 (.num (a.val + 1)) ∧ s.dev.isLead = false ∧ s.dev.seq.running = true ∧ s.dev.swap.announced = none
  parts := [.swap, .jrn]
  objs _ := among [0x110003, 0x181005]
  post a s d := HostTook s d 1 (.write 0x180402 (.num (a.val + 1))) ∧ d.proofInt 0x180402 = a.val + 1 ∧ d.int 0x180402 = s.dev.int 0x180402 ∧
    d.swap.writes = s.dev.swap.writes ++ [(0x180402, .num (a.val + 1))] ∧ Emit.swapRequest 1 ∈ d.out

/-- R52: a write after the device has reported ready belongs to the next set. -/
abbrev proofWriteLater : Rule (Fin 1000) where
  cmd a c := c = .proofWrite .host 0x180402 (.num (a.val + 1))
  pre a s := HostMay s 0x180402 (.num (a.val + 1)) ∧ s.dev.isLead = false ∧ s.dev.swap.ready = true ∧
    (s.dev.swap.announced.any fun x => decide (x.count ≤ s.dev.swap.writes.length)) = true
  parts := [.swap, .jrn]
  objs _ := among [0x110003, 0x181005]
  post a s d := d.setWrites = s.dev.setWrites ∧ d.proofInt 0x180402 = s.dev.proofInt 0x180402 ∧
    d.int 0x180402 = s.dev.int 0x180402 ∧ d.swap.writes = s.dev.swap.writes ++ [(0x180402, .num (a.val + 1))] ∧
    d.swap.announced = s.dev.swap.announced

/-- R96: the host's reset of an outlet's learning counts as a proof write. -/
abbrev resetLearningWrite : Rule (Fin 32) where
  cmd a c := c = .resetLearningWrite .host a 1
  pre a s := HostMay s (outletAdr a 0x25) (.num 1) ∧ s.dev.isLead = false
  parts := [.swap, .jrn]
  objs _ := among [0x110003, 0x181005]
  post a s d := d.swap.writes = s.dev.swap.writes ++ [(outletAdr a 0x25, .num 1)] ∧
    HostTook s d 1 (.write (outletAdr a 0x25) (.num 1))

/-- R52: the lead adds the number of a wheeler's request to that position's count, and treats it as a write accepted in this
batch. -/
abbrev swapRequest : Rule (Fin 32 × Nat) where
  cmd a c := c = .swapRequest a.1 a.2
  pre a s := Runs s ∧ s.dev.isLead = true ∧ s.dev.swap.first = none ∧ 0 < a.2
  parts := [.swap]
  objs _ := among []
  post a s d := d.out = [] ∧ d.swap.first = some s.dev.seq.number ∧
    (∀ p : Fin 32, d.swap.counts[p] = if p = a.1 then s.dev.swap.counts[p] + a.2 else s.dev.swap.counts[p]) ∧
    d.swap.set = s.dev.swap.set

/-- R53: a wheeler holds the announcement: swap batch, set number, its own count, the period of the set and the boom model after it. -/
abbrev swapAnnouncement : Rule (Nat × Nat × SwapNotice) where
  cmd a c := c = .swapAnnouncement a.1 a.2.1 a.2.2
  pre a s := Runs s ∧ s.dev.isLead = false ∧ s.dev.swap.announced = none ∧ s.dev.swap.cancelled = none ∧ (s.dev.seq.number + 2) % 2 ^ 32 ≠ a.1
  parts := [.swap]
  objs _ := among [0x181002, 0x181003, 0x181004]
  post a s d := d.out = [] ∧ d.swap = { s.dev.swap with
      announced := some ⟨a.1, a.2.1, a.2.2.counts[s.dev.pos32], a.2.2.period, a.2.2.model⟩, ready := false, go := none } ∧
    d.int 0x181002 = a.1 ∧ d.int 0x181003 = a.2.1 ∧ d.int 0x181004 = 1

/-- R52, R53: in batch S − 2 a wheeler whose own count has not come up to the announced one reports not ready. -/
abbrev swapNotReady : Rule (Nat × Nat × SwapNotice) where
  cmd a c := c = .swapAnnouncement a.1 a.2.1 a.2.2
  pre a s := Runs s ∧ s.dev.isLead = false ∧ (s.dev.seq.number + 2) % 2 ^ 32 = a.1 ∧ s.dev.swap.announced = none ∧
    s.dev.swap.cancelled = none ∧ s.dev.swap.writes.length < a.2.2.counts[s.dev.pos32]
  parts := [.swap, .rcd, .diag, .can]
  objs _ x := eventObjs x || among [0x181002, 0x181003, 0x181004] x
  post _ _ d := Emit.readyReport false d.ownSpan ∈ d.out ∧ d.swap.ready = false

/-- R53: the lead takes a position's report for its set. -/
abbrev readyReport : Rule (Fin 32 × Bool × SwapSet) where
  cmd a c := c = .readyReport a.1 a.2.1 none
  pre a s := Runs s ∧ s.dev.isLead = true ∧ s.dev.swap.set = some a.2.2 ∧ (a.2.1 = true ∨ a.2.2.goSent = false)
  parts := [.swap, .pose]
  objs _ := among []
  post a s d := d.out = [] ∧
    d.swap = { s.dev.swap with set := some { a.2.2 with reports := a.2.2.reports.set a.1 (some a.2.1) } } ∧
    d.pose = { s.dev.pose with spansNext := s.dev.pose.spansNext.set a.1 none }

/-- R53: a device whose readiness a fault withdraws after go, before the end of Phase C of S − 1, makes the lead cancel. -/
abbrev readinessWithdrawn : Rule (Fin 32 × SwapSet) where
  cmd a c := c = .readyReport a.1 false none
  pre a s := Runs s ∧ s.dev.isLead = true ∧ s.dev.swap.set = some a.2 ∧ a.2.goSent = true ∧
    a.2.batch = (s.dev.seq.number + 1) % 2 ^ 32 ∧ s.dev.seq.phase < 3 ∧
    s.dev.swap.announced.any (fun x => x.batch = a.2.batch) = true
  parts := [.swap, .pose]
  objs _ := among [0x181002, 0x181004, 0x181007]
  post a s d := Emit.swapCancel a.2.batch ∈ d.out ∧ d.swap.go = none ∧ d.swap.cancelled = some a.2.batch ∧
    (d.swap.set.any fun x => x.number = s.dev.swap.nextNumber && !x.goSent) = true

/-- R53: a device that holds the announcement of S takes the go for S. -/
abbrev swapGo : Rule Nat where
  cmd a c := c = .swapGo a
  pre a s := Runs s ∧ s.dev.swap.announced.any (fun x => x.batch = a) = true
  parts := [.swap]
  objs _ := among [0x181004]
  post a s d := d.out = [] ∧ d.swap = { s.dev.swap with go := some a } ∧ d.int 0x181004 = 3

/-- R53: a postponement moves the announcement, ends the device's readiness, and is counted. -/
abbrev swapPostponement : Rule (Announcement × Nat) where
  cmd a c := c = .swapPostponement a.1.batch a.2
  pre a s := Runs s ∧ s.dev.swap.announced = some a.1
  parts := [.swap]
  objs _ := among [0x181002, 0x181004, 0x181007]
  post a s d := d.out = [] ∧ d.swap = { s.dev.swap with announced := some { a.1 with batch := a.2 }, ready := false, go := none } ∧
    d.int 0x181002 = a.2 ∧ d.int 0x181004 = 4 ∧ d.int 0x181007 = (s.dev.int 0x181007 + 1) % 2 ^ 32

/-- R52, R53: a cancel for S: the device holds no go, and every write stays pending for the set that is formed again. -/
abbrev swapCancel : Rule Announcement where
  cmd a c := c = .swapCancel a.batch
  pre a s := Runs s ∧ s.dev.swap.announced = some a
  parts := [.swap]
  objs _ := among [0x181002, 0x181004, 0x181007]
  post a s d := d.out = [] ∧ d.swap.announced = none ∧ d.swap.go = none ∧ d.swap.cancelled = some a.batch ∧ d.swap.ready = false ∧
    d.swap.writes = s.dev.swap.writes ∧ d.setWrites = s.dev.swap.writes ∧ d.int 0x181004 = 5

/-- R56: at the whole chain-time second PPS, where enabled, drives its leading edge, and the pulse has the set width. -/
abbrev ppsPulse : Rule Unit where
  cmd _ c := c = .ppsPulse
  pre _ s := Runs s ∧ s.dev.flag 0x182001 = true
  parts := [.time]
  objs _ := among []
  post _ s d := d.out = [.pps (!s.dev.flag 0x182003)] ∧ d.time.offset = s.dev.time.offset ∧
    (d.time.ppsPulse.any fun p => decide (p.1 % 1000000000 = 0 ∧ s.dev.chain ≤ p.1 ∧ p.1 < s.dev.chain + 1000000000 ∧
      p.2 = p.1 + 1000 * s.dev.nat 0x182002)) = true

/-- R57: a locked lead disciplines its RTC to chain time, which makes it valid. -/
abbrev rtcDiscipline : Rule Unit where
  cmd _ c := c = .rtcDiscipline
  pre _ s := Runs s ∧ s.dev.isLead = true ∧ s.dev.time.state = 3
  parts := [.rtc]
  objs _ := among []
  post _ s d := d.out = [] ∧ d.rtc = { s.dev.rtc with
    offset := s.dev.time.offset, since := s.dev.time.now, valid := true, disciplined := some s.dev.time.now }

/-- R57: losing the RTC supply clears the RTC-valid flag, in every mode of the device. -/
abbrev rtcSupplyLoss : Rule Nat where
  cmd t c := c = .rtcSupplyLoss t
  pre _ _ := True
  parts := [.rtc]
  objs _ := among []
  post _ _ d := d.out = [] ∧ d.rtc.valid = false ∧ d.rtc.disciplined = none

/-! ### Pose and sensor inputs -/

/-- R72, R73: the lead holds a good moving-baseline fix of a wheeler for its next Phase A. -/
abbrev movingBaselineFix : Rule (BaselineFix × Nat) where
  cmd a c := c = .movingBaselineFix a.1 a.2
  pre a s := Runs s ∧ s.dev.isLead = true ∧ a.1.implausible = false ∧ a.1.state ≠ 0
  parts := [.pose]
  objs _ := among []
  post a s d := d.out = [] ∧ d.pose.baselines = s.dev.pose.baselines.set a.1.position (some a.1) ∧
    a.1.position ∈ d.pose.newBases ∧ d.pose.boom = s.dev.pose.boom

/-- R76: a wheeler takes the lead's boom state of the present batch: it is not stale, and stale batches in a row end. -/
abbrev boomState : Rule (BoomState × Nat) where
  cmd a c := c = .boomState a.1 a.2
  pre a s := Runs s ∧ s.dev.isLead = false ∧ a.1.t0 = s.dev.seq.t0
  parts := [.pose, .seq]
  objs _ := among []
  post a s d := d.out = [] ∧ d.pose.boom = a.1 ∧ d.pose.before = s.dev.pose.boom ∧ d.pose.received = true ∧ d.pose.stale = false ∧
    d.pose.lastGood = a.1 ∧ d.seq = { s.dev.seq with staleRun := 0 }

/-- R43: a wheeler takes its batch number from the lead's message at enumeration, and with every message the map of the
present devices (no device has gone from it). -/
abbrev batchSync : Rule (Nat × Int × Nat × Nat) where
  cmd a c := c = .batchSync a.1 a.2.1 a.2.2.1 a.2.2.2
  pre a s := Runs s ∧ s.dev.isLead = false ∧ s.dev.ch.enumerated = true ∧ s.dev.seq.synced = false ∧ s.dev.seq.map = a.2.2.1
  parts := [.seq]
  objs _ := among []
  post a s d := d.out = [] ∧ d.seq = { s.dev.seq with number := a.1 % 2 ^ 32, synced := true }

/-- R77: a source that has once been valid is lost: it leaves the fusion, and its loss is an event. -/
abbrev poseSourceLoss : Rule Nat where
  cmd t c := c = .poseSourceLoss .radar t
  pre _ s := Runs s ∧ s.dev.sourceEnabled .radar = true ∧ (s.dev.source .radar).seen = true ∧ (s.dev.source .radar).valid = true
  parts := [.pose, .rcd, .diag, .can]
  objs _ := eventObjs
  post _ s d := d.pose = { s.dev.pose with sources := s.dev.pose.sources.set 3 { s.dev.source .radar with valid := false } } ∧
    d.fused .radar = false

/-- R77: a source that awaits its first measurement counts neither as lost nor as recovered, and raises no event. -/
abbrev poseSourceAwaits : Rule (PoseSource × Nat) where
  cmd a c := c = .poseSourceLoss a.1 a.2
  pre a s := Runs s ∧ (s.dev.source a.1).seen = false
  parts := []
  objs _ := among []
  post _ _ d := d.out = []

/-- Table 3.4: once the lead GNSS is lost the dead-reckoning limit runs from now. -/
abbrev gnssSourceLoss : Rule Nat where
  cmd t c := c = .poseSourceLoss .gnss t
  pre _ s := Runs s ∧ s.dev.sourceEnabled .gnss = true ∧ (s.dev.source .gnss).seen = true ∧ (s.dev.source .gnss).valid = true
  parts := [.pose, .rcd, .diag, .can]
  objs _ := eventObjs
  post t s d := d.fused .gnss = false ∧ d.pose.gnssLostAt = some (s.chainAt t) ∧ d.pose.boom = s.dev.pose.boom

/-- Table 3.2: with no IMU update for the IMU timeout the IMU is lost. -/
abbrev imuTimeout : Rule Nat where
  cmd t c := c = .imuTimeout t
  pre t s := Runs s ∧ s.dev.sourceEnabled .imu = true ∧ (s.dev.source .imu).seen = true ∧ (s.dev.source .imu).valid = true ∧
    (s.dev.pose.imuAt.any fun a => decide (a + 1000 * s.dev.nat 0x200303 ≤ s.chainAt t)) = true
  parts := [.pose, .rcd, .diag, .can]
  objs _ := eventObjs
  post _ s d := d.pose = { s.dev.pose with sources := s.dev.pose.sources.set 2 { s.dev.source .imu with valid := false } } ∧
    d.fused .imu = false

/-- R69: a CAN-P height that has not been written for 200 ms fails: the segment falls back to its fixed height. -/
abbrev heightInputTimeout : Rule (Fin 16 × Nat) where
  cmd a c := c = .heightInputTimeout a.1 a.2
  pre a s := Runs s ∧ s.dev.nat (adr (0x2020 + a.1) 9) = 2 ∧ s.dev.pose.segments[a.1].heightFailed = false ∧
    (s.dev.pose.segments[a.1].heightAt.all fun x => decide (x + 200000000 ≤ s.nowAt a.2)) = true
  parts := [.pose, .rcd, .diag, .can]
  objs _ := eventObjs
  post a s d := d.pose.segments = s.dev.pose.segments.set a.1
      { s.dev.pose.segments[a.1] with heightFailed := true, heightGood := 0 } ∧
    d.segmentHeight a.1 = s.dev.int (adr (0x2020 + a.1) 0x0A)

/-- R74, R77: a speed source that reads more than 20,000 mm/s, or has disagreed for 2 s running, leaves the fusion, with an event,
and a wheel speed sensor counts as lost. -/
abbrev speedSourceImplausible : Rule (Int × Nat) where
  cmd a c := c = .speedSourceImplausible .wheel a.1 a.2
  pre a s := Runs s ∧ s.dev.sourceEnabled .wheel = true ∧ (s.dev.source .wheel).seen = true ∧ (s.dev.source .wheel).implausible = false ∧
    (20000 < a.1 ∨ (disagrees s.dev.pose.boom.speed a.1 = true ∧ (s.dev.source .wheel).disagreeAt.any (fun t => t + 2000000000 ≤ s.chainAt a.2) = true))
  parts := [.pose, .rcd, .diag, .can]
  objs _ := eventObjs
  post _ s d := d.pose = { s.dev.pose with
      sources := s.dev.pose.sources.set 4 { s.dev.source .wheel with implausible := true } } ∧ d.fused .wheel = false ∧
    (d.diag.dtcs.any fun x => x.code = 0x0204 && x.unit = 4 && x.active) = true

/-- R74: it rejoins the fusion after it has agreed for 10 s running. -/
abbrev speedSourceRejoin : Rule Nat where
  cmd t c := c = .speedSourceRejoin .wheel t
  pre t s := Runs s ∧ s.dev.sourceEnabled .wheel = true ∧ (s.dev.source .wheel).valid = true ∧
    (s.dev.source .wheel).implausible = true ∧ (s.dev.source .wheel).agreeAt.any (fun a => a + 10000000000 ≤ s.chainAt t) = true
  parts := [.pose, .rcd, .diag, .can]
  objs _ := eventObjs
  post _ s d := d.pose = { s.dev.pose with
      sources := s.dev.pose.sources.set 4 { s.dev.source .wheel with implausible := false } } ∧ d.fused .wheel = true

/-- R75, R76: when the dead-reckoning limit has run since the lead GNSS was lost, the pose quality is 0. -/
abbrev deadReckoningLimit : Rule Nat where
  cmd t c := c = .deadReckoningLimit t
  pre t s := Runs s ∧ s.dev.isLead = true ∧
    (s.dev.pose.gnssLostAt.any fun a => decide (a + 1000 * s.dev.nat 0x200004 ≤ s.chainAt t)) = true
  parts := [.pose]
  objs _ := among []
  post _ s d := d.out = [] ∧
    d.pose = { s.dev.pose with deadEnded := true, boom := { s.dev.pose.boom with quality := 0 } }

/-- R84: a rising edge of a FREQ input without quadrature, outside the glitch filter's time, counts up, and its chain time, at 4 ns,
is its stamp. -/
abbrev freqEdge : Rule (Fin 8 × Bool × Nat) where
  cmd a c := c = .freqEdge a.1 a.2.1 a.2.2
  pre a s := Runs s ∧ s.dev.quadrature a.1 = false ∧
    s.dev.inp.freq[a.1].pin.any (fun l => s.chainAt a.2.2 / 4 * 4 < l + 1000 * s.dev.nat (freqAdr a.1 4)) = false
  parts := [.inp]
  objs _ := among []
  post a s d := d.out = [] ∧ (∀ k : Fin 8, k ≠ a.1 → d.inp.freq[k] = s.dev.inp.freq[k]) ∧
    d.inp.freq[a.1].count = (s.dev.inp.freq[a.1].count + 1) % 2 ^ 32 ∧ d.inp.freq[a.1].last = some (s.chainAt a.2.2 / 4 * 4) ∧
    d.inp.freq[a.1].prev = s.dev.inp.freq[a.1].last ∧ d.inp.freq[a.1].edges = s.dev.inp.freq[a.1].edges + 1 ∧ d.inp.din = s.dev.inp.din

/-- R84: an edge backwards of a quadrature pair counts down on the even input. -/
abbrev freqEdgeBack : Rule (Fin 8 × Nat) where
  cmd a c := c = .freqEdge a.1 false a.2
  pre a s := Runs s ∧ a.1.val % 2 = 0 ∧ s.dev.flag (freqAdr a.1 7) = true ∧ 0 < s.dev.inp.freq[a.1].count ∧
    s.dev.inp.freq[a.1].count < 2 ^ 32
  parts := [.inp]
  objs _ := among []
  post a s d := d.out = [] ∧ d.inp.freq[a.1].count + 1 = s.dev.inp.freq[a.1].count ∧ d.inp.freq[a.1].forward = false

/-- R85: with no edge for the zero-speed timeout the frequency is 0. -/
abbrev freqZeroTimeout : Rule (Fin 8 × Nat) where
  cmd a c := c = .freqZeroTimeout a.1 a.2
  pre a s := Runs s ∧
    (s.dev.inp.freq[a.1].last.any fun l => decide (l + 1000 * s.dev.nat (freqAdr a.1 6) ≤ s.chainAt a.2)) = true
  parts := [.inp]
  objs a := among [freqAdr a.1 9, freqAdr a.1 0x0A]
  post a s d := d.out = [] ∧ (∀ k : Fin 8, k ≠ a.1 → d.inp.freq[k] = s.dev.inp.freq[k]) ∧ d.inp.freq[a.1].freq = 0 ∧
    d.inp.freq[a.1].count = s.dev.inp.freq[a.1].count ∧ d.int (freqAdr a.1 9) = 0 ∧ d.int (freqAdr a.1 0x0A) = 0

/-- R83, R87: a digital input changes its debounced state; what the last boundary latched stays. -/
abbrev dinDebouncedChange : Rule (Fin 8 × Bool × Nat) where
  cmd a c := c = .dinDebouncedChange a.1 a.2.1 a.2.2
  pre _ s := Runs s
  parts := [.inp]
  objs _ := among []
  post a s d := d.out = [] ∧ d.inp = { s.dev.inp with din := s.dev.inp.din.set a.1 a.2.1 }

/-- R88: a supply in current limit for more than 10 ms switches off; its retry comes after 100 ms; its channels fail. -/
abbrev sensorSupplyLimitTrip : Rule (Fin 2 × Nat) where
  cmd a c := c = .sensorSupplyLimitTrip a.1 a.2
  pre a s := Runs s ∧ s.dev.inp.supplies[a.1].on = true ∧ s.dev.inp.supplies[a.1].retries = 0
  parts := [.inp, .hlt, .rcd, .diag, .can]
  objs _ := eventObjs
  post a s d := d.inp = { s.dev.inp with supplies := s.dev.inp.supplies.set a.1 { s.dev.inp.supplies[a.1] with
      on := false, limit := true, latched := false, retryAt := some (s.nowAt a.2 + 100000000) } } ∧ d.supplyFaulty a.1.val = true

/-- R88: a retry that succeeds switches the supply on again. -/
abbrev sensorSupplyRetry : Rule (Fin 2 × Nat × Nat) where
  cmd a c := c = .sensorSupplyRetry a.1 true a.2.1
  pre a s := Runs s ∧ s.dev.inp.supplies[a.1].retryAt = some a.2.2 ∧ a.2.2 ≤ s.nowAt a.2.1 ∧ s.dev.inp.supplies[a.1].short = false ∧
    s.dev.inp.supplies[a.1].latched = false
  parts := [.inp, .rcd, .diag, .can]
  objs _ := eventObjs
  post a s d := d.inp.supplies[a.1].on = true ∧ d.inp.supplies[a.1].retries = 0 ∧ d.inp.supplies[a.1].retryAt = none ∧
    d.supplyFaulty a.1.val = false ∧ (∀ k : Fin 2, k ≠ a.1 → d.inp.supplies[k] = s.dev.inp.supplies[k])

/-- R88: after the third failed retry it stays off. -/
abbrev sensorSupplyStaysOff : Rule (Fin 2 × Nat × Nat) where
  cmd a c := c = .sensorSupplyRetry a.1 false a.2.1
  pre a s := Runs s ∧ s.dev.inp.supplies[a.1].retryAt = some a.2.2 ∧ a.2.2 ≤ s.nowAt a.2.1 ∧ s.dev.inp.supplies[a.1].retries = 2
  parts := [.inp, .hlt]
  objs _ := among []
  post a s d := d.out = [] ∧ d.inp = { s.dev.inp with supplies := s.dev.inp.supplies.set a.1 { s.dev.inp.supplies[a.1] with
    retries := 3, latched := true, retryAt := none } }

/-- R88: an output above 5.5 V reports short-to-supply, with its event. -/
abbrev sensorSupplyOvervoltage : Rule (Fin 2 × Nat) where
  cmd a c := c = .sensorSupplyOvervoltage a.1 a.2
  pre a s := Runs s ∧ s.dev.inp.supplies[a.1].short = false
  parts := [.inp, .hlt, .rcd, .diag, .can]
  objs _ := eventObjs
  post a s d := d.inp = { s.dev.inp with supplies := s.dev.inp.supplies.set a.1 { s.dev.inp.supplies[a.1] with short := true } } ∧
    d.supplyFaulty a.1.val = true

/-- R88: an accepted write of 1 to its enable restarts a supply at once, even one that is latched off. -/
abbrev sensorSupplyEnableWrite : Rule (Fin 2) where
  cmd a c := c = .sensorSupplyEnableWrite .host a 1
  pre a s := HostMay s (adr 0x2058 (1 + a)) (.num 1)
  parts := [.inp, .jrn, .rcd, .diag, .can]
  objs a x := eventObjs x || among [0x110003, adr 0x2058 (1 + a)] x
  post a s d := d.inp = { s.dev.inp with supplies := s.dev.inp.supplies.set a { on := true } } ∧
    HostTook s d 2 (.write (adr 0x2058 (1 + a)) (.num 1))

/-! ### Decisions and edges -/

/-- R122, R22: a switch-on edge of a nozzle that no later commit changes leaves the queue and goes to the power die, at least
4 µs before its instant; the outlet is on from it. -/
abbrev edgeIssueOn : Rule (Fin 32 × Nat × Edge × List Edge) where
  cmd a c := c = .edgeIssue a.1 a.2.1
  pre a s := Runs s ∧ s.dev.commanding = true ∧ s.dev.nat (outletAdr a.1 1) = 1 ∧ (outlet s.dev a.1).edges = a.2.2.1 :: a.2.2.2 ∧
    a.2.2.1.kind = 1 ∧ s.dev.settled a.2.2.1 = true ∧ s.chainAt a.2.1 + 4000 ≤ a.2.2.1.instant
  parts := [.dec, .teth]
  objs _ := among []
  post a s d := onlyOutlet a.1 s.dev d ∧ (outlet d a.1).edges = a.2.2.2 ∧ (outlet d a.1).on = true ∧
    (outlet d a.1).lastOn = some a.2.2.1.instant ∧ (outlet d a.1).duty = (outlet s.dev a.1).duty ∧
    d.out = [.powerLink ⟨s.dev.teth.nextId, a.2.2.1.instant, .valveOn a.1⟩] ∧
    d.teth = { s.dev.teth with nextId := s.dev.teth.nextId + 1
                               issued := s.dev.teth.issued ++ [⟨s.dev.teth.nextId, a.2.2.1.instant, .valveOn a.1⟩] }

/-- R122: likewise a switch-off edge, and the deposit that it ends. -/
abbrev edgeIssueOff : Rule (Fin 32 × Nat × Edge × List Edge) where
  cmd a c := c = .edgeIssue a.1 a.2.1
  pre a s := Runs s ∧ s.dev.commanding = true ∧ s.dev.nat (outletAdr a.1 1) = 1 ∧ (outlet s.dev a.1).edges = a.2.2.1 :: a.2.2.2 ∧
    a.2.2.1.kind = 2 ∧ s.dev.settled a.2.2.1 = true ∧ s.chainAt a.2.1 + 4000 ≤ a.2.2.1.instant
  parts := [.dec, .teth]
  objs _ := among []
  post a s d := onlyOutlet a.1 s.dev d ∧ (outlet d a.1).edges = a.2.2.2 ∧ (outlet d a.1).on = false ∧
    (outlet d a.1).lastOff = some a.2.2.1.instant ∧ d.out = [.powerLink ⟨s.dev.teth.nextId, a.2.2.1.instant, .valveOff a.1⟩] ∧
    ((outlet d a.1).deposits.all fun q => q.2.isSome) = true

/-- R122, R268: an edge of a row meter goes to its axis, at its instant. -/
abbrev edgeIssueMeter : Rule (Fin 32 × Nat × Edge × List Edge) where
  cmd a c := c = .edgeIssue a.1 a.2.1
  pre a s := Runs s ∧ s.dev.commanding = true ∧ s.dev.nat (outletAdr a.1 1) = 3 ∧ (outlet s.dev a.1).edges = a.2.2.1 :: a.2.2.2 ∧
    a.2.2.1.kind = 3 ∧ s.dev.settled a.2.2.1 = true
  parts := [.dec, .axes]
  objs _ := among []
  post a s d := d.out = [] ∧ onlyOutlet a.1 s.dev d ∧ onlyAxis a.1 s.dev d ∧ (outlet d a.1).edges = a.2.2.2 ∧
    (outlet d a.1).rate = 10 * a.2.2.1.value ∧ (outlet d a.1).on = (outlet s.dev a.1).on ∧
    (axis d a.1).edges = (axis s.dev a.1).edges ++ [(a.2.2.1.instant, .rate (10 * a.2.2.1.value))]

/-- R33, R120: after the safe state no pending edge is issued, nor before the first batch after re-arming. -/
abbrev edgeNotIssued : Rule (Fin 32 × Nat × Edge × List Edge) where
  cmd a c := c = .edgeIssue a.1 a.2.1
  pre a s := Runs s ∧ s.dev.commanding = false ∧ (outlet s.dev a.1).edges = a.2.2.1 :: a.2.2.2 ∧
    s.dev.settled a.2.2.1 = true
  parts := [.dec]
  objs _ := among []
  post a s d := d.out = [] ∧ onlyOutlet a.1 s.dev d ∧ outlet d a.1 = { outlet s.dev a.1 with edges := a.2.2.2 }

/-- R204: a missed switch-on: the scheduler takes the outlet as off, the edge is counted as missed. -/
abbrev missedSwitchOn : Rule (Fin 32 × Nat × Nat) where
  cmd a c := c = .missedSwitchOn a.1 ⟨true, (a.2.1 : Int)⟩ a.2.2
  pre _ s := Runs s ∧ s.dev.pd.absent = false
  parts := [.dec, .hlt, .rcd, .diag, .can]
  objs _ x := eventObjs x || among [0x2E0404] x
  post a s d := onlyOutlet a.1 s.dev d ∧ (outlet d a.1).on = false ∧ (outlet d a.1).missed = true ∧
    (outlet d a.1).missedAt = some a.2.1 ∧ (outlet d a.1).edges = (outlet s.dev a.1).edges ∧
    d.int 0x2E0404 = (s.dev.int 0x2E0404 + 1) % 2 ^ 32

/-- R23: a frame that is not acknowledged is sent again while its instant is at least 2 µs away, and counted. -/
abbrev negativeAckResends : Rule (PlFrame × Nat) where
  cmd a c := c = .negativeAcknowledgement ⟨true, a.1.id⟩ a.2
  pre a s := Runs s ∧ s.dev.teth.issued = [a.1] ∧ (s.chainAt a.2 : Int) + 2000 ≤ a.1.instant
  parts := []
  objs _ := among [0x2E0403]
  post a s d := d.out = [.powerLink a.1] ∧ d.int 0x2E0403 = (s.dev.int 0x2E0403 + 1) % 2 ^ 32

/-- R23, R204: nearer than that the command is dropped, and its edge is missed. -/
abbrev negativeAckDrops : Rule (PlFrame × Fin 32 × Nat) where
  cmd a c := c = .negativeAcknowledgement ⟨true, a.1.id⟩ a.2.2
  pre a s := Runs s ∧ s.dev.teth.issued = [a.1] ∧ a.1.instant < (s.chainAt a.2.2 : Int) + 2000 ∧ a.1.action = .valveOn a.2.1 ∧
    s.dev.pd.absent = false
  parts := [.teth, .dec, .hlt, .rcd, .diag, .can]
  objs _ x := eventObjs x || among [0x2E0403, 0x2E0404] x
  post a s d := d.teth = { s.dev.teth with issued := [] } ∧ onlyOutlet a.2.1 s.dev d ∧ (outlet d a.2.1).on = false ∧
    d.int 0x2E0404 = (s.dev.int 0x2E0404 + 1) % 2 ^ 32

/-- R93, R209: a kink report of a switch edge: the measurement, in µs from the actual start of the peak, is shown and waits
for LEARN. -/
abbrev kinkReport : Rule (KinkReport × Nat × Nat) where
  cmd a c := c = .kinkReport ⟨true, a.1⟩ a.2.2
  pre a s := Runs s ∧ a.1.kind = .arrival ∧ a.1.kink = some (a.1.start + 1000 * (a.2.1 : Int)) ∧ a.1.slotPulse = false ∧
    a.1.notOffered = false ∧ a.1.reStrike = false ∧ a.1.fallback = false ∧ a.1.noArrival = false
  parts := [.dec]
  objs a := among [outletAdr a.1.channel 0x3B]
  post a s d := d.out = [] ∧ onlyOutlet a.1.channel s.dev d ∧ d.int (outletAdr a.1.channel 0x3B) = a.2.1 ∧
    (outlet d a.1.channel).measures = (outlet s.dev a.1.channel).measures ++ [(true, some a.2.1)] ∧
    (outlet d a.1.channel).onDelay = (outlet s.dev a.1.channel).onDelay

/-- R93: a kink of the repeated pulses of nozzle PWM is shown, and not offered to LEARN. -/
abbrev kinkReportSlot : Rule (KinkReport × Nat × Nat) where
  cmd a c := c = .kinkReport ⟨true, a.1⟩ a.2.2
  pre a s := Runs s ∧ a.1.kind = .release ∧ a.1.kink = some (a.1.start + 1000 * (a.2.1 : Int)) ∧ a.1.slotPulse = true
  parts := []
  objs a := among [outletAdr a.1.channel 0x3C]
  post a _ d := d.out = [] ∧ d.int (outletAdr a.1.channel 0x3C) = a.2.1

/-- R196, R208: a kink of a pulse with the fallback flag is shown, and not offered to LEARN. -/
abbrev kinkReportFallback : Rule (KinkReport × Nat × Nat) where
  cmd a c := c = .kinkReport ⟨true, a.1⟩ a.2.2
  pre a s := Runs s ∧ a.1.kind = .arrival ∧ a.1.kink = some (a.1.start + 1000 * (a.2.1 : Int)) ∧ a.1.fallback = true
  parts := []
  objs a := among [outletAdr a.1.channel 0x3B]
  post a _ d := d.out = [] ∧ d.int (outletAdr a.1.channel 0x3B) = a.2.1

/-- R96: the learned parts of an outlet that has learned are committed to MRAM. -/
abbrev learnedDelayCommit : Rule (Fin 32 × Nat) where
  cmd a c := c = .learnedDelayCommit a.2
  pre a s := Runs s ∧ (outlet s.dev a.1).learned = true ∧ s.dev.nvm.kept = []
  parts := [.nvm]
  objs _ := among [0x310004]
  post a s d := d.out = [] ∧
    storeFind d.nvm.kept (outletAdr a.1 0x22) = some (.num (outlet s.dev a.1).onDelay.value) ∧
    storeFind d.nvm.kept (outletAdr a.1 0x23) = some (.num (outlet s.dev a.1).offDelay.value) ∧
    d.nvm = { s.dev.nvm with kept := d.nvm.kept }

/-- R109: the host writes manual section states on the lead; no outlet changes yet. -/
abbrev manualSectionWrite : Rule (Fin 8 × Fin 65536) where
  cmd a c := c = .manualSectionWrite .host a.1 a.2.val
  pre a s := HostMay s (adr 0x2101 (1 + a.1)) (.num a.2.val)
  parts := [.jrn]
  objs a := among [0x110003, adr 0x2101 (1 + a.1)]
  post a s d := d.int (adr 0x2101 (1 + a.1)) = a.2.val ∧ HostTook s d 2 (.write (adr 0x2101 (1 + a.1)) (.num a.2.val))

/-- R127: manual section states are the lead's: on a wheeler the write has the access error. -/
abbrev manualSectionWheeler : Rule (Fin 8 × Fin 65536) where
  cmd a c := c = .manualSectionWrite .host a.1 a.2.val
  pre _ s := Runs s ∧ s.dev.isLead = false
  parts := []
  objs _ := among [0x110003, 0x103004, 0x103005, 0x103006]
  post a s d := d.int 0x103005 = 0x06010000 ∧ d.int 0x103006 = adr 0x2101 (1 + a.1) ∧
    d.int 0x103004 = (s.dev.int 0x103004 + 1) % 2 ^ 32

/-- R117: once a lost feedback input has been good for 1 s its loop may close again; its trim stays held until then. -/
abbrev loopFeedbackRecovered : Rule (Fin 4 × Nat) where
  cmd a c := c = .loopFeedbackRecovered a.1 a.2
  pre a s := Runs s ∧ s.dev.dec.loops[a.1].feedbackLost = true ∧ s.dev.feedbackBad a.1 = false
  parts := [.dec]
  objs _ := among []
  post a s d := d.out = [] ∧ d.dec = { s.dev.dec with
    loops := s.dev.dec.loops.set a.1 { s.dev.dec.loops[a.1] with recovered := true } }

/-! ### Tiles and paint -/

/-- R141: the home of a tile adds the device that asks to the tile's cachers, and sends it its copy. -/
abbrev tileRequest : Rule (Fin 32 × Nat × Slot × Nat) where
  cmd a c := c = .tileRequest a.1 a.2.1 a.2.2.2
  pre a s := Runs s ∧ s.dev.home a.2.1 = s.dev.position ∧ s.dev.tiles.slots = [a.2.2.1] ∧ a.2.2.1.coord = a.2.1 ∧
    a.2.2.1.role = 1 ∧ a.2.2.1.state = 2 ∧ (a.1.val ∈ a.2.2.1.cachers) = False
  parts := [.tiles, .link]
  objs _ := among []
  post a s d := d.tiles = { s.dev.tiles with slots := [{ a.2.2.1 with cachers := a.2.2.1.cachers ++ [a.1.val] }] } ∧
    Leaves d (.tileTransfer a.1 { s.dev.transferOf a.2.2.1 with cachers := [] })

/-- R145: a home asked for a tile that it does not hold opens a slot for it in Fetching, and asks the lead for the tile. -/
abbrev tileRequestMissing : Rule (Fin 32 × Nat × Nat) where
  cmd a c := c = .tileRequest a.1 a.2.1 a.2.2
  pre a s := Runs s ∧ s.dev.home a.2.1 = s.dev.position ∧ s.dev.tiles.slots = [] ∧ s.dev.tiles.withdrawn = [] ∧ s.dev.isLead = false ∧
    0 < s.dev.nat 0x220008
  parts := [.tiles, .link]
  objs _ := among []
  post a s d := (d.tiles.slots.map fun x => (x.coord, x.state, x.role, x.cachers)) = [(a.2.1, 1, 1, [a.1.val])] ∧
    Leaves d (.tileRequest s.dev.leadPos a.2.1)

/-- R143: a valid transfer fills the Fetching slot of a cached tile: its record and its marks, from the next Phase B on. -/
abbrev tileTransfer : Rule (TileTransfer × Slot × Nat) where
  cmd a c := c = .tileTransfer a.1 a.2.2
  pre a s := Runs s ∧ s.dev.tiles.slots = [a.2.1] ∧ a.2.1.coord = a.1.coord ∧ a.2.1.role = 2 ∧ a.2.1.state = 1 ∧
    a.2.1.deltas = [] ∧ a.2.1.rebuilding = false ∧ s.dev.fits a.1 = true ∧ a.1.epoch = s.dev.nat 0x22010E ∧
    s.dev.home a.1.coord ≠ s.dev.position
  parts := [.tiles]
  objs _ := among []
  post a s d := d.out = [] ∧ (d.tiles.slots.map fun x => (x.state, x.role, x.record, x.marks, x.ready)) =
      [(5, 2, canonicalRecord a.1.record, a.1.marks, false)] ∧ d.serving a.1.coord = none ∧ d.tiles.window = s.dev.tiles.window

/-- R137, R143: at the third bad transfer the fetch is given up, and the tile stays a map miss. -/
abbrev tileTransferBad : Rule (TileTransfer × Slot × Nat) where
  cmd a c := c = .tileTransfer a.1 a.2.2
  pre a s := Runs s ∧ s.dev.tiles.slots = [a.2.1] ∧ a.2.1.coord = a.1.coord ∧ a.2.1.role = 2 ∧ a.2.1.state = 1 ∧ a.2.1.attempts = 2 ∧
    a.1.crcOk = false
  parts := [.tiles, .rcd]
  objs _ := eventObjs
  post _ s d := d.tiles = { s.dev.tiles with slots := [] }

/-- R149: a tile of the host that is resident: the home copy keeps its dose bits, and takes class and prescription. -/
abbrev tileTransferResident : Rule (TileTransfer × Slot × Nat) where
  cmd a c := c = .tileTransfer a.1 a.2.2
  pre a s := Runs s ∧ s.dev.tiles.slots = [a.2.1] ∧ a.2.1.coord = a.1.coord ∧ a.2.1.role = 1 ∧ a.2.1.state = 3 ∧ a.2.1.cachers = [] ∧
    a.2.1.rebuilding = false ∧ s.dev.fits a.1 = true
  parts := [.tiles]
  objs _ := among []
  post a _ d := d.out = [] ∧ (d.tiles.slots.map fun x => (x.state, x.marks, x.record)) =
    [(3, a.2.1.marks, mergeHost a.2.1.record (canonicalRecord a.1.record))]

/-- R131, R145: at a home copy a delta that its mark takes is applied: the level rises by the increment, at most to 14, the
cell is painted, the copy is dirty, and the mark is the delta's batch. -/
abbrev paintDelta : Rule (Fin 32 × Nat × Fin 65536 × Fin 15 × Slot × Nat) where
  cmd a c := c = .paintDelta ⟨a.1, a.2.1, a.2.2.2.2.1.coord, [⟨a.2.2.1.val, a.2.2.2.1.val, false⟩]⟩ a.2.2.2.2.2
  pre a s := Runs s ∧ s.dev.tiles.slots = [a.2.2.2.2.1] ∧ a.2.2.2.2.1.role = 1 ∧ a.2.2.2.2.1.state = 2 ∧
    a.2.2.2.2.1.cachers = [] ∧ a.2.2.2.2.1.rebuilding = false ∧ ahead a.2.1 a.2.2.2.2.1.marks[a.1] = true ∧
    a.2.2.2.2.1.record.cells = []
  parts := [.tiles]
  objs _ := among []
  post a _ d := d.out = [] ∧
    (d.tiles.slots.map fun x => (x.state, x.marks, x.dirtyRows.contains (a.2.2.1.val / 256))) =
      [(3, a.2.2.2.2.1.marks.set a.1 a.2.1, true)] ∧
    (d.tiles.slots.map fun x => cellOf x.record a.2.2.1) =
      [(let v := a.2.2.2.2.1.record.fill.toNat
        let level := if v / 16 = 15 then 0 else v / 16
        16 * min 14 (level + a.2.2.2.1.val) + v / 4 % 4 * 4
          + (if v / 2 % 2 = 1 ∨ 14 < level + a.2.2.2.1.val then 2 else 0) + 1)]

/-- R145: a delta that is not ahead of the mark is dropped. -/
abbrev paintDeltaDropped : Rule (PaintDelta × Slot × Nat) where
  cmd a c := c = .paintDelta a.1 a.2.2
  pre a s := Runs s ∧ s.dev.tiles.slots = [a.2.1] ∧ a.2.1.coord = a.1.coord ∧ a.2.1.role ≠ 3 ∧ a.2.1.state ≠ 1 ∧
    a.2.1.rebuilding = false ∧ a.2.1.marks[a.1.position] ≠ 0xFFFFFFFF ∧ ahead a.1.batch a.2.1.marks[a.1.position] = false
  parts := []
  objs _ := among []
  post _ _ d := d.out = []

/-- R145: a copy in Fetching buffers the delta. -/
abbrev paintDeltaBuffered : Rule (PaintDelta × Slot × Nat) where
  cmd a c := c = .paintDelta a.1 a.2.2
  pre a s := Runs s ∧ s.dev.tiles.slots = [a.2.1] ∧ a.2.1.coord = a.1.coord ∧ a.2.1.role ≠ 3 ∧ a.2.1.state = 1 ∧ a.2.1.deltas = []
  parts := [.tiles]
  objs _ := among []
  post a s d := d.out = [] ∧ d.tiles = { s.dev.tiles with slots := [{ a.2.1 with deltas := [a.1] }] }

/-- R49, R144: the paint of a batch has finished, with no outlet used in its settings: it is due no longer. -/
abbrev paintComplete : Rule (PaintJob × Nat) where
  cmd a c := c = .paintComplete a.1.batch a.2
  pre a s := Runs s ∧ s.dev.tiles.paints = [a.1] ∧ ({ s.dev with obj := a.1.settings } : Dev).usedOutlets = [] ∧ s.dev.paintOpen a.1.batch = false
  parts := [.tiles, .seq]
  objs _ := among []
  post _ s d := d.out = [] ∧ d.tiles = { s.dev.tiles with paints := [] } ∧ d.seq = { s.dev.seq with paintDue := false }

/-- R101, R144: with the work switch inactive nothing is painted: no delta leaves, no tile changes, and a deposit that ended
within the batch is settled. -/
abbrev paintWorkOff : Rule (Fin 32 × PaintJob × Nat) where
  cmd a c := c = .paintComplete a.2.1.batch a.2.2
  pre a s := Runs s ∧ s.dev.tiles.paints = [a.2.1] ∧ ({ s.dev with obj := a.2.1.settings } : Dev).usedOutlets = [a.1] ∧
    s.dev.paintOpen a.2.1.batch = false ∧ a.2.1.before.work = false ∧ (outlet s.dev a.1).line = []
  parts := [.tiles, .seq, .dec]
  objs _ := among []
  post a s d := d.out = [] ∧ d.tiles = { s.dev.tiles with paints := [] } ∧ onlyOutlet a.1 s.dev d ∧ (outlet d a.1).line = [] ∧
    ((outlet d a.1).deposits.all fun q => q.2.all fun e => decide (a.2.1.after.t0 < (e : Int))) = true ∧
    (outlet d a.1).sumQuantity = (outlet s.dev a.1).sumQuantity

/-- R143: the home drops a cacher that has released its copy. -/
abbrev cacherDrop : Rule (Fin 32 × Slot × Nat) where
  cmd a c := c = .cacherDrop a.1 a.2.1.coord a.2.2
  pre a s := Runs s ∧ s.dev.tiles.slots = [a.2.1] ∧ a.2.1.role = 1
  parts := [.tiles]
  objs _ := among []
  post a s d := d.out = [] ∧
    d.tiles = { s.dev.tiles with slots := [{ a.2.1 with cachers := a.2.1.cachers.filter fun p => p ≠ a.1.val }] }

/-- R146: a lost home copy: its new home opens a slot that rebuilds, and asks the present devices (here one other). -/
abbrev homeRebuild : Rule (Nat × Fin 32 × Nat) where
  cmd a c := c = .homeRebuild a.1 a.2.2
  pre a s := Runs s ∧ s.dev.home a.1 = s.dev.position ∧ s.dev.tiles.slots = [] ∧ s.dev.tiles.withdrawn = [] ∧
    0 < s.dev.nat 0x220008 ∧ s.dev.nat 0x22000A = 1 ∧ a.2.1 ≠ s.dev.position ∧ s.dev.seq.map.testBit a.2.1 = true
  parts := [.tiles, .link]
  objs _ := among []
  post a _ d := (d.tiles.slots.map fun x => (x.coord, x.state, x.role, x.rebuilding)) = [(a.1, 1, 1, true)] ∧
    Leaves d (.tileRequest a.2.1 a.1)

/-- R146: the end of a rebuild with every mark of a present position: the copy is a dirty home copy, without a paint gap. The
row stands for the end where a rebuild runs (log entry 69). -/
abbrev homeRebuildEnds : Rule (Slot × Nat) where
  cmd a c := c = .homeRebuild a.1.coord a.2
  pre a s := Runs s ∧ s.dev.home a.1.coord = s.dev.position ∧ s.dev.tiles.slots = [a.1] ∧ a.1.role = 1 ∧ a.1.state = 3 ∧
    a.1.rebuilding = true ∧ a.1.paintGap = false ∧ a.1.deltas = [] ∧ s.dev.tiles.resend = [] ∧
    (∀ p : Fin 32, a.1.marks[p] = 0xFFFFFFFF)
  parts := [.tiles]
  objs _ := among []
  post a s d := d.out = [] ∧ d.tiles = { s.dev.tiles with slots := [{ a.1 with rebuilding := false }] }

/-- R146: a position that is gone and had left a mark leaves a paint gap, which is counted and has its event. -/
abbrev homeRebuildGap : Rule (Slot × Fin 32 × Nat) where
  cmd a c := c = .homeRebuild a.1.coord a.2.2
  pre a s := Runs s ∧ s.dev.home a.1.coord = s.dev.position ∧ s.dev.tiles.slots = [a.1] ∧ a.1.role = 1 ∧ a.1.state = 3 ∧
    a.1.rebuilding = true ∧ a.1.deltas = [] ∧ s.dev.tiles.resend = [] ∧ a.1.marks[a.2.1] ≠ 0xFFFFFFFF ∧
    s.dev.seq.map.testBit a.2.1 = false
  parts := [.tiles, .rcd, .diag, .can]
  objs _ x := eventObjs x || among [0x22010A] x
  post a s d := (d.tiles.slots.map fun x => (x.state, x.rebuilding, x.paintGap, x.record)) = [(3, false, true, a.1.record)] ∧
    d.int 0x22010A = (s.dev.int 0x22010A + 1) % 2 ^ 32

/-- R138, R143: a tile untouched for 2 s leaves the lead's window; its clean home copy stays, outside the window. -/
abbrev tileWindowExpiry : Rule (WindowTile × Slot × Nat) where
  cmd a c := c = .tileWindowExpiry a.1.coord a.2.2
  pre a s := Runs s ∧ s.dev.isLead = true ∧ s.dev.tiles.window = [a.1] ∧ a.1.touchedAt + 2000000000 ≤ s.nowAt a.2.2 ∧
    s.dev.tiles.slots = [a.2.1] ∧ a.2.1.coord = a.1.coord ∧ a.2.1.role = 1 ∧ a.2.1.state = 2
  parts := [.tiles, .que, .jrn]
  objs _ := among []
  post a s d := d.out = [] ∧ d.tiles = { s.dev.tiles with window := [], slots := [{ a.2.1 with outside := true }] } ∧
    d.que.pages = s.dev.que.pages.filter (· ≠ a.1.coord)

/-- R141, R143: a cached tile not needed for 2 s is released: its slot is free, and its home drops the cacher. -/
abbrev cachedTileRelease : Rule (Slot × Nat) where
  cmd a c := c = .cachedTileRelease a.1.coord a.2
  pre a s := Runs s ∧ s.dev.tiles.slots = [a.1] ∧ a.1.role = 2 ∧ a.1.neededAt + 2000000000 ≤ s.nowAt a.2
  parts := [.tiles, .link]
  objs _ := among []
  post a s d := d.tiles = { s.dev.tiles with slots := [] } ∧ Emit.cacherDrop (s.dev.home a.1.coord) a.1.coord ∈ d.out

/-- R143, R148: when its write-back period has run, a dirty home copy on the lead goes to the host's queue under the next
write-back sequence, with its rows clean. -/
abbrev writeBackPeriod : Rule (Slot × Nat) where
  cmd a c := c = .writeBackPeriod a.1.coord a.2
  pre a s := Runs s ∧ s.dev.isLead = true ∧ s.dev.tiles.slots = [a.1] ∧ a.1.role = 1 ∧ a.1.state = 3 ∧ s.dev.nat 0x22000A = 0 ∧
    s.dev.que.writeBacks = []
  parts := [.tiles, .que]
  objs _ := among [0x220107]
  post a s d := d.out = [] ∧ (d.tiles.slots.map fun x => (x.state, x.sequence, x.dirtyRows, x.record)) =
      [(4, (a.1.sequence + 1) % 2 ^ 32, [], a.1.record)] ∧
    (d.que.writeBacks.map fun w => (w.item.coord, w.item.seq, w.item.marks, w.offered)) =
      [(a.1.coord, (a.1.sequence + 1) % 2 ^ 32, a.1.marks, false)] ∧ d.int 0x220107 = (s.dev.int 0x220107 + 1) % 2 ^ 32

/-- R143: with no acknowledgement within 10 s the write-back is sent again with the same sequence. -/
abbrev writeBackResend : Rule (Slot × TileTransfer × Nat) where
  cmd a c := c = .writeBackResend a.1.coord a.2.2
  pre a s := Runs s ∧ s.dev.isLead = true ∧ s.dev.tiles.slots = [a.1] ∧ a.1.state = 4 ∧ a.1.sentCopy = some a.2.1 ∧
    a.2.1.coord = a.1.coord ∧ a.1.sentAt + 10000000000 ≤ s.nowAt a.2.2 ∧ s.dev.que.writeBacks = []
  parts := [.tiles, .que]
  objs _ := among []
  post a s d := d.out = [] ∧ d.tiles = { s.dev.tiles with slots := [{ a.1 with sentAt := s.nowAt a.2.2 }] } ∧
    (d.que.writeBacks.map fun w => w.item) = [a.2.1]

/-- R137, R147: the host's tile in the transfer format for a home on the lead: journalled by its coordinate, and given to
its home, whose Fetching slot it fills. -/
abbrev tileInWrite : Rule (TileTransfer × Slot) where
  cmd a c := c = .tileInWrite .host a.1
  pre a s := HostMay s 0x220202 (.bytes (tileEncode a.1)) ∧ s.dev.isLead = true ∧ s.dev.tiles.transfer = [] ∧ a.1.coord < 2 ^ 32 ∧
    s.dev.que.pages = [a.1.coord] ∧ s.dev.fits a.1 = true ∧ s.dev.home a.1.coord = s.dev.position ∧ s.dev.tiles.slots = [a.2] ∧
    a.2.coord = a.1.coord ∧ a.2.role = 1 ∧ a.2.state = 1 ∧ a.2.deltas = [] ∧ a.2.cachers = [] ∧ a.1.cachers = [] ∧
    a.2.rebuilding = false
  parts := [.jrn, .tiles, .que]
  objs _ := among [0x110003, 0x220106]
  post a s d := HostTook s d 4 (.tile a.1.coord) ∧ d.que.pages = [] ∧
    (d.tiles.slots.map fun x => (x.state, x.role, x.record)) = [(2, 1, canonicalRecord a.1.record)]

/-- R147: while the transfer queue holds 8 tiles a tile-in write is answered busy and is not accepted: nothing is journalled
and its sequence does not rise. -/
abbrev tileInBusy : Rule TileTransfer where
  cmd t c := c = .tileInWrite .host t
  pre t s := HostMay s 0x220202 (.bytes (tileEncode t)) ∧ s.dev.tiles.transfer.length = 8
  parts := []
  objs _ := among [0x320008, 0x11000B]
  post _ s d := (Emit.answer .host 3 0 (.num 0) ∈ d.out ∨ Emit.answer .host 131 0 (.num 0) ∈ d.out) ∧
    d.int 0x320008 = (s.dev.int 0x320008 + 1) % 2 ^ 32

/-- R143, R147: the host has no such tile: its home, here the lead, builds it blank: dose 15, the class of 0x2200:06, no
prescription. -/
abbrev tileAbsentWrite : Rule (Slot × Nat) where
  cmd a c := c = .tileAbsentWrite .host a.1.coord
  pre a s := HostMay s 0x220203 (.num a.1.coord) ∧ s.dev.isLead = true ∧ s.dev.home a.1.coord = s.dev.position ∧
    s.dev.tiles.slots = [a.1] ∧ a.1.role = 1 ∧ a.1.state = 1 ∧ a.1.deltas = [] ∧ a.1.cachers = [] ∧ a.1.rebuilding = false ∧
    s.dev.nat 0x220006 = a.2
  parts := [.jrn, .tiles, .que]
  objs _ := among [0x110003]
  post a s d := HostTook s d 3 (.write 0x220203 (.num a.1.coord)) ∧ d.que.pages = s.dev.que.pages.filter (· ≠ a.1.coord) ∧
    (d.tiles.slots.map fun x => (x.state, x.record, x.marks)) = [(2, blankRecord a.2, Vector.replicate 32 0xFFFFFFFF)]

/-- R148: the host acknowledges a write-back of a tile homed on the lead: with no row dirty the copy is clean. -/
abbrev writeBackAcknowledge : Rule Slot where
  cmd a c := c = .writeBackAcknowledge .host a.coord a.sequence
  pre a s := HostMay s 0x220205 (.bytes (leBytes 4 a.coord ++ leBytes 4 a.sequence)) ∧ s.dev.isLead = true ∧
    s.dev.home a.coord = s.dev.position ∧ s.dev.tiles.slots = [a] ∧ a.role = 1 ∧ a.state = 4 ∧ a.outside = false ∧ a.dirtyRows = []
  parts := [.jrn, .tiles, .que]
  objs _ := among [0x110003]
  post a s d := d.tiles = { s.dev.tiles with slots := [{ a with state := 2, sentCopy := none }] } ∧
    (d.que.writeBacks.all fun w => !(w.item.coord = a.coord && w.item.seq = a.sequence)) = true

/-- R152: the host acknowledges a record of the lead's own: it leaves the queue, is kept no longer, and its journal entry is
closed. -/
abbrev asAppliedAcknowledge : Rule AsApplied where
  cmd r c := c = .asAppliedAcknowledge .host r.position r.seq
  pre r s := HostMay s 0x220207 (.bytes (leBytes 1 r.position ++ leBytes 3 0 ++ leBytes 4 r.seq)) ∧ s.dev.isLead = true ∧
    r.position = s.dev.position ∧ s.dev.tiles.records = [(r, 2)]
  parts := [.jrn, .tiles, .que]
  objs _ := among [0x110003, 0x22010C]
  post r s d := d.tiles = { s.dev.tiles with records := [] } ∧ d.int 0x22010C = r.seq ∧
    (d.que.applied.all fun q => !(q.item.position = r.position && q.item.seq = r.seq)) = true ∧
    (d.jrn.openEntries.all fun e => !(e.kind = 10 && e.seq = r.seq)) = true

/-- R152: an unacknowledged record that was last offered 5 s ago is offered again. -/
abbrev asAppliedReoffer : Rule (AsApplied × Nat × Nat) where
  cmd a c := c = .asAppliedReoffer a.2.2
  pre a s := Runs s ∧ s.dev.isLead = true ∧ s.dev.tiles.records = [(a.1, 2)] ∧ s.dev.que.applied = [⟨a.1, true, a.2.1⟩] ∧
    a.2.1 + 5000000000 ≤ s.nowAt a.2.2
  parts := [.que]
  objs _ := among []
  post a s d := d.out = [] ∧ d.que = { s.dev.que with applied := [⟨a.1, false, s.nowAt a.2.2⟩] }

/-- R152, R468: once its signature is complete a closed record is journalled. -/
abbrev recordSigned : Rule (AsApplied × Nat) where
  cmd a c := c = .recordSigned a.1.seq a.2
  pre a s := Runs s ∧ s.dev.tiles.records = [(a.1, 0)] ∧ a.1.signed = true
  parts := [.tiles, .jrn]
  objs _ := among [0x310401]
  post a s d := d.out = [] ∧ d.tiles = { s.dev.tiles with records := [(a.1, 1)] } ∧
    d.jrn.reserved = s.dev.jrn.reserved ++ [s.dev.entry 10 0x15 a.1.seq 0 false (.asApplied a.1)] ∧
    d.jrn.openEntries = s.dev.jrn.openEntries ++ [s.dev.entry 10 0x15 a.1.seq 0 false (.asApplied a.1)] ∧
    d.int 0x310401 = (s.dev.int 0x310401 + 1) % 2 ^ 32

/-- R151: under the hold policy an outlet whose map miss has lasted the hold limit is switched off at the next boundary. -/
abbrev mapMissHoldLimit : Rule (Fin 32 × Nat) where
  cmd a c := c = .mapMissHoldLimit a.1 a.2
  pre a s := Runs s ∧ s.dev.nat 0x220003 = 1 ∧ s.dev.automatic = true ∧ (outlet s.dev a.1).on = true ∧ (outlet s.dev a.1).edges = [] ∧
    ((outlet s.dev a.1).missSince.any fun m => decide (m + 1000 * s.dev.nat 0x220004 ≤ s.chainAt a.2)) = true
  parts := [.dec]
  objs _ := among []
  post a s d := d.out = [] ∧ onlyOutlet a.1 s.dev d ∧ outlet d a.1 = { outlet s.dev a.1 with
    edges := [{ instant := s.dev.seq.t0 + s.dev.periodNs, kind := 2, source := 0, free := true }], sweepOn := false }

/-! ### Spot targets -/

/-- R328, R169: a guest is granted message credits while the intake has room for a message for each of them. -/
abbrev guestCredit : Rule (Fin 16 × Nat) where
  cmd a c := c = .guestCredit a.1 a.2
  pre a s := Runs s ∧ 0 < a.2 ∧ s.dev.tgt.guestCredits[a.1] + a.2 ≤ 2 ∧ s.dev.tgt.stopped = false ∧ s.dev.intakeBusy = false ∧
    a.2 + s.dev.tgt.guestCredits.toList.sum ≤ (512 - s.dev.tgt.intake.length) / 32
  parts := [.tgt]
  objs _ := among []
  post a s d := d.out = [.enumeration none (enumerationBody 5 0 (s.dev.nat 0x22010E) (creditFields a.1 a.2))] ∧
    d.tgt = { s.dev.tgt with guestCredits := s.dev.tgt.guestCredits.set a.1 (s.dev.tgt.guestCredits[a.1] + a.2) }

/-- R169: while the intake takes no records a guest is granted nothing. -/
abbrev guestCreditWithheld : Rule (Fin 16 × Nat) where
  cmd a c := c = .guestCredit a.1 a.2
  pre _ s := Runs s ∧ (s.dev.tgt.stopped = true ∨ s.dev.intakeBusy = true)
  parts := []
  objs _ := among []
  post _ _ d := d.out = []

/-- R156, R157: the records of a guest's message wait in the intake for the next cut-off, and the message takes a credit. -/
abbrev targetMessage : Rule (Fin 16 × List TargetRec × Nat) where
  cmd a c := c = .targetMessage a.1 true a.2.1.length a.2.1 a.2.2
  pre a s := Runs s ∧ 1 ≤ a.2.1.length ∧ a.2.1.length ≤ 32 ∧ s.dev.tgt.intake.length + a.2.1.length ≤ 512
  parts := [.tgt]
  objs _ := among []
  post a s d := d.out = [] ∧ d.tgt = { s.dev.tgt with
    guestCredits := s.dev.tgt.guestCredits.set a.1 (s.dev.tgt.guestCredits[a.1] - 1)
    intake := s.dev.tgt.intake ++ a.2.1.map fun r => { source := a.1, record := r, stage := 0, form0 := r } }

/-- R156: a message that fails its CRC or its count check is discarded whole, and nothing is answered. -/
abbrev targetMessageBad : Rule (Fin 16 × Bool × Nat × List TargetRec × Nat) where
  cmd a c := c = .targetMessage a.1 a.2.1 a.2.2.1 a.2.2.2.1 a.2.2.2.2
  pre a s := Runs s ∧ (a.2.1 = false ∨ a.2.2.1 ≠ a.2.2.2.1.length ∨ a.2.2.1 = 0 ∨ 32 < a.2.2.1)
  parts := [.tgt]
  objs _ := among []
  post a s d := d.out = [] ∧ d.tgt = { s.dev.tgt with
    guestCredits := s.dev.tgt.guestCredits.set a.1 (s.dev.tgt.guestCredits[a.1] - 1) }

/-- R156, R158: the host's message on the lead, here of one record: it waits in the intake as source 16, and the write's
acknowledgement waits with it. -/
abbrev targetInWrite : Rule TargetRec where
  cmd r c := c = .targetInWrite .host [r]
  pre r s := HostMay s 0x230101 (.bytes (targetMessageEncode 16 [r])) ∧ s.dev.isLead = true ∧ s.dev.tgt.intake.length + 1 ≤ 512 ∧
    s.dev.que.results.length < 256
  parts := [.jrn, .tgt]
  objs _ := among [0x110003]
  post r s d := d.tgt = { s.dev.tgt with intake := s.dev.tgt.intake ++ [{ source := 16, record := r, stage := 0, form0 := r, ack := some ⟨.host, s.dev.nat 0x110003, 0, none, 0⟩ }] } ∧
    d.jrn.waiting = s.dev.jrn.waiting ∧ d.nat 0x110003 = (s.dev.nat 0x110003 + 1) % 2 ^ 32

/-- R169: while the intake has no room the host's message is answered busy, and its sequence does not rise. -/
abbrev targetInBusy : Rule TargetRec where
  cmd r c := c = .targetInWrite .host [r]
  pre r s := HostMay s 0x230101 (.bytes (targetMessageEncode 16 [r])) ∧ s.dev.intakeHeld = 512
  parts := []
  objs _ := among [0x320008, 0x11000B]
  post _ s d := (Emit.answer .host 3 0 (.num 0) ∈ d.out ∨ Emit.answer .host 131 0 (.num 0) ∈ d.out) ∧
    d.int 0x320008 = (s.dev.int 0x320008 + 1) % 2 ^ 32

/-- R159: a share waits in the inbox of its owner, for one of the credits granted to its intake device. -/
abbrev share : Rule (Share × Nat) where
  cmd a c := c = .share a.1 a.2
  pre _ s := Runs s ∧ s.dev.tgt.inbox.length < 512
  parts := [.tgt]
  objs _ := among []
  post a s d := d.out = [] ∧ d.tgt = { s.dev.tgt with
    inbox := s.dev.tgt.inbox ++ [a.1], granted := s.dev.tgt.granted.set a.1.intake (s.dev.tgt.granted[a.1.intake] - 1) }

/-- R159: with a credit of its owner a share that waits in the intake device is sent, and takes the credit. -/
abbrev shareCredit : Rule (Fin 32 × Nat × Intake × Nat) where
  cmd a c := c = .shareCredit a.1 a.2.1 a.2.2.2
  pre a s := Runs s ∧ s.dev.tgt.intake = [a.2.2.1] ∧ 2 ≤ a.2.2.1.stage ∧ a.2.2.1.unsent = [a.1.val] ∧ a.1 ≠ s.dev.position ∧
    1 ≤ a.2.1 ∧ s.dev.ch.table = []
  parts := [.tgt, .link]
  objs _ := among []
  post a s d := d.tgt = { s.dev.tgt with
      intake := [{ a.2.2.1 with unsent := [] }]
      credits := s.dev.tgt.credits.set a.1 (s.dev.tgt.credits[a.1] + a.2.1 - 1) } ∧
    Leaves d (.share a.1 ⟨s.dev.pos32, a.2.2.1.source, a.2.2.1.form0⟩)

/-- R160: an owner confirms its share: with every owner's confirmation the target's entry is no longer open. -/
abbrev shareConfirmation : Rule (Fin 32 × ResultRec × Intake × Nat) where
  cmd a c := c = .shareConfirmation a.1 a.2.1 a.2.2.2
  pre a s := Runs s ∧ s.dev.tgt.intake = [a.2.2.1] ∧ a.2.2.1.stage = 3 ∧ a.2.1.result = 0 ∧ a.2.1.source = a.2.2.1.source ∧
    a.2.1.seq = a.2.2.1.record.seq ∧ a.2.2.1.unconfirmed = [a.1.val] ∧ a.2.2.1.owners = [a.1.val] ∧ a.2.2.1.results = []
  parts := [.tgt, .jrn]
  objs _ := among []
  post a s d := d.out = [] ∧ d.tgt = { s.dev.tgt with intake := [{ a.2.2.1 with unconfirmed := [] }] } ∧
    d.jrn.reserved = s.dev.jrn.reserved ++
      [s.dev.entry 6 a.2.2.1.source a.2.2.1.record.seq 0 s.dev.isLead (.owner a.1.val)] ∧
    (d.jrn.openEntries.all fun e => !(e.kind = 5 && e.source = a.2.2.1.source && e.seq = a.2.2.1.record.seq)) = true

/-- R168: with the last owner's result the target ends, and its final result goes to the guest that sent it. -/
abbrev finalResult : Rule (Fin 32 × ResultRec × Intake × Nat) where
  cmd a c := c = .shareConfirmation a.1 a.2.1 a.2.2.2
  pre a s := Runs s ∧ s.dev.tgt.intake = [a.2.2.1] ∧ a.2.2.1.stage = 3 ∧ a.2.1.result ≠ 0 ∧ a.2.1.source = a.2.2.1.source ∧
    a.2.1.seq = a.2.2.1.record.seq ∧ a.2.2.1.unconfirmed = [] ∧ a.2.2.1.owners = [a.1.val] ∧ a.2.2.1.results = [] ∧
    a.2.1.result ≤ 12 ∧ a.2.2.1.firstOn = 0 ∧ a.2.2.1.lastOff = 0 ∧ a.2.2.1.outlets = 0 ∧ a.2.2.1.firstOutlet = 0xFFFF ∧
    a.2.2.1.source < 16 ∧ s.dev.isLead = false ∧ s.dev.ch.table = []
  parts := [.tgt, .jrn, .link]
  objs _ := among []
  post a s d := d.tgt = { s.dev.tgt with intake := [] } ∧
    Leaves d (.guestResult a.2.2.1.source { a.2.1 with
      firstOutlet := min 0xFFFF a.2.1.firstOutlet, lastOff := max 0 a.2.1.lastOff })

/-- R168: the final result is applied, partial where some owner applied, else the lowest code of the owners. -/
abbrev finalResultCode : Rule (Fin 32 × ResultRec × Nat × Intake × Nat) where
  cmd a c := c = .shareConfirmation a.1 a.2.1 a.2.2.2.2
  pre a s := Runs s ∧ s.dev.tgt.intake = [a.2.2.2.1] ∧ a.2.2.2.1.stage = 3 ∧ a.2.1.result ≠ 0 ∧ a.2.1.source = a.2.2.2.1.source ∧
    a.2.1.seq = a.2.2.2.1.record.seq ∧ a.2.2.2.1.unconfirmed = [] ∧ a.2.2.2.1.owners = [a.1.val, 31] ∧ a.1 ≠ 31 ∧
    a.2.2.2.1.results = [(31, a.2.2.1)] ∧ a.2.1.result ≤ 12 ∧ a.2.2.1 ≤ 12 ∧ a.2.2.1 ≠ 0 ∧
    a.2.2.2.1.source = 16 ∧ s.dev.que.results = []
  parts := [.tgt, .jrn, .que]
  objs _ := among []
  post a s d := d.out = [] ∧ d.tgt = { s.dev.tgt with intake := [] } ∧ (d.que.results.map fun q => (q.item.source, q.item.seq, q.item.result)) =
    [(16, a.2.2.2.1.record.seq,
      if a.2.1.result = 1 ∧ a.2.2.1 = 1 then 1
      else if a.2.1.result = 1 ∨ a.2.1.result = 2 ∨ a.2.2.1 = 1 ∨ a.2.2.1 = 2 then 2
      else min a.2.1.result a.2.2.1)]

/-- R168: a share pending for the maximum pending time closes as expired: its closure is journalled, its entry is freed,
and its result goes to its intake device. -/
abbrev shareExpiry : Rule (PendingShare × Nat) where
  cmd a c := c = .shareExpiry a.1.share.intake a.1.share.source a.1.share.record.seq a.2
  pre a s := Runs s ∧ s.dev.tgt.store = [a.1] ∧ a.1.takenAt + 1000 * s.dev.nat 0x230003 ≤ s.chainAt a.2 ∧
    a.1.share.intake.val ≠ s.dev.position ∧ s.dev.seq.map.testBit a.1.share.intake = true ∧ a.1.windows = [] ∧ s.dev.ch.table = []
  parts := [.tgt, .jrn, .link]
  objs _ := among [0x230304]
  post a s d := d.tgt = { s.dev.tgt with store := [] } ∧ d.int 0x230304 = (s.dev.int 0x230304 + 1) % 2 ^ 32 ∧
    Leaves d (.shareConfirmation a.1.share.intake ⟨a.1.share.source, 5, 0xFFFF, a.1.share.record.seq, 0, 0, 0⟩) ∧
    d.jrn.reserved = s.dev.jrn.reserved ++
      [s.dev.entry 8 0x16 a.1.share.record.seq (a.1.share.intake.val * 256 + a.1.share.source) false (.result 5)]

/-- R168: a final result for the host waits in the lead's result queue. -/
abbrev targetResult : Rule (ResultRec × Nat) where
  cmd a c := c = .targetResult a.1 a.2
  pre a s := Runs s ∧ a.1.source = 16
  parts := [.que]
  objs _ := among []
  post a s d := d.out = [] ∧ d.que = { s.dev.que with results := s.dev.que.results ++ [⟨a.1, false, s.nowAt a.2⟩] }

/-- R168: a final result for a guest is sent to it. -/
abbrev targetResultGuest : Rule (ResultRec × Nat) where
  cmd a c := c = .targetResult a.1 a.2
  pre a s := Runs s ∧ a.1.source < 16 ∧ s.dev.isLead = false ∧ s.dev.ch.table = []
  parts := [.link]
  objs _ := among []
  post a _ d := Leaves d (.guestResult a.1.source a.1)

/-- R168: the host acknowledges a result by its source and sequence: it leaves the queue, and its entry is closed. -/
abbrev resultAcknowledge : Rule (Fin 256 × Fin 4294967296) where
  cmd a c := c = .resultAcknowledge .host a.1 a.2
  pre a s := HostMay s 0x230202 (.bytes (leBytes 1 a.1 ++ leBytes 3 0 ++ leBytes 4 a.2)) ∧ s.dev.isLead = true ∧ s.dev.tgt.intake = []
  parts := [.jrn, .que]
  objs _ := among [0x110003]
  post a s d := HostTook s d 3 (.write 0x230202 (.bytes (leBytes 1 a.1 ++ leBytes 3 0 ++ leBytes 4 a.2))) ∧
    d.que = { s.dev.que with results := s.dev.que.results.filter fun r => !(r.item.source = a.1.val && r.item.seq = a.2.val) } ∧
    (d.jrn.openEntries.all fun e => !(e.kind = 9 && match e.payload with
      | .final r => r.source = a.1.val && r.seq = a.2.val
      | _ => false)) = true

/-! ### The engine array -/

/-- R175, R176: a task whose inputs are complete goes to the tail of its home dray's queue. -/
abbrev taskRelease : Rule Task where
  cmd t c := c = .taskRelease t.number
  pre t s := Runs s ∧ s.dev.eng.waiting = [t] ∧ (t.after.all fun p => s.dev.eng.ended.any (· = p)) = true ∧
    (dray s.dev t.home).state = 0 ∧ (dray s.dev t.home).queue.length < 16 ∧ (dray s.dev t.home).overflow = []
  parts := [.eng]
  objs _ := among []
  post t s d := d.out = [] ∧ d.eng = { s.dev.eng with waiting := [], drays := s.dev.eng.drays.set t.home { dray s.dev t.home with
      queue := (dray s.dev t.home).queue ++ [t] } }

/-- R176: a task with a predecessor still open waits in the dispatcher's pending table. -/
abbrev taskReleaseOpen : Rule (Task × Nat) where
  cmd a c := c = .taskRelease a.1.number
  pre a s := Runs s ∧ s.dev.eng.waiting = [a.1] ∧ a.2 ∈ a.1.after ∧ a.2 ∉ s.dev.eng.ended
  parts := []
  objs _ := among []
  post _ _ d := d.out = []

/-- R176: when the home's queue holds 16 entries the task waits in the home's overflow list. -/
abbrev taskReleaseOverflow : Rule Task where
  cmd t c := c = .taskRelease t.number
  pre t s := Runs s ∧ s.dev.eng.waiting = [t] ∧ t.after = [] ∧ (dray s.dev t.home).state = 0 ∧
    (dray s.dev t.home).queue.length = 16
  parts := [.eng]
  objs _ := among []
  post t s d := d.out = [] ∧ d.eng = { s.dev.eng with waiting := [], drays := s.dev.eng.drays.set t.home { dray s.dev t.home with
      overflow := (dray s.dev t.home).overflow ++ [t] } }

/-- R176, R177: a dray takes the task at the head of its own queue, and the oldest of its overflow list enters the queue. -/
abbrev taskTake : Rule (Fin 64 × Task × List Task) where
  cmd a c := c = .taskTake a.1
  pre a s := Runs s ∧ (dray s.dev a.1).queue = a.2.1 :: a.2.2 ∧ (dray s.dev a.1).state = 0 ∧ (dray s.dev a.1).running = none ∧
    a.2.2.length = 15
  parts := [.eng]
  objs _ := among []
  post a s d := d.out = [] ∧ d.eng = { s.dev.eng with drays := s.dev.eng.drays.set a.1 { dray s.dev a.1 with
    queue := a.2.2 ++ (dray s.dev a.1).overflow.take 1, overflow := (dray s.dev a.1).overflow.drop 1
    running := some a.2.1, run := ((dray s.dev a.1).run + 1) % 2 ^ 32, asked := 0 } }

/-- R177: a dray that runs a task takes no other. -/
abbrev taskTakeBusy : Rule (Fin 64) where
  cmd k c := c = .taskTake k
  pre k s := Runs s ∧ (dray s.dev k).running.isSome = true
  parts := []
  objs _ := among []
  post _ _ d := d.out = []

/-- R180: a Phase B result written before the close is on time, its slot's batch is the present one, and the slot names the dray. -/
abbrev taskResultWrite : Rule (Fin 64 × Task × Nat) where
  cmd a c := c = .taskResultWrite a.1 a.2.2
  pre a s := Runs s ∧ (dray s.dev a.1).running = some a.2.1 ∧ 1 ≤ a.2.1.kernel ∧ a.2.1.kernel ≤ 4 ∧ s.dev.eng.open_ = true ∧
    a.2.1.batch = s.dev.seq.number ∧ a.2.1.retry = false
  parts := [.eng]
  objs _ := among []
  post a s d := d.out = [] ∧ d.eng = { s.dev.eng with
    drays := s.dev.eng.drays.set a.1 { dray s.dev a.1 with running := none }, ended := s.dev.eng.ended ++ [a.2.1.number]
    written := s.dev.eng.written ++ [{ a.2.1 with ran := some a.1 }], finish := (s.chainAt a.2.2 - s.dev.seq.t0) / 1000 }

/-- R180: a result behind the close, or of another batch, is rejected and counted as late. -/
abbrev taskResultLate : Rule (Fin 64 × Task × Nat) where
  cmd a c := c = .taskResultWrite a.1 a.2.2
  pre a s := Runs s ∧ (dray s.dev a.1).running = some a.2.1 ∧ 1 ≤ a.2.1.kernel ∧ a.2.1.kernel ≤ 4 ∧
    (s.dev.eng.open_ = false ∨ a.2.1.batch ≠ s.dev.seq.number)
  parts := [.eng]
  objs _ := among []
  post a s d := d.out = [] ∧ d.eng = { s.dev.eng with
    drays := s.dev.eng.drays.set a.1 { dray s.dev a.1 with running := none }, ended := s.dev.eng.ended ++ [a.2.1.number]
    lateResults := s.dev.eng.lateResults + 1 }

/-- R178: the victim grants the oldest half of its waiting entries, never the one at the head; they go to the thief's queue
in their order, marked stolen. -/
abbrev stealRequest : Rule (Fin 64 × Fin 64 × Task × List Task × Nat) where
  cmd a c := c = .stealRequest a.1 a.2.1 a.2.2.2.2
  pre a s := Runs s ∧ s.dev.nat 0x240104 = 1 ∧ a.1 ≠ a.2.1 ∧ (dray s.dev a.1).state = 0 ∧ (dray s.dev a.2.1).state = 0 ∧
    (dray s.dev a.1).queue = [] ∧ (dray s.dev a.1).running = none ∧ (dray s.dev a.2.1).queue = a.2.2.1 :: a.2.2.2.1 ∧
    (a.2.2.2.1.all fun t => !t.pinned) = true ∧ 2 ≤ a.2.2.2.1.length ∧ (dray s.dev a.2.1).overflow = [] ∧
    ((a.2.2.1 :: a.2.2.2.1).map fun t => t.number) = List.range (a.2.2.2.1.length + 1) ∧
    (s.dev.seq.phase = 1 ∨ s.dev.seq.phase = 3) ∧ (s.dev.toAsk a.1)[(dray s.dev a.1).asked]? = some a.2.1
  parts := [.eng]
  objs _ := among [0x24000B]
  post a s d := d.out = [] ∧ d.eng.steals = s.dev.eng.steals + 1 ∧
    (∀ k : Fin 64, k ≠ a.1 → k ≠ a.2.1 → dray d k = dray s.dev k) ∧
    dray d a.1 = { dray s.dev a.1 with
      queue := (a.2.2.2.1.take (a.2.2.2.1.length / 2)).map fun t => { t with stolen := true }, asked := 0, askedAt := some (s.chainAt a.2.2.2.2) } ∧
    dray d a.2.1 = { dray s.dev a.2.1 with queue := a.2.2.1 :: a.2.2.2.1.drop (a.2.2.2.1.length / 2) }

/-- R178: a victim with fewer than two waiting entries refuses; with stealing disabled nothing is asked at all. -/
abbrev stealRefused : Rule (Fin 64 × Fin 64 × Nat) where
  cmd a c := c = .stealRequest a.1 a.2.1 a.2.2
  pre a s := Runs s ∧ (s.dev.nat 0x240104 = 0 ∨ ((dray s.dev a.2.1).queue.length ≤ 2 ∧ a.1 ≠ a.2.1))
  parts := [.eng]
  objs _ := among []
  post a s d := d.out = [] ∧ onlyDray a.1 s.dev d ∧ { dray d a.1 with asked := 0, askedAt := none } = { dray s.dev a.1 with asked := 0, askedAt := none } ∧
    d.eng.steals = s.dev.eng.steals

/-- R179: 2 µs after a thief has asked all its victims in vain it starts again at ring 1. -/
abbrev stealRetry : Rule (Fin 64 × Nat) where
  cmd a c := c = .stealRetry a.1 a.2
  pre a s := Runs s ∧ (s.dev.seq.phase = 1 ∨ s.dev.seq.phase = 3) ∧ (s.dev.toAsk a.1).length ≤ (dray s.dev a.1).asked ∧
    (dray s.dev a.1).askedAt.any (fun t => t + 2000 ≤ s.chainAt a.2) = true
  parts := [.eng]
  objs _ := among []
  post a s d := d.out = [] ∧
    d.eng = { s.dev.eng with drays := s.dev.eng.drays.set a.1 { dray s.dev a.1 with asked := 0, askedAt := none } }

/-- R187: a dray with an uncorrectable error in its memory is quarantined at once. The first working dray of its victim
order takes its queue and overflow list, and at the head of its queue the running task as a pinned retry. -/
abbrev drayFault : Rule (Fin 64 × Fin 64 × Task × Nat) where
  cmd a c := c = .drayFault a.1 1 a.2.2.2
  pre a s := Runs s ∧ (dray s.dev a.1).state = 0 ∧ (dray s.dev a.1).running = some a.2.2.1 ∧ a.2.2.1.retry = false ∧
    s.dev.firstWorking a.1 = some a.2.1 ∧ a.2.1 ≠ a.1 ∧ 17 ≤ s.dev.working.length ∧ s.dev.eng.below = false ∧
    (dray s.dev a.2.1).overflow = [] ∧ (dray s.dev a.2.1).queue.length + (dray s.dev a.1).queue.length ≤ 15 ∧
    (dray s.dev a.1).overflow = []
  parts := [.eng, .hlt, .rcd, .diag, .can]
  objs _ x := eventObjs x || among [0x240302] x
  post a s d := (∀ k : Fin 64, k ≠ a.1 → k ≠ a.2.1 → dray d k = dray s.dev k) ∧
    ((dray d a.1).state = 1 ∧ (dray d a.1).cause = 1 ∧ (dray d a.1).queue = [] ∧ (dray d a.1).running = none ∧
      (dray d a.1).quarantines = min 65535 ((dray s.dev a.1).quarantines + 1)) ∧
    dray d a.2.1 = { dray s.dev a.2.1 with queue := { a.2.2.1 with retry := true, pinned := true } ::
      (dray s.dev a.2.1).queue ++ (dray s.dev a.1).queue } ∧
    d.int 0x240302 = (s.dev.int 0x240302 + 1) % 2 ^ 32

/-- Table 7.7: 64 corrected errors in 1,000 batches: the dray goes into quarantine at the next boundary. -/
abbrev drayCorrections : Rule (Fin 64 × Nat) where
  cmd a c := c = .drayFault a.1 2 a.2
  pre a s := Runs s ∧ (dray s.dev a.1).state = 0
  parts := [.eng]
  objs _ := among [0x240301]
  post a s d := d.out = [] ∧
    d.eng = { s.dev.eng with drays := s.dev.eng.drays.set a.1 { dray s.dev a.1 with due := 1, cause := 2 } } ∧
    d.int 0x240301 = (s.dev.int 0x240301 + 64) % 2 ^ 32

/-- R188: a dray that fails its self-test is retired, and the retired map is kept in MRAM. -/
abbrev drayFaultSelfTest : Rule (Fin 64 × Nat) where
  cmd a c := c = .drayFault a.1 6 a.2
  pre a s := Runs s ∧ (dray s.dev a.1).state ≠ 2 ∧ 17 ≤ s.dev.working.length ∧ s.dev.eng.below = false
  parts := [.eng, .hlt, .nvm, .rcd, .diag, .can]
  objs _ x := eventObjs x || among [0x240002, 0x310004] x
  post a s d := onlyDray a.1 s.dev d ∧ (dray d a.1).state = 2 ∧ (dray d a.1).cause = 6 ∧ d.bit 0x240002 a.1 = true ∧
    storeGet d.nvm.kept 0x240002 = storeGet d.obj 0x240002

/-- R187: a task that has run four times its cost estimate: its dray is quarantined with cause 3; one that was a retry
already is not tried again. -/
abbrev drayStepOverrun : Rule (Fin 64 × Task × Nat) where
  cmd a c := c = .drayStepOverrun a.1 a.2.2
  pre a s := Runs s ∧ (dray s.dev a.1).state = 0 ∧ (dray s.dev a.1).running = some a.2.1 ∧ a.2.1.retry = true ∧
    17 ≤ s.dev.working.length ∧ s.dev.eng.below = false ∧ (dray s.dev a.1).queue = [] ∧ (dray s.dev a.1).overflow = [] ∧
    (∀ k : Fin 64, (dray s.dev k).queue.length ≤ 16 ∧ (dray s.dev k).overflow = [])
  parts := [.eng, .hlt, .rcd, .diag, .can]
  objs _ x := eventObjs x || among [0x240302] x
  post a s d := onlyDray a.1 s.dev d ∧ (dray d a.1).state = 1 ∧ (dray d a.1).cause = 3 ∧ (dray d a.1).running = none ∧
    d.int 0x240302 = (s.dev.int 0x240302 + 1) % 2 ^ 32

/-- R187: a router handshake that is not answered: its dray is quarantined with cause 4. -/
abbrev meshTimeout : Rule (Fin 64 × Nat) where
  cmd a c := c = .meshTimeout a.1 a.2
  pre a s := Runs s ∧ (dray s.dev a.1).state = 0 ∧ (dray s.dev a.1).running = none ∧
    17 ≤ s.dev.working.length ∧ s.dev.eng.below = false ∧ (dray s.dev a.1).queue = [] ∧ (dray s.dev a.1).overflow = [] ∧
    (∀ k : Fin 64, (dray s.dev k).queue.length ≤ 16 ∧ (dray s.dev k).overflow = [])
  parts := [.eng, .hlt, .rcd, .diag, .can]
  objs _ := eventObjs
  post a s d := onlyDray a.1 s.dev d ∧ (dray d a.1).state = 1 ∧ (dray d a.1).cause = 4

/-- R188: a quarantined dray that passes its self-test works again from the next batch. -/
abbrev draySelfTest : Rule (Fin 64 × Nat) where
  cmd a c := c = .draySelfTest a.1 true a.2
  pre a s := Runs s ∧ (dray s.dev a.1).state = 3 ∧ (dray s.dev a.1).recent.length < 3
  parts := [.eng]
  objs _ := among []
  post a s d := d.out = [] ∧
    d.eng = { s.dev.eng with drays := s.dev.eng.drays.set a.1 { dray s.dev a.1 with state := 1, due := 2 } }

/-- R188: a dray quarantined 3 times within 10,000 batches is retired although it passes. -/
abbrev draySelfTestRetires : Rule (Fin 64 × Nat) where
  cmd a c := c = .draySelfTest a.1 true a.2
  pre a s := Runs s ∧ (dray s.dev a.1).state = 3 ∧ (dray s.dev a.1).recent.length = 3 ∧
    16 ≤ s.dev.working.length ∧ s.dev.eng.below = false
  parts := [.eng, .hlt, .nvm, .rcd, .diag, .can]
  objs _ x := eventObjs x || among [0x240002, 0x310004] x
  post a s d := onlyDray a.1 s.dev d ∧ (dray d a.1).state = 2 ∧ d.bit 0x240002 a.1 = true ∧
    storeGet d.nvm.kept 0x240002 = storeGet d.obj 0x240002

/-- R188: the selected dray is to be tested at the next start-up. -/
abbrev drayRetestWrite : Rule (Fin 64) where
  cmd _ c := c = .drayRetestWrite .host 1
  pre a s := HostMay s 0x240207 (.num 1) ∧ s.dev.nat 0x240201 = a
  parts := [.jrn, .eng]
  objs _ := among [0x110003]
  post a s d := HostTook s d 3 (.write 0x240207 (.num 1)) ∧ d.eng = { s.dev.eng with retest := s.dev.eng.retest ++ [a] }

/-! ### The valve drive -/

/-- R198, Table 8.3: a switch-on of a driven, switched channel on a battery bank that is off starts a peak from the battery
at its tick. -/
abbrev channelSwitchOn : Rule (Fin 32 × Nat) where
  cmd a c := c = .channelSwitchOn a.1 a.2
  pre a s := s.due a.2 (· = .valveOn a.1) = true ∧ s.undue a.2 (· = .valveOff a.1) = true ∧
    s.dev.driven a.1 = true ∧ s.dev.flag (outletAdr a.1 0x35) = false ∧ s.dev.nat (bankAdr (bankOf a.1) 1) = 0 ∧
    (chan s.dev a.1).mode = .off
  parts := [.valve, .pd]
  objs _ := among []
  post a s d := d.out = [] ∧ onlyChannel a.1 s.dev d ∧ d.valve.boost = s.dev.valve.boost ∧
    (chan d a.1).mode = .peak ∧ (chan d a.1).on = true ∧ (chan d a.1).start = s.chainAt a.2 ∧
    (chan d a.1).arrival = none ∧ (chan d a.1).fallback = false ∧ (chan d a.1).onEnd = none ∧
    (∀ b : Fin 4, (bank d b).boostPeak = (bank s.dev b).boostPeak ∧ (bank d b).waits = (bank s.dev b).waits) ∧
    d.pd = { s.dev.pd with commands := d.pd.commands }

/-- R192, R202, Table 8.3: on a boost bank whose boost is ready the peak comes from boost where no boost peak of the bank
runs. -/
abbrev channelSwitchOnBoost : Rule (Fin 32 × Nat) where
  cmd a c := c = .channelSwitchOn a.1 a.2
  pre a s := s.due a.2 (· = .valveOn a.1) = true ∧ s.undue a.2 (· = .valveOff a.1) = true ∧
    s.dev.driven a.1 = true ∧ s.dev.flag (outletAdr a.1 0x35) = false ∧ s.dev.nat (bankAdr (bankOf a.1) 1) = 1 ∧
    s.dev.boostReady = true ∧ (bank s.dev (bankOf a.1)).boostPeak = none ∧ (chan s.dev a.1).mode = .off
  parts := [.valve, .pd]
  objs _ := among []
  post a s d := onlyChannel a.1 s.dev d ∧ onlyBank (bankOf a.1) s.dev d ∧ (chan d a.1).mode = .peak ∧
    (chan d a.1).start = s.chainAt a.2 ∧ (chan d a.1).fallback = false ∧
    (bank d (bankOf a.1)).boostPeak = some a.1 ∧
    d.pd = { s.dev.pd with commands := d.pd.commands }

/-- R202, Table 8.3: where another boost peak of the bank runs, the channel joins the end of the bank's wait list and the
wait is counted. -/
abbrev channelSwitchOnWaits : Rule (Fin 32 × Nat) where
  cmd a c := c = .channelSwitchOn a.1 a.2
  pre a s := s.due a.2 (· = .valveOn a.1) = true ∧ s.undue a.2 (· = .valveOff a.1) = true ∧
    s.dev.driven a.1 = true ∧ s.dev.flag (outletAdr a.1 0x35) = false ∧ s.dev.nat (bankAdr (bankOf a.1) 1) = 1 ∧
    s.dev.boostReady = true ∧ (bank s.dev (bankOf a.1)).boostPeak.isSome = true ∧ (chan s.dev a.1).mode = .off
  parts := [.valve, .pd]
  objs a := among [bankAdr (bankOf a.1) 0x19]
  post a s d := onlyChannel a.1 s.dev d ∧ onlyBank (bankOf a.1) s.dev d ∧ (chan d a.1).mode = .waiting ∧
    (chan d a.1).waitSince = s.chainAt a.2 ∧
    (bank d (bankOf a.1)).waits = (bank s.dev (bankOf a.1)).waits ++ [a.1] ∧
    d.int (bankAdr (bankOf a.1) 0x19) = (s.dev.int (bankAdr (bankOf a.1) 0x19) + 1) % 2 ^ 32 ∧
    d.pd = { s.dev.pd with commands := d.pd.commands }

/-- R196: where boost is not ready and the bank's action is battery fallback, the peak starts at once from the battery with
the fallback flag, and the event is counted. -/
abbrev channelSwitchOnFallback : Rule (Fin 32 × Nat) where
  cmd a c := c = .channelSwitchOn a.1 a.2
  pre a s := s.due a.2 (· = .valveOn a.1) = true ∧ s.undue a.2 (· = .valveOff a.1) = true ∧
    s.dev.driven a.1 = true ∧ s.dev.flag (outletAdr a.1 0x35) = false ∧ s.dev.nat (bankAdr (bankOf a.1) 1) = 1 ∧
    s.dev.boostReady = false ∧ (bank s.dev (bankOf a.1)).boostPeak = none ∧ s.dev.nat (bankAdr (bankOf a.1) 5) = 0 ∧ (chan s.dev a.1).mode = .off
  parts := [.valve, .pd]
  objs _ := among [0x250808]
  post a s d := onlyChannel a.1 s.dev d ∧ onlyBank (bankOf a.1) s.dev d ∧ (chan d a.1).mode = .peak ∧
    (chan d a.1).fallback = true ∧ d.int 0x250808 = (s.dev.int 0x250808 + 1) % 2 ^ 32 ∧
    d.pd = { s.dev.pd with commands := d.pd.commands }

/-- R198 step 4: a switch-off of a channel in hold on a battery bank releases it at its tick. -/
abbrev channelSwitchOff : Rule (Fin 32 × Nat) where
  cmd a c := c = .channelSwitchOff a.1 a.2
  pre a s := s.due a.2 (· = .valveOff a.1) = true ∧ (chan s.dev a.1).mode = .hold ∧ (bank s.dev (bankOf a.1)).boostPeak ≠ some a.1
  parts := [.valve, .pd]
  objs _ := among []
  post a s d := d.out = [] ∧ onlyChannel a.1 s.dev d ∧ d.valve.banks = s.dev.valve.banks ∧ d.valve.boost = s.dev.valve.boost ∧
    (chan d a.1).mode = .release ∧ ((chan d a.1).freewheel = true ↔ s.dev.nat (outletAdr a.1 0x34) = 1) ∧
    (chan d a.1).slot = false ∧ (chan d a.1).on = false ∧
    (chan d a.1).releaseStart = s.chainAt a.2 ∧
    d.pd = { s.dev.pd with commands := d.pd.commands }

/-- Table 8.3: a switch-off of a waiting channel takes it off the wait list. -/
abbrev channelSwitchOffWaiting : Rule (Fin 32 × Nat) where
  cmd a c := c = .channelSwitchOff a.1 a.2
  pre a s := s.due a.2 (· = .valveOff a.1) = true ∧ (chan s.dev a.1).mode = .waiting
  parts := [.valve, .pd]
  objs _ := among []
  post a s d := d.out = [] ∧ onlyChannel a.1 s.dev d ∧ onlyBank (bankOf a.1) s.dev d ∧ (chan d a.1).mode = .off ∧
    a.1 ∉ (bank d (bankOf a.1)).waits ∧
    d.pd = { s.dev.pd with commands := d.pd.commands }

/-- R206: at a slot start of a nozzle that is on and off in its slot, a pulse begins, to end after the duty's share of the
period. -/
abbrev pwmSlotStart : Rule (Fin 32 × Nat) where
  cmd a c := c = .pwmSlotStart a.1 a.2
  pre a s := s.undue a.2 (ofChannel a.1) = true ∧ s.dev.driven a.1 = true ∧ s.dev.nozzlePwm a.1 = true ∧ s.dev.nat (bankAdr (bankOf a.1) 1) = 0 ∧
    (chan s.dev a.1).on = true ∧ (chan s.dev a.1).mode = .off ∧ 0 < (chan s.dev a.1).duty ∧
    (chan s.dev a.1).duty < 10000 ∧ s.dev.slotStart a.1 (s.chainAt a.2) = s.chainAt a.2
  parts := [.valve, .pd]
  objs _ := among []
  post a s d := d.out = [] ∧ onlyChannel a.1 s.dev d ∧ (chan d a.1).mode = .peak ∧
    (chan d a.1).start = s.chainAt a.2 ∧ (chan d a.1).slot = true ∧
    (chan d a.1).onEnd = some (s.chainAt a.2 + (chan s.dev a.1).duty * s.dev.slotPeriod a.1 / 10000) ∧
    d.pd = { s.dev.pd with commands := d.pd.commands }

/-- R206, Table 8.3: a slot start in hold extends the pulse without a new peak, to no earlier an end than it had. -/
abbrev pwmSlotExtends : Rule (Fin 32 × Nat × Nat) where
  cmd a c := c = .pwmSlotStart a.1 a.2.2
  pre a s := s.undue a.2.2 (ofChannel a.1) = true ∧ s.dev.driven a.1 = true ∧ s.dev.nozzlePwm a.1 = true ∧
    (chan s.dev a.1).on = true ∧ (chan s.dev a.1).mode = .hold ∧ 0 < (chan s.dev a.1).duty ∧
    (chan s.dev a.1).duty < 10000 ∧ s.dev.slotStart a.1 (s.chainAt a.2.2) = s.chainAt a.2.2 ∧ (chan s.dev a.1).onEnd = some a.2.1
  parts := [.valve, .pd]
  objs _ := among []
  post a s d := d.out = [] ∧ onlyChannel a.1 s.dev d ∧ d.valve.banks = s.dev.valve.banks ∧
    chan d a.1 = { chan s.dev a.1 with
      onEnd := some (max a.2.1 (s.chainAt a.2.2 + (chan s.dev a.1).duty * s.dev.slotPeriod a.1 / 10000)) } ∧
    d.pd = { s.dev.pd with commands := d.pd.commands }

/-- R206: a rate edge outside a pulse takes effect from the next slot start: only the duty changes. -/
abbrev valveRateEdge : Rule (Fin 32 × Nat × Nat) where
  cmd a c := c = .valveRateEdge a.1 a.2.1 a.2.2
  pre a s := s.due a.2.2 (· = .valveRate a.1 a.2.1) = true ∧
    s.dev.driven a.1 = true ∧ (chan s.dev a.1).onEnd = none ∧ (chan s.dev a.1).mode = .off
  parts := [.valve, .pd]
  objs _ := among []
  post a s d := d.out = [] ∧ d.valve.banks = s.dev.valve.banks ∧ onlyChannel a.1 s.dev d ∧
    chan d a.1 = { chan s.dev a.1 with duty := a.2.1 } ∧
    d.pd = { s.dev.pd with commands := d.pd.commands }

/-- R206: the on-time of a pulse in hold ends: the channel releases. -/
abbrev endOfOnTime : Rule (Fin 32 × Nat) where
  cmd a c := c = .endOfOnTime a.1 a.2
  pre a s := s.undue a.2 (ofChannel a.1) = true ∧ (chan s.dev a.1).mode = .hold ∧ ((chan s.dev a.1).onEnd.any fun e => decide (e ≤ s.chainAt a.2)) = true ∧
    (bank s.dev (bankOf a.1)).boostPeak ≠ some a.1
  parts := [.valve, .pd]
  objs _ := among []
  post a s d := d.out = [] ∧ onlyChannel a.1 s.dev d ∧ d.valve.banks = s.dev.valve.banks ∧
    chan d a.1 = { chan s.dev a.1 with mode := .release, slot := true, freewheel := decide (s.dev.nat (outletAdr a.1 0x34) = 1), releaseStart := s.chainAt a.2, onEnd := none } ∧
    d.pd = { s.dev.pd with commands := d.pd.commands }

/-- R206: still in peak at the end of its on-time, the channel releases and the pulse carries the short-pulse flag. -/
abbrev endOfOnTimeShort : Rule (Fin 32 × Nat) where
  cmd a c := c = .endOfOnTime a.1 a.2
  pre a s := s.undue a.2 (ofChannel a.1) = true ∧ (chan s.dev a.1).mode = .peak ∧ ((chan s.dev a.1).onEnd.any fun e => decide (e ≤ s.chainAt a.2)) = true ∧
    (bank s.dev (bankOf a.1)).boostPeak ≠ some a.1
  parts := [.valve, .pd]
  objs _ := among []
  post a s d := onlyChannel a.1 s.dev d ∧ (chan d a.1).mode = .release ∧ (chan d a.1).shortPulse = true ∧
    d.pd = { s.dev.pd with commands := d.pd.commands }

/-- R208, R209: the arrival kink of a peak is stamped to 1 µs and reported with the actual start. -/
abbrev arrivalKink : Rule (Fin 32 × Int × Nat) where
  cmd a c := c = .arrivalKink a.1 a.2.1 a.2.2
  pre a s := (chan s.dev a.1).mode = .peak ∧ (chan s.dev a.1).arrival = none
  parts := [.valve]
  objs _ := among []
  post a s d := onlyChannel a.1 s.dev d ∧ chan d a.1 = { chan s.dev a.1 with arrival := some (kinkStamp a.2.1) } ∧
    d.out = [.kink ⟨a.1, .arrival, (chan s.dev a.1).start, some (kinkStamp a.2.1), (chan s.dev a.1).fallback,
      (chan s.dev a.1).waited, (chan s.dev a.1).noArrival, (chan s.dev a.1).slot,
      (chan s.dev a.1).reStrike, (chan s.dev a.1).withheld⟩]

/-- R198 step 2, R215: the peak ends at the arrival kink plus the peak tail, and the hold runs at the hold current in force. -/
abbrev endOfPeak : Rule (Fin 32 × Int × Nat) where
  cmd a c := c = .endOfPeak a.1 a.2.2
  pre a s := s.undue a.2.2 (ofChannel a.1) = true ∧ (chan s.dev a.1).mode = .peak ∧ (chan s.dev a.1).arrival = some a.2.1 ∧
    a.2.1 + 1000 * (chan s.dev a.1).peakTail ≤ s.chainAt a.2.2 ∧ s.dev.openLoop a.1 = false ∧ (bank s.dev (bankOf a.1)).boostPeak ≠ some a.1
  parts := [.valve, .pd]
  objs _ := among []
  post a s d := d.out = [] ∧ onlyChannel a.1 s.dev d ∧ d.valve.banks = s.dev.valve.banks ∧
    chan d a.1 = { chan s.dev a.1 with mode := .hold, holdCurrent := s.dev.holdInForce a.1, noArrival := false } ∧
    d.pd = { s.dev.pd with commands := d.pd.commands }

/-- R198 step 2: without an arrival kink the peak ends at the peak time limit, with the no-arrival flag; the missing kink
is reported (R209). -/
abbrev endOfPeakLimit : Rule (Fin 32 × Nat) where
  cmd a c := c = .endOfPeak a.1 a.2
  pre a s := s.undue a.2 (ofChannel a.1) = true ∧ (chan s.dev a.1).mode = .peak ∧ (chan s.dev a.1).arrival = none ∧
    (chan s.dev a.1).start + 1000 * (chan s.dev a.1).peakLimit ≤ s.chainAt a.2 ∧
    (bank s.dev (bankOf a.1)).boostPeak ≠ some a.1
  parts := [.valve, .pd]
  objs _ := among []
  post a s d := onlyChannel a.1 s.dev d ∧ chan d a.1 = { chan s.dev a.1 with mode := .hold, holdCurrent := s.dev.holdInForce a.1, noArrival := true } ∧
    d.out.length = 1 ∧
    d.pd = { s.dev.pd with commands := d.pd.commands }

/-- R213: open-loop the peak lasts for the learned electrical on part plus the peak tail, whether or not a kink is found. -/
abbrev endOfPeakOpenLoop : Rule (Fin 32 × Nat) where
  cmd a c := c = .endOfPeak a.1 a.2
  pre a s := s.undue a.2 (ofChannel a.1) = true ∧ (chan s.dev a.1).mode = .peak ∧ s.dev.openLoop a.1 = true ∧
    (chan s.dev a.1).start + 1000 * (s.dev.nat (outletAdr a.1 0x22) + (chan s.dev a.1).peakTail) ≤ s.chainAt a.2 ∧
    (bank s.dev (bankOf a.1)).boostPeak ≠ some a.1
  parts := [.valve, .pd]
  objs _ := among []
  post a s d := onlyChannel a.1 s.dev d ∧ d.valve.banks = s.dev.valve.banks ∧ (chan d a.1).mode = .hold ∧
    d.pd = { s.dev.pd with commands := d.pd.commands }

/-- R202, R204, Table 8.3: a wait that has reached the channel's peak time limit is a missed switch-on, which is reported. -/
abbrev waitLimit : Rule (Fin 32 × Nat) where
  cmd a c := c = .waitLimit a.1 a.2
  pre a s := (chan s.dev a.1).mode = .waiting ∧
    (chan s.dev a.1).waitSince + 1000 * (chan s.dev a.1).peakLimit ≤ s.chainAt a.2
  parts := [.valve]
  objs _ := among []
  post a s d := onlyChannel a.1 s.dev d ∧ onlyBank (bankOf a.1) s.dev d ∧ (chan d a.1).mode = .off ∧ (chan d a.1).on = false ∧
    (chan d a.1).missed = true ∧ a.1 ∉ (bank d (bankOf a.1)).waits ∧ d.out = [.missed a.1 (s.chainAt a.2)]

/-- R208, R209: the release kink is stamped and reported with the actual start of the release. -/
abbrev releaseKink : Rule (Fin 32 × Int × Nat) where
  cmd a c := c = .releaseKink a.1 a.2.1 a.2.2
  pre a s := (chan s.dev a.1).mode = .release ∧ (chan s.dev a.1).releaseKink = none
  parts := [.valve]
  objs _ := among []
  post a s d := onlyChannel a.1 s.dev d ∧ chan d a.1 = { chan s.dev a.1 with releaseKink := some (kinkStamp a.2.1) } ∧
    d.out = [.kink ⟨a.1, .release, (chan s.dev a.1).releaseStart, some (kinkStamp a.2.1), (chan s.dev a.1).fallback,
      (chan s.dev a.1).waited, (chan s.dev a.1).noArrival, (chan s.dev a.1).slot,
      (chan s.dev a.1).reStrike, (chan s.dev a.1).withheld⟩]

/-- R198 step 4, Table 8.3: release ends once the release kink window has closed, and the channel is off. -/
abbrev releaseEnd : Rule (Fin 32 × Nat) where
  cmd a c := c = .releaseEnd a.1 a.2
  pre a s := (chan s.dev a.1).mode = .release ∧ (chan s.dev a.1).releaseKink.isSome = true ∧
    (chan s.dev a.1).supplyOn = false ∧
    (chan s.dev a.1).releaseStart + 2000 * s.dev.nat (outletAdr a.1 0x21) ≤ s.chainAt a.2
  parts := [.valve]
  objs _ := among []
  post a s d := d.out = [] ∧ onlyChannel a.1 s.dev d ∧ d.valve.banks = s.dev.valve.banks ∧ (chan d a.1).mode = .off

/-- R211, Table 8.9: a driven channel in hold trips on a short to supply: low-side off, tripped, with back-offs of 10 ms, 100 ms
and 1 s before the 2nd, 3rd and 4th attempts; the detection raises an event. -/
abbrev overcurrentTrip : Rule (Fin 32 × Nat) where
  cmd a c := c = .overcurrentTrip a.1 a.2
  pre a s := s.dev.driven a.1 = true ∧ (chan s.dev a.1).mode = .hold ∧ (chan s.dev a.1).trips < 3 ∧
    (bank s.dev (bankOf a.1)).boostPeak ≠ some a.1
  parts := [.valve, .hlt, .rcd, .diag, .can]
  objs a x := eventObjs x || among [outletAdr a.1 0x3F] x
  post a s d := onlyChannel a.1 s.dev d ∧ (chan d a.1).mode = .tripped ∧
    (chan d a.1).trips = (chan s.dev a.1).trips + 1 ∧
    (chan d a.1).backOff = s.chainAt a.2 +
      (match (chan s.dev a.1).trips with | 0 => 10000000 | 1 => 100000000 | _ => 1000000000) ∧
    d.int (outletAdr a.1 0x3F) = (s.dev.int (outletAdr a.1 0x3F) + 1) % 2 ^ 32

/-- R211, Table 8.3: the fourth consecutive trip retires the channel, in the retired channel map for good. -/
abbrev overcurrentRetires : Rule (Fin 32 × Nat) where
  cmd a c := c = .overcurrentTrip a.1 a.2
  pre a s := s.dev.driven a.1 = true ∧ (chan s.dev a.1).mode = .hold ∧ (chan s.dev a.1).trips = 3 ∧
    (bank s.dev (bankOf a.1)).boostPeak ≠ some a.1
  parts := [.valve, .hlt, .rcd, .diag, .can]
  objs a x := eventObjs x || among [outletAdr a.1 0x3F, 0x250006] x
  post a s d := onlyChannel a.1 s.dev d ∧ (chan d a.1).mode = .retired ∧ (chan d a.1).on = false ∧
    d.bit 0x250006 a.1 = true

/-- Table 8.3: the back-off has run and the channel is off, ready for its next attempt. -/
abbrev channelBackOffEnd : Rule (Fin 32 × Nat) where
  cmd a c := c = .channelBackOffEnd a.1 a.2
  pre a s := (chan s.dev a.1).mode = .tripped ∧ (chan s.dev a.1).backOff ≤ s.chainAt a.2
  parts := [.valve]
  objs _ := among []
  post a s d := d.out = [] ∧ onlyChannel a.1 s.dev d ∧ d.valve.banks = s.dev.valve.banks ∧
    chan d a.1 = { chan s.dev a.1 with mode := .off }

/-- R211, Table 8.9: the third open-load detection in a row of a pulse is an outlet fault. -/
abbrev onStateDiagnostic : Rule (Fin 32 × Nat) where
  cmd a c := c = .onStateDiagnostic a.1 .openLoad a.2
  pre a s := (chan s.dev a.1).mode = .hold ∧ (chan s.dev a.1).openRun = 2
  parts := [.valve]
  objs _ := among []
  post a s d := d.out = [] ∧ onlyChannel a.1 s.dev d ∧ d.valve.banks = s.dev.valve.banks ∧
    chan d a.1 = { chan s.dev a.1 with openRun := 3, cleanRun := 0, openOn := true, faultOpen := true }

/-- R211, Table 8.9: a short to ground found in a pulse is an outlet fault at the first detection, and raises an event;
with 0x2501:06 = 0 the bank goes on. -/
abbrev onStateGround : Rule (Fin 32 × Nat) where
  cmd a c := c = .onStateDiagnostic a.1 .shortGround a.2
  pre a s := (chan s.dev a.1).mode = .hold ∧ (chan s.dev a.1).faultGround = false ∧
    s.dev.nat (bankAdr (bankOf a.1) 6) = 0
  parts := [.valve, .hlt, .rcd, .diag, .can]
  objs _ := eventObjs
  post a s d := onlyChannel a.1 s.dev d ∧ d.valve.banks = s.dev.valve.banks ∧
    chan d a.1 = { chan s.dev a.1 with faultGround := true, groundOn := true, cleanOff := 0 }

/-- R211, Table 8.9: with 0x2501:06 = 1 the bank's common switches off and the bank's other outlets take outlet faults. -/
abbrev onStateGroundCommon : Rule (Fin 32 × Nat) where
  cmd a c := c = .onStateDiagnostic a.1 .shortGround a.2
  pre a s := (chan s.dev a.1).mode = .hold ∧ s.dev.nat (bankAdr (bankOf a.1) 6) = 1
  parts := [.valve, .hlt, .rcd, .diag, .can]
  objs _ := eventObjs
  post a s d := onlyBank (bankOf a.1) s.dev d ∧ (bank d (bankOf a.1)).powered = false ∧
    (bank d (bankOf a.1)).groundOff = true ∧
    (∀ k : Fin 32, bankOf k = bankOf a.1 → k ≠ a.1 → (chan d k).faultBank = true) ∧
    (∀ k : Fin 32, bankOf k ≠ bankOf a.1 → chan d k = chan s.dev k)

/-- R210, Table 8.9: an off-state test of a driven channel that is off, with its common powered for 10 ms and no switch-on
within 1 ms, that finds an open load for the third time in a row: an outlet fault. -/
abbrev offStateTest : Rule (Fin 32 × Nat) where
  cmd a c := c = .offStateTest a.1 ⟨true, false, false⟩ a.2
  pre a s := s.dev.driven a.1 = true ∧ s.dev.pd.commands = [] ∧ (chan s.dev a.1).mode = .off ∧
    (bank s.dev (bankOf a.1)).powered = true ∧ (bank s.dev (bankOf a.1)).poweredAt + 10000000 ≤ s.chainAt a.2 ∧
    s.dev.flag 0x250003 = true ∧ (chan s.dev a.1).openRun = 2 ∧ (chan s.dev a.1).supplyOff = false ∧
    (chan s.dev a.1).faultGround = false ∧ s.dev.testedLately a.1 = false ∧ (chan s.dev a.1).testedAt = none
  parts := [.valve]
  objs _ := among []
  post a s d := d.out = [] ∧ onlyChannel a.1 s.dev d ∧ d.valve.banks = s.dev.valve.banks ∧
    (chan d a.1).faultOpen = true ∧ (chan d a.1).openOff = true ∧
    (chan d a.1).notTested = false ∧ (chan d a.1).trips = 0

/-- R210: with its common unpowered the channel reports not tested. -/
abbrev offStateNotTested : Rule (Fin 32 × OffTest × Nat) where
  cmd a c := c = .offStateTest a.1 a.2.1 a.2.2
  pre a s := s.dev.driven a.1 = true ∧ s.dev.pd.commands = [] ∧ (chan s.dev a.1).mode = .off ∧
    (bank s.dev (bankOf a.1)).powered = false ∧ (bank s.dev (bankOf a.1)).groundOff = false ∧
    (chan s.dev a.1).testedAt = none
  parts := [.valve]
  objs _ := among []
  post a s d := d.out = [] ∧ onlyChannel a.1 s.dev d ∧ chan d a.1 = { chan s.dev a.1 with notTested := true }

/-- R210: within the test period of the last test the channel takes none. -/
abbrev offStateTestEarly : Rule (Fin 32 × OffTest × Nat × Nat) where
  cmd a c := c = .offStateTest a.1 a.2.1 a.2.2.2
  pre a s := (chan s.dev a.1).mode = .off ∧ (chan s.dev a.1).testedAt = some a.2.2.1 ∧
    s.nowAt a.2.2.2 < a.2.2.1 + 1000 * s.dev.nat 0x250002
  parts := []
  objs _ := among []
  post _ _ d := d.out = []

/-- R200: the hold-unreachable flag of a channel in hold. -/
abbrev holdUnreachable : Rule (Fin 32 × Nat) where
  cmd a c := c = .holdUnreachable a.1 a.2
  pre a s := (chan s.dev a.1).mode = .hold
  parts := [.valve]
  objs _ := among []
  post a s d := d.out = [] ∧ onlyChannel a.1 s.dev d ∧ chan d a.1 = { chan s.dev a.1 with unreachable := true }

/-- R211, Table 8.9: a common in limit for 100 ms is off for 1 s. -/
abbrev commonCurrentLimit : Rule (Fin 4 × Nat) where
  cmd a c := c = .commonCurrentLimit a.1 a.2
  pre a s := (bank s.dev a.1).powered = true ∧ (bank s.dev a.1).limits = []
  parts := [.valve, .hlt, .rcd, .diag, .can]
  objs _ := eventObjs
  post a s d := onlyBank a.1 s.dev d ∧ d.valve.channels = s.dev.valve.channels ∧ (bank d a.1).powered = false ∧
    (bank d a.1).offUntil = some (s.nowAt a.2 + 1000000000)

/-- R211, Table 8.9: the third such event in 60 s retires every channel of the bank. -/
abbrev commonLimitRetires : Rule (Fin 4 × Nat) where
  cmd a c := c = .commonCurrentLimit a.1 a.2
  pre a s := (bank s.dev a.1).powered = true ∧ (bank s.dev a.1).limits.length = 2 ∧
    ((bank s.dev a.1).limits.all fun x => decide (s.nowAt a.2 < x + 60000000000)) = true
  parts := [.valve, .hlt, .rcd, .diag, .can]
  objs _ x := eventObjs x || among [0x250006] x
  post a s d := onlyBank a.1 s.dev d ∧ (bank d a.1).powered = false ∧
    (∀ k : Fin 32, bankOf k = a.1 → (chan d k).mode = .retired ∧ d.bit 0x250006 k = true) ∧
    (∀ k : Fin 32, bankOf k ≠ a.1 → chan d k = chan s.dev k)

/-- R211, Table 8.9: after 1 s the common of a bank in use is powered again, while the power die is armed. -/
abbrev commonRestore : Rule (Fin 4 × Nat) where
  cmd a c := c = .commonRestore a.1 a.2
  pre a s := ((bank s.dev a.1).offUntil.any fun u => decide (u ≤ s.nowAt a.2)) = true ∧ s.dev.pd.armed = true ∧
    s.dev.bankInUse a.1 = true ∧ (bank s.dev a.1).groundOff = false
  parts := [.valve, .rcd, .diag, .can]
  objs _ := eventObjs
  post a s d := onlyBank a.1 s.dev d ∧ d.valve.channels = s.dev.valve.channels ∧ (bank d a.1).powered = true ∧
    (bank d a.1).offUntil = none ∧ (bank d a.1).poweredAt = s.chainAt a.2

/-- R207, R212: a window whose three figures agree shows the pattern normal; the sense trim, the shunt current divided by the
mirror sum, stays at 1.0. -/
abbrev senseWindow : Rule (Fin 4 × Nat × Nat) where
  cmd a c := c = .senseWindow a.1 ⟨a.2.1, a.2.1, 0, #v[a.2.1, 0, 0, 0, 0, 0, 0, 0]⟩ a.2.2
  pre a s := s.dev.pd.armed = true ∧ 500 ≤ a.2.1 ∧ a.2.1 < 65536 ∧ (bank s.dev a.1).pattern ≠ 0 ∧
    s.dev.nat (bankAdr a.1 0x17) = 65536 ∧ s.dev.mirrorCurrent a.1 ⟨a.2.1, a.2.1, 0, #v[a.2.1, 0, 0, 0, 0, 0, 0, 0]⟩ = a.2.1
  parts := [.valve]
  objs a := among [bankAdr a.1 0x14, bankAdr a.1 0x15, bankAdr a.1 0x16, bankAdr a.1 0x17]
  post a s d := d.out = [] ∧ onlyBank a.1 s.dev d ∧ d.valve.channels = s.dev.valve.channels ∧ (bank d a.1).pattern = 0 ∧
    (bank d a.1).run = 1 ∧ d.int (bankAdr a.1 0x17) = 65536 ∧ d.int (bankAdr a.1 0x15) = a.2.1

/-- R212, R213, Table 8.10: the tenth window in a row in which the shunt alone disagrees: the bank enters sense-degraded
operation. -/
abbrev senseDegraded : Rule (Fin 4 × Nat) where
  cmd a c := c = .senseWindow a.1 ⟨2000, 800, 200, #v[600, 400, 0, 0, 0, 0, 0, 0]⟩ a.2
  pre a s := s.dev.pd.armed = true ∧ (bank s.dev a.1).pattern = 1 ∧ (bank s.dev a.1).run = 9 ∧
    (bank s.dev a.1).degraded = false ∧ (∀ k : Fin 32, (chan s.dev k).faultGround = false)
  parts := [.valve, .hlt, .rcd, .diag, .can]
  objs a x := eventObjs x || among [bankAdr a.1 0x14, bankAdr a.1 0x15, bankAdr a.1 0x16, bankAdr a.1 0x17] x
  post a s d := onlyBank a.1 s.dev d ∧ d.valve.channels = s.dev.valve.channels ∧ (bank d a.1).degraded = true

/-- R212, R213, Table 8.10: the tenth window in a row in which one mirror disagrees, with that channel conducting alone: the
channel is marked sense-faulted, and runs open-loop. -/
abbrev senseFaulted : Rule (Fin 4 × Nat) where
  cmd a c := c = .senseWindow a.1 ⟨1000, 1000, 0, #v[0, 0, 500, 0, 0, 0, 0, 0]⟩ a.2
  pre a s := s.dev.pd.armed = true ∧ (bank s.dev a.1).pattern = 2 ∧ (bank s.dev a.1).run = 9 ∧
    (∀ k : Fin 32, (chan s.dev k).faultGround = false)
  parts := [.valve]
  objs a := among [bankAdr a.1 0x14, bankAdr a.1 0x15, bankAdr a.1 0x16, bankAdr a.1 0x17]
  post a s d := d.out = [] ∧ onlyBank a.1 s.dev d ∧
    (∀ k : Fin 32, chan d k = if k.val = 8 * a.1.val + 2 then { chan s.dev k with senseFault := true } else chan s.dev k)

/-- R493: the host writes a retired channel's number to 0x2500:07, and its next off-state test is the return test; the
channel stays retired until then. -/
abbrev channelReturnWrite : Rule (Fin 32) where
  cmd a c := c = .channelReturnWrite .host a.val
  pre a s := HostMay s 0x250007 (.num a.val) ∧ (chan s.dev a).mode = .retired
  parts := [.valve, .jrn]
  objs _ := among [0x110003]
  post a s d := onlyChannel a s.dev d ∧ d.valve.banks = s.dev.valve.banks ∧
    chan d a = { chan s.dev a with returning := true, testDue := false } ∧
    HostTook s d 3 (.write 0x250007 (.num a.val))

/-- R493: the return test, due at the first boundary after the write at which it may run, finds no fault: the channel returns to service, out of the retired map. -/
abbrev channelReturns : Rule (Fin 32 × Nat) where
  cmd a c := c = .offStateTest a.1 ⟨false, false, false⟩ a.2
  pre a s := s.dev.driven a.1 = true ∧ s.dev.pd.commands = [] ∧ (chan s.dev a.1).mode = .retired ∧
    (chan s.dev a.1).testDue = true ∧ (bank s.dev (bankOf a.1)).powered = true
  parts := [.valve, .rcd, .diag, .can]
  objs _ x := eventObjs x || among [0x250006] x
  post a s d := onlyChannel a.1 s.dev d ∧ (chan d a.1).mode = .off ∧ (chan d a.1).returning = false ∧
    d.bit 0x250006 a.1 = false

/-- R197: not ready 100 ms after a start: the converter restarts after 1 s. -/
abbrev boostStartTimeout : Rule Nat where
  cmd t c := c = .boostStartTimeout t
  pre t s := s.dev.valve.boost.state = 1 ∧ s.dev.valve.boost.startedAt + 100000000 ≤ s.nowAt t ∧ s.dev.valve.boost.restarts < 3
  parts := [.valve, .hlt]
  objs _ := among []
  post t s d := d.out = [] ∧ d.valve.channels = s.dev.valve.channels ∧ d.valve.banks = s.dev.valve.banks ∧
    d.valve.boost = { s.dev.valve.boost with state := 0, restartAt := some (s.nowAt t + 1000000000) }

/-- R196, R197: with the converter retired the channel that waits on a bank starts from the battery, with the fallback flag. -/
abbrev boostRetiredStarts : Rule (Fin 32 × Nat) where
  cmd a c := c = .boostStartTimeout a.2
  pre a s := s.dev.valve.boost.state = 1 ∧ s.dev.valve.boost.startedAt + 100000000 ≤ s.nowAt a.2 ∧ s.dev.valve.boost.restarts = 3 ∧
    (∀ b : Fin 4, (bank s.dev b).waits = if b = bankOf a.1 then [a.1] else []) ∧
    (bank s.dev (bankOf a.1)).boostPeak = none
  parts := [.valve, .hlt, .rcd, .diag, .can]
  objs _ x := eventObjs x || among [0x250808, 0x210205] x
  post a s d := onlyChannel a.1 s.dev d ∧ onlyBank (bankOf a.1) s.dev d ∧ (bank d (bankOf a.1)).waits = [] ∧
    (chan d a.1).mode = .peak ∧ (chan d a.1).start = s.chainAt a.2 ∧ (chan d a.1).fallback = true ∧ (chan d a.1).waited = true

/-- R197: after 3 failed restarts it is retired, and the device raises a boost-failed event. -/
abbrev boostRetired : Rule Nat where
  cmd t c := c = .boostStartTimeout t
  pre t s := s.dev.valve.boost.state = 1 ∧ s.dev.valve.boost.startedAt + 100000000 ≤ s.nowAt t ∧ s.dev.valve.boost.restarts = 3 ∧
    (∀ b : Fin 4, (bank s.dev b).waits = [])
  parts := [.valve, .hlt, .rcd, .diag, .can]
  objs _ := eventObjs
  post _ s d := d.valve.channels = s.dev.valve.channels ∧ d.valve.banks = s.dev.valve.banks ∧ d.valve.boost.state = 5 ∧
    d.valve.boost.restartAt = none

/-- R195, R197: after its 1 s the enabled converter starts again with its soft start. -/
abbrev boostRestart : Rule Nat where
  cmd t c := c = .boostRestart t
  pre t s := (s.dev.valve.boost.restartAt.any fun r => decide (r ≤ s.nowAt t)) = true ∧ s.dev.flag 0x250801 = true ∧
    s.dev.flag 0x250001 = true ∧ s.dev.pd.armed = true ∧ s.dev.valve.boost.state = 0
  parts := [.valve]
  objs _ := among []
  post t s d := d.out = [] ∧ d.valve.channels = s.dev.valve.channels ∧ d.valve.banks = s.dev.valve.banks ∧
    d.valve.boost.state = 1 ∧ d.valve.boost.startedAt = s.nowAt t ∧ d.valve.boost.restarts = s.dev.valve.boost.restarts + 1

/-- R196: VBST below VBAT1 + 1 V during a boost peak: the battery takes over, the peak goes on with the fallback flag, and
the event is counted. -/
abbrev boostFallback : Rule (Fin 32 × Nat × Nat) where
  cmd a c := c = .boostFallback a.2.1 a.2.2
  pre a s := a.2.1 < s.dev.pd.v1 + 1000 ∧ (∀ b : Fin 4, (bank s.dev b).boostPeak =
    if b = bankOf a.1 then some a.1 else none) ∧
    (∀ b : Fin 4, (bank s.dev b).waits = [])
  parts := [.valve]
  objs _ := among [0x250808]
  post a s d := d.out = [] ∧ onlyChannel a.1 s.dev d ∧ onlyBank (bankOf a.1) s.dev d ∧
    chan d a.1 = { chan s.dev a.1 with fallback := true } ∧
    (bank d (bankOf a.1)).boostPeak = none ∧ d.int 0x250808 = (s.dev.int 0x250808 + 1) % 2 ^ 32

/-- R195: the converter stops switching when VBST exceeds its target by 10 % or 63 V. -/
abbrev boostOvervoltage : Rule (Nat × Nat) where
  cmd a c := c = .boostOvervoltage a.1 a.2
  pre a s := s.dev.valve.boost.state = 2 ∧ (11 * s.dev.nat 0x250802 < 10 * a.1 ∨ 63000 < a.1)
  parts := [.valve]
  objs _ := among []
  post a s d := d.out = [] ∧ d.valve = { s.dev.valve with boost := { s.dev.valve.boost with state := 4, vbst := a.1 } }

/-- R195: VBST at the ready share of the target: boost is ready. -/
abbrev boostReadyRule : Rule (Nat × Nat) where
  cmd a c := c = .boostReady a.1 a.2
  pre a s := s.dev.valve.boost.state = 1 ∧ s.dev.nat 0x250802 * s.dev.nat 0x250805 ≤ 100 * a.1 ∧
    10 * a.1 ≤ 11 * s.dev.nat 0x250802 ∧ (∀ b : Fin 4, (bank s.dev b).waits = [])
  parts := [.valve]
  objs _ := among []
  post a s d := d.out = [] ∧ d.valve.channels = s.dev.valve.channels ∧ d.valve.banks = s.dev.valve.banks ∧ d.boostReady = true ∧
    d.valve.boost.vbst = a.1 ∧ d.valve.boost.restarts = 0

/-! ### The load switches and limp-home -/

/-- R221: the host writes the commanded mask 0x2600:04, and the per-switch objects 0x2610:08 follow it; the outputs do
not change yet. -/
abbrev loadSwitchCommandWrite : Rule (Fin 256) where
  cmd a c := c = .loadSwitchCommandWrite .host 0x260004 a.val
  pre a s := HostMay s 0x260004 (.num a.val)
  parts := [.jrn]
  objs _ x := among [0x110003, 0x260004] x || (List.finRange 8).any fun n => x = switchAdr n 8
  post a s d := d.int 0x260004 = a.val ∧ (∀ n : Fin 8, d.flag (switchAdr n 8) = a.val.testBit n) ∧
    HostTook s d 2 (.write 0x260004 (.num a.val))

/-- R221, R222: at the tick of its command a switched switch in use that is commanded on turns on. -/
abbrev loadSwitchCommand : Rule (Fin 8 × Nat) where
  cmd a c := c = .loadSwitchCommand a.1 a.2
  pre a s := s.due a.2 (· = .loadSwitch a.1 true) = true ∧ s.dev.switchInUse a.1 = true ∧ s.dev.pd.clockLost = false ∧
    s.dev.switchMode a.1 = 1 ∧ (swch s.dev a.1).latched = false ∧ (swch s.dev a.1).backOff = none ∧ (swch s.dev a.1).hot = false ∧ (swch s.dev a.1).cmd = false
  parts := [.lsw, .pd]
  objs _ := among []
  post a s d := d.out = [] ∧ onlySwitch a.1 s.dev d ∧
    swch d a.1 = { swch s.dev a.1 with cmd := true, on := true, onSince := s.nowAt a.2 }

/-- R221: commanded off, it turns off at its tick. -/
abbrev loadSwitchCommandOff : Rule (Fin 8 × Nat) where
  cmd a c := c = .loadSwitchCommand a.1 a.2
  pre a s := s.due a.2 (· = .loadSwitch a.1 false) = true ∧ s.due a.2 (· = .loadSwitch a.1 true) = false ∧
    s.dev.switchInUse a.1 = true ∧ s.dev.pd.clockLost = false
  parts := [.lsw, .pd]
  objs _ := among []
  post a s d := d.out = [] ∧ onlySwitch a.1 s.dev d ∧ (swch d a.1).on = false ∧ (swch d a.1).cmd = false ∧
    (swch d a.1).pulseEnd = none ∧ (swch d a.1).trips = (swch s.dev a.1).trips ∧
    (swch d a.1).backOff = (swch s.dev a.1).backOff

/-- R224: at the start of a period of its generator a pulsed switch that is commanded on switches on, to switch off after
its duty's share of the period. -/
abbrev pulsePeriodStart : Rule (Fin 8 × Nat) where
  cmd a c := c = .pulsePeriodStart a.1 a.2
  pre a s := s.dev.pd.clockLost = false ∧ s.dev.pulseStarts a.1 (s.chainAt a.2) = true ∧ s.dev.switchInUse a.1 = true ∧ s.dev.switchMode a.1 = 2 ∧
    (∀ n : Fin 8, s.dev.nat (switchAdr n 2) = n) ∧ (swch s.dev a.1).cmd = true ∧ (swch s.dev a.1).latched = false ∧
    (swch s.dev a.1).backOff = none ∧ (swch s.dev a.1).hot = false ∧ s.chainAt a.2 < s.dev.te ∧
    50000 ≤ 1000 * s.dev.nat (adr (0x2618 + a.1) 1) * (swch s.dev a.1).duty / 10000 ∧
    1000 * s.dev.nat (adr (0x2618 + a.1) 1) * (swch s.dev a.1).duty / 10000 + 50000 ≤ 1000 * s.dev.nat (adr (0x2618 + a.1) 1)
  parts := [.lsw]
  objs _ := among []
  post a s d := d.out = [] ∧ onlySwitch a.1 s.dev d ∧ (swch d a.1).on = true ∧
    (swch d a.1).pulseEnd = some (s.chainAt a.2 + 1000 * s.dev.nat (adr (0x2618 + a.1) 1) * (swch s.dev a.1).duty / 10000)

/-- Table 9.2: a share below 50 µs gives no pulse. -/
abbrev pulseTooShort : Rule (Fin 8 × Nat) where
  cmd a c := c = .pulsePeriodStart a.1 a.2
  pre a s := s.dev.pd.clockLost = false ∧ s.dev.pulseStarts a.1 (s.chainAt a.2) = true ∧ s.dev.switchInUse a.1 = true ∧ s.dev.switchMode a.1 = 2 ∧
    (∀ n : Fin 8, s.dev.nat (switchAdr n 2) = n) ∧ (swch s.dev a.1).cmd = true ∧ (swch s.dev a.1).latched = false ∧
    (swch s.dev a.1).backOff = none ∧ (swch s.dev a.1).hot = false ∧ s.chainAt a.2 < s.dev.te ∧
    1000 * s.dev.nat (adr (0x2618 + a.1) 1) * (swch s.dev a.1).duty / 10000 < 50000
  parts := [.lsw]
  objs _ := among []
  post a s d := d.out = [] ∧ onlySwitch a.1 s.dev d ∧ (swch d a.1).on = false ∧ (swch d a.1).pulseEnd = none

/-- R224: the on-time of a pulsed switch ends. -/
abbrev pulseEnd : Rule (Fin 8 × Nat) where
  cmd a c := c = .pulseEnd a.1 a.2
  pre a s := s.dev.pd.clockLost = false ∧ ((swch s.dev a.1).pulseEnd.any fun e => decide (e ≤ s.chainAt a.2)) = true ∧
    (swch s.dev a.1).on = true
  parts := [.lsw]
  objs _ := among []
  post a s d := d.out = [] ∧ onlySwitch a.1 s.dev d ∧
    swch d a.1 = { swch s.dev a.1 with on := false, pulseEnd := none, offSince := s.nowAt a.2 }

/-- Table 9.2: with the forwarded clock lost the output holds its level. -/
abbrev pulseHeld : Rule (Fin 8 × Nat) where
  cmd a c := c = .pulseEnd a.1 a.2
  pre _ s := s.dev.pd.clockLost = true
  parts := []
  objs _ := among []
  post _ _ d := d.out = []

/-- R225, R226: a trip turns the switch off, and it waits out 10 ms, 100 ms or 1 s before its 2nd, 3rd or 4th attempt. -/
abbrev loadSwitchTrip : Rule (Fin 8 × Bool × Nat) where
  cmd a c := c = .loadSwitchTrip a.1 a.2.1 a.2.2
  pre a s := Runs s ∧ (swch s.dev a.1).on = true ∧ (swch s.dev a.1).trips < 3
  parts := [.lsw, .hlt, .rcd, .diag, .can]
  objs a x := eventObjs x || among [switchAdr a.1 0x0D] x
  post a s d := onlySwitch a.1 s.dev d ∧ (swch d a.1).on = false ∧ (swch d a.1).trips = (swch s.dev a.1).trips + 1 ∧
    (swch d a.1).latched = false ∧ (swch d a.1).hot = a.2.1 ∧
    (swch d a.1).backOff = some (s.nowAt a.2.2 +
      (match (swch s.dev a.1).trips with | 0 => 10000000 | 1 => 100000000 | _ => 1000000000)) ∧
    d.int (switchAdr a.1 0x0D) = (s.dev.int (switchAdr a.1 0x0D) + 1) % 2 ^ 32

/-- R226: the fourth consecutive trip latches the switch off. -/
abbrev loadSwitchLatches : Rule (Fin 8 × Bool × Nat) where
  cmd a c := c = .loadSwitchTrip a.1 a.2.1 a.2.2
  pre a s := Runs s ∧ (swch s.dev a.1).on = true ∧ (swch s.dev a.1).trips = 3
  parts := [.lsw, .hlt, .rcd, .diag, .can]
  objs a x := eventObjs x || among [switchAdr a.1 0x0D] x
  post a s d := onlySwitch a.1 s.dev d ∧ (swch d a.1).on = false ∧ (swch d a.1).latched = true ∧ (swch d a.1).trips = 4

/-- R226: at the end of its back-off a switched switch that is still commanded on attempts by switching on. -/
abbrev loadSwitchBackOffEnd : Rule (Fin 8 × Nat) where
  cmd a c := c = .loadSwitchBackOffEnd a.1 a.2
  pre a s := s.dev.switchInUse a.1 = true ∧ s.dev.switchMode a.1 = 1 ∧ (swch s.dev a.1).cmd = true ∧
    ((swch s.dev a.1).backOff.any fun e => decide (e ≤ s.nowAt a.2)) = true ∧ (swch s.dev a.1).latched = false ∧
    (swch s.dev a.1).hot = false
  parts := [.lsw]
  objs _ := among []
  post a s d := d.out = [] ∧ onlySwitch a.1 s.dev d ∧
    swch d a.1 = { swch s.dev a.1 with backOff := none, on := true, onSince := s.nowAt a.2 }

/-- R226: a thermal attempt also waits for the local restart; after it, with the back-off run, the switch attempts. -/
abbrev loadSwitchThermalRestart : Rule (Fin 8 × Nat) where
  cmd a c := c = .loadSwitchThermalRestart a.1 a.2
  pre a s := s.dev.switchInUse a.1 = true ∧ s.dev.switchMode a.1 = 1 ∧ (swch s.dev a.1).cmd = true ∧
    (swch s.dev a.1).backOff = none ∧ (swch s.dev a.1).latched = false ∧ (swch s.dev a.1).hot = true
  parts := [.lsw]
  objs _ := among []
  post a s d := d.out = [] ∧ onlySwitch a.1 s.dev d ∧
    swch d a.1 = { swch s.dev a.1 with hot := false, on := true, onSince := s.nowAt a.2 }

/-- R226, Table 9.3: after 1 s on without a trip the consecutive count returns to 0. -/
abbrev loadSwitchCountClear : Rule (Fin 8 × Nat) where
  cmd a c := c = .loadSwitchCountClear a.1 a.2
  pre a s := (swch s.dev a.1).on = true ∧ (swch s.dev a.1).onSince + 1000000000 ≤ s.nowAt a.2
  parts := [.lsw]
  objs _ := among []
  post a s d := d.out = [] ∧ onlySwitch a.1 s.dev d ∧
    swch d a.1 = { swch s.dev a.1 with trips := 0, overload := false, thermal := false }

/-- R227: a switch that does not meet the conditions of a test reports not tested. -/
abbrev loadSwitchNotTested : Rule (Fin 8 × Bool × Bool × Nat) where
  cmd a c := c = .loadSwitchOffStateTest a.1 a.2.1 a.2.2.1 a.2.2.2
  pre a s := (swch s.dev a.1).cmd = true
  parts := [.lsw]
  objs _ := among []
  post a s d := d.out = [] ∧ onlySwitch a.1 s.dev d ∧ swch d a.1 = { swch s.dev a.1 with notTested := true }

/-- R227, Table 9.3: a short to supply found by step 1 is reported at the first detection; step 2 does not run. -/
abbrev loadSwitchOffStateTest : Rule (Fin 8 × Bool × Nat) where
  cmd a c := c = .loadSwitchOffStateTest a.1 true a.2.1 a.2.2
  pre a s := Runs s ∧ s.dev.switchInUse a.1 = true ∧ (swch s.dev a.1).cmd = false ∧ (swch s.dev a.1).on = false ∧
    (swch s.dev a.1).offSince + 5000000 ≤ s.nowAt a.2.2 ∧ s.dev.flag (switchAdr a.1 7) = true ∧
    6000 ≤ s.dev.switchVbat a.1 ∧ s.dev.switchVbat a.1 ≤ 40000 ∧ s.dev.pd.loadDump = false ∧ (swch s.dev a.1).testedAt = none
  parts := [.lsw, .rcd, .diag, .can]
  objs _ := eventObjs
  post a s d := onlySwitch a.1 s.dev d ∧ swch d a.1 = { swch s.dev a.1 with notTested := false, testedAt := some (s.nowAt a.2.2), supplyOff := true, cleanSupply := 0 }

/-- R227, Table 9.3: the third consecutive open-load detection of a switch that is on is reported. -/
abbrev loadSwitchOpenLoad : Rule (Fin 8 × Nat) where
  cmd a c := c = .loadSwitchOpenLoad a.1 true a.2
  pre a s := Runs s ∧ s.dev.switchInUse a.1 = true ∧ (swch s.dev a.1).cmd = true ∧ 6000 ≤ s.dev.switchVbat a.1 ∧
    s.dev.switchMode a.1 = 1 ∧ (swch s.dev a.1).on = true ∧ (swch s.dev a.1).openRun = 2
  parts := [.lsw, .rcd, .diag, .can]
  objs _ := eventObjs
  post a s d := onlySwitch a.1 s.dev d ∧ swch d a.1 = { swch s.dev a.1 with openRun := 3, cleanOn := 0, openOn := true }

/-- R231: while the power die is armed a limp-home input has no effect on any output. -/
abbrev limpHomeInput : Rule (Fin 4 × Bool × Nat) where
  cmd a c := c = .limpHomeInput a.1 a.2.1 a.2.2
  pre _ s := s.dev.pd.powered = true ∧ s.dev.pd.armed = true
  parts := [.lsw]
  objs _ := among []
  post a s d := d.out = [] ∧ d.lsw = { s.dev.lsw with inputs := s.dev.lsw.inputs.set a.1 a.2.1 }

/-- R233: under limp-home control a mapped switch with nothing that keeps it off is on exactly while its input is high, and
an unmapped one is off. -/
abbrev limpHomeFollows : Rule (Fin 4 × Bool × Nat) where
  cmd a c := c = .limpHomeInput a.1 a.2.1 a.2.2
  pre _ s := s.dev.pd.powered = true ∧ s.dev.limpApplies = true ∧ s.dev.lsw.limpHome = true
  parts := [.lsw]
  objs _ := among []
  post a s d := d.out = [] ∧ d.lsw.inputs[a.1] = a.2.1 ∧ ∀ n : Fin 8,
    (s.dev.mapped n = true ∧ (swch s.dev n).latched = false ∧ (swch s.dev n).backOff = none ∧ (swch s.dev n).hot = false →
      (swch d n).on = d.limpInput n) ∧
    (s.dev.mapped n = false → (swch d n).on = false)

/-- R234, Table 9.5: LHEN low after filtering turns every switch off and ends limp-home. -/
abbrev lhenChange : Rule Nat where
  cmd t c := c = .lhenChange false t
  pre _ s := s.dev.pd.powered = true ∧ s.dev.pd.armed = false
  parts := [.lsw]
  objs _ := among []
  post _ s d := d.out = [] ∧ d.lsw.enable = false ∧ d.lsw.limpHome = false ∧ d.lsw.mapping = s.dev.lsw.mapping ∧
    ∀ n : Fin 8, (swch d n).on = false

/-- R234, Table 9.5: LHEN high after filtering, with a valid mapping, begins limp-home, and the entry is counted. -/
abbrev lhenHigh : Rule Nat where
  cmd t c := c = .lhenChange true t
  pre _ s := s.dev.switchesAct = true ∧ s.dev.pd.armed = false ∧ s.dev.lsw.store = 0 ∧ s.dev.lsw.limpHome = false
  parts := [.lsw, .rcd, .diag, .can]
  objs _ := eventObjs
  post _ s d := d.lsw.enable = true ∧ d.lsw.limpHome = true ∧ d.lsw.entries = (s.dev.lsw.entries + 1) % 2 ^ 32

/-! ### The bridge PWM generator -/

/-- R240, R241: at its first period start at or after t_e a pair in mode 1 applies the values of its load-all command, leaves
idle, and its load-all mask bit clears; on the new grid the period has its full length. -/
abbrev pwmPeriodStart : Rule (Fin 16 × Nat × Nat × Nat) where
  cmd a c := c = .pwmPeriodStart a.1 a.2.2.2
  pre a s := s.dev.pwm.frozen = false ∧ s.dev.pd.armed = true ∧ s.dev.pd.clockLost = false ∧ s.dev.flag 0x270001 = true ∧
    s.dev.nat (pairAdr a.1 1) = 1 ∧ s.dev.nat (pairAdr a.1 7) = 255 ∧ s.dev.bit 0x270003 a.1 = true ∧ (pair s.dev a.1).faulted = false ∧
    ((pair s.dev a.1).length = 0 ∨ ((pair s.dev a.1).start + (pair s.dev a.1).length ≤ s.chainAt a.2.2.2 ∧
      onGrid (s.chainAt a.2.2.2) (pair s.dev a.1).period (pair s.dev a.1).phase = true)) ∧
    64 ≤ a.2.1 ∧ a.2.2.1 = 0 ∧ s.chainAt a.2.2.2 % (4 * a.2.1) = 0 ∧
    (s.dev.at a.2.2.2).lastFrame (loadOf a.1) = some (a.2.1, 0, 0)
  parts := [.pwm, .pd]
  objs _ := among [0x270003]
  post a s d := d.out = [] ∧ onlyPair a.1 s.dev d ∧ (pair d a.1).idle = false ∧ (pair d a.1).period = a.2.1 ∧
    (pair d a.1).phase = 0 ∧ (pair d a.1).compare = 0 ∧ (pair d a.1).loading = false ∧ (pair d a.1).start = s.chainAt a.2.2.2 ∧
    (pair d a.1).length = 4 * a.2.1 ∧ (pair d a.1).gh = false ∧ d.bit 0x270003 a.1 = false ∧
    (∀ k : Fin 16, k ≠ a.1 → d.bit 0x270003 k = s.dev.bit 0x270003 k)

/-- R240: the host writes the load-all mask; no output changes. -/
abbrev loadAllWrite : Rule (Fin 65536) where
  cmd a c := c = .loadAllWrite .host a.val
  pre a s := HostMay s 0x270003 (.num a.val)
  parts := [.jrn]
  objs _ := among [0x110003, 0x270003]
  post a s d := d.int 0x270003 = a.val ∧ HostTook s d 2 (.write 0x270003 (.num a.val))

/-- R242: the host writes a pair's force object; no output changes yet. -/
abbrev forceWrite : Rule (Fin 16 × Fin 16) where
  cmd a c := c = .forceWrite .host a.1 a.2.val
  pre a s := HostMay s (pairAdr a.1 0x0C) (.num a.2.val)
  parts := [.jrn]
  objs a := among [0x110003, pairAdr a.1 0x0C]
  post a s d := d.int (pairAdr a.1 0x0C) = a.2.val ∧ HostTook s d 2 (.write (pairAdr a.1 0x0C) (.num a.2.val))

/-- R242: at t_e the forces that the batch's commands carry act on their pairs alone, at the same tick; a force
to low at once. -/
abbrev forceApply : Rule (Nat × List (Nat × Fin 16 × Fin 16)) where
  cmd a c := c = .forceApply a.1
  pre a s := s.dev.pwm.frozen = false ∧ s.dev.pd.armed = true ∧ s.dev.pd.clockLost = false ∧ (a.2.map fun x => x.2.1).Nodup ∧
    s.dev.pd.commands = a.2.map fun x => ⟨x.1, s.chainAt a.1, .pwmForce x.2.1 x.2.2⟩
  parts := [.pwm, .pd]
  objs _ := among []
  post a s d := d.out = [] ∧ d.pd = { s.dev.pd with commands := [] } ∧
    (∀ x ∈ a.2, (pair d x.2.1).force = x.2.2) ∧
    (∀ p : Fin 16, (∀ x ∈ a.2, x.2.1 ≠ p) → pair d p = pair s.dev p) ∧ ∀ p : Fin 16,
    (pair d p).compare = (pair s.dev p).compare ∧ (pair d p).period = (pair s.dev p).period ∧
    ((∃ x ∈ a.2, x.2.1 = p) → ((pair d p).force % 4 = 1 → (pair d p).gh = false) ∧
      ((pair d p).force / 4 % 4 = 1 → (pair d p).gl = false))

/-- R243: a measurement of 24 to 48 taps is good; it counts towards the 100 that end coarse placement. -/
abbrev delayLineCalibration : Rule (Nat × Nat) where
  cmd a c := c = .delayLineCalibration a.1 a.2
  pre a s := s.dev.pd.powered = true ∧ s.dev.pd.clockLost = false ∧ 24 ≤ a.1 ∧ a.1 ≤ 48 ∧ s.dev.pwm.coarse = false
  parts := [.pwm]
  objs _ := among [0x270004]
  post a s d := d.out = [] ∧ d.pwm = { s.dev.pwm with goodRun := s.dev.pwm.goodRun + 1, taps := a.1 } ∧ d.int 0x270004 = a.1

/-- R243: the 100th good measurement in a row returns to fine placement. -/
abbrev calibrationRecovers : Rule (Nat × Nat) where
  cmd a c := c = .delayLineCalibration a.1 a.2
  pre a s := s.dev.pd.powered = true ∧ s.dev.pd.clockLost = false ∧ 24 ≤ a.1 ∧ a.1 ≤ 48 ∧ s.dev.pwm.coarse = true ∧
    s.dev.pwm.goodRun = 99
  parts := [.pwm, .rcd, .diag, .can]
  objs _ x := eventObjs x || among [0x270004] x
  post _ _ d := d.pwm.coarse = false

/-- R243: a measurement below 24 or above 48 taps is a failure: coarse placement from then on. -/
abbrev calibrationFails : Rule (Nat × Nat) where
  cmd a c := c = .delayLineCalibration a.1 a.2
  pre a s := s.dev.pd.powered = true ∧ s.dev.pd.clockLost = false ∧ (a.1 < 24 ∨ 48 < a.1)
  parts := [.pwm, .rcd, .diag, .can]
  objs _ x := eventObjs x || among [0x270004, 0x270005] x
  post _ s d := d.pwm.pairs = s.dev.pwm.pairs ∧ d.pwm.coarse = true ∧ d.pwm.goodRun = 0 ∧ d.generatorStatus.testBit 2 = true ∧
    d.int 0x270005 = (s.dev.int 0x270005 + 1) % 2 ^ 32

/-- R244, R245: 100 ns after a force of GH to high (margin 8 ns, minimum at most 108 ns) the seen swing lets GH rise, and the
last L-to-H dead time is reported. -/
abbrev switchNodeSwing : Rule (Fin 16 × Nat) where
  cmd a c := c = .switchNodeSwing a.1 a.2
  pre a s := s.dev.pairLow a.1 = false ∧ s.dev.pwm.frozen = false ∧ (pair s.dev a.1).force = 2 ∧ (pair s.dev a.1).cut = false ∧
    (pair s.dev a.1).gh = false ∧ (pair s.dev a.1).gl = false ∧ (pair s.dev a.1).compare = 0 ∧
    (pair s.dev a.1).changed + 800 = 8 * s.chainAt a.2 ∧ (s.dev.pairSet a.1).margin = 8 ∧ s.dev.deadMin a.1 ≤ 108
  parts := [.pwm]
  objs a := among [pairAdr a.1 0x12]
  post a s d := d.out = [] ∧ onlyPair a.1 s.dev d ∧ (pair d a.1).gh = true ∧ (pair d a.1).gl = false ∧
    (pair d a.1).pinMax = (pair s.dev a.1).pinMax ∧ d.int (pairAdr a.1 0x12) = 864

/-- R244, R245: without a seen swing the incoming output rises at the effective maximum, and pinned-at-maximum is set for
the batch. -/
abbrev deadTimeMaximum : Rule (Fin 16 × Nat) where
  cmd a c := c = .deadTimeMaximum a.1 a.2
  pre a s := s.dev.pairLow a.1 = false ∧ s.dev.pwm.frozen = false ∧ (pair s.dev a.1).force = 2 ∧ (pair s.dev a.1).cut = false ∧
    (pair s.dev a.1).gh = false ∧ (pair s.dev a.1).gl = false ∧ (pair s.dev a.1).compare = 0 ∧
    (pair s.dev a.1).changed + 8 * s.dev.deadMax a.1 = 8 * s.chainAt a.2 ∧ s.dev.deadMin a.1 ≤ s.dev.deadMax a.1 ∧
    s.dev.deadMax a.1 ≤ 4000
  parts := [.pwm]
  objs a := among [pairAdr a.1 0x12]
  post a s d := d.out = [] ∧ onlyPair a.1 s.dev d ∧ (pair d a.1).gh = true ∧ (pair d a.1).gl = false ∧
    (pair d a.1).pinMax = true ∧ d.int (pairAdr a.1 0x12) = 8 * s.dev.deadMax a.1

/-- R246: a fault input that asserts cuts the running period of the pair that names it: GH low, with action 1 GL too; the period
is counted. -/
abbrev pwmFaultInput : Rule (Fin 16 × Fin 4 × Nat) where
  cmd a c := c = .pwmFaultInput a.2.1 true a.2.2
  pre a s := (∀ p : Fin 16, (s.dev.pairSet p).input = if p = a.1 then a.2.1.val else 255) ∧ s.dev.pairLow a.1 = false ∧
    (pair s.dev a.1).cut = false ∧ (s.dev.pairSet a.1).action = 1
  parts := [.pwm]
  objs a := among [pairAdr a.1 0x14]
  post a s d := d.out = [] ∧ onlyPair a.1 s.dev d ∧ (pair d a.1).gh = false ∧ (pair d a.1).gl = false ∧ (pair d a.1).cut = true ∧
    (pair d a.1).cutBatch = true ∧ (pair d a.1).faulted = (pair s.dev a.1).faulted ∧
    d.int (pairAdr a.1 0x14) = (s.dev.int (pairAdr a.1 0x14) + 1) % 2 ^ 32

/-- R247, R248: an overlap holds both outputs low and counts as one interlock event of the pair and of the device. -/
abbrev interlockEvent : Rule (Fin 16 × Nat × Nat) where
  cmd a c := c = .interlockEvent a.1 a.2.1 a.2.2
  pre a s := Runs s ∧ s.dev.pairLow a.1 = false ∧ (pair s.dev a.1).overlaps < 7 ∧ a.2.1 ≤ (pair s.dev a.1).length
  parts := [.pwm, .rcd, .diag, .can]
  objs a x := eventObjs x || among [pairAdr a.1 0x13, 0x270006] x
  post a s d := onlyPair a.1 s.dev d ∧
    pair d a.1 = { pair s.dev a.1 with overlaps := (pair s.dev a.1).overlaps + 1, gh := false, gl := false } ∧
    d.int (pairAdr a.1 0x13) = (s.dev.int (pairAdr a.1 0x13) + 1) % 2 ^ 32 ∧ d.int 0x270006 = (s.dev.int 0x270006 + 1) % 2 ^ 32

/-- R248: the 8th event in one period faults the pair: both outputs low, in the faulted pair map. -/
abbrev interlockFaults : Rule (Fin 16 × Nat × Nat) where
  cmd a c := c = .interlockEvent a.1 a.2.1 a.2.2
  pre a s := Runs s ∧ s.dev.pairLow a.1 = false ∧ (pair s.dev a.1).overlaps = 7
  parts := [.pwm, .rcd, .diag, .can]
  objs a x := eventObjs x || among [pairAdr a.1 0x13, 0x270006, 0x270007] x
  post a s d := onlyPair a.1 s.dev d ∧ (pair d a.1).faulted = true ∧ (pair d a.1).gh = false ∧ (pair d a.1).gl = false ∧
    d.bit 0x270007 a.1 = true

/-- R248: the host writes a faulted pair's number to 0x2700:08, to return it at the next boundary. -/
abbrev pairReturnWrite : Rule (Fin 16) where
  cmd a c := c = .pairReturnWrite .host a.val
  pre a s := HostMay s 0x270008 (.num a.val) ∧ (pair s.dev a).faulted = true
  parts := [.pwm, .jrn]
  objs _ := among [0x110003]
  post a s d := onlyPair a s.dev d ∧ pair d a = { pair s.dev a with returning := true } ∧
    HostTook s d 3 (.write 0x270008 (.num a.val))

/-- R254: forwarded clock lost: every GH and GL low, the waiting commands discarded, the loss flagged. -/
abbrev forwardedClockLoss : Rule Nat where
  cmd t c := c = .forwardedClockLoss t
  pre _ s := s.dev.pd.powered = true ∧ s.dev.pd.clockLost = false
  parts := [.pd, .pwm, .hlt]
  objs _ := among []
  post _ s d := d.out = [] ∧ d.pd = { s.dev.pd with clockLost := true, commands := [] } ∧ d.generatorStatus.testBit 0 = true ∧
    ∀ p : Fin 16, (pair d p).gh = false ∧ (pair d p).gl = false

/-! ### The meter motion axes -/

/-- An axis that the update passes over: off, without a destination and with nothing waiting. -/
abbrev restingAxis (x : Axis) : Prop :=
  x.set.mode = 0 ∧ x.set.dest = 0 ∧ x.edges = [] ∧ x.commands = [] ∧ x.places = []

/-- R261, R263, R268: a row meter at standstill takes its first speed step on the update of the switch-on: the start speed,
or its target speed (R267) where that, or the maximum speed, is less. -/
abbrev axisUpdate : Rule (Fin 32 × Nat × Nat) where
  cmd a c := c = .axisUpdate a.2.2
  pre a s := Runs s ∧ s.dev.nat 0x280001 = 1 ∧ s.chainAt a.2.2 % 25000 = 0 ∧ (∀ k : Fin 32, k ≠ a.1 → restingAxis (axis s.dev k)) ∧
    (axis s.dev a.1).set.mode = 1 ∧ (axis s.dev a.1).set.dest = 0 ∧ (axis s.dev a.1).state = 0 ∧ (axis s.dev a.1).speed = 0 ∧
    (axis s.dev a.1).commands = [] ∧ (axis s.dev a.1).places = [] ∧ (axis s.dev a.1).edges = [(a.2.1, .switch true)] ∧
    a.2.1 ≤ s.chainAt a.2.2 ∧ 0 < (axis s.dev a.1).meterSpeed ∧ 1024 ≤ s.dev.nat (axisAdr a.1 5) ∧
    0 < s.dev.nat (axisAdr a.1 0x0A)
  parts := [.axes]
  objs _ := among []
  post a s d := d.out = [] ∧ onlyAxis a.1 s.dev d ∧ (axis d a.1).state = 1 ∧ (axis d a.1).called = true ∧ (axis d a.1).edges = [] ∧
    (axis d a.1).speed = min (40000 * s.dev.nat (axisAdr a.1 5))
      (40000 * min (axis s.dev a.1).meterSpeed (s.dev.nat (axisAdr a.1 0x0A))) ∧
    (axis d a.1).reverse = (axis s.dev a.1).set.invert

/-- R258, R261: an axis at its target speed moves by that speed over 25 µs (to 1/65,536 microstep), forward or in reverse, and
keeps its speed. -/
abbrev axisUpdateSteady : Rule (Fin 32 × Nat) where
  cmd a c := c = .axisUpdate a.2
  pre a s := Runs s ∧ s.dev.nat 0x280001 = 1 ∧ s.chainAt a.2 % 25000 = 0 ∧ (∀ k : Fin 32, k ≠ a.1 → restingAxis (axis s.dev k)) ∧
    (axis s.dev a.1).set.mode = 1 ∧ (axis s.dev a.1).set.dest = 0 ∧ (axis s.dev a.1).state = 1 ∧ (axis s.dev a.1).edges = [] ∧
    (axis s.dev a.1).commands = [] ∧ (axis s.dev a.1).places = [] ∧ (axis s.dev a.1).speed = 40000 * (axis s.dev a.1).target ∧
    0 < (axis s.dev a.1).target ∧ (axis s.dev a.1).target ≤ s.dev.nat (axisAdr a.1 0x0A) ∧ (axis s.dev a.1).accel = 0 ∧
    (axis s.dev a.1).blend = none ∧ (axis s.dev a.1).reverse = (axis s.dev a.1).targetReverse
  parts := [.axes]
  objs _ := among []
  post a s d := d.out = [] ∧ onlyAxis a.1 s.dev d ∧ (axis d a.1).speed = (axis s.dev a.1).speed ∧ (axis d a.1).state = 1 ∧
    (axis d a.1).pos % 2 ^ 48 = ((axis s.dev a.1).pos + (if (axis s.dev a.1).reverse then -1 else 1) *
      ((axis s.dev a.1).target * 65536 / 40000 : Nat)) % 2 ^ 48

/-- R261: the acceleration of an unblended profile, a1 below the break speed and a2 above it, not past the target. -/
abbrev axisUpdateAccelerates : Rule (Fin 32 × Nat) where
  cmd a c := c = .axisUpdate a.2
  pre a s := Runs s ∧ s.dev.nat 0x280001 = 1 ∧ s.chainAt a.2 % 25000 = 0 ∧ (∀ k : Fin 32, k ≠ a.1 → restingAxis (axis s.dev k)) ∧
    (axis s.dev a.1).set.mode = 1 ∧ (axis s.dev a.1).set.dest = 0 ∧ (axis s.dev a.1).state = 1 ∧ (axis s.dev a.1).edges = [] ∧
    (axis s.dev a.1).commands = [] ∧ (axis s.dev a.1).places = [] ∧ 0 < (axis s.dev a.1).speed ∧
    (axis s.dev a.1).speed < 40000 * (axis s.dev a.1).target ∧ (axis s.dev a.1).target ≤ s.dev.nat (axisAdr a.1 0x0A) ∧
    s.dev.nat (axisAdr a.1 0x0B) = 0 ∧ (axis s.dev a.1).blend = none ∧ (axis s.dev a.1).reverse = (axis s.dev a.1).targetReverse
  parts := [.axes]
  objs _ := among []
  post a s d := d.out = [] ∧ onlyAxis a.1 s.dev d ∧ (axis d a.1).state = 1 ∧ (axis d a.1).speed =
    min (40000 * (axis s.dev a.1).target) ((axis s.dev a.1).speed +
      (if (axis s.dev a.1).speed < 40000 * s.dev.nat (axisAdr a.1 7) then s.dev.nat (axisAdr a.1 8) else s.dev.nat (axisAdr a.1 9)))

/-- Table 11.1, R268: the switch-off of a row meter at or below its stop speed takes it to standstill in one step. -/
abbrev axisUpdateStops : Rule (Fin 32 × Nat × Nat) where
  cmd a c := c = .axisUpdate a.2.2
  pre a s := Runs s ∧ s.dev.nat 0x280001 = 1 ∧ s.chainAt a.2.2 % 25000 = 0 ∧ (∀ k : Fin 32, k ≠ a.1 → restingAxis (axis s.dev k)) ∧
    (axis s.dev a.1).set.mode = 1 ∧ (axis s.dev a.1).set.dest = 0 ∧ (axis s.dev a.1).state = 1 ∧
    (axis s.dev a.1).edges = [(a.2.1, .switch false)] ∧ a.2.1 ≤ s.chainAt a.2.2 ∧
    (axis s.dev a.1).commands = [] ∧ (axis s.dev a.1).places = [] ∧ 0 < (axis s.dev a.1).speed ∧
    (axis s.dev a.1).speed ≤ 40000 * s.dev.nat (axisAdr a.1 6) ∧ s.dev.nat (axisAdr a.1 0x0B) = 0 ∧
    (axis s.dev a.1).blend = none
  parts := [.axes]
  objs _ := among []
  post a s d := d.out = [] ∧ onlyAxis a.1 s.dev d ∧ (axis d a.1).state = 0 ∧ (axis d a.1).speed = 0 ∧ (axis d a.1).target = 0 ∧
    (axis d a.1).called = false

/-- Table 11.1: a quick stop of a position move decelerates at the quick-stop deceleration, with no blend, and keeps the
target; the axis is stopping, and held once its speed is 0. -/
abbrev axisUpdateQuickStop : Rule (Fin 32 × Nat × Nat) where
  cmd a c := c = .axisUpdate a.2.2
  pre a s := Runs s ∧ s.dev.nat 0x280001 = 1 ∧ s.chainAt a.2.2 % 25000 = 0 ∧ (∀ k : Fin 32, k ≠ a.1 → restingAxis (axis s.dev k)) ∧
    (axis s.dev a.1).set.mode = 2 ∧ (axis s.dev a.1).set.dest = 0 ∧ (axis s.dev a.1).state = 1 ∧ (axis s.dev a.1).edges = [] ∧
    (axis s.dev a.1).commands = [(3, a.2.1)] ∧ a.2.1 ≠ s.dev.seq.number ∧ (s.dev.te : Nat) ≤ s.chainAt a.2.2 ∧
    (axis s.dev a.1).places = [] ∧ 0 < (axis s.dev a.1).speed ∧ (axis s.dev a.1).reverse = (axis s.dev a.1).targetReverse
  parts := [.axes]
  objs _ := among []
  post a s d := d.out = [] ∧ onlyAxis a.1 s.dev d ∧ (axis d a.1).goal = (axis s.dev a.1).goal ∧
    (axis d a.1).remaining = (axis s.dev a.1).remaining ∧ (axis d a.1).commands = [] ∧ (axis d a.1).blend = none ∧
    (let v := (axis s.dev a.1).speed - s.dev.nat (axisAdr a.1 0x0D)
     if v ≤ 40000 * s.dev.nat (axisAdr a.1 6) then (axis d a.1).speed = 0 ∧ (axis d a.1).state = 3
     else (axis d a.1).speed = v ∧ (axis d a.1).state = 2)

/-- Table 11.1, R262: a move go from standstill, ripe once t_e of a later batch has passed, plans towards the target that the
batch took: it starts with the start speed, where that is no more than the stop speed and the target is farther than that
speed takes it. -/
abbrev axisUpdateGo : Rule (Fin 32 × Nat × Nat) where
  cmd a c := c = .axisUpdate a.2.2
  pre a s := Runs s ∧ s.dev.nat 0x280001 = 1 ∧ s.chainAt a.2.2 % 25000 = 0 ∧ (∀ k : Fin 32, k ≠ a.1 → restingAxis (axis s.dev k)) ∧
    (axis s.dev a.1).set.mode = 2 ∧ (axis s.dev a.1).set.dest = 0 ∧ (axis s.dev a.1).state = 0 ∧ (axis s.dev a.1).edges = [] ∧
    (axis s.dev a.1).commands = [(1, a.2.1)] ∧ a.2.1 ≠ s.dev.seq.number ∧ (s.dev.te : Nat) ≤ s.chainAt a.2.2 ∧
    (axis s.dev a.1).places = [] ∧ (axis s.dev a.1).speed = 0 ∧ (axis s.dev a.1).pos = 0 ∧
    1000 < s.dev.takenInt (axisAdr a.1 0x12) ∧ s.dev.takenInt (axisAdr a.1 0x12) < 2 ^ 31 ∧
    0 < s.dev.nat (axisAdr a.1 5) ∧ s.dev.nat (axisAdr a.1 5) ≤ s.dev.nat (axisAdr a.1 6) ∧
    s.dev.nat (axisAdr a.1 6) ≤ s.dev.nat (axisAdr a.1 0x0A) ∧ s.dev.nat (axisAdr a.1 0x0A) ≤ 10240000
  parts := [.axes]
  objs _ := among []
  post a s d := d.out = [] ∧ onlyAxis a.1 s.dev d ∧ (axis d a.1).goal = s.dev.takenInt (axisAdr a.1 0x12) ∧
    (axis d a.1).remaining = true ∧ (axis d a.1).state = 1 ∧ (axis d a.1).reverse = false ∧
    (axis d a.1).speed = 40000 * s.dev.nat (axisAdr a.1 5)

/-- R257, R265: every eighth address of an axis bound for a guest completes a block, which leaves with the chain time of its
first update. -/
abbrev axisUpdateBlock : Rule (Fin 32 × Fin 16 × Nat) where
  cmd a c := c = .axisUpdate a.2.2
  pre a s := Runs s ∧ s.dev.nat 0x280001 = 1 ∧ s.chainAt a.2.2 % 25000 = 0 ∧ (∀ k : Fin 32, k ≠ a.1 → restingAxis (axis s.dev k)) ∧
    (axis s.dev a.1).set.mode = 2 ∧ (axis s.dev a.1).set.dest = 2 ∧ (axis s.dev a.1).set.guest = a.2.1 ∧
    s.dev.bit 0x2A0007 a.2.1 = true ∧ s.dev.rowDrives[a.2.1].quiet < 3 ∧ (axis s.dev a.1).linked = true ∧
    (axis s.dev a.1).state = 0 ∧ (axis s.dev a.1).edges = [] ∧ (axis s.dev a.1).commands = [] ∧ (axis s.dev a.1).places = [] ∧
    (axis s.dev a.1).block.length = 7 ∧ (axis s.dev a.1).later = []
  parts := [.axes, .rowDrives]
  objs _ := among []
  post a s d := onlyAxis a.1 s.dev d ∧ (axis d a.1).block = [] ∧
    d.out = [.axisBlock a.2.1 (axisBody (axis s.dev a.1).blockAt (axis s.dev a.1).set.channel (decide ((axis s.dev a.1).speed = 0))
      ((axis s.dev a.1).block ++ [((axis s.dev a.1).pos / 65536 % 1024).toNat]))] ∧
    d.rowDrives = s.dev.rowDrives.set a.2.1 { s.dev.rowDrives[a.2.1] with sent := true }

/-- R258: the axes update at chain-time multiples of 25 µs only. -/
abbrev axisUpdateOffTick : Rule Nat where
  cmd t c := c = .axisUpdate t
  pre t s := Runs s ∧ s.chainAt t % 25000 ≠ 0
  parts := []
  objs _ := among []
  post _ _ d := d.out = []

/-- Table 11.1, R273: an axis whose guest has gone is faulted: its speed is 0, its position stays and is uncertain. -/
abbrev axisUpdateFaulted : Rule (Fin 32 × Nat) where
  cmd a c := c = .axisUpdate a.2
  pre a s := Runs s ∧ s.dev.nat 0x280001 = 1 ∧ s.chainAt a.2 % 25000 = 0 ∧ (∀ k : Fin 32, k ≠ a.1 → restingAxis (axis s.dev k)) ∧
    (axis s.dev a.1).set.mode = 2 ∧ (axis s.dev a.1).set.dest = 2 ∧ (axis s.dev a.1).set.guest < 16 ∧
    s.dev.bit 0x2A0007 (axis s.dev a.1).set.guest = false ∧ (axis s.dev a.1).linked = true ∧
    (axis s.dev a.1).edges = [] ∧ (axis s.dev a.1).commands = [] ∧ (axis s.dev a.1).places = [] ∧ (axis s.dev a.1).later = [] ∧
    (axis s.dev a.1).deferred = false
  parts := [.axes, .rcd, .diag, .can]
  objs _ := eventObjs
  post a s d := onlyAxis a.1 s.dev d ∧ (axis d a.1).state = 4 ∧ (axis d a.1).uncertain = true ∧ (axis d a.1).speed = 0 ∧
    (axis d a.1).pos % 2 ^ 48 = (axis s.dev a.1).pos % 2 ^ 48 ∧ (axis d a.1).goal = (axis s.dev a.1).goal

/-- R257: while motion is disabled no axis advances. -/
abbrev axisUpdateDisabled : Rule Nat where
  cmd t c := c = .axisUpdate t
  pre _ s := Runs s ∧ s.dev.nat 0x280001 = 0
  parts := []
  objs _ := among []
  post _ _ d := d.out = []

/-- R272: move command 1, go: it is accepted, and waits for the first update after t_e of the next batch. -/
abbrev moveGo : Rule (Fin 32) where
  cmd n c := c = .moveGo .host n
  pre n s := HostMay s (axisAdr n 0x13) (.num 1)
  parts := [.jrn, .axes]
  objs _ := among [0x110003]
  post n s d := HostTook s d 3 (.write (axisAdr n 0x13) (.num 1)) ∧ onlyAxis n s.dev d ∧
    axis d n = { axis s.dev n with commands := (axis s.dev n).commands ++ [(1, s.dev.seq.number)] }

/-- R272: move command 2, stop. -/
abbrev moveStop : Rule (Fin 32) where
  cmd n c := c = .moveStop .host n
  pre n s := HostMay s (axisAdr n 0x13) (.num 2)
  parts := [.jrn, .axes]
  objs _ := among [0x110003]
  post n s d := HostTook s d 3 (.write (axisAdr n 0x13) (.num 2)) ∧ onlyAxis n s.dev d ∧
    axis d n = { axis s.dev n with commands := (axis s.dev n).commands ++ [(2, s.dev.seq.number)] }

/-- R272: move command 3, quick stop. -/
abbrev quickStop : Rule (Fin 32) where
  cmd n c := c = .quickStop .host n
  pre n s := HostMay s (axisAdr n 0x13) (.num 3)
  parts := [.jrn, .axes]
  objs _ := among [0x110003]
  post n s d := HostTook s d 3 (.write (axisAdr n 0x13) (.num 3)) ∧ onlyAxis n s.dev d ∧
    axis d n = { axis s.dev n with commands := (axis s.dev n).commands ++ [(3, s.dev.seq.number)] }

/-- R272: move command 4, resume. -/
abbrev moveResume : Rule (Fin 32) where
  cmd n c := c = .moveResume .host n
  pre n s := HostMay s (axisAdr n 0x13) (.num 4)
  parts := [.jrn, .axes]
  objs _ := among [0x110003]
  post n s d := HostTook s d 3 (.write (axisAdr n 0x13) (.num 4)) ∧ onlyAxis n s.dev d ∧
    axis d n = { axis s.dev n with commands := (axis s.dev n).commands ++ [(4, s.dev.seq.number)] }

/-- R272: move command 5, abandon. -/
abbrev moveAbandon : Rule (Fin 32) where
  cmd n c := c = .moveAbandon .host n
  pre n s := HostMay s (axisAdr n 0x13) (.num 5)
  parts := [.jrn, .axes]
  objs _ := among [0x110003]
  post n s d := HostTook s d 3 (.write (axisAdr n 0x13) (.num 5)) ∧ onlyAxis n s.dev d ∧
    axis d n = { axis s.dev n with commands := (axis s.dev n).commands ++ [(5, s.dev.seq.number)] }

/-- R273: a position write at standstill waits for the first update after t_e. -/
abbrev positionWrite : Rule (Fin 32 × Int) where
  cmd a c := c = .positionWrite .host a.1 a.2
  pre a s := HostMay s (axisAdr a.1 0x14) (.num a.2) ∧ (axis s.dev a.1).state = 0
  parts := [.jrn, .axes]
  objs a := among [0x110003, axisAdr a.1 0x14]
  post a s d := HostTook s d 2 (.write (axisAdr a.1 0x14) (.num a.2)) ∧ onlyAxis a.1 s.dev d ∧
    axis d a.1 = { axis s.dev a.1 with places := (axis s.dev a.1).places ++ [(a.2, s.dev.seq.number)] }

/-- R275: a position write to an axis that is not at standstill aborts with the state error. -/
abbrev positionWriteMoving : Rule (Fin 32 × Int) where
  cmd a c := c = .positionWrite .host a.1 a.2
  pre a s := HostMay s (axisAdr a.1 0x14) (.num a.2) ∧ (axis s.dev a.1).state ≠ 0
  parts := []
  objs _ := among [0x110003, 0x103004, 0x103005, 0x103006]
  post _ s d := d.int 0x103005 = 0x08000022 ∧ d.int 0x103004 = (s.dev.int 0x103004 + 1) % 2 ^ 32

/-- R270: a coarse step of the coarse-step axis: it is counted and stamped with chain time at 4 ns, and the coarse position moves by
one step, forward or in reverse. -/
abbrev coarseStep : Rule (Fin 32 × Bool × Nat) where
  cmd a c := c = .coarseStep a.2.1 a.2.2
  pre a s := Runs s ∧ s.dev.steppedAxis = some a.1 ∧ (axis s.dev a.1).coarseForward = a.2.1
  parts := [.axes]
  objs _ := among [0x280006]
  post a s d := d.out = [] ∧ onlyAxis a.1 s.dev d ∧ d.int 0x280006 = (s.dev.int 0x280006 + 1) % 2 ^ 32 ∧
    axis d a.1 = { axis s.dev a.1 with
      coarse := wrap32 ((axis s.dev a.1).coarse + (if a.2.1 then 1 else -1) * s.dev.nat (axisAdr a.1 0x1B))
      coarsePrev := (axis s.dev a.1).coarse, coarsePrevAt := (axis s.dev a.1).coarseAt, coarseAt := some (s.chainAt a.2.2 / 4 * 4) }

/-- R271: the first step after a change of DIR has no interval: the axis waits for a second step. -/
abbrev coarseStepTurns : Rule (Fin 32 × Bool × Nat) where
  cmd a c := c = .coarseStep a.2.1 a.2.2
  pre a s := Runs s ∧ s.dev.steppedAxis = some a.1 ∧ (axis s.dev a.1).coarseForward ≠ a.2.1
  parts := [.axes]
  objs _ := among [0x280006]
  post a s d := d.out = [] ∧ onlyAxis a.1 s.dev d ∧ (axis d a.1).coarsePrev = (axis s.dev a.1).coarse ∧
    (axis d a.1).coarsePrevAt = none ∧ (axis d a.1).coarseAt = some (s.chainAt a.2.2 / 4 * 4) ∧ (axis d a.1).coarseForward = a.2.1

/-- R271: no further step within the timeout: the axis goes to the last coarse position and stops there. -/
abbrev coarseStepTimeout : Rule (Fin 32 × Nat × Nat) where
  cmd a c := c = .coarseStepTimeout a.2.2
  pre a s := Runs s ∧ s.dev.steppedAxis = some a.1 ∧ (axis s.dev a.1).coarseAt = some a.2.1 ∧
    a.2.1 + 1000 * s.dev.nat (axisAdr a.1 0x1C) ≤ s.chainAt a.2.2
  parts := [.axes]
  objs _ := among []
  post a s d := d.out = [] ∧ onlyAxis a.1 s.dev d ∧ axis d a.1 = { axis s.dev a.1 with
    coarsePrev := (axis s.dev a.1).coarse, coarseAt := none, coarsePrevAt := none }

/-- R330: the status of a row-drive guest: it is the last one, and the guest is not quiet. -/
abbrev rowDriveStatus : Rule (RowDriveStatus × Nat) where
  cmd a c := c = .rowDriveStatus a.1 a.2
  pre _ s := Runs s
  parts := [.rowDrives]
  objs _ := among []
  post a s d := d.out = [] ∧
    d.rowDrives = s.dev.rowDrives.set a.1.guest { s.dev.rowDrives[a.1.guest] with last := some a.1, quiet := 0 }

/-! ### The Ulard link -/

/-- The other lane of a lane's port. -/
abbrev twin (k : Fin 4) : Fin 4 := laneOf (lanePort k) (Fin.ofNat 2 (1 - laneNo k))

/-- The link state of class 2 or 3 on a port. -/
abbrev reliable (d : Dev) (p : Port) (cls : Nat) : ClassLink := d.getClass p cls

/-- The rest of the link is the same: lanes, the other port, and of this port what is not the class's replay. -/
abbrev onlyClass (p : Port) (cls : Nat) (a b : Dev) : Prop :=
  b.link = (a.classLink p cls fun _ => reliable b p cls).link

/-- R284: 64 blocks in a row with valid sync headers give block lock. -/
abbrev blockLock : Rule (Fin 4 × Nat) where
  cmd a c := c = .blockLock a.1 a.2
  pre a s := Runs s ∧ s.dev.laneOn a.1 = true ∧ (lane s.dev a.1).align = 0
  parts := [.link]
  objs _ := among []
  post a s d := d.out = [] ∧
    d.link = { s.dev.link with lanes := s.dev.link.lanes.set a.1 { lane s.dev a.1 with align := 1 } }

/-- R284, R298, Table 12.11: a lane that was up loses block lock: it is down at once with no candidate, its 16 invalid
headers are counted, and the first retrain attempt begins. -/
abbrev blockLockLoss : Rule (Fin 4 × Nat) where
  cmd a c := c = .blockLockLoss a.1 a.2
  pre a s := Runs s ∧ s.dev.laneOn a.1 = true ∧ 0 < (lane s.dev a.1).align ∧ (lane s.dev a.1).trained = true ∧
    (lane s.dev a.1).attempt = false ∧ (lane s.dev (twin a.1)).align = 3 ∧ (lane s.dev a.1).retrains.length < 7
  parts := [.link, .hlt, .rcd, .diag, .can]
  objs a x := eventObjs x || among [laneAdr a.1 2, laneAdr a.1 6, laneAdr a.1 7] x
  post a s d := onlyLane a.1 s.dev d ∧ (lane d a.1).align = 0 ∧ (lane d a.1).candidates = [] ∧ (lane d a.1).attempt = true ∧
    d.int (laneAdr a.1 2) = (s.dev.int (laneAdr a.1 2) + 16) % 2 ^ 32 ∧
    d.int (laneAdr a.1 6) = (s.dev.int (laneAdr a.1 6) + 1) % 2 ^ 32 ∧ d.int (laneAdr a.1 7) = 0

/-- R284: a lane that is still training loses block lock: it starts again, and nothing is down. -/
abbrev blockLockLossTraining : Rule (Fin 4 × Nat) where
  cmd a c := c = .blockLockLoss a.1 a.2
  pre a s := Runs s ∧ s.dev.laneOn a.1 = true ∧ 0 < (lane s.dev a.1).align ∧ (lane s.dev a.1).trained = false
  parts := [.link]
  objs a := among [laneAdr a.1 2]
  post a s d := d.out = [] ∧ onlyLane a.1 s.dev d ∧ (lane d a.1).align = 0 ∧ (lane d a.1).candidates = [] ∧
    d.link.ports = s.dev.link.ports

/-- R279, R283: the marker that a block spells near a chain time; its counter and its CRC do not depend on that time. -/
def heard (a : Arrival) : Marker := markerOf a.coarse a.block

/-- Table 12.6a: in Hunt a marker block with a valid CRC at a position that no candidate holds opens a candidate. -/
abbrev markerBlock : Rule (Fin 4 × Arrival × Nat) where
  cmd a c := c = .markerBlock a.1 a.2.1 a.2.2
  pre a s := Runs s ∧ s.dev.laneOn a.1 = true ∧ (lane s.dev a.1).align = 1 ∧ (lane s.dev a.1).candidates = [] ∧ (heard a.2.1).crcOk = true
  parts := [.link]
  objs _ := among []
  post a s d := d.out = [] ∧ d.link = { s.dev.link with lanes := s.dev.link.lanes.set a.1 { lane s.dev a.1 with
    align := 2, candidates := [⟨s.nowAt a.2.2, (heard a.2.1).counter, 1⟩] } }

/-- Table 12.6a: the third confirmation of a candidate after its first block fixes the frame position: the lane is in Sync,
and its retrain attempt has succeeded. -/
abbrev markerSync : Rule (Fin 4 × Arrival × Candidate × Nat) where
  cmd a c := c = .markerBlock a.1 a.2.1 a.2.2.2
  pre a s := Runs s ∧ s.dev.laneOn a.1 = true ∧ (lane s.dev a.1).align = 2 ∧ (lane s.dev a.1).candidates = [a.2.2.1] ∧
    a.2.2.1.confirmed = 3 ∧ s.nowAt a.2.2.2 = a.2.2.1.instant + 1600 ∧ (heard a.2.1).crcOk = true ∧
    (heard a.2.1).counter = (a.2.2.1.counter + 1) % 65536 ∧ (lane s.dev (twin a.1)).align ≠ 3 ∧ s.dev.isLead = true ∧
    s.dev.ch.upstream = none ∧ s.dev.ch.enumerated = true ∧ s.dev.time.seeded = false ∧ s.dev.port (lanePort a.1) = {}
  parts := [.link]
  objs a := among [laneAdr a.1 7, laneAdr a.1 0x0C]
  post a s d := d.out = [] ∧ onlyLane a.1 s.dev d ∧ (lane d a.1).align = 3 ∧ (lane d a.1).candidates = [] ∧
    (lane d a.1).attempt = false ∧ (lane d a.1).fails = 0 ∧ (lane d a.1).counter = (heard a.2.1).counter ∧
    d.int (laneAdr a.1 0x0C) = (heard a.2.1).counter ∧ (d.port (lanePort a.1)).far = markerByte (heard a.2.1)

/-- R286: in Sync a marker-like block at any other position is payload: nothing changes. -/
abbrev markerElsewhere : Rule (Fin 4 × Arrival × Nat) where
  cmd a c := c = .markerBlock a.1 a.2.1 a.2.2
  pre a s := Runs s ∧ (lane s.dev a.1).align = 3 ∧ (lane s.dev a.1).instant + 4 ≤ s.nowAt a.2.2 ∧
    s.nowAt a.2.2 + 4 ≤ (lane s.dev a.1).instant + 1600 ∧ headerOf a.2.1.block = 2 ∧ (payloadOf a.2.1.block).toNat % 256 = 0xD2
  parts := []
  objs _ := among []
  post _ _ d := d.out = []

/-- Table 12.6a, R283: in Sync a good marker at the expected position is accepted: its counter is the last one, the bad
markers in a row are none, and its link state byte is the far end's. -/
abbrev markerAccepted : Rule (Fin 4 × Arrival × Nat) where
  cmd a c := c = .markerBlock a.1 a.2.1 a.2.2
  pre a s := Runs s ∧ s.dev.laneOn a.1 = true ∧ (lane s.dev a.1).align = 3 ∧
    s.nowAt a.2.2 = (lane s.dev a.1).instant + 1600 ∧ (heard a.2.1).crcOk = true ∧
    (heard a.2.1).counter = ((lane s.dev a.1).counter + 1) % 65536 ∧ (lane s.dev (twin a.1)).align ≠ 3 ∧ s.dev.isLead = true ∧
    s.dev.ch.upstream = none ∧ s.dev.ch.enumerated = true ∧ s.dev.time.seeded = false
  parts := [.link]
  objs a := among [laneAdr a.1 0x0C]
  post a s d := d.out = [] ∧ onlyLane a.1 s.dev d ∧
    lane d a.1 = { lane s.dev a.1 with counter := (heard a.2.1).counter, instant := s.nowAt a.2.2, bad := 0 } ∧
    d.int (laneAdr a.1 0x0C) = (heard a.2.1).counter ∧ (d.port (lanePort a.1)).far = markerByte (heard a.2.1)

/-- Table 12.6a: at the expected position of a lane in Sync a third bad marker in a row ends it: the lane is down, and hunts. -/
abbrev markerBad : Rule (Fin 4 × Arrival × Nat) where
  cmd a c := c = .markerBlock a.1 a.2.1 a.2.2
  pre a s := Runs s ∧ s.dev.laneOn a.1 = true ∧ (lane s.dev a.1).align = 3 ∧
    s.nowAt a.2.2 = (lane s.dev a.1).instant + 1600 ∧ (heard a.2.1).crcOk = false ∧ headerOf a.2.1.block = 2 ∧
    (payloadOf a.2.1.block).toNat % 256 = 0xD2 ∧ (lane s.dev a.1).bad = 2 ∧
    (lane s.dev a.1).attempt = false ∧ (lane s.dev (twin a.1)).align = 3 ∧ (lane s.dev a.1).retrains.length < 7
  parts := [.link, .hlt, .rcd, .diag, .can]
  objs a x := eventObjs x || among [laneAdr a.1 3, laneAdr a.1 6, laneAdr a.1 7] x
  post a s d := onlyLane a.1 s.dev d ∧ (lane d a.1).align = 2 ∧ (lane d a.1).attempt = true ∧ (lane d a.1).bad = 0 ∧
    d.int (laneAdr a.1 3) = (s.dev.int (laneAdr a.1 3) + 1) % 2 ^ 32

/-- Table 12.6a: anything else than a good marker at the expected position: the count of bad markers rises by one, and below
3 the lane stays in Sync. -/
abbrev expectedMarkerPosition : Rule (Fin 4 × Nat) where
  cmd a c := c = .expectedMarkerPosition a.1 a.2
  pre a s := Runs s ∧ s.dev.laneOn a.1 = true ∧ (lane s.dev a.1).align = 3 ∧ (lane s.dev a.1).bad < 2
  parts := [.link]
  objs a := among [laneAdr a.1 3]
  post a s d := d.out = [] ∧ onlyLane a.1 s.dev d ∧ (lane d a.1).align = 3 ∧ (lane d a.1).bad = (lane s.dev a.1).bad + 1 ∧
    (lane d a.1).instant = (lane s.dev a.1).instant + 1600 ∧ d.link.ports = s.dev.link.ports ∧
    d.int (laneAdr a.1 3) = (s.dev.int (laneAdr a.1 3) + 1) % 2 ^ 32

/-- Table 12.6a: in Hunt anything else 250 blocks after a candidate's position drops the candidate. -/
abbrev expectedMarkerHunt : Rule (Fin 4 × Candidate × Nat) where
  cmd a c := c = .expectedMarkerPosition a.1 a.2.2
  pre a s := Runs s ∧ s.dev.laneOn a.1 = true ∧ (lane s.dev a.1).align = 2 ∧ (lane s.dev a.1).candidates = [a.2.1] ∧
    s.nowAt a.2.2 = a.2.1.instant + 1600
  parts := [.link]
  objs _ := among []
  post a s d := d.out = [] ∧
    d.link = { s.dev.link with lanes := s.dev.link.lanes.set a.1 { lane s.dev a.1 with candidates := [] } }

/-- R278: of a lane only what adaptation sets may differ. -/
abbrev adaptedOnly (a b : Lane) : Prop := b = { a with ctle := b.ctle, dfe := b.dfe, pinned := b.pinned }

/-- R282, R289: at a frame start the mode is bonded where the far end receives both lanes good and withholds neither, and
else single on a lane that qualifies, lane 0 first, and else training; the marker that leaves states it. -/
abbrev frameStart : Rule (Port × Nat) where
  cmd a c := c = .frameStart a.1 a.2
  pre a s := Runs s ∧ s.chainAt a.2 % 1600 = 0 ∧ s.dev.portEnabled a.1 = true ∧ s.dev.hlt.enforcing = false ∧ (lane s.dev (laneOf a.1 1)).thermal = false ∧
    s.dev.nat 0x290002 = 0 ∧ s.dev.nat (portAdr a.1 2) = 2 ∧ (lane s.dev (laneOf a.1 0)).thermal = false ∧
    (s.dev.port a.1).skew = false ∧ (s.dev.port a.1).guests = [] ∧ s.dev.isLead = true ∧ s.dev.ch.enumerated = true
  parts := [.link]
  objs _ := among []
  post a s d :=
    let far := (s.dev.port a.1).far
    let mode := if far.testBit 4 && far.testBit 5 && !far.testBit 2 && !far.testBit 3 then 0
      else if far.testBit 4 && !far.testBit 2 then 1
      else if far.testBit 5 && !far.testBit 3 then 2 else 3
    let good := fun (n : Fin 2) => decide ((lane s.dev (laneOf a.1 n)).align = 3)
    let m : Marker := ⟨true, s.chainAt a.2 / 1600 % 65536, 16 * s.chainAt a.2, mode, good 0, good 1, false, false,
      s.dev.downstreamPort a.1, s.dev.timeGood⟩
    d.out = [.marker a.1 (markerPayload m)] ∧ (∀ k : Fin 4, adaptedOnly (lane s.dev k) (lane d k)) ∧
      d.port a.1 = { s.dev.port a.1 with mode := mode } ∧ d.port (otherPort a.1) = s.dev.port (otherPort a.1)

/-- R278, Table 12.2: at a frame start a lane's boost and tap in force that lie outside its band's bounds walk towards them by a
step, 0.5 dB and 5 mV; a lane that is off or without block lock does not adapt. -/
abbrev frameStartAdapts : Rule (Port × Nat) where
  cmd a c := c = .frameStart a.1 a.2
  pre a s := Runs s ∧ s.chainAt a.2 % 1600 = 0 ∧ s.dev.portEnabled a.1 = true ∧ s.dev.hlt.enforcing = false ∧
    (∀ n : Fin 2, (lane s.dev (laneOf a.1 n)).thermal = false ∧ s.dev.laneOn (laneOf a.1 n) = true) ∧
    (lane s.dev (laneOf a.1 0)).align = 1 ∧ (lane s.dev (laneOf a.1 1)).align = 0 ∧ (s.dev.port a.1).guests = [] ∧
    s.dev.isLead = true ∧ s.dev.ch.enumerated = true
  parts := [.link]
  objs _ := among []
  post a s d :=
    let q := equaliser s.dev.link.band
    let l := lane s.dev (laneOf a.1 0)
    lane d (laneOf a.1 1) = lane s.dev (laneOf a.1 1) ∧
      (q.2.1 < l.ctle → (lane d (laneOf a.1 0)).ctle = max q.2.1 (l.ctle - 5)) ∧
      (l.ctle < q.1 → (lane d (laneOf a.1 0)).ctle = min q.1 (l.ctle + 5)) ∧
      (q.2.2 < l.dfe → (lane d (laneOf a.1 0)).dfe = max q.2.2 (l.dfe - 5)) ∧
      (l.dfe < -q.2.2 → (lane d (laneOf a.1 0)).dfe = min (-q.2.2) (l.dfe + 5))

/-- R282: a frame starts at chain-time multiples of 1,600 ns only. -/
abbrev frameStartOffGrid : Rule (Port × Nat) where
  cmd a c := c = .frameStart a.1 a.2
  pre a s := Runs s ∧ s.chainAt a.2 % 1600 ≠ 0
  parts := []
  objs _ := among []
  post _ _ d := d.out = []

/-- R280, R298: a block with an invalid sync header is counted as errored: in the header errors of Table 12.16. -/
abbrev blockHeaderBad : Rule (Fin 4 × Arrival × Nat) where
  cmd a c := c = .markerBlock a.1 a.2.1 a.2.2
  pre a s := Runs s ∧ s.dev.laneOn a.1 = true ∧ (lane s.dev a.1).align = 1 ∧ headerOf a.2.1.block = 3
  parts := [.link]
  objs a := among [laneAdr a.1 2]
  post a s d := d.out = [] ∧ onlyLane a.1 s.dev d ∧ (lane d a.1).align = 1 ∧
    d.int (laneAdr a.1 2) = (s.dev.int (laneAdr a.1 2) + 1) % 2 ^ 32

/-- R281, R298: in Sync a control block whose CRC-8 fails is discarded and counted. -/
abbrev blockControlBad : Rule (Fin 4 × Arrival × Nat) where
  cmd a c := c = .markerBlock a.1 a.2.1 a.2.2
  pre a s := Runs s ∧ s.dev.laneOn a.1 = true ∧ (lane s.dev a.1).align = 3 ∧ headerOf a.2.1.block = 2 ∧
    (payloadOf a.2.1.block).toNat % 256 = 0x66 ∧ controlOk (payloadOf a.2.1.block) = false ∧
    (lane s.dev a.1).instant + 4 ≤ s.nowAt a.2.2 ∧ s.nowAt a.2.2 + 4 ≤ (lane s.dev a.1).instant + 1600
  parts := [.link]
  objs a := among [laneAdr a.1 4]
  post a s d := d.out = [] ∧ onlyLane a.1 s.dev d ∧ (lane d a.1).align = 3 ∧
    d.int (laneAdr a.1 4) = (s.dev.int (laneAdr a.1 4) + 1) % 2 ^ 32

/-- Table 13.2: the use of the block position at which a port's lane 0 stands. -/
def useAt (s : State) (p : Port) (t : Nat) : Nat :=
  upstreamUse ((s.nowAt t - (lane s.dev (laneOf p 0)).instant) * 10 / 64 % 250)

/-- R311: what arrives on the port comes in an open position, or in the downstream direction. -/
abbrev InOpen (s : State) (p : Port) (t : Nat) : Prop := s.dev.upstreamIn p = false ∨ useAt s p t = 3

/-- R311, R313: in the upstream direction nothing is taken from a guard band, nor from the report slot of a frame whose slot
error was too large. -/
abbrev messageSlotDropped : Rule (Port × Msg × Nat × Nat) where
  cmd a c := c = .messageReceived a.1 a.2.1 a.2.2.1 a.2.2.2
  pre a s := Runs s ∧ s.dev.upstreamIn a.1 = true ∧ (lane s.dev (laneOf a.1 0)).align = 3 ∧
    (useAt s a.1 a.2.2.2 = 1 ∨ (useAt s a.1 a.2.2.2 = 2 ∧ (s.dev.port a.1).slotBad = true))
  parts := []
  objs _ := among []
  post _ _ d := d.out = []

/-- R317, R309: a break notice is forwarded out of the other port in either direction, its hops raised by one. -/
abbrev messageBreakNotice : Rule (Port × Msg × List Byte × Nat) where
  cmd a c := c = .messageReceived a.1 { a.2.1 with body := 3 :: a.2.2.1 } (crc32 (3 :: a.2.2.1)) a.2.2.2
  pre a s := Runs s ∧ (lane s.dev (laneOf a.1 0)).align = 3 ∧ InOpen s a.1 a.2.2.2 ∧ a.2.1.cls = 1 ∧ a.2.1.kind = 8 ∧
    a.2.1.dest = 63 ∧ s.dev.portUp (otherPort a.1) = true ∧ s.dev.ch.splitPort = none ∧ s.dev.link.last = []
  parts := [.link]
  objs _ := among []
  post a _ d := d.out = [.message (otherPort a.1) (hopRaised { a.2.1 with body := 3 :: a.2.2.1 })]

/-- R292: a data or management message for this device, whole and with the expected sequence, is delivered and acknowledged. -/
abbrev messageReceived : Rule (Port × Msg × Nat) where
  cmd a c := c = .messageReceived a.1 a.2.1 (crc32 a.2.1.body) a.2.2
  pre a s := Runs s ∧ InOpen s a.1 a.2.2 ∧ (lane s.dev (laneOf a.1 0)).align = 3 ∧ (a.2.1.cls = 2 ∨ a.2.1.cls = 3) ∧ a.2.1.segmented = false ∧
    s.dev.isMine a.2.1.dest = true ∧ a.2.1.seq = (reliable s.dev a.1 a.2.1.cls).expected ∧ a.2.1.seq < 256
  parts := [.link]
  objs _ := among []
  post a s d := d.out = [.linkControl a.1 (linkControlBlock 0 a.2.1.cls a.2.1.seq)] ∧ onlyClass a.1 a.2.1.cls s.dev d ∧
    reliable d a.1 a.2.1.cls =
      { reliable s.dev a.1 a.2.1.cls with expected := ((reliable s.dev a.1 a.2.1.cls).expected + 1) % 256 }

/-- R292: a message with a bad CRC is answered by a negative acknowledgement that carries the expected sequence. -/
abbrev messageBadCrc : Rule (Port × Msg × Nat × Nat) where
  cmd a c := c = .messageReceived a.1 a.2.1 a.2.2.1 a.2.2.2
  pre a s := Runs s ∧ InOpen s a.1 a.2.2.2 ∧ a.2.2.1 ≠ crc32 a.2.1.body ∧ (lane s.dev (laneOf a.1 0)).align = 3 ∧ (a.2.1.cls = 2 ∨ a.2.1.cls = 3)
  parts := [.link]
  objs a := among [laneAdr (laneOf a.1 0) 5]
  post a s d := d.out = [.linkControl a.1 (linkControlBlock 1 a.2.1.cls (reliable s.dev a.1 a.2.1.cls).expected)] ∧
    d.link.ports = s.dev.link.ports ∧ onlyLane (laneOf a.1 0) s.dev d ∧
    d.int (laneAdr (laneOf a.1 0) 5) = (s.dev.int (laneAdr (laneOf a.1 0) 5) + 1) % 2 ^ 32

/-- R292: a gap is answered by a negative acknowledgement, and a sequence behind the expected one is acknowledged again; the
message is discarded. -/
abbrev messageGap : Rule (Port × Msg × Nat) where
  cmd a c := c = .messageReceived a.1 a.2.1 (crc32 a.2.1.body) a.2.2
  pre a s := Runs s ∧ InOpen s a.1 a.2.2 ∧ (lane s.dev (laneOf a.1 0)).align = 3 ∧ (a.2.1.cls = 2 ∨ a.2.1.cls = 3) ∧ a.2.1.seq < 256 ∧
    (reliable s.dev a.1 a.2.1.cls).expected < 256 ∧ a.2.1.seq ≠ (reliable s.dev a.1 a.2.1.cls).expected
  parts := []
  objs _ := among []
  post a s d := d.out = [.linkControl a.1
    (if ahead8 (reliable s.dev a.1 a.2.1.cls).expected a.2.1.seq then linkControlBlock 0 a.2.1.cls a.2.1.seq
      else linkControlBlock 1 a.2.1.cls (reliable s.dev a.1 a.2.1.cls).expected)]

/-- R292, R309: a control message that is broadcast is forwarded away from the lead at once; its sequence is the last of its
source. -/
abbrev messageBroadcast : Rule (Port × Msg × Nat) where
  cmd a c := c = .messageReceived a.1 a.2.1 (crc32 a.2.1.body) a.2.2
  pre a s := Runs s ∧ InOpen s a.1 a.2.2 ∧ (lane s.dev (laneOf a.1 0)).align = 3 ∧ a.2.1.cls = 1 ∧ a.2.1.dest = 63 ∧ s.dev.ch.upstream = some a.1 ∧
    s.dev.portUp (otherPort a.1) = true ∧ s.dev.isLead = false ∧ s.dev.link.last = [] ∧
    s.dev.ch.ring = false ∧ s.dev.ch.splitPort = none
  parts := [.link]
  objs _ := among []
  post a s d := d.out = [.message (otherPort a.1) (hopRaised a.2.1)] ∧
    d.link = { s.dev.link with last := [((a.2.1.source, 1), a.2.1.seq % 256)] }

/-- R292: a copy whose sequence is not ahead of the last of its source and class is dropped. -/
abbrev messageCopy : Rule (Port × Msg × Nat) where
  cmd a c := c = .messageReceived a.1 a.2.1 (crc32 a.2.1.body) a.2.2
  pre a s := Runs s ∧ a.2.1.cls = 1 ∧ s.dev.link.last = [((a.2.1.source, 1), a.2.1.seq)] ∧ a.2.1.seq < 256
  parts := []
  objs _ := among []
  post _ _ d := d.out = []

/-- R292, R299: a guest message that fails its CRC is dropped and counted. -/
abbrev messageGuestBad : Rule (Port × Msg × Nat × Nat) where
  cmd a c := c = .messageReceived a.1 a.2.1 a.2.2.1 a.2.2.2
  pre a s := Runs s ∧ InOpen s a.1 a.2.2.2 ∧ a.2.2.1 ≠ crc32 a.2.1.body ∧ (lane s.dev (laneOf a.1 0)).align = 3 ∧ a.2.1.cls = 4
  parts := [.link]
  objs a := among [laneAdr (laneOf a.1 0) 5, portAdr a.1 8]
  post a s d := d.out = [] ∧ d.link.ports = s.dev.link.ports ∧
    d.int (portAdr a.1 8) = (s.dev.int (portAdr a.1 8) + 1) % 2 ^ 32

/-- R292: an acknowledgement takes the message, and those before it, out of the replay buffer. -/
abbrev linkAcknowledgement : Rule (Port × Nat × Outgoing × List Outgoing × Nat) where
  cmd a c := c = .linkAcknowledgement a.1 a.2.1 a.2.2.1.seq a.2.2.2.2
  pre a s := Runs s ∧ (a.2.1 = 2 ∨ a.2.1 = 3) ∧ (reliable s.dev a.1 a.2.1).replay = a.2.2.1 :: a.2.2.2.1 ∧
    (reliable s.dev a.1 a.2.1).queue = [] ∧ s.dev.tiles.transfer = []
  parts := [.link]
  objs _ := among []
  post a s d := d.out = [] ∧ onlyClass a.1 a.2.1 s.dev d ∧
    reliable d a.1 a.2.1 = { reliable s.dev a.1 a.2.1 with replay := a.2.2.2.1 }

/-- R292: on a negative acknowledgement every unacknowledged message is sent again from the oldest, with the resent bit. -/
abbrev linkNegativeAcknowledgement : Rule (Port × Nat × Outgoing × Nat × Nat) where
  cmd a c := c = .linkNegativeAcknowledgement a.1 a.2.1 a.2.2.2.1 a.2.2.2.2
  pre a s := Runs s ∧ (a.2.1 = 2 ∨ a.2.1 = 3) ∧ (reliable s.dev a.1 a.2.1).replay = [a.2.2.1] ∧ a.2.2.1.sends < 4 ∧
    (reliable s.dev a.1 a.2.1).busyUntil = none ∧ (reliable s.dev a.1 a.2.1).queue = []
  parts := [.link]
  objs a := among [portAdr a.1 6]
  post a s d := d.out = [.resent a.1 a.2.1 a.2.2.1.seq a.2.2.1.emit] ∧ onlyClass a.1 a.2.1 s.dev d ∧
    reliable d a.1 a.2.1 = { reliable s.dev a.1 a.2.1 with replay := [{ a.2.2.1 with sends := a.2.2.1.sends + 1, sentAt := s.nowAt a.2.2.2.2 }] } ∧
    d.int (portAdr a.1 6) = (s.dev.int (portAdr a.1 6) + 1) % 2 ^ 32

/-- R292: with no acknowledgement within 10 µs the messages are sent again. -/
abbrev replayTimeout : Rule (Port × Nat × Outgoing × Nat) where
  cmd a c := c = .replayTimeout a.1 a.2.1 a.2.2.2
  pre a s := Runs s ∧ a.2.2.1.sentAt + 10000 ≤ s.nowAt a.2.2.2 ∧ (a.2.1 = 2 ∨ a.2.1 = 3) ∧ (reliable s.dev a.1 a.2.1).replay = [a.2.2.1] ∧ a.2.2.1.sends < 4 ∧
    (reliable s.dev a.1 a.2.1).busyUntil = none ∧ (reliable s.dev a.1 a.2.1).queue = []
  parts := [.link]
  objs a := among [portAdr a.1 6]
  post a s d := d.out = [.resent a.1 a.2.1 a.2.2.1.seq a.2.2.1.emit] ∧ onlyClass a.1 a.2.1 s.dev d ∧
    reliable d a.1 a.2.1 = { reliable s.dev a.1 a.2.1 with replay := [{ a.2.2.1 with sends := a.2.2.1.sends + 1, sentAt := s.nowAt a.2.2.2 }] }

/-- R292: a message sent 4 times without acknowledgement is undeliverable: it is dropped and counted. -/
abbrev replayUndeliverable : Rule (Port × Nat × Outgoing × Nat) where
  cmd a c := c = .replayTimeout a.1 a.2.1 a.2.2.2
  pre a s := Runs s ∧ a.2.2.1.sentAt + 10000 ≤ s.nowAt a.2.2.2 ∧ (a.2.1 = 2 ∨ a.2.1 = 3) ∧ (reliable s.dev a.1 a.2.1).replay = [a.2.2.1] ∧ a.2.2.1.sends = 4 ∧
    (reliable s.dev a.1 a.2.1).busyUntil = none ∧ (reliable s.dev a.1 a.2.1).queue = [] ∧ s.dev.portTo a.2.2.1.dest = some a.1
  parts := [.link, .rcd, .diag, .can]
  objs a x := eventObjs x || among [portAdr a.1 7] x
  post a s d := onlyClass a.1 a.2.1 s.dev d ∧ reliable d a.1 a.2.1 = { reliable s.dev a.1 a.2.1 with replay := [] } ∧
    d.int (portAdr a.1 7) = (s.dev.int (portAdr a.1 7) + 1) % 2 ^ 32

/-- R292: a replay time-out acts only 10 µs after the oldest message was sent. -/
abbrev replayTimeoutEarly : Rule (Port × Nat × Outgoing × Nat) where
  cmd a c := c = .replayTimeout a.1 a.2.1 a.2.2.2
  pre a s := Runs s ∧ (a.2.1 = 2 ∨ a.2.1 = 3) ∧ (reliable s.dev a.1 a.2.1).replay.head? = some a.2.2.1 ∧
    s.nowAt a.2.2.2 < a.2.2.1.sentAt + 10000
  parts := []
  objs _ := among []
  post _ _ d := d.out = []

/-- R292: a busy negative acknowledgement is counted, and the class waits 10 µs before it sends again. -/
abbrev linkBusy : Rule (Port × Nat × Nat × Nat) where
  cmd a c := c = .linkBusy a.1 a.2.1 a.2.2.1 a.2.2.2
  pre a s := Runs s ∧ (a.2.1 = 2 ∨ a.2.1 = 3)
  parts := [.link]
  objs a := among [portAdr a.1 9]
  post a s d := d.out = [] ∧ onlyClass a.1 a.2.1 s.dev d ∧
    reliable d a.1 a.2.1 = { reliable s.dev a.1 a.2.1 with busyUntil := some (s.nowAt a.2.2.2 + 10000) } ∧
    d.int (portAdr a.1 9) = (s.dev.int (portAdr a.1 9) + 1) % 2 ^ 32

/-- R292: the wait ends and the messages are sent again, which counts as no attempt. -/
abbrev busyWaitEnd : Rule (Port × Nat × Outgoing × Nat × Nat) where
  cmd a c := c = .busyWaitEnd a.1 a.2.1 a.2.2.2.2
  pre a s := Runs s ∧ (a.2.1 = 2 ∨ a.2.1 = 3) ∧ (reliable s.dev a.1 a.2.1).replay = [a.2.2.1] ∧
    (reliable s.dev a.1 a.2.1).busyUntil = some a.2.2.2.1 ∧ a.2.2.2.1 ≤ s.nowAt a.2.2.2.2 ∧ (reliable s.dev a.1 a.2.1).queue = []
  parts := [.link]
  objs a := among [portAdr a.1 6]
  post a s d := d.out = [.resent a.1 a.2.1 a.2.2.1.seq a.2.2.1.emit] ∧ onlyClass a.1 a.2.1 s.dev d ∧
    reliable d a.1 a.2.1 = { reliable s.dev a.1 a.2.1 with
      busyUntil := none, replay := [{ a.2.2.1 with sentAt := s.nowAt a.2.2.2.2 }] }

/-- R295: a transfer with a segment missing 10 ms after its first is discarded. -/
abbrev segmentTimeout : Rule (Segments × Nat) where
  cmd a c := c = .segmentTimeout a.1.source a.2
  pre a s := Runs s ∧ s.dev.link.segments = [a.1] ∧ a.1.since + 10000000 ≤ s.nowAt a.2
  parts := [.link]
  objs _ := among []
  post _ s d := d.out = [] ∧ d.link = { s.dev.link with segments := [] }

/-- R299: a guest message that has waited longer than 2 ms is dropped and counted. -/
abbrev guestMessageTimeout : Rule (Port × Msg × Nat × Nat) where
  cmd a c := c = .guestMessageTimeout a.1 a.2.2.2
  pre a s := Runs s ∧ (s.dev.port a.1).guests = [(a.2.1, a.2.2.1)] ∧ a.2.2.1 + 2000000 < s.nowAt a.2.2.2
  parts := [.link]
  objs a := among [portAdr a.1 8]
  post a s d := d.out = [] ∧ d.link.lanes = s.dev.link.lanes ∧ d.port a.1 = { s.dev.port a.1 with guests := [] } ∧
    d.port (otherPort a.1) = s.dev.port (otherPort a.1) ∧ d.int (portAdr a.1 8) = (s.dev.int (portAdr a.1 8) + 1) % 2 ^ 32

/-- R298: more errored blocks within 1 s than the threshold: the lane's alarm, and the lane goes down and trains again. -/
abbrev errorRateAlarm : Rule (Fin 4 × Nat × Nat) where
  cmd a c := c = .errorRateAlarm a.1 a.2.1 a.2.2
  pre a s := Runs s ∧ s.dev.laneOn a.1 = true ∧ s.dev.nat 0x290001 < a.2.1 ∧ a.2.1 < 2 ^ 32 ∧ (lane s.dev a.1).trained = true ∧
    (lane s.dev a.1).attempt = false ∧ (lane s.dev (twin a.1)).align = 3 ∧ (lane s.dev a.1).retrains.length < 7
  parts := [.link, .hlt, .rcd, .diag, .can]
  objs a x := eventObjs x || among [laneAdr a.1 6, laneAdr a.1 7, laneAdr a.1 8] x
  post a s d := onlyLane a.1 s.dev d ∧ (lane d a.1).alarm = true ∧ (lane d a.1).align = 0 ∧ (lane d a.1).attempt = true ∧
    d.int (laneAdr a.1 8) = a.2.1

/-- R298: at or below the threshold there is no alarm. -/
abbrev errorRateBelow : Rule (Fin 4 × Nat × Nat) where
  cmd a c := c = .errorRateAlarm a.1 a.2.1 a.2.2
  pre a s := Runs s ∧ a.2.1 ≤ s.dev.nat 0x290001
  parts := []
  objs _ := among []
  post _ _ d := d.out = []

/-- Table 12.11: after its back-off a lane that is down is trained again, and the retrain is counted. -/
abbrev retrainAttempt : Rule (Fin 4 × Nat) where
  cmd a c := c = .retrainAttempt a.1 a.2
  pre a s := Runs s ∧ s.dev.laneOn a.1 = true ∧ (lane s.dev a.1).align ≠ 3 ∧ (lane s.dev a.1).attempt = false ∧
    (lane s.dev a.1).retryAt ≤ s.nowAt a.2 ∧ (lane s.dev a.1).retrains.length < 7
  parts := [.link]
  objs a := among [laneAdr a.1 6]
  post a s d := d.out = [] ∧ onlyLane a.1 s.dev d ∧ (lane d a.1).attempt = true ∧ (lane d a.1).align = (lane s.dev a.1).align ∧
    d.link.ports = s.dev.link.ports ∧ d.int (laneAdr a.1 6) = (s.dev.int (laneAdr a.1 6) + 1) % 2 ^ 32

/-- Table 12.11: the eighth retrain within 60 s retires the lane, and the retired lane map is kept in MRAM. -/
abbrev retrainRetires : Rule (Fin 4 × Nat) where
  cmd a c := c = .retrainAttempt a.1 a.2
  pre a s := Runs s ∧ s.dev.laneOn a.1 = true ∧ (lane s.dev a.1).align ≠ 3 ∧ (lane s.dev a.1).attempt = false ∧
    (lane s.dev a.1).retryAt ≤ s.nowAt a.2 ∧ (lane s.dev a.1).retrains.length = 7 ∧
    ((lane s.dev a.1).retrains.all fun t => s.nowAt a.2 < t + 60000000000) = true ∧ (lane s.dev (twin a.1)).align = 3
  parts := [.link, .hlt, .nvm, .rcd, .diag, .can]
  objs a x := eventObjs x || among [laneAdr a.1 6, 0x290002, 0x310004] x
  post a s d := onlyLane a.1 s.dev d ∧ d.bit 0x290002 a.1 = true ∧ (lane d a.1).attempt = false ∧ (lane d a.1).align = 0 ∧
    storeGet d.nvm.kept 0x290002 = storeGet d.obj 0x290002

/-- Table 12.11: an attempt that has not reached Sync in 20 ms has failed: the back-off before attempts 2, 3 and 4 is 1 ms, 10 ms and 100 ms. -/
abbrev retrainTimeout : Rule (Fin 4 × Nat) where
  cmd a c := c = .retrainTimeout a.1 a.2
  pre a s := Runs s ∧ (lane s.dev a.1).attempt = true ∧ (lane s.dev a.1).attemptAt + 20000000 ≤ s.nowAt a.2 ∧ (lane s.dev a.1).align ≠ 3 ∧ s.dev.laneRetired a.1 = false ∧
    (lane s.dev a.1).fails < 3
  parts := [.link]
  objs a := among [laneAdr a.1 7]
  post a s d := d.out = [] ∧ d.int (laneAdr a.1 7) = (lane s.dev a.1).fails + 1 ∧
    d.link = { s.dev.link with lanes := s.dev.link.lanes.set a.1 { lane s.dev a.1 with
      attempt := false, fails := (lane s.dev a.1).fails + 1, retryAt := s.nowAt a.2 +
        (if (lane s.dev a.1).fails = 0 then 1000000 else if (lane s.dev a.1).fails = 1 then 10000000 else 100000000) } }

/-- Table 12.11: the fourth failure in a row retires the lane. -/
abbrev retrainTimeoutRetires : Rule (Fin 4 × Nat) where
  cmd a c := c = .retrainTimeout a.1 a.2
  pre a s := Runs s ∧ (lane s.dev a.1).attempt = true ∧ (lane s.dev a.1).attemptAt + 20000000 ≤ s.nowAt a.2 ∧ (lane s.dev a.1).align ≠ 3 ∧ s.dev.laneRetired a.1 = false ∧
    (lane s.dev a.1).fails = 3 ∧ (lane s.dev (twin a.1)).align = 3
  parts := [.link, .hlt, .nvm, .rcd, .diag, .can]
  objs a x := eventObjs x || among [laneAdr a.1 7, 0x290002, 0x310004] x
  post a s d := onlyLane a.1 s.dev d ∧ d.bit 0x290002 a.1 = true ∧ (lane d a.1).attempt = false ∧
    d.int (laneAdr a.1 7) = 4 ∧ storeGet d.nvm.kept 0x290002 = storeGet d.obj 0x290002

/-- R298: a retired lane that has trained at this start-up and run 1 s with no errored block is reinstated. -/
abbrev laneReinstate : Rule (Fin 4 × Nat) where
  cmd a c := c = .laneReinstate a.1 a.2
  pre a s := Runs s ∧ s.dev.laneRetired a.1 = true ∧ (lane s.dev a.1).retest = true ∧ (lane s.dev a.1).align = 3 ∧
    (lane s.dev a.1).syncAt + 1000000000 ≤ s.nowAt a.2 ∧ (lane s.dev a.1).errors = []
  parts := [.link, .nvm, .rcd, .diag, .can]
  objs _ x := eventObjs x || among [0x290002, 0x310004] x
  post a s d := d.bit 0x290002 a.1 = false ∧ storeGet d.nvm.kept 0x290002 = storeGet d.obj 0x290002 ∧
    d.link = { s.dev.link with lanes := s.dev.link.lanes.set a.1 { lane s.dev a.1 with retest := false } }

/-- R298: a write of a retired lane's number clears it from the map; it is trained at the next start-up. -/
abbrev retiredLaneRetestWrite : Rule (Fin 4) where
  cmd k c := c = .retiredLaneRetestWrite .host k.val
  pre k s := HostMay s 0x290003 (.num k.val) ∧ s.dev.laneRetired k = true ∧ (lane s.dev k).retest = false
  parts := [.jrn, .link, .nvm]
  objs _ := among [0x110003, 0x290002, 0x310004]
  post k s d := HostTook s d 3 (.write 0x290003 (.num k.val)) ∧ d.bit 0x290002 k = false ∧
    storeGet d.nvm.kept 0x290002 = storeGet d.obj 0x290002 ∧
    d.link = { s.dev.link with lanes := s.dev.link.lanes.set k { lane s.dev k with parked := true } }

/-- R300: a port whose lanes are not up within 200 ms is down, and its lanes are retried. -/
abbrev portTrainingTimeout : Rule (Port × Nat) where
  cmd a c := c = .portTrainingTimeout a.1 a.2
  pre a s := Runs s ∧ s.dev.portEnabled a.1 = true ∧ s.dev.portUp a.1 = false ∧
    s.dev.power.releasedAt + 200000000 ≤ s.nowAt a.2 ∧ (∀ n : Fin 2, s.dev.laneOn (laneOf a.1 n) = true ∧ (lane s.dev (laneOf a.1 n)).align ≠ 3 ∧
      (lane s.dev (laneOf a.1 n)).attempt = false ∧ (lane s.dev (laneOf a.1 n)).retrains.length < 7)
  parts := [.link]
  objs a := among [laneAdr (laneOf a.1 0) 6, laneAdr (laneOf a.1 1) 6]
  post a s d := d.out = [] ∧ d.port a.1 = { s.dev.port a.1 with down := true } ∧
    d.port (otherPort a.1) = s.dev.port (otherPort a.1) ∧ (∀ n : Fin 2, (lane d (laneOf a.1 n)).attempt = true)

/-! ### The Ulard chain -/

/-- R304: a probe gives a wheeler its upstream port, its position, its arm and its hops, and with them its global outlet
numbers; it answers with a report. -/
abbrev enumerationProbe : Rule (Port × Fin 32 × Port × Nat × Nat) where
  cmd a c := c = .enumerationProbe a.1 a.2.1 a.2.2.1 a.2.2.2.1 a.2.2.2.2
  pre a s := Runs s ∧ s.dev.seq.running = false ∧ s.dev.pins.role = false ∧ s.dev.portUp (otherPort a.1) = false ∧
    (s.dev.nat 0x2A0003 = 255 ∨ s.dev.nat 0x2A0003 = a.2.1) ∧ s.dev.ch.mismatch = false
  parts := [.ch]
  objs _ x := x == 0x2A0002 || (x % 256 == 0x17 && 0x3000 ≤ x / 256 && x / 256 ≤ 0x301F)
  post a s d := d.ch = { s.dev.ch with upstream := some a.1, original := some a.1, arm := a.2.2.1, hops := a.2.2.2.1 } ∧
    d.int 0x2A0002 = a.2.1.val ∧ (∀ n : Fin 32, d.int (outletAdr n 0x17) = 32 * a.2.1.val + n.val) ∧
    Emit.enumeration none (enumerationBody 1 a.2.2.2.1 (s.dev.nat 0x22010E) (reportFields { d.ownReport with position := a.2.1.val })) ∈ d.out

/-- R304: it forwards the probe, with the next position, out of its other port if that port is up. -/
abbrev probeForwarded : Rule (Port × Fin 32 × Port × Nat × Nat) where
  cmd a c := c = .enumerationProbe a.1 a.2.1 a.2.2.1 a.2.2.2.1 a.2.2.2.2
  pre a s := Runs s ∧ s.dev.seq.running = false ∧ s.dev.pins.role = false ∧ s.dev.portUp (otherPort a.1) = true ∧
    s.dev.nat 0x2A0003 = 255 ∧ s.dev.ch.mismatch = false
  parts := [.ch]
  objs _ x := x == 0x2A0002 || (x % 256 == 0x17 && 0x3000 ≤ x / 256 && x / 256 ≤ 0x301F)
  post a s d := Emit.enumeration (some (otherPort a.1))
    (enumerationBody 0 (a.2.2.2.1 + 1) ((s.dev.nat 0x22010E + 1) % 2 ^ 32) (probeFields (a.2.1.val + 1) a.2.2.1)) ∈ d.out

/-- R305: a position that differs from the expected one is named by an event, and the outlets stay out of service. -/
abbrev probeMismatch : Rule (Port × Fin 32 × Port × Nat × Nat) where
  cmd a c := c = .enumerationProbe a.1 a.2.1 a.2.2.1 a.2.2.2.1 a.2.2.2.2
  pre a s := Runs s ∧ s.dev.seq.running = false ∧ s.dev.pins.role = false ∧ s.dev.nat 0x2A0003 ≠ 255 ∧
    s.dev.nat 0x2A0003 ≠ a.2.1 ∧ s.dev.ch.mismatch = false
  parts := [.ch, .rcd, .diag, .can]
  objs _ x := eventObjs x || x == 0x2A0002 || (x % 256 == 0x17 && 0x3000 ≤ x / 256 && x / 256 ≤ 0x301F)
  post _ _ d := d.ch.mismatch = true ∧ (∀ n : Fin 32, d.outletOut n = true)

/-- R304: a probe of port A that arrives at the lead's port B closes a ring, and the lead sends none on port B. -/
abbrev probeRing : Rule (Nat × Nat × Nat) where
  cmd a c := c = .enumerationProbe .b a.1 .a a.2.1 a.2.2
  pre a s := Runs s ∧ s.dev.seq.running = false ∧ s.dev.pins.role = true ∧ s.dev.ch.probedA = true ∧ 1 < a.2.1
  parts := [.ch]
  objs _ := among []
  post a s d := d.out = [] ∧ d.ch = { s.dev.ch with ring := true, probedB := true, lastReport := s.nowAt a.2.2 }

/-- R306: a second device strapped as lead does not forward a probe: it reports itself, the conflict is raised, and it does
not arm. -/
abbrev probeConflict : Rule (Nat × Nat × Nat) where
  cmd a c := c = .enumerationProbe .a a.1 .a a.2.1 a.2.2
  pre _ s := Runs s ∧ s.dev.seq.running = false ∧ s.dev.pins.role = true ∧ s.dev.ch.conflict = false
  parts := [.ch, .rcd, .diag, .can]
  objs _ := eventObjs
  post a s d := d.ch = { s.dev.ch with conflict := true, rival := true, retryAt := s.nowAt a.2.2 + 1000000000 } ∧ d.mayArm = false ∧
    (d.out.filter fun e => match e with | .enumeration _ _ => true | _ => false) =
      [.enumeration none (enumerationBody 1 s.dev.ch.hops (s.dev.nat 0x22010E) (reportFields d.ownReport))]

/-- R304: before the chain is formed the lead gathers the reports, and a new one starts its 20 ms again. -/
abbrev enumerationReport : Rule (NodeReport × Nat) where
  cmd a c := c = .enumerationReport a.1 a.2
  pre a s := Runs s ∧ s.dev.isLead = true ∧ s.dev.ch.enumerated = false ∧ s.dev.ch.reports = [] ∧
    (a.1.kind ≠ 0 ∨ a.1.position ≠ 0)
  parts := [.ch]
  objs _ := among []
  post a s d := d.out = [] ∧ d.ch = { s.dev.ch with reports := [(a.1, s.nowAt a.2)], lastReport := s.nowAt a.2 }

/-- R312: a guest that had gone missing and reports again is present. -/
abbrev reportReturns : Rule (NodeReport × TableNode × Nat) where
  cmd a c := c = .enumerationReport a.1 a.2.2
  pre a s := Runs s ∧ s.dev.isLead = true ∧ s.dev.ch.enumerated = true ∧ s.dev.ch.table = [a.2.1] ∧
    a.1.identity = a.2.1.identity ∧ a.1.kind = a.2.1.kind ∧ a.2.1.kind = 1 ∧
    s.dev.ch.missingGuests.testBit a.2.1.position = true ∧ a.2.1.position < 16 ∧ s.dev.ch.guests = 0
  parts := [.ch, .rcd, .diag, .can]
  objs _ := eventObjs
  post a s d := d.ch.missingGuests = s.dev.ch.missingGuests - 2 ^ a.2.1.position ∧ d.ch.guests = 2 ^ a.2.1.position

/-- R304: 20 ms after the last new report the lead, here alone, forms the chain: its own position is 0, the chain epoch is
raised and kept in MRAM, and the chain table is broadcast. -/
abbrev enumerationReportWait : Rule Nat where
  cmd t c := c = .enumerationReportWait t
  pre t s := Runs s ∧ s.dev.isLead = true ∧ s.dev.ch.enumerated = false ∧ s.dev.ch.rival = false ∧ s.dev.ch.conflict = false ∧
    s.dev.ch.probedA = true ∧ s.dev.ch.probedB = true ∧ s.dev.time.seeded = true ∧ s.dev.ch.reports = [] ∧
    s.dev.nat 0x2A0003 = 255 ∧ s.dev.ch.mismatch = false ∧ s.dev.jrn.setAside = [] ∧ s.dev.nat 0x2A0008 = 255 ∧
    s.dev.ch.ring = false ∧ s.dev.ch.lastReport + 20000000 ≤ s.nowAt t
  parts := [.ch, .seq, .tiles, .nvm]
  objs _ x := among [0x2A0002, 0x2A0010, 0x2A000C, 0x22010E, 0x310004] x ||
    (x % 256 == 0x17 && 0x3000 ≤ x / 256 && x / 256 ≤ 0x301F)
  post _ s d := d.out = [.enumeration none (enumerationBody 2 0 ((s.dev.nat 0x22010E + 1) % 2 ^ 32)
      (tableFields [⟨Config.nodeIdentity, 0, 0, .a, 0, 255⟩]))] ∧
    d.ch.enumerated = true ∧ d.ch.table = [⟨Config.nodeIdentity, 0, 0, .a, 0, 255⟩] ∧ d.seq.map = 1 ∧
    d.int 0x2A0002 = 0 ∧ d.nat 0x22010E = (s.dev.nat 0x22010E + 1) % 2 ^ 32 ∧
    storeGet d.nvm.kept 0x22010E = storeGet d.obj 0x22010E

/-- R304: when the port A arm is complete the lead probes port B. -/
abbrev reportWaitPortB : Rule Nat where
  cmd t c := c = .enumerationReportWait t
  pre t s := Runs s ∧ s.dev.ch.lastReport + 20000000 ≤ s.nowAt t ∧ s.dev.isLead = true ∧ s.dev.ch.enumerated = false ∧ s.dev.ch.rival = false ∧
    s.dev.ch.probedA = true ∧ s.dev.ch.probedB = false ∧ s.dev.portUp .b = true
  parts := [.ch]
  objs _ := among []
  post t s d := d.out = [.enumeration (some .b) (enumerationBody 0 1 ((s.dev.nat 0x22010E + 1) % 2 ^ 32) (probeFields 1 .b))] ∧ d.ch = { s.dev.ch with probedB := true, lastReport := s.nowAt t }

/-- R304, R303: a wheeler takes the chain table, the epoch, and, where it is named, the standby's role. -/
abbrev chainTable : Rule (List TableNode × TableNode × Nat × Nat × Nat × Nat) where
  cmd a c := c = .chainTable a.1 a.2.2.1 a.2.2.2.1 a.2.2.2.2.1 a.2.2.2.2.2
  pre a s := Runs s ∧ s.dev.nat 0x2A0001 = 0 ∧ s.dev.ch.enumerated = false ∧ s.dev.position < 32 ∧ s.dev.jrn.setAside = [] ∧
    (a.1.find? fun n => n.kind = 0 && n.position = s.dev.position) = some a.2.1 ∧ s.dev.ch.reversed = false
  parts := [.ch, .seq, .tiles]
  objs _ := among [0x2A0001, 0x2A0010, 0x2A000C, 0x22010E]
  post a s d := d.out = [] ∧ d.ch.enumerated = true ∧ d.ch.table = a.1 ∧ d.ch.arm = a.2.1.arm ∧ d.ch.hops = a.2.1.hops ∧
    d.ch.upstream = s.dev.ch.upstream ∧ d.seq.map = a.2.2.2.2.1 ∧ d.int 0x22010E = a.2.2.1 ∧
    d.int 0x2A0001 = (if a.2.2.2.1 = s.dev.position then 2 else 0) ∧
    (a.2.2.1 = s.dev.nat 0x22010E ∨ d.tiles.resend = [])

/-- R306: the conflicting leads retry the enumeration every 1 s. -/
abbrev enumerationRetry : Rule Nat where
  cmd t c := c = .enumerationRetry t
  pre t s := Runs s ∧ s.dev.ch.retryAt ≤ s.nowAt t ∧ s.dev.isLead = true ∧ s.dev.ch.conflict = true ∧ s.dev.ch.enumerated = false ∧ s.dev.portUp .a = true
  parts := [.ch]
  objs _ := among []
  post t s d := d.out = [.enumeration (some .a) (enumerationBody 0 1 ((s.dev.nat 0x22010E + 1) % 2 ^ 32) (probeFields 1 .a))] ∧ d.ch = { s.dev.ch with
    retryAt := s.nowAt t + 1000000000
    rival := false, probedA := true, probedB := false, reports := [], ring := false, lastReport := s.nowAt t }

/-- R317: in a ring a node further past the break takes its other port as its upstream port on the first copy of the notice:
it lies on arm B then, and its hops are those of the other way round. -/
abbrev breakNotice : Rule (TableNode × TableNode × Nat) where
  cmd a c := c = .breakNotice a.1.position a.2.2
  pre a s := Runs s ∧ s.dev.isLead = false ∧ s.dev.ch.ring = true ∧ s.dev.ch.reversed = false ∧
    s.dev.ch.table = [⟨1, 0, 0, .a, 0, 255⟩, a.1, a.2.1] ∧ a.1.kind = 0 ∧ a.1.arm = .a ∧ a.1.position ≠ 0 ∧ a.2.1.kind = 0 ∧ a.2.1.arm = .a ∧
    a.1.hops = 1 ∧ a.2.1.hops = 2 ∧ s.dev.ch.arm = .a ∧ s.dev.ch.hops = 2 ∧ s.dev.seq.leadAt ≠ a.1.position ∧
    a.1.position ≠ 0 ∧ a.2.1.position ≠ 0
  parts := [.ch, .rcd, .diag, .can]
  objs _ x := eventObjs x || among [0x2A000D] x
  post _ s d := d.ch.upstream = s.dev.ch.upstream.map otherPort ∧ d.ch.arm = .b ∧ d.ch.hops = 1 ∧ d.ch.reversed = true ∧
    d.int 0x2A000D = (s.dev.int 0x2A000D + 1) % 2 ^ 32

/-- R319: a broken segment that is back for 1 s: the lead restores the orientation at the next batch boundary. -/
abbrev ringRestore : Rule Nat where
  cmd t c := c = .ringRestore t
  pre _ s := Runs s ∧ s.dev.isLead = true ∧ s.dev.ch.ring = true ∧ s.dev.ch.reversed = true
  parts := [.ch]
  objs _ := among []
  post _ s d := d.out = [] ∧ d.ch = { s.dev.ch with restore := true }

/-- R314: once in 625 frames an echo request leaves on each port that is up, with its latest marker's counter and departure. -/
abbrev echoPeriod : Rule Nat where
  cmd t c := c = .echoPeriod t
  pre t s := Runs s ∧ s.dev.portUp .a = true ∧ s.dev.portUp .b = false ∧
    (s.dev.port .a).echoAt.all (fun e => decide (e + 1000000 ≤ s.nowAt t)) = true
  parts := [.link]
  objs _ := among []
  post t s d := d.out = [.echo .a 0 (echoRequestBody (s.chainAt t / 1600 % 65536) (1600 * (s.chainAt t / 1600)))] ∧
    d.link = (s.dev.setPort .a fun x => { x with echoAt := some (s.nowAt t) }).link

/-- R314: within 625 frames of the last ones no echo request leaves. -/
abbrev echoPeriodEarly : Rule Nat where
  cmd t c := c = .echoPeriod t
  pre t s := Runs s ∧ ∀ k : Fin 4, (s.dev.port (lanePort k)).echoAt.any (fun e => decide (s.nowAt t < e + 1000000)) = true
  parts := []
  objs _ := among []
  post _ _ d := d.out = []

/-- R314, Table 13.3: an echo request is answered on its port, with the counter that it names and the arrival of that marker,
here the latest that lane 0 has accepted, and the responder's own latest marker. -/
abbrev echoRequest : Rule (Port × Nat × Nat) where
  cmd a c := c = .echoRequest a.1 a.2.1 a.2.2
  pre a s := Runs s ∧ s.dev.portUp a.1 = true ∧ (lane s.dev (laneOf a.1 0)).align = 3 ∧ (lane s.dev (laneOf a.1 0)).counter = a.2.1
  parts := []
  objs _ := among []
  post a s d := d.out = [.echo a.1 1 (echoResponseBody a.2.1 ((lane s.dev (laneOf a.1 0)).instant + s.dev.time.offset)
    (s.chainAt a.2.2 / 1600 % 65536) (1600 * (s.chainAt a.2.2 / 1600)))]

/-- R314: half the sum of the two ways joins the last 16 values, whose mean is the link delay in force; half their difference is
the responder's offset. -/
abbrev echoResponse : Rule (Port × Nat × EchoTimes × Nat) where
  cmd a c := c = .echoResponse a.1 a.2.1 a.2.2.1 a.2.2.2
  pre a s := Runs s ∧ s.dev.portUp a.1 = true ∧ (s.dev.port a.1).delays = [] ∧ 0 ≤ a.2.2.1.there + a.2.2.1.back ∧
    a.2.2.1.there + a.2.2.1.back < 2 ^ 32
  parts := [.link]
  objs a := among [0x2A0101 + portIx a.1, 0x2A0105]
  post a s d := d.out = [] ∧ d.int (0x2A0101 + portIx a.1) = (a.2.2.1.there + a.2.2.1.back) / 2 ∧
    d.int 0x2A0105 = (s.dev.int 0x2A0105 + 1) % 2 ^ 32 ∧ (d.port a.1).delays = [(a.2.2.1.there + a.2.2.1.back) / 2] ∧
    (d.port a.1).theta = (a.2.2.1.there - a.2.2.1.back) / 2

/-- R314: a value more than 2 ns off the mean is ignored, unless it is the fourth such in a row. -/
abbrev echoResponseOdd : Rule (Port × Nat × EchoTimes × Int × Nat) where
  cmd a c := c = .echoResponse a.1 a.2.1 a.2.2.1 a.2.2.2.2
  pre a s := Runs s ∧ s.dev.portUp a.1 = true ∧ (s.dev.port a.1).delays = [a.2.2.2.1] ∧ (s.dev.port a.1).odd.length < 3 ∧
    0 ≤ a.2.2.2.1 ∧ a.2.2.2.1 < 2 ^ 32 ∧ 2000 < ((a.2.2.1.there + a.2.2.1.back) / 2 - a.2.2.2.1).natAbs
  parts := [.link]
  objs a := among [0x2A0101 + portIx a.1, 0x2A0105]
  post a s d := d.out = [] ∧ d.int (0x2A0101 + portIx a.1) = a.2.2.2.1 ∧ (d.port a.1).delays = [a.2.2.2.1] ∧
    (d.port a.1).odd.length = (s.dev.port a.1).odd.length + 1

/-- R320: the standby keeps a whole mirror, and reports its batch. -/
abbrev standbyMirror : Rule (Mirror × Nat) where
  cmd a c := c = .standbyMirror a.1 a.2
  pre _ s := Runs s ∧ s.dev.nat 0x2A0001 = 2
  parts := [.ch]
  objs _ := among [0x2A0106]
  post a s d := d.out = [] ∧ d.ch = { s.dev.ch with mirror := some a.1 } ∧ d.int 0x2A0106 = a.1.batch

/-- R321: the next marker on the standby's lead-facing port is 1,150 ns late. -/
abbrev MarkerDue (s : State) (t : Nat) : Prop :=
  ∀ k : Fin 4, s.dev.ch.upstream = some (lanePort k) →
    ((lane s.dev k).instant + 1600 * (s.dev.ch.silent + 1) + 1150 ≤ s.nowAt t)

/-- R321: a marker does not count as missing before that. -/
abbrev markerMissingEarly : Rule (Port × Nat) where
  cmd a c := c = .markerMissing a.2
  pre a s := Runs s ∧ s.dev.ch.upstream = some a.1 ∧
    s.nowAt a.2 < (lane s.dev (laneOf a.1 0)).instant + 1600 * (s.dev.ch.silent + 1) + 1150
  parts := []
  objs _ := among []
  post _ _ d := d.out = []

/-- R321: below the takeover wait a missing marker is only counted. -/
abbrev markerMissing : Rule Nat where
  cmd t c := c = .markerMissing t
  pre t s := Runs s ∧ s.dev.nat 0x2A0001 = 2 ∧ MarkerDue s t ∧ (s.dev.ch.silent + 1 < s.dev.nat 0x2A000C ∨ s.dev.ch.leadAlive = true)
  parts := [.ch]
  objs _ := among []
  post _ s d := d.out = [] ∧ d.ch = { s.dev.ch with silent := s.dev.ch.silent + 1 }

/-- R321, R322: at the takeover wait, with no break notice from the lead, the standby becomes lead by takeover: it is the
time master with no step, sends the takeover notice and, in Phase A, the batch sync, and marks the old lead missing. -/
abbrev takeover : Rule (Nat × Nat) where
  cmd a c := c = .markerMissing a.2
  pre a s := Runs s ∧ s.dev.nat 0x2A0001 = 2 ∧ MarkerDue s a.2 ∧ s.dev.nat 0x2A000C ≤ s.dev.ch.silent + 1 ∧ s.dev.ch.leadAlive = false ∧
    s.dev.ch.mirror = none ∧ s.dev.ch.table = [] ∧ s.dev.tiles.slots = [] ∧ s.dev.seq.leadAt = 0 ∧ s.dev.seq.map = a.1 + 1 ∧
    a.1 % 2 = 0 ∧ s.dev.ch.missing = 0 ∧ s.dev.seq.phase = 0
  parts := [.ch, .seq, .time, .pose, .gnss, .rcd, .diag, .can, .hlt]
  objs _ x := eventObjs x || among [0x2A0001, 0x2A000E] x
  post a s d := d.int 0x2A0001 = 3 ∧ d.isLead = true ∧ d.int 0x2A000E = (s.dev.int 0x2A000E + 1) % 2 ^ 32 ∧
    d.time.offset = s.dev.time.offset ∧ d.seq = { s.dev.seq with map := a.1, leadAt := s.dev.position } ∧ d.ch.missing = 1 ∧
    Emit.enumeration none (enumerationBody 4 0 (s.dev.nat 0x22010E)
      (takeoverFields s.dev.position s.dev.seq.number (s.chainAt a.2))) ∈ d.out ∧ Emit.batchSync s.dev.seq.number s.dev.seq.t0 a.1 ∈ d.out

/-- R323: a takeover notice that names this device: it takes the role at batch N + 2. -/
abbrev takeoverNotice : Rule Nat where
  cmd t c := c = .takeoverNotice 5 t
  pre _ s := Runs s ∧ s.dev.ch.enumerated = true ∧ s.dev.position = 5 ∧ s.dev.isLead = false
  parts := [.ch]
  objs _ := among []
  post _ s d := d.out = [] ∧ d.ch = { s.dev.ch with takeAt := some ((s.dev.seq.number + 2) % 2 ^ 32) }

/-- R322, R351: every other node reorients towards the new lead; the ambiguities of its baseline restart. -/
abbrev takeoverNoticeOther : Rule (TableNode × TableNode × Nat) where
  cmd a c := c = .takeoverNotice a.1.position a.2.2
  pre a s := Runs s ∧ s.dev.ch.enumerated = true ∧ s.dev.isLead = false ∧ s.dev.ch.ring = false ∧
    s.dev.ch.table = [a.1, a.2.1] ∧ a.1.kind = 0 ∧ a.2.1.kind = 0 ∧ a.2.1.position = s.dev.position ∧ a.1.position ≠ s.dev.position ∧
    a.1.arm = .a ∧ a.2.1.arm = .a ∧ a.1.hops < a.2.1.hops
  parts := [.ch, .seq, .gnss]
  objs _ := among []
  post a s d := d.out = [] ∧ d.gnss.baseRtk = {} ∧ d.gnss.rtk = s.dev.gnss.rtk ∧ d.seq = { s.dev.seq with leadAt := a.1.position } ∧ d.ch.hops = a.2.1.hops - a.1.hops ∧
    d.ch.upstream = s.dev.ch.upstream

/-- R325: a sweep starts: its record has an entry for each present device, here the lead alone, whose own step runs. -/
abbrev sweepStart : Rule (Nat × Nat) where
  cmd a c := c = .sweepStart .host a.1 a.2
  pre a s := HostMay s 0x2A2001 (.bytes (stepBytes a.1 a.2)) ∧ s.dev.isLead = true ∧ (a.1 = 2 ∨ a.1 = 3) ∧
    s.dev.swp.state ≠ 1 ∧ s.dev.swp.state ≠ 2 ∧ s.dev.seq.map = 1 ∧ s.dev.position = 0 ∧ s.dev.ch.missing = 0
  parts := [.jrn, .swp, .valve, .lsw]
  objs _ := among [0x110003]
  post a s d := HostTook s d 3 (.write 0x2A2001 (.bytes (stepBytes a.1 a.2))) ∧ d.swp = { s.dev.swp with
    kind := a.1, batch := a.2, state := 1, current := some 0, cancel := false, step := 1, result := [], stepKind := a.1, stepBatch := a.2, stepAt := s.dev.chain, shape := none
    record := [{ position := 0, attempts := 1, start := s.dev.chain }] }

/-- R325: while a sweep runs another start aborts with the state error. -/
abbrev sweepStartRunning : Rule (Nat × Nat) where
  cmd a c := c = .sweepStart .host a.1 a.2
  pre a s := HostMay s 0x2A2001 (.bytes (stepBytes a.1 a.2)) ∧ s.dev.isLead = true ∧ 1 ≤ a.1 ∧ a.1 ≤ 3 ∧ s.dev.swp.state = 1
  parts := []
  objs _ := among [0x110003, 0x103004, 0x103005, 0x103006]
  post _ s d := d.int 0x103005 = 0x08000022 ∧ d.int 0x103004 = (s.dev.int 0x103004 + 1) % 2 ^ 32

/-- R325: delay calibration has a condition: with the work switch active its start aborts with the state error. -/
abbrev sweepStartWorking : Rule Nat where
  cmd b c := c = .sweepStart .host 1 b
  pre b s := HostMay s 0x2A2001 (.bytes (stepBytes 1 b)) ∧ s.dev.isLead = true ∧ s.dev.pose.boom.work = true
  parts := []
  objs _ := among [0x110003, 0x103004, 0x103005, 0x103006]
  post _ _ d := d.int 0x103005 = 0x08000022

/-- R325: a sweep is cancelled at the next boundary. -/
abbrev sweepCancel : Rule Nat where
  cmd _ c := c = .sweepCancel .host 1
  pre _ s := HostMay s 0x2A2004 (.num 1) ∧ s.dev.isLead = true ∧ s.dev.swp.state = 1
  parts := [.jrn, .swp]
  objs _ := among [0x110003]
  post _ s d := HostTook s d 3 (.write 0x2A2004 (.num 1)) ∧ d.swp = { s.dev.swp with cancel := true }

/-- R325, Table 13.7: the lead's step request starts the device's own step; the off-state tests of kind 2 may run at once. -/
abbrev sweepStepRequest : Rule (Fin 8 × Nat × Nat) where
  cmd a c := c = .sweepStepRequest (.mgmt a.1) a.2.1 a.2.2
  pre a s := Runs s ∧ writeCheck s.dev (.mgmt a.1) 0x2A2101 (.bytes (stepBytes a.2.1 a.2.2)) = none ∧ s.dev.nat 0x310202 = 1 ∧
    s.dev.lock.until_ = none ∧ s.dev.intakeBusy = false ∧ (a.2.1 = 2 ∨ a.2.1 = 3) ∧
    seqFresh s.dev (sourceOf s.dev (.mgmt a.1), 0) (s.dev.nextSeq (.mgmt a.1)) = true
  parts := [.jrn, .swp, .dic, .valve, .lsw]
  objs _ := among []
  post a s d := d.swp = { s.dev.swp with
      step := 1, result := [], stepKind := a.2.1, stepBatch := a.2.2, stepAt := s.dev.chain, shape := none } ∧
    (a.2.1 = 2 → (∀ n : Fin 32, d.valve.channels[n] = { s.dev.valve.channels[n] with testedAt := none }) ∧
      ∀ n : Fin 8, d.lsw.switches[n] = { s.dev.lsw.switches[n] with testedAt := none })

/-- Table 13.7: the step of kind 2 has had its 20 ms, that of kind 3 has seen its batch. -/
abbrev StepOver (s : State) (t : Nat) : Prop :=
  (s.dev.swp.stepKind = 2 ∧ s.dev.swp.stepAt + 20000000 ≤ s.chainAt t) ∨ (s.dev.swp.stepKind = 3 ∧ s.dev.swp.shape ≠ none)

/-- Table 13.8: the result of the device's step: the first fault event raised since it started, 0 for none, and in kind 3 what
its batch showed. -/
def stepResult (d : Dev) (shown : List Byte) : List Byte :=
  leBytes 2 d.stepCode ++ (if d.swp.stepKind = 3 then d.swp.shape.getD [] else shown)

/-- Table 13.7: a step of output diagnostics is not done before its 20 ms have passed. -/
abbrev sweepStepEarly : Rule (List Byte × Nat) where
  cmd a c := c = .sweepStepComplete true a.1 a.2
  pre a s := Runs s ∧ s.dev.swp.stepKind = 2 ∧ s.chainAt a.2 < s.dev.swp.stepAt + 20000000
  parts := []
  objs _ := among []
  post _ _ d := d.out = []

/-- R325, Table 13.7: the end of the device's own step: its state, its result; the output tests end. -/
abbrev sweepStepComplete : Rule (Bool × List Byte × Nat) where
  cmd a c := c = .sweepStepComplete a.1 a.2.1 a.2.2
  pre a s := Runs s ∧ s.dev.swp.step = 1 ∧ s.dev.swp.current = none ∧ StepOver s a.2.2
  parts := [.swp, .dec]
  objs _ := among []
  post a s d := d.out = [] ∧ d.swp = { s.dev.swp with step := if a.1 then 2 else 3, result := stepResult s.dev a.2.1 } ∧
    ∀ n : Fin 32, (outlet d n).testing = false ∧ (outlet d n).tests = []

/-- R326, Table 13.8: the lead's own step ends: the record has its outcome and result code, and with no device left the sweep
is complete. -/
abbrev sweepStepLead : Rule (Bool × List Byte × SweepEntry × Nat) where
  cmd a c := c = .sweepStepComplete a.1 a.2.1 a.2.2.2
  pre a s := Runs s ∧ s.dev.swp.step = 1 ∧ s.dev.swp.current = some s.dev.position ∧ s.dev.swp.record = [a.2.2.1] ∧
    a.2.2.1.position = s.dev.position ∧ a.2.2.1.outcome = 0 ∧ s.dev.swp.state = 1 ∧ s.dev.nat 0x2A0001 = 1 ∧ s.dev.ch.reversed = false ∧ StepOver s a.2.2.2
  parts := [.swp, .dec]
  objs _ := among []
  post a s d := d.out = [] ∧ d.swp.state = 3 ∧ d.swp.record = [{ a.2.2.1 with
    outcome := if a.1 then 1 else 3, path := 0, code := leNat ((stepResult s.dev a.2.1).take 2), stop := s.chainAt a.2.2.2 }]

/-- R325: every 100 ms the lead reads the step state of the current device. -/
abbrev sweepPoll : Rule (Fin 32 × Nat) where
  cmd a c := c = .sweepPoll a.2
  pre a s := Runs s ∧ s.dev.swp.current = some a.1.val ∧ a.1 ≠ s.dev.position ∧ s.dev.dic.remotes = [] ∧ s.dev.ch.table = [] ∧
    s.dev.swp.polledAt.all (fun e => decide (e + 100000000 ≤ s.nowAt a.2)) = true
  parts := [.dic, .link, .swp]
  objs _ := among []
  post a s d := Leaves d (.request a.1 ⟨s.dev.dic.nextTag, 1, 3, 0x2A2102, 0, .num 0⟩) ∧
    d.swp = { s.dev.swp with polledAt := some (s.nowAt a.2) }

/-- R325: within 100 ms of the last poll the lead reads nothing. -/
abbrev sweepPollEarly : Rule Nat where
  cmd t c := c = .sweepPoll t
  pre t s := Runs s ∧ s.dev.swp.polledAt.any (fun e => decide (s.nowAt t < e + 100000000)) = true
  parts := []
  objs _ := among []
  post _ _ d := d.out = []

/-- R325: a step that exceeds its kind's timeout is marked failed. -/
abbrev sweepStepTimeout : Rule (SweepEntry × Nat) where
  cmd a c := c = .sweepStepTimeout a.2
  pre a s := Runs s ∧ s.dev.swp.current = some a.1.position ∧ s.dev.swp.record = [a.1] ∧ a.1.outcome = 0 ∧ s.dev.swp.kind = 2 ∧
    a.1.start + 1000000000 ≤ s.chainAt a.2 ∧ s.dev.swp.state = 1
  parts := [.swp]
  objs _ := among []
  post a _ d := d.out = [] ∧ d.swp.state = 3 ∧ d.swp.current = none ∧
    (d.swp.record.map fun e => (e.position, e.outcome, e.attempts)) = [(a.1.position, 3, a.1.attempts)]

/-! ### The GNSS baseband -/

/-- A started baseband on a running device. -/
abbrev Tracks (s : State) : Prop := Runs s ∧ s.dev.gnss.running = true

/-- R335, R353: the baseband starts: the script is sent, verified, and the start kind is the one whose conditions hold. -/
abbrev basebandStart : Rule Nat where
  cmd t c := c = .basebandStart true t
  pre _ s := Runs s ∧ s.dev.flag 0x2B0001 = true ∧ s.dev.gnss.running = false ∧ s.dev.gnss.faulted = false ∧
    s.dev.gnss.failedRuns = 0 ∧ s.dev.rtc.valid = false
  parts := [.gnss]
  objs _ := among []
  post t s d := d.out = [.frontEnd (scriptTransfers (s.dev.str 0x2B0105))] ∧ d.gnss.running = true ∧ d.gnss.startKind = 2 ∧
    d.gnss.startedAt = s.nowAt t ∧ d.gnss.fixed = false ∧ d.gnss.waits = false ∧ d.gnss.channels = Vector.replicate 64 {}

/-- R335: a start whose verified register reads back wrong: the baseband does not run yet, and the script is to run again. -/
abbrev basebandStartUnverified : Rule Nat where
  cmd t c := c = .basebandStart false t
  pre _ s := Runs s ∧ s.dev.flag 0x2B0001 = true ∧ s.dev.gnss.running = false ∧ s.dev.gnss.faulted = false ∧
    s.dev.gnss.failedRuns = 0
  parts := [.gnss, .hlt]
  objs _ := among []
  post _ s d := d.out = [.frontEnd (scriptTransfers (s.dev.str 0x2B0105))] ∧ d.gnss.running = false ∧ d.gnss.failedRuns = 1 ∧ d.gnss.faulted = false ∧
    (d.hlt.faults[(18 : Fin 20)]).transient = ((s.dev.hlt.faults[(18 : Fin 20)]).transient + 1) % 2 ^ 32

/-- R335: the second run follows 100 ms after the first, the third 1 s after the second. -/
abbrev ScriptDue (s : State) (t : Nat) : Prop :=
  s.dev.gnss.scriptAt + (if s.dev.gnss.failedRuns = 1 then 100000000 else 1000000000) ≤ s.nowAt t

/-- R335: before that nothing runs. -/
abbrev scriptRetryEarly : Rule (Bool × Nat) where
  cmd a c := c = .scriptRetry a.1 a.2
  pre a s := Runs s ∧ ¬ ScriptDue s a.2
  parts := []
  objs _ := among []
  post _ _ d := d.out = []

/-- R335: a run that verifies after a failed one starts the baseband. -/
abbrev scriptRetry : Rule Nat where
  cmd t c := c = .scriptRetry true t
  pre t s := Runs s ∧ ScriptDue s t ∧ 0 < s.dev.gnss.failedRuns
  parts := [.gnss]
  objs _ := among []
  post _ s d := d.out = [.frontEnd (scriptTransfers (s.dev.str 0x2B0105))] ∧ d.gnss.running = true ∧ d.gnss.failedRuns = 0 ∧
    d.gnss.channels = s.dev.gnss.channels

/-- R335: when the third run also fails the front end is faulted: GNSS stops and an event is raised. -/
abbrev scriptRetryFails : Rule Nat where
  cmd t c := c = .scriptRetry false t
  pre t s := Runs s ∧ ScriptDue s t ∧ s.dev.gnss.failedRuns = 2 ∧ s.dev.isLead = false
  parts := .gnss :: .hlt :: eventParts
  objs _ x := x = 0x2B0405 || eventObjs x
  post _ s d := (d.hlt.faults[(18 : Fin 20)]).permanent = ((s.dev.hlt.faults[(18 : Fin 20)]).permanent + 1) % 2 ^ 32 ∧
    d.gnss.running = false ∧ d.gnss.faulted = true ∧ d.gnss.failedRuns = 0 ∧ d.gnss.hasFix = false ∧ d.int 0x2B0405 = 0

/-- R336, R337: 10 ms have passed since the last round, or there was none. -/
abbrev Due10 (x : Option Nat) (s : State) (t : Nat) : Prop := x.all (fun e => decide (e + 10000000 ≤ s.nowAt t)) = true

/-- R336, R337: within 10 ms of the last round of its kind nothing is done. -/
abbrev agcRoundEarly : Rule (Fin 2 × Nat × Nat × Nat) where
  cmd a c := c = .agcRound a.1 a.2.1 a.2.2.2
  pre a s := Runs s ∧ (s.dev.gnss.inputs[a.1]).agcAt = some a.2.2.1 ∧ s.nowAt a.2.2.2 < a.2.2.1 + 10000000
  parts := []
  objs _ := among []
  post _ _ d := d.out = []

/-- R336: below 3.0 LSB the gain field moves up by one code, above 4.0 LSB down by one, and between it holds. -/
abbrev agcRound : Rule (Fin 2 × Nat × Nat) where
  cmd a c := c = .agcRound a.1 a.2.1 a.2.2
  pre a s := Tracks s ∧ (s.dev.gnss.inputs[a.1]).clock = true ∧ Due10 (s.dev.gnss.inputs[a.1]).agcAt s a.2.2 ∧ s.dev.nat 0x2B0106 ≠ 0 ∧
    (s.dev.gnss.inputs[a.1]).gain + 1 < 2 ^ (s.dev.nat 0x2B0106 % 256)
  parts := .gnss :: eventParts
  objs _ := eventObjs
  post a s d := (d.gnss.inputs[a.1]).gain = (if a.2.1 < 300 then (s.dev.gnss.inputs[a.1]).gain + 1
      else if 400 < a.2.1 then (s.dev.gnss.inputs[a.1]).gain - 1 else (s.dev.gnss.inputs[a.1]).gain) ∧
    (d.gnss.inputs[a.1]).ratio ≤ 63 ∧ d.gnss.channels = s.dev.gnss.channels ∧
    (s.dev.nat 0x2B010E ≤ (d.gnss.inputs[a.1]).ratio → (d.gnss.inputs[a.1]).warning = true) ∧
    (s.dev.nat 0x2B010F ≤ (d.gnss.inputs[a.1]).ratio → (d.gnss.inputs[a.1]).alarm = true)

/-- R336: with a gain control word of 0 the front end holds its own gain: the code does not move. -/
abbrev agcRoundHeld : Rule (Fin 2 × Nat × Nat) where
  cmd a c := c = .agcRound a.1 a.2.1 a.2.2
  pre a s := Tracks s ∧ (s.dev.gnss.inputs[a.1]).clock = true ∧ Due10 (s.dev.gnss.inputs[a.1]).agcAt s a.2.2 ∧ s.dev.nat 0x2B0106 = 0
  parts := .gnss :: eventParts
  objs _ := eventObjs
  post a s d := (d.gnss.inputs[a.1]).gain = (s.dev.gnss.inputs[a.1]).gain ∧
    (∀ e ∈ d.out, e ≠ .gain a.1 (s.dev.gnss.inputs[a.1]).gain)

/-- R337: with no notch held, the four strongest of the lines that stand at the threshold or above are notched; more than four set
the overflow. The lines are given here by falling level. -/
abbrev notchSearch : Rule (Fin 2 × List SpectrumLine × Nat) where
  cmd a c := c = .notchSearch a.1 a.2.1 a.2.2
  pre a s := Tracks s ∧ (s.dev.gnss.inputs[a.1]).clock = true ∧ (s.dev.gnss.inputs[a.1]).notches = [] ∧
    Due10 (s.dev.gnss.inputs[a.1]).searchAt s a.2.2 ∧ a.2.1.Pairwise (fun x y => y.level ≤ x.level)
  parts := [.gnss]
  objs _ := among []
  post a s d :=
    let peaks := a.2.1.filter fun l => decide (10 * s.dev.nat 0x2B010D ≤ l.level)
    d.out = [] ∧ (d.gnss.inputs[a.1]).notches = (peaks.take 4).map (fun l => ⟨l.freq, s.nowAt a.2.2⟩) ∧
      (d.gnss.inputs[a.1]).overflow = decide (4 < peaks.length) ∧ d.gnss.channels = s.dev.gnss.channels

/-- R337: a notch follows its line, which keeps it down to 3 dB below the threshold: here the one line there is. -/
abbrev notchSearchKeeps : Rule (Fin 2 × Notch × SpectrumLine × Nat) where
  cmd a c := c = .notchSearch a.1 [a.2.2.1] a.2.2.2
  pre a s := Tracks s ∧ (s.dev.gnss.inputs[a.1]).clock = true ∧ (s.dev.gnss.inputs[a.1]).notches = [a.2.1] ∧
    Due10 (s.dev.gnss.inputs[a.1]).searchAt s a.2.2.2 ∧ (a.2.1.freq - a.2.2.1.freq).natAbs ≤ 25000 ∧
    a.2.2.1.level < 10 * s.dev.nat 0x2B010D ∧ 10 * s.dev.nat 0x2B010D ≤ a.2.2.1.level + 30
  parts := [.gnss]
  objs _ := among []
  post a s d := d.out = [] ∧ (d.gnss.inputs[a.1]).notches = [⟨a.2.2.1.freq, s.nowAt a.2.2.2⟩] ∧ (d.gnss.inputs[a.1]).overflow = false

/-- R337: a notch whose line has been below the threshold less 3 dB for 1 s is released. -/
abbrev notchSearchReleases : Rule (Fin 2 × Notch × Nat) where
  cmd a c := c = .notchSearch a.1 [] a.2.2
  pre a s := Tracks s ∧ (s.dev.gnss.inputs[a.1]).clock = true ∧ (s.dev.gnss.inputs[a.1]).notches = [a.2.1] ∧
    Due10 (s.dev.gnss.inputs[a.1]).searchAt s a.2.2
  parts := [.gnss]
  objs _ := among []
  post a s d := d.out = [] ∧ (d.gnss.inputs[a.1]).overflow = false ∧ (d.gnss.inputs[a.1]).notches =
    if s.nowAt a.2.2 < a.2.1.seen + 1000000000 then [a.2.1] else []

/-- R336: an input whose sample clock is absent is down: every channel on its band goes Idle, the others keep their state. -/
abbrev sampleClockLoss : Rule (Fin 2 × Nat) where
  cmd a c := c = .sampleClockLoss a.1 a.2
  pre _ s := Tracks s
  parts := [.gnss]
  objs _ := among []
  post a s d := d.out = [] ∧ (d.gnss.inputs[a.1]).clock = false ∧ (∀ k : Fin 64, (tracker s.dev k).band = a.1.val → (tracker d k).state = 0) ∧
    (∀ k : Fin 64, (tracker s.dev k).band ≠ a.1.val → tracker d k = tracker s.dev k)

/-- R336: when the clock returns the script runs again and the channels of the band are allocated afresh: with nothing in
view they are free. -/
abbrev sampleClockReturn : Rule (Fin 2 × Nat) where
  cmd a c := c = .sampleClockReturn a.1 true [] a.2
  pre a s := Tracks s ∧ (s.dev.gnss.inputs[a.1]).clock = false
  parts := [.gnss]
  objs _ := among []
  post a s d := d.out = [.frontEnd (scriptTransfers (s.dev.str 0x2B0105))] ∧ (d.gnss.inputs[a.1]).clock = true ∧ d.gnss.running = true ∧
    (∀ k : Fin 64, (tracker s.dev k).band = a.1.val → tracker d k = {})

/-- R339: two satellites above the mask: each gets a channel of band 1, the higher one first, then of band 2 in the same
order, and each channel starts its search (Acquire). -/
abbrev channelAllocation : Rule (Satellite × Satellite × Nat) where
  cmd a c := c = .channelAllocation [a.1, a.2.1] a.2.2
  pre a s := Tracks s ∧ s.dev.gnss.allottedAt = none ∧ s.dev.gnss.channels = Vector.replicate 64 {} ∧ (∀ n : Fin 2, (s.dev.gnss.inputs[n]).clock = true) ∧
    s.dev.gnss.fixed = true ∧ s.dev.nat 0x2B0003 = 15 ∧ s.dev.nat 0x2B0004 = 3 ∧
    a.1.constellation < 4 ∧ a.2.1.constellation < 4 ∧ s.dev.int 0x2B0005 ≤ a.1.elevation ∧ a.1.elevation < a.2.1.elevation ∧
    sameSatellite a.1 a.2.1 = false
  parts := [.gnss]
  objs _ := among []
  post a s d := d.out = [] ∧ tracker d 0 = { state := 1, satellite := some a.2.1, band := 0, enteredAt := s.nowAt a.2.2 } ∧
    tracker d 1 = { state := 1, satellite := some a.1, band := 0, enteredAt := s.nowAt a.2.2 } ∧ tracker d 2 = { state := 1, satellite := some a.2.1, band := 1, enteredAt := s.nowAt a.2.2 } ∧
    tracker d 3 = { state := 1, satellite := some a.1, band := 1, enteredAt := s.nowAt a.2.2 } ∧ (∀ k : Fin 64, 4 ≤ k.val → tracker d k = {})

/-- R339: a satellite below the mask, or of a constellation that is not enabled, gets no channel. -/
abbrev channelAllocationNone : Rule (Satellite × Nat) where
  cmd a c := c = .channelAllocation [a.1] a.2
  pre a s := Tracks s ∧ s.dev.gnss.allottedAt = none ∧ s.dev.gnss.channels = Vector.replicate 64 {} ∧ (s.dev.gnss.fixed = true ∨ s.dev.gnss.startKind ≠ 2) ∧
    (a.1.elevation < s.dev.int 0x2B0005 ∨ s.dev.bit 0x2B0003 a.1.constellation = false)
  parts := [.gnss]
  objs _ := among []
  post _ _ d := d.out = [] ∧ d.gnss.channels = Vector.replicate 64 {}

/-- R339: within a second of the last allocation there is none. -/
abbrev channelAllocationEarly : Rule (List Satellite × Nat × Nat) where
  cmd a c := c = .channelAllocation a.1 a.2.2
  pre a s := Runs s ∧ s.dev.gnss.allottedAt = some a.2.1 ∧ s.nowAt a.2.2 < a.2.1 + 1000000000
  parts := []
  objs _ := among []
  post _ _ d := d.out = []

/-- A channel with a satellite, in a state of Table 14.3 for some time. -/
abbrev trackerIn (s : State) (k : Fin 64) (n after t : Nat) : Prop :=
  Tracks s ∧ (tracker s.dev k).enteredAt + after ≤ s.nowAt t ∧ (tracker s.dev k).state = n ∧ (tracker s.dev k).satellite.isSome = true

/-- Table 14.3: the channel goes to a state and keeps its satellite; nothing else changes. -/
abbrev trackerMoved (k : Fin 64) (n t : Nat) (slip : Bool) (s : State) (d : Dev) : Prop :=
  d.out = [] ∧ (tracker d k).state = n ∧ (tracker d k).satellite = (tracker s.dev k).satellite ∧ (tracker d k).slip = slip ∧ (tracker d k).enteredAt = s.nowAt t ∧
    onlyTracker k s.dev d ∧ d.gnss.inputs = s.dev.gnss.inputs

/-- Table 14.3: Acquire, a peak confirmed: Pull-in. -/
abbrev acquisitionPeak : Rule (Fin 64 × Nat) where
  cmd a c := c = .acquisitionPeak a.1 a.2
  pre a s := trackerIn s a.1 1 0 a.2
  parts := [.gnss]
  objs _ := among []
  post a s d := trackerMoved a.1 2 a.2 (tracker s.dev a.1).slip s d

/-- Table 14.3: Acquire, the search space exhausted: Idle. -/
abbrev acquisitionExhausted : Rule (Fin 64 × Nat) where
  cmd a c := c = .acquisitionExhausted a.1 a.2
  pre a s := trackerIn s a.1 1 0 a.2
  parts := [.gnss]
  objs _ := among []
  post a s d := trackerMoved a.1 0 a.2 false s d ∧ (tracker d a.1).idleSince = s.nowAt a.2

/-- Table 14.3: Pull-in, lock and sync found: Track. -/
abbrev channelLock : Rule (Fin 64 × Nat) where
  cmd a c := c = .channelLock a.1 a.2
  pre a s := trackerIn s a.1 2 200000000 a.2
  parts := [.gnss]
  objs _ := among []
  post a s d := trackerMoved a.1 3 a.2 (tracker s.dev a.1).slip s d

/-- Table 14.3: Pull-in, no lock within 2 s: Acquire. -/
abbrev pullInTimeout : Rule (Fin 64 × Nat) where
  cmd a c := c = .pullInTimeout a.1 a.2
  pre a s := trackerIn s a.1 2 2000000000 a.2
  parts := [.gnss]
  objs _ := among []
  post a s d := trackerMoved a.1 1 a.2 (tracker s.dev a.1).slip s d

/-- Table 14.3: Track lost: the slip flag is set, Reacquire. -/
abbrev trackLoss : Rule (Fin 64 × Nat) where
  cmd a c := c = .trackLoss a.1 a.2
  pre a s := trackerIn s a.1 3 200000000 a.2
  parts := [.gnss]
  objs _ := among []
  post a s d := trackerMoved a.1 4 a.2 true s d

/-- R341, Table 14.3: a side-peak lock in Track on Galileo E1 or BeiDou B1C, VE above 0.7 of P and above VL: the code moves half a
chip towards VE, and the channel goes to Pull-in. -/
abbrev sidePeakLock : Rule (Fin 64 × Vector Nat 7 × Nat) where
  cmd a c := c = .sidePeakLock ⟨a.1, a.2.1⟩ a.2.2
  pre a s := trackerIn s a.1 3 100000000 a.2.2 ∧ (tracker s.dev a.1).band = 0 ∧
    (tracker s.dev a.1).satellite.any (fun x => x.constellation = 1 || x.constellation = 2) = true ∧ 7 * a.2.1[3] < 10 * a.2.1[0] ∧
    a.2.1[6] < a.2.1[0]
  parts := [.gnss]
  objs _ := among []
  post a s d := d.out = [] ∧ d.gnss = { s.dev.gnss with channels := s.dev.gnss.channels.set a.1 { tracker s.dev a.1 with
    state := 2, code := (tracker s.dev a.1).code - 5, enteredAt := s.nowAt a.2.2 } }

/-- Table 14.3: Reacquire, a peak in the narrow search: Pull-in. -/
abbrev reacquirePeak : Rule (Fin 64 × Nat) where
  cmd a c := c = .reacquirePeak a.1 a.2
  pre a s := trackerIn s a.1 4 0 a.2
  parts := [.gnss]
  objs _ := among []
  post a s d := trackerMoved a.1 2 a.2 (tracker s.dev a.1).slip s d

/-- Table 14.3: Reacquire, 10 s without a peak: Idle. -/
abbrev reacquireTimeout : Rule (Fin 64 × Nat) where
  cmd a c := c = .reacquireTimeout a.1 a.2
  pre a s := trackerIn s a.1 4 10000000000 a.2
  parts := [.gnss]
  objs _ := among []
  post a s d := trackerMoved a.1 0 a.2 false s d ∧ (tracker d a.1).idleSince = s.nowAt a.2

/-- R342: the pull-in time-out does nothing to a channel that has not been in its state for 2 s. -/
abbrev channelTooEarly : Rule (Fin 64 × Nat) where
  cmd a c := c = .pullInTimeout a.1 a.2
  pre a s := Runs s ∧ s.nowAt a.2 < (tracker s.dev a.1).enteredAt + 2000000000
  parts := []
  objs _ := among []
  post _ _ d := d.out = []

/-- R343: epochs fall at chain-time multiples of the interval only. -/
abbrev measurementEpochOff : Rule (Vector Observation 64 × Nat) where
  cmd a c := c = .measurementEpoch a.1 a.2
  pre a s := Runs s ∧ s.chainAt a.2 % 50000000 ≠ 0
  parts := []
  objs _ := among []
  post _ _ d := d.out = []

/-- R343, R346: the chain time is a multiple of the interval: 100 ms at 10 Hz, else 50 ms. -/
abbrev AtEpoch (s : State) (t : Nat) : Prop := s.chainAt t % s.dev.epochInterval = 0

/-- R343, R346: an epoch on a device that is not the lead: each channel in Track holds its observation, with the slip flag
of the channel, which clears; the rate in force is that of the setting and of the thermal slow-down. -/
abbrev measurementEpoch : Rule (Vector Observation 64 × Nat) where
  cmd a c := c = .measurementEpoch a.1 a.2
  pre a s := Tracks s ∧ AtEpoch s a.2 ∧ s.dev.isLead = false
  parts := [.gnss]
  objs _ := among []
  post a s d := d.out = [] ∧ d.gnss.reduced = (s.dev.hlt.enforcing || decide (s.dev.nat 0x2B0002 = 10)) ∧
    ∀ k : Fin 64, (tracker d k).state = (tracker s.dev k).state ∧ (tracker d k).slip = false ∧
      ((tracker s.dev k).state = 3 ∧ (tracker s.dev k).satellite.isSome = true →
        (tracker d k).obs.pseudorange = a.1[k].pseudorange ∧ (tracker d k).obs.cn0 = a.1[k].cn0 ∧
        (tracker d k).obs.flags.testBit 0 = (tracker s.dev k).slip ∧ (tracker d k).obs.flags.testBit 3 = true)

/-- R350: the observations of the channels in Track. -/
def seen (d : Dev) : List Observation :=
  (d.gnss.channels.toList.filter fun c => c.state = 3 && c.satellite.isSome).map fun c => c.obs

/-- R350, Table 14.6: on the lead of a running chain the epoch's base epoch leaves in the data class: chain time, solution and
observations. -/
abbrev measurementEpochLead : Rule (Vector Observation 64 × Nat) where
  cmd a c := c = .measurementEpoch a.1 a.2
  pre a s := Tracks s ∧ AtEpoch s a.2 ∧ s.dev.isLead = true ∧ s.dev.seq.running = true ∧ 1 < (presentList s.dev.seq.map).length
  parts := [.gnss, .link]
  objs _ := among []
  post a s d := Leaves d (.baseEpoch (baseEpochBody s.dev.position (s.dev.nat 0x2B0207) (s.chainAt a.2) (s.dev.int 0x2B0201)
      (s.dev.int 0x2B0202) (s.dev.int 0x2B0203) (seen d))) ∧ d.gnss.inputs = s.dev.gnss.inputs

/-- R349, R350: a wheeler's fix from a base epoch no older than 150 ms is held in its objects and sent to the lead under its own
position: float, until the ratio has reached the threshold at 3 epochs in a row. -/
abbrev baseEpoch : Rule (Int × BaselineMeasure × Nat) where
  cmd a c := c = .baseEpoch a.1 a.2.1 a.2.2
  pre a s := Tracks s ∧ s.dev.isLead = false ∧ s.dev.flag 0x2B0401 = true ∧ s.dev.gnss.baseAt = none ∧
    s.chainAt a.2.2 ≤ a.1 + 150000000 ∧ a.2.1.fix.state ≠ 0 ∧ s.dev.gnss.baseRtk.fixed = false ∧ s.dev.gnss.baseRtk.lostAt = none ∧
    s.dev.gnss.baseRtk.good = 2
  parts := [.gnss]
  objs _ := among [0x2B0402, 0x2B0403, 0x2B0404, 0x2B0405]
  post a s d :=
    let good := decide (s.dev.int 0x2B0303 ≤ a.2.1.ratio)
    let f := { a.2.1.fix with position := s.dev.pos32, state := if good then 5 else 4 }
    d.int 0x2B0402 = f.east ∧ d.int 0x2B0403 = f.north ∧ d.int 0x2B0404 = f.up ∧ d.int 0x2B0405 = f.state ∧
      d.gnss.baseAt = some a.1 ∧ d.gnss.baseFixed = good ∧ d.gnss.baseRtk.fixed = good ∧ d.out = [.baseline (baselineBody f)]

/-- R349, R350: a base epoch older than 150 ms gives no fix, and is counted among the missed. -/
abbrev baseEpochLate : Rule (Int × BaselineMeasure × Nat) where
  cmd a c := c = .baseEpoch a.1 a.2.1 a.2.2
  pre a s := Tracks s ∧ s.dev.isLead = false ∧ s.dev.flag 0x2B0401 = true ∧ s.dev.gnss.baseAt = none ∧
    a.1 + 150000000 < s.chainAt a.2.2
  parts := [.gnss]
  objs _ := among [0x2B0406]
  post a s d := d.out = [] ∧ d.int 0x2B0406 = (s.dev.int 0x2B0406 + 1) % 2 ^ 32 ∧ d.gnss.baseAt = some a.1

/-- R347, R348: a correction write of the host: a 1005 or 1006 frame sets the station and the base position and is counted as
used; the write is journalled by its sequence alone. -/
abbrev correctionInput : Rule (RtcmFrame × Nat) where
  cmd a c := c = .correctionInput .host [a.1] a.2
  pre a s := HostMay s 0x2B0301 (.bytes (List.replicate 8 0)) ∧ s.dev.time.now = 0 ∧ a.2 = 0 ∧ a.1.crcOk = true ∧ a.1.kind = 1005
  parts := [.gnss, .jrn]
  objs _ := among [0x2B0304, 0x2B0305, 0x2B0306, 0x2B0309, 0x110003]
  post a s d := d.nat 0x2B0304 = a.1.station ∧ d.str 0x2B0305 = baseBytes a.1.base ∧
    d.int 0x2B0306 = (s.dev.int 0x2B0306 + 1) % 2 ^ 32 ∧ d.nat 0x2B0309 = s.dev.nat 0x110003 ∧
    d.nat 0x110003 = (s.dev.nat 0x110003 + 1) % 2 ^ 32 ∧ d.jrn.openHalf.length = s.dev.jrn.openHalf.length + 1

/-- R349: a base change restarts the RTK engine as float; the same base leaves it as it is. -/
abbrev correctionInputBase : Rule (RtcmFrame × Nat) where
  cmd a c := c = .correctionInput .host [a.1] a.2
  pre a s := HostMay s 0x2B0301 (.bytes (List.replicate 8 0)) ∧ s.dev.time.now = 0 ∧ a.2 = 0 ∧ a.1.crcOk = true ∧ a.1.kind = 1006 ∧
    s.dev.str 0x2B0305 = List.replicate 24 0
  parts := [.gnss, .jrn]
  objs _ := among [0x2B0304, 0x2B0305, 0x2B0306, 0x2B0309, 0x110003]
  post a s d := (a.1.station ≠ s.dev.nat 0x2B0304 → d.gnss.rtk = {}) ∧ (100 < a.1.base.1 → d.gnss.rtk = {}) ∧
    (a.1.station = s.dev.nat 0x2B0304 ∧ a.1.base.1 = 100 ∧ a.1.base.2.1 = 0 ∧ a.1.base.2.2 = 0 → d.gnss.rtk = s.dev.gnss.rtk)

/-- R347: a frame that fails its CRC-24Q is discarded and counted; the write is accepted all the same. -/
abbrev correctionInputDiscarded : Rule (RtcmFrame × Nat) where
  cmd a c := c = .correctionInput .host [a.1] a.2
  pre a s := HostMay s 0x2B0301 (.bytes (List.replicate 8 0)) ∧ s.dev.time.now = 0 ∧ a.2 = 0 ∧ a.1.crcOk = false
  parts := [.jrn]
  objs _ := among [0x2B0307, 0x2B0309, 0x110003]
  post _ s d := d.int 0x2B0307 = (s.dev.int 0x2B0307 + 1) % 2 ^ 32 ∧ d.nat 0x2B0309 = s.dev.nat 0x110003

/-- R345: a scheduled leap second changes the UTC offset by one second, up or down, and the schedule by nothing. -/
abbrev leapSecond : Rule Nat where
  cmd t c := c = .leapSecond t
  pre _ s := Runs s
  parts := [.gnss]
  objs _ := among [0x2B020D]
  post _ s d := d.out = [] ∧ (d.int 0x2B020D = s.dev.int 0x2B020D + 1 ∨ d.int 0x2B020D = s.dev.int 0x2B020D - 1) ∧
    d.gnss.channels = s.dev.gnss.channels

/-- R352: within 60 s of the last commit there is none. -/
abbrev keptDataCommitEarly : Rule Nat where
  cmd t c := c = .keptDataCommit t
  pre t s := Runs s ∧ s.nowAt t < s.dev.gnss.keptAt + 60000000000
  parts := []
  objs _ := among []
  post _ _ d := d.out = []

/-- R352: the commit of changed kept data: they lie in the GNSS area of MRAM, and nothing is left to keep. -/
abbrev keptDataCommit : Rule Nat where
  cmd t c := c = .keptDataCommit t
  pre t s := Runs s ∧ s.dev.gnss.keptAt + 60000000000 ≤ s.nowAt t ∧ s.dev.gnss.changed = true ∧ s.dev.gnss.erase = false
  parts := [.gnss, .nvm]
  objs _ := among [0x310004]
  post t s d := d.out = [] ∧ d.gnss.changed = false ∧ d.nvm.keptData = (s.dev.nvm.keptData || s.dev.gnss.fixed) ∧
    d.nvm.keptEpoch = s.chainAt t ∧ storeGet d.nvm.gnss 0x2B020D = storeGet s.dev.obj 0x2B020D ∧
    storeGet d.nvm.gnss 0x2B0304 = storeGet s.dev.obj 0x2B0304 ∧ d.nvm.live = s.dev.nvm.live ∧
    d.int 0x310004 = (s.dev.int 0x310004 + 1) % 2 ^ 32

/-- R352: an erase that waits empties the area at the next commit, so that the next start is cold. -/
abbrev keptDataCommitErases : Rule Nat where
  cmd t c := c = .keptDataCommit t
  pre t s := Runs s ∧ s.dev.gnss.keptAt + 60000000000 ≤ s.nowAt t ∧ s.dev.gnss.erase = true
  parts := [.gnss, .nvm]
  objs _ := among [0x310004]
  post _ _ d := d.out = [] ∧ d.gnss.erase = false ∧ d.nvm.keptData = false ∧ d.nvm.gnss = [] ∧ d.startKindNow = 2

/-- R352: an erase is accepted as an action and waits for the next commit. -/
abbrev keptDataErase : Rule Unit where
  cmd _ c := c = .keptDataErase .host 1
  pre _ s := HostMay s 0x2B0602 (.num 1)
  parts := [.gnss, .jrn]
  objs _ := among [0x110003]
  post _ s d := d.gnss = { s.dev.gnss with erase := true } ∧
    HostTook s d 3 (.write 0x2B0602 (.num 1))

/-- R353: a hot start with no fix after 5 s falls back to warm, a warm one after 60 s to cold; then the lead waits no more. -/
abbrev startFallback : Rule Nat where
  cmd t c := c = .startFallback t
  pre t s := Tracks s ∧ s.dev.gnss.fixed = false ∧ (s.dev.gnss.startKind = 0 ∧ s.dev.gnss.kindAt + 5000000000 ≤ s.nowAt t ∨
    s.dev.gnss.startKind = 1 ∧ s.dev.gnss.kindAt + 60000000000 ≤ s.nowAt t)
  parts := [.gnss]
  objs _ := among []
  post t s d := d.out = [] ∧ d.gnss = { s.dev.gnss with startKind := s.dev.gnss.startKind + 1, waits := false, kindAt := s.nowAt t }

/-! ### The CAN controllers, ISO 11783 and CANopen -/

/-- A controller of a CAN bus. -/
abbrev bus (d : Dev) (b : Fin 2) : CanController := d.can.buses[b]

/-- R361, R364: the protocols of CAN-I run: the controller talks and an address is claimed. -/
abbrev Iso11783 (s : State) : Prop := Runs s ∧ s.dev.isoTalks = true

/-- R369: CAN-P talks and the stack is not stopped. -/
abbrev Stack (s : State) : Prop := Runs s ∧ s.dev.busTalks 1 = true ∧ s.dev.can.copen.nmt ≠ 4

/-- R360: a classic frame on CAN-I: counted as received where an acceptance filter matches, and taken out of the FIFO by
management core 0; discarded otherwise. -/
abbrev canFrameReceived : Rule (CanFrame × Nat) where
  cmd a c := c = .canFrameReceived 0 a.1 a.2
  pre a s := Runs s ∧ s.dev.busHears 0 = true ∧ a.1.fd = false ∧ (bus s.dev 0).fifo = [] ∧ s.dev.power.halted0 = false
  parts := []
  objs _ := among [0x2C0112]
  post a s d := d.out = [] ∧ d.int 0x2C0112 =
    if Config.filterMatches (Config.filterTable 0 (storeKeep inSetSlot s.dev.obj)) a.1 then (s.dev.int 0x2C0112 + 1) % 2 ^ 32
    else s.dev.int 0x2C0112

/-- R356: CAN-I discards an FD frame. -/
abbrev canFrameReceivedFd : Rule (CanFrame × Nat) where
  cmd a c := c = .canFrameReceived 0 a.1 a.2
  pre a s := Runs s ∧ a.1.fd = true
  parts := []
  objs _ := among []
  post _ _ d := d.out = []

/-- R360: while management core 0 does not run a full FIFO drops the newest frame, counts it and raises an event. -/
abbrev canFrameReceivedFull : Rule (CanFrame × Nat) where
  cmd a c := c = .canFrameReceived 0 a.1 a.2
  pre a s := Runs s ∧ s.dev.busHears 0 = true ∧ a.1.fd = false ∧ (bus s.dev 0).fifo.length = 32 ∧ s.dev.power.halted0 = true
  parts := [.rcd]
  objs _ := among [0x2C0111, 0x2F0003, 0x2F0004]
  post a s d := d.int 0x2C0111 =
    if Config.filterMatches (Config.filterTable 0 (storeKeep inSetSlot s.dev.obj)) a.1 then (s.dev.int 0x2C0111 + 1) % 2 ^ 32
    else s.dev.int 0x2C0111

/-- R359, R362: the first bus-off of CAN-I within 10 s: its recovery starts without a wait, it is counted as a fault of its
kind, and the transport sessions are gone. -/
abbrev busOff : Rule Nat where
  cmd t c := c = .busOff 0 t
  pre _ s := Runs s ∧ s.dev.busTalks 0 = true ∧ (bus s.dev 0).busOffs = []
  parts := .hlt :: eventParts
  objs _ x := x = 0x2C0110 || eventObjs x
  post t s d := (bus d 0).state = 4 ∧ (bus d 0).waitUntil = none ∧ (bus d 0).busOffs = [s.nowAt t] ∧ bus d 1 = bus s.dev 1 ∧
    d.can.iso.sessions = [] ∧ d.int 0x2C0110 = (s.dev.int 0x2C0110 + 1) % 2 ^ 32 ∧
    (d.hlt.faults[(17 : Fin 20)]).transient = ((s.dev.hlt.faults[(17 : Fin 20)]).transient + 1) % 2 ^ 32

/-- R362: the fourth bus-off within 10 s waits 1 s before its recovery. -/
abbrev busOffWaits : Rule (Nat × Nat × Nat × Nat) where
  cmd a c := c = .busOff 0 a.2.2.2
  pre a s := Runs s ∧ s.dev.busTalks 0 = true ∧ (bus s.dev 0).busOffs = [a.1, a.2.1, a.2.2.1] ∧
    s.nowAt a.2.2.2 < a.1 + 10000000000 ∧ s.nowAt a.2.2.2 < a.2.1 + 10000000000 ∧ s.nowAt a.2.2.2 < a.2.2.1 + 10000000000
  parts := .hlt :: eventParts
  objs _ x := x = 0x2C0110 || eventObjs x
  post a s d := (bus d 0).state = 5 ∧ (bus d 0).waitUntil = some (s.nowAt a.2.2.2 + 1000000000) ∧ bus d 1 = bus s.dev 1

/-- R362: once 10 bus-offs have fallen within 60 s the wait is 10 s. -/
abbrev busOffTenth : Rule (Nat × Nat) where
  cmd a c := c = .busOff 0 a.2
  pre a s := Runs s ∧ s.dev.busTalks 0 = true ∧ (bus s.dev 0).busOffs = List.replicate 9 a.1 ∧ s.nowAt a.2 < a.1 + 60000000000
  parts := .hlt :: eventParts
  objs _ x := x = 0x2C0110 || eventObjs x
  post a s d := (bus d 0).state = 5 ∧ (bus d 0).waitUntil = some (s.nowAt a.2 + 10000000000)

/-- R362: the wait ends: the recovery starts. -/
abbrev busOffRecovery : Rule (Fin 2 × Nat × Nat) where
  cmd a c := c = .busOffRecovery a.1 a.2.2
  pre a s := Runs s ∧ (bus s.dev a.1).state = 5 ∧ (bus s.dev a.1).waitUntil = some a.2.1 ∧ a.2.1 ≤ s.nowAt a.2.2
  parts := [.can]
  objs _ := among []
  post a s d := d.out = [] ∧ bus d a.1 = { bus s.dev a.1 with state := 4, waitUntil := none } ∧ d.can.iso = s.dev.can.iso ∧
    d.can.copen = s.dev.can.copen ∧ (∀ k : Fin 2, k ≠ a.1 → bus d k = bus s.dev k)

/-- R362: the recovery is complete: the controller is error active with its error counters at 0. -/
abbrev busOffRecoveryComplete : Rule (Fin 2 × Nat) where
  cmd a c := c = .busOffRecoveryComplete a.1 a.2
  pre a s := Runs s ∧ (bus s.dev a.1).state = 4
  parts := [.can]
  objs _ := among []
  post a s d := d.out = [] ∧ bus d a.1 = { bus s.dev a.1 with state := 2, txErrors := 0, rxErrors := 0 } ∧
    (∀ k : Fin 2, k ≠ a.1 → bus d k = bus s.dev k)

/-- R364: a claim of the device's own address by a higher NAME: the device claims its address again. -/
abbrev addressClaim : Rule (Nat × Nat) where
  cmd a c := c = .addressClaim a.1 128 a.2
  pre a s := Iso11783 s ∧ s.dev.can.iso.address = 128 ∧ s.dev.can.iso.others = [] ∧ s.dev.isoName < a.1
  parts := [.can]
  objs _ := among [0x2C0113]
  post a s d := d.out = [.claim s.dev.isoName 128] ∧ d.can.iso.address = 128 ∧ d.can.iso.others = [(a.1, 128)]

/-- R364: one lost to a lower NAME: a self-configurable device claims the lowest free address from 128 to 247. -/
abbrev addressClaimLost : Rule (Nat × Nat) where
  cmd a c := c = .addressClaim a.1 128 a.2
  pre a s := Iso11783 s ∧ s.dev.can.iso.address = 128 ∧ s.dev.can.iso.others = [] ∧ a.1 ≤ s.dev.isoName ∧
    s.dev.flag 0x2C2006 = true
  parts := [.can]
  objs _ := among [0x2C200E, 0x2C0113]
  post _ s d := d.out = [.claim s.dev.isoName 129] ∧ d.can.iso.address = 129

/-- R364: a device that is not self-configurable sends cannot-claim from address 254, and then talks no more. -/
abbrev addressClaimCannot : Rule (Nat × Nat × Nat) where
  cmd a c := c = .addressClaim a.1 a.2.1 a.2.2
  pre a s := Iso11783 s ∧ s.dev.can.iso.address = a.2.1 ∧ a.1 ≤ s.dev.isoName ∧ s.dev.flag 0x2C2006 = false
  parts := [.can]
  objs _ := among [0x2C0113]
  post _ s d := d.out = [.claim s.dev.isoName 254] ∧ d.can.iso.address = 254 ∧ d.isoTalks = false

/-- R365: the first packet of a message opens a session, which is cleared to send. -/
abbrev transportPacket : Rule (Nat × Nat × List Byte × Nat) where
  cmd a c := c = .transportPacket a.1 a.2.1 a.2.2.1 false a.2.2.2
  pre a s := Iso11783 s ∧ s.dev.can.iso.sessions = [] ∧ a.2.2.1.length ≤ 1785
  parts := [.can]
  objs _ := among [0x2C0113]
  post a _ d := d.out = [.transport 0 a.1 a.2.1] ∧ d.can.iso.sessions = [⟨a.1, a.2.1, a.2.2.1.length, 1, false⟩]

/-- R365: a third TP session is refused with a connection abort; the two that are open stay. -/
abbrev transportPacketRefused : Rule (Transport × Transport × (Nat × Nat × List Byte) × Nat) where
  cmd a c := c = .transportPacket a.2.2.1.1 a.2.2.1.2.1 a.2.2.1.2.2 false a.2.2.2
  pre a s := Iso11783 s ∧ s.dev.can.iso.sessions = [a.1, a.2.1] ∧ a.1.etp = false ∧ a.2.1.etp = false ∧
    a.1.source ≠ a.2.2.1.1 ∧ a.2.1.source ≠ a.2.2.1.1 ∧ a.2.2.1.2.2.length ≤ 1785
  parts := []
  objs _ := among [0x2C0113]
  post a _ d := d.out = [.transport 2 a.2.2.1.1 a.2.2.1.2.1]

/-- R365: the last packet ends the session. -/
abbrev transportPacketLast : Rule (Transport × List Byte × Nat) where
  cmd a c := c = .transportPacket a.1.source a.1.pgn a.2.1 true a.2.2
  pre a s := Iso11783 s ∧ s.dev.can.iso.sessions = [a.1] ∧ a.1.etp = false ∧ a.1.bytes + a.2.1.length ≤ 1785
  parts := [.can]
  objs _ := among [0x2C0113]
  post a _ d := d.out = [.transport 1 a.1.source a.1.pgn] ∧ d.can.iso.sessions = []

/-- R365: a session that times out is aborted. -/
abbrev transportTimeout : Rule (Transport × Nat) where
  cmd a c := c = .transportTimeout a.1.source a.2
  pre a s := Iso11783 s ∧ s.dev.can.iso.sessions = [a.1]
  parts := [.can]
  objs _ := among [0x2C0113]
  post a s d := d.out = [.transport 2 a.1.source a.1.pgn] ∧ d.can.iso = { s.dev.can.iso with sessions := [] }

/-- Table 15.2: DM2 on request: the DTCs that were active; the product identification from 0x1008. -/
abbrev diagnosticRequest : Rule (Nat × Nat × Nat) where
  cmd a c := c = .diagnosticRequest a.1 a.2.1 a.2.2
  pre a s := Iso11783 s ∧ (a.1 = 65227 ∨ a.1 = 64653)
  parts := []
  objs _ := among [0x2C0113]
  post a s d := d.out = [if a.1 = 65227 then .dtcs 65227 a.2.1 s.dev.amber (s.dev.dtcList false)
    else .identification 64653 a.2.1 (s.dev.str 0x100800)]

/-- R365, Table 15.2: DM3 clears the list of previously active DTCs only. -/
abbrev dm3Clear : Rule (Nat × Nat) where
  cmd a c := c = .dm3Clear a.1 a.2
  pre _ s := Iso11783 s
  parts := [.diag]
  objs _ := among []
  post _ s d := d.out = [] ∧ d.diag = { s.dev.diag with
    dtcs := s.dev.diag.dtcs.filter fun x => x.active, chainCount := if s.dev.diag.chainActive then s.dev.diag.chainCount else 0 }

/-- R365, Table 15.2: DM11 leaves every DTC whose condition persists active (log entry 88). -/
abbrev dm11Clear : Rule (Nat × Nat) where
  cmd a c := c = .dm11Clear a.1 a.2
  pre _ s := Runs s
  parts := []
  objs _ := among []
  post _ s d := d.out = [] ∧ (d.diag.dtcs.filter fun x => x.active) = s.dev.diag.dtcs.filter fun x => x.active

/-- R365, R366: once a second while any is active, and for a new one, DM1 lists the active DTCs to all, with the amber
lamp on. -/
abbrev dm1Send : Rule Nat where
  cmd t c := c = .dm1Send t
  pre t s := Iso11783 s ∧ s.dev.amber = true ∧ (s.dev.diag.fresh = true ∨ s.dev.diag.dm1At = none ∨
    ∃ x ∈ s.dev.diag.dm1At, x + 1000000000 ≤ s.nowAt t)
  parts := [.diag]
  objs _ := among [0x2C0113]
  post t s d := d.out = [.dtcs 65226 255 true (s.dev.dtcList true)] ∧
    d.diag = { s.dev.diag with fresh := false, dm1At := some (s.nowAt t) }

/-- R365: within a second of the last DM1 and with no new DTC, none is sent. -/
abbrev dm1SendEarly : Rule (Nat × Nat) where
  cmd a c := c = .dm1Send a.1
  pre a s := Runs s ∧ s.dev.diag.fresh = false ∧ s.dev.diag.dm1At = some a.2 ∧ s.nowAt a.1 < a.2 + 1000000000
  parts := []
  objs _ := among []
  post _ _ d := d.out = []

/-- R365: with no DTC active no DM1 is sent. -/
abbrev dm1SendNone : Rule Nat where
  cmd t c := c = .dm1Send t
  pre _ s := Runs s ∧ s.dev.amber = false
  parts := []
  objs _ := among []
  post _ _ d := d.out = []

/-- R367: the searching client finds a server that holds another pool: it transfers its own. -/
abbrev tcServerStatus : Rule (Nat × List Byte × Nat) where
  cmd a c := c = .tcServerStatus a.1 a.2.1 a.2.2
  pre a s := Iso11783 s ∧ s.dev.tcEnabled = true ∧ s.dev.can.iso.tc = 1 ∧ a.2.1 ≠ s.dev.str 0x2C200B
  parts := eventParts
  objs _ := eventObjs
  post a s d := d.can.iso = { s.dev.can.iso with tc := 2, heardAt := s.nowAt a.2.2 } ∧
    .tcPool (s.dev.str 0x2C200B) s.dev.poolElements ∈ d.out

/-- R367: the server reports the client's structure label: the pool is active. -/
abbrev tcServerStatusActive : Rule (Nat × Nat) where
  cmd a c := c = .tcServerStatus a.1 (List.replicate 7 0) a.2
  pre _ s := Iso11783 s ∧ s.dev.tcEnabled = true ∧ s.dev.can.iso.tc = 2 ∧ s.dev.str 0x2C200B = List.replicate 7 0
  parts := [.can]
  objs _ := among []
  post a s d := d.out = [] ∧ d.can.iso = { s.dev.can.iso with tc := 3, heardAt := s.nowAt a.2, activeLabel := List.replicate 7 0 }

/-- R367: the server silent for 6 s: its setpoints stop acting and what they blocked is released; an event. -/
abbrev tcServerLost : Rule Nat where
  cmd t c := c = .tcServerLost t
  pre t s := Runs s ∧ s.dev.can.iso.tc = 3 ∧ s.dev.can.iso.heardAt + 6000000000 ≤ s.nowAt t
  parts := eventParts
  objs _ := eventObjs
  post _ s d := d.can.iso = { s.dev.can.iso with tc := 4, workOff := false, blocked := Vector.replicate 8 0, triggers := [] }

/-- R367: before 6 s of silence the client stays as it is. -/
abbrev tcServerLostEarly : Rule Nat where
  cmd t c := c = .tcServerLost t
  pre t s := Runs s ∧ s.nowAt t < s.dev.can.iso.heardAt + 6000000000
  parts := []
  objs _ := among []
  post _ _ d := d.out = []

/-- R367, R402: the setpoint work state off acts as an inactive master switch; it is accepted work of the CAN-I TC source. -/
abbrev tcValueCommand : Rule (Nat × Int × Nat) where
  cmd a c := c = .tcValueCommand a.1 289 a.2.1 a.2.2
  pre _ s := Iso11783 s ∧ s.dev.can.iso.tc = 3 ∧ s.dev.intakeBusy = false ∧ lastSeq (0x13, 0) s.dev.jrn.seqs = none
  parts := [.can, .jrn]
  objs _ := among []
  post a s d := d.out = [] ∧ d.can.iso = { s.dev.can.iso with workOff := decide (a.2.1 = 0) } ∧ d.can.buses = s.dev.can.buses ∧
    d.can.copen = s.dev.can.copen ∧ d.jrn.openHalf = s.dev.jrn.openHalf ++ [s.dev.entry 3 0x13 1 0 true .none]

/-- R367: in automatic mode the setpoint condensed work state 1 blocks the sections 0 to 15 that it sets off and releases
those that it sets on (0 off, 1 on in each pair of bits): here sections 0 off and 1 on. -/
abbrev tcValueCommandSections : Rule (Nat × Nat) where
  cmd a c := c = .tcValueCommand a.1 290 0xFFFFFFF4 a.2
  pre _ s := Iso11783 s ∧ s.dev.can.iso.tc = 3 ∧ s.dev.intakeBusy = false ∧ s.dev.flag 0x2C2009 = true ∧ s.dev.nat 0x210001 = 1 ∧
    s.dev.can.iso.blocked = Vector.replicate 8 2
  parts := [.can, .jrn]
  objs _ := among []
  post _ s d := d.out = [] ∧ d.can.iso = { s.dev.can.iso with blocked := (Vector.replicate 8 2).set 0 1 }

/-- R367: a measurement command: the value is reported under its trigger. -/
abbrev tcMeasurementCommand : Rule ((Nat × Nat × Nat) × Int × Nat) where
  cmd a c := c = .tcMeasurementCommand a.1.1 a.1.2.1 a.1.2.2 a.2.1 a.2.2
  pre a s := Iso11783 s ∧ s.dev.can.iso.tc = 3 ∧ a.1.2.2 ≤ 4 ∧ s.dev.can.iso.triggers = []
  parts := [.can]
  objs _ := among []
  post a s d := d.out = [] ∧ d.can.iso = { s.dev.can.iso with triggers :=
    [{ element := a.1.1, ddi := a.1.2.1, kind := a.1.2.2, value := a.2.1, sentAt := s.nowAt a.2.2, sentTravel := s.dev.can.iso.travel }] }

/-- R368: a read by the client that 0x2C20:0C names, or by any where it is 0: answered with the object's word. -/
abbrev proprietaryARequest : Rule (Nat × Nat × Val × Nat) where
  cmd a c := c = .proprietaryARequest a.1 1 0x240201 a.2.1 a.2.2.1 a.2.2.2
  pre a s := Iso11783 s ∧ (s.dev.nat 0x2C200C = 0 ∨ s.dev.nat 0x2C200C = a.1)
  parts := []
  objs _ := among [0x2C0113]
  post a s d := d.out = [.answer (.canI a.1) 0 0 (.num (valueWord (s.dev.int 0x240201)))]

/-- R368: a request of any other control function is not accepted. -/
abbrev proprietaryARequestOther : Rule ((Nat × Nat × Nat) × Nat × Val × Nat) where
  cmd a c := c = .proprietaryARequest a.1.1 a.1.2.1 a.1.2.2 a.2.1 a.2.2.1 a.2.2.2
  pre a s := Runs s ∧ s.dev.nat 0x2C200C ≠ 0 ∧ s.dev.nat 0x2C200C ≠ a.1.1
  parts := []
  objs _ := among []
  post _ _ d := d.out = []

/-- R368, R405: a write of a client: accepted under the sequence it carries, bound to a slot, answered after its commit. -/
abbrev proprietaryAWrite : Rule (Nat × Nat × Nat × Nat) where
  cmd a c := c = .proprietaryARequest a.1 2 0x240201 a.2.1 (.num a.2.2.1) a.2.2.2
  pre a s := Iso11783 s ∧ (s.dev.nat 0x2C200C = 0 ∨ s.dev.nat 0x2C200C = a.1) ∧ a.1 ≠ 0 ∧ a.2.2.1 < 64 ∧
    writeCheck s.dev (.canI a.1) 0x240201 (.num a.2.2.1) = none ∧ s.dev.jrn.seqs = [] ∧
    s.dev.jrn.clients = Vector.replicate 8 0 ∧ s.dev.intakeBusy = false
  parts := [.jrn]
  objs _ := among [0x240201]
  post a s d := d.out = [] ∧ d.int 0x240201 = a.2.2.1 ∧ d.jrn.clients = (Vector.replicate 8 0).set 0 a.1 ∧
    d.jrn.seqs = [((0x18, 0), a.2.1)] ∧ d.jrn.waiting = s.dev.jrn.waiting ++ [⟨.canI a.1, a.2.1, 0, none, 0⟩]

/-- R370: an NMT command that names this node, or all. -/
abbrev forNode (n : Nat) (s : State) : Prop := Runs s ∧ s.dev.busHears 1 = true ∧ (n = 0 ∨ n = s.dev.nodeId)

/-- R370: operational. -/
abbrev nmtOperational : Rule (Nat × Nat) where
  cmd a c := c = .nmtOperational a.1 a.2
  pre a s := forNode a.1 s
  parts := [.can]
  objs _ := among []
  post _ s d := d.out = [] ∧ d.can = { s.dev.can with copen := { s.dev.can.copen with nmt := 5 } }

/-- R370: pre-operational. -/
abbrev nmtPreOperational : Rule (Nat × Nat) where
  cmd a c := c = .nmtPreOperational a.1 a.2
  pre a s := forNode a.1 s
  parts := [.can]
  objs _ := among []
  post _ s d := d.out = [] ∧ d.can = { s.dev.can with copen := { s.dev.can.copen with nmt := 0x7F } }

/-- R370: stopped. -/
abbrev nmtStop : Rule (Nat × Nat) where
  cmd a c := c = .nmtStop a.1 a.2
  pre a s := forNode a.1 s
  parts := [.can]
  objs _ := among []
  post _ s d := d.out = [] ∧ d.can = { s.dev.can with copen := { s.dev.can.copen with nmt := 4 } }

/-- R370: reset communication restarts the stack alone, pre-operational unless it is to start by itself. -/
abbrev nmtResetCommunication : Rule (Nat × Nat) where
  cmd a c := c = .nmtResetCommunication a.1 a.2
  pre a s := forNode a.1 s
  parts := [.can]
  objs _ := among [0x2C0213]
  post a s d := d.can = { s.dev.can with copen := { nmt := if s.dev.flag 0x2C3003 then 5 else 0x7F, beatAt := s.nowAt a.2 } }

/-- R370: reset node has the same effect: the device, its outputs and its batches go on. -/
abbrev nmtResetNode : Rule (Nat × Nat) where
  cmd a c := c = .nmtResetNode a.1 a.2
  pre a s := forNode a.1 s
  parts := [.can]
  objs _ := among [0x2C0213]
  post a s d := d.can = { s.dev.can with copen := { nmt := if s.dev.flag 0x2C3003 then 5 else 0x7F, beatAt := s.nowAt a.2 } }

/-- R370: an NMT command for another node does nothing. -/
abbrev nmtOther : Rule (Nat × Nat) where
  cmd a c := c = .nmtStop a.1 a.2
  pre a s := Runs s ∧ a.1 ≠ 0 ∧ a.1 ≠ s.dev.nodeId
  parts := []
  objs _ := among []
  post _ _ d := d.out = []

/-- R371: an SDO read of the device's own object is answered at once. -/
abbrev sdoRequest : Rule Nat where
  cmd t c := c = .sdoRequest none 0x240201 t
  pre _ s := Stack s ∧ s.dev.can.copen.sdo = none ∧ s.dev.nat 0x2C3007 = 0xFF
  parts := [.can]
  objs _ := among [0x2C0213]
  post _ s d := d.out = [.answer .sdo 0 0 (storeGet s.dev.obj 0x240201)] ∧
    d.can = { s.dev.can with copen := { s.dev.can.copen with upload := none } }

/-- R371: an SDO write is journalled under the sequence in 0x2C30:06, which rises; its confirmation waits for the commit. -/
abbrev sdoRequestWrite : Rule (Val × Nat) where
  cmd a c := c = .sdoRequest (some a.1) 0x240201 a.2
  pre a s := Stack s ∧ s.dev.can.copen.sdo = none ∧ s.dev.nat 0x2C3007 = 0xFF ∧ writeCheck s.dev .sdo 0x240201 a.1 = none ∧
    seqFresh s.dev (0x12, 0) (s.dev.nat 0x2C3006) = true ∧ s.dev.intakeBusy = false
  parts := [.can, .jrn]
  objs _ := among [0x240201, 0x2C3006]
  post a s d := d.out = [] ∧ storeGet d.obj 0x240201 = a.1 ∧ d.can.copen.sdo = some 0x240201 ∧
    d.nat 0x2C3006 = (s.dev.nat 0x2C3006 + 1) % 2 ^ 32 ∧
    d.jrn.openHalf = s.dev.jrn.openHalf ++ [s.dev.entry 2 0x12 (s.dev.nat 0x2C3006) 0 false (.write 0x240201 a.1)]

/-- R399: a transfer not continued within 1 s is aborted with the time-out code. -/
abbrev sdoTimeout : Rule (Nat × Nat) where
  cmd a c := c = .sdoTimeout a.2
  pre a s := Runs s ∧ s.dev.busTalks 1 = true ∧ s.dev.can.copen.sdo = some a.1 ∧ s.dev.can.copen.sdoAt + 1000000000 ≤ s.nowAt a.2
  parts := [.can]
  objs _ := among [0x103004, 0x103005, 0x103006, 0x2C0213]
  post _ _ d := d.out = [.answer .sdo 6 0x05040000 (.num 0)] ∧ d.can.copen.sdo = none ∧ d.can.copen.upload = none ∧
    d.nat 0x103005 = 0x05040000

/-- R399: before 1 s the transfer stays. -/
abbrev sdoTimeoutEarly : Rule Nat where
  cmd t c := c = .sdoTimeout t
  pre t s := Runs s ∧ s.nowAt t < s.dev.can.copen.sdoAt + 1000000000
  parts := []
  objs _ := among []
  post _ _ d := d.out = []

/-- R372: in operational an RPDO writes its mapped object (a RW object of 8 bits) when it arrives: not journalled, not
acknowledged. -/
abbrev rpdo : Rule (Byte × Nat) where
  cmd a c := c = .rpdo 0 [a.1] a.2
  pre a s := Runs s ∧ s.dev.busHears 1 = true ∧ s.dev.can.copen.nmt = 5 ∧ s.dev.bit 0x2C4801 31 = false ∧
    s.dev.str 0x2C4806 = [0x02, 0x24, 0x01, 8] ∧ writeCheck s.dev .sdo 0x240201 (.num a.1.toNat) = none
  parts := []
  objs _ := among [0x240201, 0x2C4807]
  post a s d := d.out = [] ∧ d.nat 0x240201 = a.1.toNat ∧ d.int 0x2C4807 = (s.dev.int 0x2C4807 + 1) % 2 ^ 32

/-- R370: no PDO runs outside operational. -/
abbrev rpdoWithheld : Rule (Fin 4 × List Byte × Nat) where
  cmd a c := c = .rpdo a.1 a.2.1 a.2.2
  pre _ s := Runs s ∧ s.dev.can.copen.nmt ≠ 5
  parts := []
  objs _ := among []
  post _ _ d := d.out = []

/-- R369: each producer heartbeat time the heartbeat: 0x700 + node ID with the NMT state. -/
abbrev heartbeatSend : Rule Nat where
  cmd t c := c = .heartbeatSend t
  pre t s := Runs s ∧ s.dev.busTalks 1 = true ∧ s.dev.nat 0x101700 ≠ 0 ∧
    s.dev.can.copen.beatAt + 1000000 * s.dev.nat 0x101700 ≤ s.nowAt t
  parts := [.can]
  objs _ := among [0x2C0213]
  post t s d := d.can = { s.dev.can with copen := { s.dev.can.copen with beatAt := s.nowAt t } } ∧
    d.out = [.can 1 ⟨0x700 + s.dev.nodeId, false, false, [BitVec.ofNat 8 s.dev.can.copen.nmt]⟩] ∧
    d.int 0x2C0213 = (s.dev.int 0x2C0213 + 1) % 2 ^ 32

/-- R369: before the producer heartbeat time none is sent. -/
abbrev heartbeatSendEarly : Rule Nat where
  cmd t c := c = .heartbeatSend t
  pre t s := Runs s ∧ s.nowAt t < s.dev.can.copen.beatAt + 1000000 * s.dev.nat 0x101700
  parts := []
  objs _ := among []
  post _ _ d := d.out = []

/-- R373: a producer within its time, or never heard, is not lost (log entry 143). -/
abbrev heartbeatTimeoutEarly : Rule (Fin 2 × Nat) where
  cmd a c := c = .heartbeatTimeout a.1 a.2
  pre a s := Runs s ∧ ∀ x ∈ s.dev.can.copen.heard[a.1], s.nowAt a.2 < x + 1000000 * (s.dev.nat (adr 0x1016 (a.1 + 1)) % 2 ^ 16)
  parts := []
  objs _ := among []
  post _ _ d := d.out = []

/-- R373: a consumed producer that falls silent is lost: an event, and no other effect. -/
abbrev heartbeatTimeout : Rule (Fin 2 × Nat) where
  cmd a c := c = .heartbeatTimeout a.1 a.2
  pre a s := Runs s ∧ s.dev.busHears 1 = true ∧ s.dev.nat (adr 0x1016 (a.1 + 1)) % 2 ^ 16 ≠ 0 ∧ s.dev.can.copen.lost[a.1] = false ∧
    ∃ x ∈ s.dev.can.copen.heard[a.1], x + 1000000 * (s.dev.nat (adr 0x1016 (a.1 + 1)) % 2 ^ 16) ≤ s.nowAt a.2
  parts := eventParts
  objs _ := eventObjs
  post a s d := d.can.copen.lost[a.1] = true ∧ d.can.copen.nmt = s.dev.can.copen.nmt ∧ d.can.iso = s.dev.can.iso

/-! ### Remote access (R331, R387, R388) -/

/-- R388: a management-class read is answered at once with the whole value, under its tag. -/
abbrev dictionaryRequest : Rule (DictRequest × Nat) where
  cmd a c := c = .dictionaryRequest a.1 a.2
  pre a s := Runs s ∧ a.1.command = 1 ∧ s.dev.readCheck (.mgmt a.1.origin) a.1.address = none ∧ isQueue a.1.address = false ∧
    a.1.address ≠ 0x2F0103 ∧ (valBytes (s.dev.valueOf (.mgmt a.1.origin) a.1.address)).length ≤ 131072 ∧
    (objRow a.1.address).any (fun r => r.eff ≠ .read) = true ∧ s.dev.dic.answers = []
  parts := [.link]
  objs _ := among []
  post a s d := Leaves d (.response ⟨a.1.tag, 0, 0, s.dev.valueOf (.mgmt a.1.origin) a.1.address⟩)

/-- R388, Table 16.6: a request of a write-only object is answered with its abort code, which the target records. -/
abbrev dictionaryRequestAborted : Rule (DictRequest × Nat) where
  cmd a c := c = .dictionaryRequest a.1 a.2
  pre a s := Runs s ∧ a.1.command = 1 ∧ a.1.address = 0x2A2101 ∧ s.dev.dic.answers = []
  parts := [.link]
  objs _ := among [0x103004, 0x103005, 0x103006]
  post a _ d := Leaves d (.response ⟨a.1.tag, 6, 0x06010001, .num 0⟩) ∧ d.int 0x103005 = 0x06010001

/-- R387, R388: a write of the aggregator that lies ahead is accepted and journalled under its source; it is answered only
after its commit. -/
abbrev dictionaryRequestWrite : Rule (DictRequest × Nat) where
  cmd a c := c = .dictionaryRequest a.1 a.2
  pre a s := Runs s ∧ a.1.command = 2 ∧ a.1.address = 0x240201 ∧
    writeCheck s.dev (.mgmt a.1.origin) 0x240201 a.1.value = none ∧ s.dev.jrn.seqs = [] ∧ s.dev.intakeBusy = false ∧ s.dev.jrn.waiting = []
  parts := [.jrn, .dic]
  objs _ := among [0x240201]
  post a s d := d.out = [] ∧ storeGet d.obj 0x240201 = a.1.value ∧
    d.jrn.openHalf = s.dev.jrn.openHalf ++ [s.dev.entry 2 0x14 a.1.seq 0 false (.write 0x240201 a.1.value)] ∧
    d.jrn.waiting = [⟨.mgmt a.1.origin, a.1.seq, 0, none, a.1.tag⟩] ∧ d.jrn.seqs = [((0x14, 0), a.1.seq)] ∧
    d.dic = { s.dev.dic with answers := s.dev.dic.answers ++ [(a.1.tag, none)] }

/-- R387: a write of the aggregator that does not lie ahead of the last accepted is answered as a duplicate and takes no
effect. -/
abbrev dictionaryRequestDuplicate : Rule (DictRequest × Nat) where
  cmd a c := c = .dictionaryRequest a.1 a.2
  pre a s := Runs s ∧ a.1.command = 2 ∧ a.1.address = 0x240201 ∧
    writeCheck s.dev (.mgmt a.1.origin) 0x240201 a.1.value = none ∧ seqFresh s.dev (0x14, 0) a.1.seq = false ∧ s.dev.dic.answers = []
  parts := [.link]
  objs _ := among [0x320007]
  post a s d := Leaves d (.response ⟨a.1.tag, 5, 0, .num 0⟩) ∧ d.int 0x320007 = (s.dev.int 0x320007 + 1) % 2 ^ 32

/-- R331, R388: behind a request that is not answered yet, the response to a read waits for its turn. -/
abbrev dictionaryRequestOrdered : Rule (Nat × Nat × Nat) where
  cmd a c := c = .dictionaryRequest ⟨a.1, 1, 0, 0x240201, 0, .num 0⟩ a.2.2
  pre a s := Runs s ∧ s.dev.dic.answers = [(a.2.1, none)]
  parts := [.dic]
  objs _ := among []
  post a s d := d.out = [] ∧ d.dic = { s.dev.dic with
    answers := [(a.2.1, none), (a.1, some ⟨a.1, 0, 0, storeGet s.dev.obj 0x240201⟩)] }

/-- R387, Table 17.4: the confirmation of a forward: it is outstanding no more, its entry is closed, and the closure is
journalled. -/
abbrev dictionaryResponse : Rule (Fin 32 × DictResponse × Remote × Nat) where
  cmd a c := c = .dictionaryResponse a.1 a.2.1 a.2.2.2
  pre a s := Runs s ∧ s.dev.dic.remotes = [a.2.2.1] ∧ a.2.2.1.position = a.1 ∧ a.2.2.1.req.tag = a.2.1.tag ∧ a.2.2.1.sent = true ∧
    a.2.2.1.req.command = 2 ∧ (a.2.1.status = 0 ∨ a.2.1.status = 5) ∧ s.dev.dic.remoteAcks = [] ∧ s.dev.jrn.seqs = []
  parts := [.dic, .jrn]
  objs _ := among []
  post a s d := d.out = [] ∧ d.dic = { s.dev.dic with remotes := [] } ∧
    d.jrn.reserved = s.dev.jrn.reserved ++ [s.dev.entry 13 0x14 a.2.2.1.req.seq a.1 true .none] ∧
    (d.jrn.openEntries.all fun e => !(e.kind = 12 && e.subKey = a.1.val && e.seq = a.2.2.1.req.seq)) = true

/-- R388: a busy answer: the request waits 2 ms to be sent again. -/
abbrev dictionaryResponseBusy : Rule (Fin 32 × DictResponse × Remote × Nat) where
  cmd a c := c = .dictionaryResponse a.1 a.2.1 a.2.2.2
  pre a s := Runs s ∧ s.dev.dic.remotes = [a.2.2.1] ∧ a.2.2.1.position = a.1 ∧ a.2.2.1.req.tag = a.2.1.tag ∧ a.2.2.1.sent = true ∧
    a.2.1.status = 3
  parts := [.dic]
  objs _ := among []
  post a s d := d.out = [] ∧
    d.dic = { s.dev.dic with remotes := [{ a.2.2.1 with busyAt := some (s.nowAt a.2.2.2) }] }

/-- R376, R388: the answer to a read of the host port waits there as its result. -/
abbrev dictionaryResponseRead : Rule (Fin 32 × DictResponse × Remote × Nat) where
  cmd a c := c = .dictionaryResponse a.1 a.2.1 a.2.2.2
  pre a s := Runs s ∧ s.dev.dic.remotes = [a.2.2.1] ∧ a.2.2.1.position = a.1 ∧ a.2.2.1.req.tag = a.2.1.tag ∧ a.2.2.1.sent = true ∧
    a.2.2.1.req.command = 1 ∧ a.2.1.status = 0 ∧ a.2.2.1.origin = some .host ∧ a.2.2.1.req.address = 0x1801ff ∧
    s.dev.hp.awaited = [resultKey 1 a.1 0x1801ff]
  parts := [.dic, .hp]
  objs _ := among []
  post a s d := d.out = [] ∧ d.dic = { s.dev.dic with remotes := [] } ∧
    (resultKey 1 a.1 0x1801ff, ReadResult.value a.2.1.value false, s.nowAt a.2.2.2) ∈ d.hp.results

/-- R331: a request with no response within 20 ms ends in the device-missing abort. -/
abbrev remoteRequestTimeout : Rule (Fin 32 × Remote × Nat) where
  cmd a c := c = .remoteRequestTimeout a.1 a.2.1.req.tag a.2.2
  pre a s := Runs s ∧ s.dev.dic.remotes = [a.2.1] ∧ a.2.1.position = a.1 ∧ a.2.1.sent = true ∧ a.2.1.req.command = 1 ∧
    a.2.1.origin = some .host ∧ a.2.1.sentAt + 20000000 ≤ s.nowAt a.2.2 ∧ a.2.1.req.address < 2 ^ 24 ∧
    s.dev.hp.awaited = [resultKey 9 a.1 a.2.1.req.address]
  parts := [.dic, .hp]
  objs _ := among [0x103104]
  post a s d := d.out = [] ∧ d.dic = { s.dev.dic with remotes := [] } ∧ d.int 0x103104 = (s.dev.int 0x103104 + 1) % 2 ^ 32 ∧
    (resultKey 9 a.1 a.2.1.req.address, ReadResult.aborted 0x0F000001, s.nowAt a.2.2) ∈ d.hp.results

/-- R387: a forward of a chain object is sent again until the device confirms it. -/
abbrev remoteForwardTimeout : Rule (Fin 32 × Remote × Nat) where
  cmd a c := c = .remoteRequestTimeout a.1 a.2.1.req.tag a.2.2
  pre a s := Runs s ∧ s.dev.dic.remotes = [a.2.1] ∧ a.2.1.position = a.1 ∧ a.2.1.sent = true ∧ a.2.1.committed = true ∧ a.2.1.mirror = none ∧ a.2.1.req.command = 2 ∧
    s.dev.dic.remoteAcks = [] ∧ a.2.1.sentAt + 20000000 ≤ s.nowAt a.2.2
  parts := [.dic, .link]
  objs _ := among [0x103104]
  post a s d := d.dic = { s.dev.dic with remotes := [{ a.2.1 with sentAt := s.nowAt a.2.2, busyAt := none }] } ∧
    Leaves d (.request a.1 a.2.1.req)

/-- R388: 2 ms after a busy answer the request is sent again under the same tag and sequence. -/
abbrev aggregatorBusyResend : Rule (Fin 32 × Remote × Nat × Nat) where
  cmd a c := c = .aggregatorBusyResend a.1 a.2.1.req.tag a.2.2.2
  pre a s := Runs s ∧ s.dev.dic.remotes = [a.2.1] ∧ a.2.1.position = a.1 ∧ a.2.1.sent = true ∧ a.2.1.busyAt = some a.2.2.1 ∧
    a.2.2.1 + 2000000 ≤ s.nowAt a.2.2.2
  parts := [.dic, .link]
  objs _ := among []
  post a s d := d.dic = { s.dev.dic with remotes := [{ a.2.1 with sentAt := s.nowAt a.2.2.2, busyAt := none }] } ∧
    Leaves d (.request a.1 a.2.1.req)

/-! ### Accepted work and the journal -/

/-- Nothing but the group is due in Phase D: no target work, no record, no slot, no announcement. -/
abbrev QuietD (d : Dev) : Prop :=
  d.tgt.intake = [] ∧ d.tgt.store = [] ∧ d.tiles.records = [] ∧ d.swap.calPending = [] ∧ d.seq.slotsDue = false ∧ d.nvm.level = true ∧ d.jrn.counterDue = 0 ∧
  d.swap.announced = none ∧ d.rcd.buffer = [] ∧ d.rcd.lostPending = 0 ∧ d.rcd.clearRing = none

/-- R375, R408: the group of one accepted host write: it is whole in the log under the next group number, and only then its
completion record is queued and 0x1100:04 takes its sequence. -/
abbrev journalGroupCommit : Rule (JEntry × Ack × Nat) where
  cmd a c := c = .journalGroupCommit a.2.2
  pre a s := Runs s ∧ QuietD s.dev ∧ s.dev.hasStandby = false ∧ s.dev.jrn.late = none ∧ 253952 ≤ s.dev.freeLog ∧
    s.dev.jrn.openHalf = [a.1] ∧ s.dev.jrn.reserved = [] ∧ s.dev.jrn.waiting = [a.2.1] ∧ a.2.1.acc = .host ∧ a.2.1.outcome = 0 ∧
    s.dev.jrn.held = [] ∧ s.dev.dic.remotes = []
  parts := [.nvm, .jrn, .hp, .seq]
  objs _ := among [0x110004, 0x320001, 0x320002]
  post a s d := d.out = [] ∧ d.nvm.groups = s.dev.nvm.groups ++ [⟨s.dev.nvm.nextGroup, [a.1], groupStart s.dev.nvm.logHead (16 + entryBytes a.1)⟩] ∧ d.nvm.nextGroup = (s.dev.nvm.nextGroup + 1) % 2 ^ 32 ∧
    d.jrn.openHalf = [] ∧ d.jrn.waiting = [] ∧ d.jrn.openEntries = s.dev.jrn.openEntries ∧
    d.hp.completions = s.dev.hp.completions ++ [(a.2.1.seq, 0)] ∧ storeGet d.obj 0x110004 = .num a.2.1.seq ∧
    storeGet d.obj 0x320001 = .num s.dev.nvm.nextGroup

/-- R388: the response to a write of the aggregator leaves with the group that holds its entry, and with it the response
behind it. -/
abbrev journalGroupCommitResponse : Rule (JEntry × (Nat × Nat × Nat) × DictResponse × Nat) where
  cmd a c := c = .journalGroupCommit a.2.2.2
  pre a s := Runs s ∧ QuietD s.dev ∧ s.dev.hasStandby = false ∧ s.dev.jrn.late = none ∧ 253952 ≤ s.dev.freeLog ∧
    s.dev.jrn.openHalf = [a.1] ∧ s.dev.jrn.reserved = [] ∧ s.dev.jrn.held = [] ∧ s.dev.dic.remotes = [] ∧
    s.dev.jrn.waiting = [⟨.mgmt a.2.1.1, a.2.1.2.1, 0, none, a.2.1.2.2⟩] ∧
    s.dev.dic.answers = [(a.2.1.2.2, none), (a.2.2.1.tag, some a.2.2.1)] ∧ a.2.2.1.tag ≠ a.2.1.2.2
  parts := [.nvm, .jrn, .dic, .seq, .link]
  objs _ := among [0x320001, 0x320002]
  post a s d := Leaves d (.response ⟨a.2.1.2.2, 0, 0, .num 0⟩) ∧ Leaves d (.response a.2.2.1) ∧ d.dic = { s.dev.dic with answers := [] }

/-- R408: a batch with no entries writes no group. -/
abbrev journalGroupCommitNone : Rule Nat where
  cmd t c := c = .journalGroupCommit t
  pre _ s := Runs s ∧ QuietD s.dev ∧ s.dev.jrn.late = none ∧ 253952 ≤ s.dev.freeLog ∧ s.dev.jrn.openHalf = [] ∧ s.dev.jrn.reserved = [] ∧
    s.dev.jrn.held = [] ∧ s.dev.dic.remotes = []
  parts := [.seq]
  objs _ := among []
  post _ _ d := d.out = []

/-- R417: a lead with a standby writes the group but holds the acknowledgement of a source outside the chain until the mirror
of the batch is acknowledged. -/
abbrev journalGroupCommitHeld : Rule (JEntry × Ack × Nat) where
  cmd a c := c = .journalGroupCommit a.2.2
  pre a s := Runs s ∧ QuietD s.dev ∧ s.dev.hasStandby = true ∧ s.dev.jrn.late = none ∧ 253952 ≤ s.dev.freeLog ∧
    s.dev.jrn.openHalf = [a.1] ∧ s.dev.jrn.reserved = [] ∧ s.dev.jrn.waiting = [a.2.1] ∧ a.2.1.acc = .host ∧ s.dev.dic.remotes = []
  parts := [.nvm, .jrn, .seq]
  objs _ := among [0x320001, 0x320002]
  post a s d := d.out = [] ∧ d.nvm.groups = s.dev.nvm.groups ++ [⟨s.dev.nvm.nextGroup, [a.1], groupStart s.dev.nvm.logHead (16 + entryBytes a.1)⟩] ∧ d.jrn.waiting = [] ∧
    d.jrn.held = s.dev.jrn.held ++ [{ a.2.1 with mirror := some s.dev.seq.number }]

/-- R387: the lead journals each forward before it sends it: with the group that holds its entry the request leaves. -/
abbrev journalGroupCommitForward : Rule (JEntry × Remote × Nat) where
  cmd a c := c = .journalGroupCommit a.2.2
  pre a s := Runs s ∧ QuietD s.dev ∧ s.dev.hasStandby = false ∧ s.dev.jrn.late = none ∧ 253952 ≤ s.dev.freeLog ∧
    s.dev.jrn.openHalf = [a.1] ∧ s.dev.jrn.reserved = [] ∧ s.dev.jrn.waiting = [] ∧ s.dev.jrn.held = [] ∧ a.1.kind = 12 ∧
    s.dev.dic.remotes = [a.2.1] ∧ a.2.1.committed = false ∧ a.2.1.sent = false ∧ a.2.1.mirror = none ∧
    a.1.subKey = a.2.1.position ∧ a.1.seq = a.2.1.req.seq
  parts := [.nvm, .jrn, .seq, .dic, .link]
  objs _ := among [0x320001, 0x320002]
  post a s d := d.dic.remotes = [{ a.2.1 with committed := true, sent := true, sentAt := s.nowAt a.2.2 }] ∧
    Leaves d (.request a.2.1.position a.2.1.req)

/-- R410: when the tail has moved a checkpoint is written: its number, the sequences and the client bindings. -/
abbrev journalCheckpoint : Rule Nat where
  cmd t c := c = .journalCheckpoint t
  pre _ s := Runs s ∧ s.dev.jrn.tailMoved = true
  parts := [.nvm, .jrn]
  objs _ := among []
  post t s d := d.out = [] ∧ d.nvm.checkpoint.number = (s.dev.nvm.checkpoint.number + 1) % 2 ^ 32 ∧
    d.nvm.checkpoint.seqs = s.dev.jrn.seqs ∧ d.nvm.checkpoint.clients = s.dev.jrn.clients ∧ d.nvm.groups = s.dev.nvm.groups ∧
    d.jrn.tailMoved = false ∧ d.jrn.checkpointAt = s.nowAt t

/-- R410: with the tail where it was and 10 s not over no checkpoint is written. -/
abbrev journalCheckpointNone : Rule Nat where
  cmd t c := c = .journalCheckpoint t
  pre t s := Runs s ∧ s.dev.jrn.tailMoved = false ∧ s.nowAt t < s.dev.jrn.checkpointAt + 10000000000
  parts := []
  objs _ := among []
  post _ _ d := d.out = []

/-- R417: the acknowledgement of the mirror that carries a write releases its completion. -/
abbrev mirrorAcknowledged : Rule (Nat × Ack × Nat) where
  cmd a c := c = .mirrorAcknowledged a.1 a.2.2
  pre a s := Runs s ∧ a.1 < 2 ^ 32 ∧ s.dev.jrn.held = [a.2.1] ∧ a.2.1.mirror = some a.1 ∧ a.2.1.acc = .host ∧ a.2.1.outcome = 0 ∧
    s.dev.dic.remotes = []
  parts := [.jrn, .hp]
  objs _ := among [0x110004]
  post a s d := d.out = [] ∧ d.jrn = { s.dev.jrn with held := [] } ∧ d.hp.completions = s.dev.hp.completions ++ [(a.2.1.seq, 0)] ∧
    storeGet d.obj 0x110004 = .num a.2.1.seq

/-- R417: the acknowledgement of an earlier mirror releases nothing. -/
abbrev mirrorAcknowledgedEarlier : Rule (Nat × Ack × Nat) where
  cmd a c := c = .mirrorAcknowledged a.1 a.2.2
  pre a s := Runs s ∧ a.1 + 1 < 2 ^ 32 ∧ s.dev.jrn.held = [a.2.1] ∧ a.2.1.mirror = some (a.1 + 1) ∧ s.dev.dic.remotes = []
  parts := []
  objs _ := among []
  post _ _ d := d.out = []

/-- R405: the release of a slot frees its binding, so that another client may take it. -/
abbrev clientSlotRelease : Rule (Fin 8) where
  cmd n c := c = .clientSlotRelease .host n.val
  pre n s := HostMay s 0x320209 (.num n.val)
  parts := [.jrn]
  objs _ := among [0x110003]
  post n s d := d.jrn.clients[n] = 0 ∧ (∀ k : Fin 8, k ≠ n → d.jrn.clients[k] = s.dev.jrn.clients[k]) ∧
    (d.jrn.seqs.any fun e => e.1.1 = 0x18 + n.val) = false ∧
    d.jrn.waiting = s.dev.jrn.waiting ++ [⟨.host, s.dev.nat 0x110003, 0, none, 0⟩]

/-- R460: after a swap the live values are committed in the other slot with state 1, the set's number and the next sequence,
and the slot they leave is brought level with it. -/
abbrev journalGroupCommitSlots : Rule Nat where
  cmd t c := c = .journalGroupCommit t
  pre _ s := Runs s ∧ s.dev.tgt.intake = [] ∧ s.dev.tgt.store = [] ∧ s.dev.tiles.records = [] ∧ s.dev.swap.calPending = [] ∧
    s.dev.seq.slotsDue = true ∧ s.dev.nvm.slotDone = 0 ∧ s.dev.jrn.counterDue = 0 ∧ s.dev.swap.announced = none ∧ s.dev.rcd.buffer = [] ∧
    s.dev.rcd.lostPending = 0 ∧ s.dev.rcd.clearRing = none ∧ s.dev.jrn.late = none ∧ 253952 ≤ s.dev.freeLog ∧ s.dev.jrn.openHalf = [] ∧
    s.dev.jrn.reserved = [] ∧ s.dev.jrn.held = [] ∧ s.dev.dic.remotes = [] ∧ s.dev.nvm.bootCopy = false ∧
    slotBytes (storeKeep inSetSlot s.dev.obj) s.dev.nvm.base + slotBytes (storeKeep inSetSlot s.dev.obj) s.dev.nvm.live ≤ 32768
  parts := [.seq, .nvm]
  objs _ := among [0x310004]
  post _ s d := d.seq.slotsDue = false ∧ d.nvm.live = storeKeep inSetSlot s.dev.obj ∧ d.nvm.base = d.nvm.live ∧ d.nvm.liveSet = s.dev.swap.doneSet ∧
    d.nvm.liveSlot = 1 - s.dev.nvm.liveSlot ∧ d.nvm.liveSeq = (s.dev.nvm.baseSeq + 1) % 2 ^ 32 ∧ d.nvm.baseSeq = (d.nvm.liveSeq + 1) % 2 ^ 32 ∧
    d.int 0x310004 = ((s.dev.int 0x310004 + 1) % 2 ^ 32 + 1) % 2 ^ 32

/-! ### Faults, spares, housekeeping and throttling -/

/-- What writing a record at once changes: MRAM, the recorder and its queues, and their objects. -/
abbrev recordParts : List Part := [.nvm, .rcd, .hp]

/-- The objects of the recorder that a record written at once changes. -/
abbrev recordObjs : Nat → Bool := among [0x2F0002, 0x2F0006, 0x2F0007, 0x2F000D, 0x2F0202, 0x2F0302]

/-- R425, R426: the first corrected word of a row within 24 h: counted, remembered, and no more. -/
abbrev sramError : Rule (SramRegion × Fin 16 × Nat × Bool × Nat) where
  cmd a c := c = .sramError a.1 a.2.1 a.2.2.1 false a.2.2.2.1 a.2.2.2.2
  pre _ s := Runs s ∧ s.dev.hlt.corrected = []
  parts := [.hlt]
  objs _ := among [0x2E0101]
  post a s d := d.out = [] ∧ d.int 0x2E0101 = (s.dev.int 0x2E0101 + 1) % 2 ^ 32 ∧
    d.hlt.corrected = [((a.2.1.val, a.2.2.1), s.nowAt a.2.2.2.2)] ∧ d.hlt.suspects.length = s.dev.hlt.suspects.length ∧
    (d.hlt.faults[(1 : Fin 20)]).transient = ((s.dev.hlt.faults[(1 : Fin 20)]).transient + 1) % 2 ^ 32

/-- R426: the second correction of a word in a row within 24 h makes the row suspect for the next Phase D. -/
abbrev sramErrorAgain : Rule (SramRegion × Fin 16 × Nat × Bool × Nat) where
  cmd a c := c = .sramError a.1 a.2.1 a.2.2.1 false a.2.2.2.1 a.2.2.2.2
  pre a s := Runs s ∧ s.dev.hlt.corrected = [((a.2.1.val, a.2.2.1), s.dev.time.now)] ∧
    s.nowAt a.2.2.2.2 < s.dev.time.now + 86400000000000
  parts := [.hlt]
  objs _ := among [0x2E0101]
  post a s d := d.hlt.suspects = s.dev.hlt.suspects ++ [(a.1, a.2.1, a.2.2.1, a.2.2.2.1)]

/-- R427: an uncorrectable word of a region that is held twice is served from the other copy; its row is suspect. -/
abbrev sramErrorUncorrectable : Rule (Fin 16 × Nat × Bool × Nat) where
  cmd a c := c = .sramError .duplicated a.1 a.2.1 true a.2.2.1 a.2.2.2
  pre _ s := Runs s
  parts := [.hlt]
  objs _ := among [0x2E0102]
  post a s d := d.out = [] ∧ d.int 0x2E0102 = (s.dev.int 0x2E0102 + 1) % 2 ^ 32 ∧
    d.hlt.suspects = s.dev.hlt.suspects ++ [(.duplicated, a.1, a.2.1, a.2.2.1)] ∧ d.hlt.outOfService = s.dev.hlt.outOfService

/-- R428: a word that fails its third write: its row takes a spare of its block for good. -/
abbrev mramWriteFault : Rule (Fin 64 × Nat × Nat) where
  cmd a c := c = .mramWriteFault a.1 a.2.1 a.2.2
  pre a s := Runs s ∧ 0 < s.dev.nvm.mramSpares[a.1]
  parts := [.hlt, .nvm, .rcd]
  objs _ := among [0x2E0202, 0x2E0203, 0x2E0204, 0x2F0003, 0x2F0004]
  post a s d := d.nvm.mramSpares[a.1] + 1 = s.dev.nvm.mramSpares[a.1] ∧ (∀ b : Fin 64, b ≠ a.1 → d.nvm.mramSpares[b] = s.dev.nvm.mramSpares[b]) ∧
    d.int 0x2E0203 = (s.dev.int 0x2E0203 + 1) % 2 ^ 32 ∧ d.nat 0x2E0204 ≤ d.nvm.mramSpares[a.1] ∧
    (d.hlt.faults[(2 : Fin 20)]).permanent = ((s.dev.hlt.faults[(2 : Fin 20)]).permanent + 1) % 2 ^ 32 ∧ d.nvm.live = s.dev.nvm.live

/-- R428, R461: with no spare left the row is fenced; one of the area of image A makes that image invalid. -/
abbrev mramWriteFaultFenced : Rule (Fin 64 × Nat × Nat) where
  cmd a c := c = .mramWriteFault a.1 a.2.1 a.2.2
  pre a s := Runs s ∧ s.dev.nvm.mramSpares[a.1] = 0 ∧ a.1.val < 8
  parts := [.hlt, .nvm, .rcd]
  objs _ := among [0x2E0202, 0x2E0205, 0x310102, 0x2F0003, 0x2F0004]
  post a s d := d.int 0x2E0205 = (s.dev.int 0x2E0205 + 1) % 2 ^ 32 ∧ d.nat 0x310102 = 5 ∧ d.nvm.fenced[(0 : Fin 2)] = true ∧
    d.nvm.mramSpares = s.dev.nvm.mramSpares ∧ d.nvm.imageB = s.dev.nvm.imageB

/-- The objects that a housekeeping round sets. -/
abbrev roundObjs : Nat → Bool := fun x => (0x2D0101 ≤ x && x ≤ 0x2D010B) || among
  [0x2D0001, 0x2D0002, 0x2D0003, 0x2D0201, 0x2D0202, 0x2D0203, 0x2D0204, 0x2D0205, 0x2D0501, 0x2D0502, 0x2D0606] x

/-- A first round, with plausible readings from −55 °C and no sensor retired. -/
abbrev firstRound (hk : Housekeeping) (s : State) : Prop :=
  Runs s ∧ s.dev.hlt.roundAt = none ∧ s.dev.hlt.sensors = Vector.replicate 11 none ∧ s.dev.nat 0x2D010C = 0 ∧ s.dev.hlt.throttle = 0 ∧
  (∀ k : Fin 11, -550 ≤ hk.sensors[k] ∧ hk.sensors[k] ≤ 2000)

/-- R431, R434: a round below the request levels: each sensor's reading, each die's highest, the rails, and no request. -/
abbrev housekeepingRound : Rule (Housekeeping × Nat) where
  cmd a c := c = .housekeepingRound a.1 a.2
  pre a s := firstRound a.1 s ∧ (∀ k : Fin 11, a.1.sensors[k] < 1000) ∧ 1000 ≤ s.dev.int 0x2D0402 ∧ 1200 ≤ s.dev.int 0x2D0403 ∧
    1350 ≤ s.dev.int 0x2D0406 ∧ a.1.vin < 65536
  parts := [.hlt]
  objs _ := roundObjs
  post a s d := d.out = [] ∧ (∀ k : Fin 11, d.int (0x2D0101 + k.val) = a.1.sensors[k] ∧ d.hlt.sensors[k] = some a.1.sensors[k]) ∧
    (∀ k : Fin 11, k.val < 4 → a.1.sensors[k] ≤ d.int 0x2D0001) ∧ (∀ k : Fin 11, 4 ≤ k.val ∧ k.val < 10 → a.1.sensors[k] ≤ d.int 0x2D0002) ∧
    d.int 0x2D0003 = a.1.sensors[(10 : Fin 11)] ∧ d.int 0x2D0201 = a.1.vin ∧ d.hlt.throttle = 0 ∧ d.hlt.bands = s.dev.hlt.bands ∧
    d.int 0x2D0501 = (s.dev.int 0x2D0501 + 1) % 2 ^ 32

/-- R431: the round runs every 10 ms; before that there is none. -/
abbrev housekeepingRoundEarly : Rule (Housekeeping × Nat × Nat) where
  cmd a c := c = .housekeepingRound a.1 a.2.2
  pre a s := Runs s ∧ s.dev.hlt.roundAt = some a.2.1 ∧ s.nowAt a.2.2 < a.2.1 + 10000000
  parts := []
  objs _ := among []
  post _ _ d := d.out = []

/-- R434: the logic die at its request level raises the request, and the grace time starts. -/
abbrev housekeepingRoundRequest : Rule (Housekeeping × Nat) where
  cmd a c := c = .housekeepingRound a.1 a.2
  pre a s := firstRound a.1 s ∧ a.1.sensors[(1 : Fin 11)] = 1200 ∧ (∀ k : Fin 11, a.1.sensors[k] ≤ 1200) ∧ s.dev.int 0x2D0402 = 1200 ∧
    1350 ≤ s.dev.int 0x2D0406
  parts := .hlt :: eventParts
  objs _ x := roundObjs x || eventObjs x
  post a s d := d.hlt.throttle = 1 ∧ d.hlt.requestedAt = s.nowAt a.2 ∧ d.int 0x2D0001 = 1200 ∧ d.hlt.enforcing = s.dev.hlt.enforcing

/-- R431: a reading more than 20 K from the last accepted one is replaced by that, and counted as an implausible round. -/
abbrev housekeepingRoundImplausible : Rule (Housekeeping × Nat) where
  cmd a c := c = .housekeepingRound a.1 a.2
  pre a s := Runs s ∧ s.dev.roundDueAt (s.nowAt a.2) = true ∧ s.dev.hlt.sensors = Vector.replicate 11 (some 250) ∧ s.dev.hlt.implausible = Vector.replicate 11 0 ∧
    s.dev.nat 0x2D010C = 0 ∧ s.dev.hlt.throttle = 0 ∧ a.1.sensors = (Vector.replicate 11 250).set 0 451 ∧
    1000 ≤ s.dev.int 0x2D0402 ∧ 1200 ≤ s.dev.int 0x2D0403 ∧ 1350 ≤ s.dev.int 0x2D0406
  parts := [.hlt]
  objs _ := roundObjs
  post a s d := d.out = [] ∧ d.int 0x2D0101 = 250 ∧ d.hlt.implausible = (Vector.replicate 11 0).set 0 1 ∧ d.int 0x2D0001 = 250 ∧
    (d.hlt.faults[(19 : Fin 20)]).transient = ((s.dev.hlt.faults[(19 : Fin 20)]).transient + 1) % 2 ^ 32

/-- R431: the tenth implausible round in a row retires the sensor; its substitute, the highest other working L sensor, stands
in for it. -/
abbrev housekeepingRoundRetires : Rule (Housekeeping × Nat) where
  cmd a c := c = .housekeepingRound a.1 a.2
  pre a s := Runs s ∧ s.dev.roundDueAt (s.nowAt a.2) = true ∧ s.dev.hlt.sensors = (Vector.replicate 11 (some 250)).set 0 (some 300) ∧
    s.dev.hlt.implausible = (Vector.replicate 11 0).set 0 9 ∧ s.dev.nat 0x2D010C = 0 ∧ s.dev.hlt.throttle = 0 ∧
    a.1.sensors = (Vector.replicate 11 250).set 0 2001 ∧ 1000 ≤ s.dev.int 0x2D0402 ∧ 1200 ≤ s.dev.int 0x2D0403 ∧ 1350 ≤ s.dev.int 0x2D0406
  parts := [.hlt, .rcd]
  objs _ x := roundObjs x || among [0x2D010C, 0x2F0003, 0x2F0004] x
  post _ s d := d.nat 0x2D010C = 1 ∧ d.int 0x2D0101 = 250 ∧ d.int 0x2D0001 = 250 ∧
    (d.hlt.faults[(19 : Fin 20)]).permanent = ((s.dev.hlt.faults[(19 : Fin 20)]).permanent + 1) % 2 ^ 32

/-- R436: the logic die at 135 °C: the shutdown is recorded at once, and core 1 stops refreshing its permission. -/
abbrev housekeepingRoundShutdown : Rule (Housekeeping × Nat) where
  cmd a c := c = .housekeepingRound a.1 a.2
  pre a s := firstRound a.1 s ∧ a.1.sensors[(1 : Fin 11)] = 1350 ∧ (∀ k : Fin 11, a.1.sensors[k] ≤ 1350) ∧ s.dev.int 0x2D0406 = 1350
  parts := .hlt :: .power :: recordParts
  objs _ x := roundObjs x || recordObjs x
  post a s d := d.hlt.throttle = 3 ∧ d.power.shutdownBegun = true ∧ d.power.stoppedAt = some (s.nowAt a.2) ∧
    d.nvm.shutdownRecorded = true ∧ d.power.run = .running

/-- Table 18.7: the grace time ends with a die at or above its request level less 5 K: enforced from the next boundary. -/
abbrev throttleGraceEnd : Rule Nat where
  cmd t c := c = .throttleGraceEnd t
  pre t s := Runs s ∧ s.dev.hlt.throttle = 1 ∧ s.dev.hlt.requestedAt + 5000000000 ≤ s.nowAt t ∧ s.dev.int 0x2D0402 - 50 ≤ s.dev.int 0x2D0001
  parts := .hlt :: eventParts
  objs _ x := x = 0x2D0409 || eventObjs x
  post _ s d := d.hlt.throttle = 2 ∧ d.hlt.enforceNext = true ∧ d.hlt.enforcing = s.dev.hlt.enforcing ∧
    d.int 0x2D0409 = (s.dev.int 0x2D0409 + 1) % 2 ^ 32

/-- Table 18.7: with both dies cooler than that the request is withdrawn. -/
abbrev throttleGraceWithdraw : Rule Nat where
  cmd t c := c = .throttleGraceEnd t
  pre t s := Runs s ∧ s.dev.hlt.throttle = 1 ∧ s.dev.hlt.requestedAt + 5000000000 ≤ s.nowAt t ∧
    s.dev.int 0x2D0001 < s.dev.int 0x2D0402 - 50 ∧ s.dev.int 0x2D0002 < s.dev.int 0x2D0403 - 50
  parts := .hlt :: eventParts
  objs _ := eventObjs
  post _ s d := d.hlt.throttle = 0 ∧ d.hlt.enforceNext = s.dev.hlt.enforceNext

/-- Table 18.7: both dies below release for 30 s: enforcement ends at the next boundary. -/
abbrev throttleRelease : Rule (Nat × Nat) where
  cmd a c := c = .throttleRelease a.2
  pre a s := Runs s ∧ s.dev.hlt.throttle = 2 ∧ s.dev.hlt.belowSince = some a.1 ∧ a.1 + 30000000000 ≤ s.nowAt a.2
  parts := .hlt :: eventParts
  objs _ := eventObjs
  post _ s d := d.hlt.throttle = 0 ∧ d.hlt.enforceNext = false ∧ d.hlt.enforcing = s.dev.hlt.enforcing

/-- Table 18.7: before 30 s nothing ends. -/
abbrev throttleReleaseEarly : Rule (Nat × Nat) where
  cmd a c := c = .throttleRelease a.2
  pre a s := Runs s ∧ s.dev.hlt.belowSince = some a.1 ∧ s.nowAt a.2 < a.1 + 30000000000
  parts := []
  objs _ := among []
  post _ _ d := d.out = []

/-- R436: the power die at 170 °C switches every output off, limp-home outputs too, stops the boost and latches; the logic
die records it. -/
abbrev powerThermalShutdown : Rule Nat where
  cmd t c := c = .powerThermalShutdown t
  pre _ s := Runs s ∧ s.dev.pd.powered = true ∧ s.dev.pd.latched = false
  parts := [.pd, .valve, .lsw, .pwm, .nvm, .rcd, .hp, .hlt]
  objs _ := recordObjs
  post _ _ d := d.pd.latched = true ∧ d.hlt.throttle = 3 ∧ d.outputsSafe = true ∧ (∀ n : Fin 8, (swch d n).on = false)

/-- R436: NRST does not end a thermal shutdown. -/
abbrev shutdownHoldsNrst : Rule (Nat × Nat) where
  cmd a c := c = .nrstAssert a.1 a.2
  pre _ s := s.dev.power.run = .shutdown
  parts := []
  objs _ := among []
  post _ _ d := d.out = []

/-! ### The host port -/

/-- The host port is served: the logic die runs. The accessor's captures are a part of the dictionary service. -/
abbrev portState (d : Dev) : AccessorState := d.accessor .host

/-- Table 15.8: the one thing sent is the device's answer with a status code and a data word. -/
abbrev Answers (d : Dev) (code abort : Nat) (v : Val) : Prop := d.out = [.answer .host (d.statusByte code false) abort v]

/-- R374: a whole transaction is counted. -/
abbrev Counted (s : State) (d : Dev) : Prop := d.int 0x110009 = (s.dev.int 0x110009 + 1) % 2 ^ 32

/-- Table 15.7, 0x01: a read of an object of up to 32 bits answers its word. -/
abbrev hostRead : Rule Nat where
  cmd t c := c = .hostRead true 0x240201 t
  pre _ s := Runs s
  parts := []
  objs _ := among [0x110009]
  post _ s d := Counted s d ∧ Answers d 0 0 (.num (valueWord (s.dev.int 0x240201)))

/-- R389: a low-half read of a 64-bit object answers its low word and captures the whole value. -/
abbrev hostReadWide : Rule Nat where
  cmd t c := c = .hostRead true 0x180102 t
  pre _ s := Runs s ∧ s.dev.dic.accessors = [] ∧ s.dev.nat 0x110002 = 255
  parts := [.dic]
  objs _ := among [0x110009]
  post t s d := Answers d 0 0 (.num (u64 (s.chainAt t) % 2 ^ 32 : Nat)) ∧
    (portState d).wide = some (0x180102, u64 (s.chainAt t), s.nowAt t)

/-- R390: a read of a DOMAIN answers its length and captures the value. -/
abbrev hostReadDomain : Rule Nat where
  cmd t c := c = .hostRead true 0x2B0305 t
  pre _ s := Runs s ∧ s.dev.isLead = true ∧ s.dev.dic.accessors = [] ∧ s.dev.nat 0x110002 = 255
  parts := [.dic]
  objs _ := among [0x110009]
  post t s d := Answers d 0 0 (.num (s.dev.str 0x2B0305).length) ∧
    (portState d).block = some (0x2B0305, s.dev.str 0x2B0305, s.nowAt t, false)

/-- R381, R399: a read of a write-only object is aborted, which is counted and recorded. -/
abbrev hostReadAborted : Rule Nat where
  cmd t c := c = .hostRead true 0x2B0602 t
  pre _ s := Runs s ∧ s.dev.nat 0x110002 = 255
  parts := []
  objs _ := among [0x110009, 0x103004, 0x103005, 0x103006]
  post _ s d := Answers d 6 0x06010001 (.num 0) ∧ d.nat 0x103005 = 0x06010001 ∧ d.nat 0x103006 = 0x2B0602 ∧
    d.int 0x103004 = (s.dev.int 0x103004 + 1) % 2 ^ 32

/-- Table 15.8, code 4: a request with a bad CRC is counted and has no action. -/
abbrev hostReadBadCrc : Rule (Nat × Nat) where
  cmd a c := c = .hostRead false a.1 a.2
  pre _ s := Runs s
  parts := []
  objs _ := among [0x110009, 0x11000A]
  post _ s d := Counted s d ∧ Answers d 4 0 (.num 0) ∧ d.int 0x11000A = (s.dev.int 0x11000A + 1) % 2 ^ 32

/-- R376, R331: a read of another present device answers retry and goes out as a management-class request. -/
abbrev hostReadRemote : Rule (Fin 32 × Nat) where
  cmd a c := c = .hostRead true 0x240201 a.2
  pre a s := Runs s ∧ s.dev.isLead = true ∧ s.dev.nat 0x110002 = a.1 ∧ a.1.val ≠ s.dev.position ∧ s.dev.seq.map.testBit a.1 = true ∧
    s.dev.dic.remotes = [] ∧ s.dev.hp.results = [] ∧ s.dev.hp.awaited = []
  parts := [.dic, .link, .hp]
  objs _ := among [0x110009]
  post a s d := .answer .host (d.statusByte 2 false) 0 (.num 0) ∈ d.out ∧
    Leaves d (.request a.1 ⟨s.dev.dic.nextTag, 1, 0, 0x240201, 0, .num 0⟩) ∧ d.dic.remotes.length = 1 ∧
    d.hp.awaited = [resultKey 1 a.1 0x240201]

/-- R376: the kept result of a read of another device, at most 30 ms old, is served. -/
abbrev hostReadKept : Rule (Fin 32 × Nat × Nat × Nat) where
  cmd a c := c = .hostRead true 0x240201 a.2.2.2
  pre a s := Runs s ∧ s.dev.isLead = true ∧ s.dev.nat 0x110002 = a.1 ∧ a.1.val ≠ s.dev.position ∧ s.dev.seq.map.testBit a.1 = true ∧
    s.dev.hp.results = [(resultKey 1 a.1 0x240201, ReadResult.value (.num a.2.1) false, a.2.2.1)] ∧
    s.nowAt a.2.2.2 < a.2.2.1 + 30000000
  parts := []
  objs _ := among [0x110009]
  post a _ d := Answers d 0 0 (.num (a.2.1 % 2 ^ 32 : Nat))

/-- R389: the high half of the object that the slot is tagged with, within 10 ms: the captured one, not torn. -/
abbrev hostReadHigh : Rule (Nat × Nat × Nat) where
  cmd a c := c = .hostReadHigh true 0x180102 a.2.2
  pre a s := Runs s ∧ s.dev.nat 0x110002 = 255 ∧ s.dev.dic.accessors = [{ acc := .host, wide := some (0x180102, a.1, a.2.1) }] ∧
    s.nowAt a.2.2 < a.2.1 + 10000000
  parts := []
  objs _ := among [0x110009]
  post a _ d := Answers d 0 0 (.num (a.1 / 2 ^ 32 % 2 ^ 32 : Nat))

/-- R389: without a valid capture the live high half, with the torn flag. -/
abbrev hostReadHighTorn : Rule Nat where
  cmd t c := c = .hostReadHigh true 0x180102 t
  pre _ s := Runs s ∧ s.dev.nat 0x110002 = 255 ∧ s.dev.dic.accessors = []
  parts := []
  objs _ := among [0x110009, 0x103001]
  post t s d := d.out = [.answer .host (d.statusByte 0 true) 0 (.num (u64 (s.chainAt t) / 2 ^ 32 : Nat))] ∧
    d.int 0x103001 = (s.dev.int 0x103001 + 1) % 2 ^ 32

/-- R375, R380: a write of a RW object: pending, under the write sequence, which rises; the object holds the value. -/
abbrev hostWrite : Rule (Nat × Nat) where
  cmd a c := c = .hostWrite true 0x240201 a.1 a.2
  pre a s := HostMay s 0x240201 (.num a.1) ∧ s.dev.nat 0x110002 = 255 ∧ a.1 < 64 ∧ s.dev.isLead = false
  parts := [.jrn]
  objs _ := among [0x240201, 0x110003, 0x110009]
  post a s d := d.nat 0x240201 = a.1 ∧ HostTook s d 2 (.write 0x240201 (.num a.1))

/-- R380, R399: a data word that is no extension of the value is out of range: aborted, the sequence rises. -/
abbrev hostWriteRange : Rule (Nat × Nat) where
  cmd a c := c = .hostWrite true 0x240201 a.1 a.2
  pre a s := Runs s ∧ s.dev.nat 0x110002 = 255 ∧ 256 ≤ a.1
  parts := []
  objs _ := among [0x110009, 0x110003, 0x103004, 0x103005, 0x103006]
  post _ s d := Answers d 6 0x06090030 (.num 0) ∧ d.nat 0x110003 = (s.dev.nat 0x110003 + 1) % 2 ^ 32 ∧
    d.nat 0x103005 = 0x06090030

/-- R375, R411: sixteen writes pending: busy, counted, and the sequence stays. -/
abbrev hostWriteBusy : Rule (Nat × Nat) where
  cmd a c := c = .hostWrite true 0x240201 a.1 a.2
  pre a s := Runs s ∧ s.dev.nat 0x110002 = 255 ∧ a.1 < 256 ∧ writeCheck s.dev .host 0x240201 (.num a.1) = none ∧
    seqFresh s.dev (0x11, 0) (s.dev.nat 0x110003) = true ∧ 16 ≤ s.dev.hostPending
  parts := []
  objs _ := among [0x110009, 0x320008, 0x11000B]
  post _ s d := Answers d 3 0 (.num 0) ∧ d.int 0x11000B = (s.dev.int 0x11000B + 1) % 2 ^ 32 ∧
    d.int 0x320008 = (s.dev.int 0x320008 + 1) % 2 ^ 32

/-- R375, R403: a write whose sequence does not lie ahead is a duplicate: no action. -/
abbrev hostWriteDuplicate : Rule (Nat × Nat) where
  cmd a c := c = .hostWrite true 0x240201 a.1 a.2
  pre a s := Runs s ∧ s.dev.nat 0x110002 = 255 ∧ a.1 < 256 ∧ writeCheck s.dev .host 0x240201 (.num a.1) = none ∧
    seqFresh s.dev (0x11, 0) (s.dev.nat 0x110003) = false
  parts := []
  objs _ := among [0x110009, 0x320007, 0x110003]
  post _ s d := Answers d 5 0 (.num 0) ∧ d.int 0x320007 = (s.dev.int 0x320007 + 1) % 2 ^ 32

/-- R375: a port register is written at once and is no accepted work: no journal, no sequence. -/
abbrev hostWritePort : Rule (Nat × Nat) where
  cmd a c := c = .hostWrite true 0x110007 a.1 a.2
  pre a s := Runs s ∧ a.1 < 65536
  parts := []
  objs _ := among [0x110009, 0x110007]
  post a _ d := Answers d 0 0 (.num 0) ∧ d.nat 0x110007 = a.1

/-- R391: a 64-bit write with no staged high half ends with the type abort. -/
abbrev hostWriteUnstaged : Rule (Nat × Nat) where
  cmd a c := c = .hostWrite true 0x2C200C a.1 a.2
  pre _ s := Runs s ∧ s.dev.nat 0x110002 = 255 ∧ s.dev.dic.accessors = []
  parts := []
  objs _ := among [0x110009, 0x110003, 0x103004, 0x103005, 0x103006]
  post _ _ d := Answers d 6 0x06070010 (.num 0)

/-- R391: the high half staged within 10 ms completes the write: the whole value goes into the proof set. -/
abbrev hostWriteWide : Rule (Nat × Nat × Nat × Nat) where
  cmd a c := c = .hostWrite true 0x2C200C a.1 a.2.2.2
  pre a s := HostMay s 0x2C200C (.num (a.2.1 * 2 ^ 32 + a.1 : Nat)) ∧ s.dev.nat 0x110002 = 255 ∧ a.1 < 2 ^ 32 ∧ a.2.1 < 2 ^ 32 ∧
    s.dev.dic.accessors = [{ acc := .host, staged := some (0x2C200C, a.2.1, a.2.2.1) }] ∧ s.nowAt a.2.2.2 < a.2.2.1 + 10000000 ∧
    s.dev.swap.ready = false ∧ s.dev.isLead = true
  parts := [.dic, .jrn, .swap]
  objs _ := among [0x110003, 0x110009, 0x181005]
  post a s d := d.swap.writes = s.dev.swap.writes ++ [(0x2C200C, .num (a.2.1 * 2 ^ 32 + a.1 : Nat))] ∧ (portState d).staged = none ∧
    HostTook s d 1 (.write 0x2C200C (.num (a.2.1 * 2 ^ 32 + a.1 : Nat)))

/-- R391: command 0x0A stages the high half for its object. -/
abbrev hostWriteHigh : Rule (Nat × Nat) where
  cmd a c := c = .hostWriteHigh true 0x2C200C a.1 a.2
  pre _ s := Runs s ∧ s.dev.nat 0x110002 = 255 ∧ s.dev.dic.accessors = []
  parts := [.dic]
  objs _ := among [0x110009]
  post a s d := Answers d 0 0 (.num 0) ∧ d.dic.accessors = [{ acc := .host, staged := some (0x2C200C, a.1 % 2 ^ 32, s.nowAt a.2) }]

/-- R374, R390: a block read of the captured DOMAIN: its words from the offset on, 0 beyond its end. -/
abbrev hostBlockRead : Rule (List Byte × Nat × Nat × Nat) where
  cmd a c := c = .hostBlockRead true 0x2B0305 a.2.1 16 a.2.2.2
  pre a s := Runs s ∧ s.dev.nat 0x110002 = 255 ∧ s.dev.nat 0x11000C = 16 ∧
    s.dev.dic.accessors = [{ acc := .host, block := some (0x2B0305, a.1, a.2.2.1, false) }] ∧ s.nowAt a.2.2.2 < a.2.2.1 + 1000000000
  parts := []
  objs _ := among [0x110009]
  post a s d := Counted s d ∧ Answers d 0 0 (.bytes (wordsAt a.1 a.2.1 16))

/-- R390: without a valid capture the bytes are live and torn. -/
abbrev hostBlockReadTorn : Rule (Nat × Nat) where
  cmd a c := c = .hostBlockRead true 0x2B0305 a.1 16 a.2
  pre _ s := Runs s ∧ s.dev.nat 0x110002 = 255 ∧ s.dev.nat 0x11000C = 16 ∧ s.dev.dic.accessors = [] ∧ s.dev.isLead = true
  parts := []
  objs _ := among [0x110009, 0x103001]
  post a s d := d.out = [.answer .host (d.statusByte 0 true) 0 (.bytes (wordsAt (s.dev.str 0x2B0305) a.1 16))]

/-- R374: words staged into the staging buffer at an offset. -/
abbrev hostStage : Rule (List Byte × Nat) where
  cmd a c := c = .hostStage true 8 a.1 a.2
  pre a s := Runs s ∧ s.dev.nat 0x11000C = 1 ∧ a.1.length = 4 ∧ s.dev.hp.staging = []
  parts := [.hp]
  objs _ := among [0x110009]
  post a _ d := Answers d 0 0 (.num 0) ∧ cellsRead d.hp.staging 8 4 = a.1 ∧ cellsRead d.hp.staging 0 8 = List.replicate 8 0

/-- R374: a stage beyond the 128 KiB buffer aborts. -/
abbrev hostStageBeyond : Rule (List Byte × Nat) where
  cmd a c := c = .hostStage true 131072 a.1 a.2
  pre a s := Runs s ∧ s.dev.nat 0x11000C = 1 ∧ a.1.length = 4
  parts := []
  objs _ := among [0x110009, 0x103004, 0x103005, 0x103006]
  post _ _ d := Answers d 6 0x06090030 (.num 0)

/-- R375: a commit writes the staged bytes as one write of a DOMAIN. -/
abbrev hostCommitStaged : Rule Nat where
  cmd t c := c = .hostCommitStaged true 0x2C4806 4 t
  pre _ s := HostMay s 0x2C4806 (.bytes (cellsRead s.dev.hp.staging 0 4)) ∧ s.dev.nat 0x110002 = 255 ∧ s.dev.swap.ready = false ∧
    s.dev.isLead = true
  parts := [.jrn, .swap]
  objs _ := among [0x110003, 0x110009, 0x181005]
  post _ s d := d.swap.writes = s.dev.swap.writes ++ [(0x2C4806, .bytes (cellsRead s.dev.hp.staging 0 4))] ∧
    HostTook s d 1 (.write 0x2C4806 (.bytes (cellsRead s.dev.hp.staging 0 4)))

/-- R375, Table 16.8: a commit longer than the staging buffer ends with the length abort. -/
abbrev hostCommitStagedLong : Rule (Nat × Nat) where
  cmd a c := c = .hostCommitStaged true 0x2C4806 a.1 a.2
  pre a s := Runs s ∧ 131072 < a.1
  parts := []
  objs _ := among [0x110009, 0x110003, 0x103004, 0x103005, 0x103006]
  post _ _ d := Answers d 6 0x06070012 (.num 0)

/-- R374, Table 15.11: port status answers the NIRQ cause, and the events recorded before it are read. -/
abbrev hostPortStatus : Rule Nat where
  cmd t c := c = .hostPortStatus true t
  pre _ s := Runs s
  parts := [.hp]
  objs _ := among [0x110009]
  post _ s d := d.out = [.answer .host (s.dev.statusByte 0 false) 0 (.num s.dev.nirqCause)] ∧
    d.hp = { s.dev.hp with recorded := false } ∧ d.nirqCause.testBit 5 = false

/-- Table 15.8, code 7: an unknown command. -/
abbrev hostUnknownCommand : Rule Nat where
  cmd t c := c = .hostUnknownCommand true t
  pre _ s := Runs s
  parts := []
  objs _ := among [0x110009]
  post _ s d := Counted s d ∧ Answers d 7 0 (.num 0)

/-- R374: a transaction cut short is discarded with no effect. -/
abbrev hostTransactionAborted : Rule Nat where
  cmd t c := c = .hostTransactionAborted t
  pre _ _ := True
  parts := []
  objs _ := among []
  post _ _ d := d.out = []

/-- R391: a staged half not completed in 10 ms is discarded. -/
abbrev stagedHalfExpiry : Rule (Nat × Nat × Nat × Nat) where
  cmd a c := c = .stagedHalfExpiry .host a.2.2.2
  pre a s := Runs s ∧ s.dev.dic.accessors = [{ acc := .host, staged := some (a.1, a.2.1, a.2.2.1) }] ∧ a.2.2.1 + 10000000 ≤ s.nowAt a.2.2.2
  parts := [.dic]
  objs _ := among []
  post _ s d := d.out = [] ∧ d.dic = { s.dev.dic with accessors := [{ acc := .host }] }

/-- R381, R387: a register write of a wheeler from an internal function: the RW object holds the value, and the write is
journalled under that source's own sequence. -/
abbrev registerWrite : Rule (Nat × Nat) where
  cmd a c := c = .registerWrite (.internal 0) 0x240201 (.num a.1) a.2
  pre a s := Runs s ∧ writeCheck s.dev (.internal 0) 0x240201 (.num a.1) = none ∧ lastSeq (0x13, 0) s.dev.jrn.seqs = none ∧
    s.dev.intakeBusy = false
  parts := [.jrn]
  objs _ := among [0x240201]
  post a s d := d.out = [] ∧ d.nat 0x240201 = a.1 ∧
    d.jrn.openHalf = s.dev.jrn.openHalf ++ [s.dev.entry 2 0x13 1 0 false (.write 0x240201 (.num a.1))]

/-- R381: a write of a read-only object, or of a constant, is aborted. -/
abbrev registerWriteReadOnly : Rule (Nat × Nat) where
  cmd a c := c = .registerWrite .host a.1 (.num 0) a.2
  pre a s := Runs s ∧ (a.1 = 0x2C2007 ∨ a.1 = 0x101801)
  parts := []
  objs _ := among [0x110003, 0x103004, 0x103005, 0x103006]
  post a _ d := Answers d 6 0x06010002 (.num 0) ∧ d.nat 0x103006 = a.1

/-- R379: a write to an index that no chapter defines is aborted as a missing object. -/
abbrev registerWriteMissing : Rule Nat where
  cmd t c := c = .registerWrite .host 0x500001 (.num 0) t
  pre _ s := Runs s
  parts := []
  objs _ := among [0x110003, 0x103004, 0x103005, 0x103006]
  post _ _ d := Answers d 6 0x06020000 (.num 0) ∧ d.nat 0x103006 = 0x500001

/-- R386, R399: a port register on another path is aborted with the access error, recorded with that path. -/
abbrev registerWritePort : Rule Nat where
  cmd t c := c = .registerWrite .sdo 0x110007 (.num 0) t
  pre _ s := Runs s
  parts := []
  objs _ := among [0x2C3006, 0x103004, 0x103005, 0x103006, 0x2C0213]
  post _ _ d := d.out = [.answer .sdo 6 0x06010000 (.num 0)] ∧ d.nat 0x103006 = 2 * 2 ^ 24 + 0x110007

/-- R374, R375: a read of the completion queue latches the record at its head and moves the queue on. -/
abbrev queueRead : Rule ((Nat × Nat) × List (Nat × Nat) × Nat) where
  cmd a c := c = .queueRead .host 0x110005 a.2.2
  pre a s := Runs s ∧ s.dev.hp.completions = a.1 :: a.2.1 ∧ s.dev.dic.accessors = []
  parts := [.hp, .dic]
  objs _ := among []
  post a s d := d.out = [.answer .host 0 0 (.bytes (leBytes 4 a.1.1 ++ leBytes 4 a.1.2))] ∧ d.hp = { s.dev.hp with completions := a.2.1 } ∧
    (portState d).block = some (0x110005, leBytes 4 a.1.1 ++ leBytes 4 a.1.2, s.nowAt a.2.2, true)

/-- R374: a record that must be acknowledged stays queued when it is read: here an as-applied record. -/
abbrev queueReadStays : Rule (AsApplied × Nat × Nat) where
  cmd a c := c = .queueRead .host 0x220206 a.2.2
  pre a s := Runs s ∧ s.dev.isLead = true ∧ s.dev.que.applied = [⟨a.1, false, a.2.1⟩] ∧ s.dev.dic.accessors = [] ∧
    (appliedEncode a.1).length ≤ 131072
  parts := [.que, .dic]
  objs _ := among []
  post a s d := d.out = [.answer .host 0 0 (.bytes (appliedEncode a.1))] ∧
    d.que = { s.dev.que with applied := [⟨a.1, true, s.nowAt a.2.2⟩] }

/-- R453: a record read returns the first record at or after the select of the accessor, and moves that select on. -/
abbrev recordReadRule : Rule (Record × Nat × Nat) where
  cmd a c := c = .recordRead .host a.2.2
  pre a s := Runs s ∧ areaRecords s.dev.nvm 1 = [a.1] ∧ a.1.number = a.2.1 ∧ s.dev.dic.accessors = [{ acc := .host, area := 1, record := a.2.1 }]
  parts := [.dic]
  objs _ := among []
  post a _ d := d.out = [.answer .host 0 0 (.bytes (recordEncode a.1))] ∧
    d.dic.accessors = [{ acc := .host, area := 1, record := (a.2.1 + 1) % 2 ^ 32 }]

/-- R453: a page read returns the 4 KiB page of the accessor's own select. -/
abbrev pageReadRule : Rule (Nat × Nat) where
  cmd a c := c = .pageRead .host a.2
  pre a s := Runs s ∧ s.dev.dic.accessors = [{ acc := .host, page := a.1 }]
  parts := []
  objs _ := among []
  post a s d := d.out = [.answer .host 0 0 (.bytes (pageAt s.dev.nvm a.1))]

/-- R453, Table 16.8: CAN-I carries no page: the length abort. -/
abbrev pageReadCan : Rule (Nat × Nat) where
  cmd a c := c = .pageRead (.canI a.1) a.2
  pre _ s := Runs s
  parts := []
  objs _ := among [0x103004, 0x103005, 0x103006, 0x2C0113]
  post a _ d := d.out = [.answer (.canI a.1) 6 0x06070012 (.num 0)] ∧ d.nat 0x103006 = 2 ^ 24 + 0x2F0105

/-! ### The recorder, the nonvolatile store and security -/

/-- R464: in the field an authenticated write passes: the accessor's tag, at most 10 s old, is the CMAC over this write, no
lockout runs, and nothing else stands in the way. -/
abbrev TaggedMay (s : State) (ty : OType) (a : Nat) (v : Val) : Prop :=
  Runs s ∧ writeCheck s.dev .host a v = none ∧ s.dev.nat 0x310202 = 2 ∧ authPasses s.dev .host ty a v = true ∧
  seqFresh s.dev (0x11, 0) (s.dev.nat 0x110003) = true ∧ s.dev.intakeBusy = false ∧ s.dev.hostPending < 16

/-- R454: an accepted clear of the ring waits for Phase D, under the accessor's path. -/
abbrev clearRing : Rule Unit where
  cmd _ c := c = .clearRing .host 1
  pre _ s := HostMay s 0x2F000A (.num 1)
  parts := [.rcd, .jrn, .dic]
  objs _ := among [0x110003]
  post _ s d := d.rcd = { s.dev.rcd with clearRing := some 0 } ∧ HostTook s d 3 (.write 0x2F000A (.num 1)) ∧ d.nvm = s.dev.nvm

/-- R383, R464: an authenticated write without a tag is aborted with the authentication abort and counted. -/
abbrev clearRingUntagged : Rule Unit where
  cmd _ c := c = .clearRing .host 1
  pre _ s := Runs s ∧ s.dev.nat 0x310202 = 2 ∧ s.dev.dic.accessors = [] ∧ s.dev.lock.failures = []
  parts := [.lock, .dic]
  objs _ := among [0x110003, 0x310303, 0x103004, 0x103005, 0x103006]
  post _ s d := Answers d 6 0x0F000002 (.num 0) ∧ d.lock.failures = [s.dev.time.now] ∧ d.lock.until_ = s.dev.lock.until_ ∧
    d.int 0x310303 = (s.dev.int 0x310303 + 1) % 2 ^ 32

/-- R465: the 32nd failure within 1 h begins the lockout of 10 min, and is recorded. -/
abbrev clearRingLockout : Rule Unit where
  cmd _ c := c = .clearRing .host 1
  pre _ s := Runs s ∧ s.dev.nat 0x310202 = 2 ∧ s.dev.dic.accessors = [] ∧ s.dev.lock.failures = List.replicate 31 s.dev.time.now ∧
    s.dev.lock.until_ = none
  parts := [.lock, .dic, .rcd]
  objs _ := among [0x110003, 0x310303, 0x103004, 0x103005, 0x103006, 0x2F0003, 0x2F0004]
  post _ s d := Answers d 6 0x0F000002 (.num 0) ∧ d.lock.until_ = some (s.dev.time.now + 600000000000)

/-- R463: a chunk of 8 bytes at the start of the empty inactive image: its bytes, its length loaded and its state. -/
abbrev imageChunk : Rule (List Byte) where
  cmd b c := c = .imageChunk .host 0 b
  pre b s := HostMay s 0x310106 (.bytes (leBytes 4 0 ++ b)) ∧ b.length = 8 ∧ s.dev.nat 0x310101 = 0 ∧ s.dev.nvm.imageB = {}
  parts := [.nvm, .jrn]
  objs _ := among [0x310103, 0x310105, 0x310107, 0x110003]
  post b s d := cellsRead d.nvm.imageB.bytes 0 8 = b ∧ d.nvm.imageB.loaded = 8 ∧ d.nvm.imageA = s.dev.nvm.imageA ∧ d.nat 0x310107 = 8 ∧
    d.nat 0x310103 = 1 ∧ HostTook s d 3 .none

/-- R463: a chunk that runs past the image's area is out of range. -/
abbrev imageChunkBeyond : Rule (List Byte) where
  cmd b c := c = .imageChunk .host 1048576 b
  pre b s := HostMay s 0x310106 (.bytes (leBytes 4 1048576 ++ b)) ∧ b.length = 8
  parts := []
  objs _ := among [0x110003, 0x103004, 0x103005, 0x103006]
  post _ _ d := Answers d 6 0x06090030 (.num 0)

/-- R463: the inactive image is erased. -/
abbrev imageErase : Rule Unit where
  cmd _ c := c = .imageErase .host 1
  pre _ s := HostMay s 0x310108 (.num 1) ∧ s.dev.nat 0x310101 = 0
  parts := [.nvm, .jrn, .dic]
  objs _ := among [0x310103, 0x310105, 0x310107, 0x110003]
  post _ s d := d.nvm.imageB = {} ∧ d.nvm.imageA = s.dev.nvm.imageA ∧ d.nat 0x310103 = 0 ∧ d.nat 0x310107 = 0

/-- R463: the valid inactive image becomes the trial of the next start-up. -/
abbrev imageActivate : Rule Unit where
  cmd _ c := c = .imageActivate .host 1
  pre _ s := HostMay s 0x310109 (.num 1) ∧ s.dev.nat 0x310101 = 0 ∧ s.dev.nat 0x310103 = 2
  parts := [.nvm, .jrn, .dic]
  objs _ := among [0x310103, 0x310105, 0x110003]
  post _ s d := d.nvm.bootChoice = 1 ∧ d.nat 0x310103 = 3 ∧ d.nvm.imageB = s.dev.nvm.imageB ∧ d.nat 0x310101 = s.dev.nat 0x310101

/-- R463: an image that is not valid cannot be activated: the state error. -/
abbrev imageActivateInvalid : Rule Unit where
  cmd _ c := c = .imageActivate .host 1
  pre _ s := HostMay s 0x310109 (.num 1) ∧ s.dev.nat 0x310101 = 0 ∧ s.dev.nat 0x310103 = 1
  parts := [.dic]
  objs _ := among [0x110003, 0x103004, 0x103005, 0x103006]
  post _ _ d := Answers d 6 0x08000022 (.num 0)

/-- R463: a trial image 60 s after its first armed batch is confirmed, and the rollback counter rises to its security
version. -/
abbrev trialConfirmation : Rule Nat where
  cmd t c := c = .trialConfirmation t
  pre t s := Runs s ∧ s.dev.nat 0x310101 = 1 ∧ s.dev.nat 0x310103 = 3 ∧ s.dev.power.armedOnce = true ∧
    s.dev.power.armedAt + 60000000000 ≤ s.nowAt t ∧ s.dev.nvm.imageB.loaded ≠ 0
  parts := []
  objs _ := among [0x310103, 0x31010A, 0x310004]
  post _ s d := d.out = [] ∧ d.nat 0x310103 = 4 ∧
    storeGet d.obj 0x31010A = .num (max (s.dev.nat 0x31010A) (leNat (cellsRead s.dev.nvm.imageB.bytes 8 4)) : Nat)

/-- R463: not before. -/
abbrev trialConfirmationEarly : Rule Nat where
  cmd t c := c = .trialConfirmation t
  pre t s := Runs s ∧ (s.dev.power.armedOnce = false ∨ s.nowAt t < s.dev.power.armedAt + 60000000000)
  parts := []
  objs _ := among []
  post _ _ d := d.out = []

/-- R464: a tag is kept for its accessor's next authenticated write. -/
abbrev authenticationTag : Rule (List Byte) where
  cmd b c := c = .authenticationTag .host b 0
  pre b s := HostMay s 0x310301 (.bytes b) ∧ s.dev.time.now = 0 ∧ s.dev.dic.accessors = []
  parts := [.dic, .jrn]
  objs _ := among [0x110003]
  post b _ d := d.dic.accessors = [{ acc := .host, tag := some (b, 0) }]

/-- R465: the lockout ends after 10 min. -/
abbrev authenticationLockoutEnd : Rule (Nat × Nat) where
  cmd a c := c = .authenticationLockoutEnd a.2
  pre a s := Runs s ∧ s.dev.lock.until_ = some a.1 ∧ a.1 ≤ s.nowAt a.2
  parts := [.lock]
  objs _ := among []
  post _ _ d := d.out = [] ∧ d.lock.until_ = none

/-- Table 20.5: the calibration key written in provisioning: kept, and the field state entered. -/
abbrev calibrationKeyWrite : Rule (List Byte) where
  cmd b c := c = .calibrationKeyWrite .host b
  pre b s := HostMay s 0x310201 (.bytes b)
  parts := [.nvm, .jrn, .dic, .rcd]
  objs _ := among [0x310202, 0x310203, 0x310004, 0x110003, 0x2F0003]
  post b s d := d.nvm.calKey = some b ∧ d.nat 0x310202 = 2 ∧ d.bit 0x310203 0 = true ∧ d.nvm.signingKey = s.dev.nvm.signingKey

/-- R467: the key is accepted through the device's own host port or its own CAN-P, and on no other path. -/
abbrev calibrationKeyForbidden : Rule (List Byte × Nat) where
  cmd a c := c = .calibrationKeyWrite (.mgmt a.2) a.1
  pre _ s := Runs s
  parts := [.link]
  objs _ := among [0x103004, 0x103005, 0x103006]
  post _ _ d := d.nat 0x103005 = 0x06010000

/-- Table 20.5: the debug port is unlocked in the field, with a tag: enabled at the next start-up; the counter rises and the
tag is consumed. -/
abbrev debugUnlock : Rule Unit where
  cmd _ c := c = .debugUnlock .host 1
  pre _ s := TaggedMay s .bool 0x310206 (.num 1)
  parts := [.nvm, .jrn, .dic, .rcd]
  objs _ := among [0x310202, 0x310302, 0x110003, 0x2F0003]
  post _ s d := d.nat 0x310202 = 3 ∧ d.nvm.debugNext = true ∧ d.int 0x310302 = (s.dev.int 0x310302 + 1) % 2 ^ 32 ∧
    (d.accessor .host).tag = none

/-- Table 20.5: a debug unlock in provisioning is a state error. -/
abbrev debugUnlockProvisioning : Rule Unit where
  cmd _ c := c = .debugUnlock .host 1
  pre _ s := HostMay s 0x310206 (.num 1)
  parts := [.dic]
  objs _ := among [0x110003, 0x103004, 0x103005, 0x103006]
  post _ _ d := Answers d 6 0x08000022 (.num 0)

/-- Table 20.5: decommissioning erases both keys, and the device never arms again. -/
abbrev decommission : Rule Unit where
  cmd _ c := c = .decommission .host 1
  pre _ s := TaggedMay s .bool 0x310207 (.num 1)
  parts := [.nvm, .jrn, .dic, .rcd]
  objs _ := among [0x310202, 0x310203, 0x310302, 0x110003, 0x2F0003]
  post _ _ d := d.nat 0x310202 = 4 ∧ d.nat 0x310203 = 0 ∧ d.nvm.calKey = none ∧ d.nvm.signingKey = false ∧ d.nvm.decommissioned = true

/-- R445: the operating time is committed. -/
abbrev operatingTimeCommit : Rule Nat where
  cmd t c := c = .operatingTimeCommit t
  pre t s := Runs s ∧ (s.dev.at t).opTimeDue = true
  parts := [.nvm]
  objs _ := among [0x310004]
  post t s d := d.out = [] ∧ d.nvm = { s.dev.nvm with opTime := (s.dev.at t).opTime } ∧
    d.int 0x310004 = (s.dev.int 0x310004 + 1) % 2 ^ 32

/-- R445: not before 60 s of operating time have passed since the last commit. -/
abbrev operatingTimeCommitEarly : Rule Nat where
  cmd t c := c = .operatingTimeCommit t
  pre t s := Runs s ∧ (s.dev.at t).opTimeDue = false
  parts := []
  objs _ := among []
  post _ _ d := d.out = []

/-! ### Resets, boot and power modes -/

/-- What a reset of the logic die may change: everything but the pins, the valve and switch drives and the RTC. -/
abbrev resetParts : List Part := [.power, .teth, .pd, .pwm, .axes, .rowDrives, .inp, .pose, .dec, .eng, .tiles, .tgt, .link, .ch,
  .swp, .gnss, .time, .seq, .swap, .snap, .taken, .dic, .jrn, .rcd, .hlt, .lock, .diag, .can, .hp, .que, .nvm]

/-- R479: the logic die has lost its objects and all that lay in its SRAM, so every part of it stands as at reset; the power
die has not been reset, and the pins, the RTC and the MRAM are as the rule says. -/
abbrev LogicLost (s : State) (d : Dev) : Prop :=
  d = {
    pins := d.pins
    power := d.power
    pd := { s.dev.pd with settings := false, absent := false }
    valve := d.valve
    lsw := d.lsw
    pwm := { s.dev.pwm with frozen := false }
    inp := { din := s.dev.inp.din }
    eng := { retest := s.dev.eng.retest }
    time := { now := d.time.now }
    rtc := d.rtc
    nvm := d.nvm
    draws := d.draws }

/-- A reset of the logic die into a run state, with its cause. -/
abbrev ResetTo (run : RunState) (cause : Nat) (s : State) (d : Dev) : Prop :=
  d.power = { run := run, cause := cause, firstFrame := s.dev.power.firstFrame, porArmed := s.dev.power.porArmed, releasedAt := d.time.now }

/-- R29, R436, R437, R445: the power-on reset releases: cause 1, one power cycle more, the thermal latch may be cleared by
the next frame, and a device held unarmed is freed. -/
abbrev powerOnReset : Rule (Bool × Nat) where
  cmd a c := c = .powerOnReset a.1 a.2
  pre _ s := s.dev.power.porArmed = true ∧ valInt ((storeFind s.dev.keptNow 0x310202).getD (.num 1)) ≠ 3
  parts := .pins :: resetParts
  objs _ _ := true
  post a s d := LogicLost s d ∧ d.power = { run := .hold, cause := 1, firstFrame := true, porArmed := false, releasedAt := d.time.now } ∧
    d.pins = { s.dev.pins with role := a.1 } ∧
    d.nvm = { s.dev.nvm with
      heldUnarmed := false
      kept := storePut s.dev.keptNow 0x2F0009 (.num ((valInt ((storeFind s.dev.keptNow 0x2F0009).getD (objDefault 0x2F0009)) + 1) % 2 ^ 32)) }

/-- R466: a power-on reset ends the debug state: back to the field, with its record. -/
abbrev powerOnResetDebug : Rule (Bool × Nat) where
  cmd a c := c = .powerOnReset a.1 a.2
  pre _ s := s.dev.power.porArmed = true ∧ s.dev.power.run = .hold ∧ storeFind s.dev.nvm.kept 0x310202 = some (.num 3) ∧ s.dev.nvm.lastRecord = 0
  parts := .pins :: resetParts
  objs _ _ := true
  post _ _ d := d.power.run = .hold ∧ d.power.cause = 1 ∧ storeFind d.nvm.kept 0x310202 = some (.num 2)

/-- R29, R439: above its threshold VIN brings no reset. -/
abbrev powerOnResetReleased : Rule (Bool × Nat) where
  cmd a c := c = .powerOnReset a.1 a.2
  pre _ s := s.dev.power.porArmed = false ∧ Runs s
  parts := []
  objs _ := among []
  post _ _ d := d.out = []

/-- R439: VIN below 0.9 V holds the logic die and re-arms the power-on reset. -/
abbrev powerOnResetRearm : Rule Nat where
  cmd t c := c = .powerOnResetRearm t
  pre _ _ := True
  parts := resetParts
  objs _ _ := true
  post _ s d := LogicLost s d ∧ d.nvm = { s.dev.nvm with kept := s.dev.keptNow } ∧
    d.power = { run := .hold, cause := 1, firstFrame := s.dev.power.firstFrame, porArmed := true, releasedAt := d.time.now }

/-- R479: NRST low for 1 µs or more resets the logic die, with cause 2. -/
abbrev nrstReset : Rule (Nat × Nat) where
  cmd a c := c = .nrstAssert a.1 a.2
  pre a s := Runs s ∧ 1000 ≤ a.1
  parts := resetParts
  objs _ _ := true
  post _ s d := LogicLost s d ∧ ResetTo .hold 2 s d ∧ d.nvm = { s.dev.nvm with kept := s.dev.keptNow }

/-- R479: the filter rejects pulses shorter than 1 µs. -/
abbrev nrstGlitch : Rule (Nat × Nat) where
  cmd a c := c = .nrstAssert a.1 a.2
  pre a _ := a.1 < 1000
  parts := []
  objs _ := among []
  post _ s d := d.power = s.dev.power ∧ d.obj = s.dev.obj

/-- R476: NRST low for 10 µs or more wakes a dormant device; the wake source is kept. -/
abbrev nrstWake : Rule (Nat × Nat) where
  cmd a c := c = .nrstAssert a.1 a.2
  pre a s := s.dev.power.run = .dormant ∧ 10000 ≤ a.1
  parts := resetParts
  objs _ _ := true
  post _ s d := ResetTo .hold 5 s d ∧ d.obj = [(0x2D0609, .num 4)] ∧ d.rtc = s.dev.rtc

/-- R439, R441, R463: loss of lock: the logic die is held, the loss is counted, and a trial image has failed. -/
abbrev clockLockLoss : Rule Nat where
  cmd t c := c = .clockLockLoss t
  pre _ s := Runs s ∧ s.dev.nat s.dev.runningStateAddr ≠ 3
  parts := resetParts
  objs _ _ := true
  post _ s d := LogicLost s d ∧ ResetTo .lockLoss 4 s d ∧
    d.nvm = { s.dev.nvm with
      kept := storePut s.dev.keptNow 0x2E0303 (.num ((valInt ((storeFind s.dev.keptNow 0x2E0303).getD (objDefault 0x2E0303)) + 1) % 2 ^ 32)) }

/-- R463: a trial image that loses lock is marked failed. -/
abbrev clockLockLossTrial : Rule Nat where
  cmd t c := c = .clockLockLoss t
  pre _ s := Runs s ∧ s.dev.nat 0x310101 = 1 ∧ s.dev.nat 0x310103 = 3 ∧ s.dev.obj = [(0x310101, .num 1), (0x310103, .num 3)] ∧ s.dev.nvm.kept = []
  parts := resetParts
  objs _ _ := true
  post _ s d := ResetTo .lockLoss 4 s d ∧ storeFind d.nvm.kept 0x310103 = some (.num 5)

/-- R437: the supervision reset, 4 ms after the last refresh: counted and dated. -/
abbrev supervisionReset : Rule Nat where
  cmd t c := c = .supervisionReset t
  pre t s := Runs s ∧ s.dev.teth.resetPending = true ∧ s.dev.teth.lastRefresh + 4000000 ≤ s.nowAt t ∧
    s.dev.nat s.dev.runningStateAddr ≠ 3 ∧ s.dev.nvm.supervision.length < 2
  parts := resetParts
  objs _ _ := true
  post _ s d := LogicLost s d ∧ ResetTo .hold 3 s d ∧ d.nvm.heldUnarmed = s.dev.nvm.heldUnarmed ∧
    d.nvm.supervision.getLast? = some d.time.now ∧
    d.nvm.kept = storePut s.dev.keptNow 0x2E0302 (.num ((valInt ((storeFind s.dev.keptNow 0x2E0302).getD (objDefault 0x2E0302)) + 1) % 2 ^ 32))

/-- R436: 4 ms after the last refresh of a shutdown the logic die is held in reset, which only the power-on reset ends; the
device records keep what the device had. -/
abbrev shutdownResetHold : Rule Nat where
  cmd t c := c = .shutdownResetHold t
  pre t s := Runs s ∧ s.dev.power.shutdownBegun = true ∧ s.dev.teth.lastRefresh + 4000000 ≤ s.nowAt t
  parts := resetParts
  objs _ _ := true
  post _ s d := LogicLost s d ∧ ResetTo .shutdown 1 s d ∧ d.nvm = { s.dev.nvm with kept := s.dev.keptNow }

/-- R437: the third supervision reset within 1 h: the device boots unarmed from then on. -/
abbrev supervisionThird : Rule (Nat × Nat × Nat) where
  cmd a c := c = .supervisionReset a.1
  pre a s := Runs s ∧ s.dev.teth.resetPending = true ∧ s.dev.teth.lastRefresh + 4000000 ≤ s.nowAt a.1 ∧
    s.dev.nvm.supervision = [a.2.1, a.2.2] ∧ s.nowAt a.1 < a.2.1 + 3600000000000 ∧ s.nowAt a.1 < a.2.2 + 3600000000000
  parts := resetParts
  objs _ _ := true
  post _ s d := ResetTo .hold 3 s d ∧ d.nvm.heldUnarmed = true

/-- R437: before the safe state has come there is no reset. -/
abbrev supervisionEarly : Rule Nat where
  cmd t c := c = .supervisionReset t
  pre t s := Runs s ∧ (s.dev.teth.resetPending = false ∨ s.nowAt t < s.dev.teth.lastRefresh + 4000000)
  parts := []
  objs _ := among []
  post _ s d := d.power = s.dev.power

/-- R479, Table 21.4: a reset from the debug port, where it is unlocked. -/
abbrev debugPortReset : Rule Nat where
  cmd t c := c = .debugPortReset t
  pre _ s := Runs s ∧ s.dev.nat 0x310202 = 3 ∧ s.dev.nvm.debugNext = false
  parts := resetParts
  objs _ _ := true
  post _ s d := LogicLost s d ∧ ResetTo .hold 8 s d

/-- R466: outside the debug state the port does nothing. -/
abbrev debugPortLocked : Rule Nat where
  cmd t c := c = .debugPortReset t
  pre _ s := Runs s ∧ s.dev.nat 0x310202 ≠ 3
  parts := []
  objs _ := among []
  post _ s d := d.power = s.dev.power

/-- R255: a halt of core 1 from the debug port freezes the PWM generator; the power die is left to its own supervision. -/
abbrev debugHaltCore1 : Rule Nat where
  cmd t c := c = .debugHalt true t
  pre _ s := Runs s ∧ s.dev.nat 0x310202 = 3 ∧ s.dev.nvm.debugNext = false
  parts := [.power, .pwm]
  objs _ := among []
  post _ s d := d.out = [] ∧ d.power = { s.dev.power with halted1 := true } ∧ d.pwm = { s.dev.pwm with frozen := true }

/-- R255: the same of core 0. -/
abbrev debugHaltCore0 : Rule Nat where
  cmd t c := c = .debugHalt false t
  pre _ s := Runs s ∧ s.dev.nat 0x310202 = 3 ∧ s.dev.nvm.debugNext = false
  parts := [.power, .pwm]
  objs _ := among []
  post _ s d := d.out = [] ∧ d.power = { s.dev.power with halted0 := true } ∧ d.pwm = { s.dev.pwm with frozen := true }

/-- What a boot found nothing in. -/
abbrev quietBoot : BootReport where
  drayFails := []
  sensorFails := []
  replayMicros := 0
  sinceRelease := 0
  invalidCopies := 0
  setsLost := false
  recordsLost := false
  badGroup := none
  torn := []

/-- R57: the RTC runs on, with the trim that the boot loads. -/
abbrev RtcRuns (s : State) (d : Dev) : Prop :=
  d.rtc = { s.dev.rtc with offset := d.rtc.offset, trim := d.rtc.trim, since := d.rtc.since } ∧ d.rtcNow = (s.dev.at d.time.now).rtcNow

/-- R415, R460, R462, R480: what holds once a boot has found an image to run: the cause is reported, the image is one that may
run, the live set is loaded, and the host's next sequence follows the log. -/
abbrev Booted (s : State) (cause : Nat) (d : Dev) : Prop :=
  d.nat 0x2E0301 = cause ∧ (d.nat 0x310101 = 0 ∨ d.nat 0x310101 = 1) ∧
  imageRuns (d.int (if d.nat 0x310101 = 1 then 0x310103 else 0x310102)) = true ∧ d.nat 0x181003 = s.dev.nvm.liveSet ∧
  d.nvm.debugNext = false ∧ (s.dev.pins.role = true → d.nat 0x2A0001 = 1) ∧ d.jrn.clients = s.dev.nvm.checkpoint.clients ∧
  d.nat 0x110003 = ((lastSeq (0x11, 0) d.jrn.seqs).getD 0 + 1) % 2 ^ 32 ∧ d.seq.running = false ∧ RtcRuns s d

/-- R462: with no image to run, recovery: only the host port is served. -/
abbrev Recovering (s : State) (cause : Nat) (d : Dev) : Prop :=
  d.nat 0x2E0301 = cause ∧ d.nat 0x310101 = 0xFF ∧ d.nat 0x110003 = 1 ∧ d.jrn = s.dev.jrn ∧ d.can = s.dev.can ∧ RtcRuns s d

/-- The parts that a boot fills. -/
abbrev bootParts : List Part := [.power, .pd, .rtc, .dec, .eng, .tgt, .tiles, .link, .seq, .swap, .inp, .jrn, .rcd, .hlt, .diag, .can, .hp, .que, .nvm]

/-- R480: a boot ends the hold in reset: the device runs, or is in recovery (R462). -/
abbrev boot : Rule Nat where
  cmd t c := c = .boot Rules.quietBoot t
  pre _ s := s.dev.power.run = .hold ∧ s.dev.power.porArmed = false ∧ s.dev.seq.running = false
  parts := bootParts
  objs _ _ := true
  post _ s d := (d.power.run = .running ∧ Booted s s.dev.power.cause d) ∨ (d.power.run = .recovery ∧ Recovering s s.dev.power.cause d)

/-- R462: no image of a state that may run, and none that can be verified: recovery. -/
abbrev bootRecovery : Rule Nat where
  cmd t c := c = .boot Rules.quietBoot t
  pre _ s := s.dev.power.run = .hold ∧ s.dev.power.porArmed = false ∧
    s.dev.nvm.kept = [(0x310102, .num 1), (0x310103, .num 0)] ∧ s.dev.nvm.live = []
  parts := bootParts
  objs _ _ := true
  post _ s d := d.power.run = .recovery ∧ Recovering s s.dev.power.cause d

/-- R29: nothing boots while the power-on reset holds. -/
abbrev bootHeld : Rule (BootReport × Nat) where
  cmd a c := c = .boot a.1 a.2
  pre _ s := s.dev.power.run = .hold ∧ s.dev.power.porArmed = true
  parts := []
  objs _ := among []
  post _ s d := d.power = s.dev.power

/-- R441: both clocks hold lock again: the boot that ends the lock-loss reset. -/
abbrev clockLockHeld : Rule Nat where
  cmd t c := c = .clockLockHeld Rules.quietBoot t
  pre _ s := s.dev.power.run = .lockLoss ∧ s.dev.power.porArmed = false ∧ s.dev.seq.running = false
  parts := bootParts
  objs _ _ := true
  post _ s d := (d.power.run = .running ∧ Booted s s.dev.power.cause d) ∨ (d.power.run = .recovery ∧ Recovering s s.dev.power.cause d)

/-- R475: dormant mode is requested on a device that is not the lead. -/
abbrev dormantRequest : Rule Unit where
  cmd _ c := c = .dormantRequest .host
  pre _ s := HostMay s 0x2D0601 (.num 1) ∧ s.dev.isLead = false
  parts := [.power, .jrn]
  objs _ := among [0x110003]
  post _ s d := d.power = { s.dev.power with request := some (.dormant, s.dev.seq.number) } ∧
    HostTook s d 3 (.write 0x2D0601 (.num 1))

/-- R475: off mode is requested on a device that is not the lead. -/
abbrev offRequest : Rule Unit where
  cmd _ c := c = .offRequest .host
  pre _ s := HostMay s 0x2D0601 (.num 2) ∧ s.dev.isLead = false
  parts := [.power, .jrn]
  objs _ := among [0x110003]
  post _ s d := d.power = { s.dev.power with request := some (.off, s.dev.seq.number) } ∧ HostTook s d 3 (.write 0x2D0601 (.num 2))

/-- R475, R489: on the lead the request is a chain write: one forward for every present device but itself. -/
abbrev dormantRequestLead : Rule Unit where
  cmd _ c := c = .dormantRequest .host
  pre _ s := HostMay s 0x2D0601 (.num 1) ∧ s.dev.isLead = true ∧ s.dev.dic.remotes = []
  parts := [.power, .jrn, .dic]
  objs _ := among [0x110003]
  post _ s d := d.power = { s.dev.power with request := some (.dormant, s.dev.seq.number) } ∧
    (d.dic.remotes.all fun r => r.req.address = 0x2D0601 && decide (r.req.value = .num 1)) = true

/-- R475, step 2: 10 batches after the acceptance and with the journal whole, the permission is no longer refreshed. -/
abbrev powerDownEntry : Rule (Nat × PowerRequest × Nat) where
  cmd a c := c = .powerDownEntry a.1
  pre a s := Runs s ∧ s.dev.power.request = some a.2 ∧ a.2.1 ≠ .restart ∧ s.dev.power.winding = true ∧ s.dev.power.stoppedAt = none ∧
    10 ≤ (s.dev.seq.number + 2 ^ 32 - a.2.2) % 2 ^ 32 ∧ s.dev.jrn.openHalf = [] ∧ s.dev.jrn.reserved = [] ∧ s.dev.seq.journalDue = false
  parts := [.power, .jrn, .nvm, .gnss]
  objs _ := among [0x310004]
  post a s d := d.power = { s.dev.power with stoppedAt := some (s.nowAt a.1) } ∧ d.nvm.opTime = (s.dev.at a.1).opTime ∧ d.out = [] ∧
    d.nvm.checkpoint.seqs = s.dev.jrn.seqs

/-- R475, step 2: not before. -/
abbrev powerDownWaits : Rule Nat where
  cmd t c := c = .powerDownEntry t
  pre _ s := Runs s ∧ (s.dev.power.request = none ∨ s.dev.jrn.openHalf ≠ [] ∨ s.dev.power.winding = false)
  parts := []
  objs _ := among []
  post _ s d := d.power = s.dev.power

/-- R475, step 3: dormant mode: 4 ms after the last refresh the islands switch off; the entry is counted and the alarm is kept. -/
abbrev powerDownDormant : Rule (Nat × Nat) where
  cmd a c := c = .powerDownSwitchOff a.1
  pre a s := Runs s ∧ s.dev.power.request = some (.dormant, a.2) ∧ s.dev.power.stoppedAt ≠ none ∧
    s.dev.teth.lastRefresh + 4000000 ≤ s.nowAt a.1
  parts := .rtc :: resetParts
  objs _ _ := true
  post _ s d := LogicLost s d ∧ ResetTo .dormant 5 s d ∧ d.rtc = { s.dev.rtc with alarm := s.dev.nat 0x2D0603 } ∧
    d.nvm.kept = storePut s.dev.keptNow 0x2D0608 (.num ((valInt ((storeFind s.dev.keptNow 0x2D0608).getD (objDefault 0x2D0608)) + 1) % 2 ^ 32))

/-- R475, step 3: off mode stops the RTC too. -/
abbrev powerDownOff : Rule (Nat × Nat) where
  cmd a c := c = .powerDownSwitchOff a.1
  pre a s := Runs s ∧ s.dev.power.request = some (.off, a.2) ∧ s.dev.power.stoppedAt ≠ none ∧
    s.dev.teth.lastRefresh + 4000000 ≤ s.nowAt a.1
  parts := .rtc :: resetParts
  objs _ _ := true
  post _ s d := LogicLost s d ∧ ResetTo .offMode 6 s d ∧ d.rtc = {} ∧ d.nvm = { s.dev.nvm with kept := s.dev.keptNow }

/-- R479: a restart is requested. -/
abbrev restartRequest : Rule Unit where
  cmd _ c := c = .restartRequest .host 1
  pre _ s := HostMay s 0x2D0604 (.num 1)
  parts := [.power, .jrn, .dic]
  objs _ := among [0x110003]
  post _ s d := d.power = { s.dev.power with request := some (.restart, s.dev.seq.number) } ∧ HostTook s d 3 (.write 0x2D0604 (.num 1))

/-- R479: the restart resets 4 ms after its last refresh, with cause 7. -/
abbrev restartReset : Rule (Nat × Nat) where
  cmd a c := c = .restartReset a.1
  pre a s := Runs s ∧ s.dev.power.request = some (.restart, a.2) ∧ s.dev.power.stoppedAt ≠ none ∧
    s.dev.teth.lastRefresh + 4000000 ≤ s.nowAt a.1
  parts := resetParts
  objs _ _ := true
  post _ s d := LogicLost s d ∧ ResetTo .hold 7 s d ∧ d.nvm = { s.dev.nvm with kept := s.dev.keptNow }

/-- R475, R479: a silence shorter than 4 ms ends nothing. -/
abbrev restartEarly : Rule Nat where
  cmd t c := c = .restartReset t
  pre t s := Runs s ∧ s.nowAt t < s.dev.teth.lastRefresh + 4000000
  parts := []
  objs _ := among []
  post _ s d := d.power = s.dev.power

/-- R476: DIN0 wakes a dormant device on the level that the live set enables. -/
abbrev wakeDin0 : Rule (Bool × Nat) where
  cmd a c := c = .wakeDin0 a.1 a.2
  pre a s := s.dev.power.run = .dormant ∧
    (valInt (storeGet s.dev.nvm.live 0x2D0602)).toNat.testBit (if a.1 then 0 else 1) = true
  parts := resetParts
  objs _ _ := true
  post _ s d := ResetTo .hold 5 s d ∧ d.obj = [(0x2D0609, .num 1)]

/-- R476: a source that the live set does not enable wakes nothing. -/
abbrev wakeDin0Disabled : Rule (Bool × Nat) where
  cmd a c := c = .wakeDin0 a.1 a.2
  pre a s := s.dev.power.run = .dormant ∧
    (valInt (storeGet s.dev.nvm.live 0x2D0602)).toNat.testBit (if a.1 then 0 else 1) = false
  parts := []
  objs _ := among []
  post _ s d := d.power = s.dev.power

/-- R476: the host's select wakes a dormant device, where enabled. -/
abbrev wakeHostSelect : Rule Nat where
  cmd t c := c = .wakeHostSelect t
  pre _ s := s.dev.power.run = .dormant ∧ (valInt (storeGet s.dev.nvm.live 0x2D0602)).toNat.testBit 2 = true
  parts := resetParts
  objs _ _ := true
  post _ s d := ResetTo .hold 5 s d ∧ d.obj = [(0x2D0609, .num 2)]

/-- R476: the alarm of a valid RTC wakes a dormant device, where enabled. -/
abbrev rtcAlarm : Rule Nat where
  cmd t c := c = .rtcAlarm t
  pre t s := s.dev.power.run = .dormant ∧ (valInt (storeGet s.dev.nvm.live 0x2D0602)).toNat.testBit 3 = true ∧ s.dev.rtc.valid = true ∧
    s.dev.rtc.alarm ≠ 0 ∧ (s.dev.rtc.alarm : Int) * 1000000000 ≤ (s.dev.at t).rtcNow
  parts := resetParts
  objs _ _ := true
  post _ s d := ResetTo .hold 5 s d ∧ d.obj = [(0x2D0609, .num 3)] ∧ d.rtc = s.dev.rtc

/-- R476: an alarm of 0 is off, and an RTC that is not valid wakes nothing. -/
abbrev rtcAlarmOff : Rule Nat where
  cmd t c := c = .rtcAlarm t
  pre _ s := s.dev.power.run = .dormant ∧ (s.dev.rtc.alarm = 0 ∨ s.dev.rtc.valid = false)
  parts := []
  objs _ := among []
  post _ s d := d.power = s.dev.power

end Sys2Proof.Rules

open Sys2Proof Sys2Proof.Machine

/-- A step takes the command at the front of the queue and answers what `exec` answers on the queue's rest; on an empty
queue it answers the same state (log entry 1). -/
def Obligations.StepRunsFrontCommand : Prop :=
  (∀ (c : Instr) (r : List Instr) (d : Dev), step ⟨d, c :: r⟩ = exec c ⟨d, r⟩) ∧
  ∀ d : Dev, step ⟨d, []⟩ = .next ⟨d, []⟩

/-- Every command answers a next state in every state, with the queue as it was: none ends in a fault or a refusal. A
command whose condition does not hold finds nothing to act on (log entry 1). -/
def Obligations.EveryCommandCompletes : Prop :=
  ∀ (c : Instr) (s : State), ∃ u : State, exec c s = .next u ∧ u.pending = s.pending

/-- What reset leaves. The hold before the first boot and the values of parts to which the manual gives none are the
model's (log entries 24, 93, 94). -/
def Obligations.ResetLeavesLogicHeld : Prop :=
  State.reset.pending = [] ∧ State.reset.dev.power.run = .hold ∧ State.reset.dev.power.cause = 1 ∧
  State.reset.dev.pd.powered = false ∧ State.reset.dev.pd.armed = false ∧ State.reset.dev.outputsSafe = true ∧
  (∀ a : Nat, storeGet State.reset.dev.obj a = objDefault a) ∧ objDefault 0x180001 = .num 1000 ∧ objDefault 0x310202 = .num 1 ∧
  objDefault 0x310102 = .num 2 ∧ objDefault 0x310103 = .num 0 ∧ objDefault 0x2A0001 = .num 0 ∧ objDefault 0x2A0002 = .num 255 ∧
  objDefault 0x2D0402 = .num 1200 ∧ objDefault 0x2D0403 = .num 1400 ∧ State.reset.dev.out = []

/-- The invariant of `Obligations.SentHeldKept` holds at reset. -/
def Obligations.SentHeldAtReset : Prop :=
  SentHeld State.reset.dev

/-- A message of the data or management class never leaves without lying in the replay buffer of its port and class, where
a negative acknowledgement finds it: every step keeps this (log entry 99: a moving-baseline fix is not replayed). -/
def Obligations.SentHeldKept : Prop :=
  ∀ s u : State, SentHeld s.dev → step s = .next u → SentHeld u.dev

/-- Tables 6.1 and 6.2: a target message holds 44 bytes a record, and decoding it gives the records back. -/
def Obligations.TargetMessageRoundTrip : Prop :=
  ∀ (source : Nat) (l : List TargetRec), source < 256 → 1 ≤ l.length → l.length ≤ 255 → (∀ r ∈ l, TargetFits r) →
    (targetMessageEncode source l).length = 8 + 44 * l.length ∧ targetMessageDecode (targetMessageEncode source l) = some l

/-- What the device records hold at a reset: the value of each kept object of a running device, and what they held before
where the logic die is held (log entry 80). -/
def Obligations.KeptObjectsSurviveReset : Prop :=
  (∀ (d : Dev) (a : Nat), d.power.run = .running → storeWf d.obj = true → keptAddr a = true →
    storeGet d.keptNow a = storeGet d.obj a) ∧
  ∀ d : Dev, d.power.run = .hold → d.keptNow = d.nvm.kept

/-- R404: when replay ends, the device sets 0x1100:03 and 0x2C30:06 to one more than the last sequence accepted from
sources 0x11 and 0x12. -/
def Obligations.ReplaySetsNextSequences : Prop :=
  ∀ (rep : BootReport) (t : Nat) (s : State), s.dev.power.run = .hold → s.dev.power.porArmed = false →
    ∃ u : State, exec (.boot rep t) s = .next u ∧ (u.dev.power.run = .running →
      u.dev.jrn.seqs = (u.dev.nvm.groups.flatMap fun g => g.entries).foldl (fun q e => advanceKey (e.source, e.subKey) e.seq q)
        u.dev.nvm.checkpoint.seqs ∧
      u.dev.int 0x110003 = (((lastSeq (0x11, 0) u.dev.jrn.seqs).getD 0 + 1) % 2 ^ 32 : Nat) ∧
      u.dev.int 0x110004 = ((lastSeq (0x11, 0) u.dev.jrn.seqs).getD 0 : Nat) ∧
      u.dev.int 0x2C3006 = (((lastSeq (0x12, 0) u.dev.jrn.seqs).getD 0 + 1) % 2 ^ 32 : Nat))

/-- R97: t_e = t0 + (end of Phase C, Table 2.3) + 20 µs. -/
def Obligations.EarliestCommittableInstant : Prop :=
  (∀ (d : Dev) (k : Nat), 1 ≤ k → k ≤ 16 → d.periodNs = 250000 * k → d.te = d.seq.t0 + 175000 * k + 20000) ∧
  ∀ d : Dev, d.periodNs = 1000000 → d.te = d.seq.t0 + 720000

/-- R129: the cell of a field position, and the coordinate that names its tile. -/
def Obligations.CellCoversItsSquare : Prop :=
  (∀ (d : Dev) (p : Int × Int), ∃ (i j : Int) (c r : Nat), c < 256 ∧ r < 256 ∧
    i * (65536 * d.tileMm) + c * (65536 * d.cellMm) ≤ p.1 ∧ p.1 < i * (65536 * d.tileMm) + (c + 1) * (65536 * d.cellMm) ∧
    j * (65536 * d.tileMm) + r * (65536 * d.cellMm) ≤ p.2 ∧ p.2 < j * (65536 * d.tileMm) + (r + 1) * (65536 * d.cellMm) ∧
    d.place p = (tileCoord i j, 256 * r + c)) ∧
  ∀ i j : Int, -32768 ≤ i → i < 32768 → -32768 ≤ j → j < 32768 →
    (tileCoord i j : Int) = j % 65536 * 65536 + i % 65536 ∧ tileI (tileCoord i j) = i ∧ tileJ (tileCoord i j) = j

/-- Tether tokens: sent, taken by the power die, arming, and silence. Each rule says when its command completes with
`exec` answering a next state (`Rule.Holds`), its frame and its effect. Completes: tetherToken, tetherTokenReceived,
tetherSilence. Model choices: log entries 1, 25, 43. -/
def Obligations.TokensArm : Prop :=
  Rules.tetherToken.Holds ∧
  Rules.tetherTokenWithheld.Holds ∧
  Rules.tetherTokenSequencerStopped.Holds ∧
  Rules.tokenValid.Holds ∧
  Rules.tokenArms.Holds ∧
  Rules.tokenBadCrc.Holds ∧
  Rules.tokenResynchronises.Holds ∧
  Rules.tetherSilence.Holds ∧
  Rules.tetherSilenceLimpHome.Holds

/-- The tether permission is refreshed, lapses and is supervised. Each rule says when its command completes with `exec`
answering a next state (`Rule.Holds`), its frame and its effect. Completes: permissionRefresh, permissionLapse,
supervisionCheck. Model choices: log entries 1, 25. -/
def Obligations.PermissionIsRefreshed : Prop :=
  Rules.permissionRefresh.Holds ∧
  Rules.permissionLapse.Holds ∧
  Rules.permissionLapseSequencer.Holds ∧
  Rules.supervisionCore0.Holds ∧
  Rules.supervisionCore1.Holds

/-- The power die follows its supply and takes power-link frames. Each rule says when its command completes with `exec`
answering a next state (`Rule.Holds`), its frame and its effect. Completes: powerLinkCommand, vbatApplied,
powerDieAbsent, powerDieReset, vbatUndervoltage, vbatReverse, loadDump, pgndOpen. Model choices: log entries 1, 25,
43, 47, 48. -/
def Obligations.PowerDieFollowsSupply : Prop :=
  Rules.powerLinkCommand.Holds ∧
  Rules.powerLinkCommandBad.Holds ∧
  Rules.vbatApplied.Holds ∧
  Rules.powerDieAbsent.Holds ∧
  Rules.powerDieReset.Holds ∧
  Rules.vbatUndervoltage.Holds ∧
  Rules.vbatReverse.Holds ∧
  Rules.loadDump.Holds ∧
  Rules.pgndOpen.Holds

/-- Chain time is seeded, held, disciplined and locked again. Each rule says when its command completes with `exec`
answering a next state (`Rule.Holds`), its frame and its effect. Completes: chainTimeSeed, holdoverEntry,
holdoverLimit, reportSlotStop, reLock, gnssSolution, ppsPulse, rtcDiscipline, rtcSupplyLoss. Model choices: log
entries 1, 25, 7, 27. -/
def Obligations.ChainTimeIsKept : Prop :=
  Rules.chainTimeSeed.Holds ∧
  Rules.chainTimeSeedRtc.Holds ∧
  Rules.holdoverEntry.Holds ∧
  Rules.holdoverLimit.Holds ∧
  Rules.reportSlotStop.Holds ∧
  Rules.reLock.Holds ∧
  Rules.reLockStep.Holds ∧
  Rules.gnssSolution.Holds ∧
  Rules.gnssSolutionUnsteered.Holds ∧
  Rules.ppsPulse.Holds ∧
  Rules.rtcDiscipline.Holds ∧
  Rules.rtcSupplyLoss.Holds

/-- Batch boundaries, the phases of a batch and the status snapshot. Each rule says when its command completes with `exec`
answering a next state (`Rule.Holds`), its frame and its effect. Completes: batchBoundary, phaseBStart,
phaseBDeadline, phaseDStart, statusSnapshot. Model choices: log entries 1, 25, 26, 27, 28, 29, 57. -/
def Obligations.BatchPhasesRun : Prop :=
  Rules.batchBoundary.Holds ∧
  Rules.firstBoundary.Holds ∧
  Rules.swapAtBoundary.Holds ∧
  Rules.phaseBStart.Holds ∧
  Rules.phaseBStale.Holds ∧
  Rules.phaseBDeadline.Holds ∧
  Rules.phaseDStart.Holds ∧
  Rules.statusSnapshot.Holds ∧
  Rules.statusSnapshotWaits.Holds

/-- Setting swaps: proof writes, naming and the handshake. Each rule says when its command completes with `exec` answering
a next state (`Rule.Holds`), its frame and its effect. Completes: namedSwapWrite, swapCancelWrite, proofWrite,
resetLearningWrite, swapRequest, swapAnnouncement, readyReport, swapGo, swapPostponement, swapCancel. Model choices:
log entries 1, 25, 34, 38, 52. -/
def Obligations.SettingSwapsAgree : Prop :=
  Rules.namedSwapWrite.Holds ∧
  Rules.namedSwapTooNear.Holds ∧
  Rules.swapCancelWrite.Holds ∧
  Rules.proofWrite.Holds ∧
  Rules.proofWriteLater.Holds ∧
  Rules.resetLearningWrite.Holds ∧
  Rules.swapRequest.Holds ∧
  Rules.swapAnnouncement.Holds ∧
  Rules.swapNotReady.Holds ∧
  Rules.readyReport.Holds ∧
  Rules.readinessWithdrawn.Holds ∧
  Rules.swapGo.Holds ∧
  Rules.swapPostponement.Holds ∧
  Rules.swapCancel.Holds

/-- Boom state, batch sync and the loss of pose sources. Each rule says when its command completes with `exec` answering a
next state (`Rule.Holds`), its frame and its effect. Completes: movingBaselineFix, boomState, batchSync,
poseSourceLoss, imuTimeout, heightInputTimeout, speedSourceImplausible, speedSourceRejoin, deadReckoningLimit. Model
choices: log entries 1, 25, 8, 9, 52, 54, 55, 56. -/
def Obligations.PoseSourcesFollow : Prop :=
  Rules.movingBaselineFix.Holds ∧
  Rules.boomState.Holds ∧
  Rules.batchSync.Holds ∧
  Rules.poseSourceLoss.Holds ∧
  Rules.poseSourceAwaits.Holds ∧
  Rules.gnssSourceLoss.Holds ∧
  Rules.imuTimeout.Holds ∧
  Rules.heightInputTimeout.Holds ∧
  Rules.speedSourceImplausible.Holds ∧
  Rules.speedSourceRejoin.Holds ∧
  Rules.deadReckoningLimit.Holds

/-- Frequency and digital inputs and the sensor supplies. Each rule says when its command completes with `exec` answering
a next state (`Rule.Holds`), its frame and its effect. Completes: freqEdge, freqZeroTimeout, dinDebouncedChange,
sensorSupplyLimitTrip, sensorSupplyRetry, sensorSupplyOvervoltage, sensorSupplyEnableWrite. Model choices: log entries
1, 25, 53. -/
def Obligations.SensorInputsFollow : Prop :=
  Rules.freqEdge.Holds ∧
  Rules.freqEdgeBack.Holds ∧
  Rules.freqZeroTimeout.Holds ∧
  Rules.dinDebouncedChange.Holds ∧
  Rules.sensorSupplyLimitTrip.Holds ∧
  Rules.sensorSupplyRetry.Holds ∧
  Rules.sensorSupplyStaysOff.Holds ∧
  Rules.sensorSupplyOvervoltage.Holds ∧
  Rules.sensorSupplyEnableWrite.Holds

/-- Edges are issued, missed, resent and learned from; manual sections. Each rule says when its command completes with
`exec` answering a next state (`Rule.Holds`), its frame and its effect. Completes: edgeIssue, missedSwitchOn,
negativeAcknowledgement, kinkReport, learnedDelayCommit, manualSectionWrite, loopFeedbackRecovered. Model choices: log
entries 1, 25, 59, 61, 62. -/
def Obligations.EdgesAreIssued : Prop :=
  Rules.edgeIssueOn.Holds ∧
  Rules.edgeIssueOff.Holds ∧
  Rules.edgeIssueMeter.Holds ∧
  Rules.edgeNotIssued.Holds ∧
  Rules.missedSwitchOn.Holds ∧
  Rules.negativeAckResends.Holds ∧
  Rules.negativeAckDrops.Holds ∧
  Rules.kinkReport.Holds ∧
  Rules.kinkReportFallback.Holds ∧
  Rules.kinkReportSlot.Holds ∧
  Rules.learnedDelayCommit.Holds ∧
  Rules.manualSectionWrite.Holds ∧
  Rules.manualSectionWheeler.Holds ∧
  Rules.loopFeedbackRecovered.Holds

/-- Tiles are requested, transferred and painted. Each rule says when its command completes with `exec` answering a next
state (`Rule.Holds`), its frame and its effect. Completes: tileRequest, tileTransfer, paintDelta, paintComplete. Model
choices: log entries 1, 25, 67, 68, 70. -/
def Obligations.TilesTravel : Prop :=
  Rules.tileRequest.Holds ∧
  Rules.tileRequestMissing.Holds ∧
  Rules.tileTransfer.Holds ∧
  Rules.tileTransferBad.Holds ∧
  Rules.tileTransferResident.Holds ∧
  Rules.paintDelta.Holds ∧
  Rules.paintDeltaDropped.Holds ∧
  Rules.paintDeltaBuffered.Holds ∧
  Rules.paintComplete.Holds ∧
  Rules.paintWorkOff.Holds

/-- Tiles lose cachers, are rebuilt, leave the window and are written back. Each rule says when its command completes with
`exec` answering a next state (`Rule.Holds`), its frame and its effect. Completes: cacherDrop, homeRebuild,
tileWindowExpiry, cachedTileRelease, writeBackPeriod, writeBackResend. Model choices: log entries 1, 25, 67, 68, 69. -/
def Obligations.TilesChangeHome : Prop :=
  Rules.cacherDrop.Holds ∧
  Rules.homeRebuild.Holds ∧
  Rules.homeRebuildEnds.Holds ∧
  Rules.homeRebuildGap.Holds ∧
  Rules.tileWindowExpiry.Holds ∧
  Rules.cachedTileRelease.Holds ∧
  Rules.writeBackPeriod.Holds ∧
  Rules.writeBackResend.Holds

/-- The host pages tiles and acknowledges write-backs and as-applied records. Each rule says when its command completes
with `exec` answering a next state (`Rule.Holds`), its frame and its effect. Completes: tileInWrite, tileAbsentWrite,
writeBackAcknowledge, asAppliedAcknowledge, asAppliedReoffer, recordSigned, mapMissHoldLimit. Model choices: log
entries 1, 25, 4, 69, 82. -/
def Obligations.HostPagesTiles : Prop :=
  Rules.tileInWrite.Holds ∧
  Rules.tileInBusy.Holds ∧
  Rules.tileAbsentWrite.Holds ∧
  Rules.writeBackAcknowledge.Holds ∧
  Rules.asAppliedAcknowledge.Holds ∧
  Rules.asAppliedReoffer.Holds ∧
  Rules.recordSigned.Holds ∧
  Rules.mapMissHoldLimit.Holds

/-- Targets and shares enter: credits, messages, host writes. Each rule says when its command completes with `exec`
answering a next state (`Rule.Holds`), its frame and its effect. Completes: guestCredit, targetMessage, targetInWrite,
share, shareCredit. Model choices: log entries 1, 25, 63, 64, 65. -/
def Obligations.TargetsEnter : Prop :=
  Rules.guestCredit.Holds ∧
  Rules.guestCreditWithheld.Holds ∧
  Rules.targetMessage.Holds ∧
  Rules.targetMessageBad.Holds ∧
  Rules.targetInWrite.Holds ∧
  Rules.targetInBusy.Holds ∧
  Rules.share.Holds ∧
  Rules.shareCredit.Holds

/-- Shares are confirmed and expire; results reach their source. Each rule says when its command completes with `exec`
answering a next state (`Rule.Holds`), its frame and its effect. Completes: shareConfirmation, shareExpiry,
targetResult, resultAcknowledge. Model choices: log entries 1, 25, 63, 65, 66. -/
def Obligations.TargetsClose : Prop :=
  Rules.shareConfirmation.Holds ∧
  Rules.finalResult.Holds ∧
  Rules.finalResultCode.Holds ∧
  Rules.shareExpiry.Holds ∧
  Rules.targetResult.Holds ∧
  Rules.targetResultGuest.Holds ∧
  Rules.resultAcknowledge.Holds

/-- Tasks are released, taken, stolen and finished. Each rule says when its command completes with `exec` answering a next
state (`Rule.Holds`), its frame and its effect. Completes: taskRelease, taskTake, taskResultWrite, stealRequest,
stealRetry. Model choices: log entries 1, 25, 71. -/
def Obligations.TasksRun : Prop :=
  Rules.taskRelease.Holds ∧
  Rules.taskReleaseOpen.Holds ∧
  Rules.taskReleaseOverflow.Holds ∧
  Rules.taskTake.Holds ∧
  Rules.taskTakeBusy.Holds ∧
  Rules.taskResultWrite.Holds ∧
  Rules.taskResultLate.Holds ∧
  Rules.stealRequest.Holds ∧
  Rules.stealRefused.Holds ∧
  Rules.stealRetry.Holds

/-- Drays fault, are tested, retired and asked for a retest. Each rule says when its command completes with `exec`
answering a next state (`Rule.Holds`), its frame and its effect. Completes: drayFault, drayStepOverrun, meshTimeout,
draySelfTest, drayRetestWrite. Model choices: log entries 1, 25, 71. -/
def Obligations.DraysAreQuarantined : Prop :=
  Rules.drayFault.Holds ∧
  Rules.drayCorrections.Holds ∧
  Rules.drayFaultSelfTest.Holds ∧
  Rules.drayStepOverrun.Holds ∧
  Rules.meshTimeout.Holds ∧
  Rules.draySelfTest.Holds ∧
  Rules.draySelfTestRetires.Holds ∧
  Rules.drayRetestWrite.Holds

/-- A valve channel switches on and off: peaks, waits, slots and rates. Each rule says when its command completes with
`exec` answering a next state (`Rule.Holds`), its frame and its effect. Completes: channelSwitchOn, channelSwitchOff,
pwmSlotStart, valveRateEdge, endOfOnTime. Model choices: log entries 1, 25, 48. -/
def Obligations.ChannelsSwitch : Prop :=
  Rules.channelSwitchOn.Holds ∧
  Rules.channelSwitchOnBoost.Holds ∧
  Rules.channelSwitchOnWaits.Holds ∧
  Rules.channelSwitchOnFallback.Holds ∧
  Rules.channelSwitchOff.Holds ∧
  Rules.channelSwitchOffWaiting.Holds ∧
  Rules.pwmSlotStart.Holds ∧
  Rules.pwmSlotExtends.Holds ∧
  Rules.valveRateEdge.Holds ∧
  Rules.endOfOnTime.Holds ∧
  Rules.endOfOnTimeShort.Holds

/-- A valve channel moves from peak to hold and to release, and reports its kinks. Each rule says when its command
completes with `exec` answering a next state (`Rule.Holds`), its frame and its effect. Completes: arrivalKink,
endOfPeak, waitLimit, releaseKink, releaseEnd, holdUnreachable. Model choices: log entries 1, 25, 48. -/
def Obligations.ChannelsMoveThroughPhases : Prop :=
  Rules.arrivalKink.Holds ∧
  Rules.endOfPeak.Holds ∧
  Rules.endOfPeakLimit.Holds ∧
  Rules.endOfPeakOpenLoop.Holds ∧
  Rules.waitLimit.Holds ∧
  Rules.releaseKink.Holds ∧
  Rules.releaseEnd.Holds ∧
  Rules.holdUnreachable.Holds

/-- Channel faults: overcurrent, on-state and off-state diagnosis, return to service. Each rule says when its command
completes with `exec` answering a next state (`Rule.Holds`), its frame and its effect. Completes: overcurrentTrip,
channelBackOffEnd, onStateDiagnostic, offStateTest, channelReturnWrite. Model choices: log entries 1, 25, 41, 49. -/
def Obligations.ChannelFaultsAreFound : Prop :=
  Rules.overcurrentTrip.Holds ∧
  Rules.overcurrentRetires.Holds ∧
  Rules.channelBackOffEnd.Holds ∧
  Rules.onStateDiagnostic.Holds ∧
  Rules.onStateGround.Holds ∧
  Rules.onStateGroundCommon.Holds ∧
  Rules.offStateTest.Holds ∧
  Rules.offStateNotTested.Holds ∧
  Rules.offStateTestEarly.Holds ∧
  Rules.channelReturnWrite.Holds ∧
  Rules.channelReturns.Holds

/-- Bank commons, current sensing and the boost converter. Each rule says when its command completes with `exec` answering
a next state (`Rule.Holds`), its frame and its effect. Completes: commonCurrentLimit, commonRestore, senseWindow,
boostStartTimeout, boostRestart, boostFallback, boostOvervoltage, boostReady. Model choices: log entries 1, 25, 40. -/
def Obligations.BanksAndBoostAreGuarded : Prop :=
  Rules.commonCurrentLimit.Holds ∧
  Rules.commonLimitRetires.Holds ∧
  Rules.commonRestore.Holds ∧
  Rules.senseWindow.Holds ∧
  Rules.senseDegraded.Holds ∧
  Rules.senseFaulted.Holds ∧
  Rules.boostStartTimeout.Holds ∧
  Rules.boostRetired.Holds ∧
  Rules.boostRetiredStarts.Holds ∧
  Rules.boostRestart.Holds ∧
  Rules.boostFallback.Holds ∧
  Rules.boostOvervoltage.Holds ∧
  Rules.boostReadyRule.Holds

/-- Load switches: commands, pulses, trips and back-off. Each rule says when its command completes with `exec` answering a
next state (`Rule.Holds`), its frame and its effect. Completes: loadSwitchCommandWrite, loadSwitchCommand,
pulsePeriodStart, pulseEnd, loadSwitchTrip, loadSwitchBackOffEnd. Model choices: log entries 1, 25, 45. -/
def Obligations.LoadSwitchesSwitch : Prop :=
  Rules.loadSwitchCommandWrite.Holds ∧
  Rules.loadSwitchCommand.Holds ∧
  Rules.loadSwitchCommandOff.Holds ∧
  Rules.pulsePeriodStart.Holds ∧
  Rules.pulseTooShort.Holds ∧
  Rules.pulseEnd.Holds ∧
  Rules.pulseHeld.Holds ∧
  Rules.loadSwitchTrip.Holds ∧
  Rules.loadSwitchLatches.Holds ∧
  Rules.loadSwitchBackOffEnd.Holds

/-- Load switches: restarts, tests, limp-home inputs and enable. Each rule says when its command completes with `exec`
answering a next state (`Rule.Holds`), its frame and its effect. Completes: loadSwitchThermalRestart,
loadSwitchCountClear, loadSwitchOffStateTest, loadSwitchOpenLoad, limpHomeInput, lhenChange. Model choices: log
entries 1, 25, 46, 49. -/
def Obligations.LoadSwitchesAreTested : Prop :=
  Rules.loadSwitchThermalRestart.Holds ∧
  Rules.loadSwitchCountClear.Holds ∧
  Rules.loadSwitchNotTested.Holds ∧
  Rules.loadSwitchOffStateTest.Holds ∧
  Rules.loadSwitchOpenLoad.Holds ∧
  Rules.limpHomeInput.Holds ∧
  Rules.limpHomeFollows.Holds ∧
  Rules.lhenChange.Holds ∧
  Rules.lhenHigh.Holds

/-- The bridge PWM generator: loads, forces, dead time, faults and interlock. Each rule says when its command completes
with `exec` answering a next state (`Rule.Holds`), its frame and its effect. Completes: pwmPeriodStart, loadAllWrite,
forceWrite, forceApply, delayLineCalibration, switchNodeSwing, deadTimeMaximum, pwmFaultInput, interlockEvent,
pairReturnWrite, forwardedClockLoss. Model choices: log entries 1, 25, 42, 51. -/
def Obligations.BridgePwmRuns : Prop :=
  Rules.pwmPeriodStart.Holds ∧
  Rules.loadAllWrite.Holds ∧
  Rules.forceWrite.Holds ∧
  Rules.forceApply.Holds ∧
  Rules.delayLineCalibration.Holds ∧
  Rules.calibrationRecovers.Holds ∧
  Rules.calibrationFails.Holds ∧
  Rules.switchNodeSwing.Holds ∧
  Rules.deadTimeMaximum.Holds ∧
  Rules.pwmFaultInput.Holds ∧
  Rules.interlockEvent.Holds ∧
  Rules.interlockFaults.Holds ∧
  Rules.pairReturnWrite.Holds ∧
  Rules.forwardedClockLoss.Holds

/-- An axis update: at rest, ramping, stopping, on an axis block, faulted. Each rule says when its command completes with
`exec` answering a next state (`Rule.Holds`), its frame and its effect. Completes: axisUpdate. Model choices: log
entries 1, 25, 50, 95. -/
def Obligations.AxesUpdate : Prop :=
  Rules.axisUpdate.Holds ∧
  Rules.axisUpdateSteady.Holds ∧
  Rules.axisUpdateAccelerates.Holds ∧
  Rules.axisUpdateStops.Holds ∧
  Rules.axisUpdateQuickStop.Holds ∧
  Rules.axisUpdateGo.Holds ∧
  Rules.axisUpdateBlock.Holds ∧
  Rules.axisUpdateFaulted.Holds ∧
  Rules.axisUpdateDisabled.Holds ∧
  Rules.axisUpdateOffTick.Holds

/-- Axis commands, coarse steps and row-drive status. Each rule says when its command completes with `exec` answering a
next state (`Rule.Holds`), its frame and its effect. Completes: moveGo, moveStop, quickStop, moveResume, moveAbandon,
positionWrite, coarseStep, coarseStepTimeout, rowDriveStatus. Model choices: log entries 1, 25, 50, 95. -/
def Obligations.AxisCommandsAct : Prop :=
  Rules.moveGo.Holds ∧
  Rules.moveStop.Holds ∧
  Rules.quickStop.Holds ∧
  Rules.moveResume.Holds ∧
  Rules.moveAbandon.Holds ∧
  Rules.positionWrite.Holds ∧
  Rules.positionWriteMoving.Holds ∧
  Rules.coarseStep.Holds ∧
  Rules.coarseStepTurns.Holds ∧
  Rules.coarseStepTimeout.Holds ∧
  Rules.rowDriveStatus.Holds

/-- Lanes: block lock, markers, expected positions and frame starts. Each rule says when its command completes with `exec`
answering a next state (`Rule.Holds`), its frame and its effect. Completes: blockLock, blockLockLoss, markerBlock,
expectedMarkerPosition, frameStart. Model choices: log entries 1, 25, 72, 73. -/
def Obligations.LanesAlign : Prop :=
  Rules.blockLock.Holds ∧
  Rules.blockLockLoss.Holds ∧
  Rules.blockLockLossTraining.Holds ∧
  Rules.markerBlock.Holds ∧
  Rules.markerSync.Holds ∧
  Rules.markerElsewhere.Holds ∧
  Rules.markerAccepted.Holds ∧
  Rules.markerBad.Holds ∧
  Rules.expectedMarkerPosition.Holds ∧
  Rules.expectedMarkerHunt.Holds ∧
  Rules.frameStart.Holds ∧
  Rules.frameStartOffGrid.Holds

/-- Messages are delivered, acknowledged, resent and timed out by class. Each rule says when its command completes with
`exec` answering a next state (`Rule.Holds`), its frame and its effect. Completes: messageReceived,
linkAcknowledgement, linkNegativeAcknowledgement, replayTimeout, linkBusy, busyWaitEnd, segmentTimeout,
guestMessageTimeout. Model choices: log entries 1, 25, 15, 17, 74. -/
def Obligations.MessagesAreAcknowledged : Prop :=
  Rules.messageReceived.Holds ∧
  Rules.messageBadCrc.Holds ∧
  Rules.messageGap.Holds ∧
  Rules.messageBroadcast.Holds ∧
  Rules.messageCopy.Holds ∧
  Rules.messageGuestBad.Holds ∧
  Rules.linkAcknowledgement.Holds ∧
  Rules.linkNegativeAcknowledgement.Holds ∧
  Rules.replayTimeout.Holds ∧
  Rules.replayTimeoutEarly.Holds ∧
  Rules.replayUndeliverable.Holds ∧
  Rules.linkBusy.Holds ∧
  Rules.busyWaitEnd.Holds ∧
  Rules.segmentTimeout.Holds ∧
  Rules.guestMessageTimeout.Holds

/-- Lanes: adaptation, errored blocks, error rate, retraining, retirement and reinstatement. Each rule says when its
command completes with `exec` answering a next state (`Rule.Holds`), its frame and its effect. Completes: frameStart,
markerBlock, errorRateAlarm, retrainAttempt, retrainTimeout, laneReinstate, retiredLaneRetestWrite,
portTrainingTimeout. Model choices: log entries 1, 25, 74. -/
def Obligations.LanesAreRetrained : Prop :=
  Rules.frameStartAdapts.Holds ∧
  Rules.blockHeaderBad.Holds ∧
  Rules.blockControlBad.Holds ∧
  Rules.errorRateAlarm.Holds ∧
  Rules.errorRateBelow.Holds ∧
  Rules.retrainAttempt.Holds ∧
  Rules.retrainRetires.Holds ∧
  Rules.retrainTimeout.Holds ∧
  Rules.retrainTimeoutRetires.Holds ∧
  Rules.laneReinstate.Holds ∧
  Rules.retiredLaneRetestWrite.Holds ∧
  Rules.portTrainingTimeout.Holds

/-- Enumeration and report slots: probes, reports, the chain table and its retry. Each rule says when its command
completes with `exec` answering a next state (`Rule.Holds`), its frame and its effect. Completes: enumerationProbe,
enumerationReport, enumerationReportWait, chainTable, enumerationRetry, messageReceived. Model choices: log entries 1,
25, 16, 75. -/
def Obligations.ChainIsEnumerated : Prop :=
  Rules.enumerationProbe.Holds ∧
  Rules.probeForwarded.Holds ∧
  Rules.probeMismatch.Holds ∧
  Rules.probeRing.Holds ∧
  Rules.probeConflict.Holds ∧
  Rules.enumerationReport.Holds ∧
  Rules.reportReturns.Holds ∧
  Rules.enumerationReportWait.Holds ∧
  Rules.reportWaitPortB.Holds ∧
  Rules.chainTable.Holds ∧
  Rules.enumerationRetry.Holds ∧
  Rules.messageSlotDropped.Holds ∧
  Rules.messageBreakNotice.Holds

/-- Breaks, echoes, the standby mirror and takeovers. Each rule says when its command completes with `exec` answering a
next state (`Rule.Holds`), its frame and its effect. Completes: breakNotice, ringRestore, echoPeriod, echoRequest,
echoResponse, standbyMirror, markerMissing, takeoverNotice. Model choices: log entries 1, 25, 75, 76, 87. -/
def Obligations.ChainSurvivesFailures : Prop :=
  Rules.breakNotice.Holds ∧
  Rules.ringRestore.Holds ∧
  Rules.echoPeriod.Holds ∧
  Rules.echoPeriodEarly.Holds ∧
  Rules.echoRequest.Holds ∧
  Rules.echoResponse.Holds ∧
  Rules.echoResponseOdd.Holds ∧
  Rules.standbyMirror.Holds ∧
  Rules.markerMissing.Holds ∧
  Rules.markerMissingEarly.Holds ∧
  Rules.takeover.Holds ∧
  Rules.takeoverNotice.Holds ∧
  Rules.takeoverNoticeOther.Holds

/-- Sweeps and their steps. Each rule says when its command completes with `exec` answering a next state (`Rule.Holds`),
its frame and its effect. Completes: sweepStart, sweepCancel, sweepStepRequest, sweepStepComplete, sweepPoll,
sweepStepTimeout. Model choices: log entries 1, 25, 77. -/
def Obligations.SweepsRun : Prop :=
  Rules.sweepStart.Holds ∧
  Rules.sweepStartRunning.Holds ∧
  Rules.sweepStartWorking.Holds ∧
  Rules.sweepCancel.Holds ∧
  Rules.sweepStepRequest.Holds ∧
  Rules.sweepStepComplete.Holds ∧
  Rules.sweepStepEarly.Holds ∧
  Rules.sweepStepLead.Holds ∧
  Rules.sweepPoll.Holds ∧
  Rules.sweepPollEarly.Holds ∧
  Rules.sweepStepTimeout.Holds

/-- The baseband starts; gain, notches, sample clocks and the seed wait. Each rule says when its command completes with
`exec` answering a next state (`Rule.Holds`), its frame and its effect. Completes: basebandStart, scriptRetry,
agcRound, notchSearch, sampleClockLoss, sampleClockReturn, seedWaitExpiry. Model choices: log entries 1, 25, 18, 79,
96. -/
def Obligations.BasebandStarts : Prop :=
  Rules.basebandStart.Holds ∧
  Rules.basebandStartUnverified.Holds ∧
  Rules.scriptRetryEarly.Holds ∧
  Rules.scriptRetry.Holds ∧
  Rules.scriptRetryFails.Holds ∧
  Rules.agcRoundEarly.Holds ∧
  Rules.agcRound.Holds ∧
  Rules.agcRoundHeld.Holds ∧
  Rules.notchSearch.Holds ∧
  Rules.notchSearchKeeps.Holds ∧
  Rules.notchSearchReleases.Holds ∧
  Rules.sampleClockLoss.Holds ∧
  Rules.sampleClockReturn.Holds ∧
  Rules.seedWaitEarly.Holds ∧
  Rules.seedWaitExpiry.Holds

/-- Baseband channels: allocation, acquisition, lock and loss; kept data and starts. Each rule says when its command
completes with `exec` answering a next state (`Rule.Holds`), its frame and its effect. Completes: channelAllocation,
acquisitionPeak, acquisitionExhausted, channelLock, pullInTimeout, trackLoss, sidePeakLock, reacquirePeak,
reacquireTimeout, keptDataCommit, keptDataErase, startFallback. Model choices: log entries 1, 25. -/
def Obligations.SignalsAreTracked : Prop :=
  Rules.channelAllocation.Holds ∧
  Rules.channelAllocationEarly.Holds ∧
  Rules.channelAllocationNone.Holds ∧
  Rules.acquisitionPeak.Holds ∧
  Rules.acquisitionExhausted.Holds ∧
  Rules.channelLock.Holds ∧
  Rules.channelTooEarly.Holds ∧
  Rules.pullInTimeout.Holds ∧
  Rules.trackLoss.Holds ∧
  Rules.sidePeakLock.Holds ∧
  Rules.reacquirePeak.Holds ∧
  Rules.reacquireTimeout.Holds ∧
  Rules.keptDataCommitEarly.Holds ∧
  Rules.keptDataCommit.Holds ∧
  Rules.keptDataCommitErases.Holds ∧
  Rules.keptDataErase.Holds ∧
  Rules.startFallback.Holds

/-- Measurement and base epochs, RTK, corrections and leap seconds. Each rule says when its command completes with `exec`
answering a next state (`Rule.Holds`), its frame and its effect. Completes: gnssSolution, measurementEpoch, baseEpoch,
correctionInput, leapSecond. Model choices: log entries 1, 25, 19, 20, 78, 79, 96. -/
def Obligations.EpochsAndCorrectionsFlow : Prop :=
  Rules.gnssSolutionRtk.Holds ∧
  Rules.measurementEpochOff.Holds ∧
  Rules.measurementEpoch.Holds ∧
  Rules.measurementEpochLead.Holds ∧
  Rules.baseEpoch.Holds ∧
  Rules.baseEpochLate.Holds ∧
  Rules.correctionInput.Holds ∧
  Rules.correctionInputBase.Holds ∧
  Rules.correctionInputDiscarded.Holds ∧
  Rules.leapSecond.Holds

/-- CAN controllers: frames, bus-off and address claims. Each rule says when its command completes with `exec` answering a
next state (`Rule.Holds`), its frame and its effect. Completes: canFrameReceived, busOff, busOffRecovery,
busOffRecoveryComplete, addressClaim. Model choices: log entries 1, 25, 21, 23, 91, 97. -/
def Obligations.CanControllersAct : Prop :=
  Rules.canFrameReceived.Holds ∧
  Rules.canFrameReceivedFd.Holds ∧
  Rules.canFrameReceivedFull.Holds ∧
  Rules.busOff.Holds ∧
  Rules.busOffWaits.Holds ∧
  Rules.busOffTenth.Holds ∧
  Rules.busOffRecovery.Holds ∧
  Rules.busOffRecoveryComplete.Holds ∧
  Rules.addressClaim.Holds ∧
  Rules.addressClaimLost.Holds ∧
  Rules.addressClaimCannot.Holds

/-- Transport sessions and diagnostics on CAN-I. Each rule says when its command completes with `exec` answering a next
state (`Rule.Holds`), its frame and its effect. Completes: transportPacket, transportTimeout, diagnosticRequest,
dm3Clear, dm11Clear, dm1Send. Model choices: log entries 1, 25, 23, 88, 89. -/
def Obligations.Iso11783Serves : Prop :=
  Rules.transportPacket.Holds ∧
  Rules.transportPacketRefused.Holds ∧
  Rules.transportPacketLast.Holds ∧
  Rules.transportTimeout.Holds ∧
  Rules.diagnosticRequest.Holds ∧
  Rules.dm3Clear.Holds ∧
  Rules.dm11Clear.Holds ∧
  Rules.dm1Send.Holds ∧
  Rules.dm1SendEarly.Holds ∧
  Rules.dm1SendNone.Holds

/-- The Task Controller client and the proprietary path on CAN-I. Each rule says when its command completes with `exec`
answering a next state (`Rule.Holds`), its frame and its effect. Completes: tcServerStatus, tcServerLost,
tcValueCommand, tcMeasurementCommand, proprietaryARequest. Model choices: log entries 1, 25, 23, 90. -/
def Obligations.TaskControllerCommands : Prop :=
  Rules.tcServerStatus.Holds ∧
  Rules.tcServerStatusActive.Holds ∧
  Rules.tcServerLost.Holds ∧
  Rules.tcServerLostEarly.Holds ∧
  Rules.tcValueCommand.Holds ∧
  Rules.tcValueCommandSections.Holds ∧
  Rules.tcMeasurementCommand.Holds ∧
  Rules.proprietaryARequest.Holds ∧
  Rules.proprietaryARequestOther.Holds ∧
  Rules.proprietaryAWrite.Holds

/-- CANopen on CAN-P: NMT, SDO, PDO and heartbeat. Each rule says when its command completes with `exec` answering a next
state (`Rule.Holds`), its frame and its effect. Completes: nmtOperational, nmtPreOperational, nmtStop,
nmtResetCommunication, nmtResetNode, sdoRequest, sdoTimeout, rpdo, heartbeatSend, heartbeatTimeout. Model choices: log
entries 1, 25, 23, 39, 92. -/
def Obligations.CanOpenServes : Prop :=
  Rules.nmtOperational.Holds ∧
  Rules.nmtPreOperational.Holds ∧
  Rules.nmtStop.Holds ∧
  Rules.nmtResetCommunication.Holds ∧
  Rules.nmtResetNode.Holds ∧
  Rules.nmtOther.Holds ∧
  Rules.sdoRequest.Holds ∧
  Rules.sdoRequestWrite.Holds ∧
  Rules.sdoTimeout.Holds ∧
  Rules.sdoTimeoutEarly.Holds ∧
  Rules.rpdo.Holds ∧
  Rules.rpdoWithheld.Holds ∧
  Rules.heartbeatSend.Holds ∧
  Rules.heartbeatSendEarly.Holds ∧
  Rules.heartbeatTimeout.Holds ∧
  Rules.heartbeatTimeoutEarly.Holds

/-- Remote access: management requests, responses and timeouts. Each rule says when its command completes with `exec`
answering a next state (`Rule.Holds`), its frame and its effect. Completes: dictionaryRequest, dictionaryResponse,
remoteRequestTimeout, aggregatorBusyResend. Model choices: log entries 1, 25, 35, 82, 83. -/
def Obligations.RemoteAccessServes : Prop :=
  Rules.dictionaryRequest.Holds ∧
  Rules.dictionaryRequestAborted.Holds ∧
  Rules.dictionaryRequestWrite.Holds ∧
  Rules.dictionaryRequestDuplicate.Holds ∧
  Rules.dictionaryRequestOrdered.Holds ∧
  Rules.dictionaryResponse.Holds ∧
  Rules.dictionaryResponseBusy.Holds ∧
  Rules.dictionaryResponseRead.Holds ∧
  Rules.remoteRequestTimeout.Holds ∧
  Rules.remoteForwardTimeout.Holds ∧
  Rules.aggregatorBusyResend.Holds

/-- The journal commits groups, checkpoints and releases acknowledgements. Each rule says when its command completes with
`exec` answering a next state (`Rule.Holds`), its frame and its effect. Completes: journalGroupCommit,
journalCheckpoint, mirrorAcknowledged, clientSlotRelease. Model choices: log entries 1, 25, 5, 36, 82, 98. -/
def Obligations.JournalCommits : Prop :=
  Rules.journalGroupCommit.Holds ∧
  Rules.journalGroupCommitResponse.Holds ∧
  Rules.journalGroupCommitSlots.Holds ∧
  Rules.journalGroupCommitNone.Holds ∧
  Rules.journalGroupCommitHeld.Holds ∧
  Rules.journalGroupCommitForward.Holds ∧
  Rules.journalCheckpoint.Holds ∧
  Rules.journalCheckpointNone.Holds ∧
  Rules.mirrorAcknowledged.Holds ∧
  Rules.mirrorAcknowledgedEarlier.Holds ∧
  Rules.clientSlotRelease.Holds

/-- SRAM and MRAM errors are corrected, counted and spared. Each rule says when its command completes with `exec`
answering a next state (`Rule.Holds`), its frame and its effect. Completes: sramError, mramWriteFault. Model choices:
log entries 1, 25, 12. -/
def Obligations.MemoryFaultsAreSpared : Prop :=
  Rules.sramError.Holds ∧
  Rules.sramErrorAgain.Holds ∧
  Rules.sramErrorUncorrectable.Holds ∧
  Rules.mramWriteFault.Holds ∧
  Rules.mramWriteFaultFenced.Holds

/-- Housekeeping, throttling and thermal shutdown. Each rule says when its command completes with `exec` answering a next
state (`Rule.Holds`), its frame and its effect. Completes: housekeepingRound, throttleGraceEnd, throttleRelease,
powerThermalShutdown, shutdownResetHold, nrstAssert. Model choices: log entries 1, 25, 13. -/
def Obligations.TemperatureThrottles : Prop :=
  Rules.housekeepingRound.Holds ∧
  Rules.housekeepingRoundEarly.Holds ∧
  Rules.housekeepingRoundRequest.Holds ∧
  Rules.housekeepingRoundImplausible.Holds ∧
  Rules.housekeepingRoundRetires.Holds ∧
  Rules.housekeepingRoundShutdown.Holds ∧
  Rules.throttleGraceEnd.Holds ∧
  Rules.throttleGraceWithdraw.Holds ∧
  Rules.throttleRelease.Holds ∧
  Rules.throttleReleaseEarly.Holds ∧
  Rules.powerThermalShutdown.Holds ∧
  Rules.shutdownResetHold.Holds ∧
  Rules.shutdownHoldsNrst.Holds

/-- The host port reads: plain, wide, remote and aborted reads; queues, records and pages. Each rule says when its command
completes with `exec` answering a next state (`Rule.Holds`), its frame and its effect. Completes: hostRead,
hostReadHigh, hostBlockRead, hostPortStatus, hostUnknownCommand, hostTransactionAborted. Model choices: log entries 1,
25, 35, 83, 84. -/
def Obligations.HostPortReads : Prop :=
  Rules.hostRead.Holds ∧
  Rules.hostReadWide.Holds ∧
  Rules.hostReadDomain.Holds ∧
  Rules.hostReadAborted.Holds ∧
  Rules.hostReadBadCrc.Holds ∧
  Rules.hostReadRemote.Holds ∧
  Rules.hostReadKept.Holds ∧
  Rules.hostReadHigh.Holds ∧
  Rules.hostReadHighTorn.Holds ∧
  Rules.hostBlockRead.Holds ∧
  Rules.hostBlockReadTorn.Holds ∧
  Rules.hostPortStatus.Holds ∧
  Rules.hostUnknownCommand.Holds ∧
  Rules.hostTransactionAborted.Holds

/-- The host port writes: plain, wide and staged writes and their refusals. Each rule says when its command completes with
`exec` answering a next state (`Rule.Holds`), its frame and its effect. Completes: hostWrite, hostWriteHigh,
hostStage, hostCommitStaged, stagedHalfExpiry. Model choices: log entries 1, 25, 35, 37, 84. -/
def Obligations.HostPortWrites : Prop :=
  Rules.hostWrite.Holds ∧
  Rules.hostWriteRange.Holds ∧
  Rules.hostWriteBusy.Holds ∧
  Rules.hostWriteDuplicate.Holds ∧
  Rules.hostWritePort.Holds ∧
  Rules.hostWriteUnstaged.Holds ∧
  Rules.hostWriteWide.Holds ∧
  Rules.hostWriteHigh.Holds ∧
  Rules.hostStage.Holds ∧
  Rules.hostStageBeyond.Holds ∧
  Rules.hostCommitStaged.Holds ∧
  Rules.hostCommitStagedLong.Holds ∧
  Rules.stagedHalfExpiry.Holds

/-- Register writes, queue reads and record reads by every accessor. Each rule says when its command completes with `exec`
answering a next state (`Rule.Holds`), its frame and its effect. Completes: registerWrite, queueRead, recordRead,
pageRead. Model choices: log entries 1, 25, 35, 84. -/
def Obligations.RegisterAccessServes : Prop :=
  Rules.registerWrite.Holds ∧
  Rules.registerWriteReadOnly.Holds ∧
  Rules.registerWriteMissing.Holds ∧
  Rules.registerWritePort.Holds ∧
  Rules.queueRead.Holds ∧
  Rules.queueReadStays.Holds ∧
  Rules.recordReadRule.Holds ∧
  Rules.pageReadRule.Holds ∧
  Rules.pageReadCan.Holds

/-- Images: chunks, erasing, activation, the trial and its confirmation; operating time. Each rule says when its command
completes with `exec` answering a next state (`Rule.Holds`), its frame and its effect. Completes: imageChunk,
imageErase, imageActivate, trialConfirmation, operatingTimeCommit. Model choices: log entries 1, 25, 3, 4, 37, 80. -/
def Obligations.ImagesAreLoaded : Prop :=
  Rules.imageChunk.Holds ∧
  Rules.imageChunkBeyond.Holds ∧
  Rules.imageErase.Holds ∧
  Rules.imageActivate.Holds ∧
  Rules.imageActivateInvalid.Holds ∧
  Rules.trialConfirmation.Holds ∧
  Rules.trialConfirmationEarly.Holds ∧
  Rules.operatingTimeCommit.Holds ∧
  Rules.operatingTimeCommitEarly.Holds

/-- Authentication, lockout, keys and the lifecycle. Each rule says when its command completes with `exec` answering a
next state (`Rule.Holds`), its frame and its effect. Completes: clearRing, authenticationTag,
authenticationLockoutEnd, calibrationKeyWrite, debugUnlock, decommission. Model choices: log entries 1, 25, 3, 4, 80. -/
def Obligations.AuthenticationGuards : Prop :=
  Rules.clearRing.Holds ∧
  Rules.clearRingUntagged.Holds ∧
  Rules.clearRingLockout.Holds ∧
  Rules.authenticationTag.Holds ∧
  Rules.authenticationLockoutEnd.Holds ∧
  Rules.calibrationKeyWrite.Holds ∧
  Rules.calibrationKeyForbidden.Holds ∧
  Rules.debugUnlock.Holds ∧
  Rules.debugUnlockProvisioning.Holds ∧
  Rules.decommission.Holds

/-- Resets: power-on, NRST, lock loss, supervision and the debug port. Each rule says when its command completes with
`exec` answering a next state (`Rule.Holds`), its frame and its effect. Completes: powerOnReset, powerOnResetRearm,
nrstAssert, clockLockLoss, supervisionReset, debugPortReset, debugHalt. Model choices: log entries 1, 25, 24, 80, 81. -/
def Obligations.ResetsHoldLogic : Prop :=
  Rules.powerOnReset.Holds ∧
  Rules.powerOnResetDebug.Holds ∧
  Rules.powerOnResetReleased.Holds ∧
  Rules.powerOnResetRearm.Holds ∧
  Rules.nrstReset.Holds ∧
  Rules.nrstGlitch.Holds ∧
  Rules.clockLockLoss.Holds ∧
  Rules.clockLockLossTrial.Holds ∧
  Rules.supervisionReset.Holds ∧
  Rules.supervisionThird.Holds ∧
  Rules.supervisionEarly.Holds ∧
  Rules.debugPortReset.Holds ∧
  Rules.debugPortLocked.Holds ∧
  Rules.debugHaltCore1.Holds ∧
  Rules.debugHaltCore0.Holds

/-- Boots: with an image to run, into recovery, and held. Each rule says when its command completes with `exec` answering
a next state (`Rule.Holds`), its frame and its effect. Completes: boot, clockLockHeld. Model choices: log entries 1,
25, 3, 24, 81. -/
def Obligations.BootsRun : Prop :=
  Rules.boot.Holds ∧
  Rules.bootRecovery.Holds ∧
  Rules.bootHeld.Holds ∧
  Rules.clockLockHeld.Holds

/-- Dormant and off mode, restart and the wake sources. Each rule says when its command completes with `exec` answering a
next state (`Rule.Holds`), its frame and its effect. Completes: nrstAssert, dormantRequest, offRequest,
powerDownEntry, powerDownSwitchOff, restartRequest, restartReset, wakeDin0, wakeHostSelect, rtcAlarm. Model choices:
log entries 1, 25, 24, 81, 82. -/
def Obligations.PowerModesAct : Prop :=
  Rules.nrstWake.Holds ∧
  Rules.dormantRequest.Holds ∧
  Rules.offRequest.Holds ∧
  Rules.dormantRequestLead.Holds ∧
  Rules.powerDownEntry.Holds ∧
  Rules.powerDownWaits.Holds ∧
  Rules.powerDownDormant.Holds ∧
  Rules.powerDownOff.Holds ∧
  Rules.restartRequest.Holds ∧
  Rules.restartReset.Holds ∧
  Rules.restartEarly.Holds ∧
  Rules.wakeDin0.Holds ∧
  Rules.wakeDin0Disabled.Holds ∧
  Rules.wakeHostSelect.Holds ∧
  Rules.rtcAlarm.Holds ∧
  Rules.rtcAlarmOff.Holds
end

