-- ==== Sys2Proof/Laws/State.lean ====
section
/-! SUPPORT. What the basic updates of a device leave alone: one lemma per field and update. -/

namespace Sys2Proof.Machine

@[simp] theorem Dev.putVal_pins (d : Dev) (a : Nat) (v : Val) : (d.putVal a v).pins = d.pins := rfl
@[simp] theorem Dev.putVal_power (d : Dev) (a : Nat) (v : Val) : (d.putVal a v).power = d.power := rfl
@[simp] theorem Dev.putVal_teth (d : Dev) (a : Nat) (v : Val) : (d.putVal a v).teth = d.teth := rfl
@[simp] theorem Dev.putVal_pd (d : Dev) (a : Nat) (v : Val) : (d.putVal a v).pd = d.pd := rfl
@[simp] theorem Dev.putVal_valve (d : Dev) (a : Nat) (v : Val) : (d.putVal a v).valve = d.valve := rfl
@[simp] theorem Dev.putVal_lsw (d : Dev) (a : Nat) (v : Val) : (d.putVal a v).lsw = d.lsw := rfl
@[simp] theorem Dev.putVal_pwm (d : Dev) (a : Nat) (v : Val) : (d.putVal a v).pwm = d.pwm := rfl
@[simp] theorem Dev.putVal_axes (d : Dev) (a : Nat) (v : Val) : (d.putVal a v).axes = d.axes := rfl
@[simp] theorem Dev.putVal_rowDrives (d : Dev) (a : Nat) (v : Val) : (d.putVal a v).rowDrives = d.rowDrives := rfl
@[simp] theorem Dev.putVal_inp (d : Dev) (a : Nat) (v : Val) : (d.putVal a v).inp = d.inp := rfl
@[simp] theorem Dev.putVal_pose (d : Dev) (a : Nat) (v : Val) : (d.putVal a v).pose = d.pose := rfl
@[simp] theorem Dev.putVal_dec (d : Dev) (a : Nat) (v : Val) : (d.putVal a v).dec = d.dec := rfl
@[simp] theorem Dev.putVal_eng (d : Dev) (a : Nat) (v : Val) : (d.putVal a v).eng = d.eng := rfl
@[simp] theorem Dev.putVal_tiles (d : Dev) (a : Nat) (v : Val) : (d.putVal a v).tiles = d.tiles := rfl
@[simp] theorem Dev.putVal_tgt (d : Dev) (a : Nat) (v : Val) : (d.putVal a v).tgt = d.tgt := rfl
@[simp] theorem Dev.putVal_link (d : Dev) (a : Nat) (v : Val) : (d.putVal a v).link = d.link := rfl
@[simp] theorem Dev.putVal_ch (d : Dev) (a : Nat) (v : Val) : (d.putVal a v).ch = d.ch := rfl
@[simp] theorem Dev.putVal_swp (d : Dev) (a : Nat) (v : Val) : (d.putVal a v).swp = d.swp := rfl
@[simp] theorem Dev.putVal_gnss (d : Dev) (a : Nat) (v : Val) : (d.putVal a v).gnss = d.gnss := rfl
@[simp] theorem Dev.putVal_time (d : Dev) (a : Nat) (v : Val) : (d.putVal a v).time = d.time := rfl
@[simp] theorem Dev.putVal_rtc (d : Dev) (a : Nat) (v : Val) : (d.putVal a v).rtc = d.rtc := rfl
@[simp] theorem Dev.putVal_seq (d : Dev) (a : Nat) (v : Val) : (d.putVal a v).seq = d.seq := rfl
@[simp] theorem Dev.putVal_swap (d : Dev) (a : Nat) (v : Val) : (d.putVal a v).swap = d.swap := rfl
@[simp] theorem Dev.putVal_snap (d : Dev) (a : Nat) (v : Val) : (d.putVal a v).snap = d.snap := rfl
@[simp] theorem Dev.putVal_taken (d : Dev) (a : Nat) (v : Val) : (d.putVal a v).taken = d.taken := rfl
@[simp] theorem Dev.putVal_dic (d : Dev) (a : Nat) (v : Val) : (d.putVal a v).dic = d.dic := rfl
@[simp] theorem Dev.putVal_jrn (d : Dev) (a : Nat) (v : Val) : (d.putVal a v).jrn = d.jrn := rfl
@[simp] theorem Dev.putVal_rcd (d : Dev) (a : Nat) (v : Val) : (d.putVal a v).rcd = d.rcd := rfl
@[simp] theorem Dev.putVal_hlt (d : Dev) (a : Nat) (v : Val) : (d.putVal a v).hlt = d.hlt := rfl
@[simp] theorem Dev.putVal_lock (d : Dev) (a : Nat) (v : Val) : (d.putVal a v).lock = d.lock := rfl
@[simp] theorem Dev.putVal_diag (d : Dev) (a : Nat) (v : Val) : (d.putVal a v).diag = d.diag := rfl
@[simp] theorem Dev.putVal_can (d : Dev) (a : Nat) (v : Val) : (d.putVal a v).can = d.can := rfl
@[simp] theorem Dev.putVal_hp (d : Dev) (a : Nat) (v : Val) : (d.putVal a v).hp = d.hp := rfl
@[simp] theorem Dev.putVal_que (d : Dev) (a : Nat) (v : Val) : (d.putVal a v).que = d.que := rfl
@[simp] theorem Dev.putVal_nvm (d : Dev) (a : Nat) (v : Val) : (d.putVal a v).nvm = d.nvm := rfl
@[simp] theorem Dev.putVal_out (d : Dev) (a : Nat) (v : Val) : (d.putVal a v).out = d.out := rfl
@[simp] theorem Dev.putVal_draws (d : Dev) (a : Nat) (v : Val) : (d.putVal a v).draws = d.draws := rfl

@[simp] theorem Dev.send_pins (d : Dev) (e : Emit) : (d.send e).pins = d.pins := rfl
@[simp] theorem Dev.send_power (d : Dev) (e : Emit) : (d.send e).power = d.power := rfl
@[simp] theorem Dev.send_teth (d : Dev) (e : Emit) : (d.send e).teth = d.teth := rfl
@[simp] theorem Dev.send_pd (d : Dev) (e : Emit) : (d.send e).pd = d.pd := rfl
@[simp] theorem Dev.send_valve (d : Dev) (e : Emit) : (d.send e).valve = d.valve := rfl
@[simp] theorem Dev.send_lsw (d : Dev) (e : Emit) : (d.send e).lsw = d.lsw := rfl
@[simp] theorem Dev.send_pwm (d : Dev) (e : Emit) : (d.send e).pwm = d.pwm := rfl
@[simp] theorem Dev.send_axes (d : Dev) (e : Emit) : (d.send e).axes = d.axes := rfl
@[simp] theorem Dev.send_rowDrives (d : Dev) (e : Emit) : (d.send e).rowDrives = d.rowDrives := rfl
@[simp] theorem Dev.send_inp (d : Dev) (e : Emit) : (d.send e).inp = d.inp := rfl
@[simp] theorem Dev.send_pose (d : Dev) (e : Emit) : (d.send e).pose = d.pose := rfl
@[simp] theorem Dev.send_dec (d : Dev) (e : Emit) : (d.send e).dec = d.dec := rfl
@[simp] theorem Dev.send_eng (d : Dev) (e : Emit) : (d.send e).eng = d.eng := rfl
@[simp] theorem Dev.send_tiles (d : Dev) (e : Emit) : (d.send e).tiles = d.tiles := rfl
@[simp] theorem Dev.send_tgt (d : Dev) (e : Emit) : (d.send e).tgt = d.tgt := rfl
@[simp] theorem Dev.send_link (d : Dev) (e : Emit) : (d.send e).link = d.link := rfl
@[simp] theorem Dev.send_ch (d : Dev) (e : Emit) : (d.send e).ch = d.ch := rfl
@[simp] theorem Dev.send_swp (d : Dev) (e : Emit) : (d.send e).swp = d.swp := rfl
@[simp] theorem Dev.send_gnss (d : Dev) (e : Emit) : (d.send e).gnss = d.gnss := rfl
@[simp] theorem Dev.send_time (d : Dev) (e : Emit) : (d.send e).time = d.time := rfl
@[simp] theorem Dev.send_rtc (d : Dev) (e : Emit) : (d.send e).rtc = d.rtc := rfl
@[simp] theorem Dev.send_seq (d : Dev) (e : Emit) : (d.send e).seq = d.seq := rfl
@[simp] theorem Dev.send_swap (d : Dev) (e : Emit) : (d.send e).swap = d.swap := rfl
@[simp] theorem Dev.send_obj (d : Dev) (e : Emit) : (d.send e).obj = d.obj := rfl
@[simp] theorem Dev.send_snap (d : Dev) (e : Emit) : (d.send e).snap = d.snap := rfl
@[simp] theorem Dev.send_taken (d : Dev) (e : Emit) : (d.send e).taken = d.taken := rfl
@[simp] theorem Dev.send_dic (d : Dev) (e : Emit) : (d.send e).dic = d.dic := rfl
@[simp] theorem Dev.send_jrn (d : Dev) (e : Emit) : (d.send e).jrn = d.jrn := rfl
@[simp] theorem Dev.send_rcd (d : Dev) (e : Emit) : (d.send e).rcd = d.rcd := rfl
@[simp] theorem Dev.send_hlt (d : Dev) (e : Emit) : (d.send e).hlt = d.hlt := rfl
@[simp] theorem Dev.send_lock (d : Dev) (e : Emit) : (d.send e).lock = d.lock := rfl
@[simp] theorem Dev.send_diag (d : Dev) (e : Emit) : (d.send e).diag = d.diag := rfl
@[simp] theorem Dev.send_can (d : Dev) (e : Emit) : (d.send e).can = d.can := rfl
@[simp] theorem Dev.send_hp (d : Dev) (e : Emit) : (d.send e).hp = d.hp := rfl
@[simp] theorem Dev.send_que (d : Dev) (e : Emit) : (d.send e).que = d.que := rfl
@[simp] theorem Dev.send_nvm (d : Dev) (e : Emit) : (d.send e).nvm = d.nvm := rfl
@[simp] theorem Dev.send_draws (d : Dev) (e : Emit) : (d.send e).draws = d.draws := rfl

@[simp] theorem Dev.draw_pins (d : Dev) : (d.draw).pins = d.pins := rfl
@[simp] theorem Dev.draw_power (d : Dev) : (d.draw).power = d.power := rfl
@[simp] theorem Dev.draw_teth (d : Dev) : (d.draw).teth = d.teth := rfl
@[simp] theorem Dev.draw_pd (d : Dev) : (d.draw).pd = d.pd := rfl
@[simp] theorem Dev.draw_valve (d : Dev) : (d.draw).valve = d.valve := rfl
@[simp] theorem Dev.draw_lsw (d : Dev) : (d.draw).lsw = d.lsw := rfl
@[simp] theorem Dev.draw_pwm (d : Dev) : (d.draw).pwm = d.pwm := rfl
@[simp] theorem Dev.draw_axes (d : Dev) : (d.draw).axes = d.axes := rfl
@[simp] theorem Dev.draw_rowDrives (d : Dev) : (d.draw).rowDrives = d.rowDrives := rfl
@[simp] theorem Dev.draw_inp (d : Dev) : (d.draw).inp = d.inp := rfl
@[simp] theorem Dev.draw_pose (d : Dev) : (d.draw).pose = d.pose := rfl
@[simp] theorem Dev.draw_dec (d : Dev) : (d.draw).dec = d.dec := rfl
@[simp] theorem Dev.draw_eng (d : Dev) : (d.draw).eng = d.eng := rfl
@[simp] theorem Dev.draw_tiles (d : Dev) : (d.draw).tiles = d.tiles := rfl
@[simp] theorem Dev.draw_tgt (d : Dev) : (d.draw).tgt = d.tgt := rfl
@[simp] theorem Dev.draw_link (d : Dev) : (d.draw).link = d.link := rfl
@[simp] theorem Dev.draw_ch (d : Dev) : (d.draw).ch = d.ch := rfl
@[simp] theorem Dev.draw_swp (d : Dev) : (d.draw).swp = d.swp := rfl
@[simp] theorem Dev.draw_gnss (d : Dev) : (d.draw).gnss = d.gnss := rfl
@[simp] theorem Dev.draw_time (d : Dev) : (d.draw).time = d.time := rfl
@[simp] theorem Dev.draw_rtc (d : Dev) : (d.draw).rtc = d.rtc := rfl
@[simp] theorem Dev.draw_seq (d : Dev) : (d.draw).seq = d.seq := rfl
@[simp] theorem Dev.draw_swap (d : Dev) : (d.draw).swap = d.swap := rfl
@[simp] theorem Dev.draw_obj (d : Dev) : (d.draw).obj = d.obj := rfl
@[simp] theorem Dev.draw_snap (d : Dev) : (d.draw).snap = d.snap := rfl
@[simp] theorem Dev.draw_taken (d : Dev) : (d.draw).taken = d.taken := rfl
@[simp] theorem Dev.draw_dic (d : Dev) : (d.draw).dic = d.dic := rfl
@[simp] theorem Dev.draw_jrn (d : Dev) : (d.draw).jrn = d.jrn := rfl
@[simp] theorem Dev.draw_rcd (d : Dev) : (d.draw).rcd = d.rcd := rfl
@[simp] theorem Dev.draw_hlt (d : Dev) : (d.draw).hlt = d.hlt := rfl
@[simp] theorem Dev.draw_lock (d : Dev) : (d.draw).lock = d.lock := rfl
@[simp] theorem Dev.draw_diag (d : Dev) : (d.draw).diag = d.diag := rfl
@[simp] theorem Dev.draw_can (d : Dev) : (d.draw).can = d.can := rfl
@[simp] theorem Dev.draw_hp (d : Dev) : (d.draw).hp = d.hp := rfl
@[simp] theorem Dev.draw_que (d : Dev) : (d.draw).que = d.que := rfl
@[simp] theorem Dev.draw_nvm (d : Dev) : (d.draw).nvm = d.nvm := rfl
@[simp] theorem Dev.draw_out (d : Dev) : (d.draw).out = d.out := rfl

@[simp] theorem Dev.at_pins (d : Dev) (t : Nat) : (d.at t).pins = d.pins := rfl
@[simp] theorem Dev.at_power (d : Dev) (t : Nat) : (d.at t).power = d.power := rfl
@[simp] theorem Dev.at_teth (d : Dev) (t : Nat) : (d.at t).teth = d.teth := rfl
@[simp] theorem Dev.at_pd (d : Dev) (t : Nat) : (d.at t).pd = d.pd := rfl
@[simp] theorem Dev.at_valve (d : Dev) (t : Nat) : (d.at t).valve = d.valve := rfl
@[simp] theorem Dev.at_lsw (d : Dev) (t : Nat) : (d.at t).lsw = d.lsw := rfl
@[simp] theorem Dev.at_pwm (d : Dev) (t : Nat) : (d.at t).pwm = d.pwm := rfl
@[simp] theorem Dev.at_axes (d : Dev) (t : Nat) : (d.at t).axes = d.axes := rfl
@[simp] theorem Dev.at_rowDrives (d : Dev) (t : Nat) : (d.at t).rowDrives = d.rowDrives := rfl
@[simp] theorem Dev.at_inp (d : Dev) (t : Nat) : (d.at t).inp = d.inp := rfl
@[simp] theorem Dev.at_pose (d : Dev) (t : Nat) : (d.at t).pose = d.pose := rfl
@[simp] theorem Dev.at_dec (d : Dev) (t : Nat) : (d.at t).dec = d.dec := rfl
@[simp] theorem Dev.at_eng (d : Dev) (t : Nat) : (d.at t).eng = d.eng := rfl
@[simp] theorem Dev.at_tiles (d : Dev) (t : Nat) : (d.at t).tiles = d.tiles := rfl
@[simp] theorem Dev.at_tgt (d : Dev) (t : Nat) : (d.at t).tgt = d.tgt := rfl
@[simp] theorem Dev.at_link (d : Dev) (t : Nat) : (d.at t).link = d.link := rfl
@[simp] theorem Dev.at_ch (d : Dev) (t : Nat) : (d.at t).ch = d.ch := rfl
@[simp] theorem Dev.at_swp (d : Dev) (t : Nat) : (d.at t).swp = d.swp := rfl
@[simp] theorem Dev.at_gnss (d : Dev) (t : Nat) : (d.at t).gnss = d.gnss := rfl
@[simp] theorem Dev.at_rtc (d : Dev) (t : Nat) : (d.at t).rtc = d.rtc := rfl
@[simp] theorem Dev.at_seq (d : Dev) (t : Nat) : (d.at t).seq = d.seq := rfl
@[simp] theorem Dev.at_swap (d : Dev) (t : Nat) : (d.at t).swap = d.swap := rfl
@[simp] theorem Dev.at_obj (d : Dev) (t : Nat) : (d.at t).obj = d.obj := rfl
@[simp] theorem Dev.at_snap (d : Dev) (t : Nat) : (d.at t).snap = d.snap := rfl
@[simp] theorem Dev.at_taken (d : Dev) (t : Nat) : (d.at t).taken = d.taken := rfl
@[simp] theorem Dev.at_dic (d : Dev) (t : Nat) : (d.at t).dic = d.dic := rfl
@[simp] theorem Dev.at_jrn (d : Dev) (t : Nat) : (d.at t).jrn = d.jrn := rfl
@[simp] theorem Dev.at_rcd (d : Dev) (t : Nat) : (d.at t).rcd = d.rcd := rfl
@[simp] theorem Dev.at_hlt (d : Dev) (t : Nat) : (d.at t).hlt = d.hlt := rfl
@[simp] theorem Dev.at_lock (d : Dev) (t : Nat) : (d.at t).lock = d.lock := rfl
@[simp] theorem Dev.at_diag (d : Dev) (t : Nat) : (d.at t).diag = d.diag := rfl
@[simp] theorem Dev.at_can (d : Dev) (t : Nat) : (d.at t).can = d.can := rfl
@[simp] theorem Dev.at_hp (d : Dev) (t : Nat) : (d.at t).hp = d.hp := rfl
@[simp] theorem Dev.at_que (d : Dev) (t : Nat) : (d.at t).que = d.que := rfl
@[simp] theorem Dev.at_nvm (d : Dev) (t : Nat) : (d.at t).nvm = d.nvm := rfl
@[simp] theorem Dev.at_out (d : Dev) (t : Nat) : (d.at t).out = d.out := rfl
@[simp] theorem Dev.at_draws (d : Dev) (t : Nat) : (d.at t).draws = d.draws := rfl

@[simp] theorem Dev.putVal_obj (d : Dev) (a : Nat) (v : Val) : (d.putVal a v).obj = storeSet d.obj a v := rfl
@[simp] theorem Dev.send_out (d : Dev) (e : Emit) : (d.send e).out = d.out ++ [e] := rfl
@[simp] theorem Dev.at_now (d : Dev) (t : Nat) : (d.at t).time.now = max d.time.now t := rfl
@[simp] theorem Dev.at_state (d : Dev) (t : Nat) : (d.at t).time.state = d.time.state := rfl
@[simp] theorem Dev.at_offset (d : Dev) (t : Nat) : (d.at t).time.offset = d.time.offset := rfl

end Sys2Proof.Machine
end

