-- ==== Sys2Proof/Laws/Store.lean ====
section
/-! SUPPORT. Object stores and buffers: reading after writing, and the canonical form that every operation keeps. -/

namespace Sys2Proof.Machine

/-! ### Reading after writing -/

theorem storeFind_put_same (s : Store) (a : Nat) (v : Val) : storeFind (storePut s a v) a = some v := by
  induction s with
  | nil => simp [storePut, storeFind]
  | cons x r ih =>
    obtain ⟨b, w⟩ := x
    simp only [storePut]
    split
    · simp [storeFind]
    · split
      · simp [storeFind]
      · rename_i h
        simp [storeFind, h, ih]

theorem storeFind_put_other (s : Store) (a b : Nat) (v : Val) (h : b ≠ a) :
    storeFind (storePut s a v) b = storeFind s b := by
  induction s with
  | nil => simp [storePut, storeFind, h]
  | cons x r ih =>
    obtain ⟨c, w⟩ := x
    simp only [storePut]
    split
    · simp [storeFind, h]
    · split
      · rename_i hc
        subst hc
        simp [storeFind, h]
      · simp only [storeFind, ih]

theorem storeFind_drop_same (s : Store) (a : Nat) : storeFind (storeDrop s a) a = none := by
  induction s with
  | nil => rfl
  | cons x r ih =>
    obtain ⟨b, w⟩ := x
    simp only [storeDrop]
    split
    · exact ih
    · rename_i h
      simp [storeFind, h, ih]

theorem storeFind_drop_other (s : Store) (a b : Nat) (h : b ≠ a) : storeFind (storeDrop s a) b = storeFind s b := by
  induction s with
  | nil => rfl
  | cons x r ih =>
    obtain ⟨c, w⟩ := x
    simp only [storeDrop]
    split
    · rename_i hc
      subst hc
      simp [storeFind, h, ih]
    · simp only [storeFind, ih]

theorem storeFind_set_other (s : Store) (a b : Nat) (v : Val) (h : b ≠ a) :
    storeFind (storeSet s a v) b = storeFind s b := by
  by_cases hv : v = objDefault a
  · rw [storeSet, if_pos hv, storeFind_drop_other _ _ _ h]
  · rw [storeSet, if_neg hv, storeFind_put_other _ _ _ _ h]

@[simp] theorem storeGet_set_same (s : Store) (a : Nat) (v : Val) : storeGet (storeSet s a v) a = v := by
  by_cases hv : v = objDefault a
  · rw [storeSet, if_pos hv, storeGet, storeFind_drop_same, hv]
  · rw [storeSet, if_neg hv, storeGet, storeFind_put_same]

theorem storeGet_set_other (s : Store) (a b : Nat) (v : Val) (h : b ≠ a) :
    storeGet (storeSet s a v) b = storeGet s b := by rw [storeGet, storeGet, storeFind_set_other _ _ _ _ h]

theorem storeGet_put_same (s : Store) (a : Nat) (v : Val) : storeGet (storePut s a v) a = v := by
  rw [storeGet, storeFind_put_same]

theorem storeGet_put_other (s : Store) (a b : Nat) (v : Val) (h : b ≠ a) :
    storeGet (storePut s a v) b = storeGet s b := by rw [storeGet, storeGet, storeFind_put_other _ _ _ _ h]

theorem storeGet_putVal_other (d : Dev) (a b : Nat) (v : Val) (h : b ≠ a) :
    storeGet (d.putVal a v).obj b = storeGet d.obj b := storeGet_set_other _ _ _ _ h

@[simp] theorem Dev.int_put_same (d : Dev) (a : Nat) (v : Int) : (d.put a v).int a = v := by
  rw [Dev.int, Dev.put, Dev.putVal, storeGet_set_same, valInt]

theorem Dev.int_put_other (d : Dev) (a b : Nat) (v : Int) (h : b ≠ a) : (d.put a v).int b = d.int b := by
  rw [Dev.int, Dev.put, Dev.putVal, storeGet_set_other _ _ _ _ h, Dev.int]

/-! ### The canonical form -/

theorem storeWfFrom_mono {lo hi : Nat} (h : lo ≤ hi) : ∀ s, storeWfFrom hi s = true → storeWfFrom lo s = true
  | [], _ => rfl
  | (a, v) :: r, w => by
    simp only [storeWfFrom, Bool.and_eq_true, decide_eq_true_eq] at w ⊢
    exact ⟨le_trans h w.1, w.2⟩

theorem storePut_wfFrom (s : Store) : ∀ (lo a : Nat) (v : Val), lo ≤ a → storeWfFrom lo s = true →
    storeWfFrom lo (storePut s a v) = true := by
  induction s with
  | nil => intro lo a v h _; simp [storePut, storeWfFrom, h]
  | cons x r ih =>
    obtain ⟨b, w⟩ := x
    intro lo a v h hs
    simp only [storeWfFrom, Bool.and_eq_true, decide_eq_true_eq] at hs
    simp only [storePut]
    split
    · rename_i hab
      simp only [storeWfFrom, Bool.and_eq_true, decide_eq_true_eq]
      exact ⟨h, by omega, hs.2⟩
    · split
      · rename_i hab
        subst hab
        simp [storeWfFrom, h, hs.2]
      · rename_i h1 h2
        simp only [storeWfFrom, Bool.and_eq_true, decide_eq_true_eq]
        exact ⟨hs.1, ih _ _ _ (by omega) hs.2⟩

theorem storeDrop_wfFrom (s : Store) : ∀ (lo a : Nat), storeWfFrom lo s = true → storeWfFrom lo (storeDrop s a) = true := by
  induction s with
  | nil => intro lo a _; rfl
  | cons x r ih =>
    obtain ⟨b, w⟩ := x
    intro lo a hs
    simp only [storeWfFrom, Bool.and_eq_true, decide_eq_true_eq] at hs
    simp only [storeDrop]
    split
    · exact ih _ _ (storeWfFrom_mono (by omega) _ hs.2)
    · simp only [storeWfFrom, Bool.and_eq_true, decide_eq_true_eq]
      exact ⟨hs.1, ih _ _ hs.2⟩

/-- Entering a value keeps a store canonical. -/
theorem storePut_wf (s : Store) (a : Nat) (v : Val) (h : storeWf s = true) : storeWf (storePut s a v) = true :=
  storePut_wfFrom s 0 a v (Nat.zero_le _) h

/-- Setting an object keeps a store canonical. -/
theorem storeSet_wf (s : Store) (a : Nat) (v : Val) (h : storeWf s = true) : storeWf (storeSet s a v) = true := by
  unfold storeSet
  split
  · exact storeDrop_wfFrom s 0 a h
  · exact storePut_wf s a v h

/-- Overlaying a store keeps a store canonical. -/
theorem storeMerge_wf (l : Store) : ∀ s, storeWf s = true → storeWf (storeMerge s l) = true := by
  induction l with
  | nil => intro s h; exact h
  | cons x r ih => intro s h; exact ih _ (storeSet_wf s x.1 x.2 h)

theorem storeKeep_wfFrom (p : Nat → Bool) (s : Store) : ∀ lo, storeWfFrom lo s = true →
    storeWfFrom lo (storeKeep p s) = true := by
  induction s with
  | nil => intro lo _; rfl
  | cons x r ih =>
    obtain ⟨b, w⟩ := x
    intro lo hs
    simp only [storeWfFrom, Bool.and_eq_true, decide_eq_true_eq] at hs
    simp only [storeKeep]
    split
    · simp only [storeWfFrom, Bool.and_eq_true, decide_eq_true_eq]
      exact ⟨hs.1, ih _ hs.2⟩
    · exact ih _ (storeWfFrom_mono (by omega) _ hs.2)

/-- Keeping some entries keeps a store canonical. -/
theorem storeKeep_wf (p : Nat → Bool) (s : Store) (h : storeWf s = true) : storeWf (storeKeep p s) = true :=
  storeKeep_wfFrom p s 0 h

/-! ### Buffers -/

theorem cellRead_write_same (m : List Host.Cell) (a : Nat) (v : Byte) (lo : Nat) (h : cellsWfFrom lo m = true) :
    cellRead (cellWrite m a v) a = v := by
  induction m generalizing lo with
  | nil => by_cases hv : v = 0#8 <;> simp [cellWrite, cellRead, hv]
  | cons x r ih =>
    obtain ⟨b, w⟩ := x
    simp only [cellsWfFrom, Bool.and_eq_true, decide_eq_true_eq] at h
    have gone : ∀ (r : List Host.Cell) (lo : Nat), a < lo → cellsWfFrom lo r = true → cellRead r a = 0 := by
      intro r
      induction r with
      | nil => intro _ _ _; rfl
      | cons y q ihq =>
        obtain ⟨c, u⟩ := y
        intro lo hlo hw
        simp only [cellsWfFrom, Bool.and_eq_true, decide_eq_true_eq] at hw
        have : a ≠ c := by omega
        simp only [cellRead, this, if_false]
        exact ihq (c + 1) (by omega) hw.2
    simp only [cellWrite]
    split
    · rename_i hab
      split
      · rename_i hv
        have : a ≠ b := by omega
        simp only [cellRead, this, if_false, hv]
        exact gone r (b + 1) (by omega) h.2
      · simp [cellRead]
    · split
      · rename_i hab
        subst hab
        split
        · rename_i hv
          rw [hv]
          exact gone r (a + 1) (by omega) h.2
        · simp [cellRead]
      · rename_i h2
        simp only [cellRead, h2, if_false]
        exact ih (b + 1) h.2

theorem cellRead_write_other (m : List Host.Cell) (a b : Nat) (v : Byte) (h : b ≠ a) :
    cellRead (cellWrite m a v) b = cellRead m b := by
  induction m with
  | nil => by_cases hv : v = 0#8 <;> simp [cellWrite, cellRead, hv, h]
  | cons x r ih =>
    obtain ⟨c, w⟩ := x
    simp only [cellWrite]
    split
    · split
      · rfl
      · simp [cellRead, h]
    · split
      · rename_i hc
        subst hc
        split
        · simp [cellRead, h]
        · simp [cellRead, h]
      · simp only [cellRead, ih]

theorem cellsWfFrom_mono {lo hi : Nat} (h : lo ≤ hi) : ∀ m, cellsWfFrom hi m = true → cellsWfFrom lo m = true
  | [], _ => rfl
  | (a, v) :: r, w => by
    simp only [cellsWfFrom, Bool.and_eq_true, decide_eq_true_eq] at w ⊢
    exact ⟨⟨le_trans h w.1.1, w.1.2⟩, w.2⟩

theorem cellWrite_wfFrom (m : List Host.Cell) : ∀ (lo a : Nat) (v : Byte), lo ≤ a → cellsWfFrom lo m = true →
    cellsWfFrom lo (cellWrite m a v) = true := by
  induction m with
  | nil => intro lo a v h _; by_cases hv : v = 0#8 <;> simp [cellWrite, cellsWfFrom, hv, h]
  | cons x r ih =>
    obtain ⟨b, w⟩ := x
    intro lo a v h hs
    have hs' := hs
    simp only [cellsWfFrom, Bool.and_eq_true, decide_eq_true_eq] at hs
    simp only [cellWrite]
    split
    · split
      · exact hs'
      · rename_i hab hv
        simp only [cellsWfFrom, Bool.and_eq_true, decide_eq_true_eq]
        exact ⟨⟨h, by simpa using hv⟩, ⟨by omega, hs.1.2⟩, hs.2⟩
    · split
      · rename_i hab
        subst hab
        split
        · exact cellsWfFrom_mono (by omega) _ hs.2
        · rename_i hv
          simp only [cellsWfFrom, Bool.and_eq_true, decide_eq_true_eq]
          exact ⟨⟨h, by simpa using hv⟩, hs.2⟩
      · simp only [cellsWfFrom, Bool.and_eq_true, decide_eq_true_eq]
        exact ⟨hs.1, ih _ _ _ (by omega) hs.2⟩

/-- Writing a byte keeps a buffer canonical. -/
theorem cellWrite_wf (m : List Host.Cell) (a : Nat) (v : Byte) (h : cellsWf m = true) : cellsWf (cellWrite m a v) = true :=
  cellWrite_wfFrom m 0 a v (Nat.zero_le _) h

/-- Writing bytes keeps a buffer canonical. -/
theorem cellsWrite_wf (bs : List Byte) : ∀ (m : List Host.Cell) (a : Nat), cellsWf m = true →
    cellsWf (cellsWrite m a bs) = true := by
  induction bs with
  | nil => intro m a h; exact h
  | cons v r ih => intro m a h; exact ih _ _ (cellWrite_wf m a v h)

end Sys2Proof.Machine
end

