-- ==== Sys2Proof/Laws/Ops.lean ====
section
/-! SUPPORT. What the shared operations of a command can do, said once: acting, handing messages to the link, raising an
event, counting a fault. -/

namespace Sys2Proof.Machine

/-! ### Frames -/

theorem Frame.refl (ps : List Part) (d : Dev) : Frame ps d d := by
  intro p _
  cases p <;> exact rfl

theorem Part.same_trans (p : Part) {a b c : Dev} (h : p.same a b) (k : p.same b c) : p.same a c := by
  cases p <;> exact Eq.trans h k

theorem Frame.trans {ps : List Part} {a b c : Dev} (h : Frame ps a b) (k : Frame ps b c) : Frame ps a c :=
  fun p hp => p.same_trans (h p hp) (k p hp)

theorem Frame.mono {ps qs : List Part} (hs : ∀ p, p ∈ ps → p ∈ qs) {a b : Dev} (h : Frame ps a b) : Frame qs a b :=
  fun p hp => h p fun hq => hp (hs p hq)

theorem ObjFrame.refl (p : Nat → Bool) (d : Dev) : ObjFrame p d d := fun _ _ => rfl

theorem ObjFrame.trans {p : Nat → Bool} {a b c : Dev} (h : ObjFrame p a b) (k : ObjFrame p b c) : ObjFrame p a c :=
  fun x hx => (k x hx).trans (h x hx)

theorem ObjFrame.mono {p q : Nat → Bool} (hs : ∀ x, p x = true → q x = true) {a b : Dev} (h : ObjFrame p a b) :
    ObjFrame q a b := fun x hx => h x (by
  cases hp : p x
  · rfl
  · rw [hs x hp] at hx; exact absurd hx (by decide))

theorem Dev.putVal_frame (ps : List Part) (d : Dev) (a : Nat) (v : Val) : Frame ps d (d.putVal a v) := by
  intro p _
  cases p <;> exact rfl

theorem Dev.putVal_objFrame (d : Dev) (a : Nat) (v : Val) : ObjFrame (among [a]) d (d.putVal a v) := by
  intro x hx
  refine storeGet_putVal_other d a x v ?_
  intro e
  subst e
  simp [among] at hx

/-! ### Acting -/

/-- A command that acts answers a next state with the queue as it was. -/
theorem State.act_eq (s : State) (t : Nat) (f : Dev → Dev) :
    s.act t f = .next { s with dev := (f (({ s.dev with out := [] } : Dev).at t)).linkOut } := rfl

/-- While the logic die runs, its commands act. -/
theorem State.logic_eq (s : State) (t : Nat) (f : Dev → Dev) (h : s.dev.power.run = .running) :
    s.logic t f = .next { s with dev := (f (({ s.dev with out := [] } : Dev).at t)).linkOut } := by
  have h' : (({ s.dev with out := [] } : Dev).at t).power.run = .running := h
  rw [State.logic, State.act_eq]
  simp only [h', if_true]

/-- While the logic die does not run, its commands change nothing but the clock. -/
theorem State.logic_idle (s : State) (t : Nat) (f : Dev → Dev) (h : s.dev.power.run ≠ .running) :
    s.logic t f = .next { s with dev := (({ s.dev with out := [] } : Dev).at t).linkOut } := by
  have h' : (({ s.dev with out := [] } : Dev).at t).power.run ≠ .running := h
  rw [State.logic, State.act_eq]
  simp only [h', if_false]

/-! ### The link -/

theorem countOut_frame : ∀ (l : List Emit) (d : Dev), ∃ o, countOut l d = { d with obj := o }
  | [], d => ⟨d.obj, rfl⟩
  | e :: r, d => by
    rw [countOut]
    cases busCounter e with
    | none => exact countOut_frame r d
    | some a =>
      obtain ⟨o, h⟩ := countOut_frame r (d.bump a)
      exact ⟨o, h⟩

theorem pushOut_frame : ∀ (l : List Emit) (d : Dev), ∃ k, (pushOut l d).2 = { d with link := k }
  | [], d => ⟨d.link, rfl⟩
  | e :: r, d => by
    rw [pushOut]
    cases d.route e with
    | none => exact pushOut_frame r d
    | some x =>
      obtain ⟨cls, kind, dest⟩ := x
      dsimp only
      cases d.portTo dest with
      | none => exact pushOut_frame r d
      | some p =>
        obtain ⟨k, h⟩ := pushOut_frame r (d.classLink p cls fun _ => ((d.getClass p cls).push d.time.now kind dest e).1)
        exact ⟨k, h⟩

/-- Handing what a command sends to the link changes the replay buffers, the frame counters and what is sent, and no
other part of the device. -/
theorem Dev.linkOut_frame (d : Dev) : ∃ l o q, d.linkOut = { d with link := l, obj := o, out := q } := by
  obtain ⟨o, ho⟩ := countOut_frame d.out d
  obtain ⟨k, hk⟩ := pushOut_frame d.out (countOut d.out d)
  refine ⟨k, o, (pushOut d.out (countOut d.out d)).1, ?_⟩
  rw [Dev.linkOut, hk, ho]

/-- With nothing to send the link leaves the device alone. -/
theorem Dev.linkOut_nil (d : Dev) (h : d.out = []) : d.linkOut = d := by
  rw [Dev.linkOut, h, countOut, pushOut, ← h]

/-- Every part but the link is as it was. -/
theorem Dev.linkOut_same (d : Dev) (ps : List Part) (h : Part.link ∈ ps) : Frame ps d d.linkOut := by
  obtain ⟨l, o, q, e⟩ := d.linkOut_frame
  rw [e]
  intro p hp
  cases p
  case link => exact absurd h hp
  all_goals exact rfl

/-! ### Events -/

theorem Dev.emcy_frame (d : Dev) (code event : Nat) :
    ∃ c o q, d.emcy code event = { d with can := c, obj := o, out := q } := by
  unfold Dev.emcy
  dsimp only
  repeat' split
  all_goals exact ⟨_, _, _, rfl⟩

theorem Dev.dtc_frame (d : Dev) (code kind unit : Nat) :
    ∃ g c o q, d.dtc code kind unit = { d with diag := g, can := c, obj := o, out := q } := by
  unfold Dev.dtc
  split
  · split
    · obtain ⟨c, o, q, h⟩ := d.emcy_frame 0x8140 code
      exact ⟨d.diag, c, o, q, h⟩
    · exact ⟨d.diag, d.can, d.obj, d.out, rfl⟩
  · split
    · obtain ⟨c, o, q, h⟩ := Dev.emcy_frame { d with diag := { d.diag with dtcs := dtcSet code unit true d.diag.dtcs, fresh := true } } _ code
      exact ⟨_, c, o, q, h⟩
    · split
      · dsimp only
        obtain ⟨c, o, q, h⟩ := Dev.emcy_frame { d with diag := { d.diag with dtcs := dtcSet code unit false d.diag.dtcs } }
          (if (({ d with diag := { d.diag with dtcs := dtcSet code unit false d.diag.dtcs } } : Dev).diag.dtcs.any
            fun x => x.active) = true then _ else 0) code
        exact ⟨_, c, o, q, h⟩
      · exact ⟨d.diag, d.can, d.obj, d.out, rfl⟩

/-- R448: recording an event changes the recorder, and objects. -/
theorem Dev.record_frame (d : Dev) (e : Event) : ∃ r o, d.record e = { d with rcd := r, obj := o } := by
  unfold Dev.record
  split
  · exact ⟨_, _, rfl⟩
  · split
    · exact ⟨_, _, rfl⟩
    · exact ⟨_, d.obj, rfl⟩

/-- R445: raising an event changes the recorder's buffer, the trouble codes, the EMCY queue and what is sent, and
objects. -/
theorem Dev.raise_frame (d : Dev) (code kind unit : Nat) (items : List (Nat × Int)) :
    ∃ r g c o q, d.raise code kind unit items = { d with rcd := r, diag := g, can := c, obj := o, out := q } := by
  obtain ⟨g, c, o, q, h⟩ := d.dtc_frame code kind unit
  obtain ⟨r, o', h'⟩ := (d.dtc code kind unit).record_frame ((d.dtc code kind unit).eventOf code kind unit items)
  refine ⟨r, g, c, o', q, ?_⟩
  rw [Dev.raise, h', h]

/-- R445: raising an event leaves every part alone but those of the event. -/
theorem Dev.raise_same (d : Dev) (code kind unit : Nat) (items : List (Nat × Int)) (ps : List Part)
    (h : ∀ p, p ∈ eventParts → p ∈ ps) : Frame ps d (d.raise code kind unit items) := by
  obtain ⟨r, g, c, o, q, e⟩ := d.raise_frame code kind unit items
  rw [e]
  intro p hp
  cases p
  case rcd => exact absurd (h _ (by simp [eventParts])) hp
  case diag => exact absurd (h _ (by simp [eventParts])) hp
  case can => exact absurd (h _ (by simp [eventParts])) hp
  all_goals exact rfl

end Sys2Proof.Machine
end

