-- ==== Sys2Proof/Laws/Rules.lean ====
section
/-! SUPPORT. How a rule about a command is shown: what the command does to the cleared device at its instant carries over
to the next state when nothing of it goes by the link or a CAN bus, or up to the link and the frame counters. -/

namespace Sys2Proof.Machine

/-- What leaves neither by the link nor by a CAN bus. -/
def plain (d : Dev) : Bool := d.out.all fun e => (busCounter e).isNone && (d.route e).isNone

theorem countOut_plain (l : List Emit) (d : Dev) (h : ∀ e ∈ l, busCounter e = none) : countOut l d = d := by
  induction l with
  | nil => rfl
  | cons e r ih =>
    rw [countOut, h e (by simp)]
    exact ih fun x hx => h x (by simp [hx])

theorem pushOut_plain (l : List Emit) (d : Dev) (h : ∀ e ∈ l, d.route e = none) : pushOut l d = (l, d) := by
  induction l with
  | nil => rfl
  | cons e r ih =>
    rw [pushOut, h e (by simp)]
    simp only [ih fun x hx => h x (by simp [hx])]

/-- What the link does not carry leaves the device as it is. -/
theorem Dev.linkOut_plain (d : Dev) (h : plain d = true) : d.linkOut = d := by
  simp only [plain, List.all_eq_true, Bool.and_eq_true, Option.isNone_iff_eq_none] at h
  rw [Dev.linkOut, countOut_plain d.out d fun e he => (h e he).1, pushOut_plain d.out d fun e he => (h e he).2]

/-- The cleared device at an instant. -/
def State.cleared (s : State) (t : Nat) : Dev := ({ s.dev with out := [] } : Dev).at t

@[simp] theorem State.cleared_obj (s : State) (t : Nat) : (s.cleared t).obj = s.dev.obj := rfl
@[simp] theorem State.cleared_out (s : State) (t : Nat) : (s.cleared t).out = [] := rfl
@[simp] theorem State.cleared_now (s : State) (t : Nat) : (s.cleared t).time.now = s.nowAt t := rfl
@[simp] theorem State.cleared_chain (s : State) (t : Nat) : (s.cleared t).chain = s.chainAt t := rfl
@[simp] theorem State.cleared_int (s : State) (t a : Nat) : (s.cleared t).int a = s.dev.int a := rfl
@[simp] theorem State.cleared_nat (s : State) (t a : Nat) : (s.cleared t).nat a = s.dev.nat a := rfl
@[simp] theorem State.cleared_flag (s : State) (t a : Nat) : (s.cleared t).flag a = s.dev.flag a := rfl
@[simp] theorem State.cleared_taken (s : State) (t : Nat) : (s.cleared t).taken = s.dev.taken := rfl

theorem State.cleared_same (s : State) (t : Nat) (ps : List Part) : Frame ps s.dev (s.cleared t) := by
  intro p _
  cases p <;> exact rfl

/-- A rule whose command acts, and sends nothing by the link or a bus. -/
theorem Rule.holds_act {α : Type} (r : Rule α) (t : α → State → Nat) (f : α → State → Dev → Dev)
    (he : ∀ a c s, r.cmd a c → r.pre a s → exec c s = s.act (t a s) (f a s))
    (h : ∀ a s, r.pre a s → plain (f a s (s.cleared (t a s))) = true ∧ Frame r.parts s.dev (f a s (s.cleared (t a s))) ∧
      ObjFrame (r.objs a) s.dev (f a s (s.cleared (t a s))) ∧ r.post a s (f a s (s.cleared (t a s)))) : r.Holds := by
  intro a c s hc hp
  obtain ⟨h1, h2, h3, h4⟩ := h a s hp
  refine ⟨{ s with dev := f a s (s.cleared (t a s)) }, ?_, rfl, h2, h3, h4⟩
  rw [he a c s hc hp, State.act_eq]
  congr 2
  exact Dev.linkOut_plain _ h1

/-- The same for a command that acts while the logic die runs. -/
theorem Rule.holds_logic {α : Type} (r : Rule α) (t : α → State → Nat) (f : α → State → Dev → Dev)
    (he : ∀ a c s, r.cmd a c → r.pre a s → exec c s = s.logic (t a s) (f a s)) (hr : ∀ a s, r.pre a s → Runs s)
    (h : ∀ a s, r.pre a s → plain (f a s (s.cleared (t a s))) = true ∧ Frame r.parts s.dev (f a s (s.cleared (t a s))) ∧
      ObjFrame (r.objs a) s.dev (f a s (s.cleared (t a s))) ∧ r.post a s (f a s (s.cleared (t a s)))) : r.Holds := by
  refine r.holds_act t f (fun a c s hc hp => ?_) h
  rw [he a c s hc hp, State.logic_eq s _ _ (hr a s hp), State.act_eq]

end Sys2Proof.Machine
end

