-- ==== Sys2Proof/WellFormed.lean ====
section
/-! DEFINITION. The well-formed commands: each number lies in the range of the field that carries it. A command of the
queue may be ill-formed; its meaning then takes the number as it is. -/

namespace Sys2Proof

/-- A time of the bench, ns (R35). -/
def isTime (t : Nat) : Bool := t < 2 ^ 64

/-- R380: a U8. -/
def isU8 (n : Nat) : Bool := n < 2 ^ 8

/-- R380: a U16. -/
def isU16 (n : Nat) : Bool := n < 2 ^ 16

/-- R380: a U32: a batch number (R43), a sequence (R403), a coordinate (R129). -/
def isU32 (n : Nat) : Bool := n < 2 ^ 32

/-- R380: a U64: a NAME (R363). -/
def isU64 (n : Nat) : Bool := n < 2 ^ 64

/-- R18: a 24-bit address. -/
def isAddr (a : Nat) : Bool := a < 2 ^ 24

/-- R365: a PGN, 18 bits. -/
def isU24 (p : Nat) : Bool := p < 2 ^ 18

/-- R206: a duty in 0.01 %. -/
def isDuty (d : Nat) : Bool := d ≤ 10000

/-- R292: class 2 or 3. -/
def isClass (c : Nat) : Bool := c = 2 || c = 3

/-- R304: a chain position, or 32 and more for a guest. -/
def isNode (p : Nat) : Bool := p < 48

/-- R30: a token count. -/
def isToken (c : Nat) : Bool := c < 16

/-- Table 7.7: a cause of a dray fault. -/
def isDrayCause (c : Nat) : Bool := 1 ≤ c && c ≤ 6

/-- R156: records of a target message. -/
def isRecords (c : Nat) : Bool := c ≤ 16

/-- Table 6.1: the source of a record: a guest, or 16 for the host. -/
def isSource (s : Nat) : Bool := s ≤ 16

/-- R370: a node ID of CANopen; 0 addresses every node. -/
def isCanNode (n : Nat) : Bool := n ≤ 127

/-- R380: a value: a number of at most 64 bits, or a byte string of at most 131,072 bytes. -/
def isValue : Val → Bool
  | .num v => -2 ^ 63 ≤ v && v < 2 ^ 64
  | .bytes b => b.length ≤ 131072

/-- R374: bytes of one transfer. -/
def isBytes (b : List Byte) : Bool := b.length ≤ 131072

/-- R156: the records of one message. -/
def isMessage (r : List TargetRec) : Bool := r.length ≤ 16

/-- R22: a power-link frame. -/
def isFrame (f : PlFrame) : Bool := 0 ≤ f.instant && f.instant < 2 ^ 64

/-- Every number of a command lies in the range of its field. -/
def Instr.wf : Instr → Bool
  | .powerOnReset _ t => isTime t
  | .boot _ t => isTime t
  | .chainTimeSeed _ t => isTime t
  | .seedWaitExpiry t => isTime t
  | .clockLockLoss t => isTime t
  | .clockLockHeld _ t => isTime t
  | .nrstAssert lowNs t => isTime lowNs && isTime t
  | .debugPortReset t => isTime t
  | .debugHalt _ t => isTime t
  | .vbatApplied v1 v2 t => isU16 v1 && isU16 v2 && isTime t
  | .powerDieAbsent t => isTime t
  | .powerDieReset v1 v2 t => isU16 v1 && isU16 v2 && isTime t
  | .vbatUndervoltage v1 v2 t => isU16 v1 && isU16 v2 && isTime t
  | .vbatReverse t => isTime t
  | .loadDump v1 v2 t => isU16 v1 && isU16 v2 && isTime t
  | .pgndOpen t => isTime t
  | .powerLinkCommand _ frame t => isFrame frame && isTime t
  | .negativeAcknowledgement id t => isU16 id.frame && isTime t
  | .tetherToken t => isTime t
  | .permissionRefresh t => isTime t
  | .permissionLapse _ t => isTime t
  | .tetherTokenReceived _ count _ t => isToken count && isTime t
  | .tetherSilence t => isTime t
  | .supervisionCheck _ _ t => isTime t
  | .supervisionReset t => isTime t
  | .batchBoundary _ => true
  | .phaseBStart => true
  | .phaseBDeadline => true
  | .phaseDStart => true
  | .statusSnapshot => true
  | .taskRelease task => isU32 task
  | .taskTake _ => true
  | .taskResultWrite _ t => isTime t
  | .stealRequest _ _ t => isTime t
  | .stealRetry _ t => isTime t
  | .drayFault _ cause t => isDrayCause cause && isTime t
  | .drayStepOverrun _ t => isTime t
  | .meshTimeout _ t => isTime t
  | .draySelfTest _ _ t => isTime t
  | .drayRetestWrite _ _ => true
  | .gnssSolution _ t => isTime t
  | .holdoverEntry t => isTime t
  | .holdoverLimit t => isTime t
  | .reportSlotStop t => isTime t
  | .reLock _ t => isTime t
  | .namedSwapWrite _ _ => true
  | .swapCancelWrite _ _ => true
  | .proofWrite _ addr v => isAddr addr && isValue v
  | .resetLearningWrite _ _ _ => true
  | .swapRequest _ writes => isU16 writes
  | .swapAnnouncement swapBatch setNo announced =>
    isU32 swapBatch && isU16 setNo && isU16 announced.period
  | .readyReport _ _ _ => true
  | .swapGo swapBatch => isU32 swapBatch
  | .swapPostponement swapBatch newBatch => isU32 swapBatch && isU32 newBatch
  | .swapCancel swapBatch => isU32 swapBatch
  | .ppsPulse => true
  | .rtcDiscipline => true
  | .rtcSupplyLoss t => isTime t
  | .movingBaselineFix _ t => isTime t
  | .boomState _ t => isTime t
  | .batchSync number _ map t => isU32 number && isU32 map && isTime t
  | .poseSourceLoss _ t => isTime t
  | .imuTimeout t => isTime t
  | .heightInputTimeout _ t => isTime t
  | .speedSourceImplausible _ _ t => isTime t
  | .speedSourceRejoin _ t => isTime t
  | .deadReckoningLimit t => isTime t
  | .freqEdge _ _ t => isTime t
  | .freqZeroTimeout _ t => isTime t
  | .dinDebouncedChange _ _ t => isTime t
  | .sensorSupplyLimitTrip _ t => isTime t
  | .sensorSupplyRetry _ _ t => isTime t
  | .sensorSupplyOvervoltage _ t => isTime t
  | .sensorSupplyEnableWrite _ _ _ => true
  | .manualSectionWrite _ _ _ => true
  | .learnedDelayCommit t => isTime t
  | .loopFeedbackRecovered _ t => isTime t
  | .edgeIssue _ t => isTime t
  | .missedSwitchOn _ _ t => isTime t
  | .kinkReport _ t => isTime t
  | .channelSwitchOn _ t => isTime t
  | .channelSwitchOff _ t => isTime t
  | .pwmSlotStart _ t => isTime t
  | .valveRateEdge _ duty t => isDuty duty && isTime t
  | .endOfOnTime _ t => isTime t
  | .arrivalKink _ _ t => isTime t
  | .endOfPeak _ t => isTime t
  | .waitLimit _ t => isTime t
  | .releaseKink _ _ t => isTime t
  | .releaseEnd _ t => isTime t
  | .overcurrentTrip _ t => isTime t
  | .channelBackOffEnd _ t => isTime t
  | .onStateDiagnostic _ _ t => isTime t
  | .offStateTest _ _ t => isTime t
  | .holdUnreachable _ t => isTime t
  | .commonCurrentLimit _ t => isTime t
  | .commonRestore _ t => isTime t
  | .senseWindow _ _ t => isTime t
  | .channelReturnWrite _ _ => true
  | .boostStartTimeout t => isTime t
  | .boostRestart t => isTime t
  | .boostFallback vbst t => isU16 vbst && isTime t
  | .boostOvervoltage vbst t => isU16 vbst && isTime t
  | .loadSwitchCommandWrite _ addr _ => isAddr addr
  | .loadSwitchCommand _ t => isTime t
  | .pulsePeriodStart _ t => isTime t
  | .pulseEnd _ t => isTime t
  | .loadSwitchTrip _ _ t => isTime t
  | .loadSwitchBackOffEnd _ t => isTime t
  | .loadSwitchCountClear _ t => isTime t
  | .loadSwitchOffStateTest _ _ _ t => isTime t
  | .loadSwitchOpenLoad _ _ t => isTime t
  | .limpHomeInput _ _ t => isTime t
  | .lhenChange _ t => isTime t
  | .pwmPeriodStart _ t => isTime t
  | .loadAllWrite _ _ => true
  | .forceWrite _ _ _ => true
  | .forceApply t => isTime t
  | .delayLineCalibration taps t => isU16 taps && isTime t
  | .switchNodeSwing _ t => isTime t
  | .deadTimeMaximum _ t => isTime t
  | .pwmFaultInput _ _ t => isTime t
  | .interlockEvent _ duration t => isU32 duration && isTime t
  | .pairReturnWrite _ _ => true
  | .forwardedClockLoss t => isTime t
  | .axisUpdate t => isTime t
  | .moveGo _ _ => true
  | .moveStop _ _ => true
  | .quickStop _ _ => true
  | .moveResume _ _ => true
  | .moveAbandon _ _ => true
  | .positionWrite _ _ _ => true
  | .coarseStep _ t => isTime t
  | .coarseStepTimeout t => isTime t
  | .rowDriveStatus _ t => isTime t
  | .blockLock _ t => isTime t
  | .blockLockLoss _ t => isTime t
  | .markerBlock _ _ t => isTime t
  | .frameStart _ t => isTime t
  | .messageReceived _ msg crc t =>
    decide (msg.cls < 8) && decide (msg.kind < 32) && decide (msg.dest < 64) && decide (msg.source < 64) && decide (msg.seq < 256)
      && decide (msg.body.length ≤ 32756) && isU32 crc && isTime t
  | .linkAcknowledgement _ cls seq t => isClass cls && isU32 seq && isTime t
  | .linkNegativeAcknowledgement _ cls seq t => isClass cls && isU32 seq && isTime t
  | .linkBusy _ cls seq t => isClass cls && isU32 seq && isTime t
  | .replayTimeout _ cls t => isClass cls && isTime t
  | .busyWaitEnd _ cls t => isClass cls && isTime t
  | .segmentTimeout source t => isNode source && isTime t
  | .guestMessageTimeout _ t => isTime t
  | .errorRateAlarm _ errored t => isU32 errored && isTime t
  | .retrainAttempt _ t => isTime t
  | .retrainTimeout _ t => isTime t
  | .laneReinstate _ t => isTime t
  | .retiredLaneRetestWrite _ _ => true
  | .portTrainingTimeout _ t => isTime t
  | .enumerationProbe _ number _ hops t => isU32 number && isU8 hops && isTime t
  | .enumerationReport _ t => isTime t
  | .enumerationReportWait t => isTime t
  | .chainTable _ epoch standby map t => isU32 epoch && isU8 standby && isU32 map && isTime t
  | .enumerationRetry t => isTime t
  | .breakNotice position t => isNode position && isTime t
  | .ringRestore t => isTime t
  | .echoPeriod t => isTime t
  | .echoRequest _ id t => isU16 id && isTime t
  | .echoResponse _ id times t => isU16 id && decide (times.there.natAbs < 2 ^ 63) && decide (times.back.natAbs < 2 ^ 63) && isTime t
  | .standbyMirror _ t => isTime t
  | .markerMissing t => isTime t
  | .takeoverNotice position t => isNode position && isTime t
  | .guestCredit _ credits => isU8 credits
  | .sweepStart _ kind batch => isU8 kind && isU32 batch
  | .sweepCancel _ _ => true
  | .sweepStepRequest _ kind unit => isU8 kind && isU8 unit
  | .sweepStepComplete _ result t => isBytes result && isTime t
  | .sweepPoll t => isTime t
  | .sweepStepTimeout t => isTime t
  | .dictionaryRequest _ t => isTime t
  | .dictionaryResponse _ _ t => isTime t
  | .remoteRequestTimeout _ tag t => isU16 tag && isTime t
  | .aggregatorBusyResend _ tag t => isU16 tag && isTime t
  | .tileRequest _ coord t => isU32 coord && isTime t
  | .tileTransfer _ t => isTime t
  | .paintDelta _ t => isTime t
  | .paintComplete batch t => isU32 batch && isTime t
  | .cacherDrop _ coord t => isU32 coord && isTime t
  | .homeRebuild coord t => isU32 coord && isTime t
  | .tileWindowExpiry coord t => isU32 coord && isTime t
  | .cachedTileRelease coord t => isU32 coord && isTime t
  | .writeBackPeriod coord t => isU32 coord && isTime t
  | .writeBackResend coord t => isU32 coord && isTime t
  | .tileInWrite _ _ => true
  | .tileAbsentWrite _ _ => true
  | .writeBackAcknowledge _ coord seq => isU32 coord && isU32 seq
  | .asAppliedAcknowledge _ pos seq => isU8 pos && isU32 seq
  | .asAppliedReoffer t => isTime t
  | .recordSigned seq t => isU32 seq && isTime t
  | .mapMissHoldLimit _ t => isTime t
  | .targetMessage _ _ count recs t => isRecords count && isMessage recs && isTime t
  | .targetInWrite _ recs => isMessage recs
  | .share _ t => isTime t
  | .shareCredit _ credits t => isU8 credits && isTime t
  | .shareConfirmation _ _ t => isTime t
  | .shareExpiry _ source seq t => isSource source && isU32 seq && isTime t
  | .targetResult _ t => isTime t
  | .resultAcknowledge _ source seq => isSource source && isU32 seq
  | .basebandStart _ t => isTime t
  | .scriptRetry _ t => isTime t
  | .agcRound _ rms t => isU16 rms && isTime t
  | .notchSearch _ _ t => isTime t
  | .sampleClockLoss _ t => isTime t
  | .sampleClockReturn _ _ _ t => isTime t
  | .channelAllocation _ t => isTime t
  | .acquisitionPeak _ t => isTime t
  | .acquisitionExhausted _ t => isTime t
  | .channelLock _ t => isTime t
  | .pullInTimeout _ t => isTime t
  | .trackLoss _ t => isTime t
  | .sidePeakLock _ t => isTime t
  | .reacquirePeak _ t => isTime t
  | .reacquireTimeout _ t => isTime t
  | .measurementEpoch _ t => isTime t
  | .baseEpoch _ _ t => isTime t
  | .correctionInput _ _ t => isTime t
  | .leapSecond t => isTime t
  | .keptDataCommit t => isTime t
  | .keptDataErase _ _ => true
  | .startFallback t => isTime t
  | .canFrameReceived _ _ t => isTime t
  | .busOff _ t => isTime t
  | .busOffRecovery _ t => isTime t
  | .addressClaim name address t => isU64 name && isU8 address && isTime t
  | .transportPacket source pgn data _ t => isU8 source && isU24 pgn && isBytes data && isTime t
  | .diagnosticRequest pgn source t => isU24 pgn && isU8 source && isTime t
  | .dm3Clear source t => isU8 source && isTime t
  | .dm11Clear source t => isU8 source && isTime t
  | .dm1Send t => isTime t
  | .tcValueCommand element ddi _ t => isU16 element && isU16 ddi && isTime t
  | .tcMeasurementCommand element ddi kind _ t => isU16 element && isU16 ddi && isU8 kind && isTime t
  | .tcServerLost t => isTime t
  | .proprietaryARequest name command addr seq v t => isU64 name && isU8 command && isAddr addr && isU32 seq && isValue v && isTime t
  | .nmtOperational node t => isCanNode node && isTime t
  | .nmtPreOperational node t => isCanNode node && isTime t
  | .nmtStop node t => isCanNode node && isTime t
  | .nmtResetCommunication node t => isCanNode node && isTime t
  | .nmtResetNode node t => isCanNode node && isTime t
  | .sdoRequest _ addr t => isAddr addr && isTime t
  | .sdoTimeout t => isTime t
  | .rpdo _ data t => isBytes data && isTime t
  | .heartbeatSend t => isTime t
  | .heartbeatTimeout _ t => isTime t
  | .hostRead _ addr t => isAddr addr && isTime t
  | .hostReadHigh _ addr t => isAddr addr && isTime t
  | .hostWrite _ addr data t => isAddr addr && isU32 data && isTime t
  | .hostWriteHigh _ addr data t => isAddr addr && isU32 data && isTime t
  | .hostBlockRead _ addr offset words t => isAddr addr && isU32 offset && isU16 words && isTime t
  | .hostStage _ offset data t => isU32 offset && isBytes data && isTime t
  | .hostCommitStaged _ addr length t => isAddr addr && isU32 length && isTime t
  | .hostPortStatus _ t => isTime t
  | .hostUnknownCommand _ t => isTime t
  | .hostTransactionAborted t => isTime t
  | .stagedHalfExpiry _ t => isTime t
  | .registerWrite _ addr v t => isAddr addr && isValue v && isTime t
  | .queueRead _ addr t => isAddr addr && isTime t
  | .recordRead _ t => isTime t
  | .pageRead _ t => isTime t
  | .journalGroupCommit t => isTime t
  | .journalCheckpoint t => isTime t
  | .mirrorAcknowledged batch t => isU32 batch && isTime t
  | .clientSlotRelease _ _ => true
  | .sramError _ _ row _ _ t => isU16 row && isTime t
  | .mramWriteFault _ row t => isU16 row && isTime t
  | .housekeepingRound _ t => isTime t
  | .throttleGraceEnd t => isTime t
  | .throttleRelease t => isTime t
  | .powerThermalShutdown t => isTime t
  | .shutdownResetHold t => isTime t
  | .clearRing _ _ => true
  | .imageChunk _ offset data => isU32 offset && isBytes data
  | .imageErase _ _ => true
  | .imageActivate _ _ => true
  | .trialConfirmation t => isTime t
  | .authenticationTag _ tag t => isBytes tag && isTime t
  | .authenticationLockoutEnd t => isTime t
  | .calibrationKeyWrite _ key => isBytes key
  | .debugUnlock _ _ => true
  | .decommission _ _ => true
  | .dormantRequest _ => true
  | .offRequest _ => true
  | .powerDownEntry t => isTime t
  | .powerDownSwitchOff t => isTime t
  | .restartRequest _ _ => true
  | .restartReset t => isTime t
  | .wakeDin0 _ t => isTime t
  | .wakeHostSelect t => isTime t
  | .rtcAlarm t => isTime t
  | .boostReady vbst t => isU16 vbst && isTime t
  | .loadSwitchThermalRestart _ t => isTime t
  | .expectedMarkerPosition _ t => isTime t
  | .busOffRecoveryComplete _ t => isTime t
  | .transportTimeout source t => isU8 source && isTime t
  | .tcServerStatus status structureLabel t => isU8 status && isBytes structureLabel && isTime t
  | .powerOnResetRearm t => isTime t
  | .operatingTimeCommit t => isTime t

end Sys2Proof
end

