-- ==== Sys2Proof/Tests/Slice0.lean ====
section
/-! SUPPORT. Tests of the model's author: ill-formed commands that the check refuses, single steps, and witnesses of the
statements' hypotheses. -/

namespace Sys2Proof.Tests

set_option Elab.async false

open Sys2Proof.Machine

/-! ### Devices that the witnesses stand on -/

def run : Dev := { power := { run := .running } }

def up : Dev := { run with pd := { v1 := 12000, v2 := 12000, powered := true } }

def armed : Dev := { up with pd := { up.pd with armed := true, opened := some 0 } }

def lead : Dev := run.put 0x2A0001 1

def batch (ph : Nat) : Dev := { run with seq := { running := true, number := 40, t0 := 3000000, phase := ph }, time := { seeded := true, state := 3, offset := 1000, now := 3000100 }, ch := { enumerated := true } }

def fix : GnssFix := { kind := 4, clockOffset := 70, lat := 5, lon := 6, height := 7, velE := 1, velN := 2, velU := 0, sats := 9, pdop := 10, hSigma := 5, vSigma := 5, epoch := 0, corrAge := 1, ratio := 30, pairs := 6, east := 8, north := 9, up := 0 }

def set : SwapSet := ⟨45, 7, 1000, Vector.replicate 32 2, Vector.replicate 32 none, 1, false⟩

def base : BaselineFix := { position := 3, state := 5, implausible := false, epoch := 0, east := 100, north := 200, up := 0, sigmaEN := 1, sigmaUp := 1, antX := 5, antY := 6 }

def sources : Dev := { run.put 0x200301 31 with pose := { sources := Vector.replicate 5 { seen := true, valid := true } } }

def outlet (f : Outlet → Outlet) : Dev := { armed.put 0x300301 1 with dec := { outlets := (Vector.replicate 32 {}).set 3 (f {}) } }

def edge (k : Nat) : Edge := { instant := 4007, kind := k, source := 0, value := 120 }

def slot (role st : Nat) : Slot := { index := 5, coord := 0, state := st, role := role, session := 0, cellSize := 1 }

def tiles (x : Slot) : Dev := { run.put 0x2A0002 0 with tiles := { slots := [x] }, seq := { map := 1 } }

def tile : TileTransfer := { session := 0, coord := 0, epoch := 0, cellSize := 1, blank := false, paintGap := false, seq := 4, marks := Vector.replicate 32 7, record := { fill := 0x04, cells := [(9, 0x74)], rxFill := 200, rx := [] }, crcOk := true }

def job : PaintJob := { batch := 39, before := { t0 := 1000000, work := false }, after := { t0 := 2000000 } }

def applied : AsApplied := ⟨9, 0, true, false, 30, 40, 0, 0, 0, []⟩

def rec : TargetRec := { seq := 9, form := 0, cls := 2, dose := 0, capture := 0, posA := 5, posB := 6, halfLength := 60, halfWidth := 60, orientation := 0, camSegment := 0, camX := 0, camY := 0, camYaw := 0 }

def intake : Intake := { source := 3, record := rec, stage := 3, form0 := rec, owners := [4] }

def pending : PendingShare := { share := ⟨4, 3, rec⟩, takenAt := 0, batch := 2 }

def task (k : Nat) : Task := { number := k, kernel := 2, variant := 0, outlet := some 3, index := 0, batch := 40, cost := 300, home := 6, after := [] }

def drays (f : Nat → Dray) : Dev := { run with seq := { number := 40 }, eng := { open_ := true, drays := Vector.ofFn fun k => f k.val } }

def chan (m : ChannelMode) (f : Channel → Channel) : Dev := { armed.put 0x300301 1 with valve := { channels := (Vector.replicate 32 {}).set 3 (f { mode := m }), banks := Vector.replicate 4 { powered := true } } }

def due (a : PlAction) (t : Int) (d : Dev) : Dev := { d with pd := { d.pd with commands := [⟨0, t, a⟩] } }

def boosted (d : Dev) : Dev := { d.put 0x250101 1 with valve := { d.valve with boost := { state := 2, vbst := 48000 } } }

def sw (f : Switch → Switch) : Dev := { armed with taken := [(0x260004, .num 4)], lsw := { switches := (Vector.replicate 8 {}).set 2 (f {}) } }

def pwm (f : Pair → Pair) : Dev := { armed.put 0x271301 1 with pwm := { pairs := (Vector.replicate 16 {}).set 3 (f { idle := false }), inputs := Vector.replicate 4 false } }

def axis (x : Axis) : Dev := { run with axes := (Vector.replicate 32 {}).set 3 x }

def meter : Axis := { set := { mode := 1 }, rate := 20260 }

def lanes (k : Nat) (l : Lane) : Dev := { lead.put 0x2A0002 0 with link := { lanes := Vector.ofFn fun j => if j.val = k then l else {} }, ch := { enumerated := true } }

def synced (k : Nat) (l : Lane) : Dev := { lead.put 0x2A0002 0 with link := { lanes := Vector.ofFn fun j => if j.val = k then l else { align := 3, trained := true } }, ch := { enumerated := true } }

def marker : Marker := { crcOk := true, counter := 8, stamp := 0, mode := 0, good0 := true, good1 := false, withheld0 := false, withheld1 := true, downstream := true, timeGood := true }

def block : Arrival := ⟨lineBlock 0x123456789abcde 2 (markerPayload marker), 0⟩

def torn : Arrival := ⟨lineBlock 0x123456789abcde 2 (markerPayload marker ^^^ 0x10000), 0⟩

def msg (cls : Nat) : Msg := { cls := cls, kind := 3, dest := 0, source := 4, seq := 9 }

def marks (c : ClassLink) : Dev := { run with link := { ports := (Vector.replicate 2 {}).set 0 { data := c } } }

def sent (n : Nat) : Outgoing := ⟨7, 4, 5, .shareCredit 5 2, n, 5⟩

def ports (f : Nat) : Dev := { run with link := { lanes := Vector.replicate 4 { align := 3, trained := true }, ports := (Vector.replicate 2 {}).set 0 { far := f } } }

def node (k p : Nat) (arm : Port) (h : Nat) : TableNode := ⟨100 + p, k, p, arm, h, 1⟩

def report : NodeReport := { identity := 105, kind := 1, position := 5, upstream := .a, portsUp := 1, expected := 255, guestRate := 0, ready := false, rejoining := false, enforcing := false, notices := false, replaceMe := false, hops := 1, arm := .a }

def wheeler (c : Chain) : Dev := { run.put 0x2A0002 5 with ch := c }

def mirror : Mirror := { goSent := false, boom := {}, history := [], sweepBatch := 0, group := 0, table := [], guests := [], batch := 39, swapBatch := none, swapSet := 4, postponements := 0, counts := Vector.replicate 32 0, ready := Vector.replicate 32 false, sources := Vector.replicate 5 false, spans := Vector.replicate 32 none, leadLive := [], leadProof := [], sequences := [], hostTargets := [], openForwards := [], results := [], sweepKind := 0, sweepState := 0, sweepRecord := [], sections := Vector.replicate 8 0, window := [] }

def gnss (g : Gnss) : Dev := { run with gnss := { g with running := true } }

def tracker (n : Nat) : Dev := gnss { channels := (Vector.replicate 64 {}).set 7 { state := n, satellite := some ⟨1, 12, 4000, 90⟩ } }

def bfix : BaselineFix := ⟨9, 5, false, 100000000, 30, 40, 50, 6, 7, 0, 0⟩

def buses : Dev := { run with can := { buses := Vector.replicate 2 { state := 2 }, iso := { address := 128 } } }

def iso (x : Iso) : Dev := { buses with can := { buses.can with iso := { x with address := 128 } } }

def offs (l : List Nat) : Dev := { run with can := { buses := Vector.replicate 2 { state := 2, busOffs := l } } }

def copen (x : CanOpen) : Dev := { buses with can := { buses.can with copen := x } }

def req (c a q : Nat) (v : Val) : DictRequest := { tag := 7, command := c, origin := 0, address := a, seq := q, value := v }

def remote (r : DictRequest) : Remote := ⟨5, r, 0, true, none, some .host, true, none⟩

def asked (r : DictRequest) : Dev := { lead.put 0x2A0002 0 with dic := { remotes := [remote r] }, seq := { map := 33 } }

def write : JEntry := { kind := 2, source := 0x11, seq := 731, subKey := 0, lead := false, carried := false, batch := 7, payload := .write 0x240201 (.num 6) }

def ack : Ack := ⟨.host, 731, 0, none, 0⟩

def forward : JEntry := { kind := 12, source := 0x14, seq := 3107, subKey := 1, lead := true, carried := false, batch := 7, payload := .write 0x21000A (.num 6) }

def unsent : Remote := { position := 1, req := { tag := 7, command := 2, origin := 3, address := 0x21000A, seq := 3107, value := .num 6 }, sentAt := 0, sent := false, committed := false }

def hk (v : Vector Int 11) : Housekeeping := ⟨v, 3300, 800, 1200, 1200, 5000, false⟩

def acc (y : AccessorState) : Dev := { run with dic := { accessors := [y] } }

def field : Dev := { run.put 0x310202 2 with nvm := { calKey := some [1, 2, 3, 4] } }

def tagged (a : Nat) : Dev := { field with dic := { accessors := [{ acc := .host, tag := some (Config.cmac [1, 2, 3, 4] (tagMessage field .bool a (.num 1)), 0) }] } }

def held : Dev := { power := { run := .hold, porArmed := false } }

def asleep (m : Int) : Dev := { power := { run := .dormant, cause := 5, porArmed := false }, nvm := { live := [(0x2D0602, .num m)] }, rtc := { alarm := 1, valid := true } }

def debug : Dev := run.put 0x310202 3

def wound (r : PowerRequest) : Dev := { run with power := { run := .running, request := some (r, 0), winding := true, stoppedAt := some 1 }, time := { now := 5000000 } }

/-- R464: the tag that `tagged` keeps for an authenticated write passes, whatever the CMAC. -/
theorem tagged_passes (a : Nat) : authPasses (tagged a) .host .bool a (.num 1) = true := by
  have h : tagMessage (tagged a) .bool a (.num 1) = tagMessage field .bool a (.num 1) := rfl
  have k : tagHolds (tagged a) .host .bool a (.num 1) =
      decide (Config.cmac [1, 2, 3, 4] (tagMessage field .bool a (.num 1)) =
        Config.cmac [1, 2, 3, 4] (tagMessage (tagged a) .bool a (.num 1))) := rfl
  rw [authPasses, k, h]
  simp [tagged, field]
  rfl

theorem leBytes_length (k : Nat) : ∀ v : Nat, (leBytes k v).length = k := by
  induction k with
  | zero => intro v; rfl
  | succ k ih => intro v; simp [leBytes, ih]

theorem flatMap_length {α : Type} (k : Nat) (f : α → List Byte) (h : ∀ x, (f x).length = k) (l : List α) :
    (l.flatMap f).length = k * l.length := by
  induction l with
  | nil => rfl
  | cons x r ih => rw [List.flatMap_cons, List.length_append, h, ih, List.length_cons]; ring

/-- R137: a transfer is 73,892 bytes. -/
theorem tileEncode_length (t : TileTransfer) : (tileEncode t).length = 73892 := by
  unfold tileEncode
  simp only [List.length_append, List.length_map, List.length_range, leBytes_length]
  rw [flatMap_length 4 _ (leBytes_length 4), flatMap_length 2 _ (fun _ => leBytes_length 2 _)]
  simp only [List.length_range, Vector.length_toList]

/-- R147: the host may write a whole transfer on the lead. -/
theorem tileIn_may (d : Dev) (t : TileTransfer) (h : d.isLead = true) :
    writeCheck d .host 0x220202 (.bytes (tileEncode t)) = none := by
  have r : ∃ r, objRow 0x220202 = some r ∧ r.kind = .wo ∧ typeIsBytes r.ty = true ∧ r.hi = 131072 ∧ r.lo = 0 ∧ r.step = 1 := by
    refine ⟨_, rfl, ?_⟩
    decide +kernel
  obtain ⟨r, e, k, ty, hi, lo, st⟩ := r
  simp [writeCheck, e, roleForbids, h, pathForbids, k, rangeCheck, ty, tileEncode_length, hi, lo, st]

/-! ### Ill-formed commands: one for each check -/

theorem test_wf_refuses_time : Instr.wf (.tetherToken (2 ^ 64)) = false := by decide +kernel
theorem test_wf_refuses_u8 : Instr.wf (.sweepStepRequest .host 256 0) = false := by decide +kernel
theorem test_wf_refuses_u16 : Instr.wf (.vbatApplied 65536 0 0) = false := by decide +kernel
theorem test_wf_refuses_u32 : Instr.wf (.cacherDrop 0 (2 ^ 32) 0) = false := by decide +kernel
theorem test_wf_refuses_u64 : Instr.wf (.addressClaim (2 ^ 64) 128 0) = false := by decide +kernel
theorem test_wf_refuses_address : Instr.wf (.hostRead true (2 ^ 24) 0) = false := by decide +kernel
theorem test_wf_refuses_pgn : Instr.wf (.diagnosticRequest (2 ^ 18) 0 0) = false := by decide +kernel
theorem test_wf_refuses_duty : Instr.wf (.valveRateEdge 0 10001 0) = false := by decide +kernel
theorem test_wf_refuses_class : Instr.wf (.linkBusy .a 4 0 0) = false := by decide +kernel
theorem test_wf_refuses_node : Instr.wf (.segmentTimeout 48 0) = false := by decide +kernel
theorem test_wf_refuses_token : Instr.wf (.tetherTokenReceived true 16 true 0) = false := by decide +kernel
theorem test_wf_refuses_cause : Instr.wf (.drayFault 0 7 0) = false := by decide +kernel
theorem test_wf_refuses_count : Instr.wf (.targetMessage 0 true 17 [] 0) = false := by decide +kernel
theorem test_wf_refuses_records : Instr.wf (.targetInWrite .host (List.replicate 17 rec)) = false := by decide +kernel
theorem test_wf_refuses_source : Instr.wf (.shareExpiry 0 17 0 0) = false := by decide +kernel
theorem test_wf_refuses_can_node : Instr.wf (.nmtStop 128 0) = false := by decide +kernel
theorem test_wf_refuses_value : Instr.wf (.registerWrite .host 0 (.num (2 ^ 64)) 0) = false := by decide +kernel
theorem test_wf_refuses_bytes (b : List Byte) (h : b.length = 131073) : Instr.wf (.hostStage true 0 b 0) = false := by
  simp [Instr.wf, isBytes, h]
theorem test_wf_refuses_frame : Instr.wf (.powerLinkCommand true ⟨0, -1, .valveOff 0⟩ 0) = false := by decide +kernel

/-! ### Small tests -/

/-- R43: batch 0 follows 0xFFFFFFFF. -/
theorem test_ahead_wraps : ahead 0 0xFFFFFFFF = true ∧ ahead 0xFFFFFFFF 0 = false := by decide

/-- R129: a point just west and south of the reference point lies in tile (−1, −1), cell (255, 255). -/
theorem test_place_south_west : run.place (-1, -1) = (0xFFFFFFFF, 65535) := by decide +kernel

/-- R409, Table 17.5: the bytes of a group are a valid group of its number. -/
theorem test_journal_group_valid :
    groupValid 7 (journalGroup ⟨7, [⟨2, 0x11, 731, 0, false, false, 41000, .write 0x240201 (.num 1)⟩], 0⟩) = true := by
  decide +kernel

/-- R458, Table 20.2: a copy whose commit record is whole is valid, with its sequence; of two valid copies the one whose
sequence lies ahead is taken. -/
theorem test_commit_record :
    copySequence [1, 2, 3] (commitRecord [1, 2, 3] 4410 2 0 0) = some 4410 ∧
    copySequence [1, 2, 4] (commitRecord [1, 2, 3] 4410 2 0 0) = none ∧ newestCopy (some 4411) (some 4410) = some 0 := by
  decide +kernel

/-- R372: a TPDO of period 1 leaves on the operational bus, and not before NMT start. -/
theorem test_tpdo_leaves :
    (({ run with
        obj := [(0x2C4001, .num 0x181), (0x2C4002, .num 1)]
        can := { buses := Vector.replicate 2 { state := 2 }, copen := { nmt := 5 } } } : Dev).tpdo 0).out.length = 1 ∧
    (({ run with
        obj := [(0x2C4001, .num 0x181), (0x2C4002, .num 1)]
        can := { buses := Vector.replicate 2 { state := 2 } } } : Dev).tpdo 0).out = [] := by decide +kernel

/-! ### Witnesses of the hypotheses of the general statements -/

theorem witness_SentHeldKept : ∃ s u : State, SentHeld s.dev ∧ s.pending = [.ppsPulse] ∧ step s = .next u :=
  ⟨⟨run, [.ppsPulse]⟩, _, (fun e h => by cases h), rfl, rfl⟩

theorem witness_TargetMessageRoundTrip : TargetFits rec ∧ TargetFits { rec with
    seq := 4294967295, capture := -9223372036854775808, posA := 2147483647, orientation := -32768, dose := 65535 } := by
  unfold TargetFits; decide +kernel

theorem witness_KeptObjectsSurviveReset :
    (run.put 0x2F0009 7).power.run = .running ∧ storeWf (run.put 0x2F0009 7).obj = true ∧ keptAddr 0x2F0009 = true ∧
      ({} : Dev).power.run = .hold := by decide +kernel

theorem witness_ReplaySetsNextSequences : held.power.run = .hold ∧ held.power.porArmed = false := by decide

theorem witness_EarliestCommittableInstant :
    (run.put 0x180002 250).periodNs = 250000 * 1 ∧ (run.put 0x180002 4000).periodNs = 250000 * 16 ∧ run.periodNs = 1000000 := by
  decide +kernel

theorem witness_CellCoversItsSquare : tileI (tileCoord (-32768) 32767) = -32768 ∧ tileJ (tileCoord (-32768) 32767) = 32767 := by
  decide +kernel

/-! ### Witnesses: a command, operands and a state that meet the hypotheses of each clause -/

theorem witness_TokensArm :
        Rules.tetherToken.Met ∧ Rules.tetherTokenWithheld.Met ∧ Rules.tetherTokenSequencerStopped.Met ∧
    Rules.tokenValid.Met ∧ Rules.tokenArms.Met ∧ Rules.tokenBadCrc.Met ∧ Rules.tokenResynchronises.Met ∧
    Rules.tetherSilence.Met ∧ Rules.tetherSilenceLimpHome.Met :=
  ⟨⟨5, _, ⟨{ run with seq := { running := true }, teth := { coreAt := some 0 } }, []⟩, rfl, by decide +kernel⟩,
    ⟨2000000, _, ⟨{ run with seq := { running := true }, teth := { coreAt := some 0, sent := 20 } }, []⟩, rfl, by decide +kernel⟩,
    ⟨3000000, _, ⟨{ run with seq := { running := true }, teth := { coreAt := some 2500000, sent := 20 } }, []⟩, rfl, by decide +kernel⟩,
    ⟨(0, true, 7), _, ⟨{ up with pd := { up.pd with armed := true, refCount := some 15 } }, []⟩, rfl, by decide +kernel⟩,
    ⟨(0, 7), _, ⟨{ up with pd := { up.pd with refCount := some 15, validRun := 8, settings := true } }, []⟩, rfl, by decide +kernel⟩,
    ⟨(0, true, 7), _, ⟨up, []⟩, rfl, by decide +kernel⟩,
    ⟨(0, true, 7), _, ⟨{ up with pd := { up.pd with refCount := some 14 } }, []⟩, rfl, by decide +kernel⟩,
    ⟨2000000, _, ⟨{ up with pd := { up.pd with armed := true } }, []⟩, rfl, by decide +kernel⟩,
    ⟨2000000, _, ⟨{ up with pd := { up.pd with armed := true }, lsw := { enable := true, limpHome := true, mapping := 0x8, inputs := Vector.replicate 4 true } }, []⟩, rfl, by decide +kernel⟩⟩

theorem witness_PermissionIsRefreshed :
        Rules.permissionRefresh.Met ∧ Rules.permissionLapse.Met ∧ Rules.permissionLapseSequencer.Met ∧
    Rules.supervisionCore0.Met ∧ Rules.supervisionCore1.Met :=
  ⟨⟨5, _, ⟨run, []⟩, rfl, by decide +kernel⟩,
    ⟨1000000, _, ⟨{ run with teth := { coreAt := some 0 } }, []⟩, rfl, by decide +kernel⟩,
    ⟨1000000, _, ⟨{ run with teth := { seqAt := some 0 } }, []⟩, rfl, by decide +kernel⟩,
    ⟨5, _, ⟨{ run with teth := { failed0 := 2 } }, []⟩, rfl, by decide +kernel⟩,
    ⟨5, _, ⟨{ run with teth := { failed1 := 2 } }, []⟩, rfl, by decide +kernel⟩⟩

theorem witness_PowerDieFollowsSupply :
        Rules.powerLinkCommand.Met ∧ Rules.powerLinkCommandBad.Met ∧ Rules.vbatApplied.Met ∧
    Rules.powerDieAbsent.Met ∧ Rules.powerDieReset.Met ∧ Rules.vbatUndervoltage.Met ∧ Rules.vbatReverse.Met ∧
    Rules.loadDump.Met ∧ Rules.pgndOpen.Met :=
  ⟨⟨(⟨0, 10, .valveOn 0⟩, 10), _, ⟨up, []⟩, rfl, by decide +kernel⟩,
    ⟨(⟨3, 10, .valveOn 0⟩, 10), _, ⟨up, []⟩, rfl, by decide +kernel⟩,
    ⟨(4500, 0, 1), _, ⟨run, []⟩, rfl, by decide +kernel⟩,
    ⟨5, _, ⟨run, []⟩, rfl, by decide +kernel⟩,
    ⟨(4499, 4499, 1), _, ⟨up, []⟩, rfl, by decide +kernel⟩,
    ⟨(5999, 6000, 1), _, ⟨up, []⟩, rfl, by decide +kernel⟩,
    ⟨5, _, ⟨up, []⟩, rfl, by decide +kernel⟩,
    ⟨(40001, 12000, 3), _, ⟨up, []⟩, rfl, by decide +kernel⟩,
    ⟨3, _, ⟨up, []⟩, rfl, by decide +kernel⟩⟩

theorem witness_ChainTimeIsKept :
        Rules.chainTimeSeed.Met ∧ Rules.chainTimeSeedRtc.Met ∧ Rules.holdoverEntry.Met ∧ Rules.holdoverLimit.Met ∧
    Rules.reportSlotStop.Met ∧ Rules.reLock.Met ∧ Rules.reLockStep.Met ∧ Rules.gnssSolution.Met ∧
    Rules.gnssSolutionUnsteered.Met ∧ Rules.ppsPulse.Met ∧ Rules.rtcDiscipline.Met ∧ Rules.rtcSupplyLoss.Met :=
  ⟨⟨(500, 7), _, ⟨lead, []⟩, rfl, by decide +kernel⟩,
    ⟨7, _, ⟨{ lead with rtc := { offset := 900, valid := true } }, []⟩, rfl, by decide +kernel⟩,
    ⟨7, _, ⟨{ run with time := { state := 3 } }, []⟩, rfl, by decide +kernel⟩,
    ⟨7, _, ⟨{ run with time := { state := 4 } }, []⟩, rfl, by decide +kernel⟩,
    ⟨7, _, ⟨{ run with time := { state := 4 } }, []⟩, rfl, by decide +kernel⟩,
    ⟨(-1000, 7), _, ⟨{ run with time := { state := 4 }, seq := { synced := true } }, []⟩, rfl, by decide +kernel⟩,
    ⟨(1001, 7), _, ⟨{ run with time := { state := 4 } }, []⟩, rfl, by decide +kernel⟩,
    ⟨(fix, 7), _, ⟨{ lead with gnss := { running := true }, time := { seeded := true, state := 2 } }, []⟩, rfl, by decide +kernel⟩,
    ⟨({ fix with clockOffset := 10000001 }, 7), _, ⟨{ lead with gnss := { running := true }, time := { seeded := true, state := 3 } }, []⟩, rfl, by decide +kernel⟩,
    ⟨(), _, ⟨run.put 0x182001 1, []⟩, rfl, by decide +kernel⟩,
    ⟨(), _, ⟨{ lead with time := { state := 3, offset := 9 } }, []⟩, rfl, by decide +kernel⟩,
    ⟨7, _, ⟨{}, []⟩, rfl, by decide +kernel⟩⟩

theorem witness_BatchPhasesRun :
        Rules.batchBoundary.Met ∧ Rules.firstBoundary.Met ∧ Rules.swapAtBoundary.Met ∧ Rules.phaseBStart.Met ∧
    Rules.phaseBStale.Met ∧ Rules.phaseBDeadline.Met ∧ Rules.phaseDStart.Met ∧ Rules.statusSnapshot.Met ∧
    Rules.statusSnapshotWaits.Met :=
  ⟨⟨Vector.replicate 16 {}, _, ⟨batch 3, []⟩, rfl, by decide +kernel⟩,
    ⟨Vector.replicate 16 {}, _, ⟨{ batch 3 with seq := {} }, []⟩, rfl, by decide +kernel⟩,
    ⟨(Vector.replicate 16 {}, 9), _, ⟨{ batch 3 with swap := { go := some 41, announced := some ⟨41, 7, 1, 1000, Vector.replicate 16 255⟩, writes := [(0x180402, .num 9), (0x180402, .num 3)], ready := true } }, []⟩, rfl, by decide +kernel⟩,
    ⟨(), _, ⟨{ batch 0 with pose := { received := true } }, []⟩, rfl, by decide +kernel⟩,
    ⟨(), _, ⟨batch 0, []⟩, rfl, by decide +kernel⟩,
    ⟨(), _, ⟨batch 1, []⟩, rfl, by decide +kernel⟩,
    ⟨(), _, ⟨batch 2, []⟩, rfl, by decide +kernel⟩,
    ⟨(), _, ⟨batch 3, []⟩, rfl, by decide +kernel⟩,
    ⟨(), _, ⟨batch 1, []⟩, rfl, by decide +kernel⟩⟩

theorem witness_SettingSwapsAgree :
        Rules.namedSwapWrite.Met ∧ Rules.namedSwapTooNear.Met ∧ Rules.swapCancelWrite.Met ∧ Rules.proofWrite.Met ∧
    Rules.proofWriteLater.Met ∧ Rules.resetLearningWrite.Met ∧ Rules.swapRequest.Met ∧ Rules.swapAnnouncement.Met ∧
    Rules.swapNotReady.Met ∧ Rules.readyReport.Met ∧ Rules.readinessWithdrawn.Met ∧ Rules.swapGo.Met ∧
    Rules.swapPostponement.Met ∧ Rules.swapCancel.Met :=
  ⟨⟨3, _, ⟨lead, []⟩, rfl, by decide +kernel⟩,
    ⟨2, _, ⟨lead, []⟩, rfl, by decide +kernel⟩,
    ⟨set, _, ⟨{ lead with seq := { running := true, number := 44, phase := 2 }, swap := { set := some set, announced := some ⟨45, 7, 2, 1000, Vector.replicate 16 255⟩, go := some 45 } }, []⟩, rfl, by decide +kernel⟩,
    ⟨5, _, ⟨{ run with seq := { running := true } }, []⟩, rfl, by decide +kernel⟩,
    ⟨5, _, ⟨{ run with swap := { ready := true, announced := some ⟨45, 7, 0, 1000, Vector.replicate 16 255⟩ } }, []⟩, rfl, by decide +kernel⟩,
    ⟨3, _, ⟨run, []⟩, rfl, by decide +kernel⟩,
    ⟨(3, 2), _, ⟨lead, []⟩, rfl, by decide +kernel⟩,
    ⟨(45, 7, ⟨Vector.replicate 32 2, 1000, Vector.replicate 16 255⟩), _, ⟨run, []⟩, rfl, by decide +kernel⟩,
    ⟨(2, 7, ⟨Vector.replicate 32 2, 1000, Vector.replicate 16 255⟩), _, ⟨run, []⟩, rfl, by decide +kernel⟩,
    ⟨(3, true, set), _, ⟨{ lead with swap := { set := some set } }, []⟩, rfl, by decide +kernel⟩,
    ⟨(3, { set with goSent := true }), _, ⟨{ lead with seq := { running := true, number := 44, phase := 2 }, swap := { set := some { set with goSent := true }, announced := some ⟨45, 7, 2, 1000, Vector.replicate 16 255⟩, go := some 45 } }, []⟩, rfl, by decide +kernel⟩,
    ⟨45, _, ⟨{ run with swap := { announced := some ⟨45, 7, 2, 1000, Vector.replicate 16 255⟩ } }, []⟩, rfl, by decide +kernel⟩,
    ⟨(⟨45, 7, 2, 1000, Vector.replicate 16 255⟩, 47), _, ⟨{ run with swap := { announced := some ⟨45, 7, 2, 1000, Vector.replicate 16 255⟩, ready := true } }, []⟩, rfl, by decide +kernel⟩,
    ⟨⟨45, 7, 2, 1000, Vector.replicate 16 255⟩, _, ⟨{ run with swap := { announced := some ⟨45, 7, 2, 1000, Vector.replicate 16 255⟩, ready := true, go := some 45, writes := [(0x180402, .num 9)] } }, []⟩, rfl, by decide +kernel⟩⟩

theorem witness_PoseSourcesFollow :
        Rules.movingBaselineFix.Met ∧ Rules.boomState.Met ∧ Rules.batchSync.Met ∧ Rules.poseSourceLoss.Met ∧
    Rules.poseSourceAwaits.Met ∧ Rules.gnssSourceLoss.Met ∧ Rules.imuTimeout.Met ∧ Rules.heightInputTimeout.Met ∧
    Rules.speedSourceImplausible.Met ∧ Rules.speedSourceRejoin.Met ∧ Rules.deadReckoningLimit.Met :=
  ⟨⟨(base, 7), _, ⟨lead, []⟩, rfl, by decide +kernel⟩,
    ⟨({ quality := 5, east := 77, speed := 5556 }, 7), _, ⟨{ run with seq := { staleRun := 3 } }, []⟩, rfl, by decide +kernel⟩,
    ⟨(40, 0, 3, 7), _, ⟨{ run with ch := { enumerated := true }, seq := { map := 3 } }, []⟩, rfl, by decide +kernel⟩,
    ⟨7, _, ⟨sources, []⟩, rfl, by decide +kernel⟩,
    ⟨(.imu, 7), _, ⟨run.put 0x200301 31, []⟩, rfl, by decide +kernel⟩,
    ⟨7, _, ⟨sources, []⟩, rfl, by decide +kernel⟩,
    ⟨20000000, _, ⟨{ sources with pose := { sources.pose with imuAt := some 0 } }, []⟩, rfl, by decide +kernel⟩,
    ⟨(3, 200000000), _, ⟨run.put 0x202309 2, []⟩, rfl, by decide +kernel⟩,
    ⟨(20001, 7), _, ⟨sources, []⟩, rfl, by decide +kernel⟩,
    ⟨10000000007, _, ⟨{ sources with pose := { sources := Vector.replicate 5 { seen := true, valid := true, implausible := true, agreeAt := some 7 } } }, []⟩, rfl, by decide +kernel⟩,
    ⟨5000000000, _, ⟨{ lead with pose := { gnssLostAt := some 0, boom := { quality := 1 } } }, []⟩, rfl, by decide +kernel⟩⟩

theorem witness_SensorInputsFollow :
        Rules.freqEdge.Met ∧ Rules.freqEdgeBack.Met ∧ Rules.freqZeroTimeout.Met ∧ Rules.dinDebouncedChange.Met ∧
    Rules.sensorSupplyLimitTrip.Met ∧ Rules.sensorSupplyRetry.Met ∧ Rules.sensorSupplyStaysOff.Met ∧
    Rules.sensorSupplyOvervoltage.Met ∧ Rules.sensorSupplyEnableWrite.Met :=
  ⟨⟨(3, true, 7), _, ⟨run, []⟩, rfl, by decide +kernel⟩,
    ⟨(2, 7), _, ⟨{ run.put 0x203207 1 with inp := { freq := Vector.replicate 8 { count := 1 } } }, []⟩, rfl, by decide +kernel⟩,
    ⟨(3, 500000000), _, ⟨{ run with inp := { freq := Vector.replicate 8 { last := some 0, freq := 9 } } }, []⟩, rfl, by decide +kernel⟩,
    ⟨(3, true, 7), _, ⟨run, []⟩, rfl, by decide +kernel⟩,
    ⟨(1, 7), _, ⟨{ run with inp := { supplies := Vector.replicate 2 { on := true } } }, []⟩, rfl, by decide +kernel⟩,
    ⟨(1, 7, 7), _, ⟨{ run with inp := { supplies := Vector.replicate 2 { limit := true, retries := 1, retryAt := some 7 } } }, []⟩, rfl, by decide +kernel⟩,
    ⟨(1, 7, 7), _, ⟨{ run with inp := { supplies := Vector.replicate 2 { limit := true, retries := 2, retryAt := some 7 } } }, []⟩, rfl, by decide +kernel⟩,
    ⟨(1, 7), _, ⟨{ run with inp := { supplies := Vector.replicate 2 { on := true } } }, []⟩, rfl, by decide +kernel⟩,
    ⟨1, _, ⟨{ run with inp := { supplies := Vector.replicate 2 { limit := true, retries := 3, latched := true } } }, []⟩, rfl, by decide +kernel⟩⟩

theorem witness_EdgesAreIssued :
        Rules.edgeIssueOn.Met ∧ Rules.edgeIssueOff.Met ∧ Rules.edgeIssueMeter.Met ∧ Rules.edgeNotIssued.Met ∧
    Rules.missedSwitchOn.Met ∧ Rules.negativeAckResends.Met ∧ Rules.negativeAckDrops.Met ∧ Rules.kinkReport.Met ∧
    Rules.kinkReportFallback.Met ∧ Rules.kinkReportSlot.Met ∧ Rules.learnedDelayCommit.Met ∧
    Rules.manualSectionWrite.Met ∧ Rules.manualSectionWheeler.Met ∧ Rules.loopFeedbackRecovered.Met :=
  ⟨⟨(3, 7, edge 1, [edge 2]), _, ⟨outlet fun x => { x with edges := [edge 1, edge 2] }, []⟩, rfl, by decide +kernel⟩,
    ⟨(3, 7, edge 2, []), _, ⟨outlet fun x => { x with edges := [edge 2], on := true, deposits := [(5, none)] }, []⟩, rfl, by decide +kernel⟩,
    ⟨(3, 7, edge 3, []), _, ⟨(outlet fun x => { x with edges := [edge 3] }).put 0x300301 3, []⟩, rfl, by decide +kernel⟩,
    ⟨(3, 7, edge 1, []), _, ⟨{ outlet fun x => { x with edges := [edge 1] } with pd := {} }, []⟩, rfl, by decide +kernel⟩,
    ⟨(3, 4000, 4007), _, ⟨outlet fun x => { x with on := true }, []⟩, rfl, by decide +kernel⟩,
    ⟨(⟨5, 9000, .valveOn 3⟩, 7), _, ⟨{ run with teth := { issued := [⟨5, 9000, .valveOn 3⟩] } }, []⟩, rfl, by decide +kernel⟩,
    ⟨(⟨5, 2006, .valveOn 3⟩, 3, 7), _, ⟨{ run with teth := { issued := [⟨5, 2006, .valveOn 3⟩] } }, []⟩, rfl, by decide +kernel⟩,
    ⟨(⟨3, .arrival, 1000, some 2401000, false, false, false, false, false, false⟩, 2400, 7), _, ⟨outlet id, []⟩, rfl, by decide +kernel⟩,
    ⟨(⟨3, .arrival, 1000, some 2401000, true, false, false, false, false, false⟩, 2400, 7), _, ⟨outlet id, []⟩, rfl, by decide +kernel⟩,
    ⟨(⟨3, .release, 1000, some 2401000, false, false, false, true, false, false⟩, 2400, 7), _, ⟨outlet id, []⟩, rfl, by decide +kernel⟩,
    ⟨(3, 7), _, ⟨outlet fun x => { x with learned := true, onDelay := { value := 2400 }, offDelay := { value := 1900 } }, []⟩, rfl, by decide +kernel⟩,
    ⟨(3, 77), _, ⟨lead, []⟩, rfl, by decide +kernel⟩,
    ⟨(3, 77), _, ⟨run, []⟩, rfl, by decide +kernel⟩,
    ⟨(2, 7), _, ⟨{ run with dec := { loops := Vector.replicate 4 { feedbackLost := true, state := 3 } } }, []⟩, rfl, by decide +kernel⟩⟩

theorem witness_TilesTravel :
        Rules.tileRequest.Met ∧ Rules.tileRequestMissing.Met ∧ Rules.tileTransfer.Met ∧ Rules.tileTransferBad.Met ∧
    Rules.tileTransferResident.Met ∧ Rules.paintDelta.Met ∧ Rules.paintDeltaDropped.Met ∧
    Rules.paintDeltaBuffered.Met ∧ Rules.paintComplete.Met ∧ Rules.paintWorkOff.Met :=
  ⟨⟨(3, 0, slot 1 2, 7), _, ⟨tiles (slot 1 2), []⟩, rfl, by decide +kernel⟩,
    ⟨(3, 0, 7), _, ⟨{ tiles (slot 1 2) with tiles := {} }, []⟩, rfl, by decide +kernel⟩,
    ⟨(tile, slot 2 1, 7), _, ⟨{ tiles (slot 2 1) with seq := { map := 2 } }, []⟩, rfl, by decide +kernel⟩,
    ⟨({ tile with crcOk := false }, { slot 2 1 with attempts := 2 }, 7), _, ⟨tiles { slot 2 1 with attempts := 2 }, []⟩, rfl, by decide +kernel⟩,
    ⟨(tile, { slot 1 3 with ready := true }, 7), _, ⟨tiles { slot 1 3 with ready := true }, []⟩, rfl, by decide +kernel⟩,
    ⟨(3, 41, 300, 9, { slot 1 2 with marks := Vector.replicate 32 40 }, 7), _, ⟨tiles { slot 1 2 with marks := Vector.replicate 32 40 }, []⟩, rfl, by decide +kernel⟩,
    ⟨(⟨3, 40, 0, [⟨300, 9, false⟩]⟩, { slot 2 5 with marks := Vector.replicate 32 40 }, 7), _, ⟨tiles { slot 2 5 with marks := Vector.replicate 32 40 }, []⟩, rfl, by decide +kernel⟩,
    ⟨(⟨3, 40, 0, [⟨300, 9, false⟩]⟩, slot 2 1, 7), _, ⟨tiles (slot 2 1), []⟩, rfl, by decide +kernel⟩,
    ⟨(job, 7), _, ⟨{ run with tiles := { paints := [job] }, seq := { paintDue := true } }, []⟩, rfl, by decide +kernel⟩,
    ⟨(3, { job with settings := (outlet id).obj }, 7), _, ⟨{ (outlet fun x => { x with deposits := [(5, some 1500000), (1900000, none)] }) with tiles := { paints := [{ job with settings := (outlet id).obj }] }, seq := { paintDue := true } }, []⟩, rfl, by decide +kernel⟩⟩

theorem witness_TilesChangeHome :
        Rules.cacherDrop.Met ∧ Rules.homeRebuild.Met ∧ Rules.homeRebuildEnds.Met ∧ Rules.homeRebuildGap.Met ∧
    Rules.tileWindowExpiry.Met ∧ Rules.cachedTileRelease.Met ∧ Rules.writeBackPeriod.Met ∧ Rules.writeBackResend.Met :=
  ⟨⟨(3, { slot 1 2 with cachers := [2, 3] }, 7), _, ⟨tiles { slot 1 2 with cachers := [2, 3] }, []⟩, rfl, by decide +kernel⟩,
    ⟨(0, 1, 7), _, ⟨{ (tiles (slot 1 2)).put 0x22000A 1 with tiles := {}, seq := { map := 3 } }, []⟩, rfl, by decide +kernel⟩,
    ⟨({ slot 1 3 with rebuilding := true }, 7), _, ⟨tiles { slot 1 3 with rebuilding := true }, []⟩, rfl, by decide +kernel⟩,
    ⟨({ slot 1 3 with rebuilding := true, marks := Vector.replicate 32 40 }, 5, 7), _, ⟨tiles { slot 1 3 with rebuilding := true, marks := Vector.replicate 32 40 }, []⟩, rfl, by decide +kernel⟩,
    ⟨(⟨0, 0, 0, none, true⟩, slot 1 2, 2000000000), _, ⟨{ (tiles (slot 1 2)).put 0x2A0001 1 with tiles := { slots := [slot 1 2], window := [⟨0, 0, 0, none, true⟩] } }, []⟩, rfl, by decide +kernel⟩,
    ⟨(slot 2 5, 2000000000), _, ⟨tiles (slot 2 5), []⟩, rfl, by decide +kernel⟩,
    ⟨(slot 1 3, 7), _, ⟨(tiles (slot 1 3)).put 0x2A0001 1, []⟩, rfl, by decide +kernel⟩,
    ⟨({ slot 1 4 with sentCopy := some tile }, tile, 10000000000), _, ⟨(tiles { slot 1 4 with sentCopy := some tile }).put 0x2A0001 1, []⟩, rfl, by decide +kernel⟩⟩

theorem witness_HostPagesTiles :
        Rules.tileInWrite.Met ∧ Rules.tileInBusy.Met ∧ Rules.tileAbsentWrite.Met ∧ Rules.writeBackAcknowledge.Met ∧
    Rules.asAppliedAcknowledge.Met ∧ Rules.asAppliedReoffer.Met ∧ Rules.recordSigned.Met ∧
    Rules.mapMissHoldLimit.Met :=
  ⟨⟨(tile, slot 1 1), _, ⟨{ (tiles (slot 1 1)).put 0x2A0001 1 with que := { pages := [0] } }, []⟩, rfl, ⟨⟨rfl, tileIn_may _ _ rfl, by decide +kernel, by decide +kernel, by decide +kernel, by decide +kernel, by decide +kernel, by decide +kernel⟩, by decide +kernel⟩⟩,
    ⟨tile, _, ⟨{ (tiles (slot 1 1)).put 0x2A0001 1 with tiles := { transfer := List.replicate 8 (1, tile) } }, []⟩, rfl, ⟨⟨rfl, tileIn_may _ _ rfl, by decide +kernel, by decide +kernel, by decide +kernel, by decide +kernel, by decide +kernel, by decide +kernel⟩, by decide +kernel⟩⟩,
    ⟨(slot 1 1, 1), _, ⟨(tiles (slot 1 1)).put 0x2A0001 1, []⟩, rfl, by decide +kernel⟩,
    ⟨slot 1 4, _, ⟨(tiles (slot 1 4)).put 0x2A0001 1, []⟩, rfl, by decide +kernel⟩,
    ⟨applied, _, ⟨{ lead.put 0x2A0002 0 with tiles := { records := [(applied, 2)] } }, []⟩, rfl, by decide +kernel⟩,
    ⟨(applied, 0, 5000000000), _, ⟨{ lead with tiles := { records := [(applied, 2)] }, que := { applied := [⟨applied, true, 0⟩] } }, []⟩, rfl, by decide +kernel⟩,
    ⟨(applied, 7), _, ⟨{ run with tiles := { records := [(applied, 0)] } }, []⟩, rfl, by decide +kernel⟩,
    ⟨(3, 2000000000), _, ⟨(outlet fun x => { x with on := true, missSince := some 0 }).put 0x210001 1, []⟩, rfl, by decide +kernel⟩⟩

theorem witness_TargetsEnter :
        Rules.guestCredit.Met ∧ Rules.guestCreditWithheld.Met ∧ Rules.targetMessage.Met ∧ Rules.targetMessageBad.Met
    ∧ Rules.targetInWrite.Met ∧ Rules.targetInBusy.Met ∧ Rules.share.Met ∧ Rules.shareCredit.Met :=
  ⟨⟨(3, 2), _, ⟨run, []⟩, rfl, by decide +kernel⟩,
    ⟨(3, 2), _, ⟨{ run with tgt := { stopped := true } }, []⟩, rfl, by decide +kernel⟩,
    ⟨(3, [rec], 7), _, ⟨{ run with tgt := { guestCredits := Vector.replicate 16 1 } }, []⟩, rfl, by decide +kernel⟩,
    ⟨(3, false, 1, [rec], 7), _, ⟨{ run with tgt := { guestCredits := Vector.replicate 16 1 } }, []⟩, rfl, by decide +kernel⟩,
    ⟨rec, _, ⟨lead, []⟩, rfl, by decide +kernel⟩,
    ⟨rec, _, ⟨{ lead with tgt := { intake := List.replicate 512 { intake with stage := 1 } } }, []⟩, rfl, by decide +kernel⟩,
    ⟨(⟨4, 3, rec⟩, 7), _, ⟨{ run with tgt := { granted := Vector.replicate 32 2 } }, []⟩, rfl, by decide +kernel⟩,
    ⟨(4, 2, { intake with unsent := [4] }, 7), _, ⟨{ run with tgt := { intake := [{ intake with unsent := [4] }] } }, []⟩, rfl, by decide +kernel⟩⟩

theorem witness_TargetsClose :
        Rules.shareConfirmation.Met ∧ Rules.finalResult.Met ∧ Rules.finalResultCode.Met ∧ Rules.shareExpiry.Met ∧
    Rules.targetResult.Met ∧ Rules.targetResultGuest.Met ∧ Rules.resultAcknowledge.Met :=
  ⟨⟨(4, ⟨3, 0, 0xFFFF, 9, 0, 0, 0⟩, { intake with unconfirmed := [4] }, 7), _, ⟨{ run with tgt := { intake := [{ intake with unconfirmed := [4] }] } }, []⟩, rfl, by decide +kernel⟩,
    ⟨(4, ⟨3, 1, 130, 9, 40, 50, 1⟩, intake, 7), _, ⟨{ run with tgt := { intake := [intake] } }, []⟩, rfl, by decide +kernel⟩,
    ⟨(4, ⟨16, 5, 130, 9, 40, 50, 1⟩, 3, { intake with source := 16, owners := [4, 31], results := [(31, 3)] }, 7), _, ⟨{ lead with tgt := { intake := [{ intake with source := 16, owners := [4, 31], results := [(31, 3)] }] } }, []⟩, rfl, by decide +kernel⟩,
    ⟨(pending, 10000000000), _, ⟨{ run.put 0x2A0002 0 with tgt := { store := [pending] }, seq := { map := 16 } }, []⟩, rfl, by decide +kernel⟩,
    ⟨(⟨16, 1, 130, 9, 40, 50, 1⟩, 7), _, ⟨lead, []⟩, rfl, by decide +kernel⟩,
    ⟨(⟨3, 1, 130, 9, 40, 50, 1⟩, 7), _, ⟨run, []⟩, rfl, by decide +kernel⟩,
    ⟨(16, 9), _, ⟨{ lead with que := { results := [⟨⟨16, 1, 130, 9, 40, 50, 1⟩, true, 3⟩] } }, []⟩, rfl, by decide +kernel⟩⟩

theorem witness_TasksRun :
        Rules.taskRelease.Met ∧ Rules.taskReleaseOpen.Met ∧ Rules.taskReleaseOverflow.Met ∧ Rules.taskTake.Met ∧
    Rules.taskTakeBusy.Met ∧ Rules.taskResultWrite.Met ∧ Rules.taskResultLate.Met ∧ Rules.stealRequest.Met ∧
    Rules.stealRefused.Met ∧ Rules.stealRetry.Met :=
  ⟨⟨{ task 8 with after := [4] }, _, ⟨{ run with eng := { waiting := [{ task 8 with after := [4] }], ended := [4] } }, []⟩, rfl, by decide +kernel⟩,
    ⟨({ task 8 with after := [4] }, 4), _, ⟨{ run with eng := { waiting := [{ task 8 with after := [4] }] } }, []⟩, rfl, by decide +kernel⟩,
    ⟨task 8, _, ⟨{ run with eng := { waiting := [task 8], drays := Vector.ofFn fun k => if k.val = 6 then { queue := List.replicate 16 (task 1) } else {} } }, []⟩, rfl, by decide +kernel⟩,
    ⟨(6, task 0, List.replicate 15 (task 1)), _, ⟨drays fun k => if k = 6 then { queue := task 0 :: List.replicate 15 (task 1), overflow := [task 30, task 31] } else {}, []⟩, rfl, by decide +kernel⟩,
    ⟨6, _, ⟨drays fun _ => { running := some (task 0), queue := [task 1] }, []⟩, rfl, by decide +kernel⟩,
    ⟨(6, task 0, 7), _, ⟨drays fun k => if k = 6 then { running := some (task 0) } else {}, []⟩, rfl, by decide +kernel⟩,
    ⟨(6, task 0, 7), _, ⟨{ drays fun k => if k = 6 then { running := some (task 0) } else {} with seq := { number := 41 } }, []⟩, rfl, by decide +kernel⟩,
    ⟨(7, 6, task 0, [task 1, task 2, task 3], 7), _, ⟨{ (drays fun k => if k = 6 then { queue := [task 0, task 1, task 2, task 3] } else if k = 7 then { asked := 4 } else {}) with seq := { number := 40, phase := 1 } }, []⟩, rfl, by decide +kernel⟩,
    ⟨(7, 6, 7), _, ⟨{ (drays fun k => if k = 6 then { queue := [task 0, task 1] } else if k = 7 then { asked := 4 } else {}) with seq := { number := 40, phase := 3 } }, []⟩, rfl, by decide +kernel⟩,
    ⟨(7, 2007), _, ⟨{ (drays fun _ => { asked := 63, askedAt := some 7 }) with seq := { number := 40, phase := 1 } }, []⟩, rfl, by decide +kernel⟩⟩

theorem witness_DraysAreQuarantined :
        Rules.drayFault.Met ∧ Rules.drayCorrections.Met ∧ Rules.drayFaultSelfTest.Met ∧ Rules.drayStepOverrun.Met ∧
    Rules.meshTimeout.Met ∧ Rules.draySelfTest.Met ∧ Rules.draySelfTestRetires.Met ∧ Rules.drayRetestWrite.Met :=
  ⟨⟨(6, 7, task 0, 7), _, ⟨drays fun k => if k = 6 then { running := some (task 0), queue := [task 1] } else if k = 7 then { queue := [task 2] } else {}, []⟩, rfl, by decide +kernel⟩,
    ⟨(6, 7), _, ⟨run, []⟩, rfl, by decide +kernel⟩,
    ⟨(6, 7), _, ⟨run, []⟩, rfl, by decide +kernel⟩,
    ⟨(6, { task 0 with retry := true }, 7), _, ⟨drays fun k => if k = 6 then { running := some { task 0 with retry := true } } else {}, []⟩, rfl, by decide +kernel⟩,
    ⟨(6, 7), _, ⟨run, []⟩, rfl, by decide +kernel⟩,
    ⟨(6, 7), _, ⟨drays fun k => if k = 6 then { state := 3, recent := [39, 38] } else {}, []⟩, rfl, by decide +kernel⟩,
    ⟨(6, 7), _, ⟨drays fun k => if k = 6 then { state := 3, recent := [39, 38, 3] } else {}, []⟩, rfl, by decide +kernel⟩,
    ⟨6, _, ⟨run.put 0x240201 6, []⟩, rfl, by decide +kernel⟩⟩

theorem witness_ChannelsSwitch :
        Rules.channelSwitchOn.Met ∧ Rules.channelSwitchOnBoost.Met ∧ Rules.channelSwitchOnWaits.Met ∧
    Rules.channelSwitchOnFallback.Met ∧ Rules.channelSwitchOff.Met ∧ Rules.channelSwitchOffWaiting.Met ∧
    Rules.pwmSlotStart.Met ∧ Rules.pwmSlotExtends.Met ∧ Rules.valveRateEdge.Met ∧ Rules.endOfOnTime.Met ∧
    Rules.endOfOnTimeShort.Met :=
  ⟨⟨(3, 7), _, ⟨due (.valveOn 3) 7 (chan .off id), []⟩, rfl, by decide +kernel⟩,
    ⟨(3, 7), _, ⟨due (.valveOn 3) 7 (boosted (chan .off id)), []⟩, rfl, by decide +kernel⟩,
    ⟨(3, 7), _, ⟨due (.valveOn 3) 7 (boosted (chan .off id |>.bank 0 fun k => { k with boostPeak := some 1 })), []⟩, rfl, by decide +kernel⟩,
    ⟨(3, 7), _, ⟨due (.valveOn 3) 7 ((chan .off id).put 0x250101 1), []⟩, rfl, by decide +kernel⟩,
    ⟨(3, 7), _, ⟨due (.valveOff 3) 7 (chan .hold id), []⟩, rfl, by decide +kernel⟩,
    ⟨(3, 7), _, ⟨due (.valveOff 3) 7 ((chan .waiting id).bank 0 fun k => { k with waits := [1, 3, 2] }), []⟩, rfl, by decide +kernel⟩,
    ⟨(3, 37500000), _, ⟨(chan .off fun c => { c with on := true, duty := 6000 }).put 0x300335 1, []⟩, rfl, by decide +kernel⟩,
    ⟨(3, 40000000, 37500000), _, ⟨(chan .hold fun c => { c with on := true, duty := 6000, onEnd := some 40000000 }).put 0x300335 1, []⟩, rfl, by decide +kernel⟩,
    ⟨(3, 5000, 7), _, ⟨due (.valveRate 3 5000) 7 (chan .off id), []⟩, rfl, by decide +kernel⟩,
    ⟨(3, 7), _, ⟨chan .hold fun c => { c with onEnd := some 7 }, []⟩, rfl, by decide +kernel⟩,
    ⟨(3, 7), _, ⟨chan .peak fun c => { c with onEnd := some 7 }, []⟩, rfl, by decide +kernel⟩⟩

theorem witness_ChannelsMoveThroughPhases :
        Rules.arrivalKink.Met ∧ Rules.endOfPeak.Met ∧ Rules.endOfPeakLimit.Met ∧ Rules.endOfPeakOpenLoop.Met ∧
    Rules.waitLimit.Met ∧ Rules.releaseKink.Met ∧ Rules.releaseEnd.Met ∧ Rules.holdUnreachable.Met :=
  ⟨⟨(3, 5, 7), _, ⟨chan .peak id, []⟩, rfl, by decide +kernel⟩,
    ⟨(3, 0, 150000), _, ⟨chan .peak fun c => { c with arrival := some 0 }, []⟩, rfl, by decide +kernel⟩,
    ⟨(3, 10000000), _, ⟨chan .peak id, []⟩, rfl, by decide +kernel⟩,
    ⟨(3, 10000000), _, ⟨chan .peak fun c => { c with senseFault := true, peakTail := 150 }, []⟩, rfl, by decide +kernel⟩,
    ⟨(3, 10000000), _, ⟨chan .waiting id, []⟩, rfl, by decide +kernel⟩,
    ⟨(3, 5, 7), _, ⟨chan .release id, []⟩, rfl, by decide +kernel⟩,
    ⟨(3, 100000000), _, ⟨chan .release fun c => { c with releaseKink := some 5 }, []⟩, rfl, by decide +kernel⟩,
    ⟨(3, 7), _, ⟨chan .hold id, []⟩, rfl, by decide +kernel⟩⟩

theorem witness_ChannelFaultsAreFound :
        Rules.overcurrentTrip.Met ∧ Rules.overcurrentRetires.Met ∧ Rules.channelBackOffEnd.Met ∧
    Rules.onStateDiagnostic.Met ∧ Rules.onStateGround.Met ∧ Rules.onStateGroundCommon.Met ∧ Rules.offStateTest.Met ∧
    Rules.offStateNotTested.Met ∧ Rules.offStateTestEarly.Met ∧ Rules.channelReturnWrite.Met ∧
    Rules.channelReturns.Met :=
  ⟨⟨(3, 7), _, ⟨chan .hold fun c => { c with trips := 2 }, []⟩, rfl, by decide +kernel⟩,
    ⟨(3, 7), _, ⟨chan .hold fun c => { c with trips := 3 }, []⟩, rfl, by decide +kernel⟩,
    ⟨(3, 7), _, ⟨chan .tripped fun c => { c with backOff := 7 }, []⟩, rfl, by decide +kernel⟩,
    ⟨(3, 7), _, ⟨chan .hold fun c => { c with openRun := 2 }, []⟩, rfl, by decide +kernel⟩,
    ⟨(3, 7), _, ⟨chan .hold id, []⟩, rfl, by decide +kernel⟩,
    ⟨(3, 7), _, ⟨(chan .hold id).put 0x250106 1, []⟩, rfl, by decide +kernel⟩,
    ⟨(3, 10000000), _, ⟨chan .off fun c => { c with openRun := 2 }, []⟩, rfl, by decide +kernel⟩,
    ⟨(3, ⟨true, true, true⟩, 7), _, ⟨(chan .off id).bank 0 fun k => { k with powered := false }, []⟩, rfl, by decide +kernel⟩,
    ⟨(3, ⟨true, true, true⟩, 7, 99000000), _, ⟨chan .off fun c => { c with testedAt := some 7 }, []⟩, rfl, by decide +kernel⟩,
    ⟨3, _, ⟨chan .retired id, []⟩, rfl, by decide +kernel⟩,
    ⟨(3, 7), _, ⟨(chan .retired fun c => { c with returning := true, testDue := true }).putBit 0x250006 3 true, []⟩, rfl, by decide +kernel⟩⟩

theorem witness_BanksAndBoostAreGuarded :
        Rules.commonCurrentLimit.Met ∧ Rules.commonLimitRetires.Met ∧ Rules.commonRestore.Met ∧
    Rules.senseWindow.Met ∧ Rules.senseDegraded.Met ∧ Rules.senseFaulted.Met ∧ Rules.boostStartTimeout.Met ∧
    Rules.boostRetired.Met ∧ Rules.boostRetiredStarts.Met ∧ Rules.boostRestart.Met ∧ Rules.boostFallback.Met ∧
    Rules.boostOvervoltage.Met ∧ Rules.boostReadyRule.Met :=
  ⟨⟨(0, 7), _, ⟨chan .hold id, []⟩, rfl, by decide +kernel⟩,
    ⟨(0, 60000000001), _, ⟨(chan .hold id).bank 0 fun k => { k with limits := [2, 3] }, []⟩, rfl, by decide +kernel⟩,
    ⟨(0, 7), _, ⟨(chan .hold id).bank 0 fun k => { k with offUntil := some 7, powered := false }, []⟩, rfl, by decide +kernel⟩,
    ⟨(0, 500, 7), _, ⟨(chan .hold id).bank 0 fun k => { k with pattern := 4 }, []⟩, rfl, by decide +kernel⟩,
    ⟨(0, 7), _, ⟨(chan .hold id).bank 0 fun k => { k with pattern := 1, run := 9 }, []⟩, rfl, by decide +kernel⟩,
    ⟨(0, 7), _, ⟨(chan .hold id).bank 0 fun k => { k with pattern := 2, run := 9 }, []⟩, rfl, by decide +kernel⟩,
    ⟨100000000, _, ⟨{ armed with valve := { boost := { state := 1, restarts := 2 } } }, []⟩, rfl, by decide +kernel⟩,
    ⟨100000000, _, ⟨{ armed with valve := { boost := { state := 1, restarts := 3 } } }, []⟩, rfl, by decide +kernel⟩,
    ⟨(3, 100000000), _, ⟨{ (chan .waiting id).bank 0 (fun k => { k with waits := [3] }) with valve := { ((chan .waiting id).bank 0 fun k => { k with waits := [3] }).valve with boost := { state := 1, restarts := 3 } } }, []⟩, rfl, by decide +kernel⟩,
    ⟨7, _, ⟨{ armed.put 0x250801 1 with valve := { boost := { restartAt := some 7 } } }, []⟩, rfl, by decide +kernel⟩,
    ⟨(3, 12999, 7), _, ⟨(chan .peak id).bank 0 fun k => { k with boostPeak := some 3 }, []⟩, rfl, by decide +kernel⟩,
    ⟨(63001, 7), _, ⟨{ armed.put 0x250802 60000 with valve := { boost := { state := 2 } } }, []⟩, rfl, by decide +kernel⟩,
    ⟨(43200, 7), _, ⟨{ armed with valve := { boost := { state := 1 } } }, []⟩, rfl, by decide +kernel⟩⟩

theorem witness_LoadSwitchesSwitch :
        Rules.loadSwitchCommandWrite.Met ∧ Rules.loadSwitchCommand.Met ∧ Rules.loadSwitchCommandOff.Met ∧
    Rules.pulsePeriodStart.Met ∧ Rules.pulseTooShort.Met ∧ Rules.pulseEnd.Met ∧ Rules.pulseHeld.Met ∧
    Rules.loadSwitchTrip.Met ∧ Rules.loadSwitchLatches.Met ∧ Rules.loadSwitchBackOffEnd.Met :=
  ⟨⟨5, _, ⟨run, []⟩, rfl, by decide +kernel⟩,
    ⟨(2, 7), _, ⟨due (.loadSwitch 2 true) 7 (sw id), []⟩, rfl, by decide +kernel⟩,
    ⟨(2, 7), _, ⟨due (.loadSwitch 2 false) 7 (sw fun c => { c with on := true, cmd := true }), []⟩, rfl, by decide +kernel⟩,
    ⟨(2, 100000), _, ⟨(sw fun c => { c with cmd := true, duty := 5000 }).put 0x261201 2 |>.put 0x261A02 100, []⟩, rfl, by decide +kernel⟩,
    ⟨(2, 100000), _, ⟨(sw fun c => { c with cmd := true, duty := 99 }).put 0x261201 2 |>.put 0x261A02 100, []⟩, rfl, by decide +kernel⟩,
    ⟨(2, 7), _, ⟨sw fun c => { c with on := true, pulseEnd := some 7 }, []⟩, rfl, by decide +kernel⟩,
    ⟨(2, 7), _, ⟨{ sw (fun c => { c with on := true, pulseEnd := some 7 }) with pd := { armed.pd with clockLost := true } }, []⟩, rfl, by decide +kernel⟩,
    ⟨(2, true, 7), _, ⟨sw fun c => { c with on := true, trips := 2 }, []⟩, rfl, by decide +kernel⟩,
    ⟨(2, false, 7), _, ⟨sw fun c => { c with on := true, trips := 3 }, []⟩, rfl, by decide +kernel⟩,
    ⟨(2, 7), _, ⟨sw fun c => { c with cmd := true, backOff := some 7 }, []⟩, rfl, by decide +kernel⟩⟩

theorem witness_LoadSwitchesAreTested :
        Rules.loadSwitchThermalRestart.Met ∧ Rules.loadSwitchCountClear.Met ∧ Rules.loadSwitchNotTested.Met ∧
    Rules.loadSwitchOffStateTest.Met ∧ Rules.loadSwitchOpenLoad.Met ∧ Rules.limpHomeInput.Met ∧
    Rules.limpHomeFollows.Met ∧ Rules.lhenChange.Met ∧ Rules.lhenHigh.Met :=
  ⟨⟨(2, 7), _, ⟨sw fun c => { c with cmd := true, hot := true }, []⟩, rfl, by decide +kernel⟩,
    ⟨(2, 1000000000), _, ⟨sw fun c => { c with on := true, trips := 3 }, []⟩, rfl, by decide +kernel⟩,
    ⟨(2, true, true, 7), _, ⟨sw fun c => { c with cmd := true }, []⟩, rfl, by decide +kernel⟩,
    ⟨(2, true, 5000000), _, ⟨sw id, []⟩, rfl, by decide +kernel⟩,
    ⟨(2, 7), _, ⟨sw fun c => { c with cmd := true, on := true, openRun := 2 }, []⟩, rfl, by decide +kernel⟩,
    ⟨(1, true, 7), _, ⟨armed, []⟩, rfl, by decide +kernel⟩,
    ⟨(1, true, 7), _, ⟨{ up with lsw := { enable := true, limpHome := true, mapping := 0x98 } }, []⟩, rfl, by decide +kernel⟩,
    ⟨7, _, ⟨{ up with lsw := { enable := true, limpHome := true, mapping := 0x98 } }, []⟩, rfl, by decide +kernel⟩,
    ⟨7, _, ⟨{ up with lsw := { mapping := 0x98 } }, []⟩, rfl, by decide +kernel⟩⟩

theorem witness_BridgePwmRuns :
        Rules.pwmPeriodStart.Met ∧ Rules.loadAllWrite.Met ∧ Rules.forceWrite.Met ∧ Rules.forceApply.Met ∧
    Rules.delayLineCalibration.Met ∧ Rules.calibrationRecovers.Met ∧ Rules.calibrationFails.Met ∧
    Rules.switchNodeSwing.Met ∧ Rules.deadTimeMaximum.Met ∧ Rules.pwmFaultInput.Met ∧ Rules.interlockEvent.Met ∧
    Rules.interlockFaults.Met ∧ Rules.pairReturnWrite.Met ∧ Rules.forwardedClockLoss.Met :=
  ⟨⟨(3, 100, 0, 20000), _, ⟨due (.pwmLoad 3 100 0 0) 700000 { (pwm fun c => { c with loading := true }).put 0x270003 9 with time := { offset := 700000 } }, []⟩, rfl, by decide +kernel⟩,
    ⟨9, _, ⟨run, []⟩, rfl, by decide +kernel⟩,
    ⟨(3, 6), _, ⟨run, []⟩, rfl, by decide +kernel⟩,
    ⟨(7, [(0, 3, 5)]), _, ⟨due (.pwmForce 3 5) 7 (pwm id), []⟩, rfl, by decide +kernel⟩,
    ⟨(24, 7), _, ⟨up, []⟩, rfl, by decide +kernel⟩,
    ⟨(48, 7), _, ⟨{ up with pwm := { coarse := true, goodRun := 99 } }, []⟩, rfl, by decide +kernel⟩,
    ⟨(49, 7), _, ⟨up, []⟩, rfl, by decide +kernel⟩,
    ⟨(3, 100), _, ⟨pwm fun c => { c with force := 2, period := 100, length := 400 }, []⟩, rfl, by decide +kernel⟩,
    ⟨(3, 500), _, ⟨pwm fun c => { c with force := 2, period := 100, length := 400 }, []⟩, rfl, by decide +kernel⟩,
    ⟨(3, 1, 7), _, ⟨(((pwm fun c => { c with gh := true, force := 2 }).put 0x271307 1).put 0x271308 1), []⟩, rfl, by decide +kernel⟩,
    ⟨(3, 400, 7), _, ⟨pwm fun c => { c with gh := true, force := 10, length := 400 }, []⟩, rfl, by decide +kernel⟩,
    ⟨(3, 401, 7), _, ⟨pwm fun c => { c with gh := true, force := 10, length := 400, overlaps := 7 }, []⟩, rfl, by decide +kernel⟩,
    ⟨3, _, ⟨pwm fun c => { c with faulted := true }, []⟩, rfl, by decide +kernel⟩,
    ⟨7, _, ⟨pwm fun c => { c with gh := true }, []⟩, rfl, by decide +kernel⟩⟩

theorem witness_AxesUpdate :
        Rules.axisUpdate.Met ∧ Rules.axisUpdateSteady.Met ∧ Rules.axisUpdateAccelerates.Met ∧
    Rules.axisUpdateStops.Met ∧ Rules.axisUpdateQuickStop.Met ∧ Rules.axisUpdateGo.Met ∧ Rules.axisUpdateBlock.Met ∧
    Rules.axisUpdateFaulted.Met ∧ Rules.axisUpdateDisabled.Met ∧ Rules.axisUpdateOffTick.Met :=
  ⟨⟨(3, 5, 25000), _, ⟨axis { meter with edges := [(5, .switch true)] }, []⟩, rfl, by decide +kernel⟩,
    ⟨(3, 25000), _, ⟨axis { meter with state := 1, speed := 40000 * 691541, target := 691541, pos := 65536 * 2147483640 }, []⟩, rfl, by decide +kernel⟩,
    ⟨(3, 25000), _, ⟨(axis { meter with state := 1, speed := 40000 * 1024, target := 691541 }).put 0x28130B 0, []⟩, rfl, by decide +kernel⟩,
    ⟨(3, 5, 25000), _, ⟨(axis { meter with state := 1, speed := 40000 * 1024, target := 691541, edges := [(5, .switch false)] }).put 0x28130B 0, []⟩, rfl, by decide +kernel⟩,
    ⟨(3, 5, 25000000), _, ⟨axis { set := { mode := 2 }, state := 1, speed := 40000 * 10240, goal := 70000, remaining := true, commands := [(3, 5)] }, []⟩, rfl, by decide +kernel⟩,
    ⟨(3, 5, 25000000), _, ⟨{ axis { set := { mode := 2 }, commands := [(1, 5)] } with taken := [(0x281312, .num 100000001)] }, []⟩, rfl, by decide +kernel⟩,
    ⟨(3, 5, 25000), _, ⟨(axis { set := { mode := 2, dest := 2, guest := 5 }, linked := true, block := [1, 1, 1, 1, 1, 1, 1], blockAt := 400000, pos := -65537 }).putBit 0x2A0007 5 true, []⟩, rfl, by decide +kernel⟩,
    ⟨(3, 25000), _, ⟨axis { set := { mode := 2, dest := 2, guest := 5 }, linked := true, state := 1, speed := 40000 * 1024, target := 1024, goal := 70, remaining := true, pos := 655360 }, []⟩, rfl, by decide +kernel⟩,
    ⟨7, _, ⟨(axis { meter with edges := [(5, .switch true)] }).put 0x280001 0, []⟩, rfl, by decide +kernel⟩,
    ⟨24999, _, ⟨run, []⟩, rfl, by decide +kernel⟩⟩

theorem witness_AxisCommandsAct :
        Rules.moveGo.Met ∧ Rules.moveStop.Met ∧ Rules.quickStop.Met ∧ Rules.moveResume.Met ∧ Rules.moveAbandon.Met ∧
    Rules.positionWrite.Met ∧ Rules.positionWriteMoving.Met ∧ Rules.coarseStep.Met ∧ Rules.coarseStepTurns.Met ∧
    Rules.coarseStepTimeout.Met ∧ Rules.rowDriveStatus.Met :=
  ⟨⟨3, _, ⟨run, []⟩, rfl, by decide +kernel⟩,
    ⟨3, _, ⟨run, []⟩, rfl, by decide +kernel⟩,
    ⟨3, _, ⟨run, []⟩, rfl, by decide +kernel⟩,
    ⟨3, _, ⟨run, []⟩, rfl, by decide +kernel⟩,
    ⟨3, _, ⟨run, []⟩, rfl, by decide +kernel⟩,
    ⟨(3, -70), _, ⟨run, []⟩, rfl, by decide +kernel⟩,
    ⟨(3, -70), _, ⟨axis { state := 1 }, []⟩, rfl, by decide +kernel⟩,
    ⟨(3, true, 7), _, ⟨(axis { set := { mode := 3, stepped := true }, coarseAt := some 2 }).put 0x280004 3, []⟩, rfl, by decide +kernel⟩,
    ⟨(3, false, 7), _, ⟨(axis { set := { mode := 3, stepped := true }, coarseAt := some 2 }).put 0x280004 3, []⟩, rfl, by decide +kernel⟩,
    ⟨(3, 2, 100000002), _, ⟨(axis { set := { mode := 3, stepped := true }, coarseAt := some 2 }).put 0x280004 3, []⟩, rfl, by decide +kernel⟩,
    ⟨(⟨5, 0, 1, 0, 24000, 30, 40, 0⟩, 7), _, ⟨run, []⟩, rfl, by decide +kernel⟩⟩

theorem witness_LanesAlign :
        Rules.blockLock.Met ∧ Rules.blockLockLoss.Met ∧ Rules.blockLockLossTraining.Met ∧ Rules.markerBlock.Met ∧
    Rules.markerSync.Met ∧ Rules.markerElsewhere.Met ∧ Rules.markerAccepted.Met ∧ Rules.markerBad.Met ∧
    Rules.expectedMarkerPosition.Met ∧ Rules.expectedMarkerHunt.Met ∧ Rules.frameStart.Met ∧
    Rules.frameStartOffGrid.Met :=
  ⟨⟨(2, 7), _, ⟨run, []⟩, rfl, by decide +kernel⟩,
    ⟨(2, 7), _, ⟨synced 2 { align := 3, trained := true }, []⟩, rfl, by decide +kernel⟩,
    ⟨(2, 7), _, ⟨lanes 2 { align := 2 }, []⟩, rfl, by decide +kernel⟩,
    ⟨(2, block, 7), _, ⟨lanes 2 { align := 1 }, []⟩, rfl, by decide +kernel⟩,
    ⟨(2, block, ⟨100, 7, 3⟩, 1700), _, ⟨lanes 2 { align := 2, candidates := [⟨100, 7, 3⟩], attempt := true }, []⟩, rfl, by decide +kernel⟩,
    ⟨(2, block, 104), _, ⟨lanes 2 { align := 3, instant := 100, counter := 7 }, []⟩, rfl, by decide +kernel⟩,
    ⟨(2, block, 1700), _, ⟨lanes 2 { align := 3, instant := 100, counter := 7, bad := 2 }, []⟩, rfl, by decide +kernel⟩,
    ⟨(2, torn, 1700), _, ⟨synced 2 { align := 3, trained := true, instant := 100, counter := 7, bad := 2 }, []⟩, rfl, by decide +kernel⟩,
    ⟨(2, 7), _, ⟨lanes 2 { align := 3, bad := 1 }, []⟩, rfl, by decide +kernel⟩,
    ⟨(2, ⟨100, 7, 2⟩, 1700), _, ⟨lanes 2 { align := 2, candidates := [⟨100, 7, 2⟩] }, []⟩, rfl, by decide +kernel⟩,
    ⟨(.a, 1600), _, ⟨{ lanes 2 {} with link := { ports := Vector.replicate 2 { far := 0x38 } } }, []⟩, rfl, by decide +kernel⟩,
    ⟨(.a, 1601), _, ⟨run, []⟩, rfl, by decide +kernel⟩⟩

theorem witness_MessagesAreAcknowledged :
        Rules.messageReceived.Met ∧ Rules.messageBadCrc.Met ∧ Rules.messageGap.Met ∧ Rules.messageBroadcast.Met ∧
    Rules.messageCopy.Met ∧ Rules.messageGuestBad.Met ∧ Rules.linkAcknowledgement.Met ∧
    Rules.linkNegativeAcknowledgement.Met ∧ Rules.replayTimeout.Met ∧ Rules.replayTimeoutEarly.Met ∧
    Rules.replayUndeliverable.Met ∧ Rules.linkBusy.Met ∧ Rules.busyWaitEnd.Met ∧ Rules.segmentTimeout.Met ∧
    Rules.guestMessageTimeout.Met :=
  ⟨⟨(.a, { msg 2 with seq := 255 }, 200), _, ⟨{ lanes 0 { align := 3 } with link := { lanes := Vector.replicate 4 { align := 3 }, ports := Vector.replicate 2 { data := { expected := 255 } } } }, []⟩, rfl, by decide +kernel⟩,
    ⟨(.a, msg 3, 1, 200), _, ⟨lanes 0 { align := 3 }, []⟩, rfl, by decide +kernel⟩,
    ⟨(.a, msg 2, 200), _, ⟨lanes 0 { align := 3 }, []⟩, rfl, by decide +kernel⟩,
    ⟨(.a, { msg 1 with dest := 63 }, 7), _, ⟨{ run with link := { lanes := Vector.replicate 4 { align := 3 }, ports := Vector.replicate 2 { far := 0x30 } }, ch := { upstream := some .a } }, []⟩, rfl, by decide +kernel⟩,
    ⟨(.a, msg 1, 7), _, ⟨{ run with link := { lanes := Vector.replicate 4 { align := 3 }, last := [((4, 1), 9)] } }, []⟩, rfl, by decide +kernel⟩,
    ⟨(.a, msg 4, 1, 200), _, ⟨lanes 0 { align := 3 }, []⟩, rfl, by decide +kernel⟩,
    ⟨(.a, 2, sent 1, [{ sent 1 with seq := 8 }], 7), _, ⟨marks { replay := [sent 1, { sent 1 with seq := 8 }] }, []⟩, rfl, by decide +kernel⟩,
    ⟨(.a, 2, sent 3, 7, 7), _, ⟨marks { replay := [sent 3] }, []⟩, rfl, by decide +kernel⟩,
    ⟨(.a, 2, sent 3, 10005), _, ⟨marks { replay := [sent 3] }, []⟩, rfl, by decide +kernel⟩,
    ⟨(.a, 2, sent 3, 10004), _, ⟨marks { replay := [sent 3] }, []⟩, rfl, by decide +kernel⟩,
    ⟨(.a, 2, sent 4, 10005), _, ⟨{ (marks { replay := [sent 4] }).put 0x2A0001 1 with ch := { table := [⟨1, 0, 5, .a, 1, 1⟩] } }, []⟩, rfl, by decide +kernel⟩,
    ⟨(.a, 2, 7, 7), _, ⟨marks { replay := [sent 4] }, []⟩, rfl, by decide +kernel⟩,
    ⟨(.a, 2, sent 4, 10007, 10007), _, ⟨marks { replay := [sent 4], busyUntil := some 10007 }, []⟩, rfl, by decide +kernel⟩,
    ⟨(⟨4, 77, 5, [0, 2], 3⟩, 10000005), _, ⟨{ run with link := { segments := [⟨4, 77, 5, [0, 2], 3⟩] } }, []⟩, rfl, by decide +kernel⟩,
    ⟨(.a, msg 4, 5, 2000006), _, ⟨{ run with link := { ports := Vector.replicate 2 { guests := [(msg 4, 5)] } } }, []⟩, rfl, by decide +kernel⟩⟩

theorem witness_LanesAreRetrained :
        Rules.frameStartAdapts.Met ∧ Rules.blockHeaderBad.Met ∧ Rules.blockControlBad.Met ∧ Rules.errorRateAlarm.Met
    ∧ Rules.errorRateBelow.Met ∧ Rules.retrainAttempt.Met ∧ Rules.retrainRetires.Met ∧ Rules.retrainTimeout.Met ∧
    Rules.retrainTimeoutRetires.Met ∧ Rules.laneReinstate.Met ∧ Rules.retiredLaneRetestWrite.Met ∧
    Rules.portTrainingTimeout.Met :=
  ⟨⟨(.a, 1600), _, ⟨lanes 0 { align := 1, ctle := 200, dfe := -200 }, []⟩, rfl, by decide +kernel⟩,
    ⟨(2, ⟨lineBlock 0 3 0, 0⟩, 7), _, ⟨lanes 2 { align := 1 }, []⟩, rfl, by decide +kernel⟩,
    ⟨(2, ⟨lineBlock 0 2 0x1166, 0⟩, 104), _, ⟨lanes 2 { align := 3, instant := 100, counter := 7 }, []⟩, rfl, by decide +kernel⟩,
    ⟨(2, 101, 7), _, ⟨synced 2 { align := 3, trained := true }, []⟩, rfl, by decide +kernel⟩,
    ⟨(2, 100, 7), _, ⟨synced 2 { align := 3, trained := true }, []⟩, rfl, by decide +kernel⟩,
    ⟨(2, 1000000), _, ⟨lanes 2 { trained := true, fails := 1, retryAt := 1000000 }, []⟩, rfl, by decide +kernel⟩,
    ⟨(2, 60000000000), _, ⟨synced 2 { trained := true, fails := 1, retrains := [1, 2, 3, 4, 5, 6, 7] }, []⟩, rfl, by decide +kernel⟩,
    ⟨(2, 20000005), _, ⟨lanes 2 { attempt := true, attemptAt := 5, fails := 2 }, []⟩, rfl, by decide +kernel⟩,
    ⟨(2, 20000005), _, ⟨synced 2 { attempt := true, attemptAt := 5, fails := 3 }, []⟩, rfl, by decide +kernel⟩,
    ⟨(2, 1000000005), _, ⟨(synced 2 { align := 3, syncAt := 5, retest := true }).put 0x290002 4, []⟩, rfl, by decide +kernel⟩,
    ⟨2, _, ⟨run.put 0x290002 6, []⟩, rfl, by decide +kernel⟩,
    ⟨(.a, 200000000), _, ⟨run, []⟩, rfl, by decide +kernel⟩⟩

theorem witness_ChainIsEnumerated :
        Rules.enumerationProbe.Met ∧ Rules.probeForwarded.Met ∧ Rules.probeMismatch.Met ∧ Rules.probeRing.Met ∧
    Rules.probeConflict.Met ∧ Rules.enumerationReport.Met ∧ Rules.reportReturns.Met ∧
    Rules.enumerationReportWait.Met ∧ Rules.reportWaitPortB.Met ∧ Rules.chainTable.Met ∧ Rules.enumerationRetry.Met
    ∧ Rules.messageSlotDropped.Met ∧ Rules.messageBreakNotice.Met :=
  ⟨⟨(.b, 5, .a, 2, 7), _, ⟨run, []⟩, rfl, by decide +kernel⟩,
    ⟨(.b, 5, .a, 2, 7), _, ⟨ports 0x30, []⟩, rfl, by decide +kernel⟩,
    ⟨(.b, 5, .a, 2, 7), _, ⟨run.put 0x2A0003 4, []⟩, rfl, by decide +kernel⟩,
    ⟨(5, 2, 7), _, ⟨{ lead with pins := { role := true }, ch := { probedA := true } }, []⟩, rfl, by decide +kernel⟩,
    ⟨(5, 2, 7), _, ⟨{ lead with pins := { role := true } }, []⟩, rfl, by decide +kernel⟩,
    ⟨(report, 7), _, ⟨lead, []⟩, rfl, by decide +kernel⟩,
    ⟨(report, node 1 5 .a 1, 7), _, ⟨{ lead with ch := { enumerated := true, table := [node 1 5 .a 1], missingGuests := 0x21 } }, []⟩, rfl, by decide +kernel⟩,
    ⟨20000000, _, ⟨{ lead with ch := { probedA := true, probedB := true }, time := { seeded := true } }, []⟩, rfl, by decide +kernel⟩,
    ⟨20000000, _, ⟨{ lead with ch := { probedA := true }, link := { lanes := Vector.replicate 4 { align := 3 }, ports := Vector.replicate 2 { far := 0x30 } } }, []⟩, rfl, by decide +kernel⟩,
    ⟨([node 0 0 .a 0, node 0 5 .a 2], node 0 5 .a 2, 9, 5, 0x21, 7), _, ⟨wheeler { upstream := some .a }, []⟩, rfl, by decide +kernel⟩,
    ⟨1000000000, _, ⟨{ (ports 0x30).put 0x2A0001 1 with ch := { conflict := true, rival := true, retryAt := 1000000000 } }, []⟩, rfl, by decide +kernel⟩,
    ⟨(.a, msg 2, 1, 60), _, ⟨{ lanes 0 { align := 3 } with link := { lanes := Vector.replicate 4 { align := 3 }, ports := Vector.replicate 2 { slotBad := true } } }, []⟩, rfl, by decide +kernel⟩,
    ⟨(.a, { msg 1 with dest := 63, kind := 8 }, [1], 200), _, ⟨{ run with link := { lanes := Vector.replicate 4 { align := 3 }, ports := Vector.replicate 2 { far := 0x30 } }, ch := { upstream := some .b, enumerated := true } }, []⟩, rfl, by decide +kernel⟩⟩

theorem witness_ChainSurvivesFailures :
        Rules.breakNotice.Met ∧ Rules.ringRestore.Met ∧ Rules.echoPeriod.Met ∧ Rules.echoPeriodEarly.Met ∧
    Rules.echoRequest.Met ∧ Rules.echoResponse.Met ∧ Rules.echoResponseOdd.Met ∧ Rules.standbyMirror.Met ∧
    Rules.markerMissing.Met ∧ Rules.markerMissingEarly.Met ∧ Rules.takeover.Met ∧ Rules.takeoverNotice.Met ∧
    Rules.takeoverNoticeOther.Met :=
  ⟨⟨(node 0 1 .a 1, node 0 2 .a 2, 7), _, ⟨{ run.put 0x2A0002 2 with ch := { ring := true, hops := 2, upstream := some .a, enumerated := true, table := [⟨1, 0, 0, .a, 0, 255⟩, node 0 1 .a 1, node 0 2 .a 2] } }, []⟩, rfl, by decide +kernel⟩,
    ⟨7, _, ⟨{ lead with ch := { ring := true, reversed := true } }, []⟩, rfl, by decide +kernel⟩,
    ⟨160000, _, ⟨ports 0x30, []⟩, rfl, by decide +kernel⟩,
    ⟨1000004, _, ⟨{ ports 0x30 with link := { ports := Vector.replicate 2 { far := 0x30, echoAt := some 5 } } }, []⟩, rfl, by decide +kernel⟩,
    ⟨(.a, 0, 7), _, ⟨ports 0x30, []⟩, rfl, by decide +kernel⟩,
    ⟨(.a, 9, ⟨60400, 40400⟩, 7), _, ⟨ports 0x30, []⟩, rfl, by decide +kernel⟩,
    ⟨(.a, 9, ⟨70000, 40000⟩, 50400, 7), _, ⟨{ ports 0x30 with link := { lanes := Vector.replicate 4 { align := 3 }, ports := Vector.replicate 2 { far := 0x30, delays := [50400] } } }, []⟩, rfl, by decide +kernel⟩,
    ⟨(mirror, 7), _, ⟨run.put 0x2A0001 2, []⟩, rfl, by decide +kernel⟩,
    ⟨2750, _, ⟨{ run.put 0x2A0001 2 with ch := { upstream := some .a } }, []⟩, rfl, by decide +kernel⟩,
    ⟨(.a, 2749), _, ⟨{ run.put 0x2A0001 2 with ch := { upstream := some .a } }, []⟩, rfl, by decide +kernel⟩,
    ⟨(32, 5950), _, ⟨{ (run.put 0x2A0001 2).put 0x2A0002 5 with ch := { upstream := some .b, silent := 2, enumerated := true }, seq := { map := 33, number := 40, running := true, t0 := 3000000 } }, []⟩, rfl, by decide +kernel⟩,
    ⟨7, _, ⟨wheeler { enumerated := true }, []⟩, rfl, by decide +kernel⟩,
    ⟨(node 0 2 .a 1, node 0 5 .a 3, 7), _, ⟨wheeler { enumerated := true, table := [node 0 2 .a 1, node 0 5 .a 3], hops := 3, upstream := some .a }, []⟩, rfl, by decide +kernel⟩⟩

theorem witness_SweepsRun :
        Rules.sweepStart.Met ∧ Rules.sweepStartRunning.Met ∧ Rules.sweepStartWorking.Met ∧ Rules.sweepCancel.Met ∧
    Rules.sweepStepRequest.Met ∧ Rules.sweepStepComplete.Met ∧ Rules.sweepStepEarly.Met ∧ Rules.sweepStepLead.Met ∧
    Rules.sweepPoll.Met ∧ Rules.sweepPollEarly.Met ∧ Rules.sweepStepTimeout.Met :=
  ⟨⟨(2, 0), _, ⟨{ lead.put 0x2A0002 0 with seq := { map := 1 } }, []⟩, rfl, by decide +kernel⟩,
    ⟨(2, 0), _, ⟨{ lead.put 0x2A0002 0 with swp := { state := 1 } }, []⟩, rfl, by decide +kernel⟩,
    ⟨0, _, ⟨lead, []⟩, rfl, by decide +kernel⟩,
    ⟨7, _, ⟨{ lead with swp := { state := 1 } }, []⟩, rfl, by decide +kernel⟩,
    ⟨(3, 2, 0), _, ⟨run, []⟩, rfl, by decide +kernel⟩,
    ⟨(true, [1, 2], 20000000), _, ⟨{ run with swp := { step := 1, stepKind := 2 } }, []⟩, rfl, by decide +kernel⟩,
    ⟨([1, 2], 19999999), _, ⟨{ run with swp := { step := 1, stepKind := 2 } }, []⟩, rfl, by decide +kernel⟩,
    ⟨(true, [1, 2], { position := 0, attempts := 1 }, 20000000), _, ⟨{ lead.put 0x2A0002 0 with swp := { step := 1, stepKind := 2, state := 1, current := some 0, record := [{ position := 0, attempts := 1 }] } }, []⟩, rfl, by decide +kernel⟩,
    ⟨(5, 7), _, ⟨{ lead.put 0x2A0002 0 with swp := { state := 1, current := some 5 } }, []⟩, rfl, by decide +kernel⟩,
    ⟨100000004, _, ⟨{ lead with swp := { current := some 5, polledAt := some 5 } }, []⟩, rfl, by decide +kernel⟩,
    ⟨({ position := 5, attempts := 1 }, 1000000000), _, ⟨{ lead.put 0x2A0002 0 with swp := { kind := 2, state := 1, current := some 5, record := [{ position := 5, attempts := 1 }] } }, []⟩, rfl, by decide +kernel⟩⟩

theorem witness_BasebandStarts :
        Rules.basebandStart.Met ∧ Rules.basebandStartUnverified.Met ∧ Rules.scriptRetryEarly.Met ∧
    Rules.scriptRetry.Met ∧ Rules.scriptRetryFails.Met ∧ Rules.agcRoundEarly.Met ∧ Rules.agcRound.Met ∧
    Rules.agcRoundHeld.Met ∧ Rules.notchSearch.Met ∧ Rules.notchSearchKeeps.Met ∧ Rules.notchSearchReleases.Met ∧
    Rules.sampleClockLoss.Met ∧ Rules.sampleClockReturn.Met ∧ Rules.seedWaitEarly.Met ∧ Rules.seedWaitExpiry.Met :=
  ⟨⟨7, _, ⟨run.put 0x2B0001 1, []⟩, rfl, by decide +kernel⟩,
    ⟨7, _, ⟨run.put 0x2B0001 1, []⟩, rfl, by decide +kernel⟩,
    ⟨(true, 100000004), _, ⟨{ run with gnss := { failedRuns := 1, scriptAt := 5 } }, []⟩, rfl, by decide +kernel⟩,
    ⟨100000005, _, ⟨{ run with gnss := { failedRuns := 1, scriptAt := 5 } }, []⟩, rfl, by decide +kernel⟩,
    ⟨1000000005, _, ⟨{ run with gnss := { failedRuns := 2, scriptAt := 5 } }, []⟩, rfl, by decide +kernel⟩,
    ⟨(1, 299, 5, 10000004), _, ⟨gnss { inputs := (Vector.replicate 2 {}).set 1 { agcAt := some 5 } }, []⟩, rfl, by decide +kernel⟩,
    ⟨(1, 299, 7), _, ⟨(gnss {}).put 0x2B0106 0x00120004, []⟩, rfl, by decide +kernel⟩,
    ⟨(1, 401, 7), _, ⟨gnss {}, []⟩, rfl, by decide +kernel⟩,
    ⟨(0, [⟨100, 300⟩, ⟨-200, 290⟩, ⟨300, 280⟩, ⟨90000, 151⟩, ⟨5, 150⟩, ⟨7, 149⟩], 7), _, ⟨gnss {}, []⟩, rfl, by decide +kernel⟩,
    ⟨(0, ⟨700, 1⟩, ⟨-24300, 120⟩, 10000007), _, ⟨gnss { inputs := (Vector.replicate 2 {}).set 0 { notches := [⟨700, 1⟩], searchAt := some 7 } }, []⟩, rfl, by decide +kernel⟩,
    ⟨(0, ⟨700, 1⟩, 1000000001), _, ⟨gnss { inputs := (Vector.replicate 2 {}).set 0 { notches := [⟨700, 1⟩] } }, []⟩, rfl, by decide +kernel⟩,
    ⟨(0, 7), _, ⟨tracker 3, []⟩, rfl, by decide +kernel⟩,
    ⟨(0, 7), _, ⟨gnss { inputs := (Vector.replicate 2 {}).set 0 { clock := false }, channels := (Vector.replicate 64 {}).set 7 { satellite := some ⟨1, 12, 4000, 90⟩ } }, []⟩, rfl, by decide +kernel⟩,
    ⟨2500000004, _, ⟨{ lead with gnss := { waits := true, startedAt := 5 } }, []⟩, rfl, by decide +kernel⟩,
    ⟨2500000005, _, ⟨{ lead with gnss := { waits := true, startedAt := 5 } }, []⟩, rfl, by decide +kernel⟩⟩

theorem witness_SignalsAreTracked :
        Rules.channelAllocation.Met ∧ Rules.channelAllocationEarly.Met ∧ Rules.channelAllocationNone.Met ∧
    Rules.acquisitionPeak.Met ∧ Rules.acquisitionExhausted.Met ∧ Rules.channelLock.Met ∧ Rules.channelTooEarly.Met ∧
    Rules.pullInTimeout.Met ∧ Rules.trackLoss.Met ∧ Rules.sidePeakLock.Met ∧ Rules.reacquirePeak.Met ∧
    Rules.reacquireTimeout.Met ∧ Rules.keptDataCommitEarly.Met ∧ Rules.keptDataCommit.Met ∧
    Rules.keptDataCommitErases.Met ∧ Rules.keptDataErase.Met ∧ Rules.startFallback.Met :=
  ⟨⟨(⟨1, 12, 4000, 90⟩, ⟨0, 3, 7000, 80⟩, 7), _, ⟨gnss { fixed := true }, []⟩, rfl, by decide +kernel⟩,
    ⟨([⟨1, 12, 4000, 90⟩], 5, 1000000004), _, ⟨gnss { allottedAt := some 5 }, []⟩, rfl, by decide +kernel⟩,
    ⟨(⟨1, 12, 1819, 90⟩, 7), _, ⟨gnss { fixed := true }, []⟩, rfl, by decide +kernel⟩,
    ⟨(7, 7), _, ⟨tracker 1, []⟩, rfl, by decide +kernel⟩,
    ⟨(7, 7), _, ⟨tracker 1, []⟩, rfl, by decide +kernel⟩,
    ⟨(7, 200000000), _, ⟨tracker 2, []⟩, rfl, by decide +kernel⟩,
    ⟨(7, 1999999999), _, ⟨tracker 2, []⟩, rfl, by decide +kernel⟩,
    ⟨(7, 2000000000), _, ⟨tracker 2, []⟩, rfl, by decide +kernel⟩,
    ⟨(7, 200000000), _, ⟨tracker 3, []⟩, rfl, by decide +kernel⟩,
    ⟨(7, #v[8, 5, 4, 10, 4, 5, 3], 100000000), _, ⟨tracker 3, []⟩, rfl, by decide +kernel⟩,
    ⟨(7, 7), _, ⟨tracker 4, []⟩, rfl, by decide +kernel⟩,
    ⟨(7, 10000000000), _, ⟨tracker 4, []⟩, rfl, by decide +kernel⟩,
    ⟨59999999999, _, ⟨run, []⟩, rfl, by decide +kernel⟩,
    ⟨60000000000, _, ⟨{ run with gnss := { changed := true, fixed := true } }, []⟩, rfl, by decide +kernel⟩,
    ⟨60000000000, _, ⟨{ run with gnss := { changed := true, erase := true } }, []⟩, rfl, by decide +kernel⟩,
    ⟨(), _, ⟨run, []⟩, rfl, by decide +kernel⟩,
    ⟨5000000000, _, ⟨gnss { startKind := 0 }, []⟩, rfl, by decide +kernel⟩⟩

theorem witness_EpochsAndCorrectionsFlow :
        Rules.gnssSolutionRtk.Met ∧ Rules.measurementEpochOff.Met ∧ Rules.measurementEpoch.Met ∧
    Rules.measurementEpochLead.Met ∧ Rules.baseEpoch.Met ∧ Rules.baseEpochLate.Met ∧ Rules.correctionInput.Met ∧
    Rules.correctionInputBase.Met ∧ Rules.correctionInputDiscarded.Met ∧ Rules.leapSecond.Met :=
  ⟨⟨({ fix with kind := 5 }, 5, 7), _, ⟨{ run with gnss := { running := true, correctedAt := some 5, rtk := { good := 2, bad := 2 } } }, []⟩, rfl, by decide +kernel⟩,
    ⟨(Vector.replicate 64 {}, 50000001), _, ⟨tracker 3, []⟩, rfl, by decide +kernel⟩,
    ⟨(Vector.replicate 64 { pseudorange := 9, cn0 := 45, flags := 7 }, 50000000), _, ⟨tracker 3, []⟩, rfl, by decide +kernel⟩,
    ⟨(Vector.replicate 64 {}, 50000000), _, ⟨{ (gnss {}).put 0x2A0001 1 with seq := { running := true, map := 3 } }, []⟩, rfl, by decide +kernel⟩,
    ⟨(100000000, ⟨bfix, 196608, 5⟩, 7), _, ⟨(gnss { baseRtk := { good := 2 } }).put 0x2B0401 1, []⟩, rfl, by decide +kernel⟩,
    ⟨(100000000, ⟨bfix, 196608, 5⟩, 250000001), _, ⟨(gnss {}).put 0x2B0401 1, []⟩, rfl, by decide +kernel⟩,
    ⟨(⟨1005, 77, true, (1, 2, 3)⟩, 0), _, ⟨lead, []⟩, rfl, by decide +kernel⟩,
    ⟨(⟨1006, 0xFFFF, true, (100, 0, 0)⟩, 0), _, ⟨lead, []⟩, rfl, by decide +kernel⟩,
    ⟨(⟨1077, 77, false, (0, 0, 0)⟩, 0), _, ⟨lead, []⟩, rfl, by decide +kernel⟩,
    ⟨7, _, ⟨run, []⟩, rfl, by decide +kernel⟩⟩

theorem witness_CanControllersAct :
        Rules.canFrameReceived.Met ∧ Rules.canFrameReceivedFd.Met ∧ Rules.canFrameReceivedFull.Met ∧
    Rules.busOff.Met ∧ Rules.busOffWaits.Met ∧ Rules.busOffTenth.Met ∧ Rules.busOffRecovery.Met ∧
    Rules.busOffRecoveryComplete.Met ∧ Rules.addressClaim.Met ∧ Rules.addressClaimLost.Met ∧
    Rules.addressClaimCannot.Met :=
  ⟨⟨(⟨0x18EAFF80, true, false, [1]⟩, 7), _, ⟨buses, []⟩, rfl, by decide +kernel⟩,
    ⟨(⟨0x18EAFF80, true, true, [1]⟩, 7), _, ⟨buses, []⟩, rfl, by decide +kernel⟩,
    ⟨(⟨0x18EAFF80, true, false, [1]⟩, 7), _, ⟨{ run with power := { run.power with halted0 := true }, can := { buses := Vector.replicate 2 { state := 2, fifo := List.replicate 32 ⟨1, false, false, []⟩ } } }, []⟩, rfl, by decide +kernel⟩,
    ⟨7, _, ⟨buses, []⟩, rfl, by decide +kernel⟩,
    ⟨(1, 2, 3, 7), _, ⟨offs [1, 2, 3], []⟩, rfl, by decide +kernel⟩,
    ⟨(1, 7), _, ⟨offs (List.replicate 9 1), []⟩, rfl, by decide +kernel⟩,
    ⟨(1, 5, 7), _, ⟨{ run with can := { buses := Vector.replicate 2 { state := 5, waitUntil := some 5 } } }, []⟩, rfl, by decide +kernel⟩,
    ⟨(1, 7), _, ⟨{ run with can := { buses := Vector.replicate 2 { state := 4, txErrors := 200 } } }, []⟩, rfl, by decide +kernel⟩,
    ⟨(2 ^ 64, 7), _, ⟨{ buses with obj := [(0x2C2001, .num 7)] }, []⟩, rfl, by decide +kernel⟩,
    ⟨(5, 7), _, ⟨{ buses with obj := [(0x2C2001, .num 7)] }, []⟩, rfl, by decide +kernel⟩,
    ⟨(5, 128, 7), _, ⟨{ buses with obj := [(0x2C2001, .num 7), (0x2C2006, .num 0)] }, []⟩, rfl, by decide +kernel⟩⟩

theorem witness_Iso11783Serves :
        Rules.transportPacket.Met ∧ Rules.transportPacketRefused.Met ∧ Rules.transportPacketLast.Met ∧
    Rules.transportTimeout.Met ∧ Rules.diagnosticRequest.Met ∧ Rules.dm3Clear.Met ∧ Rules.dm11Clear.Met ∧
    Rules.dm1Send.Met ∧ Rules.dm1SendEarly.Met ∧ Rules.dm1SendNone.Met :=
  ⟨⟨(9, 61184, [1, 2, 3], 7), _, ⟨buses, []⟩, rfl, by decide +kernel⟩,
    ⟨(⟨1, 5, 7, 1, false⟩, ⟨2, 5, 7, 1, false⟩, (9, 5, [1]), 7), _, ⟨iso { sessions := [⟨1, 5, 7, 1, false⟩, ⟨2, 5, 7, 1, false⟩] }, []⟩, rfl, by decide +kernel⟩,
    ⟨(⟨1, 5, 7, 1, false⟩, [1, 2], 7), _, ⟨iso { sessions := [⟨1, 5, 7, 1, false⟩] }, []⟩, rfl, by decide +kernel⟩,
    ⟨(⟨1, 5, 7, 1, false⟩, 7), _, ⟨iso { sessions := [⟨1, 5, 7, 1, false⟩] }, []⟩, rfl, by decide +kernel⟩,
    ⟨(65227, 9, 7), _, ⟨{ buses with diag := { dtcs := [⟨0x0102, 3, 2, false⟩] } }, []⟩, rfl, by decide +kernel⟩,
    ⟨(9, 7), _, ⟨{ buses with diag := { dtcs := [⟨0x0102, 3, 2, false⟩, ⟨0x0104, 3, 2, true⟩] } }, []⟩, rfl, by decide +kernel⟩,
    ⟨(9, 7), _, ⟨{ buses with diag := { dtcs := [⟨0x0102, 3, 2, false⟩, ⟨0x0104, 3, 2, true⟩] } }, []⟩, rfl, by decide +kernel⟩,
    ⟨7, _, ⟨{ buses with diag := { dtcs := [⟨0x0104, 3, 2, true⟩] } }, []⟩, rfl, by decide +kernel⟩,
    ⟨(2000000006, 1000000007), _, ⟨{ buses with diag := { dtcs := [⟨0x0104, 3, 2, true⟩], dm1At := some 1000000007 } }, []⟩, rfl, by decide +kernel⟩,
    ⟨7, _, ⟨{ buses with diag := { dtcs := [⟨0x0104, 3, 2, false⟩] } }, []⟩, rfl, by decide +kernel⟩⟩

theorem witness_TaskControllerCommands :
        Rules.tcServerStatus.Met ∧ Rules.tcServerStatusActive.Met ∧ Rules.tcServerLost.Met ∧
    Rules.tcServerLostEarly.Met ∧ Rules.tcValueCommand.Met ∧ Rules.tcValueCommandSections.Met ∧
    Rules.tcMeasurementCommand.Met ∧ Rules.proprietaryARequest.Met ∧ Rules.proprietaryARequestOther.Met ∧
    Rules.proprietaryAWrite.Met :=
  ⟨⟨(0, [1], 7), _, ⟨((iso { tc := 1 }).put 0x2A0001 1).put 0x2C2008 1, []⟩, rfl, by decide +kernel⟩,
    ⟨(0, 7), _, ⟨(((iso { tc := 2 }).put 0x2A0001 1).put 0x2C2008 1).putVal 0x2C200B (.bytes (List.replicate 7 0)), []⟩, rfl, by decide +kernel⟩,
    ⟨6000000000, _, ⟨iso { tc := 3, workOff := true }, []⟩, rfl, by decide +kernel⟩,
    ⟨5999999999, _, ⟨iso { tc := 3, workOff := true }, []⟩, rfl, by decide +kernel⟩,
    ⟨(1, 0, 7), _, ⟨iso { tc := 3 }, []⟩, rfl, by decide +kernel⟩,
    ⟨(1, 7), _, ⟨(iso { tc := 3, blocked := Vector.replicate 8 2 }).put 0x210001 1, []⟩, rfl, by decide +kernel⟩,
    ⟨((1, 141, 4), 1, 7), _, ⟨iso { tc := 3 }, []⟩, rfl, by decide +kernel⟩,
    ⟨(55, 0, .num 0, 7), _, ⟨buses, []⟩, rfl, by decide +kernel⟩,
    ⟨((55, 1, 0x240201), 0, .num 0, 7), _, ⟨buses.put 0x2C200C 56, []⟩, rfl, by decide +kernel⟩,
    ⟨(55, 9, 6, 7), _, ⟨buses, []⟩, rfl, by decide +kernel⟩⟩

theorem witness_CanOpenServes :
        Rules.nmtOperational.Met ∧ Rules.nmtPreOperational.Met ∧ Rules.nmtStop.Met ∧ Rules.nmtResetCommunication.Met
    ∧ Rules.nmtResetNode.Met ∧ Rules.nmtOther.Met ∧ Rules.sdoRequest.Met ∧ Rules.sdoRequestWrite.Met ∧
    Rules.sdoTimeout.Met ∧ Rules.sdoTimeoutEarly.Met ∧ Rules.rpdo.Met ∧ Rules.rpdoWithheld.Met ∧
    Rules.heartbeatSend.Met ∧ Rules.heartbeatSendEarly.Met ∧ Rules.heartbeatTimeout.Met ∧
    Rules.heartbeatTimeoutEarly.Met :=
  ⟨⟨(16, 7), _, ⟨buses, []⟩, rfl, by decide +kernel⟩,
    ⟨(0, 7), _, ⟨buses, []⟩, rfl, by decide +kernel⟩,
    ⟨(16, 7), _, ⟨buses, []⟩, rfl, by decide +kernel⟩,
    ⟨(16, 7), _, ⟨buses, []⟩, rfl, by decide +kernel⟩,
    ⟨(16, 7), _, ⟨buses, []⟩, rfl, by decide +kernel⟩,
    ⟨(17, 7), _, ⟨buses, []⟩, rfl, by decide +kernel⟩,
    ⟨7, _, ⟨buses, []⟩, rfl, by decide +kernel⟩,
    ⟨(.num 6, 7), _, ⟨buses, []⟩, rfl, by decide +kernel⟩,
    ⟨(0x240201, 1000000007), _, ⟨copen { sdo := some 0x240201 }, []⟩, rfl, by decide +kernel⟩,
    ⟨1000000006, _, ⟨copen { sdo := some 0x240201, sdoAt := 7 }, []⟩, rfl, by decide +kernel⟩,
    ⟨(6, 7), _, ⟨(copen { nmt := 5 }).put 0x2C4801 5 |>.putVal 0x2C4806 (.bytes [0x02, 0x24, 0x01, 8]), []⟩, rfl, by decide +kernel⟩,
    ⟨(2, [1], 7), _, ⟨buses, []⟩, rfl, by decide +kernel⟩,
    ⟨1000000000, _, ⟨buses, []⟩, rfl, by decide +kernel⟩,
    ⟨999999999, _, ⟨buses, []⟩, rfl, by decide +kernel⟩,
    ⟨(1, 100000007), _, ⟨{ buses.put 0x101602 0x00100064 with can := { buses.can with copen := { buses.can.copen with heard := (Vector.replicate 2 none).set 1 (some 7) } } }, []⟩, rfl, by decide +kernel⟩,
    ⟨(1, 100000006), _, ⟨{ buses.put 0x101602 0x00100064 with can := { buses.can with copen := { buses.can.copen with heard := (Vector.replicate 2 none).set 1 (some 7) } } }, []⟩, rfl, by decide +kernel⟩⟩

theorem witness_RemoteAccessServes :
        Rules.dictionaryRequest.Met ∧ Rules.dictionaryRequestAborted.Met ∧ Rules.dictionaryRequestWrite.Met ∧
    Rules.dictionaryRequestDuplicate.Met ∧ Rules.dictionaryRequestOrdered.Met ∧ Rules.dictionaryResponse.Met ∧
    Rules.dictionaryResponseBusy.Met ∧ Rules.dictionaryResponseRead.Met ∧ Rules.remoteRequestTimeout.Met ∧
    Rules.remoteForwardTimeout.Met ∧ Rules.aggregatorBusyResend.Met :=
  ⟨⟨(req 1 0x180103 0 (.num 0), 7), _, ⟨run, []⟩, rfl, by decide +kernel⟩,
    ⟨(req 1 0x2A2101 0 (.num 0), 7), _, ⟨run, []⟩, rfl, by decide +kernel⟩,
    ⟨(req 2 0x240201 4 (.num 6), 7), _, ⟨run, []⟩, rfl, by decide +kernel⟩,
    ⟨(req 2 0x240201 4 (.num 6), 7), _, ⟨{ run with jrn := { seqs := [((0x14, 0), 4)] } }, []⟩, rfl, by decide +kernel⟩,
    ⟨(5, 4, 7), _, ⟨{ run with dic := { answers := [(4, none)] } }, []⟩, rfl, by decide +kernel⟩,
    ⟨(5, ⟨7, 5, 0, .num 0⟩, remote (req 2 0x240201 4 (.num 6)), 7), _, ⟨asked (req 2 0x240201 4 (.num 6)), []⟩, rfl, by decide +kernel⟩,
    ⟨(5, ⟨7, 3, 0, .num 0⟩, remote (req 2 0x240201 4 (.num 6)), 7), _, ⟨asked (req 2 0x240201 4 (.num 6)), []⟩, rfl, by decide +kernel⟩,
    ⟨(5, ⟨7, 0, 0, .num 9⟩, remote (req 1 0x1801ff 0 (.num 0)), 7), _, ⟨{ asked (req 1 0x1801ff 0 (.num 0)) with hp := { awaited := [resultKey 1 5 0x1801ff] } }, []⟩, rfl, by decide +kernel⟩,
    ⟨(5, remote (req 1 0x1801ff 0 (.num 0)), 20000000), _, ⟨{ asked (req 1 0x1801ff 0 (.num 0)) with hp := { awaited := [resultKey 9 5 0x1801ff] } }, []⟩, rfl, by decide +kernel⟩,
    ⟨(5, remote (req 2 0x240201 4 (.num 6)), 20000000), _, ⟨asked (req 2 0x240201 4 (.num 6)), []⟩, rfl, by decide +kernel⟩,
    ⟨(5, { remote (req 2 0x240201 4 (.num 6)) with busyAt := some 3 }, 3, 2000003), _, ⟨{ asked (req 2 0x240201 4 (.num 6)) with dic := { remotes := [{ remote (req 2 0x240201 4 (.num 6)) with busyAt := some 3 }] } }, []⟩, rfl, by decide +kernel⟩⟩

theorem witness_JournalCommits :
        Rules.journalGroupCommit.Met ∧ Rules.journalGroupCommitResponse.Met ∧ Rules.journalGroupCommitSlots.Met ∧
    Rules.journalGroupCommitNone.Met ∧ Rules.journalGroupCommitHeld.Met ∧ Rules.journalGroupCommitForward.Met ∧
    Rules.journalCheckpoint.Met ∧ Rules.journalCheckpointNone.Met ∧ Rules.mirrorAcknowledged.Met ∧
    Rules.mirrorAcknowledgedEarlier.Met ∧ Rules.clientSlotRelease.Met :=
  ⟨⟨(write, ack, 7), _, ⟨{ run with jrn := { openHalf := [write], waiting := [ack] } }, []⟩, rfl, by decide +kernel⟩,
    ⟨(write, (0, 3, 4), ⟨9, 0, 0, .num 5⟩, 7), _, ⟨{ run with jrn := { openHalf := [write], waiting := [⟨.mgmt 0, 3, 0, none, 4⟩] }, dic := { answers := [(4, none), (9, some ⟨9, 0, 0, .num 5⟩)] } }, []⟩, rfl, by decide +kernel⟩,
    ⟨7, _, ⟨{ run with obj := [(0x240201, .num 5), (0x260101, .num 3)], seq := { run.seq with slotsDue := true }, swap := { run.swap with doneSet := 9 } }, []⟩, rfl, by decide +kernel⟩,
    ⟨7, _, ⟨run, []⟩, rfl, by decide +kernel⟩,
    ⟨(write, ack, 7), _, ⟨{ lead.put 0x2A0008 1 with seq := { map := 3 }, jrn := { openHalf := [write], waiting := [ack] } }, []⟩, rfl, by decide +kernel⟩,
    ⟨(forward, unsent, 7), _, ⟨{ lead with jrn := { openHalf := [forward] }, dic := { remotes := [unsent] } }, []⟩, rfl, by decide +kernel⟩,
    ⟨7, _, ⟨{ run with jrn := { tailMoved := true, seqs := [((0x11, 0), 9)] } }, []⟩, rfl, by decide +kernel⟩,
    ⟨7, _, ⟨run, []⟩, rfl, by decide +kernel⟩,
    ⟨(52000, { ack with mirror := some 52000 }, 7), _, ⟨{ lead with jrn := { held := [{ ack with mirror := some 52000 }] } }, []⟩, rfl, by decide +kernel⟩,
    ⟨(51999, { ack with mirror := some 52000 }, 7), _, ⟨{ lead with jrn := { held := [{ ack with mirror := some 52000 }] } }, []⟩, rfl, by decide +kernel⟩,
    ⟨3, _, ⟨{ run with jrn := { clients := (Vector.replicate 8 0).set 3 55, seqs := [((0x1B, 0), 7)] } }, []⟩, rfl, by decide +kernel⟩⟩

theorem witness_MemoryFaultsAreSpared :
        Rules.sramError.Met ∧ Rules.sramErrorAgain.Met ∧ Rules.sramErrorUncorrectable.Met ∧ Rules.mramWriteFault.Met
    ∧ Rules.mramWriteFaultFenced.Met :=
  ⟨⟨(.other, 3, 77, true, 7), _, ⟨run, []⟩, rfl, by decide +kernel⟩,
    ⟨(.other, 3, 77, true, 7), _, ⟨{ run with hlt := { corrected := [((3, 77), 0)] } }, []⟩, rfl, by decide +kernel⟩,
    ⟨(3, 77, false, 7), _, ⟨run, []⟩, rfl, by decide +kernel⟩,
    ⟨(40, 77, 7), _, ⟨run, []⟩, rfl, by decide +kernel⟩,
    ⟨(7, 77, 7), _, ⟨{ run with nvm := { mramSpares := Vector.replicate 64 0 } }, []⟩, rfl, by decide +kernel⟩⟩

theorem witness_TemperatureThrottles :
        Rules.housekeepingRound.Met ∧ Rules.housekeepingRoundEarly.Met ∧ Rules.housekeepingRoundRequest.Met ∧
    Rules.housekeepingRoundImplausible.Met ∧ Rules.housekeepingRoundRetires.Met ∧
    Rules.housekeepingRoundShutdown.Met ∧ Rules.throttleGraceEnd.Met ∧ Rules.throttleGraceWithdraw.Met ∧
    Rules.throttleRelease.Met ∧ Rules.throttleReleaseEarly.Met ∧ Rules.powerThermalShutdown.Met ∧
    Rules.shutdownResetHold.Met ∧ Rules.shutdownHoldsNrst.Met :=
  ⟨⟨(hk (Vector.replicate 11 250), 7), _, ⟨run, []⟩, rfl, by decide +kernel⟩,
    ⟨(hk (Vector.replicate 11 250), 7, 10000006), _, ⟨{ run with hlt := { roundAt := some 7 } }, []⟩, rfl, by decide +kernel⟩,
    ⟨(hk ((Vector.replicate 11 250).set 1 1200), 7), _, ⟨run, []⟩, rfl, by decide +kernel⟩,
    ⟨(hk ((Vector.replicate 11 250).set 0 451), 7), _, ⟨{ run with hlt := { sensors := Vector.replicate 11 (some 250) } }, []⟩, rfl, by decide +kernel⟩,
    ⟨(hk ((Vector.replicate 11 250).set 0 2001), 7), _, ⟨{ run with hlt := { sensors := (Vector.replicate 11 (some 250)).set 0 (some 300), implausible := (Vector.replicate 11 0).set 0 9 } }, []⟩, rfl, by decide +kernel⟩,
    ⟨(hk ((Vector.replicate 11 250).set 1 1350), 7), _, ⟨run, []⟩, rfl, by decide +kernel⟩,
    ⟨5000000000, _, ⟨{ run.put 0x2D0001 1150 with hlt := { throttle := 1 } }, []⟩, rfl, by decide +kernel⟩,
    ⟨5000000000, _, ⟨{ run.put 0x2D0001 1149 with hlt := { throttle := 1 } }, []⟩, rfl, by decide +kernel⟩,
    ⟨(0, 30000000000), _, ⟨{ run with hlt := { throttle := 2, belowSince := some 0 } }, []⟩, rfl, by decide +kernel⟩,
    ⟨(0, 29999999999), _, ⟨{ run with hlt := { throttle := 2, belowSince := some 0 } }, []⟩, rfl, by decide +kernel⟩,
    ⟨7, _, ⟨armed, []⟩, rfl, by decide +kernel⟩,
    ⟨4000000, _, ⟨{ run with power := { run := .running, shutdownBegun := true } }, []⟩, rfl, by decide +kernel⟩,
    ⟨(5000, 7), _, ⟨{ power := { run := .shutdown } }, []⟩, rfl, by decide +kernel⟩⟩

theorem witness_HostPortReads :
        Rules.hostRead.Met ∧ Rules.hostReadWide.Met ∧ Rules.hostReadDomain.Met ∧ Rules.hostReadAborted.Met ∧
    Rules.hostReadBadCrc.Met ∧ Rules.hostReadRemote.Met ∧ Rules.hostReadKept.Met ∧ Rules.hostReadHigh.Met ∧
    Rules.hostReadHighTorn.Met ∧ Rules.hostBlockRead.Met ∧ Rules.hostBlockReadTorn.Met ∧ Rules.hostPortStatus.Met ∧
    Rules.hostUnknownCommand.Met ∧ Rules.hostTransactionAborted.Met :=
  ⟨⟨7, _, ⟨run, []⟩, rfl, by decide +kernel⟩,
    ⟨7, _, ⟨run, []⟩, rfl, by decide +kernel⟩,
    ⟨7, _, ⟨lead, []⟩, rfl, by decide +kernel⟩,
    ⟨7, _, ⟨run, []⟩, rfl, by decide +kernel⟩,
    ⟨(0x240201, 7), _, ⟨run, []⟩, rfl, by decide +kernel⟩,
    ⟨(5, 7), _, ⟨{ lead.put 0x110002 5 with seq := { map := 33 } }, []⟩, rfl, by decide +kernel⟩,
    ⟨(5, 99, 3, 7), _, ⟨{ lead.put 0x110002 5 with seq := { map := 33 }, hp := { results := [(resultKey 1 5 0x240201, ReadResult.value (.num 99) false, 3)] } }, []⟩, rfl, by decide +kernel⟩,
    ⟨(0x1350A7C2FFFFF000, 3, 7), _, ⟨acc { acc := .host, wide := some (0x180102, 0x1350A7C2FFFFF000, 3) }, []⟩, rfl, by decide +kernel⟩,
    ⟨7, _, ⟨run, []⟩, rfl, by decide +kernel⟩,
    ⟨([1, 2, 3], 1, 3, 7), _, ⟨acc { acc := .host, block := some (0x2B0305, [1, 2, 3], 3, false) }, []⟩, rfl, by decide +kernel⟩,
    ⟨(4, 7), _, ⟨lead, []⟩, rfl, by decide +kernel⟩,
    ⟨7, _, ⟨{ run with hp := { recorded := true } }, []⟩, rfl, by decide +kernel⟩,
    ⟨7, _, ⟨run, []⟩, rfl, by decide +kernel⟩,
    ⟨7, _, ⟨run, []⟩, rfl, by decide +kernel⟩⟩

theorem witness_HostPortWrites :
        Rules.hostWrite.Met ∧ Rules.hostWriteRange.Met ∧ Rules.hostWriteBusy.Met ∧ Rules.hostWriteDuplicate.Met ∧
    Rules.hostWritePort.Met ∧ Rules.hostWriteUnstaged.Met ∧ Rules.hostWriteWide.Met ∧ Rules.hostWriteHigh.Met ∧
    Rules.hostStage.Met ∧ Rules.hostStageBeyond.Met ∧ Rules.hostCommitStaged.Met ∧ Rules.hostCommitStagedLong.Met ∧
    Rules.stagedHalfExpiry.Met :=
  ⟨⟨(6, 7), _, ⟨run, []⟩, rfl, by decide +kernel⟩,
    ⟨(256, 7), _, ⟨run, []⟩, rfl, by decide +kernel⟩,
    ⟨(6, 7), _, ⟨{ run with jrn := { waiting := List.replicate 16 ⟨.host, 1, 0, none, 0⟩ } }, []⟩, rfl, by decide +kernel⟩,
    ⟨(6, 7), _, ⟨{ run with jrn := { seqs := [((0x11, 0), 1)] } }, []⟩, rfl, by decide +kernel⟩,
    ⟨(3, 7), _, ⟨run, []⟩, rfl, by decide +kernel⟩,
    ⟨(3, 7), _, ⟨run, []⟩, rfl, by decide +kernel⟩,
    ⟨(3, 5, 3, 7), _, ⟨{ lead with dic := { accessors := [{ acc := .host, staged := some (0x2C200C, 5, 3) }] } }, []⟩, rfl, by decide +kernel⟩,
    ⟨(3, 7), _, ⟨run, []⟩, rfl, by decide +kernel⟩,
    ⟨([1, 2, 0, 4], 7), _, ⟨run.put 0x11000C 1, []⟩, rfl, by decide +kernel⟩,
    ⟨([1, 2, 0, 4], 7), _, ⟨run.put 0x11000C 1, []⟩, rfl, by decide +kernel⟩,
    ⟨7, _, ⟨{ lead with hp := { staging := [(0, 2), (1, 0x24), (2, 1), (3, 8)] } }, []⟩, rfl, by decide +kernel⟩,
    ⟨(131073, 7), _, ⟨run, []⟩, rfl, by decide +kernel⟩,
    ⟨(0x2C200C, 5, 3, 10000003), _, ⟨acc { acc := .host, staged := some (0x2C200C, 5, 3) }, []⟩, rfl, by decide +kernel⟩⟩

theorem witness_RegisterAccessServes :
        Rules.registerWrite.Met ∧ Rules.registerWriteReadOnly.Met ∧ Rules.registerWriteMissing.Met ∧
    Rules.registerWritePort.Met ∧ Rules.queueRead.Met ∧ Rules.queueReadStays.Met ∧ Rules.recordReadRule.Met ∧
    Rules.pageReadRule.Met ∧ Rules.pageReadCan.Met :=
  ⟨⟨(6, 7), _, ⟨run, []⟩, rfl, by decide +kernel⟩,
    ⟨(0x101801, 7), _, ⟨run, []⟩, rfl, by decide +kernel⟩,
    ⟨7, _, ⟨run, []⟩, rfl, by decide +kernel⟩,
    ⟨7, _, ⟨run, []⟩, rfl, by decide +kernel⟩,
    ⟨((731, 0), [(732, 5)], 7), _, ⟨{ run with hp := { completions := [(731, 0), (732, 5)] } }, []⟩, rfl, by decide +kernel⟩,
    ⟨(⟨4, 1, false, false, 1, 2, 3, 4, 5, []⟩, 3, 7), _, ⟨{ lead with que := { applied := [⟨⟨4, 1, false, false, 1, 2, 3, 4, 5, []⟩, false, 3⟩] } }, []⟩, rfl, by decide +kernel⟩,
    ⟨(⟨9, 1, 2, { code := 0x0101, kind := 0, unit := 1, items := [], raisedAt := 5 }, false⟩, 9, 7), _, ⟨{ acc { acc := .host, area := 1, record := 9 } with nvm := { ring := [{ seq := 1, records := [⟨9, 1, 2, { code := 0x0101, kind := 0, unit := 1, items := [], raisedAt := 5 }, false⟩] }] } }, []⟩, rfl, by decide +kernel⟩,
    ⟨(64, 7), _, ⟨acc { acc := .host, page := 64 }, []⟩, rfl, by decide +kernel⟩,
    ⟨(55, 7), _, ⟨run, []⟩, rfl, by decide +kernel⟩⟩

theorem witness_ImagesAreLoaded :
        Rules.imageChunk.Met ∧ Rules.imageChunkBeyond.Met ∧ Rules.imageErase.Met ∧ Rules.imageActivate.Met ∧
    Rules.imageActivateInvalid.Met ∧ Rules.trialConfirmation.Met ∧ Rules.trialConfirmationEarly.Met ∧
    Rules.operatingTimeCommit.Met ∧ Rules.operatingTimeCommitEarly.Met :=
  ⟨⟨[0x32, 0x37, 0x58, 0x49, 1, 0, 0, 0], _, ⟨run, []⟩, rfl, by decide +kernel⟩,
    ⟨[0x32, 0x37, 0x58, 0x49, 1, 0, 0, 0], _, ⟨run, []⟩, rfl, by decide +kernel⟩,
    ⟨(), _, ⟨run, []⟩, rfl, by decide +kernel⟩,
    ⟨(), _, ⟨run.put 0x310103 2, []⟩, rfl, by decide +kernel⟩,
    ⟨(), _, ⟨run.put 0x310103 1, []⟩, rfl, by decide +kernel⟩,
    ⟨60000000005, _, ⟨{ (run.put 0x310101 1).put 0x310103 3 with power := { run := .running, armedOnce := true, armedAt := 5 }, nvm := { imageB := { bytes := [(8, 3)], loaded := 200 } } }, []⟩, rfl, by decide +kernel⟩,
    ⟨7, _, ⟨run, []⟩, rfl, by decide +kernel⟩,
    ⟨60000000000, _, ⟨run, []⟩, rfl, by decide +kernel⟩,
    ⟨7, _, ⟨run, []⟩, rfl, by decide +kernel⟩⟩

theorem witness_AuthenticationGuards :
        Rules.clearRing.Met ∧ Rules.clearRingUntagged.Met ∧ Rules.clearRingLockout.Met ∧ Rules.authenticationTag.Met
    ∧ Rules.authenticationLockoutEnd.Met ∧ Rules.calibrationKeyWrite.Met ∧ Rules.calibrationKeyForbidden.Met ∧
    Rules.debugUnlock.Met ∧ Rules.debugUnlockProvisioning.Met ∧ Rules.decommission.Met :=
  ⟨⟨(), _, ⟨run, []⟩, rfl, by decide +kernel⟩,
    ⟨(), _, ⟨field, []⟩, rfl, by decide +kernel⟩,
    ⟨(), _, ⟨{ field with lock := { failures := List.replicate 31 0 } }, []⟩, rfl, by decide +kernel⟩,
    ⟨[1, 2, 3, 4, 5, 6, 7, 8], _, ⟨run, []⟩, rfl, by decide +kernel⟩,
    ⟨(5, 7), _, ⟨{ run with lock := { until_ := some 5 } }, []⟩, rfl, by decide +kernel⟩,
    ⟨(List.replicate 16 7), _, ⟨run, []⟩, rfl, by decide +kernel⟩,
    ⟨(List.replicate 16 7, 0), _, ⟨run, []⟩, rfl, by decide +kernel⟩,
    ⟨(), _, ⟨tagged 0x310206, []⟩, rfl, ⟨rfl, by decide +kernel, rfl, tagged_passes _, by decide +kernel, by decide +kernel, by decide +kernel⟩⟩,
    ⟨(), _, ⟨run, []⟩, rfl, by decide +kernel⟩,
    ⟨(), _, ⟨tagged 0x310207, []⟩, rfl, ⟨rfl, by decide +kernel, rfl, tagged_passes _, by decide +kernel, by decide +kernel, by decide +kernel⟩⟩⟩

theorem witness_ResetsHoldLogic :
        Rules.powerOnReset.Met ∧ Rules.powerOnResetDebug.Met ∧ Rules.powerOnResetReleased.Met ∧
    Rules.powerOnResetRearm.Met ∧ Rules.nrstReset.Met ∧ Rules.nrstGlitch.Met ∧ Rules.clockLockLoss.Met ∧
    Rules.clockLockLossTrial.Met ∧ Rules.supervisionReset.Met ∧ Rules.supervisionThird.Met ∧
    Rules.supervisionEarly.Met ∧ Rules.debugPortReset.Met ∧ Rules.debugPortLocked.Met ∧ Rules.debugHaltCore1.Met ∧
    Rules.debugHaltCore0.Met :=
  ⟨⟨(true, 3), _, ⟨{}, []⟩, rfl, by decide +kernel⟩,
    ⟨(true, 3), _, ⟨{ nvm := { kept := [(0x310202, .num 3)] } }, []⟩, rfl, by decide +kernel⟩,
    ⟨(true, 3), _, ⟨{ run with power := { run := .running, porArmed := false } }, []⟩, rfl, by decide +kernel⟩,
    ⟨3, _, ⟨run, []⟩, rfl, by decide +kernel⟩,
    ⟨(1000, 3), _, ⟨run, []⟩, rfl, by decide +kernel⟩,
    ⟨(999, 3), _, ⟨run, []⟩, rfl, by decide +kernel⟩,
    ⟨3, _, ⟨run.put 0x310102 2, []⟩, rfl, by decide +kernel⟩,
    ⟨3, _, ⟨{ run with obj := [(0x310101, .num 1), (0x310103, .num 3)] }, []⟩, rfl, by decide +kernel⟩,
    ⟨4000000, _, ⟨{ run.put 0x310102 2 with teth := { resetPending := true } }, []⟩, rfl, by decide +kernel⟩,
    ⟨(4000000, 5, 6), _, ⟨{ run with teth := { resetPending := true }, nvm := { supervision := [5, 6] } }, []⟩, rfl, by decide +kernel⟩,
    ⟨3, _, ⟨{ run with teth := { resetPending := true } }, []⟩, rfl, by decide +kernel⟩,
    ⟨3, _, ⟨debug, []⟩, rfl, by decide +kernel⟩,
    ⟨3, _, ⟨run, []⟩, rfl, by decide +kernel⟩,
    ⟨3, _, ⟨debug, []⟩, rfl, by decide +kernel⟩,
    ⟨3, _, ⟨debug, []⟩, rfl, by decide +kernel⟩⟩

theorem witness_BootsRun :
    Rules.boot.Met ∧ Rules.bootRecovery.Met ∧ Rules.bootHeld.Met ∧ Rules.clockLockHeld.Met :=
  ⟨⟨3, _, ⟨held, []⟩, rfl, by decide +kernel⟩,
    ⟨3, _, ⟨{ held with nvm := { kept := [(0x310102, .num 1), (0x310103, .num 0)] } }, []⟩, rfl, by decide +kernel⟩,
    ⟨(Rules.quietBoot, 3), _, ⟨{}, []⟩, rfl, by decide +kernel⟩,
    ⟨3, _, ⟨{ power := { run := .lockLoss, porArmed := false, cause := 4 } }, []⟩, rfl, by decide +kernel⟩⟩

theorem witness_PowerModesAct :
        Rules.nrstWake.Met ∧ Rules.dormantRequest.Met ∧ Rules.offRequest.Met ∧ Rules.dormantRequestLead.Met ∧
    Rules.powerDownEntry.Met ∧ Rules.powerDownWaits.Met ∧ Rules.powerDownDormant.Met ∧ Rules.powerDownOff.Met ∧
    Rules.restartRequest.Met ∧ Rules.restartReset.Met ∧ Rules.restartEarly.Met ∧ Rules.wakeDin0.Met ∧
    Rules.wakeDin0Disabled.Met ∧ Rules.wakeHostSelect.Met ∧ Rules.rtcAlarm.Met ∧ Rules.rtcAlarmOff.Met :=
  ⟨⟨(10000, 3), _, ⟨asleep 0, []⟩, rfl, by decide +kernel⟩,
    ⟨(), _, ⟨run, []⟩, rfl, by decide +kernel⟩,
    ⟨(), _, ⟨run, []⟩, rfl, by decide +kernel⟩,
    ⟨(), _, ⟨lead, []⟩, rfl, by decide +kernel⟩,
    ⟨(5, .dormant, 0), _, ⟨{ run with power := { run := .running, request := some (.dormant, 0), winding := true }, seq := { number := 10 } }, []⟩, rfl, by decide +kernel⟩,
    ⟨5, _, ⟨run, []⟩, rfl, by decide +kernel⟩,
    ⟨(5, 0), _, ⟨wound .dormant, []⟩, rfl, by decide +kernel⟩,
    ⟨(5, 0), _, ⟨wound .off, []⟩, rfl, by decide +kernel⟩,
    ⟨(), _, ⟨run, []⟩, rfl, by decide +kernel⟩,
    ⟨(5, 0), _, ⟨wound .restart, []⟩, rfl, by decide +kernel⟩,
    ⟨5, _, ⟨run, []⟩, rfl, by decide +kernel⟩,
    ⟨(true, 3), _, ⟨asleep 1, []⟩, rfl, by decide +kernel⟩,
    ⟨(false, 3), _, ⟨asleep 1, []⟩, rfl, by decide +kernel⟩,
    ⟨3, _, ⟨asleep 4, []⟩, rfl, by decide +kernel⟩,
    ⟨3000000000, _, ⟨asleep 8, []⟩, rfl, by decide +kernel⟩,
    ⟨3, _, ⟨{ asleep 8 with rtc := {} }, []⟩, rfl, by decide +kernel⟩⟩

end Sys2Proof.Tests
end

