-- ==== Sys2Proof/Proofs/CommittableInstant.lean ====
section
/-! PROOF. The earliest committable instant (R97). -/

namespace Sys2Proof.Machine

/-- R97, Table 2.3: Phase C ends at 175 µs for each 250 µs of the batch period, so the tenths in `Dev.te` divide out. -/
theorem Dev.te_of_periodNs {d : Dev} {k : Nat} (hperiod : d.periodNs = 250000 * k) :
    d.te = d.seq.t0 + 175000 * k + 20000 := by
  have hphaseC : 7 * d.periodNs / 10 = 175000 * k := by omega
  rw [Dev.te, hphaseC]

end Sys2Proof.Machine

namespace Sys2Proof
open Machine

/-- Settles O9: the first clause is `Dev.te_of_periodNs`, and a 1 ms batch is its case k = 4. -/
theorem earliestCommittableInstant : Obligations.EarliestCommittableInstant := by
  unfold Obligations.EarliestCommittableInstant
  constructor
  · intro d k _ _ hperiod
    exact Dev.te_of_periodNs hperiod
  · intro d hperiod
    simpa [Nat.add_assoc] using Dev.te_of_periodNs (k := 4) hperiod

end Sys2Proof
end

