-- ==== Sys2Proof/Proofs/TilePlace.lean ====
section
/-! PROOF. The tile and the cell of a field position (R129). -/

namespace Sys2Proof.Machine

/-! ### The coordinate of a tile -/

/-- A 16-bit index in two's complement reads back as itself. -/
theorem angSigned_emod_of_i16 {i : Int} (hlo : -32768 ≤ i) (hhi : i < 32768) : angSigned (i % 65536) = i := by
  dsimp only [angSigned]
  split <;> omega

/-- The two halves of a coordinate, as an integer. -/
theorem natCast_tileCoord (i j : Int) : (tileCoord i j : Int) = j % 65536 * 65536 + i % 65536 := by
  rw [tileCoord]
  omega

theorem tileI_tileCoord {i : Int} (j : Int) (hlo : -32768 ≤ i) (hhi : i < 32768) : tileI (tileCoord i j) = i := by
  have hlow : (tileCoord i j : Int) % 65536 = i % 65536 := by rw [natCast_tileCoord]; omega
  rw [tileI, hlow, angSigned_emod_of_i16 hlo hhi]

theorem tileJ_tileCoord {j : Int} (i : Int) (hlo : -32768 ≤ j) (hhi : j < 32768) : tileJ (tileCoord i j) = j := by
  have hhigh : (tileCoord i j : Int) / 65536 = j % 65536 := by rw [natCast_tileCoord]; omega
  rw [tileJ, hhigh, angSigned_emod_of_i16 hlo hhi]

/-! ### The cell along one axis -/

/-- The cell of position x along an axis, where a cell is C long and a tile 256 cells. -/
def axisCell (C x : Int) : Nat := (x % (256 * C) / C).toNat

theorem natCast_axisCell {C : Int} (hC : 0 < C) (x : Int) : (axisCell C x : Int) = x % (256 * C) / C :=
  Int.toNat_of_nonneg (Int.ediv_nonneg (Int.emod_nonneg x (by omega)) (Int.le_of_lt hC))

theorem axisCell_lt {C : Int} (hC : 0 < C) (x : Int) : axisCell C x < 256 := by
  have hcell : x % (256 * C) / C < 256 := Int.ediv_lt_of_lt_mul hC (Int.emod_lt_of_pos x (by omega))
  rw [← natCast_axisCell hC] at hcell
  omega

/-- The west or south edge of the cell belongs to it. -/
theorem axisCell_edge_le {C : Int} (hC : 0 < C) (x : Int) : x / (256 * C) * (256 * C) + axisCell C x * C ≤ x := by
  rw [natCast_axisCell hC]
  calc x / (256 * C) * (256 * C) + x % (256 * C) / C * C
      ≤ x / (256 * C) * (256 * C) + x % (256 * C) := Int.add_le_add_left (Int.ediv_mul_le _ (Int.ne_of_gt hC)) _
    _ = x := Int.ediv_mul_add_emod x (256 * C)

/-- The east or north edge of the cell belongs to the next one. -/
theorem lt_axisCell_next_edge {C : Int} (hC : 0 < C) (x : Int) :
    x < x / (256 * C) * (256 * C) + (axisCell C x + 1) * C := by
  rw [natCast_axisCell hC]
  calc x = x / (256 * C) * (256 * C) + x % (256 * C) := (Int.ediv_mul_add_emod x (256 * C)).symm
    _ < x / (256 * C) * (256 * C) + (x % (256 * C) / C + 1) * C :=
      Int.add_lt_add_left (Int.lt_ediv_add_one_mul_self _ hC) _

/-! ### The place of a position -/

/-- R128: no cell size is 0. -/
theorem Dev.cellMm_pos (d : Dev) : 0 < d.cellMm :=
  Nat.mul_pos (by decide) (Nat.two_pow_pos _)

/-- R128: a tile is 256 cells long, also in units of 1/65,536 mm. -/
theorem Dev.tileEdge_eq (d : Dev) : (65536 * d.tileMm : Int) = 256 * (65536 * d.cellMm) := by
  rw [Dev.tileMm]
  omega

theorem Dev.place_eq (d : Dev) (p : Int × Int) :
    d.place p = (tileCoord (p.1 / (65536 * d.tileMm)) (p.2 / (65536 * d.tileMm)),
      256 * axisCell (65536 * d.cellMm) p.2 + axisCell (65536 * d.cellMm) p.1) := by
  simp only [Dev.place, axisCell, d.tileEdge_eq]

end Sys2Proof.Machine

namespace Sys2Proof
open Machine

/-- Settles O10: each axis has its cell by `axisCell`, and the coordinate gives back both indices. -/
theorem cellCoversItsSquare : Obligations.CellCoversItsSquare := by
  unfold Obligations.CellCoversItsSquare
  constructor
  · intro d p
    have hC : (0 : Int) < 65536 * d.cellMm := by have := d.cellMm_pos; omega
    refine ⟨p.1 / (65536 * d.tileMm), p.2 / (65536 * d.tileMm), axisCell (65536 * d.cellMm) p.1,
      axisCell (65536 * d.cellMm) p.2, axisCell_lt hC _, axisCell_lt hC _, ?_, ?_, ?_, ?_, d.place_eq p⟩ <;>
      rw [d.tileEdge_eq]
    · exact axisCell_edge_le hC p.1
    · exact lt_axisCell_next_edge hC p.1
    · exact axisCell_edge_le hC p.2
    · exact lt_axisCell_next_edge hC p.2
  · intro i j hiLo hiHi hjLo hjHi
    exact ⟨natCast_tileCoord i j, tileI_tileCoord j hiLo hiHi, tileJ_tileCoord i hjLo hjHi⟩

end Sys2Proof
end

