-- ==== Sys2Proof/Proofs/BootReplay.lean ====
section
/-! PROOF. Journal replay at boot (R404): what the end of a boot leaves of the journal and MRAM, and a device whose target
intake has outlived its hold. -/

namespace Sys2Proof.Machine

/-! ### What follows `Dev.boot` -/

theorem Dev.send_frame (ps : List Part) (d : Dev) (e : Emit) : Frame ps d (d.send e) := by
  intro p _
  cases p <;> exact rfl

theorem Dev.sendIf_frame (ps : List Part) (c : Prop) [Decidable c] (d : Dev) (e : Emit) :
    Frame ps d (if c then d.send e else d) := by
  split
  · exact d.send_frame ps e
  · exact Frame.refl ps d

theorem Dev.withCan_frame (d : Dev) (c : Can) : Frame [.can] d { d with can := c } := by
  intro p hp
  cases p
  case can => exact absurd (List.mem_singleton_self _) hp
  all_goals exact rfl

theorem Dev.startClaim_frame (d : Dev) : Frame [.can] d d.startClaim := by
  rw [Dev.startClaim]
  split
  · exact ((d.withCan_frame _).trans (Dev.putVal_frame _ _ _ _)).trans (Dev.send_frame _ _ _)
  · exact d.withCan_frame _

theorem Dev.resetCommunication_frame (d : Dev) : Frame [.can] d d.resetCommunication :=
  (d.withCan_frame _).trans (Dev.sendIf_frame _ _ _ _)

theorem Dev.settleTc_frame (d : Dev) : Frame [.can] d d.settleTc := by
  rw [Dev.settleTc]
  split
  · exact d.withCan_frame _
  · split
    · exact (d.withCan_frame _).trans (Dev.sendIf_frame _ _ _ _)
    · exact Frame.refl _ d

theorem Dev.bootCan_frame (d : Dev) : Frame [.can] d d.bootCan := by
  have hintegrate : Frame [.can] d ((d.integrate 0).integrate 1) := (d.withCan_frame _).trans (Dev.withCan_frame _ _)
  have hclaim := hintegrate.trans (Dev.startClaim_frame _)
  exact (hclaim.trans (Dev.resetCommunication_frame _)).trans (Dev.settleTc_frame _)

/-- A boot that ends the hold leaves what `Dev.boot` leaves, but for the CAN state and the link, which start after it. -/
theorem exec_boot_of_hold (rep : BootReport) (t : Nat) (s : State) (hrun : s.dev.power.run = .hold)
    (hpor : s.dev.power.porArmed = false) :
    ∃ u : State, exec (.boot rep t) s = .next u ∧ Frame [.can, .link] ((s.cleared t).boot rep) u.dev := by
  have hboot : bootEff (s.cleared t) rep = (s.cleared t).boot rep := by
    rw [bootEff, if_pos (by rw [State.cleared, Dev.at_power]; simp [hrun, hpor])]
  refine ⟨_, rfl, ?_⟩
  change Frame _ _ (Dev.linkOut (if _ then (bootEff (s.cleared t) rep).bootCan else bootEff (s.cleared t) rep))
  rw [hboot]
  refine Frame.trans ?_ (Dev.linkOut_same _ _ (by decide))
  split
  · exact ((s.cleared t).boot rep).bootCan_frame.mono (by decide)
  · exact Frame.refl _ _

end Sys2Proof.Machine

namespace Sys2Proof
open Machine

/-! ### An intake that outlives the hold -/

/-- A record of a host target in form 0. -/
def hostTarget : TargetRec :=
  { seq := 9, form := 0, cls := 2, dose := 0, capture := 0, posA := 5, posB := 6, halfLength := 60, halfWidth := 60,
    orientation := 0, camSegment := 0, camX := 0, camY := 0, camYaw := 0 }

/-- Its place in the intake: it waits for the results of the owners 0 and 4, and for owner 0 to confirm it. -/
def waitingIntake : Intake :=
  { source := 16, record := hostTarget, stage := 3, form0 := hostTarget, owners := [0, 4], unconfirmed := [0] }

/-- The closing of position 0's own share of that target (Table 17.4, kind 8). -/
def loggedClosure : JEntry :=
  { kind := 8, source := 0x16, seq := 9, subKey := 16, lead := false, carried := false, batch := 0, payload := .result 1 }

/-- A device at position 0, held in reset, with that intake and that closure in its log. -/
def heldWithIntake : Dev :=
  { power := { run := .hold, porArmed := false }
    obj := [(0x2A0002, .num 0), (0x31010A, .num 0)]
    tgt := { intake := [waitingIntake] }
    nvm := { imageA := { loaded := 12 }, groups := [⟨0, [loggedClosure], 0⟩] } }

/-- Its boot with a quiet report, at device time 0. -/
def bootedWithIntake : Dev := (State.cleared ⟨heldWithIntake, []⟩ 0).boot Rules.quietBoot

theorem bootedWithIntake_running : bootedWithIntake.power.run = .running := by decide +kernel

theorem bootedWithIntake_log :
    bootedWithIntake.nvm.groups = [⟨0, [loggedClosure], 0⟩] ∧ bootedWithIntake.nvm.checkpoint.seqs = [] := by
  decide +kernel

/-- Sending the closure again confirms the share to the intake, which journals the confirmation: source 16 advances. -/
theorem bootedWithIntake_seqs : bootedWithIntake.jrn.seqs = [((0x16, 16), 9), ((16, 0), 9)] := by decide +kernel

/-- Refutes O8: the statement leaves the target intake of the held device free. Where a target in it waits for the device's
own confirmation, replay of the closing of that share (R170) answers the intake, which journals the confirmation after the
last sequences were set: they are then not those that the groups and the checkpoint give. A hold that a reset enters has an
empty intake (`Dev.resetLogic`); the statement does not ask for one. -/
theorem not_replaySetsNextSequences : ¬ Obligations.ReplaySetsNextSequences := by
  unfold Obligations.ReplaySetsNextSequences
  intro h
  obtain ⟨u, hu, hseqs⟩ := h Rules.quietBoot 0 ⟨heldWithIntake, []⟩ rfl rfl
  obtain ⟨v, hv, hframe⟩ := exec_boot_of_hold Rules.quietBoot 0 ⟨heldWithIntake, []⟩ rfl rfl
  obtain rfl : v = u := by rw [hv] at hu; injection hu
  have hpower : bootedWithIntake.power = v.dev.power := hframe .power (by decide)
  have hjrn : bootedWithIntake.jrn = v.dev.jrn := hframe .jrn (by decide)
  have hnvm : bootedWithIntake.nvm = v.dev.nvm := hframe .nvm (by decide)
  obtain ⟨hgroups, hcheckpoint⟩ := bootedWithIntake_log
  obtain ⟨hfold, -⟩ := hseqs (by rw [← hpower, bootedWithIntake_running])
  rw [← hjrn, ← hnvm, bootedWithIntake_seqs, hgroups, hcheckpoint] at hfold
  exact absurd hfold (by decide)

end Sys2Proof
end

