-- ==== Sys2Proof/Proofs/RuleLayer.lean ====
section
/-! SUPPORT. The shared facts of the proofs of rules: vectors after an update, frames, objects after a write, and the forms in
which a command acts. -/

namespace Sys2Proof.Machine

/-! ### Vectors -/

@[simp] theorem updateAt_same {α : Type} {n : Nat} (v : Vector α n) (i : Fin n) (f : α → α) :
    (updateAt v i f)[(i : Nat)] = f v[(i : Nat)] := by
  simp [updateAt]

@[simp] theorem updateAt_other {α : Type} {n : Nat} (v : Vector α n) {i j : Fin n} (f : α → α) (h : j ≠ i) :
    (updateAt v i f)[(j : Nat)] = v[(j : Nat)] := by
  have hval : (i : Nat) ≠ j := fun e => h (Fin.ext e.symm)
  simp [updateAt, hval]

/-! ### Optional instants -/

theorem exists_of_any {α : Type} {p : α → Prop} [DecidablePred p] {o : Option α} (h : (o.any fun a => decide (p a)) = true) :
    ∃ a, o = some a ∧ p a := by
  cases o with
  | none => cases h
  | some a => exact ⟨a, rfl, of_decide_eq_true h⟩

theorem any_some_of {α : Type} {p : α → Prop} [DecidablePred p] {a : α} (h : p a) :
    ((some a).any fun x => decide (p x)) = true :=
  decide_eq_true h

theorem of_all {α : Type} {p : α → Prop} [DecidablePred p] {o : Option α} {a : α}
    (h : (o.all fun a => decide (p a)) = true) (ho : o = some a) : p a := by
  subst ho
  exact of_decide_eq_true h

/-! ### The cleared device -/

@[simp] theorem State.cleared_pins (s : State) (t : Nat) : (s.cleared t).pins = s.dev.pins := rfl
@[simp] theorem State.cleared_power (s : State) (t : Nat) : (s.cleared t).power = s.dev.power := rfl
@[simp] theorem State.cleared_teth (s : State) (t : Nat) : (s.cleared t).teth = s.dev.teth := rfl
@[simp] theorem State.cleared_pd (s : State) (t : Nat) : (s.cleared t).pd = s.dev.pd := rfl
@[simp] theorem State.cleared_valve (s : State) (t : Nat) : (s.cleared t).valve = s.dev.valve := rfl
@[simp] theorem State.cleared_lsw (s : State) (t : Nat) : (s.cleared t).lsw = s.dev.lsw := rfl
@[simp] theorem State.cleared_pwm (s : State) (t : Nat) : (s.cleared t).pwm = s.dev.pwm := rfl
@[simp] theorem State.cleared_axes (s : State) (t : Nat) : (s.cleared t).axes = s.dev.axes := rfl
@[simp] theorem State.cleared_rowDrives (s : State) (t : Nat) : (s.cleared t).rowDrives = s.dev.rowDrives := rfl
@[simp] theorem State.cleared_inp (s : State) (t : Nat) : (s.cleared t).inp = s.dev.inp := rfl
@[simp] theorem State.cleared_pose (s : State) (t : Nat) : (s.cleared t).pose = s.dev.pose := rfl
@[simp] theorem State.cleared_dec (s : State) (t : Nat) : (s.cleared t).dec = s.dev.dec := rfl
@[simp] theorem State.cleared_eng (s : State) (t : Nat) : (s.cleared t).eng = s.dev.eng := rfl
@[simp] theorem State.cleared_tiles (s : State) (t : Nat) : (s.cleared t).tiles = s.dev.tiles := rfl
@[simp] theorem State.cleared_tgt (s : State) (t : Nat) : (s.cleared t).tgt = s.dev.tgt := rfl
@[simp] theorem State.cleared_link (s : State) (t : Nat) : (s.cleared t).link = s.dev.link := rfl
@[simp] theorem State.cleared_ch (s : State) (t : Nat) : (s.cleared t).ch = s.dev.ch := rfl
@[simp] theorem State.cleared_swp (s : State) (t : Nat) : (s.cleared t).swp = s.dev.swp := rfl
@[simp] theorem State.cleared_gnss (s : State) (t : Nat) : (s.cleared t).gnss = s.dev.gnss := rfl
@[simp] theorem State.cleared_rtc (s : State) (t : Nat) : (s.cleared t).rtc = s.dev.rtc := rfl
@[simp] theorem State.cleared_seq (s : State) (t : Nat) : (s.cleared t).seq = s.dev.seq := rfl
@[simp] theorem State.cleared_swap (s : State) (t : Nat) : (s.cleared t).swap = s.dev.swap := rfl
@[simp] theorem State.cleared_snap (s : State) (t : Nat) : (s.cleared t).snap = s.dev.snap := rfl
@[simp] theorem State.cleared_dic (s : State) (t : Nat) : (s.cleared t).dic = s.dev.dic := rfl
@[simp] theorem State.cleared_jrn (s : State) (t : Nat) : (s.cleared t).jrn = s.dev.jrn := rfl
@[simp] theorem State.cleared_rcd (s : State) (t : Nat) : (s.cleared t).rcd = s.dev.rcd := rfl
@[simp] theorem State.cleared_hlt (s : State) (t : Nat) : (s.cleared t).hlt = s.dev.hlt := rfl
@[simp] theorem State.cleared_lock (s : State) (t : Nat) : (s.cleared t).lock = s.dev.lock := rfl
@[simp] theorem State.cleared_diag (s : State) (t : Nat) : (s.cleared t).diag = s.dev.diag := rfl
@[simp] theorem State.cleared_can (s : State) (t : Nat) : (s.cleared t).can = s.dev.can := rfl
@[simp] theorem State.cleared_hp (s : State) (t : Nat) : (s.cleared t).hp = s.dev.hp := rfl
@[simp] theorem State.cleared_que (s : State) (t : Nat) : (s.cleared t).que = s.dev.que := rfl
@[simp] theorem State.cleared_nvm (s : State) (t : Nat) : (s.cleared t).nvm = s.dev.nvm := rfl
@[simp] theorem State.cleared_draws (s : State) (t : Nat) : (s.cleared t).draws = s.dev.draws := rfl
@[simp] theorem State.cleared_time (s : State) (t : Nat) : (s.cleared t).time = { s.dev.time with now := s.nowAt t } := rfl

/-- A command without an instant acts at the present one. -/
theorem State.nowAt_present (s : State) : s.nowAt s.dev.time.now = s.dev.time.now := Nat.max_self _

theorem State.cleared_present (s : State) : s.cleared s.dev.time.now = { s.dev with out := [] } := by
  rw [State.cleared, Dev.at]
  simp only [Nat.max_self]

theorem State.chainAt_present (s : State) : s.chainAt s.dev.time.now = s.dev.chain := by
  rw [← State.cleared_chain, State.cleared_present]
  rfl

/-! ### Frames -/

/-- A device with the parts of a list, and what no frame speaks of, blanked. -/
def Dev.blank (ps : List Part) (d : Dev) : Dev where
  pins := if .pins ∈ ps then {} else d.pins
  power := if .power ∈ ps then {} else d.power
  teth := if .teth ∈ ps then {} else d.teth
  pd := if .pd ∈ ps then {} else d.pd
  valve := if .valve ∈ ps then {} else d.valve
  lsw := if .lsw ∈ ps then {} else d.lsw
  pwm := if .pwm ∈ ps then {} else d.pwm
  axes := if .axes ∈ ps then Vector.replicate 32 {} else d.axes
  rowDrives := if .rowDrives ∈ ps then Vector.replicate 16 {} else d.rowDrives
  inp := if .inp ∈ ps then {} else d.inp
  pose := if .pose ∈ ps then {} else d.pose
  dec := if .dec ∈ ps then {} else d.dec
  eng := if .eng ∈ ps then {} else d.eng
  tiles := if .tiles ∈ ps then {} else d.tiles
  tgt := if .tgt ∈ ps then {} else d.tgt
  link := if .link ∈ ps then {} else d.link
  ch := if .ch ∈ ps then {} else d.ch
  swp := if .swp ∈ ps then {} else d.swp
  gnss := if .gnss ∈ ps then {} else d.gnss
  time := if .time ∈ ps then {} else { d.time with now := 0 }
  rtc := if .rtc ∈ ps then {} else d.rtc
  seq := if .seq ∈ ps then {} else d.seq
  swap := if .swap ∈ ps then {} else d.swap
  snap := if .snap ∈ ps then [] else d.snap
  taken := if .taken ∈ ps then [] else d.taken
  dic := if .dic ∈ ps then {} else d.dic
  jrn := if .jrn ∈ ps then {} else d.jrn
  rcd := if .rcd ∈ ps then {} else d.rcd
  hlt := if .hlt ∈ ps then {} else d.hlt
  lock := if .lock ∈ ps then {} else d.lock
  diag := if .diag ∈ ps then {} else d.diag
  can := if .can ∈ ps then {} else d.can
  hp := if .hp ∈ ps then {} else d.hp
  que := if .que ∈ ps then {} else d.que
  nvm := if .nvm ∈ ps then {} else d.nvm

theorem Frame.of_blank {ps : List Part} {a b : Dev} (h : a.blank ps = b.blank ps) : Frame ps a b := by
  simp only [Dev.blank, Dev.mk.injEq] at h
  intro p hp
  cases p <;> simp only [hp, if_false] at h <;> simp only [Part.same, h]

/-! ### Effects -/

/-- What an operation may do to a device: change the listed parts and objects, and send messages of one kind. -/
structure Effect (ps : List Part) (objs : Nat → Bool) (sent : Emit → Prop) (a b : Dev) : Prop where
  frame : Frame ps a b
  obj : ObjFrame objs a b
  out : ∀ e ∈ b.out, e ∈ a.out ∨ sent e

/-- The operation changes the listed parts alone. -/
abbrev Only (ps : List Part) : Dev → Dev → Prop := Effect ps (fun _ => false) fun _ => False

theorem Effect.refl (ps : List Part) (objs : Nat → Bool) (sent : Emit → Prop) (d : Dev) : Effect ps objs sent d d :=
  ⟨Frame.refl ps d, ObjFrame.refl objs d, fun _ he => .inl he⟩

theorem Effect.trans {ps : List Part} {objs : Nat → Bool} {sent : Emit → Prop} {a b c : Dev} (h : Effect ps objs sent a b)
    (k : Effect ps objs sent b c) : Effect ps objs sent a c :=
  ⟨h.frame.trans k.frame, h.obj.trans k.obj, fun e he => (k.out e he).elim (h.out e) .inr⟩

theorem Effect.mono {ps qs : List Part} {objs objs' : Nat → Bool} {sent sent' : Emit → Prop} {a b : Dev}
    (h : Effect ps objs sent a b) (hparts : ∀ p, p ∈ ps → p ∈ qs) (hobjs : ∀ x, objs x = true → objs' x = true)
    (hsent : ∀ e, sent e → sent' e) : Effect qs objs' sent' a b :=
  ⟨h.frame.mono hparts, h.obj.mono hobjs, fun e he => (h.out e he).imp_right (hsent e)⟩

theorem Only.mono {ps qs : List Part} {a b : Dev} (h : Only ps a b) (hparts : ∀ p, p ∈ ps → p ∈ qs) {objs : Nat → Bool}
    {sent : Emit → Prop} : Effect qs objs sent a b :=
  Effect.mono h hparts (fun _ hx => absurd hx Bool.false_ne_true) fun _ he => he.elim

/-- An operation that only changes some parts does so whatever else is allowed. -/
theorem Effect.of_blank {ps : List Part} {objs : Nat → Bool} {sent : Emit → Prop} {a b : Dev} (h : a.blank ps = b.blank ps)
    (hobj : b.obj = a.obj) (hout : b.out = a.out) : Effect ps objs sent a b :=
  ⟨Frame.of_blank h, fun x _ => by rw [hobj], fun e he => .inl (hout ▸ he)⟩

theorem Effect.foldl {ι : Type} {ps : List Part} {objs : Nat → Bool} {sent : Emit → Prop} {f : Dev → ι → Dev}
    (hf : ∀ d x, Effect ps objs sent d (f d x)) : ∀ (l : List ι) (d : Dev), Effect ps objs sent d (l.foldl f d)
  | [], d => Effect.refl ps objs sent d
  | x :: r, d => (hf d x).trans (Effect.foldl hf r (f d x))

/-- What keeps a device's sending empty is plain. -/
theorem plain_of_only {ps : List Part} {s : State} {t : Nat} {b : Dev} (h : Only ps (s.cleared t) b) : plain b = true := by
  have hout : b.out = [] := List.eq_nil_iff_forall_not_mem.mpr fun e he =>
    (h.out e he).elim (fun hmem => by simp at hmem) id
  rw [plain, hout]
  rfl

/-- A fold that updates the entries of a list of places, one after the other, updates each place once. -/
theorem foldl_updateAt {α : Type} {n : Nat} {get : Dev → Vector α n} {step : Dev → Fin n → Dev} {f : Fin n → α → α}
    {P : Dev → Prop} (hstep : ∀ x k, P x → get (step x k) = updateAt (get x) k (f k) ∧ P (step x k)) (j : Fin n) :
    ∀ (l : List (Fin n)) (x : Dev), l.Nodup → P x →
      (get (l.foldl step x))[(j : Nat)] = if j ∈ l then f j (get x)[(j : Nat)] else (get x)[(j : Nat)]
  | [], _, _, _ => rfl
  | k :: r, x, hl, hx => by
    obtain ⟨hk, hr⟩ := List.nodup_cons.mp hl
    obtain ⟨hget, hP⟩ := hstep x k hx
    rw [List.foldl_cons, foldl_updateAt hstep j r (step x k) hr hP, hget]
    by_cases hj : j = k
    · subst hj
      simp [hk]
    · simp [hj]

/-! ### The effects of the shared operations -/

theorem Dev.withPins_effect (d : Dev) (x : Pins) : Only [.pins] d { d with pins := x } := Effect.of_blank rfl rfl rfl
theorem Dev.withPower_effect (d : Dev) (x : Power) : Only [.power] d { d with power := x } := Effect.of_blank rfl rfl rfl
theorem Dev.withTeth_effect (d : Dev) (x : Tether) : Only [.teth] d { d with teth := x } := Effect.of_blank rfl rfl rfl
theorem Dev.withPd_effect (d : Dev) (x : PowerDie) : Only [.pd] d { d with pd := x } := Effect.of_blank rfl rfl rfl
theorem Dev.withValve_effect (d : Dev) (x : Valve) : Only [.valve] d { d with valve := x } := Effect.of_blank rfl rfl rfl
theorem Dev.withLsw_effect (d : Dev) (x : LoadSwitches) : Only [.lsw] d { d with lsw := x } := Effect.of_blank rfl rfl rfl
theorem Dev.withPwm_effect (d : Dev) (x : Pwm) : Only [.pwm] d { d with pwm := x } := Effect.of_blank rfl rfl rfl
theorem Dev.withAxes_effect (d : Dev) (x : Vector Axis 32) : Only [.axes] d { d with axes := x } := Effect.of_blank rfl rfl rfl
theorem Dev.withRowDrives_effect (d : Dev) (x : Vector RowDrive 16) : Only [.rowDrives] d { d with rowDrives := x } := Effect.of_blank rfl rfl rfl
theorem Dev.withInp_effect (d : Dev) (x : Inputs) : Only [.inp] d { d with inp := x } := Effect.of_blank rfl rfl rfl
theorem Dev.withPose_effect (d : Dev) (x : Pose) : Only [.pose] d { d with pose := x } := Effect.of_blank rfl rfl rfl
theorem Dev.withDec_effect (d : Dev) (x : Decision) : Only [.dec] d { d with dec := x } := Effect.of_blank rfl rfl rfl
theorem Dev.withEng_effect (d : Dev) (x : Engines) : Only [.eng] d { d with eng := x } := Effect.of_blank rfl rfl rfl
theorem Dev.withTiles_effect (d : Dev) (x : Tiles) : Only [.tiles] d { d with tiles := x } := Effect.of_blank rfl rfl rfl
theorem Dev.withTgt_effect (d : Dev) (x : Targets) : Only [.tgt] d { d with tgt := x } := Effect.of_blank rfl rfl rfl
theorem Dev.withLink_effect (d : Dev) (x : Link) : Only [.link] d { d with link := x } := Effect.of_blank rfl rfl rfl
theorem Dev.withCh_effect (d : Dev) (x : Chain) : Only [.ch] d { d with ch := x } := Effect.of_blank rfl rfl rfl
theorem Dev.withSwp_effect (d : Dev) (x : Sweep) : Only [.swp] d { d with swp := x } := Effect.of_blank rfl rfl rfl
theorem Dev.withGnss_effect (d : Dev) (x : Gnss) : Only [.gnss] d { d with gnss := x } := Effect.of_blank rfl rfl rfl
theorem Dev.withRtc_effect (d : Dev) (x : Rtc) : Only [.rtc] d { d with rtc := x } := Effect.of_blank rfl rfl rfl
theorem Dev.withSeq_effect (d : Dev) (x : Sequencer) : Only [.seq] d { d with seq := x } := Effect.of_blank rfl rfl rfl
theorem Dev.withSwap_effect (d : Dev) (x : Swap) : Only [.swap] d { d with swap := x } := Effect.of_blank rfl rfl rfl
theorem Dev.withSnap_effect (d : Dev) (x : Store) : Only [.snap] d { d with snap := x } := Effect.of_blank rfl rfl rfl
theorem Dev.withTaken_effect (d : Dev) (x : Store) : Only [.taken] d { d with taken := x } := Effect.of_blank rfl rfl rfl
theorem Dev.withDic_effect (d : Dev) (x : Dictionary) : Only [.dic] d { d with dic := x } := Effect.of_blank rfl rfl rfl
theorem Dev.withJrn_effect (d : Dev) (x : Journal) : Only [.jrn] d { d with jrn := x } := Effect.of_blank rfl rfl rfl
theorem Dev.withRcd_effect (d : Dev) (x : Recorder) : Only [.rcd] d { d with rcd := x } := Effect.of_blank rfl rfl rfl
theorem Dev.withHlt_effect (d : Dev) (x : Health) : Only [.hlt] d { d with hlt := x } := Effect.of_blank rfl rfl rfl
theorem Dev.withLock_effect (d : Dev) (x : Lockout) : Only [.lock] d { d with lock := x } := Effect.of_blank rfl rfl rfl
theorem Dev.withDiag_effect (d : Dev) (x : Diagnostics) : Only [.diag] d { d with diag := x } := Effect.of_blank rfl rfl rfl
theorem Dev.withCan_effect (d : Dev) (x : Can) : Only [.can] d { d with can := x } := Effect.of_blank rfl rfl rfl
theorem Dev.withHp_effect (d : Dev) (x : HostPort) : Only [.hp] d { d with hp := x } := Effect.of_blank rfl rfl rfl
theorem Dev.withQue_effect (d : Dev) (x : Queues) : Only [.que] d { d with que := x } := Effect.of_blank rfl rfl rfl
theorem Dev.withNvm_effect (d : Dev) (x : Nvm) : Only [.nvm] d { d with nvm := x } := Effect.of_blank rfl rfl rfl
theorem Dev.withTime_effect (d : Dev) (x : Time) : Only [.time] d { d with time := x } := Effect.of_blank rfl rfl rfl
theorem Dev.at_effect (d : Dev) (t : Nat) : Only [] d (d.at t) := Effect.of_blank rfl rfl rfl
theorem Dev.draw_effect (d : Dev) : Only [] d d.draw := Effect.of_blank rfl rfl rfl

theorem Dev.send_effect (d : Dev) (e : Emit) : Effect [] (fun _ => false) (· = e) d (d.send e) where
  frame := Frame.of_blank rfl
  obj := ObjFrame.refl _ _
  out _ h := (List.mem_append.mp h).imp_right List.mem_singleton.mp

theorem Dev.putVal_effect (d : Dev) (a : Nat) (v : Val) : Effect [] (among [a]) (fun _ => False) d (d.putVal a v) where
  frame := Dev.putVal_frame _ d a v
  obj := Dev.putVal_objFrame d a v
  out _ h := .inl h

theorem Dev.fault_effect (d : Dev) (kind : Fin 20) (permanent : Bool) (unit : Nat) :
    Only [.hlt] d (d.fault kind permanent unit) :=
  Effect.of_blank rfl rfl rfl

/-- R373: a message of the emergency kind. -/
def isEmcy : Emit → Prop
  | .emcy _ _ _ _ => True
  | _ => False

theorem Dev.emcy_effect (d : Dev) (code event : Nat) : Effect [.can] (among [0x2C3004]) isEmcy d (d.emcy code event) := by
  unfold Dev.emcy
  dsimp only
  split
  case isTrue => exact Effect.refl _ _ _ d
  case isFalse =>
    generalize (_ || _ : Bool) = held
    cases held
    · refine ⟨Frame.of_blank rfl, Dev.putVal_objFrame _ _ _, fun e he => ?_⟩
      rcases List.mem_append.mp he with hold | hnew
      · exact .inl hold
      · rw [List.mem_singleton.mp hnew]
        exact .inr trivial
    · exact Effect.of_blank rfl rfl rfl

theorem Dev.dtc_effect (d : Dev) (code kind unit : Nat) :
    Effect [.diag, .can] (among [0x2C3004]) isEmcy d (d.dtc code kind unit) := by
  have hemcy : ∀ (x : Dev) (c e : Nat), Effect [.diag, .can] (among [0x2C3004]) isEmcy x (x.emcy c e) := fun x c e =>
    (x.emcy_effect c e).mono (by simp) (fun _ h => h) fun _ h => h
  have hdiag : ∀ g : Diagnostics, Effect [.diag, .can] (among [0x2C3004]) isEmcy d { d with diag := g } := fun _ =>
    Effect.of_blank rfl rfl rfl
  unfold Dev.dtc
  split
  · split
    · exact hemcy _ _ _
    · exact Effect.refl _ _ _ d
  · split
    · exact (hdiag _).trans (hemcy _ _ _)
    · split
      · exact (hdiag _).trans (hemcy _ _ _)
      · exact Effect.refl _ _ _ d

theorem Dev.record_effect (d : Dev) (e : Event) : Effect [.rcd] (among [0x2F0003, 0x2F0004]) (fun _ => False) d (d.record e) := by
  have hput : ∀ (r : Recorder) (a : Nat) (v : Val), a = 0x2F0003 ∨ a = 0x2F0004 →
      Effect [.rcd] (among [0x2F0003, 0x2F0004]) (fun _ => False) d (Dev.putVal { d with rcd := r } a v) := fun r a v ha =>
    (Effect.of_blank rfl rfl rfl : Effect _ _ _ d { d with rcd := r }).trans
      ((Dev.putVal_effect _ a v).mono (by simp) (fun x hx => by
        rcases ha with rfl | rfl <;> simp_all [among]) fun _ h => h)
  unfold Dev.record
  split
  · exact hput _ _ _ (.inr rfl)
  · split
    · exact hput _ _ _ (.inl rfl)
    · exact Effect.of_blank rfl rfl rfl

/-- R445: what raising an event may do. -/
theorem Dev.raise_effect (d : Dev) (code kind unit : Nat) (items : List (Nat × Int)) :
    Effect eventParts eventObjs isEmcy d (d.raise code kind unit items) :=
  ((d.dtc_effect code kind unit).mono (by simp [eventParts]) (by simp [among, eventObjs]) fun _ h => h).trans
    (((d.dtc code kind unit).record_effect _).mono (by simp [eventParts]) (by simp +contextual [among, eventObjs]) fun _ h => h.elim)

/-! ### What an event and a fault leave alone -/

@[simp] theorem Dev.raise_pins (d : Dev) (code kind unit : Nat) (items : List (Nat × Int)) :
    (d.raise code kind unit items).pins = d.pins := by
  obtain ⟨r, g, c, o, q, h⟩ := d.raise_frame code kind unit items
  rw [h]
@[simp] theorem Dev.raise_power (d : Dev) (code kind unit : Nat) (items : List (Nat × Int)) :
    (d.raise code kind unit items).power = d.power := by
  obtain ⟨r, g, c, o, q, h⟩ := d.raise_frame code kind unit items
  rw [h]
@[simp] theorem Dev.raise_teth (d : Dev) (code kind unit : Nat) (items : List (Nat × Int)) :
    (d.raise code kind unit items).teth = d.teth := by
  obtain ⟨r, g, c, o, q, h⟩ := d.raise_frame code kind unit items
  rw [h]
@[simp] theorem Dev.raise_pd (d : Dev) (code kind unit : Nat) (items : List (Nat × Int)) :
    (d.raise code kind unit items).pd = d.pd := by
  obtain ⟨r, g, c, o, q, h⟩ := d.raise_frame code kind unit items
  rw [h]
@[simp] theorem Dev.raise_valve (d : Dev) (code kind unit : Nat) (items : List (Nat × Int)) :
    (d.raise code kind unit items).valve = d.valve := by
  obtain ⟨r, g, c, o, q, h⟩ := d.raise_frame code kind unit items
  rw [h]
@[simp] theorem Dev.raise_lsw (d : Dev) (code kind unit : Nat) (items : List (Nat × Int)) :
    (d.raise code kind unit items).lsw = d.lsw := by
  obtain ⟨r, g, c, o, q, h⟩ := d.raise_frame code kind unit items
  rw [h]
@[simp] theorem Dev.raise_pwm (d : Dev) (code kind unit : Nat) (items : List (Nat × Int)) :
    (d.raise code kind unit items).pwm = d.pwm := by
  obtain ⟨r, g, c, o, q, h⟩ := d.raise_frame code kind unit items
  rw [h]
@[simp] theorem Dev.raise_axes (d : Dev) (code kind unit : Nat) (items : List (Nat × Int)) :
    (d.raise code kind unit items).axes = d.axes := by
  obtain ⟨r, g, c, o, q, h⟩ := d.raise_frame code kind unit items
  rw [h]
@[simp] theorem Dev.raise_rowDrives (d : Dev) (code kind unit : Nat) (items : List (Nat × Int)) :
    (d.raise code kind unit items).rowDrives = d.rowDrives := by
  obtain ⟨r, g, c, o, q, h⟩ := d.raise_frame code kind unit items
  rw [h]
@[simp] theorem Dev.raise_inp (d : Dev) (code kind unit : Nat) (items : List (Nat × Int)) :
    (d.raise code kind unit items).inp = d.inp := by
  obtain ⟨r, g, c, o, q, h⟩ := d.raise_frame code kind unit items
  rw [h]
@[simp] theorem Dev.raise_pose (d : Dev) (code kind unit : Nat) (items : List (Nat × Int)) :
    (d.raise code kind unit items).pose = d.pose := by
  obtain ⟨r, g, c, o, q, h⟩ := d.raise_frame code kind unit items
  rw [h]
@[simp] theorem Dev.raise_dec (d : Dev) (code kind unit : Nat) (items : List (Nat × Int)) :
    (d.raise code kind unit items).dec = d.dec := by
  obtain ⟨r, g, c, o, q, h⟩ := d.raise_frame code kind unit items
  rw [h]
@[simp] theorem Dev.raise_eng (d : Dev) (code kind unit : Nat) (items : List (Nat × Int)) :
    (d.raise code kind unit items).eng = d.eng := by
  obtain ⟨r, g, c, o, q, h⟩ := d.raise_frame code kind unit items
  rw [h]
@[simp] theorem Dev.raise_tiles (d : Dev) (code kind unit : Nat) (items : List (Nat × Int)) :
    (d.raise code kind unit items).tiles = d.tiles := by
  obtain ⟨r, g, c, o, q, h⟩ := d.raise_frame code kind unit items
  rw [h]
@[simp] theorem Dev.raise_tgt (d : Dev) (code kind unit : Nat) (items : List (Nat × Int)) :
    (d.raise code kind unit items).tgt = d.tgt := by
  obtain ⟨r, g, c, o, q, h⟩ := d.raise_frame code kind unit items
  rw [h]
@[simp] theorem Dev.raise_link (d : Dev) (code kind unit : Nat) (items : List (Nat × Int)) :
    (d.raise code kind unit items).link = d.link := by
  obtain ⟨r, g, c, o, q, h⟩ := d.raise_frame code kind unit items
  rw [h]
@[simp] theorem Dev.raise_ch (d : Dev) (code kind unit : Nat) (items : List (Nat × Int)) :
    (d.raise code kind unit items).ch = d.ch := by
  obtain ⟨r, g, c, o, q, h⟩ := d.raise_frame code kind unit items
  rw [h]
@[simp] theorem Dev.raise_swp (d : Dev) (code kind unit : Nat) (items : List (Nat × Int)) :
    (d.raise code kind unit items).swp = d.swp := by
  obtain ⟨r, g, c, o, q, h⟩ := d.raise_frame code kind unit items
  rw [h]
@[simp] theorem Dev.raise_gnss (d : Dev) (code kind unit : Nat) (items : List (Nat × Int)) :
    (d.raise code kind unit items).gnss = d.gnss := by
  obtain ⟨r, g, c, o, q, h⟩ := d.raise_frame code kind unit items
  rw [h]
@[simp] theorem Dev.raise_time (d : Dev) (code kind unit : Nat) (items : List (Nat × Int)) :
    (d.raise code kind unit items).time = d.time := by
  obtain ⟨r, g, c, o, q, h⟩ := d.raise_frame code kind unit items
  rw [h]
@[simp] theorem Dev.raise_rtc (d : Dev) (code kind unit : Nat) (items : List (Nat × Int)) :
    (d.raise code kind unit items).rtc = d.rtc := by
  obtain ⟨r, g, c, o, q, h⟩ := d.raise_frame code kind unit items
  rw [h]
@[simp] theorem Dev.raise_seq (d : Dev) (code kind unit : Nat) (items : List (Nat × Int)) :
    (d.raise code kind unit items).seq = d.seq := by
  obtain ⟨r, g, c, o, q, h⟩ := d.raise_frame code kind unit items
  rw [h]
@[simp] theorem Dev.raise_swap (d : Dev) (code kind unit : Nat) (items : List (Nat × Int)) :
    (d.raise code kind unit items).swap = d.swap := by
  obtain ⟨r, g, c, o, q, h⟩ := d.raise_frame code kind unit items
  rw [h]
@[simp] theorem Dev.raise_snap (d : Dev) (code kind unit : Nat) (items : List (Nat × Int)) :
    (d.raise code kind unit items).snap = d.snap := by
  obtain ⟨r, g, c, o, q, h⟩ := d.raise_frame code kind unit items
  rw [h]
@[simp] theorem Dev.raise_taken (d : Dev) (code kind unit : Nat) (items : List (Nat × Int)) :
    (d.raise code kind unit items).taken = d.taken := by
  obtain ⟨r, g, c, o, q, h⟩ := d.raise_frame code kind unit items
  rw [h]
@[simp] theorem Dev.raise_dic (d : Dev) (code kind unit : Nat) (items : List (Nat × Int)) :
    (d.raise code kind unit items).dic = d.dic := by
  obtain ⟨r, g, c, o, q, h⟩ := d.raise_frame code kind unit items
  rw [h]
@[simp] theorem Dev.raise_jrn (d : Dev) (code kind unit : Nat) (items : List (Nat × Int)) :
    (d.raise code kind unit items).jrn = d.jrn := by
  obtain ⟨r, g, c, o, q, h⟩ := d.raise_frame code kind unit items
  rw [h]
@[simp] theorem Dev.raise_hlt (d : Dev) (code kind unit : Nat) (items : List (Nat × Int)) :
    (d.raise code kind unit items).hlt = d.hlt := by
  obtain ⟨r, g, c, o, q, h⟩ := d.raise_frame code kind unit items
  rw [h]
@[simp] theorem Dev.raise_lock (d : Dev) (code kind unit : Nat) (items : List (Nat × Int)) :
    (d.raise code kind unit items).lock = d.lock := by
  obtain ⟨r, g, c, o, q, h⟩ := d.raise_frame code kind unit items
  rw [h]
@[simp] theorem Dev.raise_hp (d : Dev) (code kind unit : Nat) (items : List (Nat × Int)) :
    (d.raise code kind unit items).hp = d.hp := by
  obtain ⟨r, g, c, o, q, h⟩ := d.raise_frame code kind unit items
  rw [h]
@[simp] theorem Dev.raise_que (d : Dev) (code kind unit : Nat) (items : List (Nat × Int)) :
    (d.raise code kind unit items).que = d.que := by
  obtain ⟨r, g, c, o, q, h⟩ := d.raise_frame code kind unit items
  rw [h]
@[simp] theorem Dev.raise_nvm (d : Dev) (code kind unit : Nat) (items : List (Nat × Int)) :
    (d.raise code kind unit items).nvm = d.nvm := by
  obtain ⟨r, g, c, o, q, h⟩ := d.raise_frame code kind unit items
  rw [h]
@[simp] theorem Dev.raise_draws (d : Dev) (code kind unit : Nat) (items : List (Nat × Int)) :
    (d.raise code kind unit items).draws = d.draws := by
  obtain ⟨r, g, c, o, q, h⟩ := d.raise_frame code kind unit items
  rw [h]

@[simp] theorem Dev.fault_pins (d : Dev) (k : Fin 20) (m : Bool) (u : Nat) : (d.fault k m u).pins = d.pins := rfl
@[simp] theorem Dev.fault_power (d : Dev) (k : Fin 20) (m : Bool) (u : Nat) : (d.fault k m u).power = d.power := rfl
@[simp] theorem Dev.fault_teth (d : Dev) (k : Fin 20) (m : Bool) (u : Nat) : (d.fault k m u).teth = d.teth := rfl
@[simp] theorem Dev.fault_pd (d : Dev) (k : Fin 20) (m : Bool) (u : Nat) : (d.fault k m u).pd = d.pd := rfl
@[simp] theorem Dev.fault_valve (d : Dev) (k : Fin 20) (m : Bool) (u : Nat) : (d.fault k m u).valve = d.valve := rfl
@[simp] theorem Dev.fault_lsw (d : Dev) (k : Fin 20) (m : Bool) (u : Nat) : (d.fault k m u).lsw = d.lsw := rfl
@[simp] theorem Dev.fault_pwm (d : Dev) (k : Fin 20) (m : Bool) (u : Nat) : (d.fault k m u).pwm = d.pwm := rfl
@[simp] theorem Dev.fault_axes (d : Dev) (k : Fin 20) (m : Bool) (u : Nat) : (d.fault k m u).axes = d.axes := rfl
@[simp] theorem Dev.fault_rowDrives (d : Dev) (k : Fin 20) (m : Bool) (u : Nat) : (d.fault k m u).rowDrives = d.rowDrives := rfl
@[simp] theorem Dev.fault_inp (d : Dev) (k : Fin 20) (m : Bool) (u : Nat) : (d.fault k m u).inp = d.inp := rfl
@[simp] theorem Dev.fault_pose (d : Dev) (k : Fin 20) (m : Bool) (u : Nat) : (d.fault k m u).pose = d.pose := rfl
@[simp] theorem Dev.fault_dec (d : Dev) (k : Fin 20) (m : Bool) (u : Nat) : (d.fault k m u).dec = d.dec := rfl
@[simp] theorem Dev.fault_eng (d : Dev) (k : Fin 20) (m : Bool) (u : Nat) : (d.fault k m u).eng = d.eng := rfl
@[simp] theorem Dev.fault_tiles (d : Dev) (k : Fin 20) (m : Bool) (u : Nat) : (d.fault k m u).tiles = d.tiles := rfl
@[simp] theorem Dev.fault_tgt (d : Dev) (k : Fin 20) (m : Bool) (u : Nat) : (d.fault k m u).tgt = d.tgt := rfl
@[simp] theorem Dev.fault_link (d : Dev) (k : Fin 20) (m : Bool) (u : Nat) : (d.fault k m u).link = d.link := rfl
@[simp] theorem Dev.fault_ch (d : Dev) (k : Fin 20) (m : Bool) (u : Nat) : (d.fault k m u).ch = d.ch := rfl
@[simp] theorem Dev.fault_swp (d : Dev) (k : Fin 20) (m : Bool) (u : Nat) : (d.fault k m u).swp = d.swp := rfl
@[simp] theorem Dev.fault_gnss (d : Dev) (k : Fin 20) (m : Bool) (u : Nat) : (d.fault k m u).gnss = d.gnss := rfl
@[simp] theorem Dev.fault_time (d : Dev) (k : Fin 20) (m : Bool) (u : Nat) : (d.fault k m u).time = d.time := rfl
@[simp] theorem Dev.fault_rtc (d : Dev) (k : Fin 20) (m : Bool) (u : Nat) : (d.fault k m u).rtc = d.rtc := rfl
@[simp] theorem Dev.fault_seq (d : Dev) (k : Fin 20) (m : Bool) (u : Nat) : (d.fault k m u).seq = d.seq := rfl
@[simp] theorem Dev.fault_swap (d : Dev) (k : Fin 20) (m : Bool) (u : Nat) : (d.fault k m u).swap = d.swap := rfl
@[simp] theorem Dev.fault_obj (d : Dev) (k : Fin 20) (m : Bool) (u : Nat) : (d.fault k m u).obj = d.obj := rfl
@[simp] theorem Dev.fault_snap (d : Dev) (k : Fin 20) (m : Bool) (u : Nat) : (d.fault k m u).snap = d.snap := rfl
@[simp] theorem Dev.fault_taken (d : Dev) (k : Fin 20) (m : Bool) (u : Nat) : (d.fault k m u).taken = d.taken := rfl
@[simp] theorem Dev.fault_dic (d : Dev) (k : Fin 20) (m : Bool) (u : Nat) : (d.fault k m u).dic = d.dic := rfl
@[simp] theorem Dev.fault_jrn (d : Dev) (k : Fin 20) (m : Bool) (u : Nat) : (d.fault k m u).jrn = d.jrn := rfl
@[simp] theorem Dev.fault_rcd (d : Dev) (k : Fin 20) (m : Bool) (u : Nat) : (d.fault k m u).rcd = d.rcd := rfl
@[simp] theorem Dev.fault_lock (d : Dev) (k : Fin 20) (m : Bool) (u : Nat) : (d.fault k m u).lock = d.lock := rfl
@[simp] theorem Dev.fault_diag (d : Dev) (k : Fin 20) (m : Bool) (u : Nat) : (d.fault k m u).diag = d.diag := rfl
@[simp] theorem Dev.fault_can (d : Dev) (k : Fin 20) (m : Bool) (u : Nat) : (d.fault k m u).can = d.can := rfl
@[simp] theorem Dev.fault_hp (d : Dev) (k : Fin 20) (m : Bool) (u : Nat) : (d.fault k m u).hp = d.hp := rfl
@[simp] theorem Dev.fault_que (d : Dev) (k : Fin 20) (m : Bool) (u : Nat) : (d.fault k m u).que = d.que := rfl
@[simp] theorem Dev.fault_nvm (d : Dev) (k : Fin 20) (m : Bool) (u : Nat) : (d.fault k m u).nvm = d.nvm := rfl
@[simp] theorem Dev.fault_out (d : Dev) (k : Fin 20) (m : Bool) (u : Nat) : (d.fault k m u).out = d.out := rfl
@[simp] theorem Dev.fault_draws (d : Dev) (k : Fin 20) (m : Bool) (u : Nat) : (d.fault k m u).draws = d.draws := rfl

/-! ### Chains of operations -/

section Chains

variable {ps : List Part} {objs : Nat → Bool} {sent : Emit → Prop} {a b : Dev}

theorem Effect.putVal (h : Effect ps objs sent a b) {x : Nat} (hx : objs x = true) (v : Val) :
    Effect ps objs sent a (b.putVal x v) :=
  h.trans ((Dev.putVal_effect b x v).mono (by simp) (fun y hy => by
    rw [show y = x by simpa [among] using hy]
    exact hx) fun _ he => he.elim)

theorem Effect.put (h : Effect ps objs sent a b) {x : Nat} (hx : objs x = true) (v : Int) : Effect ps objs sent a (b.put x v) :=
  h.putVal hx _

theorem Effect.bump (h : Effect ps objs sent a b) {x : Nat} (hx : objs x = true) : Effect ps objs sent a (b.bump x) :=
  h.putVal hx _

theorem Effect.add (h : Effect ps objs sent a b) {x : Nat} (hx : objs x = true) (n : Nat) :
    Effect ps objs sent a (b.add x n) :=
  h.putVal hx _

theorem Effect.putBit (h : Effect ps objs sent a b) {x : Nat} (hx : objs x = true) (k : Nat) (v : Bool) :
    Effect ps objs sent a (b.putBit x k v) :=
  h.putVal hx _

theorem Effect.send (h : Effect ps objs sent a b) {e : Emit} (he : sent e) : Effect ps objs sent a (b.send e) :=
  h.trans ((Dev.send_effect b e).mono (by simp) (fun _ hx => absurd hx Bool.false_ne_true) fun _ hx => hx ▸ he)

theorem Effect.only {qs : List Part} {c : Dev} (h : Effect ps objs sent a b) (k : Only qs b c) (hqs : ∀ p, p ∈ qs → p ∈ ps) :
    Effect ps objs sent a c :=
  h.trans (k.mono hqs)

theorem Effect.raise (h : Effect ps objs sent a b) (hps : ∀ p, p ∈ eventParts → p ∈ ps)
    (hobjs : ∀ x, eventObjs x = true → objs x = true) (hsent : ∀ e, isEmcy e → sent e) (code kind unit : Nat)
    (items : List (Nat × Int)) : Effect ps objs sent a (b.raise code kind unit items) :=
  h.trans ((Dev.raise_effect b code kind unit items).mono hps hobjs hsent)

theorem Effect.storeGet (h : Effect ps objs sent a b) {x : Nat} (hx : objs x = false) : storeGet b.obj x = storeGet a.obj x :=
  h.obj x hx

theorem Effect.int (h : Effect ps objs sent a b) {x : Nat} (hx : objs x = false) : b.int x = a.int x := by
  rw [Dev.int, h.obj x hx, Dev.int]

theorem Effect.nat (h : Effect ps objs sent a b) {x : Nat} (hx : objs x = false) : b.nat x = a.nat x := by
  rw [Dev.nat, h.int hx, Dev.nat]

theorem Effect.flag (h : Effect ps objs sent a b) {x : Nat} (hx : objs x = false) : b.flag x = a.flag x := by
  rw [Dev.flag, h.int hx, Dev.flag]

theorem Effect.isLead (h : Effect ps objs sent a b) (hx : objs 0x2A0001 = false) : b.isLead = a.isLead := by
  rw [Dev.isLead, h.nat hx, Dev.isLead]

/-- The clock aside, the time chapter's state is kept. -/
theorem Effect.timeField {α : Type} (h : Effect ps objs sent a b) (hps : .time ∉ ps) (f : Time → α)
    (hf : ∀ x : Time, f { x with now := 0 } = f x) : f b.time = f a.time := by
  have htime := congrArg f (h.frame .time hps)
  rwa [hf, hf, eq_comm] at htime

end Chains

/-! ### Reading objects -/

theorem storeGet_set (s : Store) (a b : Nat) (v : Val) :
    storeGet (storeSet s a v) b = if b = a then v else storeGet s b := by
  split
  case isTrue h => rw [h, storeGet_set_same]
  case isFalse h => exact storeGet_set_other s a b v h

theorem Dev.int_put (d : Dev) (a b : Nat) (v : Int) : (d.put a v).int b = if b = a then v else d.int b := by
  split
  case isTrue h => rw [h, Dev.int_put_same]
  case isFalse h => exact Dev.int_put_other d a b v h

/-- R362: the value of an object that is no frame counter, whatever the counters are. -/
theorem ObjFrame.int {p : Nat → Bool} {a b : Dev} (h : ObjFrame p a b) {x : Nat} (hx : p x = false) : b.int x = a.int x := by
  rw [Dev.int, h x hx, Dev.int]

theorem ObjFrame.nat {p : Nat → Bool} {a b : Dev} (h : ObjFrame p a b) {x : Nat} (hx : p x = false) : b.nat x = a.nat x := by
  rw [Dev.nat, h.int hx, Dev.nat]

theorem ObjFrame.flag {p : Nat → Bool} {a b : Dev} (h : ObjFrame p a b) {x : Nat} (hx : p x = false) : b.flag x = a.flag x := by
  rw [Dev.flag, h.int hx, Dev.flag]

/-! ### What the buses count -/

/-- 0x2C01:13, 0x2C02:13: the frames that the buses count. -/
def busObjs : Nat → Bool := among [0x2C0113, 0x2C0213]

theorem busCounter_busObjs {e : Emit} {a : Nat} (h : busCounter e = some a) : busObjs a = true := by
  rw [busCounter.eq_def] at h
  split at h
  case h_11 =>
    injection h with h
    rw [← h]
    split <;> rfl
  all_goals cases h
  all_goals rfl

/-- R362: counting what is sent changes the frame counters alone. -/
theorem countOut_effect : ∀ (l : List Emit) (d : Dev), Effect [] busObjs (fun _ => False) d (countOut l d)
  | [], d => Effect.refl _ _ _ d
  | e :: r, d => by
    rw [countOut]
    split
    case h_1 a ha =>
      refine Effect.trans ((Dev.putVal_effect d a _).mono (fun _ h => h) (fun x hx => ?_) fun _ h => h) (countOut_effect r _)
      rw [show x = a by simpa [among] using hx]
      exact busCounter_busObjs ha
    case h_2 => exact countOut_effect r d

/-! ### What the link does not carry -/

/-- Table 12.8: whether a message goes by the data or management class is said by its kind alone. -/
theorem Dev.route_none {d : Dev} {e : Emit} (h : d.route e = none) (d' : Dev) : d'.route e = none := by
  rw [Dev.route.eq_def] at h ⊢
  split at h
  case h_11 => rfl
  all_goals cases h

theorem Dev.linkOut_unrouted (d : Dev) (h : ∀ e ∈ d.out, d.route e = none) : d.linkOut = countOut d.out d := by
  obtain ⟨o, ho⟩ := countOut_frame d.out d
  rw [Dev.linkOut, pushOut_plain d.out _ fun e he => Dev.route_none (h e he) _, ho]

theorem Dev.route_none_of_isEmcy (d : Dev) {e : Emit} (h : isEmcy e) : d.route e = none := by
  cases e with
  | emcy _ _ _ _ => rfl
  | _ => exact h.elim

/-- A rule whose command acts, and sends nothing by the link: what it says of the device after the command holds whatever
the frame counters of the buses then are. -/
theorem Rule.holds_unrouted {α : Type} (r : Rule α) (t : α → State → Nat) (f : α → State → Dev → Dev)
    (he : ∀ a c s, r.cmd a c → r.pre a s → exec c s = s.act (t a s) (f a s))
    (hbus : ∀ a x, busObjs x = true → r.objs a x = true)
    (h : ∀ a s, r.pre a s → (∀ e ∈ (f a s (s.cleared (t a s))).out, (s.cleared (t a s)).route e = none) ∧
      Frame r.parts s.dev (f a s (s.cleared (t a s))) ∧ ObjFrame (r.objs a) s.dev (f a s (s.cleared (t a s))) ∧
      ∀ o, ObjFrame busObjs (f a s (s.cleared (t a s))) { f a s (s.cleared (t a s)) with obj := o } →
        r.post a s { f a s (s.cleared (t a s)) with obj := o }) : r.Holds := by
  intro a c s hc hp
  obtain ⟨hout, hframe, hobj, hpost⟩ := h a s hp
  generalize hD : f a s (s.cleared (t a s)) = D at hout hframe hobj hpost
  have hlink : (f a s (({ s.dev with out := [] } : Dev).at (t a s))).linkOut = countOut D.out D := by
    rw [← Dev.linkOut_unrouted D fun e he => Dev.route_none (hout e he) D, ← hD]
    rfl
  refine ⟨{ s with dev := countOut D.out D }, ?_, rfl, ?_, ?_, ?_⟩
  · rw [he a c s hc hp, State.act_eq, hlink]
  · exact hframe.trans ((countOut_effect D.out D).frame.mono (by simp))
  · exact hobj.trans ((countOut_effect D.out D).obj.mono (hbus a))
  · obtain ⟨o, ho⟩ := countOut_frame D.out D
    have hcount := (countOut_effect D.out D).obj
    rw [ho] at hcount ⊢
    exact hpost o hcount

/-- The same for a command that acts while the logic die runs. -/
theorem Rule.holds_unrouted_logic {α : Type} (r : Rule α) (t : α → State → Nat) (f : α → State → Dev → Dev)
    (he : ∀ a c s, r.cmd a c → r.pre a s → exec c s = s.logic (t a s) (f a s)) (hr : ∀ a s, r.pre a s → Runs s)
    (hbus : ∀ a x, busObjs x = true → r.objs a x = true)
    (h : ∀ a s, r.pre a s → (∀ e ∈ (f a s (s.cleared (t a s))).out, (s.cleared (t a s)).route e = none) ∧
      Frame r.parts s.dev (f a s (s.cleared (t a s))) ∧ ObjFrame (r.objs a) s.dev (f a s (s.cleared (t a s))) ∧
      ∀ o, ObjFrame busObjs (f a s (s.cleared (t a s))) { f a s (s.cleared (t a s)) with obj := o } →
        r.post a s { f a s (s.cleared (t a s)) with obj := o }) : r.Holds := by
  refine r.holds_unrouted t f (fun a c s hc hp => ?_) hbus h
  rw [he a c s hc hp, State.logic_eq s _ _ (hr a s hp), State.act_eq]

/-- What a rule asks of its command, from what the command's operations may do to the cleared device. -/
theorem Only.rule {α : Type} {r : Rule α} {a : α} {s : State} {t : Nat} {b : Dev} (h : Only r.parts (s.cleared t) b)
    (hpost : r.post a s b) : plain b = true ∧ Frame r.parts s.dev b ∧ ObjFrame (r.objs a) s.dev b ∧ r.post a s b :=
  ⟨plain_of_only h, (s.cleared_same t _).trans h.frame, ObjFrame.mono (fun _ hx => absurd hx Bool.false_ne_true) h.obj, hpost⟩

/-- The same for a command that sends, or changes objects. -/
theorem Effect.rule {α : Type} {r : Rule α} {a : α} {s : State} {t : Nat} {b : Dev} {sent : Emit → Prop}
    (h : Effect r.parts (r.objs a) sent (s.cleared t) b)
    (hsent : ∀ e, sent e → busCounter e = none ∧ (s.cleared t).route e = none)
    (hpost : r.post a s b) : plain b = true ∧ Frame r.parts s.dev b ∧ ObjFrame (r.objs a) s.dev b ∧ r.post a s b := by
  refine ⟨?_, (s.cleared_same t _).trans h.frame, h.obj, hpost⟩
  rw [plain, List.all_eq_true]
  intro e he
  obtain ⟨hbus, hroute⟩ := (h.out e he).elim (fun hmem => by simp at hmem) (hsent e)
  rw [hbus, Dev.route_none hroute b]
  rfl

/-- The same for a command whose messages may leave by a bus. -/
theorem Effect.unrouted_rule {α : Type} {r : Rule α} {a : α} {s : State} {t : Nat} {b : Dev} {sent : Emit → Prop}
    (h : Effect r.parts (r.objs a) sent (s.cleared t) b) (hsent : ∀ e, sent e → (s.cleared t).route e = none)
    (hpost : ∀ o, ObjFrame busObjs b { b with obj := o } → r.post a s { b with obj := o }) :
    (∀ e ∈ b.out, (s.cleared t).route e = none) ∧ Frame r.parts s.dev b ∧ ObjFrame (r.objs a) s.dev b ∧
      ∀ o, ObjFrame busObjs b { b with obj := o } → r.post a s { b with obj := o } :=
  ⟨fun e he => (h.out e he).elim (fun hmem => by simp at hmem) (hsent e), (s.cleared_same t _).trans h.frame, h.obj, hpost⟩

/-! ### Commands -/

theorem State.logic_of_runs {s : State} (h : Runs s) (t : Nat) (f : Dev → Dev) : s.logic t f = s.act t f := by
  rw [State.logic_eq s t f h, State.act_eq]

theorem State.served_of_runs {s : State} (h : Runs s) (t : Nat) (f : Dev → Dev) : s.served t f = s.act t f := by
  have hrun : (({ s.dev with out := [] } : Dev).at t).power.run = .running := h
  rw [State.served, State.act_eq, State.act_eq]
  simp only [hrun, decide_true, Bool.true_or, if_true]

theorem State.logicNow_of_runs {s : State} (h : Runs s) (f : Dev → Dev) : s.logicNow f = s.act s.dev.time.now f :=
  State.logic_of_runs h _ f

/-- A rule whose command acts while the logic die serves its host port. -/
theorem Rule.holds_served {α : Type} (r : Rule α) (t : α → State → Nat) (f : α → State → Dev → Dev)
    (he : ∀ a c s, r.cmd a c → r.pre a s → exec c s = s.served (t a s) (f a s)) (hr : ∀ a s, r.pre a s → Runs s)
    (h : ∀ a s, r.pre a s → plain (f a s (s.cleared (t a s))) = true ∧ Frame r.parts s.dev (f a s (s.cleared (t a s))) ∧
      ObjFrame (r.objs a) s.dev (f a s (s.cleared (t a s))) ∧ r.post a s (f a s (s.cleared (t a s)))) : r.Holds :=
  r.holds_act t f (fun a c s hc hp => (he a c s hc hp).trans (State.served_of_runs (hr a s hp) _ _)) h

/-- A rule whose command acts at the present instant while the logic die runs. -/
theorem Rule.holds_logicNow {α : Type} (r : Rule α) (f : α → State → Dev → Dev)
    (he : ∀ a c s, r.cmd a c → r.pre a s → exec c s = s.logicNow (f a s)) (hr : ∀ a s, r.pre a s → Runs s)
    (h : ∀ a s, r.pre a s → plain (f a s (s.cleared s.dev.time.now)) = true ∧
      Frame r.parts s.dev (f a s (s.cleared s.dev.time.now)) ∧
      ObjFrame (r.objs a) s.dev (f a s (s.cleared s.dev.time.now)) ∧ r.post a s (f a s (s.cleared s.dev.time.now))) : r.Holds :=
  r.holds_logic (fun _ s => s.dev.time.now) f he hr h

/-! ### Counterexamples -/

/-- A device whose logic die runs, as reset leaves it otherwise. -/
def runningDev : Dev := { power := { run := .running } }

/-- The same as the lead. -/
def leadDev : Dev := runningDev.put 0x2A0001 1

/-- Whether a command ends in a next state whose device passes a test. -/
def endsWith (c : Instr) (s : State) (f : Dev → Bool) : Bool :=
  match exec c s with
  | .next u => f u.dev
  | _ => false

/-- A rule fails by a state that meets its premises and after whose command the device is not what the rule says. -/
theorem Rule.not_holds {α : Type} {r : Rule α} {a : α} {c : Instr} {s : State} (hc : r.cmd a c) (hp : r.pre a s) (f : Dev → Bool)
    (hf : endsWith c s f = true) (hpost : ∀ d, r.post a s d → f d = false) : ¬ r.Holds := by
  intro h
  obtain ⟨u, hexec, -, -, -, hu⟩ := h a c s hc hp
  rw [endsWith, hexec] at hf
  exact Bool.false_ne_true ((hpost u.dev hu).symm.trans hf)

end Sys2Proof.Machine
end

