-- ==== Sys2Proof/Proofs/SentHeld.lean ====
section
/-! PROOF. What a step does with the queue, what reset leaves, and that what leaves over the reliable classes of the link is
held for a resend (R292). -/

namespace Sys2Proof.Machine

/-- Every command hands what it sends to the link (R292) and keeps the queue. -/
theorem exec_linkOut (c : Instr) (s : State) : ∃ d : Dev, exec c s = .next { s with dev := d.linkOut } := by
  cases c <;> exact ⟨_, rfl⟩

/-! ### The replay buffers -/

/-- R292: a message of that kind and destination lies in the replay buffer of the class on the port. -/
def Dev.Held (d : Dev) (p : Port) (cls kind dest : Nat) (e : Emit) : Prop :=
  ∃ o ∈ (d.getClass p cls).replay, o.emit = e ∧ o.kind = kind ∧ o.dest = dest

theorem Dev.getClass_classLink_same (d : Dev) (p : Port) (cls : Nat) (f : ClassLink → ClassLink) :
    (d.classLink p cls f).getClass p cls = f (d.getClass p cls) := by
  by_cases hcls : cls = 2 <;> simp [Dev.getClass, Dev.classLink, hcls]

/-- An update of a class leaves each link state as it was, or the one that it names. -/
theorem Dev.getClass_classLink (d : Dev) (p q : Port) (cls cls' : Nat) (f : ClassLink → ClassLink) :
    (d.classLink p cls f).getClass q cls' = d.getClass q cls' ∨
      d.getClass q cls' = d.getClass p cls ∧ (d.classLink p cls f).getClass q cls' = f (d.getClass p cls) := by
  by_cases hport : portIx q = portIx p
  · by_cases hcls : cls = 2 <;> by_cases hcls' : cls' = 2 <;> simp [Dev.getClass, Dev.classLink, hport, hcls, hcls']
  · left
    simp [Dev.getClass, Dev.classLink, hport]

/-- A message that leaves at once is held. -/
theorem ClassLink.push_sent {c : ClassLink} {now kind dest : Nat} {e : Emit} (h : (c.push now kind dest e).2 = true) :
    ∃ o ∈ (c.push now kind dest e).1.replay, o.emit = e ∧ o.kind = kind ∧ o.dest = dest := by
  rw [ClassLink.push] at h ⊢
  split at h
  case isTrue hroom => rw [if_pos hroom]; exact ⟨_, List.mem_append_right _ (List.mem_singleton_self _), rfl, rfl, rfl⟩
  case isFalse => exact absurd h Bool.false_ne_true

theorem ClassLink.mem_replay_push {c : ClassLink} {o : Outgoing} (now kind dest : Nat) (e : Emit) (h : o ∈ c.replay) :
    o ∈ (c.push now kind dest e).1.replay := by
  rw [ClassLink.push]
  split
  · exact List.mem_append_left _ h
  · exact h

/-- What the link does with a message of `pushOut`'s list. -/
def Dev.pushed (d : Dev) (p : Port) (cls kind dest : Nat) (e : Emit) : Dev :=
  d.classLink p cls fun _ => ((d.getClass p cls).push d.time.now kind dest e).1

theorem Dev.Held.pushed {d : Dev} {q : Port} {cls kind dest : Nat} {e : Emit} (h : d.Held q cls kind dest e)
    (p : Port) (cls' kind' dest' : Nat) (e' : Emit) : (d.pushed p cls' kind' dest' e').Held q cls kind dest e := by
  obtain ⟨o, ho, hmsg⟩ := h
  refine ⟨o, ?_, hmsg⟩
  rcases d.getClass_classLink p q cls' cls (fun _ => ((d.getClass p cls').push d.time.now kind' dest' e').1) with
    heq | ⟨hold, heq⟩ <;> rw [Dev.pushed, heq]
  · exact ho
  · exact ClassLink.mem_replay_push _ _ _ _ (hold ▸ ho)

/-- What is held stays held while further messages are handed to the link. -/
theorem Dev.Held.pushOut {q : Port} {cls kind dest : Nat} {e : Emit} : ∀ (l : List Emit) {d : Dev},
    d.Held q cls kind dest e → (pushOut l d).2.Held q cls kind dest e
  | [], _, h => h
  | e' :: r, d, h => by
    rw [Machine.pushOut]
    split
    · exact Dev.Held.pushOut r h
    · split
      · exact Dev.Held.pushOut r h
      · exact Dev.Held.pushOut r (h.pushed _ _ _ _ _)

theorem held_of_mem_pushOut {e : Emit} {cls kind dest : Nat} {p : Port} : ∀ (l : List Emit) (d : Dev),
    e ∈ (pushOut l d).1 → d.route e = some (cls, kind, dest) → d.portTo dest = some p →
      (pushOut l d).2.Held p cls kind dest e
  | [], d, he, _, _ => by cases he
  | e' :: r, d, he, hroute, hport => by
    rw [pushOut] at he ⊢
    cases hroute' : d.route e' with
    | none =>
      rw [hroute'] at he
      rcases List.mem_cons.mp he with rfl | hr
      · rw [hroute'] at hroute; cases hroute
      · exact held_of_mem_pushOut r d hr hroute hport
    | some x =>
      obtain ⟨cls', kind', dest'⟩ := x
      rw [hroute'] at he
      dsimp only at he ⊢
      cases hport' : d.portTo dest' with
      | none =>
        rw [hport'] at he
        rcases List.mem_cons.mp he with rfl | hr
        · rw [hroute'] at hroute; cases hroute; rw [hport'] at hport; cases hport
        · exact held_of_mem_pushOut r d hr hroute hport
      | some p' =>
        rw [hport'] at he
        dsimp only at he ⊢
        have later : e ∈ (pushOut r (d.pushed p' cls' kind' dest' e')).1 → _ := fun hr =>
          held_of_mem_pushOut r (d.pushed p' cls' kind' dest' e') hr hroute hport
        split at he
        case isFalse => exact later he
        case isTrue hleaves =>
          rcases List.mem_cons.mp he with rfl | hr
          · rw [hroute'] at hroute; cases hroute
            rw [hport'] at hport; cases hport
            refine Dev.Held.pushOut r ?_
            rw [Dev.Held, Dev.getClass_classLink_same]
            exact ClassLink.push_sent hleaves
          · exact later hr

/-- R292: what leaves a command over the reliable classes is held. -/
theorem sentHeld_linkOut (d : Dev) : SentHeld d.linkOut := by
  intro e he cls kind dest p hroute hport
  obtain ⟨k, hk⟩ := pushOut_frame d.out (countOut d.out d)
  have hroute' : (countOut d.out d).route e = some (cls, kind, dest) := by rw [← hroute, Dev.linkOut, hk]; rfl
  have hport' : (countOut d.out d).portTo dest = some p := by rw [← hport, Dev.linkOut, hk]; rfl
  exact held_of_mem_pushOut d.out (countOut d.out d) he hroute' hport'
end Sys2Proof.Machine

namespace Sys2Proof
open Machine

/-- Settles O1, by the definition of `step`. -/
theorem stepRunsFrontCommand : Obligations.StepRunsFrontCommand :=
  ⟨fun _ _ _ => rfl, fun _ => rfl⟩

/-- Settles O2, by `exec_linkOut`. -/
theorem everyCommandCompletes : Obligations.EveryCommandCompletes := by
  unfold Obligations.EveryCommandCompletes
  intro c s
  obtain ⟨d, hd⟩ := exec_linkOut c s
  exact ⟨_, hd, rfl⟩

/-- Settles O3, by evaluating the reset state; an empty store reads as the defaults. -/
theorem resetLeavesLogicHeld : Obligations.ResetLeavesLogicHeld := by
  unfold Obligations.ResetLeavesLogicHeld
  refine ⟨rfl, rfl, rfl, rfl, rfl, by decide, fun _ => rfl, ?_⟩
  decide

/-- Settles O4: reset sends nothing. -/
theorem sentHeldAtReset : Obligations.SentHeldAtReset := by
  unfold Obligations.SentHeldAtReset
  intro e he
  cases he

/-- Settles O5: a command ends by handing its messages to the link, which holds what it lets leave (`sentHeld_linkOut`). -/
theorem sentHeldKept : Obligations.SentHeldKept := by
  unfold Obligations.SentHeldKept
  intro s u hs hstep
  rw [step] at hstep
  split at hstep
  · injection hstep with hu
    rwa [← hu]
  case h_2 c rest _ =>
    obtain ⟨d, hd⟩ := exec_linkOut c { s with pending := rest }
    rw [hd] at hstep
    injection hstep with hu
    rw [← hu]
    exact sentHeld_linkOut d
end Sys2Proof
end

