-- ==== Sys2Proof/Proofs/Tether.lean ====
section
/-! PROOF. The tether, the tether permission and the power die's supplies (R22 to R34, R217, R228 to R230, R471, R473). -/

namespace Sys2Proof.Machine

/-! ### The permission -/

theorem permissionRefresh_holds : Rules.permissionRefresh.Holds := by
  refine Rule.holds_served _ (fun t _ => t) (fun _ _ => permissionRefreshEff)
    (by rintro t c s rfl -; rfl) (fun _ _ h => h.1) ?_
  rintro t s ⟨-, hstopped, hrevoked, hhalted⟩
  rw [permissionRefreshEff, if_pos (by simp [hstopped, hrevoked, hhalted])]
  exact ⟨rfl, Frame.of_blank rfl, ObjFrame.refl _ _, rfl, rfl⟩

theorem permissionLapse_holds : Rules.permissionLapse.Holds := by
  refine Rule.holds_served _ (fun t _ => t) (fun _ _ d => permissionLapseEff d .core1)
    (by rintro t c s rfl -; rfl) (fun _ _ h => h.1) ?_
  rintro t s ⟨-, hold⟩
  obtain ⟨a, ha, hle⟩ := exists_of_any hold
  have heff : permissionLapseEff (s.cleared t) .core1 = { s.cleared t with teth := { s.dev.teth with coreAt := none } } := by
    simp [permissionLapseEff, ha, hle]
  rw [heff]
  exact ⟨rfl, Frame.of_blank rfl, ObjFrame.refl _ _, rfl, rfl⟩

theorem permissionLapseSequencer_holds : Rules.permissionLapseSequencer.Holds := by
  refine Rule.holds_served _ (fun t _ => t) (fun _ _ d => permissionLapseEff d .sequencer)
    (by rintro t c s rfl -; rfl) (fun _ _ h => h.1) ?_
  rintro t s ⟨-, hold⟩
  obtain ⟨a, ha, hle⟩ := exists_of_any hold
  have heff : permissionLapseEff (s.cleared t) .sequencer = { s.cleared t with teth := { s.dev.teth with seqAt := none } } := by
    simp [permissionLapseEff, ha, hle]
  rw [heff]
  exact ⟨rfl, Frame.of_blank rfl, ObjFrame.refl _ _, rfl, rfl⟩

theorem supervisionCore0_holds : Rules.supervisionCore0.Holds := by
  refine Rule.holds_logic _ (fun t _ => t) (fun _ _ d => supervisionCheckEff d false true)
    (by rintro t c s rfl -; rfl) (fun _ _ h => h.1) ?_
  rintro t s ⟨-, hhalted0, hhalted1, hfailed, hstopped⟩
  have heff : supervisionCheckEff (s.cleared t) false true = 
    ({ s.cleared t with
      teth := { s.dev.teth with failed0 := 3, failed1 := 0, resetPending := true }
      power := { s.dev.power with stoppedAt := some (s.nowAt t) } } : Dev).fault 15 false 0 := by
    simp [supervisionCheckEff, hhalted0, hhalted1, hfailed, hstopped]
  rw [heff]
  exact ⟨rfl, Frame.of_blank rfl, ObjFrame.refl _ _, rfl, rfl⟩

theorem supervisionCore1_holds : Rules.supervisionCore1.Holds := by
  refine Rule.holds_logic _ (fun t _ => t) (fun _ _ d => supervisionCheckEff d true false)
    (by rintro t c s rfl -; rfl) (fun _ _ h => h.1) ?_
  rintro t s ⟨-, hhalted0, hhalted1, hfailed, hrevoked⟩
  have heff : supervisionCheckEff (s.cleared t) true false = 
    ({ s.cleared t with
      teth := { s.dev.teth with
        failed0 := 0, failed1 := 3, coreAt := none, revoked := true, lastRefresh := s.nowAt t, resetPending := true } } : Dev).fault 15 false 1 := by
    simp [supervisionCheckEff, hhalted0, hhalted1, hfailed, hrevoked]
  rw [heff]
  exact ⟨rfl, Frame.of_blank rfl, ObjFrame.refl _ _, rfl⟩

@[simp] theorem State.cleared_phaseEnd (s : State) (t : Nat) : (s.cleared t).phaseEnd = s.dev.phaseEnd := rfl

theorem refreshSequencer_eq {d : Dev} (hseq : d.seq.running = true) : d.refreshSequencer = { d with teth := { d.teth with
    seqAt := some (max (min d.time.now d.phaseEnd.toNat) (d.teth.seqAt.getD 0)) } } := by
  rw [Dev.refreshSequencer, if_pos hseq]

/-- R30: the sequencer's permission after a refresh at a phase that has not ended. -/
theorem refreshSequencer_of_phase {d : Dev} (hseq : d.seq.running = true) (hphase : (d.time.now : Int) ≤ d.phaseEnd)
    (hseqAt : (d.teth.seqAt.all fun a => decide (a ≤ d.time.now)) = true) :
    d.refreshSequencer = { d with teth := { d.teth with seqAt := some d.time.now } } := by
  have hnow : d.time.now ≤ d.phaseEnd.toNat := by omega
  have hold : d.teth.seqAt.getD 0 ≤ d.time.now := by
    cases hat : d.teth.seqAt with
    | none => exact Nat.zero_le _
    | some a => exact (of_all hseqAt hat :)
  rw [refreshSequencer_eq hseq, Nat.min_eq_left hnow, Nat.max_eq_left hold]

theorem tetherToken_holds : Rules.tetherToken.Holds := by
  refine Rule.holds_logic _ (fun t _ => t) (fun _ _ => tetherTokenEff)
    (by rintro t c s rfl -; rfl) (fun _ _ h => h.1) ?_
  rintro t s ⟨hrun, hseq, hcore, hphase, hseqAt⟩
  obtain ⟨a, ha, hfresh⟩ := exists_of_any hcore
  have hrefresh := refreshSequencer_of_phase (d := s.cleared t) hseq hphase hseqAt
  have heff : tetherTokenEff (s.cleared t) = ({ s.cleared t with teth := { s.dev.teth with
      seqAt := some (s.nowAt t), sent := s.dev.teth.sent + 1, count := (s.dev.teth.count + 1) % 16 } } : Dev).send
      (.token s.dev.teth.count (decide (10 ≤ s.dev.teth.sent + 1) && (s.cleared t).mayArm)) := by
    rw [tetherTokenEff, hrefresh]
    dsimp only
    rw [if_pos (by simp [Dev.permitted, hseq, ha, hfresh])]
    rfl
  have hmay : (s.cleared t).mayArm =
      !(s.dev.nvm.heldUnarmed || s.dev.nvm.decommissioned || s.dev.hlt.outOfService || s.dev.ch.conflict) := by
    simp [Dev.mayArm, show s.dev.power.run = .running from hrun]
  rw [heff, hmay]
  exact ⟨rfl, Frame.of_blank rfl, ObjFrame.refl _ _, rfl, rfl⟩

/-- R30: without both permissions nothing is sent; only the sequencer's permission may have moved. -/
theorem tetherTokenEff_withheld {d : Dev} (h : d.refreshSequencer.permitted = false) : 
    tetherTokenEff d = d.refreshSequencer := by
  rw [tetherTokenEff]
  simp [h]

theorem tetherTokenWithheld_holds : Rules.tetherTokenWithheld.Holds := by
  refine Rule.holds_logic _ (fun t _ => t) (fun _ _ => tetherTokenEff)
    (by rintro t c s rfl -; rfl) (fun _ _ h => h.1) ?_
  rintro t s ⟨hrun, hseq, hcore⟩
  have hold : (s.cleared t).refreshSequencer.permitted = false := by
    rw [refreshSequencer_eq (d := s.cleared t) hseq]
    cases hat : s.dev.teth.coreAt with
    | none => simp [Dev.permitted, hat]
    | some a =>
      have hle := of_all hcore hat
      simp [Dev.permitted, hat, show ¬ s.nowAt t < a + 1000000 by omega]
  rw [tetherTokenEff_withheld hold, refreshSequencer_eq (d := s.cleared t) hseq]
  exact ⟨rfl, Frame.of_blank rfl, ObjFrame.refl _ _, rfl, rfl, rfl⟩

theorem tetherTokenSequencerStopped_holds : Rules.tetherTokenSequencerStopped.Holds := by
  refine Rule.holds_logic _ (fun t _ => t) (fun _ _ => tetherTokenEff)
    (by rintro t c s rfl -; rfl) (fun _ _ h => h.1) ?_
  rintro t s ⟨hrun, hseq, hseqAt, hphase, hnow⟩
  have hlapsed : s.dev.teth.seqAt.getD 0 + 1000000 ≤ s.nowAt t := by
    cases hat : s.dev.teth.seqAt with
    | none => exact (Nat.zero_add _).trans_le hnow
    | some a => exact (of_all hseqAt hat :)
  have hold : (s.cleared t).refreshSequencer.permitted = false := by
    rw [refreshSequencer_eq (d := s.cleared t) hseq]
    have hstale : ¬ s.nowAt t < max (min (s.nowAt t) s.dev.phaseEnd.toNat) (s.dev.teth.seqAt.getD 0) + 1000000 := by omega
    simp [Dev.permitted, hstale]
  rw [tetherTokenEff_withheld hold, refreshSequencer_eq (d := s.cleared t) hseq]
  exact ⟨rfl, Frame.of_blank rfl, ObjFrame.refl _ _, rfl, rfl, rfl⟩

theorem tokenValid_holds : Rules.tokenValid.Holds := by
  refine Rule.holds_act _ (fun a _ => a.2.2) (fun a _ d => tokenReceivedEff d true a.1 a.2.1)
    (by rintro t c s rfl -; rfl) ?_
  rintro ⟨count, flag, t⟩ s ⟨hpow, hlatch, hfirst, href, harmed⟩
  have heff : tokenReceivedEff (s.cleared t) true count flag = { s.cleared t with pd := { s.dev.pd with
      clockLost := false, refCount := some (count % 16), lastValid := s.nowAt t, trail := 1, validRun := s.dev.pd.validRun + 1 } } := by
    simp [tokenReceivedEff, Dev.firstFrame, hpow, hlatch, hfirst, href, harmed]
  rw [heff]
  exact ⟨rfl, Frame.of_blank rfl, ObjFrame.refl _ _, rfl, rfl⟩


/-! ### The safe state -/

theorem Dev.bank_effect (d : Dev) (b : Fin 4) (f : Bank → Bank) : Only [.valve] d (d.bank b f) :=
  Effect.of_blank rfl rfl rfl

theorem Dev.boost_effect (d : Dev) (f : Boost → Boost) : Only [.valve] d (d.boost f) :=
  Effect.of_blank rfl rfl rfl

theorem Dev.startBoost_effect (d : Dev) : Only [.valve] d d.startBoost := by
  rw [Dev.startBoost]
  split
  · exact Dev.boost_effect _ _
  · exact Effect.refl _ _ _ d

theorem Dev.armValves_effect (d : Dev) : Only [.valve] d d.armValves := by
  rw [Dev.armValves]
  exact Effect.trans (Effect.foldl (fun _ _ => Dev.bank_effect _ _ _) _ d) (Dev.startBoost_effect _)

theorem Dev.startBoost_channels (d : Dev) : d.startBoost.valve.channels = d.valve.channels := by
  rw [Dev.startBoost]
  split <;> rfl

/-- R33: arming switches no channel. -/
theorem Dev.armValves_channels (d : Dev) : d.armValves.valve.channels = d.valve.channels := by
  rw [Dev.armValves, Dev.startBoost_channels]
  exact List.foldlRecOn (motive := fun x : Dev => x.valve.channels = d.valve.channels) _ _ rfl fun _ hx _ _ => hx

theorem Dev.armSwitches_effect (d : Dev) : Only [.lsw] d d.armSwitches :=
  Effect.of_blank rfl rfl rfl

theorem Dev.arming_effect (d : Dev) : Only [.pd, .valve, .lsw] d d.arm :=
  Effect.trans ((Dev.withPd_effect d _).mono (by simp))
    (Effect.trans ((Dev.armSwitches_effect _).mono (by simp)) ((Dev.armValves_effect _).mono (by simp)))

theorem Dev.arming_pd (d : Dev) : d.arm.pd = { d.pd with armed := true, trail := 1, opened := none } :=
  ((Dev.armValves_effect _).frame .pd (by simp)).symm

/-- R33, Table 9.5: every load switch is off, and commanded off, once the power die has armed. -/
theorem Dev.arming_switches (d : Dev) (n : Fin 8) : d.arm.lsw.switches[n].on = false ∧ d.arm.lsw.switches[n].cmd = false := by
  have hlsw : _ = d.arm.lsw := (Dev.armValves_effect _).frame .lsw (by simp)
  rw [← hlsw]
  simp [Dev.armSwitches, Switch.off]

theorem Dev.arming_limpHome (d : Dev) : d.arm.lsw.limpHome = false :=
  (congrArg LoadSwitches.limpHome ((Dev.armValves_effect _).frame .lsw (by simp))).symm

theorem tokenArms_holds : Rules.tokenArms.Holds := by
  refine Rule.holds_act _ (fun a _ => a.2) (fun a _ d => tokenReceivedEff d true a.1 true)
    (by rintro t c s rfl -; rfl) ?_
  rintro ⟨count, t⟩ s ⟨hpow, hlatch, hfirst, href, harmed, hrun, hset⟩
  have heff : tokenReceivedEff (s.cleared t) true count true = Dev.arm { s.cleared t with pd := { s.dev.pd with
      clockLost := false, refCount := some (count % 16), lastValid := s.nowAt t, trail := 1, validRun := s.dev.pd.validRun + 1 } } := by
    simp [tokenReceivedEff, Dev.firstFrame, hpow, hlatch, hfirst, href, harmed, hrun, hset]
  rw [heff]
  refine Only.rule (Effect.trans ((Dev.withPd_effect _ _).mono (by decide)) (Dev.arming_effect _)) ?_
  exact ⟨by rw [Dev.arming_pd], by rw [Dev.arming_pd], by rw [Dev.arming_pd], Dev.armValves_channels _, Dev.arming_switches _,
    Dev.arming_limpHome _, by rw [Dev.arming_pd]⟩

/-! ### Limp-home -/

theorem Dev.switch_effect (d : Dev) (n : Fin 8) (f : Switch → Switch) : Only [.lsw] d (d.switch n f) :=
  Effect.of_blank rfl rfl rfl

theorem Dev.limpSwitch_effect (d : Dev) (n : Fin 8) : Only [.lsw] d (d.limpSwitch n) :=
  Dev.switch_effect d n _

/-- What tells the logic die something does it, or nothing. -/
theorem Dev.told_effect {ps : List Part} {objs : Nat → Bool} {sent : Emit → Prop} {d : Dev} {f : Dev → Dev}
    (h : Effect ps objs sent d (f d)) : Effect ps objs sent d (d.told f) := by
  rw [Dev.told]
  split
  · exact h
  · exact Effect.refl _ _ _ d

/-- R233, R234: the parts that settling limp-home may change: the switches, and by its event the recorder and the buses. -/
theorem Dev.settleLimp_effect (d : Dev) : Effect (.lsw :: eventParts) eventObjs isEmcy d d.settleLimp := by
  rw [Dev.settleLimp]
  split
  · exact Effect.refl _ _ _ d
  · split
    · refine Effect.trans ?_ (Effect.foldl (fun d n => (Dev.limpSwitch_effect d n).mono (by decide)) _ _)
      split
      · exact Effect.refl _ _ _ d
      · exact Effect.trans ((Dev.withLsw_effect d _).mono (by decide))
          (Dev.told_effect ((Dev.raise_effect _ _ _ _ _).mono (by decide) (fun _ h => h) fun _ h => h))
    · exact (Dev.withLsw_effect d _).mono (by decide)

/-- R233: a switch under limp-home control that nothing keeps off follows its input; one that is not mapped is off. -/
def Dev.limpNext (d : Dev) (n : Fin 8) (c : Switch) : Switch :=
  let want := d.mapped n && d.limpInput n
  let c := { c with limp := c.limp || d.mapped n, cmd := false, attempt := false, pulseEnd := none }
  let c := if c.latched && !want then { c with rearmed := true }
    else if c.latched && c.rearmed then { c with latched := false, rearmed := false, trips := 0, backOff := none }
    else c
  if want && c.ready then (if c.on then c else { c with on := true, onSince := d.time.now }) else c.off d.time.now

theorem Dev.limpNext_ready {d : Dev} {n : Fin 8} {c : Switch} (hlatched : c.latched = false) (hback : c.backOff = none)
    (hhot : c.hot = false) : (d.limpNext n c).on = (d.mapped n && d.limpInput n) := by
  cases hwant : d.mapped n && d.limpInput n
  · simp [Dev.limpNext, hwant, hlatched, Switch.off]
  · cases hon : c.on <;> simp [Dev.limpNext, hwant, hlatched, Switch.ready, hback, hhot, hon]

theorem Dev.limpNext_unmapped {d : Dev} {n : Fin 8} {c : Switch} (hmap : d.mapped n = false) :
    (d.limpNext n c).on = false := by
  simp [Dev.limpNext, hmap, Switch.off]

/-- R233: every switch takes its limp-home state. -/
theorem Dev.foldl_limpSwitch (d : Dev) (n : Fin 8) :
    ((List.finRange 8).foldl Dev.limpSwitch d).lsw.switches[(n : Nat)] = d.limpNext n d.lsw.switches[(n : Nat)] := by
  have h := foldl_updateAt (get := fun x => x.lsw.switches) (step := Dev.limpSwitch) (f := d.limpNext)
    (P := fun x => x.lsw.mapping = d.lsw.mapping ∧ x.lsw.inputs = d.lsw.inputs ∧ x.time = d.time)
    (fun x k hx => by
      obtain ⟨hmap, hin, htime⟩ := hx
      refine ⟨?_, hmap, hin, htime⟩
      have hnext : d.limpNext k = x.limpNext k := by
        funext c
        simp [Dev.limpNext, Dev.mapped, Dev.limpInput, hmap, hin, htime]
      rw [hnext]
      rfl) n (List.finRange 8) d (List.nodup_finRange 8) ⟨rfl, rfl, rfl⟩
  simpa using h

theorem Dev.settleLimp_off {d : Dev} (harmed : d.pd.armed = false) (h : d.limpApplies = false) :
    d.settleLimp = { d with lsw := { d.lsw with
      limpHome := false
      switches := d.lsw.switches.map fun c => { (c.off d.time.now) with cmd := false, attempt := false } } } := by
  rw [Dev.settleLimp, if_neg (by simp [harmed]), if_neg (by simp [h])]

theorem Dev.settleLimp_limpHome {d : Dev} (harmed : d.pd.armed = false) (h : d.limpApplies = true)
    (hhome : d.lsw.limpHome = true) : d.settleLimp = (List.finRange 8).foldl Dev.limpSwitch d := by
  rw [Dev.settleLimp, if_neg (by simp [harmed]), if_pos h, if_pos hhome]

/-! ### The safe state -/

/-- R32: the device in its safe state, before limp-home is settled. -/
def Dev.safeBase (d : Dev) : Dev :=
  { d.safeValves.safePairs with
    pd := { d.pd with armed := false, validRun := 0, commands := [], opened := none }
    lsw := { d.lsw with
      switches := d.lsw.switches.map fun (c : Switch) => { (c.off d.time.now) with cmd := false, attempt := false } } }

theorem Dev.safeOutputs_eq (d : Dev) : d.safeOutputs = d.safeBase.settleLimp := rfl

theorem Dev.safeBase_effect (d : Dev) : Only [.pd, .valve, .pwm, .lsw] d d.safeBase :=
  Effect.of_blank rfl rfl rfl

/-- R32: no channel conducts, no output of a pair is high, no common is powered. -/
theorem Dev.safeBase_outputsSafe (d : Dev) : d.safeBase.outputsSafe = true := by
  simp only [Dev.outputsSafe, Bool.and_eq_true, List.all_eq_true, Dev.safeBase, Dev.safePairs, Dev.safeValves, Dev.eachPair,
    Vector.toList_map, List.mem_map]
  refine ⟨⟨?_, ?_⟩, ?_⟩
  · rintro c ⟨x, -, rfl⟩
    by_cases hx : x.mode = .retired <;> simp [hx]
  · rintro c ⟨x, -, rfl⟩
    exact ⟨rfl, rfl⟩
  · rintro k ⟨x, -, rfl⟩
    rfl

theorem Dev.safeBase_boost (d : Dev) : d.safeBase.valve.boost.state = 0 ∨ d.safeBase.valve.boost.state = 5 := by
  by_cases h : d.valve.boost.state = 5
  · exact .inr (if_pos h)
  · exact .inl (if_neg h)

theorem outputsSafe_congr {a b : Dev} (hvalve : a.valve = b.valve) (hpwm : a.pwm = b.pwm) : b.outputsSafe = a.outputsSafe := by
  rw [Dev.outputsSafe, Dev.outputsSafe, hvalve, hpwm]

/-- R32: every output is safe whatever limp-home does. -/
theorem Dev.safeOutputs_outputsSafe (d : Dev) : d.safeOutputs.outputsSafe = true := by
  have hframe := (Dev.settleLimp_effect d.safeBase).frame
  rw [Dev.safeOutputs_eq, outputsSafe_congr (hframe .valve (by decide)) (hframe .pwm (by decide)), Dev.safeBase_outputsSafe]

/-- R32: without limp-home control the safe state touches the power die alone, and every switch is off. -/
theorem Dev.safeOutputs_effect {d : Dev} (h : d.safeBase.limpApplies = false) :
    Only [.pd, .valve, .pwm, .lsw] d d.safeOutputs := by
  rw [Dev.safeOutputs_eq, Dev.settleLimp_off rfl h]
  exact Effect.trans d.safeBase_effect ((Dev.withLsw_effect _ _).mono (by decide))

theorem Dev.safeOutputs_off {d : Dev} (h : d.safeBase.limpApplies = false) (n : Fin 8) :
    d.safeOutputs.lsw.switches[n].on = false := by
  rw [Dev.safeOutputs_eq, Dev.settleLimp_off rfl h]
  simp [Switch.off]

theorem limpApplies_of_disabled {d : Dev} (h : d.lsw.enable = false) : d.safeBase.limpApplies = false := by
  simp [Dev.limpApplies, Dev.safeBase, h]

theorem limpApplies_of_unpowered {d : Dev} (h : d.pd.powered = false) : d.safeBase.limpApplies = false := by
  simp [Dev.limpApplies, Dev.switchesAct, Dev.safeBase, h]

theorem Dev.safeOutputs_pd {d : Dev} : d.safeOutputs.pd = { d.pd with armed := false, validRun := 0, commands := [], opened := none } :=
  ((Dev.settleLimp_effect d.safeBase).frame .pd (by decide)).symm

theorem Dev.safeOutputs_valve {d : Dev} : d.safeOutputs.valve = d.safeBase.valve :=
  ((Dev.settleLimp_effect d.safeBase).frame .valve (by decide)).symm

theorem tetherSilence_holds : Rules.tetherSilence.Holds := by
  refine Rule.holds_act _ (fun t _ => t) (fun _ _ => tetherSilenceEff) (by rintro t c s rfl -; rfl) ?_
  rintro t s ⟨hpow, harmed, hlast, henable⟩
  rw [tetherSilenceEff, if_pos (by simp [hpow, harmed, hlast])]
  have hoff : ∀ x : PowerDie, (Dev.safeBase { s.cleared t with pd := x }).limpApplies = false := fun x =>
    limpApplies_of_disabled henable
  refine Only.rule (Effect.trans ((Dev.withPd_effect _ _).mono (by decide)) (Dev.safeOutputs_effect (hoff _))) ?_
  refine ⟨Dev.safeOutputs_outputsSafe _, Dev.safeOutputs_off (hoff _), ?_⟩
  rw [Dev.safeOutputs_pd, Dev.safeOutputs_valve]
  exact ⟨rfl, rfl, rfl, rfl, rfl, Dev.safeBase_boost _, ((Dev.safeOutputs_effect (hoff _)).frame .inp (by decide)).symm⟩

theorem tetherSilenceLimpHome_holds : Rules.tetherSilenceLimpHome.Holds := by
  refine Rule.holds_act _ (fun t _ => t) (fun _ _ => tetherSilenceEff) (by rintro t c s rfl -; rfl) ?_
  rintro t s ⟨-, hpow, harmed, hlast, henable, hstore, hhome, hrev, hpgnd, hlatched⟩
  obtain ⟨d, hd⟩ : ∃ d : Dev, d = { s.cleared t with pd := { s.dev.pd with
    entries := u32 (s.dev.pd.entries + 1), cause := s.dev.pd.trail, unread := true } } := ⟨_, rfl⟩
  have heff : tetherSilenceEff (s.cleared t) = d.safeOutputs := by
    rw [tetherSilenceEff, if_pos (by simp [hpow, harmed, hlast]), hd]
    rfl
  have happly : d.safeBase.limpApplies = true := by
    simp [hd, Dev.limpApplies, Dev.switchesAct, Dev.safeBase, hpow, henable, hstore, hrev, hpgnd, hlatched]
  have hsafe : d.safeOutputs = (List.finRange 8).foldl Dev.limpSwitch d.safeBase :=
    Dev.settleLimp_limpHome rfl happly (by rw [hd]; exact hhome)
  have hswitch : ∀ n : Fin 8, d.safeOutputs.lsw.switches[(n : Nat)] = d.safeBase.limpNext n d.safeBase.lsw.switches[(n : Nat)] := by
    rw [hsafe]
    exact Dev.foldl_limpSwitch _
  have hsame : ∀ n : Fin 8, d.safeBase.lsw.switches[(n : Nat)] = { ((Rules.swch s.dev n).off (s.nowAt t)) with
      cmd := false, attempt := false } := fun n => by
    rw [hd]
    simp [Dev.safeBase]
  have heffect : Only [.pd, .valve, .pwm, .lsw] (s.cleared t) d.safeOutputs := by
    rw [hsafe]
    refine Effect.trans ?_ (Effect.foldl (fun d n => (Dev.limpSwitch_effect d n).mono (by decide)) _ _)
    rw [hd]
    exact Effect.trans ((Dev.withPd_effect _ _).mono (by decide)) (Dev.safeBase_effect _)
  rw [heff]
  refine Only.rule heffect ⟨d.safeOutputs_outputsSafe, by rw [Dev.safeOutputs_pd], fun n => ⟨fun hlatch hback hhot => ?_, fun hmap => ?_⟩⟩
  · have hmapped : d.safeBase.mapped n = s.dev.mapped n := by rw [hd]; rfl
    have hinput : d.safeBase.limpInput n = s.dev.limpInput n := by rw [hd]; rfl
    simp only [Rules.swch, Fin.getElem_fin] at hlatch hback hhot ⊢
    rw [hswitch, hsame, ← hmapped, ← hinput]
    exact Dev.limpNext_ready hlatch hback hhot
  · have hmapped : d.safeBase.mapped n = false := by rw [← hmap, hd]; rfl
    simp only [Rules.swch, Fin.getElem_fin]
    rw [hswitch, Dev.limpNext_unmapped hmapped]

theorem tokenBadCrc_holds : Rules.tokenBadCrc.Holds := by
  refine Rule.holds_act _ (fun a _ => a.2.2) (fun a _ d => tokenReceivedEff d false a.1 a.2.1)
    (by rintro t c s rfl -; rfl) ?_
  rintro ⟨count, flag, t⟩ s hpow
  have heff : tokenReceivedEff (s.cleared t) false count flag = { s.cleared t with pd := { s.dev.pd with
      trail := 2, validRun := 0 } } := by
    simp [tokenReceivedEff, show s.dev.pd.powered = true from hpow]
  rw [heff]
  exact ⟨rfl, Frame.of_blank rfl, ObjFrame.refl _ _, rfl, rfl⟩

theorem tokenResynchronises_holds : Rules.tokenResynchronises.Holds := by
  refine Rule.holds_act _ (fun a _ => a.2.2) (fun a _ d => tokenReceivedEff d true a.1 a.2.1)
    (by rintro t c s rfl -; rfl) ?_
  rintro ⟨count, flag, t⟩ s ⟨hpow, hlatch, hfirst, href⟩
  have heff : tokenReceivedEff (s.cleared t) true count flag = { s.cleared t with pd := { s.dev.pd with
      clockLost := false, refCount := some (count % 16), trail := 3, validRun := 0 } } := by
    simp [tokenReceivedEff, Dev.firstFrame, hpow, hlatch, hfirst, href]
  rw [heff]
  exact ⟨rfl, Frame.of_blank rfl, ObjFrame.refl _ _, rfl, rfl⟩


/-! ### The supplies -/

theorem powerLinkCommand_holds : Rules.powerLinkCommand.Holds := by
  refine Rule.holds_act _ (fun a _ => a.2) (fun a _ d => linkCommandEff d true a.1) (by rintro t c s rfl -; rfl) ?_
  rintro ⟨f, t⟩ s ⟨hpow, hrev, hclock, hfirst, htick⟩
  have heff : linkCommandEff (s.cleared t) true f =
      { s.cleared t with pd := { s.dev.pd with commands := s.dev.pd.commands ++ [f] } } := by
    have hahead : ¬ f.instant < (s.chainAt t : Int) := by simpa using htick
    simp [linkCommandEff, Dev.firstFrame, hpow, hrev, hclock, hfirst, hahead]
  rw [heff]
  exact Only.rule (Dev.withPd_effect _ _) ⟨rfl, rfl⟩

theorem powerLinkCommandBad_holds : Rules.powerLinkCommandBad.Holds := by
  refine Rule.holds_act _ (fun a _ => a.2) (fun a _ d => linkCommandEff d false a.1) (by rintro t c s rfl -; rfl) ?_
  rintro ⟨f, t⟩ s ⟨hpow, hrev, hclock⟩
  have heff : linkCommandEff (s.cleared t) false f = (s.cleared t).send (.negativeAck f.id) := by
    simp [linkCommandEff, hpow, hrev, hclock]
  rw [heff]
  exact ⟨rfl, Frame.of_blank rfl, ObjFrame.refl _ _, rfl⟩

theorem Dev.powerUp_base (d : Dev) (v1 v2 : Nat) : ∃ x l, d.powerUp v1 v2 = Dev.safeOutputs { d with pd := x, lsw := l } ∧
    l.enable = d.lsw.enable ∧ x.v1 = v1 ∧ x.v2 = v2 ∧ x.powered = true ∧ x.settings = false ∧ x.refCount = none :=
  ⟨_, _, rfl, rfl, rfl, rfl, rfl, rfl, rfl⟩

theorem vbatApplied_holds : Rules.vbatApplied.Holds := by
  refine Rule.holds_act _ (fun a _ => a.2.2) (fun a _ d => vbatAppliedEff d a.1 a.2.1) (by rintro t c s rfl -; rfl) ?_
  rintro ⟨v1, v2, t⟩ s ⟨hvolts, hpow, henable⟩
  have hmax : ¬ max v1 v2 < 4500 := Nat.not_lt.mpr hvolts
  rw [vbatAppliedEff, if_neg hmax, if_neg (by simp [hpow])]
  obtain ⟨x, l, hup, hl, hv1, hv2, hx, hset, href⟩ := (s.cleared t).powerUp_base v1 v2
  rw [hup]
  have hoff : (Dev.safeBase { s.cleared t with pd := x, lsw := l }).limpApplies = false :=
    limpApplies_of_disabled (hl.trans henable)
  refine Only.rule (t := t) (Effect.trans ?_ (Dev.safeOutputs_effect hoff)) ?_
  · exact Effect.of_blank rfl rfl rfl
  refine ⟨?_, ?_, ?_, ?_, ?_, ?_, ?_, ?_, Dev.safeOutputs_outputsSafe _, Dev.safeOutputs_off hoff⟩ <;>
    rw [Dev.safeOutputs_pd] <;> assumption

theorem powerDieAbsent_holds : Rules.powerDieAbsent.Holds := by
  refine Rule.holds_logic _ (fun t _ => t) (fun _ _ => powerDieAbsentEff) (by rintro t c s rfl -; rfl) (fun _ _ h => h.1) ?_
  rintro t s ⟨-, hpow⟩
  rw [powerDieAbsentEff, if_neg (by simp [hpow])]
  exact Only.rule (Dev.withPd_effect _ _) ⟨rfl, rfl⟩

/-- R217: the power die's logic goes down into the safe state. -/
theorem Dev.powerLost_effect (d : Dev) (v1 v2 : Nat) : Only [.pd, .valve, .pwm, .lsw] d (d.powerLost v1 v2) := 
  Effect.trans (Effect.trans ((Dev.withPd_effect _ _).mono (by decide)) (Dev.safeOutputs_effect (limpApplies_of_unpowered rfl)))
    ((Dev.withPd_effect _ _).mono (by decide))

theorem Dev.powerLost_outputsSafe (d : Dev) (v1 v2 : Nat) : (d.powerLost v1 v2).outputsSafe = true :=
  (outputsSafe_congr rfl rfl).trans
    (Dev.safeOutputs_outputsSafe { d with pd := { d.pd with v1 := v1, v2 := v2, powered := false } })

theorem Dev.powerLost_off (d : Dev) (v1 v2 : Nat) (n : Fin 8) : (d.powerLost v1 v2).lsw.switches[n].on = false :=
  Dev.safeOutputs_off (d := { d with pd := { d.pd with v1 := v1, v2 := v2, powered := false } }) (limpApplies_of_unpowered rfl) n

theorem powerDieReset_holds : Rules.powerDieReset.Holds := by
  refine Rule.holds_act _ (fun a _ => a.2.2)
    (fun a _ d => if max a.1 a.2.1 < 4500 then d.powerLost a.1 a.2.1 else d) (by rintro t c s rfl -; rfl) ?_
  rintro ⟨v1, v2, t⟩ s ⟨hv1, hv2⟩
  rw [if_pos (Nat.max_lt.mpr ⟨hv1, hv2⟩)]
  exact Only.rule (Dev.powerLost_effect _ _ _) ⟨rfl, rfl, rfl, rfl, Dev.powerLost_outputsSafe _ _ _, Dev.powerLost_off _ _ _⟩

/-- Table 8.15: bits 4 and 5 of the drive status word, above what the banks report. -/
theorem Dev.driveStatus_undervoltage (d : Dev) : d.driveStatus.testBit 4 = decide (d.pd.v1 < 6000) ∧
    d.driveStatus.testBit 5 = decide (d.pd.v2 < 6000) := by
  have hbanks : ∀ b : Fin 4 → Bool, (List.finRange 4).foldl (fun n k => n + if b k then 2 ^ k.val else 0) 0 < 16 := by decide
  obtain ⟨n, hn, hlow⟩ : ∃ n < 16, (List.finRange 4).foldl (fun n (k : Fin 4) =>
    n + if d.valve.banks[k].degraded then 2 ^ k.val else 0) 0 = n := ⟨_, hbanks fun k => d.valve.banks[k].degraded, rfl⟩
  rw [Dev.driveStatus, hlow]
  clear hlow hbanks
  by_cases h1 : d.pd.v1 < 6000 <;> by_cases h2 : d.pd.v2 < 6000 <;> by_cases h3 : d.valve.boost.state = 5 <;>
    cases h4 : d.hlt.enforcing <;> simp only [h1, h2, h3, if_true, if_false] <;> revert n <;> decide

theorem vbatUndervoltage_holds : Rules.vbatUndervoltage.Holds := by
  refine Rule.holds_act _ (fun a _ => a.2.2) (fun a _ d => vbatUndervoltageEff d a.1 a.2.1) (by rintro t c s rfl -; rfl) ?_
  rintro ⟨v1, v2, t⟩ s hvolts
  have hmax : ¬ max v1 v2 < 4500 := Nat.not_lt.mpr hvolts
  rw [vbatUndervoltageEff, if_neg hmax]
  exact Only.rule (Dev.withPd_effect _ _) ⟨rfl, rfl, Dev.driveStatus_undervoltage _⟩

theorem vbatReverse_holds : Rules.vbatReverse.Holds := by
  refine Rule.holds_act _ (fun t _ => t) (fun _ _ => vbatReverseEff) (by rintro t c s rfl -; rfl) ?_
  rintro t s -
  have hreverse : Only [.pd, .valve, .pwm, .lsw] ((s.cleared t).powerLost 0 0) (vbatReverseEff (s.cleared t)) := by
    rw [vbatReverseEff]
    exact Effect.of_blank rfl rfl rfl
  refine Only.rule (Effect.trans (Dev.powerLost_effect _ 0 0) hreverse) ?_
  refine ⟨rfl, rfl, (outputsSafe_congr rfl rfl).trans (Dev.powerLost_outputsSafe (s.cleared t) 0 0), rfl, fun n => ?_⟩
  simp [vbatReverseEff]

theorem loadDump_holds : Rules.loadDump.Holds := by
  refine Rule.holds_act _ (fun a _ => a.2.2) (fun a _ d => loadDumpEff d a.1 a.2.1) (by rintro t c s rfl -; rfl) ?_
  rintro ⟨v1, v2, t⟩ s ⟨hpow, hvolts⟩
  have heff : loadDumpEff (s.cleared t) v1 v2 = { s.cleared t with pd := { s.dev.pd with v1 := v1, v2 := v2, loadDump := true } } := by
    simp [loadDumpEff, show s.dev.pd.powered = true from hpow, show 40000 < max v1 v2 from hvolts]
  rw [heff]
  exact Only.rule (Dev.withPd_effect _ _) ⟨rfl, rfl, fun n => by simp [Dev.switchTestable]⟩

theorem pgndOpen_holds : Rules.pgndOpen.Holds := by
  refine Rule.holds_act _ (fun t _ => t) (fun _ _ => pgndOpenEff) (by rintro t c s rfl -; rfl) ?_
  rintro t s hpow
  rw [pgndOpenEff, if_pos (show (s.cleared t).pd.powered = true from hpow)]
  refine Only.rule (Effect.of_blank rfl rfl rfl) ⟨rfl, rfl, ?_, rfl, fun n => ?_⟩
  · simp [Dev.limpApplies, Dev.switchesAct]
  · simp [Switch.off]

end Sys2Proof.Machine

namespace Sys2Proof

/-- Settles O11, by a lemma for each rule. -/
theorem tokensArm : Obligations.TokensArm :=
  ⟨Machine.tetherToken_holds, Machine.tetherTokenWithheld_holds, Machine.tetherTokenSequencerStopped_holds,
    Machine.tokenValid_holds, Machine.tokenArms_holds, Machine.tokenBadCrc_holds, Machine.tokenResynchronises_holds,
    Machine.tetherSilence_holds, Machine.tetherSilenceLimpHome_holds⟩

/-- Settles O12, by a lemma for each rule. -/
theorem permissionIsRefreshed : Obligations.PermissionIsRefreshed :=
  ⟨Machine.permissionRefresh_holds, Machine.permissionLapse_holds, Machine.permissionLapseSequencer_holds,
    Machine.supervisionCore0_holds, Machine.supervisionCore1_holds⟩

/-- Settles O13, by a lemma for each rule. -/
theorem powerDieFollowsSupply : Obligations.PowerDieFollowsSupply :=
  ⟨Machine.powerLinkCommand_holds, Machine.powerLinkCommandBad_holds, Machine.vbatApplied_holds,
    Machine.powerDieAbsent_holds, Machine.powerDieReset_holds, Machine.vbatUndervoltage_holds,
    Machine.vbatReverse_holds, Machine.loadDump_holds, Machine.pgndOpen_holds⟩

end Sys2Proof
end

