-- ==== Sys2Proof/Proofs/ChainTime.lean ====
section
/-! PROOF. Chain time: seeding, holdover, re-lock, solutions, PPS and the RTC (R36 to R40, R56, R57, R316, R490). -/

namespace Sys2Proof.Machine

/-- R354: no table is released that is not held. -/
theorem Dev.releaseTable_unheld {d : Dev} (h : d.ch.tableHeld = false) : d.releaseTable = d := by
  rw [Dev.releaseTable, if_neg (by simp [h])]

/-- R35: chain time is the device's time moved by the offset. -/
theorem Dev.chain_seed (d : Dev) (v : Nat) (source state : Nat) : (d.seed v source state).chain = v := by
  simp only [Dev.chain, Dev.seed]
  omega

theorem Dev.seed_effect (d : Dev) (v : Int) (source state : Nat) : Only [.time] d (d.seed v source state) :=
  d.withTime_effect _

theorem chainTimeSeedEff_eq {d : Dev} (hlead : d.isLead = true) (harmed : d.power.armedOnce = false)
    (hseq : d.seq.running = false) (hheld : d.ch.tableHeld = false) (gnss : Option Int) :
    (chainTimeSeedEff d gnss).releaseTable = d.seedFrom gnss := by
  rw [chainTimeSeedEff, if_pos (by simp [hlead, harmed, hseq]), Dev.releaseTable_unheld]
  cases gnss with
  | some v => exact hheld
  | none =>
    dsimp only [Dev.seedFrom]
    split <;> exact hheld

theorem chainTimeSeed_holds : Rules.chainTimeSeed.Holds := by
  refine Rule.holds_logic _ (fun a _ => a.2)
    (fun a _ d => if d.gnss.waits && (some (a.1 : Int)).isNone then d else (chainTimeSeedEff d (some (a.1 : Int))).releaseTable)
    (by rintro t c s rfl -; rfl) (fun _ _ h => h.1) ?_
  rintro ⟨v, t⟩ s ⟨-, hlead, harmed, hseq, hheld⟩
  rw [if_neg (by simp), chainTimeSeedEff_eq (d := s.cleared t) hlead harmed hseq hheld]
  exact Only.rule (Dev.seed_effect _ _ _ _) ⟨rfl, Dev.chain_seed _ _ _ _, rfl, rfl, rfl, rfl, rfl⟩

theorem chainTimeSeedRtc_holds : Rules.chainTimeSeedRtc.Holds := by
  refine Rule.holds_logic _ (fun t _ => t)
    (fun _ _ d => if d.gnss.waits && (none : Option Int).isNone then d else (chainTimeSeedEff d none).releaseTable)
    (by rintro t c s rfl -; rfl) (fun _ _ h => h.1) ?_
  rintro t s ⟨-, hlead, harmed, hseq, hheld, hwaits, hvalid⟩
  have hseed : (s.cleared t).seedFrom none = (s.cleared t).seed (s.cleared t).rtcNow 2 1 := by
    rw [Dev.seedFrom]
    exact if_pos hvalid
  rw [if_neg (by simp [hwaits]), chainTimeSeedEff_eq (d := s.cleared t) hlead harmed hseq hheld, hseed]
  refine Only.rule (Dev.seed_effect _ _ _ _) ⟨rfl, ?_, rfl, rfl, rfl, rfl⟩
  simp only [Dev.seed, Dev.rtcNow, State.cleared_now, State.cleared_rtc]
  omega

theorem holdoverEntry_holds : Rules.holdoverEntry.Holds := by
  refine Rule.holds_logic _ (fun t _ => t) (fun _ _ => holdoverEntryEff) (by rintro t c s rfl -; rfl) (fun _ _ h => h.1) ?_
  rintro t s ⟨-, hlead, hstate⟩
  rw [holdoverEntryEff, if_pos (by simp [show (s.cleared t).isLead = false from hlead, hstate])]
  exact Effect.rule (((Effect.refl _ _ (fun _ => False) _).only (Dev.withTime_effect _ _) (by decide)).put rfl _) (fun _ h => h.elim)
    ⟨rfl, Dev.int_put_same _ _ _, rfl⟩

theorem holdoverLimit_holds : Rules.holdoverLimit.Holds := by
  refine Rule.holds_unrouted_logic _ (fun t _ => t) (fun _ _ => holdoverLimitEff) (by rintro t c s rfl -; rfl)
    (fun _ _ h => h.1) (by simp +contextual [busObjs, eventObjs, among]) ?_
  rintro t s ⟨-, hstate, hrelocked⟩
  rw [holdoverLimitEff, if_pos (by simp [hstate, hrelocked])]
  refine Effect.unrouted_rule (sent := isEmcy) (Effect.raise (((Effect.refl _ _ _ _).only (Dev.withTime_effect _ _) (by decide)).put (by rfl) _)
    (by decide) (by simp +contextual) (fun _ h => h) _ _ _ _) (fun _ h => Dev.route_none_of_isEmcy _ h) ?_
  intro o ho
  refine ⟨by simp; rfl, ?_⟩
  rw [ho.int (by decide), (Dev.raise_effect _ _ _ _ _).int (by decide), Dev.int_put_same]
  simp only [Dev.nat, State.cleared_int]
  omega

theorem reportSlotStop_holds : Rules.reportSlotStop.Holds := by
  refine Rule.holds_logic _ (fun t _ => t) (fun _ _ => reportSlotStopEff) (by rintro t c s rfl -; rfl) (fun _ _ h => h.1) ?_
  rintro t s ⟨-, hstate, hrelocked⟩
  rw [reportSlotStopEff, if_pos (by simp [hstate, hrelocked])]
  refine Effect.rule (((Effect.refl _ _ (fun _ => False) _).only (Dev.withTime_effect _ _) (by decide)).put rfl _)
    (fun _ h => h.elim) ⟨rfl, rfl, ?_⟩
  rw [Dev.int_put_same]
  omega

/-- R40: what re-lock does before its error is taken. -/
def Dev.relock (d : Dev) (err : Int) : Dev :=
  { d with
    time := { d.time with state := 4, relocked := true }
    link := { d.link with filtered := 0, steady := 0, rest := 0 }
    seq := { d.seq with synced := false } }.put 0x180203 err.natAbs

theorem Dev.relock_effect (d : Dev) (err : Int) :
    Effect [.time, .seq, .link] (among [0x180203]) (fun _ => False) d (d.relock err)  := by
  unfold Dev.relock
  refine Effect.put ?_ rfl _
  exact Effect.of_blank rfl rfl rfl

theorem reLock_holds : Rules.reLock.Holds := by
  refine Rule.holds_logic _ (fun a _ => a.2) (fun a _ d => reLockEff d a.1) (by rintro t c s rfl -; rfl) (fun _ _ h => h.1) ?_
  rintro ⟨err, t⟩ s ⟨-, hstate, hrelocked, hsmall, hne⟩
  have heff : reLockEff (s.cleared t) err = { (s.cleared t).relock err with time := { s.dev.time with
      now := s.nowAt t, relocked := true, slewLeft := err, slewing := true, lostEnds := true } } := by
    simp [reLockEff, hstate, hrelocked, show err.natAbs ≤ 1000 from hsmall, show err ≠ 0 from hne, Dev.relock, Dev.put, Dev.putVal]
  rw [heff]
  exact Effect.rule (((s.cleared t).relock_effect err).only (Dev.withTime_effect _ _) (by decide)) (fun _ h => h.elim)
    ⟨rfl, rfl, rfl, Dev.int_put_same _ _ _⟩

theorem reLockStep_holds : Rules.reLockStep.Holds := by
  refine Rule.holds_unrouted_logic _ (fun a _ => a.2) (fun a _ d => reLockEff d a.1) (by rintro t c s rfl -; rfl)
    (fun _ _ h => h.1) (by simp +contextual [busObjs, eventObjs, among]) ?_
  rintro ⟨err, t⟩ s ⟨-, hstate, hrelocked, hlarge⟩
  have heff : reLockEff (s.cleared t) err = ({ (s.cleared t).relock err with time := { s.dev.time with
      now := s.nowAt t, state := 4, relocked := true, stepPending := some err } } : Dev).raise 0x0106 0 0xFFFF [(3, err)] := by
    simp [reLockEff, hstate, hrelocked, show ¬ err.natAbs ≤ 1000 from Nat.not_le.mpr hlarge, Dev.relock, Dev.put, Dev.putVal]
  rw [heff]
  refine Effect.unrouted_rule (sent := isEmcy) (Effect.raise ((((s.cleared t).relock_effect err).mono (by decide)
    (by simp +contextual) (fun _ h => h.elim)).only (Dev.withTime_effect _ _) (by decide))
    (by decide) (by simp +contextual) (fun _ h => h) _ _ _ _) (fun _ h => Dev.route_none_of_isEmcy _ h) ?_
  intro o _
  simp [hstate]
  rfl

/-- R344: what a solution shows, before it steers chain time. -/
def Dev.showSolution (d : Dev) (f : GnssFix) (rtk : Rtk) : Dev :=
  let fix := decide (2 ≤ f.kind)
  let d := (((d.put 0x2B0201 f.lat).put 0x2B0202 f.lon).put 0x2B0203 f.height).put 0x2B0204 f.velE
  let d := (((d.put 0x2B0205 f.velN).put 0x2B0206 f.velU).put 0x2B0207 f.kind).put 0x2B0208 f.sats
  let d := (((d.put 0x2B0209 f.pdop).put 0x2B020A f.hSigma).put 0x2B020B f.vSigma).put 0x2B020C f.epoch
  let d := (d.put 0x2B020E f.corrAge).put 0x2B020F f.ratio
  let d := if fix && !d.gnss.fixed then
      (d.put 0x2B0009 d.gnss.startKind).put 0x2B000A (min 4294967295 ((d.time.now - d.gnss.startedAt) / 1000) : Nat)
    else d
  d.baseband fun g => { g with
    fixed := g.fixed || fix, hasFix := fix, changed := g.changed || fix
    stale := d.correctionsStale, rtk := rtk }

/-- 0x2B00, 0x2B02: the objects in which a solution is shown. -/
def solutionObjs : Nat → Bool := among [0x2B0201, 0x2B0202, 0x2B0203, 0x2B0204, 0x2B0205, 0x2B0206, 0x2B0207, 0x2B0208,
  0x2B0209, 0x2B020A, 0x2B020B, 0x2B020C, 0x2B020E, 0x2B020F, 0x2B0009, 0x2B000A]

theorem Dev.baseband_effect (d : Dev) (f : Gnss → Gnss) : Only [.gnss] d (d.baseband f) :=
  d.withGnss_effect _

theorem Dev.showSolution_effect (d : Dev) (f : GnssFix) (rtk : Rtk) :
    Effect [.gnss] solutionObjs (fun _ => False) d (d.showSolution f rtk) := by
  unfold Dev.showSolution
  refine Effect.only ?_ (Dev.baseband_effect _ _) (by decide)
  split
  all_goals
    repeat refine Effect.put ?_ rfl _
    exact Effect.refl _ _ _ _

/-- R344, R490: the lead steers its seeded chain time by a solution, and gives it to SHAPE. -/
theorem gnssSolutionEff_steers {d : Dev} {f : GnssFix} (hrun : d.gnss.running = true) (hlead : d.isLead = true)
    (hseeded : d.time.seeded = true) (hkind : 2 ≤ f.kind) : ∃ rtk kind, 2 ≤ kind ∧ 
    gnssSolutionEff d f = ((d.showSolution { f with kind := kind } rtk).steer f.clockOffset).takeFix { f with kind := kind } := by
  obtain ⟨rtk, hrtk⟩ : ∃ rtk, rtk = d.gnss.rtk.epoch d.time.now (d.int 0x2B0303) f.ratio f.pairs
      (decide (4 ≤ f.kind) && d.gnss.correctedAt.isSome && !d.correctionsStale) := ⟨_, rfl⟩
  have hfix : 2 ≤ d.solutionKind rtk f.kind := by
    unfold Dev.solutionKind
    repeat' split
    all_goals omega
  refine ⟨rtk, d.solutionKind rtk f.kind, hfix, ?_⟩
  have hlead' := ((d.showSolution_effect { f with kind := d.solutionKind rtk f.kind } rtk).isLead (by decide)).trans hlead
  have hseeded' := ((d.showSolution_effect { f with kind := d.solutionKind rtk f.kind } rtk).timeField (by decide)
    Time.seeded fun _ => rfl).trans hseeded
  have hshown : gnssSolutionEff d f = (
      let x := d.showSolution { f with kind := d.solutionKind rtk f.kind } rtk
      if !decide (2 ≤ d.solutionKind rtk f.kind) || !x.isLead then x
      else if !x.time.seeded then ((((x.baseband fun g => { g with waits := false }).seedFrom
        (some ((x.baseband fun g => { g with waits := false }).chain - f.clockOffset))).takeFix
          { f with kind := d.solutionKind rtk f.kind }).releaseTable)
      else (x.steer f.clockOffset).takeFix { f with kind := d.solutionKind rtk f.kind }) := by
    rw [gnssSolutionEff, if_neg (by simp [hrun]), hrtk]
    rfl
  rw [hshown]
  dsimp only
  rw [if_neg (by simp [hfix, hlead']), if_neg (by simp [hseeded'])]

theorem Dev.takeFix_effect (d : Dev) (f : GnssFix) : Only [.pose] d (d.takeFix f) := by
  rw [Dev.takeFix]
  split
  · exact Effect.refl _ _ _ d
  · exact d.withPose_effect _

theorem Dev.takeFix_time (d : Dev) (f : GnssFix) : (d.takeFix f).time = d.time := by
  rw [Dev.takeFix]
  split <;> rfl

theorem Dev.takeFix_obj (d : Dev) (f : GnssFix) : (d.takeFix f).obj = d.obj := by
  rw [Dev.takeFix]
  split <;> rfl

theorem Dev.steer_effect (d : Dev) (err : Int) : Effect [.time] (among [0x180202]) (fun _ => False) d (d.steer err) := by
  have hput : Effect [.time] (among [0x180202]) (fun _ => False) d (d.put 0x180202 (clampI (-2147483647) 2147483647 err)) :=
    (Effect.refl _ _ _ d).put rfl _
  rw [Dev.steer]
  split
  · dsimp only
    split
    · exact hput.only (Dev.withTime_effect _ _) (by decide)
    · split <;> exact hput.only (Dev.withTime_effect _ _) (by decide)
  · exact hput

theorem clampI_of_mem {lo hi x : Int} (hlo : lo ≤ x) (hhi : x ≤ hi) : clampI lo hi x = x := by
  rw [clampI]
  omega

theorem Dev.steer_locked {d : Dev} {err : Int} (hstate : d.time.state = 2) (herr : err.natAbs ≤ 100) :
    d.steer err = { d.put 0x180202 err with time := { d.time with state := 3, slewLeft := err, slewing := err ≠ 0 } } := by
  rw [Dev.steer, clampI_of_mem (by omega) (by omega), if_pos (by simp [Dev.put, hstate])]
  dsimp only
  rw [if_pos herr]
  rfl

theorem Dev.steer_unsteered {d : Dev} {err : Int} (hstate : d.time.state = 3) (herr : 10000000 < err.natAbs) :
    (d.steer err).time = { d.time with state := 6, slewLeft := 0, slewing := false } := by
  rw [Dev.steer, if_pos (by simp [Dev.put, hstate])]
  dsimp only
  rw [if_neg (by omega), if_neg (by omega)]
  rfl

theorem gnssSolution_holds : Rules.gnssSolution.Holds := by
  refine Rule.holds_logic _ (fun a _ => a.2) (fun a _ d => gnssSolutionEff d a.1) (by rintro t c s rfl -; rfl) (fun _ _ h => h.1) ?_
  rintro ⟨f, t⟩ s ⟨-, hrun, hlead, hseeded, hstate, hkind, herr⟩
  obtain ⟨rtk, kind, -, heff⟩ := gnssSolutionEff_steers (d := s.cleared t) (f := f) hrun hlead hseeded hkind
  rw [heff]
  have hshow := (s.cleared t).showSolution_effect { f with kind := kind } rtk
  have hshown : ((s.cleared t).showSolution { f with kind := kind } rtk).time.state = 2 :=
    (hshow.timeField (by decide) Time.state fun _ => rfl).trans hstate
  refine Effect.rule (sent := fun _ => False) (((hshow.mono (by decide) (fun _ _ => rfl) fun _ h => h).trans
    ((Dev.steer_effect _ _).mono (by decide) (fun _ _ => rfl) fun _ h => h)).only (Dev.takeFix_effect _ _) (by decide))
    (fun _ h => h.elim) ?_
  dsimp only [Rules.gnssSolution]
  rw [Dev.takeFix_time, Dev.int, Dev.takeFix_obj, Dev.steer_locked hshown herr]
  exact ⟨rfl, hshow.timeField (by decide) Time.offset fun _ => rfl, Dev.int_put_same _ _ _, rfl⟩

theorem gnssSolutionUnsteered_holds : Rules.gnssSolutionUnsteered.Holds := by
  refine Rule.holds_logic _ (fun a _ => a.2) (fun a _ d => gnssSolutionEff d a.1) (by rintro t c s rfl -; rfl) (fun _ _ h => h.1) ?_
  rintro ⟨f, t⟩ s ⟨-, hrun, hlead, hseeded, hstate, hkind, herr⟩
  obtain ⟨rtk, kind, -, heff⟩ := gnssSolutionEff_steers (d := s.cleared t) (f := f) hrun hlead hseeded hkind
  rw [heff]
  have hshow := (s.cleared t).showSolution_effect { f with kind := kind } rtk
  have hshown : ((s.cleared t).showSolution { f with kind := kind } rtk).time.state = 3 :=
    (hshow.timeField (by decide) Time.state fun _ => rfl).trans hstate
  refine Effect.rule (sent := fun _ => False) (((hshow.mono (by decide) (fun _ _ => rfl) fun _ h => h).trans
    ((Dev.steer_effect _ _).mono (by decide) (fun _ _ => rfl) fun _ h => h)).only (Dev.takeFix_effect _ _) (by decide))
    (fun _ h => h.elim) ?_
  dsimp only [Rules.gnssSolutionUnsteered]
  rw [Dev.takeFix_time, Dev.steer_unsteered hshown herr]
  exact ⟨rfl, hshow.timeField (by decide) Time.offset fun _ => rfl, rfl, rfl⟩

theorem ppsPulse_holds : Rules.ppsPulse.Holds := by
  refine Rule.holds_logicNow _ (fun _ _ => ppsPulseEff) (by rintro t c s rfl -; rfl) (fun _ _ h => h.1) ?_
  rintro _ s ⟨-, hflag⟩
  rw [ppsPulseEff, State.cleared_chain, State.chainAt_present]
  generalize hsec : (s.dev.chain + 999999999) / 1000000000 * 1000000000 = sec
  have hat := (s.cleared s.dev.time.now).at_effect ((sec : Int) - (s.cleared s.dev.time.now).time.offset).toNat
  have hoffset := hat.timeField (by decide) Time.offset fun _ => rfl
  dsimp only
  generalize (s.cleared s.dev.time.now).at ((sec : Int) - (s.cleared s.dev.time.now).time.offset).toNat = x at hat hoffset ⊢
  rw [if_pos ((hat.flag rfl).trans hflag), hat.flag (x := 0x182003) rfl]
  refine Effect.rule (r := Rules.ppsPulse) (a := ()) (sent := (· = .pps (!s.dev.flag 0x182003)))
    ((((Effect.refl _ _ _ _).only hat (by decide)).only (Dev.withTime_effect _ _) (by decide)).send rfl)
    (by rintro _ rfl; exact ⟨rfl, rfl⟩) ?_
  have hwhole : sec % 1000000000 = 0 ∧ s.dev.chain ≤ sec ∧ sec < s.dev.chain + 1000000000 := by omega
  have hout : x.out = [] := List.eq_nil_iff_forall_not_mem.mpr fun e he => (hat.out e he).elim (fun h => by simp at h) id
  refine ⟨by simp [hout], hoffset, any_some_of ⟨hwhole.1, hwhole.2.1, hwhole.2.2, ?_⟩⟩
  rw [hat.nat rfl]
  rfl

theorem rtcDiscipline_holds : Rules.rtcDiscipline.Holds := by
  refine Rule.holds_logicNow _ (fun _ _ => rtcDisciplineEff) (by rintro t c s rfl -; rfl) (fun _ _ h => h.1) ?_
  rintro _ s ⟨-, hlead, hstate⟩
  rw [rtcDisciplineEff, if_pos (by simp [show (s.cleared s.dev.time.now).isLead = true from hlead, hstate])]
  refine Only.rule (Dev.withRtc_effect _ _) ⟨rfl, ?_⟩
  rw [State.cleared_now, State.nowAt_present]
  rfl

theorem rtcSupplyLoss_holds : Rules.rtcSupplyLoss.Holds := by
  refine Rule.holds_act _ (fun t _ => t) (fun _ _ => rtcSupplyLossEff) (by rintro t c s rfl -; rfl) ?_
  rintro t s -
  exact Only.rule (Dev.withRtc_effect _ _) ⟨rfl, rfl, rfl⟩

end Sys2Proof.Machine

namespace Sys2Proof

/-- Settles O14, by a lemma for each rule. -/
theorem chainTimeIsKept : Obligations.ChainTimeIsKept :=
  ⟨Machine.chainTimeSeed_holds, Machine.chainTimeSeedRtc_holds, Machine.holdoverEntry_holds,
    Machine.holdoverLimit_holds, Machine.reportSlotStop_holds, Machine.reLock_holds, Machine.reLockStep_holds,
    Machine.gnssSolution_holds, Machine.gnssSolutionUnsteered_holds, Machine.ppsPulse_holds,
    Machine.rtcDiscipline_holds, Machine.rtcSupplyLoss_holds⟩

end Sys2Proof
end

