-- ==== Sys2Proof/Proofs/HostWrites.lean ====
section
/-! SUPPORT. A write on the device's own host port, taken apart by its outcome (R375, R381, R399, R403, R408). -/

namespace Sys2Proof.Machine

/-- Table 17.4: the payload of the entry of an accepted write. -/
def hostPayload (a : Nat) (v : Val) : Payload :=
  if a = 0x2B0301 || a = 0x310106 then .none
  else if a = 0x220202 then .tile (leNat ((valBytes v).drop 4 |>.take 4)) else .write a v

theorem hostPayload_write {a : Nat} (h : a ≠ 0x2B0301 ∧ a ≠ 0x310106 ∧ a ≠ 0x220202) (v : Val) : hostPayload a v = .write a v := by
  obtain ⟨hcorrection, himage, htile⟩ := h
  rw [hostPayload, if_neg (by simp [hcorrection, himage]), if_neg htile]

/-- What the host port answers. -/
def isAnswer : Emit → Prop
  | .answer .host .. => True
  | _ => False

theorem unsent_of_isAnswer (d : Dev) {e : Emit} (h : isAnswer e) : busCounter e = none ∧ d.route e = none := by
  cases e with
  | answer acc _ _ _ =>
    cases acc with
    | host => exact ⟨rfl, rfl⟩
    | _ => exact h.elim
  | _ => exact h.elim

/-- R375, R408: the entry of a taken write is in the group buffer, and its acknowledgement waits for the group. -/
def Dev.hostTakes (d : Dev) (k : Nat) (p : Payload) : Dev :=
  let x := d.journal (d.entry k 0x11 (d.nat 0x110003) 0 (d.isLead && (k = 3 || k = 4)) p)
  { x with jrn := { x.jrn with waiting := x.jrn.waiting ++ [Ack.mk .host (d.nat 0x110003) 0 none 0] } }

/-- R127, R387: a write of a chain object on the lead goes to every present device. -/
def Dev.hostForwards (d : Dev) (r : ObjRow) (a : Nat) (v : Val) : Dev :=
  if r.chain && d.isLead then d.forwardAll a v (r.kind = .rwb || r.kind = .cal) else d

/-- R375: the host's sequence rises by one, and the result is answered. -/
def Dev.hostAnswers (d : Dev) (q : Nat) (r : WriteResult) : Dev := (d.put 0x110003 (u32 (q + 1))).answerWrite .host r

theorem Dev.hostTakes_effect (d : Dev) (k : Nat) (p : Payload) : Only [.jrn] d (d.hostTakes k p) := Effect.of_blank rfl rfl rfl

theorem Dev.answerWrite_host_effect (d : Dev) (r : WriteResult) : Effect [] (fun _ => false) isAnswer d (d.answerWrite .host r) := by
  cases r
  all_goals exact (Dev.send_effect d _).mono (fun _ h => h) (fun _ h => h) (by rintro _ rfl; trivial)

theorem Dev.hostAnswers_effect (d : Dev) (q : Nat) (r : WriteResult) :
    Effect [] (among [0x110003]) isAnswer d (d.hostAnswers q r) :=
  ((Effect.refl _ _ _ d).put (by rfl) _).trans ((Dev.answerWrite_host_effect _ r).mono (fun _ h => h)
    (fun _ h => absurd h Bool.false_ne_true) fun _ h => h)

@[simp] theorem Dev.hostForwards_own {d : Dev} {r : ObjRow} {a : Nat} {v : Val} (h : r.chain = false) : d.hostForwards r a v = d := by
  rw [Dev.hostForwards, if_neg (by simp [h])]

/-- R375, R381: a host write that nothing refuses is taken, applied, forwarded and answered. -/
theorem Dev.writeObject_host {s : State} {a : Nat} {v : Val} (h : Rules.HostMay s a v) {r : ObjRow} (hr : objRow a = some r)
    (hauth : authenticated r a = false) {p : Payload}
    (hp : hostPayload a v = p)
    (t : Nat) (act : Dev → Dev) :
    (s.cleared t).writeObject .host a v false none act =
      ((((s.cleared t).hostTakes (entryKind r a) p).applyWrite .host r a v act).hostForwards r a v).hostAnswers
        (s.dev.nat 0x110003) .accepted := by
  obtain ⟨hrun, hcheck, -, -, hfresh, hbusy, hpending, hproof⟩ := h
  have hrun' : (s.cleared t).power.run ≠ .recovery := by
    rw [show (s.cleared t).power.run = .running from hrun]
    decide
  have hwrite : (s.cleared t).writeWith .host a v (s.dev.nat 0x110003) false none act =
      (.accepted, (((s.cleared t).hostTakes (entryKind r a) p).applyWrite .host r a v act).hostForwards r a v) := by
    have hc : writeCheck (s.cleared t) .host a v = none := hcheck
    have hf : seqFresh (s.cleared t) (0x11, 0) (s.dev.nat 0x110003) = true := hfresh
    have hb : (s.cleared t).intakeBusy = false := hbusy
    have hn : ¬ (s.cleared t).hostPending ≥ 16 := Nat.not_le.mpr hpending
    have hq : ¬ (s.cleared t).proofBytes ≥ 131072 := Nat.not_le.mpr hproof
    rw [Dev.writeWith, hc]
    simp only [hr, Option.any_some, hauth, Dev.spendTag, Bool.false_and, Bool.not_false, Bool.true_or, Bool.not_true,
      Bool.false_eq_true, if_false, sourceOf, hf, hb, hn, hq, decide_false, Bool.and_false, Bool.or_false, ← hp]
    rfl
  rw [Dev.writeObject]
  simp only [if_neg hrun']
  rw [show (s.cleared t).nextSeq .host = s.dev.nat 0x110003 from rfl, hwrite]
  rfl

/-- R381, R399: a host write that its object's state check refuses is aborted, which is recorded. -/
theorem Dev.writeObject_host_refused {s : State} {a : Nat} {v : Val} (h : Rules.HostMay s a v) {r : ObjRow} (hr : objRow a = some r)
    (hauth : authenticated r a = false) (t c : Nat) (busy : Bool) (act : Dev → Dev) :
    (s.cleared t).writeObject .host a v busy (some c) act =
      ((s.cleared t).recordAbort .host a c).hostAnswers (s.dev.nat 0x110003) (.aborted c) := by
  obtain ⟨hrun, hcheck, -, -, -, -, -, -⟩ := h
  have hrun' : (s.cleared t).power.run ≠ .recovery := by
    rw [show (s.cleared t).power.run = .running from hrun]
    decide
  have hwrite : (s.cleared t).writeWith .host a v (s.dev.nat 0x110003) busy (some c) act =
      (.aborted c, (s.cleared t).recordAbort .host a c) := by
    have hc : writeCheck (s.cleared t) .host a v = none := hcheck
    rw [Dev.writeWith, hc]
    simp only [hr, Option.any_some, hauth, Dev.spendTag, Bool.false_and, Bool.not_false, Bool.true_or, Bool.not_true,
      Bool.false_eq_true, if_false]
  rw [Dev.writeObject]
  simp only [if_neg hrun']
  rw [show (s.cleared t).nextSeq .host = s.dev.nat 0x110003 from rfl, hwrite]
  rfl

/-- R375, R411: a host write that its object finds busy is counted as busy, and its sequence does not rise. -/
theorem Dev.writeObject_host_busy {s : State} {a : Nat} {v : Val} (h : Rules.HostMay s a v) {r : ObjRow} (hr : objRow a = some r)
    (hauth : authenticated r a = false) (t : Nat) (act : Dev → Dev) :
    (s.cleared t).writeObject .host a v true none act =
      (((s.cleared t).bump 0x320008).bump 0x11000B).answerWrite .host .busy := by
  obtain ⟨hrun, hcheck, -, -, hfresh, -, -, -⟩ := h
  have hrun' : (s.cleared t).power.run ≠ .recovery := by
    rw [show (s.cleared t).power.run = .running from hrun]
    decide
  have hwrite : (s.cleared t).writeWith .host a v (s.dev.nat 0x110003) true none act =
      (.busy, ((s.cleared t).bump 0x320008).bump 0x11000B) := by
    have hc : writeCheck (s.cleared t) .host a v = none := hcheck
    have hf : seqFresh (s.cleared t) (0x11, 0) (s.dev.nat 0x110003) = true := hfresh
    rw [Dev.writeWith, hc]
    simp only [hr, Option.any_some, hauth, Dev.spendTag, Bool.false_and, Bool.not_false, Bool.true_or, Bool.not_true,
      Bool.false_eq_true, if_false, sourceOf, hf, if_true]
  rw [Dev.writeObject]
  simp only [if_neg hrun']
  rw [show (s.cleared t).nextSeq .host = s.dev.nat 0x110003 from rfl, hwrite]

/-- R381, R399: what a host write that is refused leaves. -/
theorem Dev.recordAbort_effect (d : Dev) (acc : Accessor) (a c : Nat) :
    Effect [] (among [0x103004, 0x103005, 0x103006]) (fun _ => False) d (d.recordAbort acc a c) :=
  (((Effect.refl _ _ _ d).bump (by rfl)).put (by rfl) _).put (by rfl) _

theorem statusByte_accepted (d : Dev) : d.statusByte 1 false = 1 ∨ d.statusByte 1 false = 129 := by
  rw [Dev.statusByte]
  cases d.nirq
  · exact .inl rfl
  · exact .inr rfl

/-- R375, R403, R408: a write is taken where what follows its entry leaves the group buffer and the waiting acknowledgements. -/
theorem hostTook_of_hostAnswers {s : State} {t k : Nat} {p : Payload} {x : Dev} (hk : k < 6)
    (hopen : x.jrn.openHalf = ((s.cleared t).hostTakes k p).jrn.openHalf)
    (hwait : x.jrn.waiting = ((s.cleared t).hostTakes k p).jrn.waiting) :
    Rules.HostTook s (x.hostAnswers (s.dev.nat 0x110003) .accepted) k p := by
  have hfree : inReserved ((s.cleared t).entry k 0x11 ((s.cleared t).nat 0x110003) 0 ((s.cleared t).isLead && (k = 3 || k = 4)) p)
      = false := by
    simp [inReserved, Dev.entry, show k ≠ 6 ∧ k ≠ 8 ∧ k ≠ 9 ∧ k ≠ 13 ∧ k ≠ 14 by omega]
  have hjournal : ((s.cleared t).hostTakes k p).jrn.openHalf = s.dev.jrn.openHalf ++
      [s.dev.entry k 0x11 (s.dev.nat 0x110003) 0 (s.dev.isLead && (k = 3 || k = 4)) p] := by
    simp only [Dev.hostTakes, Dev.journal, hfree, Bool.false_eq_true, if_false]
    rfl
  have hwaits : ((s.cleared t).hostTakes k p).jrn.waiting = s.dev.jrn.waiting ++ [⟨.host, s.dev.nat 0x110003, 0, none, 0⟩] := by
    simp only [Dev.hostTakes, Dev.journal, hfree, Bool.false_eq_true, if_false]
    rfl
  refine ⟨hopen.trans hjournal, hwait.trans hwaits, ?_, ?_⟩
  · have hseq : (x.hostAnswers (s.dev.nat 0x110003) .accepted).int 0x110003 = (u32 (s.dev.nat 0x110003 + 1) : Nat) :=
      Dev.int_put_same _ _ _
    rw [Dev.nat, hseq]
    rfl
  · have hout : Emit.answer .host ((x.put 0x110003 (u32 (s.dev.nat 0x110003 + 1))).statusByte 1 false) 0 (.num 0) ∈
        (x.hostAnswers (s.dev.nat 0x110003) .accepted).out := List.mem_append_right _ (List.mem_singleton_self _)
    rcases statusByte_accepted (x.put 0x110003 (u32 (s.dev.nat 0x110003 + 1))) with hb | hb
    · exact .inl (hb ▸ hout)
    · exact .inr (hb ▸ hout)

/-- R381: a host write of a write-only object runs the action that the object names. -/
theorem Dev.writeObject_host_action {s : State} {a : Nat} {v : Val} (h : Rules.HostMay s a v) {r : ObjRow} (hr : objRow a = some r)
    (hauth : authenticated r a = false) (hkind : r.kind = .wo) (hchain : r.chain = false) {p : Payload} (hp : hostPayload a v = p)
    {k : Nat} (hk : entryKind r a = k) (t : Nat) (act : Dev → Dev) :
    (s.cleared t).writeObject .host a v false none act =
      (act ((s.cleared t).hostTakes k p)).hostAnswers (s.dev.nat 0x110003) .accepted := by
  rw [Dev.writeObject_host h hr hauth hp, Dev.hostForwards_own hchain, Dev.applyWrite, hkind, hk]

/-- R381: a host write of a read-write object sets the object, and its action follows. -/
theorem Dev.writeObject_host_setting {s : State} {a : Nat} {v : Val} (h : Rules.HostMay s a v) {r : ObjRow} (hr : objRow a = some r)
    (hauth : authenticated r a = false) (hkind : r.kind = .rw) (hchain : r.chain = false) {p : Payload} (hp : hostPayload a v = p)
    {k : Nat} (hk : entryKind r a = k) (t : Nat) (act : Dev → Dev) :
    (s.cleared t).writeObject .host a v false none act =
      (act (((s.cleared t).hostTakes k p).putVal a v)).hostAnswers (s.dev.nat 0x110003) .accepted := by
  rw [Dev.writeObject_host h hr hauth hp, Dev.hostForwards_own hchain, Dev.applyWrite, hkind, hk]

/-- What a rule asks of a host write that is taken, from what its action may do. -/
theorem Effect.host_rule {α : Type} {r : Rule α} {a : α} {s : State} {t k : Nat} {p : Payload} {x : Dev}
    (h : Effect r.parts (r.objs a) isAnswer ((s.cleared t).hostTakes k p) x) (hjrn : .jrn ∈ r.parts)
    (hseq : r.objs a 0x110003 = true) (hpost : r.post a s (x.hostAnswers (s.dev.nat 0x110003) .accepted)) :
    plain (x.hostAnswers (s.dev.nat 0x110003) .accepted) = true ∧
      Frame r.parts s.dev (x.hostAnswers (s.dev.nat 0x110003) .accepted) ∧
      ObjFrame (r.objs a) s.dev (x.hostAnswers (s.dev.nat 0x110003) .accepted) ∧
      r.post a s (x.hostAnswers (s.dev.nat 0x110003) .accepted) := by
  refine Effect.rule (t := t) (sent := isAnswer) ?_ (fun _ he => unsent_of_isAnswer _ he) hpost
  refine Effect.trans (Effect.trans ((Dev.hostTakes_effect _ k p).mono ?_) h) ((Dev.hostAnswers_effect _ _ _).mono (by simp) ?_
    fun _ he => he)
  · intro q hq
    rwa [List.mem_singleton.mp hq]
  · intro y hy
    rwa [show y = 0x110003 by simpa [among] using hy]

theorem Dev.hostAnswers_int (x : Dev) (q : Nat) (r : WriteResult) {a : Nat} (h : a ≠ 0x110003) :
    (x.hostAnswers q r).int a = x.int a := by
  cases r
  all_goals exact Dev.int_put_other _ _ _ _ h

end Sys2Proof.Machine
end

