-- ==== Sys2Proof/Proofs/Swaps.lean ====
section
/-! PROOF. A rule of the setting swaps that fails (R52). -/

namespace Sys2Proof.Machine

/-- A lead in provisioning whose positions have writes that wait, with no first batch of them kept and no set open. -/
def leadWithCounts : State := ⟨{ leadDev with swap := { counts := Vector.replicate 32 1 } }, []⟩

theorem namedSwapWrite_fails : ¬ Rules.namedSwapWrite.Holds := by
  refine Rule.not_holds (a := 3) (s := leadWithCounts) rfl (by decide) (fun d => d.swap.first = some 0)
    (by decide) ?_
  rintro d ⟨hswap, -⟩
  rw [hswap]
  rfl

end Sys2Proof.Machine

namespace Sys2Proof

/-- Refutes O16: on a lead whose positions have writes that wait, with no first batch of them kept and no set open, the host's
naming of a swap batch also makes the present batch the first of those writes, so that the swap state does not change in the
named batch alone. -/
theorem not_settingSwapsAgree : ¬ Obligations.SettingSwapsAgree := by
  rintro ⟨hnamed, -⟩
  exact Machine.namedSwapWrite_fails hnamed

end Sys2Proof
end

