-- ==== Sys2Proof/Proofs/PoseSources.lean ====
section
/-! PROOF. A rule of the pose sources that fails (R76). -/

namespace Sys2Proof.Machine

/-- A wheeler in Phase B of its batch. -/
def wheelerInPhaseB : State := ⟨{ runningDev with seq := { phase := 1 } }, []⟩

theorem boomState_fails : ¬ Rules.boomState.Holds := by
  refine Rule.not_holds (a := ({}, 0)) (s := wheelerInPhaseB) rfl (by decide) (fun d => !d.pose.received) (by decide) ?_
  rintro d ⟨-, -, -, hreceived, -⟩
  rw [hreceived]
  rfl

end Sys2Proof.Machine

namespace Sys2Proof

/-- Refutes O17: a wheeler takes the lead's boom state in Phase A alone; one that comes in Phase B, with the batch's own start,
is not taken. -/
theorem not_poseSourcesFollow : ¬ Obligations.PoseSourcesFollow := by
  rintro ⟨-, hboom, -⟩
  exact Machine.boomState_fails hboom

end Sys2Proof
end

