-- ==== Sys2Proof/Proofs/SensorInputs.lean ====
section
/-! PROOF. A rule of the sensor inputs that fails (R84). -/

namespace Sys2Proof.Machine

/-- The even input of a quadrature pair has just had an edge: the glitch filter's time has not passed. -/
def quadratureInGlitchTime : State :=
  ⟨{ runningDev.put (freqAdr 0 7) 1 with inp := { freq := (Vector.replicate 8 {}).set 0 { count := 5, pin := some 1000000 } } }, []⟩

theorem freqEdgeBack_fails : ¬ Rules.freqEdgeBack.Holds := by
  refine Rule.not_holds (a := (0, 0)) (s := quadratureInGlitchTime) rfl (by decide)
    (fun d => d.inp.freq[(0 : Fin 8)].count + 1 ≠ quadratureInGlitchTime.dev.inp.freq[(0 : Fin 8)].count) (by decide) ?_
  rintro d ⟨-, hcount, -⟩
  exact decide_eq_false fun hne => hne hcount

end Sys2Proof.Machine

namespace Sys2Proof

/-- Refutes O18: an edge backwards of a quadrature pair that comes within the glitch filter's time after the last is not
counted. -/
theorem not_sensorInputsFollow : ¬ Obligations.SensorInputsFollow := by
  rintro ⟨-, hback, -⟩
  exact Machine.freqEdgeBack_fails hback

end Sys2Proof
end

