-- ==== Sys2Proof/Proofs/Edges.lean ====
section
/-! PROOF. Edges are issued, missed, resent and learned from; manual sections (R22, R23, R93, R96, R109, R117, R122, R204). -/

namespace Sys2Proof.Machine

theorem Dev.outlet_effect (d : Dev) (n : Fin 32) (f : Outlet → Outlet) : Only [.dec] d (d.outlet n f) := d.withDec_effect _

@[simp] theorem Dev.outlet_same (d : Dev) (n : Fin 32) (f : Outlet → Outlet) :
    (d.outlet n f).dec.outlets[(n : Nat)] = f d.dec.outlets[(n : Nat)] :=
  updateAt_same _ _ _

@[simp] theorem Dev.outlet_other (d : Dev) {n k : Fin 32} (f : Outlet → Outlet) (h : k ≠ n) :
    (d.outlet n f).dec.outlets[(k : Nat)] = d.dec.outlets[(k : Nat)] :=
  updateAt_other _ _ h

theorem Dev.axis_effect (d : Dev) (n : Fin 32) (f : Axis → Axis) : Only [.axes] d (d.axis n f) := d.withAxes_effect _

/-- R122: an issued edge acts on its outlet alone. -/
theorem Dev.issueOutlet_effect (d : Dev) (n : Fin 32) (e : Edge) : Only [.dec] d (d.issueOutlet n e) := d.outlet_effect n _

theorem Dev.issue_effect (d : Dev) (instant : Nat) (a : PlAction) :
    Effect [.teth] (fun _ => false) (· = .powerLink ⟨d.teth.nextId, instant, a⟩) d (d.issue instant a) :=
  ((Effect.refl _ _ _ d).only (Dev.withTeth_effect _ _) (by decide)).send rfl

/-- The head of an outlet's edge queue is taken off it. -/
def Dev.takeEdge (d : Dev) (n : Fin 32) (r : List Edge) : Dev := d.outlet n fun x => { x with edges := r }

theorem Dev.takeEdge_effect (d : Dev) (n : Fin 32) (r : List Edge) : Only [.dec] d (d.takeEdge n r) := d.outlet_effect n _

theorem edgeIssueEff_valve {d : Dev} {n : Fin 32} {e : Edge} {r : List Edge} (hedges : d.dec.outlets[n].edges = e :: r)
    (hsettled : d.settled e = true) (hcommand : d.commanding = true) (htype : d.nat (outletAdr n 1) = 1)
    (hearly : d.chain + 4000 ≤ e.instant) :
    edgeIssueEff d n = ((d.takeEdge n r).issueOutlet n e).issue e.instant (match e.kind with
      | 1 => .valveOn n
      | 2 => .valveOff n
      | _ => .valveRate n e.value) := by
  have hcommand' : (d.takeEdge n r).commanding = true := hcommand
  have htype' : (d.takeEdge n r).nat (outletAdr n 1) = 1 := htype
  have hearly' : ¬ e.instant < (d.takeEdge n r).chain + 4000 := Nat.not_lt.mpr hearly
  rw [edgeIssueEff, hedges]
  change (if !d.settled e then d else _) = _
  rw [if_neg (by simp [hsettled])]
  change (if !(d.takeEdge n r).commanding || !(d.takeEdge n r).used n then d.takeEdge n r
    else if (d.takeEdge n r).nat (outletAdr n 1) = 3 then _ else if e.instant < (d.takeEdge n r).chain + 4000 then _ else _) = _
  rw [if_neg (by simp [hcommand', Dev.used, htype']), if_neg (by simp [htype']), if_neg hearly']
  rfl

theorem edgeIssueEff_meter {d : Dev} {n : Fin 32} {e : Edge} {r : List Edge} (hedges : d.dec.outlets[n].edges = e :: r)
    (hsettled : d.settled e = true) (hcommand : d.commanding = true) (htype : d.nat (outletAdr n 1) = 3) (hkind : e.kind = 3) :
    edgeIssueEff d n = ((d.takeEdge n r).issueOutlet n e).axis n fun a =>
      { a with edges := a.edges ++ [(e.instant, .rate (10 * e.value))] } := by
  have hcommand' : (d.takeEdge n r).commanding = true := hcommand
  have htype' : (d.takeEdge n r).nat (outletAdr n 1) = 3 := htype
  rw [edgeIssueEff, hedges]
  change (if !d.settled e then d else _) = _
  rw [if_neg (by simp [hsettled]), hkind]
  change (if !(d.takeEdge n r).commanding || !(d.takeEdge n r).used n then d.takeEdge n r
    else if (d.takeEdge n r).nat (outletAdr n 1) = 3 then _ else _) = _
  rw [if_neg (by simp [hcommand', Dev.used, htype']), if_pos htype']
  rfl

/-- R22: what leaves by the power link is no message of the chain or of a bus. -/
theorem unsent_powerLink (d : Dev) (f : PlFrame) : busCounter (.powerLink f) = none ∧ d.route (.powerLink f) = none :=
  ⟨rfl, rfl⟩

theorem Dev.issued_effect (d : Dev) (n : Fin 32) (r : List Edge) (e : Edge) (a : PlAction) :
    Effect [.dec, .teth] (fun _ => false) (· = .powerLink ⟨d.teth.nextId, e.instant, a⟩) d
      (((d.takeEdge n r).issueOutlet n e).issue e.instant a) :=
  (((Effect.refl _ _ _ _).only (d.takeEdge_effect n r) (by decide)).only (Dev.issueOutlet_effect _ _ _) (by decide)).trans
    ((Dev.issue_effect _ _ _).mono (by decide) (by simp) fun _ h => h)

theorem edgeIssueOn_holds : Rules.edgeIssueOn.Holds := by
  refine Rule.holds_logic _ (fun a _ => a.2.1) (fun a _ d => edgeIssueEff d a.1) (by rintro t c s rfl -; rfl) (fun _ _ h => h.1) ?_
  rintro ⟨n, t, e, r⟩ s ⟨-, hcommand, htype, hedges, hkind, hsettled, hearly⟩
  rw [← State.cleared_chain] at hearly
  rw [edgeIssueEff_valve (d := s.cleared t) hedges hsettled hcommand htype hearly, hkind]
  replace hkind : e.kind = 1 := hkind
  refine Effect.rule ((Dev.issued_effect _ _ _ _ _).mono (fun _ h => h) (by simp) fun _ h => h)
    (by rintro _ rfl; exact unsent_powerLink _ _) ⟨fun k hk => ?_, ?_, ?_, ?_, ?_, rfl, rfl⟩
  all_goals simp [Dev.issue, Dev.issueOutlet, Dev.takeEdge, hkind, *]

theorem edgeIssueOff_holds : Rules.edgeIssueOff.Holds := by
  refine Rule.holds_logic _ (fun a _ => a.2.1) (fun a _ d => edgeIssueEff d a.1) (by rintro t c s rfl -; rfl) (fun _ _ h => h.1) ?_
  rintro ⟨n, t, e, r⟩ s ⟨-, hcommand, htype, hedges, hkind, hsettled, hearly⟩
  rw [← State.cleared_chain] at hearly
  rw [edgeIssueEff_valve (d := s.cleared t) hedges hsettled hcommand htype hearly, hkind]
  replace hkind : e.kind = 2 := hkind
  refine Effect.rule ((Dev.issued_effect _ _ _ _ _).mono (fun _ h => h) (by simp) fun _ h => h)
    (by rintro _ rfl; exact unsent_powerLink _ _) ⟨fun k hk => ?_, ?_, ?_, ?_, rfl, ?_⟩
  case refine_5 =>
    rw [List.all_eq_true]
    intro q hq
    simp only [Dev.issue, Dev.issueOutlet, Dev.takeEdge, hkind, Dev.send, Rules.outlet, Fin.getElem_fin, Dev.outlet_same,
      List.mem_map] at hq
    obtain ⟨p, -, rfl⟩ := hq
    by_cases hopen : p.2.isNone <;> simp_all [Option.isSome_iff_ne_none]
  all_goals simp [Dev.issue, Dev.issueOutlet, Dev.takeEdge, hkind, *]

theorem Dev.issueOutlet_meter {d : Dev} {n : Fin 32} {e : Edge} (htype : d.nat (outletAdr n 1) = 3) (hkind : e.kind = 3) :
    d.issueOutlet n e = d.outlet n fun x => { x with rate := 10 * e.value } := by
  simp [Dev.issueOutlet, hkind, htype]

theorem edgeIssueMeter_holds : Rules.edgeIssueMeter.Holds := by
  refine Rule.holds_logic _ (fun a _ => a.2.1) (fun a _ d => edgeIssueEff d a.1) (by rintro t c s rfl -; rfl) (fun _ _ h => h.1) ?_
  rintro ⟨n, t, e, r⟩ s hp
  dsimp only at hp
  obtain ⟨-, hcommand, htype, hedges, hkind, hsettled⟩ := hp
  have htype' : ((s.cleared t).takeEdge n r).nat (outletAdr n 1) = 3 := htype
  rw [edgeIssueEff_meter (d := s.cleared t) hedges hsettled hcommand htype hkind, Dev.issueOutlet_meter htype' hkind]
  refine Effect.rule ((((Effect.refl _ _ (fun _ => False) _).only (Dev.takeEdge_effect _ _ _) (by decide)).only
    (Dev.outlet_effect _ _ _) (by decide)).only (Dev.axis_effect _ _ _) (by decide)) (fun _ h => h.elim)
    ⟨rfl, fun k hk => ?_, fun k hk => updateAt_other _ _ hk, ?_, ?_, ?_, ?_⟩
  case refine_5 => exact congrArg Axis.edges (updateAt_same _ _ _)
  all_goals simp [Dev.axis, Dev.takeEdge, *]

theorem edgeNotIssued_holds : Rules.edgeNotIssued.Holds := by
  refine Rule.holds_logic _ (fun a _ => a.2.1) (fun a _ d => edgeIssueEff d a.1) (by rintro t c s rfl -; rfl) (fun _ _ h => h.1) ?_
  rintro ⟨n, t, e, r⟩ s ⟨-, hcommand, hedges, hsettled⟩
  have heff : edgeIssueEff (s.cleared t) n = (s.cleared t).takeEdge n r := by
    have he : (s.cleared t).dec.outlets[n].edges = e :: r := hedges
    have hcommand' : ((s.cleared t).takeEdge n r).commanding = false := hcommand
    rw [edgeIssueEff, he]
    change (if !(s.cleared t).settled e then s.cleared t else if !((s.cleared t).takeEdge n r).commanding || _ then
      (s.cleared t).takeEdge n r else _) = _
    rw [if_neg (by simp [show (s.cleared t).settled e = true from hsettled]), if_pos (by simp [hcommand'])]
  rw [heff]
  exact Only.rule (Dev.takeEdge_effect _ _ _) ⟨rfl, fun k hk => updateAt_other _ _ hk, updateAt_same _ _ _⟩

/-- R204: a missed switch-on takes the outlet as off. -/
def Dev.missOn (d : Dev) (n : Fin 32) (instant : Int) : Dev :=
  d.outlet n fun x => { x with
    on := false, sweepOn := false, missed := true, missedAt := some instant.toNat
    deposits := x.deposits.filter fun q => q.2.isSome }

/-- R204: what a missed edge changes, counts and sends. -/
theorem Dev.missedEdge_effect (d : Dev) (unit cause : Nat) :
    Effect [.hlt, .rcd, .diag, .can] (fun x => eventObjs x || among [0x2E0404] x) isEmcy d (d.missedEdge unit cause) := by
  rw [Dev.missedEdge]
  split
  · exact Effect.refl _ _ _ d
  · exact (((Effect.refl _ _ _ d).bump (by rfl)).only (Dev.fault_effect _ _ _ _) (by decide)).raise (by decide)
      (by simp +contextual) (fun _ h => h) _ _ _ _

theorem Dev.missedEdge_dec (d : Dev) (unit cause : Nat) : (d.missedEdge unit cause).dec = d.dec := by
  rw [Dev.missedEdge]
  split
  · rfl
  · simp only [Dev.raise_dec, Dev.fault_dec]
    rfl

theorem Dev.missedEdge_count {d : Dev} (h : d.pd.absent = false) (unit cause : Nat) :
    (d.missedEdge unit cause).int 0x2E0404 = (d.int 0x2E0404 + 1) % 2 ^ 32 := by
  rw [Dev.missedEdge, if_neg (by simp [h]), (Dev.raise_effect _ _ _ _ _).int (by decide), Dev.int, Dev.fault_obj]
  exact Dev.int_put_same _ _ _

theorem missedSwitchOn_holds : Rules.missedSwitchOn.Holds := by
  refine Rule.holds_unrouted_logic _ (fun a _ => a.2.2)
    (fun a _ d => d.powerFrame ⟨true, (a.2.1 : Int)⟩ fun at_ => missedOnEff d a.1 at_ 0) (by rintro t c s rfl -; rfl) (fun _ _ h => h.1)
    (by simp +contextual [busObjs, eventObjs, among]) ?_
  rintro ⟨n, instant, t⟩ s ⟨-, habsent⟩
  change _ ∧ _ ∧ _ ∧ _
  rw [show (s.cleared t).powerFrame ⟨true, (instant : Int)⟩ (fun at_ => missedOnEff (s.cleared t) n at_ 0) =
    ((s.cleared t).missOn n instant).missedEdge n 0 from rfl]
  refine Effect.unrouted_rule (((Effect.refl _ _ _ _).only (Dev.outlet_effect _ _ _) (by decide)).trans
    ((Dev.missedEdge_effect _ _ _).mono (by decide) (fun _ h => h) fun _ h => h)) (fun _ h => Dev.route_none_of_isEmcy _ h) ?_
  intro o ho
  have hcount := Dev.missedEdge_count (d := (s.cleared t).missOn n instant) habsent n 0
  refine ⟨fun k hk => ?_, ?_, ?_, ?_, ?_, (ho.int (by decide)).trans hcount⟩
  all_goals simp [Dev.missedEdge_dec, Dev.missOn, *]

/-- R23: the frame that is not acknowledged is found among the issued ones. -/
theorem find_issued {f : PlFrame} {d : Dev} (h : d.teth.issued = [f]) : (d.teth.issued.find? fun g => g.id = f.id) = some f := by
  simp [h]

theorem negativeAckResends_holds : Rules.negativeAckResends.Holds := by
  refine Rule.holds_logic _ (fun a _ => a.2) (fun a _ d => d.powerFrame ⟨true, a.1.id⟩ (negativeAckEff d))
    (by rintro t c s rfl -; rfl) (fun _ _ h => h.1) ?_
  rintro ⟨f, t⟩ s ⟨-, hissued, htime⟩
  have heff : negativeAckEff (s.cleared t) f.id = ((s.cleared t).bump 0x2E0403).send (.powerLink f) := by
    rw [negativeAckEff, find_issued (d := s.cleared t) hissued]
    exact if_pos htime
  change plain (negativeAckEff (s.cleared t) f.id) = true ∧ _
  rw [Dev.powerFrame, if_pos rfl, heff]
  exact Effect.rule (sent := (· = .powerLink f)) (((Effect.refl _ _ _ _).bump (by rfl)).send rfl)
    (by rintro _ rfl; exact unsent_powerLink _ _) ⟨rfl, Dev.int_put_same _ _ _⟩

theorem negativeAckDrops_holds : Rules.negativeAckDrops.Holds := by
  refine Rule.holds_unrouted_logic _ (fun a _ => a.2.2) (fun a _ d => d.powerFrame ⟨true, a.1.id⟩ (negativeAckEff d))
    (by rintro t c s rfl -; rfl) (fun _ _ h => h.1) (by simp +contextual [busObjs, eventObjs, among]) ?_
  rintro ⟨f, n, t⟩ s hp
  dsimp only at hp
  obtain ⟨-, hissued, hlate, haction, habsent⟩ := hp
  obtain ⟨x, hx⟩ : ∃ x : Dev, x = { (s.cleared t).bump 0x2E0403 with teth := { s.dev.teth with issued := [] } } := ⟨_, rfl⟩
  have heff : negativeAckEff (s.cleared t) f.id = (x.missOn n f.instant).missedEdge n 1 := by
    rw [negativeAckEff, find_issued (d := s.cleared t) hissued]
    dsimp only
    rw [if_neg (by exact Int.not_le.mpr hlate), haction, hx]
    simp [missedOnEff, Dev.missOn, hissued, Dev.bump, Dev.put, Dev.putVal]
  have hfirst : Effect [.teth, .dec, .hlt, .rcd, .diag, .can] (fun x => eventObjs x || among [0x2E0403, 0x2E0404] x) isEmcy
      (s.cleared t) (x.missOn n f.instant) := by
    refine Effect.only ?_ (Dev.outlet_effect _ _ _) (by decide)
    rw [hx]
    exact ((Effect.refl _ _ _ _).bump (by rfl)).only (Dev.withTeth_effect _ _) (by decide)
  have habsent' : (x.missOn n f.instant).pd.absent = false := by
    rw [hx]
    exact habsent
  have hcount := Dev.missedEdge_count habsent' n 1
  change (∀ e ∈ (negativeAckEff (s.cleared t) f.id).out, _) ∧ _
  rw [Dev.powerFrame, if_pos rfl, heff]
  refine Effect.unrouted_rule (hfirst.trans ((Dev.missedEdge_effect _ _ _).mono (by decide)
    (by simp +contextual [among, or_imp]) fun _ h => h)) (fun _ h => Dev.route_none_of_isEmcy _ h) ?_
  intro o ho
  have hteth : ((x.missOn n f.instant).missedEdge n 1).teth = { s.dev.teth with issued := [] } := by
    refine ((Dev.missedEdge_effect _ _ _).frame .teth (by decide)).symm.trans ?_
    rw [hx]
    rfl
  refine ⟨hteth, fun k hk => ?_, ?_, ?_⟩
  · simp [Dev.missedEdge_dec, Dev.missOn, hx, hk, Dev.bump, Dev.put, Dev.putVal]
  · simp [Dev.missedEdge_dec, Dev.missOn]
  · refine (ho.int (by decide)).trans (hcount.trans ?_)
    rw [hx]
    exact congrArg (fun v => (v + 1) % 2 ^ 32) (Dev.int_put_other _ _ _ _ (by decide))

/-- R209: the time from the start of the phase to the kink, in µs. -/
theorem kink_delay (start : Int) (m : Nat) : ((start + 1000 * (m : Int) - start) / 1000).toNat = m := by
  omega

theorem kinkReport_holds : Rules.kinkReport.Holds := by
  refine Rule.holds_logic _ (fun a _ => a.2.2) (fun a _ d => kinkReportEff d a.1)
    (by rintro t c s rfl -; rfl) (fun _ _ h => h.1) ?_
  rintro ⟨rep, m, t⟩ s hp
  dsimp only at hp
  obtain ⟨-, hkind, hkink, hslot, hoffered, hstrike, hfallback, harrival⟩ := hp
  have heff : ∃ g : Outlet → List (Nat × Option Nat), kinkReportEff (s.cleared t) rep =
      ((s.cleared t).put (outletAdr rep.channel 0x3B) (m : Int)).outlet rep.channel fun x =>
        { x with measures := x.measures ++ [(true, some m)], deposits := g x } := by
    simp only [kinkReportEff, kinkOffered, hkind, hkink, hslot, hoffered, hstrike, hfallback, harrival, Option.map_some, kink_delay]
    exact ⟨_, rfl⟩
  obtain ⟨g, heff⟩ := heff
  rw [heff]
  refine Effect.rule (((Effect.refl _ _ (fun _ => False) _).put (by simp [among]) _).only (Dev.outlet_effect _ _ _) (by decide))
    (fun _ h => h.elim) ⟨rfl, fun k hk => updateAt_other _ _ hk, Dev.int_put_same _ _ _, ?_, ?_⟩
  all_goals simp [Dev.put, Dev.putVal]

theorem kinkReportFallback_holds : Rules.kinkReportFallback.Holds := by
  refine Rule.holds_logic _ (fun a _ => a.2.2) (fun a _ d => kinkReportEff d a.1)
    (by rintro t c s rfl -; rfl) (fun _ _ h => h.1) ?_
  rintro ⟨rep, m, t⟩ s hp
  dsimp only at hp
  obtain ⟨-, hkind, hkink, hfallback⟩ := hp
  have heff : kinkReportEff (s.cleared t) rep = (s.cleared t).put (outletAdr rep.channel 0x3B) (m : Int) := by
    simp only [kinkReportEff, kinkOffered, hkind, hkink, hfallback, Option.map_some, kink_delay]
    simp
  rw [heff]
  exact Effect.rule ((Effect.refl _ _ (fun _ => False) _).put (by simp [among]) _) (fun _ h => h.elim)
    ⟨rfl, Dev.int_put_same _ _ _⟩

theorem kinkReportSlot_holds : Rules.kinkReportSlot.Holds := by
  refine Rule.holds_logic _ (fun a _ => a.2.2) (fun a _ d => kinkReportEff d a.1)
    (by rintro t c s rfl -; rfl) (fun _ _ h => h.1) ?_
  rintro ⟨rep, m, t⟩ s hp
  dsimp only at hp
  obtain ⟨-, hkind, hkink, hslot⟩ := hp
  have heff : kinkReportEff (s.cleared t) rep = (s.cleared t).put (outletAdr rep.channel 0x3C) (m : Int) := by
    simp only [kinkReportEff, kinkOffered, hkind, hkink, hslot, Option.map_some, kink_delay]
    simp
  rw [heff]
  exact Effect.rule ((Effect.refl _ _ (fun _ => False) _).put (by simp [among]) _) (fun _ h => h.elim)
    ⟨rfl, Dev.int_put_same _ _ _⟩

/-- R96: what an outlet's learned parts become in the device records. -/
def keepDelays (d : Dev) (s : Store) (n : Fin 32) : Store :=
  if d.dec.outlets[n].learned then
    storePut (storePut s (outletAdr n 0x22) (.num d.dec.outlets[n].onDelay.value)) (outletAdr n 0x23)
      (.num d.dec.outlets[n].offDelay.value)
  else storeDrop (storeDrop s (outletAdr n 0x22)) (outletAdr n 0x23)

theorem outletAdr_ne {n k : Fin 32} (h : k ≠ n) {i j : Nat} (hi : i < 256) (hj : j < 256) : outletAdr k i ≠ outletAdr n j := by
  have hval : (k : Nat) ≠ n := fun e => h (Fin.ext e)
  simp only [outletAdr, adr]
  omega

theorem keepDelays_other {d : Dev} {s : Store} {n k : Fin 32} (h : k ≠ n) {i : Nat} (hi : i < 256) :
    storeFind (keepDelays d s n) (outletAdr k i) = storeFind s (outletAdr k i) := by
  have h22 := outletAdr_ne h hi (show 0x22 < 256 by decide)
  have h23 := outletAdr_ne h hi (show 0x23 < 256 by decide)
  rw [keepDelays]
  split
  · rw [storeFind_put_other _ _ _ _ h23, storeFind_put_other _ _ _ _ h22]
  · rw [storeFind_drop_other _ _ _ h23, storeFind_drop_other _ _ _ h22]

theorem keepDelays_learned {d : Dev} {n : Fin 32} (h : d.dec.outlets[n].learned = true) (s : Store) :
    storeFind (keepDelays d s n) (outletAdr n 0x22) = some (.num d.dec.outlets[n].onDelay.value) ∧
      storeFind (keepDelays d s n) (outletAdr n 0x23) = some (.num d.dec.outlets[n].offDelay.value) := by
  have hne : outletAdr n 0x22 ≠ outletAdr n 0x23 := by
    simp only [outletAdr, adr]
    omega
  rw [keepDelays, if_pos h]
  exact ⟨by rw [storeFind_put_other _ _ _ _ hne, storeFind_put_same], storeFind_put_same _ _ _⟩

theorem foldl_keepDelays_other {d : Dev} {k : Fin 32} {i : Nat} (hi : i < 256) :
    ∀ (l : List (Fin 32)) (s : Store), k ∉ l → storeFind (l.foldl (keepDelays d) s) (outletAdr k i) = storeFind s (outletAdr k i)
  | [], _, _ => rfl
  | n :: r, s, h => by
    obtain ⟨hn, hr⟩ := not_or.mp (mt List.mem_cons.mpr h)
    rw [List.foldl_cons, foldl_keepDelays_other hi r _ hr, keepDelays_other hn hi]

theorem foldl_keepDelays_learned {d : Dev} {n : Fin 32} (h : d.dec.outlets[n].learned = true) :
    ∀ (l : List (Fin 32)) (s : Store), n ∈ l → l.Nodup →
      storeFind (l.foldl (keepDelays d) s) (outletAdr n 0x22) = some (.num d.dec.outlets[n].onDelay.value) ∧
        storeFind (l.foldl (keepDelays d) s) (outletAdr n 0x23) = some (.num d.dec.outlets[n].offDelay.value)
  | k :: r, s, hmem, hl => by
    obtain ⟨hk, hr⟩ := List.nodup_cons.mp hl
    rw [List.foldl_cons]
    by_cases hn : n = k
    · subst hn
      rw [foldl_keepDelays_other (by decide) r _ hk, foldl_keepDelays_other (by decide) r _ hk]
      exact keepDelays_learned h s
    · exact foldl_keepDelays_learned h r _ ((List.mem_cons.mp hmem).resolve_left hn) hr

theorem learnedDelayCommit_holds : Rules.learnedDelayCommit.Holds := by
  refine Rule.holds_logic _ (fun a _ => a.2) (fun _ _ => Dev.commitDelays) (by rintro t c s rfl -; rfl) (fun _ _ h => h.1) ?_
  rintro ⟨n, t⟩ s ⟨-, hlearned, hkept⟩
  have heff : (s.cleared t).commitDelays = ({ s.cleared t with nvm := { s.dev.nvm with
      kept := (List.finRange 32).foldl (keepDelays (s.cleared t)) s.dev.nvm.kept } } : Dev).bump 0x310004 := rfl
  rw [heff]
  obtain ⟨hon, hoff⟩ := foldl_keepDelays_learned (d := s.cleared t) hlearned (List.finRange 32) s.dev.nvm.kept
    (List.mem_finRange n) (List.nodup_finRange 32)
  exact Effect.rule (((Effect.refl _ _ (fun _ => False) _).only (Dev.withNvm_effect _ _) (by decide)).bump (by rfl))
    (fun _ h => h.elim) ⟨rfl, hon, hoff, rfl⟩

/-- 0x2101: the row of the manual section states. -/
theorem objRow_manual (k : Fin 8) (v : Val) : ∃ r, objRow (adr 0x2101 (1 + k)) = some r ∧ r.kind = .rw ∧ r.chain = false ∧
    authenticated r (adr 0x2101 (1 + k)) = false ∧ entryKind r (adr 0x2101 (1 + k)) = 2 ∧
    roleForbids runningDev r (adr 0x2101 (1 + k)) = true := by
  fin_cases k
  all_goals exact ⟨_, rfl, rfl, rfl, rfl, rfl, rfl⟩

theorem manualSectionWrite_holds : Rules.manualSectionWrite.Holds := by
  refine Rule.holds_logicNow _ (fun a _ d => d.writeObject .host (adr 0x2101 (1 + a.1)) (.num a.2.val) false none id)
    (by rintro t c s rfl -; rfl) (fun _ _ h => h.1) ?_
  rintro ⟨k, v⟩ s hmay
  dsimp only at hmay
  obtain ⟨r, hr, hkind, hchain, hauth, hentry, -⟩ := objRow_manual k (.num v.val)
  rw [Dev.writeObject_host hmay hr hauth (hostPayload_write (by simp only [adr]; omega) _), hentry, Dev.hostForwards_own hchain,
    Dev.applyWrite, hkind]
  refine Effect.rule (sent := isAnswer) ((((Effect.refl _ _ _ _).only (Dev.hostTakes_effect _ _ _) (by decide)).putVal
    (by simp [among]) _).trans ((Dev.hostAnswers_effect _ _ _).mono (by decide) (by simp +contextual [among]) fun _ h => h))
    (fun _ h => unsent_of_isAnswer _ h) ⟨?_, hostTook_of_hostAnswers (by decide) rfl rfl⟩
  exact (Dev.int_put_other _ _ _ _ (by simp only [adr]; omega)).trans (Dev.int_put_same _ _ _)

/-- R379, R381: a write that fails its checks is aborted, which is recorded. -/
theorem Dev.writeObject_host_unchecked {s : State} (hrun : Runs s) {a : Nat} {v : Val} {r : ObjRow} (hr : objRow a = some r)
    (hauth : authenticated r a = false) {t c : Nat} (hc : writeCheck (s.cleared t) .host a v = some c) (busy : Bool)
    (state : Option Nat) (act : Dev → Dev) :
    (s.cleared t).writeObject .host a v busy state act =
      ((s.cleared t).recordAbort .host a c).hostAnswers (s.dev.nat 0x110003) (.aborted c) := by
  have hrun' : (s.cleared t).power.run ≠ .recovery := by
    rw [show (s.cleared t).power.run = .running from hrun]
    decide
  have hwrite : (s.cleared t).writeWith .host a v (s.dev.nat 0x110003) busy state act =
      (.aborted c, (s.cleared t).recordAbort .host a c) := by
    rw [Dev.writeWith, hc]
    simp only [hr, Option.any_some, hauth, Dev.spendTag, Bool.false_and, Bool.false_eq_true, if_false]
  rw [Dev.writeObject]
  simp only [if_neg hrun']
  rw [show (s.cleared t).nextSeq .host = s.dev.nat 0x110003 from rfl, hwrite]
  rfl

theorem manualSectionWheeler_holds : Rules.manualSectionWheeler.Holds := by
  refine Rule.holds_logicNow _ (fun a _ d => d.writeObject .host (adr 0x2101 (1 + a.1)) (.num a.2.val) false none id)
    (by rintro t c s rfl -; rfl) (fun _ _ h => h.1) ?_
  rintro ⟨k, v⟩ s hp
  dsimp only at hp
  obtain ⟨hrun, hlead⟩ := hp
  obtain ⟨r, hr, -, -, hauth, -, hrole⟩ := objRow_manual k (.num v.val)
  have hc : writeCheck (s.cleared s.dev.time.now) .host (adr 0x2101 (1 + k)) (.num v.val) = some 0x06010000 := by
    rw [writeCheck, hr]
    refine if_pos (Bool.or_eq_true_iff.mpr (.inl ?_))
    have hforbids : roleForbids (s.cleared s.dev.time.now) r (adr 0x2101 (1 + k)) = roleForbids runningDev r (adr 0x2101 (1 + k)) := by
      rw [roleForbids, roleForbids, if_neg (by simp only [adr]; omega), if_neg (by simp only [adr]; omega)]
      exact congrArg (fun b => r.leadOnly && !b) hlead
    exact hforbids.trans hrole
  rw [Dev.writeObject_host_unchecked hrun hr hauth hc]
  refine Effect.rule (sent := isAnswer) (((Dev.recordAbort_effect _ _ _ _).mono (by decide) (by simp +contextual [among, or_imp])
    fun _ h => h.elim).trans ((Dev.hostAnswers_effect _ _ _).mono (by decide) (by simp +contextual [among]) fun _ h => h))
    (fun _ h => unsent_of_isAnswer _ h) ?_
  have hkept : ∀ x, x ≠ 0x110003 → (((s.cleared s.dev.time.now).recordAbort .host (adr 0x2101 (1 + k)) 0x06010000).hostAnswers
      (s.dev.nat 0x110003) (.aborted 0x06010000)).int x = ((s.cleared s.dev.time.now).recordAbort .host (adr 0x2101 (1 + k))
      0x06010000).int x := fun x hx => Dev.int_put_other _ _ _ _ hx
  refine ⟨(hkept _ (by decide)).trans ?_, (hkept _ (by decide)).trans ?_, (hkept _ (by decide)).trans ?_⟩
  all_goals simp only [Dev.recordAbort, Dev.bump, Dev.int_put]
  · rfl
  · simp only [pathCode, adr]
    norm_num
    omega
  · rfl

theorem loopFeedbackRecovered_holds : Rules.loopFeedbackRecovered.Holds := by
  refine Rule.holds_logic _ (fun a _ => a.2) (fun a _ d => if d.dec.loops[a.1].feedbackLost && !d.feedbackBad a.1 then
    d.rateLoop a.1 fun x => { x with recovered := true } else d) (by rintro t c s rfl -; rfl) (fun _ _ h => h.1) ?_
  rintro ⟨k, t⟩ s hp
  dsimp only at hp
  obtain ⟨-, hlost, hgood⟩ := hp
  rw [if_pos (by simpa [show (s.cleared t).feedbackBad k = false from hgood] using hlost)]
  exact Only.rule (Dev.withDec_effect _ _) ⟨rfl, by rfl⟩

end Sys2Proof.Machine

namespace Sys2Proof

/-- Settles O19, by a lemma for each rule. -/
theorem edgesAreIssued : Obligations.EdgesAreIssued :=
  ⟨Machine.edgeIssueOn_holds, Machine.edgeIssueOff_holds, Machine.edgeIssueMeter_holds, Machine.edgeNotIssued_holds,
    Machine.missedSwitchOn_holds, Machine.negativeAckResends_holds, Machine.negativeAckDrops_holds,
    Machine.kinkReport_holds, Machine.kinkReportFallback_holds, Machine.kinkReportSlot_holds,
    Machine.learnedDelayCommit_holds, Machine.manualSectionWrite_holds, Machine.manualSectionWheeler_holds,
    Machine.loopFeedbackRecovered_holds⟩

end Sys2Proof
end

