-- ==== Sys2Proof/Proofs/TileTravel.lean ====
section
/-! PROOF. A rule of the tiles' travel that fails (R143). -/

namespace Sys2Proof.Machine

/-- A copy of tile 0 that is fetched. -/
def fetchingSlot : Slot := { index := 5, coord := 0, state := 1, role := 2, session := 0, cellSize := 1 }

/-- A transfer of tile 0 under sequence 4. -/
def tileZero : TileTransfer :=
  { session := 0, coord := 0, epoch := 0, cellSize := 1, blank := false, paintGap := false, seq := 4, marks := Vector.replicate 32 7
    record := { fill := 0x04, cells := [], rxFill := 200, rx := [] }, crcOk := true }

/-- The lead fetches tile 0, whose home is position 1, and has had a write-back of it under sequence 3. -/
def leadFetching : State :=
  ⟨{ leadDev.put 0x2A0002 0 with seq := { map := 2 }, tiles := { slots := [fetchingSlot], backSeqs := [(0, 3)] } }, []⟩

theorem tileTransfer_fails : ¬ Rules.tileTransfer.Holds := by
  refine Rule.not_holds (a := (tileZero, fetchingSlot, 7)) (s := leadFetching) rfl (by decide)
    (fun d => d.tiles.slots.map (fun x => x.state) ≠ [5]) (by decide) ?_
  rintro d ⟨-, hslots, -⟩
  have hstate := congrArg (List.map Prod.fst) hslots
  simp only [List.map_map, List.map_cons, List.map_nil] at hstate
  exact decide_eq_false fun hne => hne hstate

end Sys2Proof.Machine

namespace Sys2Proof

/-- Refutes O20: a lead that fetches a tile homed elsewhere, and has had an earlier write-back of it, takes the next transfer as
a write-back for the host, so that its fetching slot stays as it is. -/
theorem not_tilesTravel : ¬ Obligations.TilesTravel := by
  rintro ⟨-, -, htransfer, -⟩
  exact Machine.tileTransfer_fails htransfer

end Sys2Proof
end

