-- ==== Sys2Proof/Proofs/TileHome.lean ====
section
/-! PROOF. A rule of the tiles' homes that fails (R143). -/

namespace Sys2Proof.Machine

/-- A dirty home copy of tile 0 that has just been written back. -/
def writtenBackSlot : Slot := { index := 5, coord := 0, state := 3, role := 1, session := 0, cellSize := 1, sentAt := 1 }

/-- A lead that holds it, with no write-back period set. -/
def leadWrittenBack : State := ⟨{ leadDev.put 0x22000A 0 with tiles := { slots := [writtenBackSlot] } }, []⟩

theorem writeBackPeriod_fails : ¬ Rules.writeBackPeriod.Holds := by
  refine Rule.not_holds (a := (writtenBackSlot, 0)) (s := leadWrittenBack) rfl (by decide)
    (fun d => d.tiles.slots.map (fun x => x.state) ≠ [4]) (by decide) ?_
  rintro d ⟨-, hslots, -⟩
  have hstate := congrArg (List.map Prod.fst) hslots
  simp only [List.map_map, List.map_cons, List.map_nil] at hstate
  exact decide_eq_false fun hne => hne hstate

end Sys2Proof.Machine

namespace Sys2Proof

/-- Refutes O21: a dirty home copy on the lead is not written back again before its write-back period has run. -/
theorem not_tilesChangeHome : ¬ Obligations.TilesChangeHome := by
  rintro ⟨-, -, -, -, -, -, hperiod, -⟩
  exact Machine.writeBackPeriod_fails hperiod

end Sys2Proof
end

