-- ==== Sys2Proof/Proofs/HostTiles.lean ====
section
/-! PROOF. The host pages tiles and acknowledges write-backs and as-applied records (R137, R143, R147, R148, R151, R152, R468). -/

namespace Sys2Proof.Machine

theorem Dev.store_effect (d : Dev) (f : Tiles → Tiles) : Only [.tiles] d (d.store f) := d.withTiles_effect _
theorem Dev.setSlot_effect (d : Dev) (c : Nat) (f : Slot → Slot) : Only [.tiles] d (d.setSlot c f) := d.withTiles_effect _
theorem Dev.closeEntries_effect (d : Dev) (p : JEntry → Bool) : Only [.jrn] d (d.closeEntries p) := d.withJrn_effect _

/-- Table 6.1: the little-endian bytes of a number read back as it. -/
theorem leNat_leBytes : ∀ (k v : Nat), v < 256 ^ k → leNat (leBytes k v) = v
  | 0, v, h => by
    rw [leBytes, leNat]
    omega
  | k + 1, v, h => by
    have hrest : v / 256 < 256 ^ k := by
      rw [Nat.div_lt_iff_lt_mul (by decide), ← pow_succ]
      exact h
    rw [leBytes, leNat, leNat_leBytes k _ hrest, BitVec.toNat_ofNat]
    omega

theorem leBytes_len : ∀ (k v : Nat), (leBytes k v).length = k
  | 0, _ => rfl
  | k + 1, v => congrArg (· + 1) (leBytes_len k (v / 256))

/-- Table 5.11: the coordinate of a tile in the transfer format. -/
theorem leNat_tileEncode (t : TileTransfer) (h : t.coord < 2 ^ 32) : leNat ((tileEncode t).drop 4 |>.take 4) = t.coord := by
  have hdrop : (tileEncode t).drop 4 = leBytes 4 t.coord ++ (tileEncode t).drop 8 := by
    simp only [tileEncode, List.append_assoc, leBytes, List.cons_append, List.nil_append, List.drop_succ_cons, List.drop_zero]
  rw [hdrop, List.take_append_of_le_length (by rw [leBytes_len]), List.take_of_length_le (by rw [leBytes_len])]
  exact leNat_leBytes 4 _ h

/-- R143: a Fetching home copy of the one slot is filled by what its home takes. -/
theorem Dev.takeCopy_fetching {d : Dev} {t : TileTransfer} {x : Slot} (hslots : d.tiles.slots = [x]) (hcoord : x.coord = t.coord)
    (hrole : x.role = 1) (hstate : x.state = 1) (hdeltas : x.deltas = []) (hcachers : x.cachers = []) (hnone : t.cachers = [])
    (hrebuilding : x.rebuilding = false) (hfits : d.fits t = true) (hhome : d.home t.coord = d.position) :
    d.takeCopy t = (if t.blank then id else fun y : Dev => y.bump 0x220106) (d.store fun s => { s with slots := [{ x with
      record := canonicalRecord t.record, marks := d.marksOf t, epoch := d.nat 0x22010E, sequence := t.seq
      paintGap := t.paintGap, blank := t.blank, state := 2, attempts := 0, ready := false, deltas := [] }] }) := by
  have hslot : d.slotOf t.coord = some x := by
    simp [Dev.slotOf, hslots, hcoord, hrole]
  have hrole' : { x with role := 1 } = x := by
    rw [← hrole]
  rw [Dev.takeCopy]
  simp only [hslot, hhome, decide_true, Option.isNone_some, Bool.and_false, Bool.false_eq_true, if_false, if_true, hstate, hfits, hrole']
  simp only [Dev.fillSlot, hrebuilding, Bool.false_eq_true, if_false, hrole, decide_true, Bool.true_and, if_true, hdeltas,
    takeDeltas, List.foldl_nil, hcachers, hnone, List.filter_nil, List.append_nil, Dev.sendCopies]
  cases hblank : t.blank
  all_goals simp [Dev.setSlot, Dev.store, hslots, hrole, hcoord, hrebuilding, hcachers]

/-- R143, R147: the lead notes that a tile has been given to its home, with the sequence of its write-backs. -/
def Dev.noteTile (d : Dev) (t : TileTransfer) : Dev :=
  (d.windowTile t.coord fun w => { w with held := true, queued := none }).noteSequence t.coord t.seq

theorem Dev.noteTile_effect (d : Dev) (t : TileTransfer) : Only [.tiles] d (d.noteTile t) :=
  (d.store_effect fun s => { s with window := s.window.map fun w => if w.coord = t.coord then { w with held := true, queued := none } else w }).trans
    (Dev.store_effect _ fun s => { s with backSeqs := (s.backSeqs.filter fun x => x.1 ≠ t.coord) ++ [(t.coord, t.seq)] })

theorem Dev.giveTile_own {d : Dev} {t : TileTransfer} (hhome : d.home t.coord = d.position) :
    d.giveTile t = (d.noteTile t).takeCopy t :=
  if_pos hhome

theorem Dev.takeCopy_fetching_effect {d : Dev} (b : Bool) (f : Tiles → Tiles) :
    Effect [.tiles] (among [0x220106]) (fun _ => False) d ((if b then id else fun y : Dev => y.bump 0x220106) (d.store f)) := by
  cases b
  · exact ((Effect.refl _ _ _ d).only (d.store_effect f) (by decide)).bump (by rfl)
  · exact (d.store_effect f).mono (fun _ h => h)

theorem Dev.takeCopy_fetching_jrn {d : Dev} (b : Bool) (f : Tiles → Tiles) :
    ((if b then id else fun y : Dev => y.bump 0x220106) (d.store f)).jrn = d.jrn ∧
      ((if b then id else fun y : Dev => y.bump 0x220106) (d.store f)).que = d.que ∧
      ((if b then id else fun y : Dev => y.bump 0x220106) (d.store f)).tiles = f d.tiles := by
  cases b <;> exact ⟨rfl, rfl, rfl⟩

section

variable {ps : List Part} {objs : Nat → Bool} {sent : Emit → Prop} {a b : Dev}

theorem Effect.home (h : Effect ps objs sent a b) (hps : .seq ∉ ps) (c : Nat) : b.home c = a.home c := by
  rw [Dev.home, ← h.frame .seq hps, Dev.home]

theorem Effect.position (h : Effect ps objs sent a b) (hx : objs 0x2A0002 = false) : b.position = a.position :=
  h.nat hx

theorem Effect.fits (h : Effect ps objs sent a b) (hsession : objs 0x220002 = false) (hsize : objs 0x220001 = false)
    (t : TileTransfer) : b.fits t = a.fits t := by
  rw [Dev.fits, Dev.session, h.nat hsession, h.nat hsize, Dev.fits, Dev.session]

end

theorem tileInWrite_holds : Rules.tileInWrite.Holds := by
  refine Rule.holds_logicNow _ (fun a _ d => d.writeObject .host 0x220202 (.bytes (tileEncode a.1)) d.transferFull none (tileInAct a.1))
    (by rintro t c s rfl -; rfl) (fun _ _ h => h.1.1) ?_
  rintro ⟨t, x⟩ s hp
  dsimp only at hp
  obtain ⟨hmay, -, htransfer, hcoord, hpages, hfits, hhome, hslots, hx, hrole, hstate, hdeltas, hcachers, hnone, hrebuilding⟩ := hp
  have hfull : (s.cleared s.dev.time.now).transferFull = false := by
    simp [Dev.transferFull, htransfer]
  have hpayload : hostPayload 0x220202 (.bytes (tileEncode t)) = .tile t.coord :=
    congrArg Payload.tile (leNat_tileEncode t hcoord)
  rw [hfull]
  rw [Dev.writeObject_host_action hmay rfl rfl rfl rfl hpayload (k := 4) rfl]
  have hD := (s.cleared s.dev.time.now).hostTakes_effect 4 (.tile t.coord)
  generalize hD' : (s.cleared s.dev.time.now).hostTakes 4 (.tile t.coord) = D at hD
  obtain ⟨E, hE'⟩ : ∃ E : Dev, E = { D with que := { D.que with pages := D.que.pages.filter (· ≠ t.coord) } } := ⟨_, rfl⟩
  have hE : Only [.que] D E := hE' ▸ D.withQue_effect _
  have hDE : Only [.jrn, .que] (s.cleared s.dev.time.now) E := (hD.mono (by decide)).trans (hE.mono (by decide))
  have hF : Only [.jrn, .que, .tiles] (s.cleared s.dev.time.now) (E.noteTile t) :=
    (hDE.mono (by decide)).trans ((E.noteTile_effect t).mono (by decide))
  have hpagesD : D.que.pages = [t.coord] := (congrArg Queues.pages (hD.frame .que (by decide))).symm.trans hpages
  have hknown : tileInAct t D = (E.noteTile t).takeCopy t := by
    have hhomeE : E.home t.coord = E.position := (hDE.home (by decide) _).trans (hhome.trans (hDE.position rfl).symm)
    rw [tileInAct, if_neg (by simp [(hD.fits rfl rfl t).trans hfits, hpagesD]), ← hE']
    simp only [hhomeE, if_true]
    exact Dev.giveTile_own hhomeE
  have htake := Dev.takeCopy_fetching (d := E.noteTile t) (t := t) (x := x)
    ((congrArg Tiles.slots (hDE.frame .tiles (by decide))).symm.trans hslots) hx hrole hstate hdeltas hcachers hnone
    hrebuilding ((hF.fits rfl rfl t).trans hfits) ((hF.home (by decide) _).trans (hhome.trans (hF.position rfl).symm))
  rw [hknown, htake]
  refine Effect.host_rule (t := s.dev.time.now) (k := 4) (p := .tile t.coord) ?_ (by decide) rfl
    ⟨hostTook_of_hostAnswers (t := s.dev.time.now) (by decide) ?_ ?_, ?_, ?_⟩
  · rw [hD']
    exact ((hE.mono (by decide)).trans ((E.noteTile_effect t).mono (by decide))).trans
      ((Dev.takeCopy_fetching_effect _ _).mono (by decide) (by simp +contextual [among]) fun _ h => h.elim)
  · cases t.blank <;> rw [hD', hE'] <;> rfl
  · cases t.blank <;> rw [hD', hE'] <;> rfl
  · cases t.blank <;> rw [hE'] <;> simp [hpagesD] <;> rfl
  · cases t.blank <;> exact congrArg (fun r => [(2, r, canonicalRecord t.record)]) hrole

theorem tileInBusy_holds : Rules.tileInBusy.Holds := by
  refine Rule.holds_logicNow _ (fun a _ d => d.writeObject .host 0x220202 (.bytes (tileEncode a)) d.transferFull none (tileInAct a))
    (by rintro t c s rfl -; rfl) (fun _ _ h => h.1.1) ?_
  rintro t s ⟨hmay, hlength⟩
  have hfull : (s.cleared s.dev.time.now).transferFull = true := by
    simp [Dev.transferFull, hlength]
  rw [hfull, Dev.writeObject_host_busy hmay rfl rfl]
  refine Effect.rule (sent := isAnswer) ((((Effect.refl _ _ _ _).bump (by rfl)).bump (by rfl)).trans
    ((Dev.answerWrite_host_effect _ _).mono (by decide) (fun _ h => absurd h Bool.false_ne_true) fun _ h => h))
    (fun _ h => unsent_of_isAnswer _ h) ⟨?_, ?_⟩
  · obtain ⟨y, hy⟩ : ∃ y, y = ((s.cleared s.dev.time.now).bump 0x320008).bump 0x11000B := ⟨_, rfl⟩
    rw [← hy]
    have hout : Emit.answer .host (y.statusByte 3 false) 0 (.num 0) ∈ (y.answerWrite .host .busy).out :=
      List.mem_append_right _ (List.mem_singleton_self _)
    have hstatus : y.statusByte 3 false = 3 ∨ y.statusByte 3 false = 131 := by
      rw [Dev.statusByte]
      cases y.nirq
      · exact .inl rfl
      · exact .inr rfl
    rcases hstatus with hb | hb
    · exact .inl (hb ▸ hout)
    · exact .inr (hb ▸ hout)
  · exact (Dev.int_put_other _ _ _ _ (by decide)).trans (Dev.int_put_same _ _ _)

theorem tileAbsentWrite_holds : Rules.tileAbsentWrite.Holds := by
  refine Rule.holds_logicNow _ (fun a _ d => d.writeObject .host 0x220203 (.num a.1.coord) false none (tileAbsentAct a.1.coord))
    (by rintro t c s rfl -; rfl) (fun _ _ h => h.1.1) ?_
  rintro ⟨x, cls⟩ s hp
  dsimp only at hp
  obtain ⟨hmay, -, hhome, hslots, hrole, hstate, hdeltas, hcachers, hrebuilding, hclass⟩ := hp
  rw [Dev.writeObject_host_action hmay rfl rfl rfl rfl (hostPayload_write (by decide) _) (k := 3) rfl]
  have hD := (s.cleared s.dev.time.now).hostTakes_effect 3 (.write 0x220203 (.num x.coord))
  generalize hD' : (s.cleared s.dev.time.now).hostTakes 3 (.write 0x220203 (.num x.coord)) = D at hD
  obtain ⟨E, hE'⟩ : ∃ E : Dev, E = { D with que := { D.que with pages := D.que.pages.filter (· ≠ x.coord) } } := ⟨_, rfl⟩
  have hE : Only [.que] D E := hE' ▸ D.withQue_effect _
  have hDE : Only [.jrn, .que] (s.cleared s.dev.time.now) E := (hD.mono (by decide)).trans (hE.mono (by decide))
  obtain ⟨t, ht⟩ : ∃ t, t = D.blankTile x.coord := ⟨_, rfl⟩
  have hcoord : x.coord = t.coord := by rw [ht]; rfl
  have hF : Only [.jrn, .que, .tiles] (s.cleared s.dev.time.now) (E.noteTile t) :=
    (hDE.mono (by decide)).trans ((E.noteTile_effect t).mono (by decide))
  have hact : tileAbsentAct x.coord D = (E.noteTile t).takeCopy t := by
    rw [tileAbsentAct, ← hE', ← ht]
    exact Dev.giveTile_own ((hDE.home (by decide) _).trans (hcoord ▸ hhome.trans (hDE.position rfl).symm))
  have hfits : (E.noteTile t).fits t = true := by
    rw [hF.fits rfl rfl t, ← hD.fits rfl rfl t, ht]
    simp [Dev.fits, Dev.blankTile]
  have htake := Dev.takeCopy_fetching (d := E.noteTile t) (t := t) (x := x)
    ((congrArg Tiles.slots (hDE.frame .tiles (by decide))).symm.trans hslots) hcoord hrole hstate hdeltas hcachers (by rw [ht]; rfl)
    hrebuilding hfits ((hF.home (by decide) _).trans (hcoord ▸ hhome.trans (hF.position rfl).symm))
  have hblank : t.blank = true := by rw [ht]; rfl
  rw [hact, htake, hblank, if_pos rfl]
  refine Effect.host_rule (t := s.dev.time.now) (k := 3) (p := .write 0x220203 (.num x.coord)) ?_ (by decide) rfl
    ⟨hostTook_of_hostAnswers (t := s.dev.time.now) (by decide) ?_ ?_, ?_, ?_⟩
  · rw [hD']
    exact Only.mono (((hE.mono (qs := [.que, .tiles]) (by decide)).trans ((E.noteTile_effect t).mono (by decide))).trans
      ((Dev.store_effect _ _).mono (by decide))) (by decide)
  · rw [hD', hE']
    rfl
  · rw [hD', hE']
    rfl
  · rw [hE', ← hD']
    rfl
  · have hclassD : D.nat 0x220006 = cls := (hD.nat rfl).trans hclass
    have hepoch : t.epoch = (E.noteTile t).nat 0x22010E := by
      rw [hF.nat rfl, ← hD.nat rfl, ht]
      rfl
    have hmarks : (E.noteTile t).marksOf t = Vector.replicate 32 0xFFFFFFFF := by
      rw [Dev.marksOf, if_pos hepoch, ht]
      rfl
    have hrecord : canonicalRecord t.record = blankRecord cls := by
      rw [ht, ← hclassD]
      rfl
    rw [hmarks, hrecord]
    rfl

theorem writeBackAcknowledge_holds : Rules.writeBackAcknowledge.Holds := by
  refine Rule.holds_logicNow _ (fun a _ d => d.writeObject .host 0x220205 (.bytes (leBytes 4 a.coord ++ leBytes 4 a.sequence)) false none
    (writeBackAckAct a.coord a.sequence)) (by rintro t c s rfl -; rfl) (fun _ _ h => h.1.1) ?_
  rintro x s ⟨hmay, -, hhome, hslots, hrole, hstate, houtside, hdirty⟩
  rw [Dev.writeObject_host_action hmay rfl rfl rfl rfl (hostPayload_write (by decide) _) (k := 3) rfl]
  have hD := (s.cleared s.dev.time.now).hostTakes_effect 3 (.write 0x220205 (.bytes (leBytes 4 x.coord ++ leBytes 4 x.sequence)))
  generalize hD' : (s.cleared s.dev.time.now).hostTakes 3 (.write 0x220205 (.bytes (leBytes 4 x.coord ++ leBytes 4 x.sequence))) = D at hD
  obtain ⟨E, hE'⟩ : ∃ E : Dev, E = { D with que := { D.que with
    writeBacks := D.que.writeBacks.filter fun w => !(w.item.coord = x.coord && w.item.seq = x.sequence) } } := ⟨_, rfl⟩
  have hE : Only [.que] D E := hE' ▸ D.withQue_effect _
  have hslotsE : E.tiles.slots = [x] :=
    ((congrArg Tiles.slots ((hD.mono (objs := fun _ => false) (sent := fun _ => False) (qs := [.jrn, .que]) (by decide)).trans
      (hE.mono (by decide))|>.frame .tiles (by decide))).symm).trans hslots
  have hact : writeBackAckAct x.coord x.sequence D = E.store fun s => { s with slots := [{ x with state := 2, sentCopy := none }] } := by
    have hdone : E.writeBackDone x.coord x.sequence = E.store fun s => { s with slots := [{ x with state := 2, sentCopy := none }] } := by
      rw [Dev.writeBackDone, hslotsE]
      simp [hstate, hrole, houtside, hdirty, Dev.setSlot, hslotsE, Dev.store]
    rw [writeBackAckAct, ← hE']
    simp only [hdone]
    refine if_pos ?_
    rw [(Dev.store_effect _ _).home (by decide), (Dev.store_effect _ _).position rfl, hE.home (by decide), hE.position rfl,
      hD.home (by decide), hD.position rfl]
    exact hhome
  rw [hact]
  refine Effect.host_rule (t := s.dev.time.now) (k := 3) (p := .write 0x220205 (.bytes (leBytes 4 x.coord ++ leBytes 4 x.sequence))) ?_
    (by decide) rfl ⟨?_, ?_⟩
  · rw [hD']
    exact Only.mono ((hE.mono (qs := [.que, .tiles]) (by decide)).trans ((Dev.store_effect _ _).mono (by decide))) (by decide)
  · rw [hE', ← hD']
    rfl
  · rw [hE']
    exact List.all_eq_true.mpr fun e he => (List.mem_filter.mp he).2

theorem asAppliedAcknowledge_holds : Rules.asAppliedAcknowledge.Holds := by
  refine Rule.holds_logicNow _ (fun a _ d => d.writeObject .host 0x220207 (.bytes (leBytes 1 a.position ++ leBytes 3 0 ++ leBytes 4 a.seq))
    false none (appliedAckAct a.position a.seq)) (by rintro t c s rfl -; rfl) (fun _ _ h => h.1.1) ?_
  rintro x s ⟨hmay, -, hposition, hrecords⟩
  obtain ⟨b, hb⟩ : ∃ b, b = leBytes 1 x.position ++ leBytes 3 0 ++ leBytes 4 x.seq := ⟨_, rfl⟩
  rw [← hb] at hmay ⊢
  rw [Dev.writeObject_host_action hmay rfl rfl rfl rfl (hostPayload_write (by decide) _) (k := 3) rfl]
  have hD := (s.cleared s.dev.time.now).hostTakes_effect 3 (.write 0x220207 (.bytes b))
  generalize hD' : (s.cleared s.dev.time.now).hostTakes 3 (.write 0x220207 (.bytes b)) = D at hD
  obtain ⟨E, hE'⟩ : ∃ E : Dev, E = { D with que := { D.que with
    applied := D.que.applied.filter fun q => !(q.item.position = x.position && q.item.seq = x.seq) } } := ⟨_, rfl⟩
  have hE : Only [.que] D E := hE' ▸ D.withQue_effect _
  have hact : appliedAckAct x.position x.seq D = ((E.store fun s => { s with records := s.records.filter fun r => r.1.seq ≠ x.seq }).closeEntries
      fun e => e.kind = 10 && e.seq = x.seq).put 0x22010C x.seq := by
    rw [appliedAckAct, ← hE']
    exact if_pos (hposition.trans ((hE.position rfl).trans (hD.position rfl)).symm)
  rw [hact]
  refine Effect.host_rule (t := s.dev.time.now) (k := 3) (p := .write 0x220207 (.bytes b)) ?_
    (by decide) rfl ⟨?_, ?_, ?_, ?_⟩
  · rw [hD']
    exact Effect.put ((((hE.mono (by decide)).trans ((Dev.store_effect _ _).mono (by decide)))).trans
      ((Dev.closeEntries_effect _ _).mono (by decide))) (by rfl) _
  · have hnone : s.dev.tiles.records.filter (fun r => r.1.seq ≠ x.seq) = [] := by simp [hrecords]
    rw [← hnone, hE', ← hD']
    rfl
  · rw [Dev.hostAnswers_int _ _ _ (by decide)]
    exact Dev.int_put_same _ _ _
  · rw [hE']
    exact List.all_eq_true.mpr fun e he => (List.mem_filter.mp he).2
  · exact List.all_eq_true.mpr fun e he => (List.mem_filter.mp he).2

theorem asAppliedReoffer_holds : Rules.asAppliedReoffer.Holds := by
  refine Rule.holds_logic _ (fun a _ => a.2.2) (fun _ _ => appliedReofferEff) (by rintro t c s rfl -; rfl) (fun _ _ h => h.1) ?_
  rintro ⟨x, at_, t⟩ s hp
  dsimp only at hp
  obtain ⟨-, hlead, hrecords, happlied, hlong⟩ := hp
  have heff : appliedReofferEff (s.cleared t) =
      { s.cleared t with que := { s.dev.que with applied := [⟨x, false, s.nowAt t⟩] } } := by
    simp [appliedReofferEff, hrecords, happlied, Dev.offerRecord, show (s.cleared t).isLead = true from hlead, hlong]
  rw [heff]
  exact Only.rule (Dev.withQue_effect _ _) ⟨rfl, rfl⟩

theorem recordSigned_holds : Rules.recordSigned.Holds := by
  refine Rule.holds_logic _ (fun a _ => a.2) (fun a _ d => recordSignedEff d a.1.seq) (by rintro t c s rfl -; rfl) (fun _ _ h => h.1) ?_
  rintro ⟨x, t⟩ s hp
  dsimp only at hp
  obtain ⟨-, hrecords, hsigned⟩ := hp
  have heff : recordSignedEff (s.cleared t) x.seq = (((s.cleared t).bump 0x310401).store fun y => { y with records := [(x, 1)] }).journal
      (s.dev.entry 10 0x15 x.seq 0 false (.asApplied x)) := by
    simp [recordSignedEff, hrecords, hsigned, Dev.journalApplied, Dev.bump, Dev.put, Dev.putVal, Dev.store, Dev.entry]
  rw [heff]
  exact Effect.rule (sent := fun _ => False) ((((Effect.refl _ _ _ _).bump (by rfl)).only (Dev.store_effect _ _) (by decide)).only
    (Dev.withJrn_effect _ _) (by decide)) (fun _ h => h.elim) ⟨rfl, rfl, rfl, rfl, Dev.int_put_same _ _ _⟩

/-- R151: what the hold limit does to an outlet that is on and has no edge in its queue. -/
theorem mapMissHoldLimit_holds : Rules.mapMissHoldLimit.Holds := by
  refine Rule.holds_logic _ (fun a _ => a.2) (fun a _ d =>
    let x := d.dec.outlets[a.1]
    let ended := d.nat 0x220003 = 1 && d.automatic && x.missSince.any fun m => m + 1000 * d.nat 0x220004 ≤ d.chain
    if ended then
      let locked := x.edges.filter fun e => e.instant < d.te
      let on := (settle d.te { on := x.on, lastOn := x.lastOn, lastOff := x.lastOff } locked).on
      let off : List Edge := if on then [{ instant := d.nextBoundary, kind := 2, source := 0, free := true }] else []
      d.outlet a.1 fun x => { x with edges := locked ++ off, sweepOn := false }
    else d) (by rintro t c s rfl -; rfl) (fun _ _ h => h.1) ?_
  rintro ⟨n, t⟩ s hp
  dsimp only at hp
  obtain ⟨-, hpolicy, hauto, hon, hedges, hmiss⟩ := hp
  have hended : ((s.cleared t).nat 0x220003 = 1 && (s.cleared t).automatic && (s.cleared t).dec.outlets[n].missSince.any
      fun m => m + 1000 * (s.cleared t).nat 0x220004 ≤ (s.cleared t).chain) = true := by
    simp only [Bool.and_eq_true, decide_eq_true_eq]
    refine ⟨⟨hpolicy, hauto⟩, ?_⟩
    rw [State.cleared_chain]
    exact hmiss
  have hnone : (s.cleared t).dec.outlets[n].edges = [] := hedges
  dsimp only
  rw [if_pos hended, hnone]
  simp only [List.filter_nil, settle, show (s.cleared t).dec.outlets[n].on = true from hon, if_true, List.nil_append]
  exact Only.rule (r := Rules.mapMissHoldLimit) (a := (n, t)) (Dev.outlet_effect _ _ _)
    ⟨rfl, fun k hk => updateAt_other _ _ hk, updateAt_same _ _ _⟩

end Sys2Proof.Machine

namespace Sys2Proof

/-- Settles O22, by a lemma for each rule. -/
theorem hostPagesTiles : Obligations.HostPagesTiles :=
  ⟨Machine.tileInWrite_holds, Machine.tileInBusy_holds, Machine.tileAbsentWrite_holds,
    Machine.writeBackAcknowledge_holds, Machine.asAppliedAcknowledge_holds, Machine.asAppliedReoffer_holds,
    Machine.recordSigned_holds, Machine.mapMissHoldLimit_holds⟩

end Sys2Proof
end

