-- ==== Sys2Proof/Proofs/TargetEntry.lean ====
section
/-! PROOF. A rule of the entering targets that fails (R159, R171). -/

namespace Sys2Proof.Machine

/-- A target that waits for its share to go to position 4, as the intake device 7 before has left it. -/
def inheritedIntake : Intake :=
  let r : TargetRec := { seq := 9, form := 0, cls := 2, dose := 0, capture := 0, posA := 5, posB := 6, halfLength := 60, halfWidth := 60
                         orientation := 0, camSegment := 0, camX := 0, camY := 0, camYaw := 0 }
  { source := 3, record := r, stage := 3, form0 := r, unsent := [4], origin := some 7 }

/-- An intake device that holds it. -/
def intakeHeir : State := ⟨{ runningDev.put 0x2A0002 0 with tgt := { intake := [inheritedIntake] } }, []⟩

theorem shareCredit_fails : ¬ Rules.shareCredit.Holds := by
  refine Rule.not_holds (a := (4, 1, inheritedIntake, 0)) (s := intakeHeir) rfl (by decide)
    (fun d => !decide (Rules.Leaves d (.share 4 ⟨0, 3, inheritedIntake.form0⟩))) (by decide) ?_
  rintro d ⟨-, hleaves⟩
  exact congrArg not (decide_eq_true hleaves)

end Sys2Proof.Machine

namespace Sys2Proof

/-- Refutes O23: the share of a target that a new lead has taken over leaves under the intake device before, by whose key its owners
know it, and not under the device that sends it. -/
theorem not_targetsEnter : ¬ Obligations.TargetsEnter := by
  rintro ⟨-, -, -, -, -, -, -, hcredit⟩
  exact Machine.shareCredit_fails hcredit

end Sys2Proof
end

