-- ==== Sys2Proof/Proofs/TargetClose.lean ====
section
/-! PROOF. A rule of the closing targets that fails (R168). -/

namespace Sys2Proof.Machine

/-- The share of a target of the host, from the intake device 5. -/
def hostShare : PendingShare :=
  { share := ⟨5, 16, inheritedIntake.record⟩, takenAt := 0, batch := 2 }

/-- A wheeler at position 0 under a lead at position 2, at the end of the longest pending time. -/
def ownerOfHostShare : State :=
  ⟨{ (runningDev.put 0x2A0002 0).put 0x230003 0 with
      seq := { map := 63, leadAt := 2 }, tgt := { store := [hostShare] } }, []⟩

theorem shareExpiry_fails : ¬ Rules.shareExpiry.Holds := by
  refine Rule.not_holds (a := (hostShare, 0)) (s := ownerOfHostShare) rfl (by decide)
    (fun d => !decide (Rules.Leaves d (.shareConfirmation 5 ⟨16, 5, 0xFFFF, 9, 0, 0, 0⟩))) (by decide) ?_
  rintro d ⟨-, -, hleaves, -⟩
  exact congrArg not (decide_eq_true hleaves)

end Sys2Proof.Machine

namespace Sys2Proof

/-- Refutes O24: the closing result of a share of a target of the host goes to the lead, and not to its intake device where that
is not the lead. -/
theorem not_targetsClose : ¬ Obligations.TargetsClose := by
  rintro ⟨-, -, -, hexpiry, -⟩
  exact Machine.shareExpiry_fails hexpiry

end Sys2Proof
end

