-- ==== Sys2Proof/Proofs/Tasks.lean ====
section
/-! PROOF. A rule of the tasks that fails (R180, Table 7.7). -/

namespace Sys2Proof.Machine

/-- The re-run of an audit of a Phase B task. -/
def auditTask : Task :=
  { number := 3, kernel := 2, variant := 0, outlet := some 3, index := 0, batch := 40, cost := 300, home := 6, after := [], audit := true }

/-- Dray 6 runs it while Phase B is open. -/
def auditing : State :=
  ⟨{ runningDev with seq := { number := 40 }, eng := { open_ := true, drays := (Vector.replicate 64 {}).set 6 { running := some auditTask } } },
    []⟩

theorem taskResultWrite_fails : ¬ Rules.taskResultWrite.Holds := by
  refine Rule.not_holds (a := (6, auditTask, 0)) (s := auditing) rfl (by decide) (fun d => d.eng.written = []) (by decide) ?_
  rintro d ⟨-, heng⟩
  rw [heng]
  exact decide_eq_false (List.append_ne_nil_of_right_ne_nil _ (List.cons_ne_nil _ _))

end Sys2Proof.Machine

namespace Sys2Proof

/-- Refutes O25: the result of the re-run of an audit, written while Phase B is open, is compared and not kept as a result of the
batch. -/
theorem not_tasksRun : ¬ Obligations.TasksRun := by
  rintro ⟨-, -, -, -, -, hresult, -⟩
  exact Machine.taskResultWrite_fails hresult

end Sys2Proof
end

