-- ==== Sys2Proof/Proofs/Drays.lean ====
section
/-! PROOF. A rule of the drays that fails (R187, R188). -/

namespace Sys2Proof.Machine

/-- A dray at work with a task in its queue, among 64 working drays. -/
def loadedDray : State :=
  ⟨{ runningDev with eng := { drays := (Vector.replicate 64 {}).set 6 { queue := [{ auditTask with audit := false }] } } }, []⟩

theorem drayFaultSelfTest_fails : ¬ Rules.drayFaultSelfTest.Holds := by
  refine Rule.not_holds (a := (6, 0)) (s := loadedDray) rfl (by decide)
    (fun d => !decide (Rules.onlyDray 6 loadedDray.dev d)) (by decide +kernel) ?_
  rintro d ⟨honly, -⟩
  exact congrArg not (decide_eq_true honly)

end Sys2Proof.Machine

namespace Sys2Proof

/-- Refutes O26: a dray that is retired with a task in its queue gives it to another dray, so that not the retired one alone
differs. -/
theorem not_draysAreQuarantined : ¬ Obligations.DraysAreQuarantined := by
  rintro ⟨-, -, hretired, -⟩
  exact Machine.drayFaultSelfTest_fails hretired

end Sys2Proof
end

