-- ==== Sys2Proof/Proofs/Channels.lean ====
section
/-! PROOF. A valve channel switches on and off: peaks, waits, slots and rates (R192, R196, R198, R202, R206). -/

namespace Sys2Proof.Machine

/-! ### Channels and banks -/

theorem Dev.channel_effect (d : Dev) (ch : Fin 32) (f : Channel → Channel) : Only [.valve] d (d.channel ch f) := d.withValve_effect _

@[simp] theorem Dev.channel_same (d : Dev) (ch : Fin 32) (f : Channel → Channel) :
    (d.channel ch f).valve.channels[(ch : Nat)] = f d.valve.channels[(ch : Nat)] :=
  updateAt_same _ _ _

@[simp] theorem Dev.channel_other (d : Dev) {ch k : Fin 32} (f : Channel → Channel) (h : k ≠ ch) :
    (d.channel ch f).valve.channels[(k : Nat)] = d.valve.channels[(k : Nat)] :=
  updateAt_other _ _ h

@[simp] theorem Dev.channel_banks (d : Dev) (ch : Fin 32) (f : Channel → Channel) : (d.channel ch f).valve.banks = d.valve.banks := rfl
@[simp] theorem Dev.channel_boost (d : Dev) (ch : Fin 32) (f : Channel → Channel) : (d.channel ch f).valve.boost = d.valve.boost := rfl
@[simp] theorem Dev.channel_pd (d : Dev) (ch : Fin 32) (f : Channel → Channel) : (d.channel ch f).pd = d.pd := rfl
@[simp] theorem Dev.channel_out (d : Dev) (ch : Fin 32) (f : Channel → Channel) : (d.channel ch f).out = d.out := rfl
@[simp] theorem Dev.channel_nat (d : Dev) (ch : Fin 32) (f : Channel → Channel) (a : Nat) : (d.channel ch f).nat a = d.nat a := rfl
@[simp] theorem Dev.channel_int (d : Dev) (ch : Fin 32) (f : Channel → Channel) (a : Nat) : (d.channel ch f).int a = d.int a := rfl
@[simp] theorem Dev.channel_chain (d : Dev) (ch : Fin 32) (f : Channel → Channel) : (d.channel ch f).chain = d.chain := rfl

@[simp] theorem Dev.bank_same (d : Dev) (b : Fin 4) (f : Bank → Bank) : (d.bank b f).valve.banks[(b : Nat)] = f d.valve.banks[(b : Nat)] :=
  updateAt_same _ _ _

@[simp] theorem Dev.bank_other (d : Dev) {b k : Fin 4} (f : Bank → Bank) (h : k ≠ b) :
    (d.bank b f).valve.banks[(k : Nat)] = d.valve.banks[(k : Nat)] :=
  updateAt_other _ _ h

@[simp] theorem Dev.bank_channels (d : Dev) (b : Fin 4) (f : Bank → Bank) : (d.bank b f).valve.channels = d.valve.channels := rfl
@[simp] theorem Dev.bank_boost (d : Dev) (b : Fin 4) (f : Bank → Bank) : (d.bank b f).valve.boost = d.valve.boost := rfl
@[simp] theorem Dev.bank_pd (d : Dev) (b : Fin 4) (f : Bank → Bank) : (d.bank b f).pd = d.pd := rfl
@[simp] theorem Dev.bank_out (d : Dev) (b : Fin 4) (f : Bank → Bank) : (d.bank b f).out = d.out := rfl

/-! ### Frames that have come -/

/-- R22: the device with other commands of the power die left. -/
def State.framed (s : State) (t : Nat) (cs : List PlFrame) : Dev := { s.cleared t with pd := { s.dev.pd with commands := cs } }

theorem State.framed_effect (s : State) (t : Nat) (cs : List PlFrame) : Only [.pd] (s.cleared t) (s.framed t cs) :=
  Dev.withPd_effect _ _

@[simp] theorem State.framed_valve (s : State) (t : Nat) (cs : List PlFrame) : (s.framed t cs).valve = s.dev.valve := rfl
@[simp] theorem State.framed_out (s : State) (t : Nat) (cs : List PlFrame) : (s.framed t cs).out = [] := rfl
@[simp] theorem State.framed_pd (s : State) (t : Nat) (cs : List PlFrame) : (s.framed t cs).pd = { s.dev.pd with commands := cs } := rfl
@[simp] theorem State.framed_int (s : State) (t : Nat) (cs : List PlFrame) (a : Nat) : (s.framed t cs).int a = s.dev.int a := rfl
@[simp] theorem State.framed_nat (s : State) (t : Nat) (cs : List PlFrame) (a : Nat) : (s.framed t cs).nat a = s.dev.nat a := rfl
@[simp] theorem State.framed_chain (s : State) (t : Nat) (cs : List PlFrame) : (s.framed t cs).chain = s.chainAt t := rfl

theorem State.framed_own (s : State) (t : Nat) : s.framed t s.dev.pd.commands = s.cleared t := rfl

theorem Dev.onFrame_due {s : State} {t : Nat} {p : PlAction → Bool} (h : s.due t p = true) (f : Dev → Dev) :
    ∃ cs, (s.cleared t).onFrame p f = f (s.framed t cs) :=
  ⟨_, if_pos h⟩

theorem Dev.onFrame_undue {s : State} {t : Nat} {p : PlAction → Bool} (h : s.undue t p = true) (f : Dev → Dev) :
    (s.cleared t).onFrame p f = s.cleared t := by
  have hnone : ∀ x ∈ s.dev.pd.commands, (p x.action && decide (x.instant ≤ ((s.cleared t).chain : Int))) = false := by
    intro x hx
    rw [State.cleared_chain]
    exact Bool.not_eq_true' _ ▸ List.all_eq_true.mp h x hx
  have hdue : (s.cleared t).frameDue p = false := by
    rw [Dev.frameDue, List.any_eq_false]
    intro x hx
    rw [hnone x hx]
    simp
  have htake : (s.cleared t).takeFrames p = s.cleared t := by
    rw [Dev.takeFrames, List.filter_eq_self.mpr fun x hx => by rw [hnone x hx]; rfl]
  rw [Dev.onFrame, hdue, htake]
  rfl

theorem State.undue_mono {s : State} {t : Nat} {p q : PlAction → Bool} (h : s.undue t p = true) (hq : ∀ a, q a = true → p a = true) :
    s.undue t q = true := by
  rw [State.undue, List.all_eq_true] at h ⊢
  intro x hx
  have := h x hx
  cases hqx : q x.action
  · rfl
  · rwa [hq _ hqx] at this

theorem Dev.soonerOff_undue {s : State} {t : Nat} {ch : Fin 32} (h : s.undue t (· = .valveOff ch) = true) :
    (s.cleared t).soonerOff ch = s.cleared t :=
  Dev.onFrame_undue h _

theorem ofChannel_off (ch : Fin 32) : ∀ a : PlAction, decide (a = .valveOff ch) = true → ofChannel ch a = true := by
  rintro a h
  rw [of_decide_eq_true h]
  exact decide_eq_true rfl

theorem ofChannel_on (ch : Fin 32) : ∀ a : PlAction, decide (a = .valveOn ch) = true → ofChannel ch a = true := by
  rintro a h
  rw [of_decide_eq_true h]
  exact decide_eq_true rfl

theorem Dev.sooner_undue {s : State} {t : Nat} {ch : Fin 32} (h : s.undue t (ofChannel ch) = true) :
    (s.cleared t).sooner ch = s.cleared t := by
  rw [Dev.sooner, Dev.soonerOff_undue (State.undue_mono h (ofChannel_off ch)),
    Dev.onFrame_undue (State.undue_mono h (ofChannel_on ch))]

/-! ### Pulses -/

theorem Dev.startPeak_effect (d : Dev) (ch : Fin 32) (b f : Bool) : Only [.valve] d (d.startPeak ch b f) :=
  ((Effect.refl _ _ _ d).only (d.channel_effect ch _) (fun _ h => h)).trans (Dev.bank_effect _ _ _)

/-- R202: the channel joins the end of its bank's wait list. -/
def Dev.joinWaits (d : Dev) (ch : Fin 32) : Dev :=
  ((d.channel ch fun c => { c with
    mode := .waiting, waitSince := d.chain, peakLimit := d.nat (outletAdr ch 0x32), reStrike := c.mode = .release }).bank (bankOf ch)
    fun k => { k with waits := k.waits ++ [ch], waitedNow := true }).bump (bankAdr (bankOf ch) 0x19)

theorem Dev.beginPulse_battery {d : Dev} {ch : Fin 32} (h : d.nat (bankAdr (bankOf ch) 1) = 0) :
    d.beginPulse ch = d.startPeak ch false false :=
  if_pos (by simp [Dev.boostBank, h])

theorem Dev.beginPulse_boost {d : Dev} {ch : Fin 32} (h : d.nat (bankAdr (bankOf ch) 1) = 1) (hready : d.boostReady = true)
    (hpeak : d.valve.banks[bankOf ch].boostPeak = none) : d.beginPulse ch = d.startPeak ch true false := by
  rw [Dev.beginPulse]
  simp only [Dev.boostBank, h, hready, hpeak]
  rfl

theorem Dev.beginPulse_waits {d : Dev} {ch : Fin 32} (h : d.nat (bankAdr (bankOf ch) 1) = 1)
    (hpeak : d.valve.banks[bankOf ch].boostPeak.isSome = true) : d.beginPulse ch = d.joinWaits ch := by
  rw [Dev.beginPulse]
  simp only [Dev.boostBank, h, hpeak]
  rfl

theorem bankAdr_ne (b : Fin 4) {i : Nat} (hi : i < 256) : bankAdr b i ≠ 0x250808 := by
  simp only [bankAdr, adr]
  omega

theorem Dev.beginPulse_fallsBack {d : Dev} {ch : Fin 32} (h : d.nat (bankAdr (bankOf ch) 1) = 1) (hready : d.boostReady = false)
    (hpeak : d.valve.banks[bankOf ch].boostPeak = none) (haction : d.nat (bankAdr (bankOf ch) 5) = 0) :
    d.beginPulse ch = (d.bump 0x250808).startPeak ch false true := by
  have hfalls : (d.bump 0x250808).fallsBack (bankOf ch) = true := by
    rw [Dev.fallsBack, Dev.nat, Dev.bump, Dev.int_put_other _ _ _ _ (bankAdr_ne _ (by decide))]
    exact Bool.or_eq_true_iff.mpr (.inl (decide_eq_true haction))
  rw [Dev.beginPulse]
  simp only [Dev.boostBank, h, hready, hpeak, hfalls]
  rfl

theorem Dev.endBoostPeak_none {d : Dev} {ch : Fin 32} (h : d.valve.banks[bankOf ch].boostPeak ≠ some ch) : d.endBoostPeak ch = d :=
  if_neg h

/-- R198 step 4: a release of a channel that holds no boost peak. -/
theorem Dev.release_battery {d : Dev} {ch : Fin 32} (h : d.valve.banks[bankOf ch].boostPeak ≠ some ch) :
    d.release ch = d.channel ch fun c => { c with
      mode := .release, freewheel := decide (d.nat (outletAdr ch 0x34) = 1), releaseStart := d.chain, onEnd := none } :=
  Dev.endBoostPeak_none h

/-! ### Switching on and off -/

/-- R198: a switch-on of a switched channel that is off. -/
def Dev.switchedOn (d : Dev) (ch : Fin 32) : Dev :=
  d.channel ch fun c => { c with
    on := true, onEnd := none, slot := false, waited := false, reStrike := false, withheld := c.mode = .release, missed := false }

theorem channelOnEff_switched {d : Dev} {ch : Fin 32} (hdriven : d.driven ch = true) (hswitched : d.flag (outletAdr ch 0x35) = false)
    (hoff : d.valve.channels[ch].mode = .off) : channelOnEff d ch = (d.switchedOn ch).beginPulse ch := by
  have hpwm : d.nozzlePwm ch = false := by rw [Dev.nozzlePwm, hswitched, Bool.false_and]
  rw [channelOnEff, if_neg (by simp [hdriven])]
  simp only [hpwm, Bool.false_and, Bool.false_eq_true, if_false, hoff]
  rfl

theorem channelSwitchOn_holds : Rules.channelSwitchOn.Holds := by
  refine Rule.holds_act _ (fun a _ => a.2) (fun a _ d => (d.soonerOff a.1).onFrame (· = .valveOn a.1) (channelOnEff · a.1))
    (by rintro t c s rfl -; rfl) ?_
  rintro ⟨ch, t⟩ s hp
  dsimp only at hp
  obtain ⟨hdue, hundue, hdriven, hswitched, hbattery, hoff⟩ := hp
  obtain ⟨cs, heff⟩ := Dev.onFrame_due hdue (channelOnEff · ch)
  rw [Dev.soonerOff_undue hundue, heff, channelOnEff_switched (d := s.framed t cs) hdriven hswitched hoff,
    Dev.beginPulse_battery (d := (s.framed t cs).switchedOn ch) hbattery]
  refine Only.rule (((s.framed_effect t cs).mono (by decide)).trans (((Dev.channel_effect _ _ _).mono (by decide)).trans
    ((Dev.startPeak_effect _ _ _ _).mono (by decide)))) ⟨rfl, fun k hk => ?_, rfl, ?_, ?_, ?_, ?_, ?_, ?_, fun b => ?_, rfl⟩
  case refine_8 =>
    by_cases hb : b = bankOf ch
    · subst hb
      simp [Dev.startPeak, Dev.switchedOn]
    · simp [Dev.startPeak, Dev.switchedOn, hb]
  all_goals simp [Dev.startPeak, Dev.switchedOn, *]

theorem channelSwitchOnBoost_holds : Rules.channelSwitchOnBoost.Holds := by
  refine Rule.holds_act _ (fun a _ => a.2) (fun a _ d => (d.soonerOff a.1).onFrame (· = .valveOn a.1) (channelOnEff · a.1))
    (by rintro t c s rfl -; rfl) ?_
  rintro ⟨ch, t⟩ s hp
  dsimp only at hp
  obtain ⟨hdue, hundue, hdriven, hswitched, hbank, hready, hpeak, hoff⟩ := hp
  obtain ⟨cs, heff⟩ := Dev.onFrame_due hdue (channelOnEff · ch)
  rw [Dev.soonerOff_undue hundue, heff, channelOnEff_switched (d := s.framed t cs) hdriven hswitched hoff,
    Dev.beginPulse_boost (d := (s.framed t cs).switchedOn ch) hbank hready hpeak]
  refine Only.rule (((s.framed_effect t cs).mono (by decide)).trans (((Dev.channel_effect _ _ _).mono (by decide)).trans
    ((Dev.startPeak_effect _ _ _ _).mono (by decide)))) ⟨fun k hk => ?_, fun b hb => ?_, ?_, ?_, ?_, ?_, rfl⟩
  all_goals simp [Dev.startPeak, Dev.switchedOn, *]

/-- R202: what joining the wait list changes. -/
theorem Dev.joinWaits_effect (d : Dev) (ch : Fin 32) :
    Effect [.valve] (among [bankAdr (bankOf ch) 0x19]) (fun _ => False) d (d.joinWaits ch) :=
  Effect.bump ((d.channel_effect ch _).mono (fun _ h => h)|>.trans ((Dev.bank_effect _ _ _).mono (fun _ h => h))) (by simp [among])

theorem channelSwitchOnWaits_holds : Rules.channelSwitchOnWaits.Holds := by
  refine Rule.holds_act _ (fun a _ => a.2) (fun a _ d => (d.soonerOff a.1).onFrame (· = .valveOn a.1) (channelOnEff · a.1))
    (by rintro t c s rfl -; rfl) ?_
  rintro ⟨ch, t⟩ s hp
  dsimp only at hp
  obtain ⟨hdue, hundue, hdriven, hswitched, hbank, -, hpeak, hoff⟩ := hp
  obtain ⟨cs, heff⟩ := Dev.onFrame_due hdue (channelOnEff · ch)
  rw [Dev.soonerOff_undue hundue, heff, channelOnEff_switched (d := s.framed t cs) hdriven hswitched hoff,
    Dev.beginPulse_waits (d := (s.framed t cs).switchedOn ch) hbank hpeak]
  refine Effect.rule (((s.framed_effect t cs).mono (by decide)).trans (((Dev.channel_effect _ _ _).mono (by decide)).trans
    ((Dev.joinWaits_effect _ _).mono (by decide) (fun _ h => h) fun _ h => h))) (fun _ h => h.elim)
    ⟨fun k hk => ?_, fun b hb => ?_, ?_, ?_, ?_, Dev.int_put_same _ _ _, rfl⟩
  all_goals simp [Dev.joinWaits, Dev.switchedOn, Dev.bump, Dev.put, Dev.putVal, *]

theorem channelSwitchOnFallback_holds : Rules.channelSwitchOnFallback.Holds := by
  refine Rule.holds_act _ (fun a _ => a.2) (fun a _ d => (d.soonerOff a.1).onFrame (· = .valveOn a.1) (channelOnEff · a.1))
    (by rintro t c s rfl -; rfl) ?_
  rintro ⟨ch, t⟩ s hp
  dsimp only at hp
  obtain ⟨hdue, hundue, hdriven, hswitched, hbank, hready, hpeak, haction, hoff⟩ := hp
  obtain ⟨cs, heff⟩ := Dev.onFrame_due hdue (channelOnEff · ch)
  rw [Dev.soonerOff_undue hundue, heff, channelOnEff_switched (d := s.framed t cs) hdriven hswitched hoff,
    Dev.beginPulse_fallsBack (d := (s.framed t cs).switchedOn ch) hbank hready hpeak haction]
  refine Effect.rule (((s.framed_effect t cs).mono (by decide)).trans ((Effect.bump ((Dev.channel_effect _ _ _).mono (by decide))
    (by rfl)).only (Dev.startPeak_effect _ _ _ _) (by decide))) (sent := fun _ => False) (fun _ h => h.elim)
    ⟨fun k hk => ?_, fun b hb => ?_, ?_, ?_, Dev.int_put_same _ _ _, rfl⟩
  all_goals simp [Dev.startPeak, Dev.switchedOn, Dev.bump, Dev.put, Dev.putVal, *]

theorem channelOffEff_hold {d : Dev} {ch : Fin 32} (hhold : d.valve.channels[ch].mode = .hold) :
    channelOffEff d ch = ((d.channel ch fun c => { c with on := false, onEnd := none }).channel ch fun c =>
      { c with slot := false }).release ch := by
  have hmode : (d.channel ch fun c => { c with on := false, onEnd := none }).valve.channels[ch].mode = .hold := by
    simpa using hhold
  rw [channelOffEff]
  simp only [hmode]

theorem channelSwitchOff_holds : Rules.channelSwitchOff.Holds := by
  refine Rule.holds_act _ (fun a _ => a.2) (fun a _ d => d.onFrame (· = .valveOff a.1) (channelOffEff · a.1))
    (by rintro t c s rfl -; rfl) ?_
  rintro ⟨ch, t⟩ s hp
  dsimp only at hp
  obtain ⟨hdue, hhold, hpeak⟩ := hp
  obtain ⟨cs, heff⟩ := Dev.onFrame_due hdue (channelOffEff · ch)
  rw [heff, channelOffEff_hold (d := s.framed t cs) hhold, Dev.release_battery (by exact hpeak)]
  refine Only.rule (((s.framed_effect t cs).mono (by decide)).trans (((Dev.channel_effect _ _ _).mono (by decide)).trans
    (((Dev.channel_effect _ _ _).mono (by decide)).trans ((Dev.channel_effect _ _ _).mono (by decide)))))
    ⟨rfl, fun k hk => ?_, rfl, rfl, ?_, ?_, ?_, ?_, ?_, rfl⟩
  case refine_3 =>
    rw [Rules.chan, Fin.getElem_fin, Dev.channel_same]
    exact decide_eq_true_iff
  all_goals simp [*]

theorem channelSwitchOffWaiting_holds : Rules.channelSwitchOffWaiting.Holds := by
  refine Rule.holds_act _ (fun a _ => a.2) (fun a _ d => d.onFrame (· = .valveOff a.1) (channelOffEff · a.1))
    (by rintro t c s rfl -; rfl) ?_
  rintro ⟨ch, t⟩ s hp
  dsimp only at hp
  obtain ⟨hdue, hwaiting⟩ := hp
  obtain ⟨cs, heff⟩ := Dev.onFrame_due hdue (channelOffEff · ch)
  have hoff : channelOffEff (s.framed t cs) ch = (((s.framed t cs).channel ch fun c => { c with on := false, onEnd := none }).channel ch
      fun c => { c with mode := .off }).bank (bankOf ch) fun k => { k with waits := k.waits.filter (· ≠ ch) } := by
    have hmode : ((s.framed t cs).channel ch fun c => { c with on := false, onEnd := none }).valve.channels[ch].mode = .waiting := by
      simpa using hwaiting
    rw [channelOffEff]
    simp only [hmode]
  rw [heff, hoff]
  refine Only.rule (((s.framed_effect t cs).mono (by decide)).trans (((Dev.channel_effect _ _ _).mono (by decide)).trans
    (((Dev.channel_effect _ _ _).mono (by decide)).trans ((Dev.bank_effect _ _ _).mono (by decide)))))
    ⟨rfl, fun k hk => ?_, fun b hb => ?_, ?_, ?_, rfl⟩
  all_goals simp [*]

/-! ### Nozzle PWM -/

/-- R206: with no frame of a channel come, its next slot takes no other duty. -/
theorem Dev.switchDuty_undue {s : State} {t : Nat} {ch : Fin 32} (h : s.undue t (ofChannel ch) = true)
    (hstart : s.dev.slotStart ch (s.chainAt t) = s.chainAt t) : (s.cleared t).switchDuty ch = s.cleared t := by
  have hstart' : (s.cleared t).slotStart ch (s.cleared t).chain = s.chainAt t := by
    rw [State.cleared_chain]
    exact hstart
  rw [State.undue, List.all_eq_true] at h
  rw [Dev.switchDuty]
  dsimp only
  split
  case h_1 => rfl
  case h_2 v hv =>
    exfalso
    obtain ⟨f, hf, hmine⟩ := List.mem_filterMap.mp (List.mem_of_getLast? hv)
    have hlate := h f hf
    split at hmine
    case h_1 k w haction =>
      rw [haction] at hlate
      rw [hstart'] at hmine
      simp only [ofChannel, Bool.not_eq_true', Bool.and_eq_false_iff, decide_eq_false_iff_not] at hlate
      split at hmine
      case isTrue hk =>
        rw [Bool.and_eq_true, decide_eq_true_eq, decide_eq_true_eq] at hk
        exact hlate.elim (fun hne => hne hk.1) fun hne => hne hk.2
      case isFalse => cases hmine
    case h_2 => cases hmine

theorem pwmSlotStart_holds : Rules.pwmSlotStart.Holds := by
  refine Rule.holds_act _ (fun a _ => a.2) (fun a _ d => slotStartEff (d.soonerOff a.1) a.1) (by rintro t c s rfl -; rfl) ?_
  rintro ⟨ch, t⟩ s hp
  dsimp only at hp
  obtain ⟨hundue, hdriven, hpwm, hbattery, hon, hoff, hduty, hpart, hstart⟩ := hp
  have heff : slotStartEff (s.cleared t) ch = ((s.cleared t).channel ch fun c => { c with
      onEnd := some (s.chainAt t + (Rules.chan s.dev ch).duty * s.dev.slotPeriod ch / 10000), slot := true, waited := false
      reStrike := false, withheld := c.mode = .release }).beginPulse ch := by
    have hguard : (!(s.cleared t).driven ch || !(s.cleared t).valve.channels[ch].on || !(s.cleared t).nozzlePwm ch ||
        decide ((s.cleared t).slotStart ch (s.cleared t).chain ≠ (s.cleared t).chain)) = false := by
      rw [State.cleared_chain]
      simp only [Bool.or_eq_false_iff, Bool.not_eq_false', decide_eq_false_iff_not, not_not]
      exact ⟨⟨⟨hdriven, hon⟩, hpwm⟩, hstart⟩
    have hmode : (s.cleared t).valve.channels[ch].mode = .off := hoff
    rw [slotStartEff, Dev.switchDuty_undue hundue hstart]
    dsimp only
    rw [hguard, State.cleared_chain]
    simp only [Bool.false_eq_true, if_false, hmode, if_pos (show (s.cleared t).valve.channels[ch].duty < 10000 from hpart),
      if_neg (show ¬ (s.cleared t).valve.channels[ch].duty = 0 from Nat.ne_of_gt hduty)]
    rfl
  rw [Dev.soonerOff_undue (State.undue_mono hundue (ofChannel_off ch)), heff, Dev.beginPulse_battery (by exact hbattery)]
  refine Only.rule (((Dev.channel_effect _ _ _).mono (by decide)).trans ((Dev.startPeak_effect _ _ _ _).mono (by decide)))
    ⟨rfl, fun k hk => ?_, ?_, ?_, ?_, ?_, rfl⟩
  all_goals simp [Dev.startPeak, *]

theorem pwmSlotExtends_holds : Rules.pwmSlotExtends.Holds := by
  refine Rule.holds_act _ (fun a _ => a.2.2) (fun a _ d => slotStartEff (d.soonerOff a.1) a.1) (by rintro t c s rfl -; rfl) ?_
  rintro ⟨ch, e, t⟩ s hp
  dsimp only at hp
  obtain ⟨hundue, hdriven, hpwm, hon, hhold, hduty, hpart, hstart, hend⟩ := hp
  obtain ⟨g, heff, hg⟩ : ∃ g, slotStartEff (s.cleared t) ch = (s.cleared t).channel ch g ∧ g (Rules.chan s.dev ch) =
      { Rules.chan s.dev ch with
        onEnd := some (max e (s.chainAt t + (Rules.chan s.dev ch).duty * s.dev.slotPeriod ch / 10000)) } := by
    have hguard : (!(s.cleared t).driven ch || !(s.cleared t).valve.channels[ch].on || !(s.cleared t).nozzlePwm ch ||
        decide ((s.cleared t).slotStart ch (s.cleared t).chain ≠ (s.cleared t).chain)) = false := by
      rw [State.cleared_chain]
      simp only [Bool.or_eq_false_iff, Bool.not_eq_false', decide_eq_false_iff_not, not_not]
      exact ⟨⟨⟨hdriven, hon⟩, hpwm⟩, hstart⟩
    have hmode : (s.cleared t).valve.channels[ch].mode = .hold := hhold
    rw [slotStartEff, Dev.switchDuty_undue hundue hstart]
    dsimp only
    rw [hguard, State.cleared_chain]
    simp only [Bool.false_eq_true, if_false, hmode, if_pos (show (s.cleared t).valve.channels[ch].duty < 10000 from hpart),
      if_neg (show ¬ (s.cleared t).valve.channels[ch].duty = 0 from Nat.ne_of_gt hduty)]
    exact ⟨_, rfl, by simp only [hend]; rfl⟩
  rw [Dev.soonerOff_undue (State.undue_mono hundue (ofChannel_off ch)), heff]
  refine Only.rule ((Dev.channel_effect _ _ _).mono (by decide)) ⟨rfl, fun k hk => ?_, rfl, ?_, rfl⟩
  · simp [hk]
  · exact (Dev.channel_same _ _ _).trans hg

theorem valveRateEdge_holds : Rules.valveRateEdge.Holds := by
  refine Rule.holds_act _ (fun a _ => a.2.2) (fun a _ d => d.onFrame (· = .valveRate a.1 a.2.1) fun d =>
    if d.driven a.1 then rateEdgeEff d a.1 a.2.1 else d) (by rintro t c s rfl -; rfl) ?_
  rintro ⟨ch, v, t⟩ s hp
  dsimp only at hp
  obtain ⟨hdue, hdriven, hend, hoff⟩ := hp
  obtain ⟨cs, heff⟩ := Dev.onFrame_due hdue (fun d => if d.driven ch then rateEdgeEff d ch v else d)
  have hrate : rateEdgeEff (s.framed t cs) ch v = (s.framed t cs).channel ch fun c => { c with duty := v } := by
    have hmode : (s.framed t cs).valve.channels[ch].mode = .off := hoff
    rw [rateEdgeEff]
    simp only [hmode]
    rfl
  rw [heff, if_pos (show (s.framed t cs).driven ch = true from hdriven), hrate]
  exact Only.rule (((s.framed_effect t cs).mono (by decide)).trans ((Dev.channel_effect _ _ _).mono (by decide)))
    ⟨rfl, rfl, fun k hk => Dev.channel_other _ _ hk, Dev.channel_same _ _ _, rfl⟩

theorem endOfOnTime_holds : Rules.endOfOnTime.Holds := by
  refine Rule.holds_act _ (fun a _ => a.2) (fun a _ d => onTimeEndEff (d.sooner a.1) a.1) (by rintro t c s rfl -; rfl) ?_
  rintro ⟨ch, t⟩ s hp
  dsimp only at hp
  obtain ⟨hundue, hhold, hend, hpeak⟩ := hp
  obtain ⟨e, he, hpast⟩ := exists_of_any hend
  have heff : onTimeEndEff (s.cleared t) ch = ((s.cleared t).channel ch fun c => { c with slot := true }).release ch := by
    rw [onTimeEndEff, show (s.cleared t).valve.channels[ch].onEnd = some e from he]
    dsimp only
    rw [if_neg (by rw [State.cleared_chain]; exact Nat.not_lt.mpr hpast),
      show (s.cleared t).valve.channels[ch].mode = .hold from hhold]
  rw [Dev.sooner_undue hundue, heff, Dev.release_battery (by exact hpeak)]
  refine Only.rule (((Dev.channel_effect _ _ _).mono (by decide)).trans ((Dev.channel_effect _ _ _).mono (by decide)))
    ⟨rfl, fun k hk => ?_, rfl, ?_, rfl⟩
  · simp [hk]
  · rw [Rules.chan, Fin.getElem_fin, Dev.channel_same, Dev.channel_same, Dev.channel_nat, Dev.channel_chain, State.cleared_chain]
    rfl

theorem endOfOnTimeShort_holds : Rules.endOfOnTimeShort.Holds := by
  refine Rule.holds_act _ (fun a _ => a.2) (fun a _ d => onTimeEndEff (d.sooner a.1) a.1) (by rintro t c s rfl -; rfl) ?_
  rintro ⟨ch, t⟩ s hp
  dsimp only at hp
  obtain ⟨hundue, hmode, hend, hpeak⟩ := hp
  obtain ⟨e, he, hpast⟩ := exists_of_any hend
  have heff : onTimeEndEff (s.cleared t) ch = ((s.cleared t).channel ch fun c => { c with shortPulse := true, slot := true }).release ch := by
    rw [onTimeEndEff, show (s.cleared t).valve.channels[ch].onEnd = some e from he]
    dsimp only
    rw [if_neg (by rw [State.cleared_chain]; exact Nat.not_lt.mpr hpast),
      show (s.cleared t).valve.channels[ch].mode = .peak from hmode]
  rw [Dev.sooner_undue hundue, heff, Dev.release_battery (by exact hpeak)]
  refine Only.rule (((Dev.channel_effect _ _ _).mono (by decide)).trans ((Dev.channel_effect _ _ _).mono (by decide)))
    ⟨fun k hk => ?_, ?_, ?_, rfl⟩
  all_goals simp [*]

end Sys2Proof.Machine

namespace Sys2Proof

/-- Settles O27, by a lemma for each rule. -/
theorem channelsSwitch : Obligations.ChannelsSwitch :=
  ⟨Machine.channelSwitchOn_holds, Machine.channelSwitchOnBoost_holds, Machine.channelSwitchOnWaits_holds,
    Machine.channelSwitchOnFallback_holds, Machine.channelSwitchOff_holds, Machine.channelSwitchOffWaiting_holds,
    Machine.pwmSlotStart_holds, Machine.pwmSlotExtends_holds, Machine.valveRateEdge_holds, Machine.endOfOnTime_holds,
    Machine.endOfOnTimeShort_holds⟩

end Sys2Proof
end

