-- ==== Sys2Proof/Proofs/ChannelPhases.lean ====
section
/-! PROOF. A valve channel moves from peak to hold and to release, and reports its kinks (R198, R200, R202, R204, R208, R209, R213). -/

namespace Sys2Proof.Machine

/-! ### Kinks -/

/-- What the power die reports. -/
def isPowerReport : Emit → Prop
  | .kink _ => True
  | .missed _ _ => True
  | _ => False

theorem unsent_of_isPowerReport (d : Dev) {e : Emit} (h : isPowerReport e) : busCounter e = none ∧ d.route e = none := by
  cases e with
  | kink _ => exact ⟨rfl, rfl⟩
  | missed _ _ => exact ⟨rfl, rfl⟩
  | _ => exact h.elim

theorem Dev.reportKink_effect (d : Dev) (ch : Fin 32) (kind : KinkKind) (kink : Option Int) :
    Effect [] (fun _ => false) isPowerReport d (d.reportKink ch kind kink) :=
  (Effect.refl _ _ _ d).send trivial

@[simp] theorem Dev.reportKink_valve (d : Dev) (ch : Fin 32) (kind : KinkKind) (kink : Option Int) :
    (d.reportKink ch kind kink).valve = d.valve := rfl

theorem arrivalKink_holds : Rules.arrivalKink.Holds := by
  refine Rule.holds_act _ (fun a _ => a.2.2) (fun a _ d => arrivalKinkEff d a.1 a.2.1) (by rintro t c s rfl -; rfl) ?_
  rintro ⟨ch, k, t⟩ s hp
  dsimp only at hp
  obtain ⟨hpeak, harrival⟩ := hp
  have heff : arrivalKinkEff (s.cleared t) ch k =
      ((s.cleared t).channel ch fun c => { c with arrival := some (kinkStamp k) }).reportKink ch .arrival (some (kinkStamp k)) :=
    if_pos (Bool.and_eq_true_iff.mpr ⟨decide_eq_true hpeak, Option.isNone_iff_eq_none.mpr harrival⟩)
  rw [heff]
  refine Effect.rule (((Dev.channel_effect _ _ _).mono (by decide)).trans ((Dev.reportKink_effect _ _ _ _).mono (by decide)
    (fun _ h => absurd h Bool.false_ne_true) fun _ h => h)) (fun _ h => unsent_of_isPowerReport _ h) ⟨fun k hk => ?_, ?_, ?_⟩
  all_goals simp [Dev.reportKink, Dev.send, *]

theorem releaseKink_holds : Rules.releaseKink.Holds := by
  refine Rule.holds_act _ (fun a _ => a.2.2) (fun a _ d => releaseKinkEff d a.1 a.2.1) (by rintro t c s rfl -; rfl) ?_
  rintro ⟨ch, k, t⟩ s hp
  dsimp only at hp
  obtain ⟨hrelease, hkink⟩ := hp
  have heff : releaseKinkEff (s.cleared t) ch k =
      ((s.cleared t).channel ch fun c => { c with releaseKink := some (kinkStamp k) }).reportKink ch .release (some (kinkStamp k)) := by
    have hmode : (s.cleared t).valve.channels[ch].mode = .release := hrelease
    have hnone : (s.cleared t).valve.channels[ch].releaseKink = none := hkink
    rw [releaseKinkEff]
    simp only [hmode, hnone]
    rfl
  rw [heff]
  refine Effect.rule (((Dev.channel_effect _ _ _).mono (by decide)).trans ((Dev.reportKink_effect _ _ _ _).mono (by decide)
    (fun _ h => absurd h Bool.false_ne_true) fun _ h => h)) (fun _ h => unsent_of_isPowerReport _ h) ⟨fun k hk => ?_, ?_, ?_⟩
  all_goals simp [Dev.reportKink, Dev.send, *]

/-! ### The end of a peak -/

/-- R198 step 2: the peak time limit of a channel has come. -/
def Dev.peakLimitOver (d : Dev) (ch : Fin 32) : Bool :=
  decide ((d.valve.channels[ch].start : Int) + 1000 * d.valve.channels[ch].peakLimit ≤ d.chain)

/-- R198 step 2, R213: the peak of a channel is over: by its arrival kink, by the learned part where it runs open-loop, or by its limit. -/
def Dev.peakOver (d : Dev) (ch : Fin 32) : Bool :=
  let c := d.valve.channels[ch]
  (if d.openLoop ch then decide ((c.start : Int) + 1000 * (d.nat (outletAdr ch 0x22) + c.peakTail) ≤ (d.chain : Int))
    else c.arrival.any fun k => decide (k + 1000 * (c.peakTail : Int) ≤ (d.chain : Int))) || d.peakLimitOver ch

/-- R198 step 2: a peak ends in hold. -/
def Dev.intoHold (d : Dev) (ch : Fin 32) : Dev :=
  d.channel ch fun c => { c with
    mode := .hold, holdCurrent := d.holdInForce ch, noArrival := c.arrival.isNone && d.peakLimitOver ch }

theorem Dev.intoHold_same (d : Dev) (ch : Fin 32) : (d.intoHold ch).valve.channels[(ch : Nat)] =
    { d.valve.channels[(ch : Nat)] with
      mode := .hold, holdCurrent := d.holdInForce ch
      noArrival := d.valve.channels[(ch : Nat)].arrival.isNone && d.peakLimitOver ch } :=
  Dev.channel_same _ _ _

/-- R198, R209: what the end of the peak of a channel that holds no boost peak does. -/
theorem endOfPeakEff_over {d : Dev} {ch : Fin 32} (hpeak : d.valve.channels[ch].mode = .peak) (hover : d.peakOver ch = true)
    (hbattery : d.valve.banks[bankOf ch].boostPeak ≠ some ch) :
    endOfPeakEff d ch = if d.valve.channels[ch].arrival.isNone then (d.intoHold ch).reportKink ch .arrival none else d.intoHold ch := by
  have heff : endOfPeakEff d ch = (if d.valve.channels[ch].arrival.isNone then
      (d.intoHold ch).reportKink ch .arrival none else d.intoHold ch).endBoostPeak ch := by
    have hguard : ((decide (d.valve.channels[ch].mode = .peak)) && d.peakOver ch) = true :=
      Bool.and_eq_true_iff.mpr ⟨decide_eq_true hpeak, hover⟩
    rw [Dev.peakOver] at hguard
    rw [endOfPeakEff]
    cases harrival : d.valve.channels[ch].arrival
    all_goals
      rw [harrival] at hguard
      dsimp only at hguard ⊢
      rw [if_pos (by exact hguard)]
      rfl
  rw [heff, Dev.endBoostPeak_none]
  cases d.valve.channels[ch].arrival.isNone <;> exact hbattery

theorem endOfPeak_holds : Rules.endOfPeak.Holds := by
  refine Rule.holds_act _ (fun a _ => a.2.2) (fun a _ d => endOfPeakEff (d.sooner a.1) a.1) (by rintro t c s rfl -; rfl) ?_
  rintro ⟨ch, k, t⟩ s hp
  dsimp only at hp
  obtain ⟨hundue, hpeak, harrival, htail, hclosed, hbattery⟩ := hp
  have harrival' : (s.cleared t).valve.channels[ch].arrival = some k := harrival
  have hover : (s.cleared t).peakOver ch = true := by
    have htail' : k + 1000 * ((s.cleared t).valve.channels[ch].peakTail : Int) ≤ (s.cleared t).chain := by
      rw [State.cleared_chain]
      exact htail
    simp only [Dev.peakOver]
    rw [show (s.cleared t).openLoop ch = false from hclosed, harrival']
    exact Bool.or_eq_true_iff.mpr (.inl (decide_eq_true htail'))
  rw [Dev.sooner_undue hundue, endOfPeakEff_over (d := s.cleared t) hpeak hover hbattery, if_neg (by rw [harrival']; simp)]
  refine Only.rule ((Dev.channel_effect _ _ _).mono (by decide)) ⟨rfl, fun j hj => ?_, rfl, ?_, rfl⟩
  · exact Dev.channel_other _ _ hj
  · have hfound : ((s.cleared t).valve.channels[ch].arrival.isNone && (s.cleared t).peakLimitOver ch) = false := by
      rw [harrival']
      rfl
    exact (Dev.intoHold_same _ _).trans (congrArg (fun b => { Rules.chan s.dev ch with
      mode := .hold, holdCurrent := s.dev.holdInForce ch, noArrival := b }) hfound)

theorem endOfPeakLimit_holds : Rules.endOfPeakLimit.Holds := by
  refine Rule.holds_act _ (fun a _ => a.2) (fun a _ d => endOfPeakEff (d.sooner a.1) a.1) (by rintro t c s rfl -; rfl) ?_
  rintro ⟨ch, t⟩ s hp
  dsimp only at hp
  obtain ⟨hundue, hpeak, harrival, hlimit, hbattery⟩ := hp
  have harrival' : (s.cleared t).valve.channels[ch].arrival = none := harrival
  have hover : (s.cleared t).peakLimitOver ch = true := by
    rw [Dev.peakLimitOver, State.cleared_chain]
    exact decide_eq_true (by exact_mod_cast hlimit)
  rw [Dev.sooner_undue hundue, endOfPeakEff_over (d := s.cleared t) hpeak (by rw [Dev.peakOver, hover, Bool.or_true]) hbattery,
    if_pos (by rw [harrival']; rfl)]
  refine Effect.rule (((Dev.channel_effect _ _ _).mono (by decide)).trans ((Dev.reportKink_effect _ _ _ _).mono (by decide)
    (fun _ h => absurd h Bool.false_ne_true) fun _ h => h)) (fun _ h => unsent_of_isPowerReport _ h) ⟨fun j hj => ?_, ?_, rfl, rfl⟩
  · exact Dev.channel_other _ _ hj
  · have hmissing : ((s.cleared t).valve.channels[ch].arrival.isNone && (s.cleared t).peakLimitOver ch) = true := by
      rw [harrival', hover]
      rfl
    exact (Dev.intoHold_same _ _).trans (congrArg (fun b => { Rules.chan s.dev ch with
      mode := .hold, holdCurrent := s.dev.holdInForce ch, noArrival := b }) hmissing)

theorem endOfPeakOpenLoop_holds : Rules.endOfPeakOpenLoop.Holds := by
  refine Rule.holds_act _ (fun a _ => a.2) (fun a _ d => endOfPeakEff (d.sooner a.1) a.1) (by rintro t c s rfl -; rfl) ?_
  rintro ⟨ch, t⟩ s hp
  dsimp only at hp
  obtain ⟨hundue, hpeak, hopen, hlearned, hbattery⟩ := hp
  have hover : (s.cleared t).peakOver ch = true := by
    simp only [Dev.peakOver]
    rw [show (s.cleared t).openLoop ch = true from hopen, State.cleared_chain]
    exact Bool.or_eq_true_iff.mpr (.inl (decide_eq_true (by exact_mod_cast hlearned)))
  have hhold : Only [.valve, .pd] (s.cleared t) ((s.cleared t).intoHold ch) := (Dev.channel_effect _ _ _).mono (by decide)
  have hmode : (Rules.chan ((s.cleared t).intoHold ch) ch).mode = .hold := congrArg Channel.mode (Dev.channel_same _ _ _)
  rw [Dev.sooner_undue hundue, endOfPeakEff_over (d := s.cleared t) hpeak hover hbattery]
  split
  · exact Effect.rule ((hhold.mono (fun _ h => h)).trans ((Dev.reportKink_effect _ _ _ _).mono (by decide)
      (fun _ h => absurd h Bool.false_ne_true) fun _ h => h)) (fun _ h => unsent_of_isPowerReport _ h)
      ⟨fun j hj => Dev.channel_other _ _ hj, rfl, hmode, rfl⟩
  · exact Only.rule (hhold.mono (fun _ h => h)) ⟨fun j hj => Dev.channel_other _ _ hj, rfl, hmode, rfl⟩

theorem waitLimit_holds : Rules.waitLimit.Holds := by
  refine Rule.holds_act _ (fun a _ => a.2) (fun a _ d => waitLimitEff d a.1) (by rintro t c s rfl -; rfl) ?_
  rintro ⟨ch, t⟩ s hp
  dsimp only at hp
  obtain ⟨hwaiting, hlimit⟩ := hp
  have heff : waitLimitEff (s.cleared t) ch = (((s.cleared t).channel ch fun c => { c with mode := .off, on := false, missed := true }).bank
      (bankOf ch) fun k => { k with waits := k.waits.filter (· ≠ ch) }).send (.missed ch (s.chainAt t)) := by
    rw [← State.cleared_chain] at hlimit ⊢
    exact if_pos (Bool.and_eq_true_iff.mpr ⟨decide_eq_true hwaiting, decide_eq_true hlimit⟩)
  rw [heff]
  refine Effect.rule (sent := isPowerReport) (Effect.send (((Dev.channel_effect _ _ _).mono (fun _ h => h)).trans
    ((Dev.bank_effect _ _ _).mono (fun _ h => h))) trivial) (fun _ h => unsent_of_isPowerReport _ h)
    ⟨fun k hk => ?_, fun b hb => ?_, ?_, ?_, ?_, ?_, ?_⟩
  all_goals simp [Dev.send, *]

theorem releaseEnd_holds : Rules.releaseEnd.Holds := by
  refine Rule.holds_act _ (fun a _ => a.2) (fun a _ d => releaseEndEff d a.1) (by rintro t c s rfl -; rfl) ?_
  rintro ⟨ch, t⟩ s hp
  dsimp only at hp
  obtain ⟨hrelease, hkink, hsupply, hlong⟩ := hp
  have heff : releaseEndEff (s.cleared t) ch = (s.cleared t).channel ch fun c =>
      { c with mode := .off, freewheel := false, trips := 0, supplyOn := false, reStrike := false } := by
    have hkink' : (s.cleared t).valve.channels[ch].releaseKink.isNone = false := by
      rw [← Option.not_isSome]
      exact congrArg not hkink
    have hsupply' : (s.cleared t).valve.channels[ch].supplyOn = false := hsupply
    rw [← State.cleared_chain] at hlong
    have hguard : (decide ((s.cleared t).valve.channels[ch].mode = .release) && decide ((s.cleared t).valve.channels[ch].releaseStart +
        2000 * (s.cleared t).nat (outletAdr ch 0x21) ≤ (s.cleared t).chain)) = true :=
      Bool.and_eq_true_iff.mpr ⟨decide_eq_true hrelease, decide_eq_true hlong⟩
    rw [releaseEndEff, if_pos hguard]
    simp only [hkink', hsupply', Bool.false_eq_true, if_false]
  rw [heff]
  exact Only.rule ((Dev.channel_effect _ _ _).mono (fun _ h => h))
    ⟨rfl, fun j hj => Dev.channel_other _ _ hj, rfl, congrArg Channel.mode (Dev.channel_same _ _ _)⟩

theorem holdUnreachable_holds : Rules.holdUnreachable.Holds := by
  refine Rule.holds_act _ (fun a _ => a.2) (fun a _ d => holdUnreachableEff d a.1) (by rintro t c s rfl -; rfl) ?_
  rintro ⟨ch, t⟩ s hp
  rw [show holdUnreachableEff (s.cleared t) ch = (s.cleared t).channel ch fun c => { c with unreachable := true } from if_pos hp]
  exact Only.rule ((Dev.channel_effect _ _ _).mono (fun _ h => h))
    ⟨rfl, fun j hj => Dev.channel_other _ _ hj, Dev.channel_same _ _ _⟩

end Sys2Proof.Machine

namespace Sys2Proof

/-- Settles O28, by a lemma for each rule. -/
theorem channelsMoveThroughPhases : Obligations.ChannelsMoveThroughPhases :=
  ⟨Machine.arrivalKink_holds, Machine.endOfPeak_holds, Machine.endOfPeakLimit_holds, Machine.endOfPeakOpenLoop_holds,
    Machine.waitLimit_holds, Machine.releaseKink_holds, Machine.releaseEnd_holds, Machine.holdUnreachable_holds⟩

end Sys2Proof
end

