-- ==== Sys2Proof/Proofs/ChannelFaults.lean ====
section
/-! PROOF. The faults of a valve channel: trips, on-state and off-state diagnosis, and its return to service (R210, R211, R493). -/

namespace Sys2Proof.Machine

/-! ### Bits of an object -/

theorem setBit_testBit (v k : Nat) : (v - (if v.testBit k then 2 ^ k else 0) + 2 ^ k).testBit k = true := by
  cases hk : v.testBit k
  · rw [if_neg (by simp), Nat.sub_zero, Nat.add_comm, Nat.testBit_two_pow_add_eq, hk]
    rfl
  · rw [if_pos rfl, Nat.sub_add_cancel (Nat.ge_two_pow_of_testBit hk), hk]

theorem clearBit_testBit (v k : Nat) : (v - (if v.testBit k then 2 ^ k else 0)).testBit k = false := by
  cases hk : v.testBit k
  · rw [if_neg (by simp), Nat.sub_zero, hk]
  · have hset := Nat.testBit_two_pow_add_eq (v - 2 ^ k) k
    rw [Nat.add_comm, Nat.sub_add_cancel (Nat.ge_two_pow_of_testBit hk), hk] at hset
    rw [if_pos rfl]
    simpa using hset

theorem Dev.bit_putBit_true (d : Dev) (a k : Nat) : (d.putBit a k true).bit a k = true := by
  rw [Dev.bit, Dev.nat, Dev.putBit]
  simp only [if_true, Dev.int_put_same]
  exact setBit_testBit _ _

theorem Dev.bit_putBit_false (d : Dev) (a k : Nat) : (d.putBit a k false).bit a k = false := by
  rw [Dev.bit, Dev.nat, Dev.putBit]
  simp only [Bool.false_eq_true, if_false, Dev.int_put_same]
  exact clearBit_testBit _ _

@[simp] theorem Dev.putBit_valve (d : Dev) (a k : Nat) (b : Bool) : (d.putBit a k b).valve = d.valve := rfl

theorem outletAdr_range (n : Fin 32) {i : Nat} (hi : i < 256) : 0x300000 ≤ outletAdr n i ∧ outletAdr n i < 0x302000 := by
  simp only [outletAdr, adr]
  omega

theorem eventObjs_outletAdr (n : Fin 32) {i : Nat} (hi : i < 256) : eventObjs (outletAdr n i) = false := by
  obtain ⟨hlo, hhi⟩ := outletAdr_range n hi
  simp [eventObjs, among]
  omega

theorem eventObjs_bankAdr (b : Fin 4) {i : Nat} (hi : i < 256) : eventObjs (bankAdr b i) = false := by
  simp only [bankAdr, adr]
  simp [eventObjs, among]
  omega

theorem busObjs_outletAdr (n : Fin 32) {i : Nat} (hi : i < 256) : busObjs (outletAdr n i) = false := by
  obtain ⟨hlo, hhi⟩ := outletAdr_range n hi
  simp [busObjs, among]
  omega

/-! ### Overcurrent -/

/-- R211: what a trip of a channel does before its event. -/
def Dev.tripped (d : Dev) (ch : Fin 32) : Dev :=
  (d.bump (outletAdr ch 0x3F)).channel ch fun c => { c with
    mode := .tripped, freewheel := false, trips := d.valve.channels[ch].trips + 1, onEnd := none, cleanRun := 0, cleanOff := 0
    supplyOn := true
    backOff := d.chain + (if d.valve.channels[ch].trips + 1 = 1 then 10000000 else if d.valve.channels[ch].trips + 1 = 2 then 100000000
      else 1000000000) }

theorem Dev.tripped_effect (d : Dev) (ch : Fin 32) :
    Effect [.valve] (among [outletAdr ch 0x3F]) (fun _ => False) d (d.tripped ch) :=
  ((Effect.refl _ _ _ d).bump (by simp [among])).only (Dev.channel_effect _ _ _) (fun _ h => h)

/-- R211: and its event. -/
def Dev.tripReported (d : Dev) (ch : Fin 32) : Dev := (d.tripped ch).raise 0x0803 1 ch [(2, Config.eventCause 0x0803 0)]

theorem tripEff_hold {d : Dev} {ch : Fin 32} (hhold : d.valve.channels[ch].mode = .hold)
    (hbattery : d.valve.banks[bankOf ch].boostPeak ≠ some ch) :
    tripEff d ch true =
      if d.valve.channels[ch].trips + 1 ≥ 4 then ((d.tripReported ch).fault 6 true ch).retireChannel ch
      else (d.tripReported ch).fault 6 false ch := by
  have hsame : (d.bump (outletAdr ch 0x3F)).endBoostPeak ch = d.bump (outletAdr ch 0x3F) := Dev.endBoostPeak_none hbattery
  have htrip : ((d.bump (outletAdr ch 0x3F)).channel ch fun c => { c with
      mode := .tripped, freewheel := false, trips := d.valve.channels[ch].trips + 1, onEnd := none, cleanRun := 0, cleanOff := 0
      supplyOn := c.supplyOn || true, supplyOff := c.supplyOff || !true
      backOff := (d.bump (outletAdr ch 0x3F)).chain + (if d.valve.channels[ch].trips + 1 = 1 then 10000000
        else if d.valve.channels[ch].trips + 1 = 2 then 100000000 else 1000000000) }) = d.tripped ch := by
    simp only [Bool.or_true, Bool.not_true, Bool.or_false]
    rfl
  rw [tripEff]
  simp only [hsame, htrip, hhold]
  rfl

/-- Table 8.9: the back-off before the next attempt, by the trips before this one. -/
theorem tripBackOff_eq (chain : Nat) : ∀ n < 3,
    (chain + if n + 1 = 1 then 10000000 else if n + 1 = 2 then 100000000 else 1000000000) =
      chain + (match n with | 0 => 10000000 | 1 => 100000000 | _ => 1000000000)
  | 0, _ | 1, _ | 2, _ => rfl

theorem overcurrentTrip_holds : Rules.overcurrentTrip.Holds := by
  refine Rule.holds_unrouted _ (fun a _ => a.2) (fun a _ d => if d.driven a.1 then
    tripEff d a.1 (d.valve.channels[a.1].mode ≠ .off) else d) (by rintro t c s rfl -; rfl)
    (by simp +contextual [busObjs, eventObjs, among]) ?_
  rintro ⟨ch, t⟩ s hp
  dsimp only at hp
  obtain ⟨hdriven, hhold, htrips, hbattery⟩ := hp
  have hon : decide ((s.cleared t).valve.channels[ch].mode ≠ .off) = true := by
    rw [show (s.cleared t).valve.channels[ch].mode = .hold from hhold]
    rfl
  rw [if_pos (show (s.cleared t).driven ch = true from hdriven), hon, tripEff_hold (d := s.cleared t) hhold hbattery,
    if_neg (by exact Nat.not_le.mpr (Nat.succ_lt_succ htrips))]
  refine Effect.unrouted_rule (sent := isEmcy) (Effect.only (Effect.raise (((Dev.tripped_effect _ _).mono (by decide) (by simp +contextual)
    fun _ h => h.elim)) (by decide) (by simp +contextual) (fun _ h => h) _ _ _ _) (Dev.fault_effect _ _ _ _) (by decide))
    (fun _ h => Dev.route_none_of_isEmcy _ h) ?_
  intro o ho
  refine ⟨fun k hk => ?_, ?_, ?_, ?_, ?_⟩
  · simp [Dev.tripReported, Dev.tripped, Dev.bump, Dev.put, Dev.putVal, hk]
  · simp [Dev.tripReported, Dev.tripped]
  · simp [Dev.tripReported, Dev.tripped]
  · rw [← State.cleared_chain]
    refine Eq.trans ?_ (tripBackOff_eq _ _ htrips)
    simp only [Rules.chan, Fin.getElem_fin, Dev.fault_valve, Dev.tripReported, Dev.raise_valve, Dev.tripped, Dev.channel_same]
    rfl
  · have hcount : ((s.cleared t).tripped ch).int (outletAdr ch 0x3F) = (s.dev.int (outletAdr ch 0x3F) + 1) % 2 ^ 32 :=
      Dev.int_put_same _ _ _
    have hraise : ((s.cleared t).tripReported ch).int (outletAdr ch 0x3F) = ((s.cleared t).tripped ch).int (outletAdr ch 0x3F) :=
      (Dev.raise_effect _ _ _ _ _).int (eventObjs_outletAdr ch (by decide))
    have hfault : (((s.cleared t).tripReported ch).fault 6 false ch).int (outletAdr ch 0x3F) =
        ((s.cleared t).tripReported ch).int (outletAdr ch 0x3F) := (Dev.fault_effect _ _ _ _).int rfl
    rw [ho.int (busObjs_outletAdr ch (by decide)), hfault, hraise, hcount]

theorem Dev.retireChannel_effect (d : Dev) (ch : Fin 32) :
    Effect [.valve] (among [0x250006]) (fun _ => False) d (d.retireChannel ch) :=
  (((Effect.refl _ _ _ d).only (Dev.channel_effect _ _ _) (fun _ h => h)).only (Dev.bank_effect _ _ _) (fun _ h => h)).putBit (by rfl) _ _

theorem overcurrentRetires_holds : Rules.overcurrentRetires.Holds := by
  refine Rule.holds_unrouted _ (fun a _ => a.2) (fun a _ d => if d.driven a.1 then
    tripEff d a.1 (d.valve.channels[a.1].mode ≠ .off) else d) (by rintro t c s rfl -; rfl)
    (by simp +contextual [busObjs, eventObjs, among]) ?_
  rintro ⟨ch, t⟩ s hp
  dsimp only at hp
  obtain ⟨hdriven, hhold, htrips, hbattery⟩ := hp
  have hon : decide ((s.cleared t).valve.channels[ch].mode ≠ .off) = true := by
    rw [show (s.cleared t).valve.channels[ch].mode = .hold from hhold]
    rfl
  rw [if_pos (show (s.cleared t).driven ch = true from hdriven), hon, tripEff_hold (d := s.cleared t) hhold hbattery,
    if_pos (show (s.cleared t).valve.channels[ch].trips + 1 ≥ 4 from (congrArg (· + 1) htrips).ge)]
  refine Effect.unrouted_rule (sent := isEmcy) (Effect.trans (Effect.only (Effect.raise (((Dev.tripped_effect _ _).mono (by decide)
    (by simp +contextual [among]) fun _ h => h.elim)) (by decide) (by simp +contextual) (fun _ h => h) _ _ _ _)
    (Dev.fault_effect _ _ _ _) (by decide)) ((Dev.retireChannel_effect _ _).mono (by decide) (by simp +contextual [among])
    fun _ h => h.elim)) (fun _ h => Dev.route_none_of_isEmcy _ h) ?_
  intro o ho
  refine ⟨fun k hk => ?_, ?_, ?_, ?_⟩
  · simp [Dev.retireChannel, Dev.tripReported, Dev.tripped, Dev.bump, Dev.put, Dev.putVal, hk]
  · simp [Dev.retireChannel, Dev.tripReported]
  · simp [Dev.retireChannel, Dev.tripReported]
  · rw [Dev.bit, ho.nat (by decide)]
    exact Dev.bit_putBit_true _ _ _

theorem channelBackOffEnd_holds : Rules.channelBackOffEnd.Holds := by
  refine Rule.holds_act _ (fun a _ => a.2) (fun a _ d => backOffEndEff d a.1) (by rintro t c s rfl -; rfl) ?_
  rintro ⟨ch, t⟩ s hp
  dsimp only at hp
  obtain ⟨htripped, hbackOff⟩ := hp
  rw [← State.cleared_chain] at hbackOff
  rw [show backOffEndEff (s.cleared t) ch = (s.cleared t).channel ch fun c => { c with mode := .off } from
    if_pos (Bool.and_eq_true_iff.mpr ⟨decide_eq_true htripped, decide_eq_true hbackOff⟩)]
  exact Only.rule ((Dev.channel_effect _ _ _).mono (fun _ h => h))
    ⟨rfl, fun j hj => Dev.channel_other _ _ hj, rfl, Dev.channel_same _ _ _⟩

/-! ### Diagnosis of a channel in a pulse -/

/-- R211: an open load is found. -/
def Dev.openFound (d : Dev) (ch : Fin 32) (onState : Bool) : Dev :=
  d.channel ch fun c => { c with
    openRun := d.valve.channels[ch].openRun + 1, cleanRun := 0, openOn := c.openOn || onState, openOff := c.openOff || !onState
    faultOpen := c.faultOpen || d.valve.channels[ch].openRun + 1 ≥ 3 }

theorem Dev.openFound_effect (d : Dev) (ch : Fin 32) (onState : Bool) : Only [.valve] d (d.openFound ch onState) :=
  d.channel_effect ch _

theorem Dev.openLoad_again {d : Dev} {ch : Fin 32} (h : d.valve.channels[ch].openRun ≠ 0) (onState : Bool) :
    d.openLoad ch onState = d.openFound ch onState :=
  if_neg fun hone => h (Nat.succ.inj hone)

theorem onStateDiagnostic_holds : Rules.onStateDiagnostic.Holds := by
  refine Rule.holds_act _ (fun a _ => a.2) (fun a _ d => onDiagEff d a.1 .openLoad) (by rintro t c s rfl -; rfl) ?_
  rintro ⟨ch, t⟩ s hp
  dsimp only at hp
  obtain ⟨hhold, hrun⟩ := hp
  have hrun' : (s.cleared t).valve.channels[ch].openRun = 2 := hrun
  have heff : onDiagEff (s.cleared t) ch .openLoad = (s.cleared t).openFound ch true := by
    rw [onDiagEff, show (s.cleared t).valve.channels[ch].mode = .hold from hhold]
    exact Dev.openLoad_again (by rw [hrun']; decide) true
  rw [heff]
  refine Only.rule ((Dev.channel_effect _ _ _).mono (fun _ h => h)) ⟨rfl, fun j hj => Dev.channel_other _ _ hj, rfl, ?_⟩
  rw [Rules.chan, Fin.getElem_fin, Dev.openFound, Dev.channel_same, hrun']
  simp

/-- R211: a short to ground is found in a pulse. -/
def Dev.groundFound (d : Dev) (ch : Fin 32) : Dev :=
  d.channel ch fun c => { c with faultGround := true, cleanOff := 0, groundOn := true }

/-- R211: and reported where it was not known. -/
def Dev.groundReported (d : Dev) (ch : Fin 32) : Dev :=
  if d.valve.channels[ch].faultGround then d.groundFound ch
  else ((d.groundFound ch).fault 7 false ch).raise 0x0802 1 ch [(2, Config.eventCause 0x0802 0)]

/-- R211: the bank's other outlets take outlet faults. -/
def Dev.bankFault (d : Dev) (ch k : Fin 32) : Dev := if k = ch then d else d.channel k fun c => { c with faultBank := true }

theorem Dev.groundReported_effect (d : Dev) (ch : Fin 32) :
    Effect [.valve, .hlt, .rcd, .diag, .can] eventObjs isEmcy d (d.groundReported ch) := by
  rw [Dev.groundReported]
  split
  · exact Only.mono (d.channel_effect ch _) (by decide)
  · exact ((Only.mono (d.channel_effect ch _) (by decide)).only (Dev.fault_effect _ _ _ _) (by decide)).raise (by decide)
      (fun _ h => h) (fun _ h => h) _ _ _ _

theorem Dev.groundReported_valve (d : Dev) (ch : Fin 32) : (d.groundReported ch).valve = (d.groundFound ch).valve := by
  rw [Dev.groundReported]
  split
  · rfl
  · simp

theorem Dev.shortGround_onState (d : Dev) (ch : Fin 32) : d.shortGround ch true =
    if (d.groundReported ch).nat (bankAdr (bankOf ch) 6) = 1 then
      (bankChannels (bankOf ch)).foldl (fun x k => x.bankFault ch k)
        ((d.groundReported ch).bank (bankOf ch) fun k => { k with powered := false, groundOff := true, groundClear := false })
    else d.groundReported ch := by
  have hfound : (d.channel ch fun c => { c with
      faultGround := true, cleanOff := 0, groundOn := c.groundOn || true, groundOff := c.groundOff || !true }) = d.groundFound ch := by
    simp only [Bool.or_true, Bool.not_true, Bool.or_false]
    rfl
  rw [Dev.shortGround]
  simp only [hfound]
  rfl

theorem onDiagEff_ground {d : Dev} {ch : Fin 32} (hhold : d.valve.channels[ch].mode = .hold) :
    onDiagEff d ch .shortGround = d.shortGround ch true := by
  rw [onDiagEff, hhold]
  rfl

theorem onStateGround_holds : Rules.onStateGround.Holds := by
  refine Rule.holds_unrouted _ (fun a _ => a.2) (fun a _ d => onDiagEff d a.1 .shortGround) (by rintro t c s rfl -; rfl)
    (by simp +contextual [busObjs, eventObjs, among]) ?_
  rintro ⟨ch, t⟩ s hp
  dsimp only at hp
  obtain ⟨hhold, -, hgoes⟩ := hp
  have hreport := (s.cleared t).groundReported_effect ch
  rw [onDiagEff_ground (d := s.cleared t) hhold, Dev.shortGround_onState,
    if_neg (by rw [hreport.nat (eventObjs_bankAdr _ (by decide)), show (s.cleared t).nat (bankAdr (bankOf ch) 6) = 0 from hgoes]; decide)]
  refine Effect.unrouted_rule (hreport.mono (fun _ h => h) (fun _ h => h) fun _ h => h) (fun _ h => Dev.route_none_of_isEmcy _ h) ?_
  intro o _
  refine ⟨fun j hj => ?_, ?_, ?_⟩
  · simp [Dev.groundReported_valve, Dev.groundFound, hj]
  · simp [Dev.groundReported_valve, Dev.groundFound]
  · simp [Dev.groundReported_valve, Dev.groundFound]

theorem Dev.bankFault_effect (d : Dev) (ch k : Fin 32) : Only [.valve] d (d.bankFault ch k) := by
  rw [Dev.bankFault]
  split
  · exact Effect.refl _ _ _ d
  · exact d.channel_effect k _

theorem onStateGroundCommon_holds : Rules.onStateGroundCommon.Holds := by
  refine Rule.holds_unrouted _ (fun a _ => a.2) (fun a _ d => onDiagEff d a.1 .shortGround) (by rintro t c s rfl -; rfl)
    (by simp +contextual [busObjs, eventObjs, among]) ?_
  rintro ⟨ch, t⟩ s hp
  dsimp only at hp
  obtain ⟨hhold, hoff⟩ := hp
  have hreport := (s.cleared t).groundReported_effect ch
  rw [onDiagEff_ground (d := s.cleared t) hhold, Dev.shortGround_onState,
    if_pos ((hreport.nat (eventObjs_bankAdr _ (by decide))).trans hoff)]
  obtain ⟨X, hX⟩ : ∃ X : Dev, X = ((s.cleared t).groundReported ch).bank (bankOf ch) fun k =>
    { k with powered := false, groundOff := true, groundClear := false } := ⟨_, rfl⟩
  rw [← hX]
  have hfold := Effect.foldl (fun (x : Dev) k => Dev.bankFault_effect x ch k) (bankChannels (bankOf ch)) X
  have hbanks : ∀ (l : List (Fin 32)) (x : Dev), (l.foldl (fun x k => x.bankFault ch k) x).valve.banks = x.valve.banks := by
    intro l
    induction l with
    | nil => exact fun x => rfl
    | cons k r ih =>
      intro x
      rw [List.foldl_cons, ih, Dev.bankFault]
      split <;> rfl
  have hchannel : ∀ j : Fin 32, ((bankChannels (bankOf ch)).foldl (fun x k => x.bankFault ch k) X).valve.channels[(j : Nat)] =
      if j ∈ bankChannels (bankOf ch) then (if j = ch then id else fun c => { c with faultBank := true }) X.valve.channels[(j : Nat)]
      else X.valve.channels[(j : Nat)] := by
    intro j
    refine foldl_updateAt (get := fun x => x.valve.channels) (step := fun x k => x.bankFault ch k)
      (f := fun k => if k = ch then id else fun c => { c with faultBank := true }) (P := fun _ => True) ?_ j _ X
      ((List.nodup_finRange 32).filter _) trivial
    intro x k _
    refine ⟨?_, trivial⟩
    rw [Dev.bankFault]
    split
    · ext1 i hi
      rw [updateAt, Vector.getElem_set]
      split <;> simp_all
    · rfl
  have hmem : ∀ j : Fin 32, j ∈ bankChannels (bankOf ch) ↔ bankOf j = bankOf ch := by
    intro j
    simp [bankChannels]
  refine Effect.unrouted_rule ((Effect.only (hreport.mono (fun _ h => h) (fun _ h => h) fun _ h => h) (hX ▸ Dev.bank_effect _ _ _) (by decide)).only
    hfold (by decide)) (fun _ h => Dev.route_none_of_isEmcy _ h) ?_
  intro o _
  refine ⟨fun b hb => ?_, ?_, ?_, fun k hk hne => ?_, fun k hk => ?_⟩
  · change ((bankChannels (bankOf ch)).foldl (fun x k => x.bankFault ch k) X).valve.banks[b] = _
    rw [hbanks, hX]
    simp [Dev.groundReported_valve, Dev.groundFound, hb]
  · change ((bankChannels (bankOf ch)).foldl (fun x k => x.bankFault ch k) X).valve.banks[bankOf ch].powered = _
    rw [hbanks, hX]
    simp
  · change ((bankChannels (bankOf ch)).foldl (fun x k => x.bankFault ch k) X).valve.banks[bankOf ch].groundOff = _
    rw [hbanks, hX]
    simp
  · refine (congrArg Channel.faultBank (hchannel k)).trans ?_
    rw [if_pos ((hmem k).mpr hk), if_neg hne]
  · refine (hchannel k).trans ?_
    rw [if_neg (mt (hmem k).mp hk), hX]
    have hne : k ≠ ch := fun h => hk (congrArg bankOf h)
    simp [Dev.groundReported_valve, Dev.groundFound, hne]

/-! ### Tests in the off state -/

/-- R210: nothing keeps the power die from a test of a channel. -/
theorem Dev.switchOnSoon_none {d : Dev} (h : d.pd.commands = []) (ch : Fin 32) : d.switchOnSoon ch = false := by
  rw [Dev.switchOnSoon, h]
  rfl

theorem Dev.testedLately_never {d : Dev} {ch : Fin 32} (h : d.valve.channels[ch].testedAt = none) : d.testedLately ch = false := by
  rw [Dev.testedLately]
  simp only [h, Option.any_none, Bool.and_false]

theorem Dev.testedLately_retired {d : Dev} {ch : Fin 32} (h : d.valve.channels[ch].mode = .retired) : d.testedLately ch = false := by
  rw [Dev.testedLately]
  simp only [h, ne_eq, not_true_eq_false, decide_false, Bool.false_and]

/-- R210: a test with its pulses is made, and shorts to supply are gone. -/
def Dev.offTested (d : Dev) (ch : Fin 32) : Dev :=
  (d.channel ch fun c => { c with notTested := false, testedAt := some d.time.now }).channel ch fun c =>
    { c with supplyOff := false, trips := 0 }

theorem Dev.offTested_effect (d : Dev) (ch : Fin 32) : Only [.valve] d (d.offTested ch) :=
  (d.channel_effect ch _).trans (Dev.channel_effect _ ch _)

theorem Dev.cleanGround_unfaulted {d : Dev} {ch : Fin 32} (h : d.valve.channels[ch].faultGround = false) :
    d.cleanGround ch = d.channel ch fun c => { c with cleanOff := d.valve.channels[ch].cleanOff + 1 } := by
  rw [Dev.cleanGround]
  simp only [h, Bool.false_and]
  rfl

theorem offTestEff_open {d : Dev} {ch : Fin 32} (hdriven : d.driven ch = true) (hsoon : d.switchOnSoon ch = false)
    (hlately : d.testedLately ch = false) (hoff : d.valve.channels[ch].mode = .off)
    (hpowered : d.valve.banks[bankOf ch].powered = true) (hsettled : d.valve.banks[bankOf ch].poweredAt + 10000000 ≤ d.chain)
    (hpulses : d.flag 0x250003 = true) (hsupply : d.valve.channels[ch].supplyOff = false) :
    offTestEff d ch ⟨true, false, false⟩ = ((d.offTested ch).cleanGround ch).openLoad ch false := by
  rw [offTestEff]
  simp only [hdriven, hsoon, hlately, hoff, hpowered, hpulses, hsupply, if_neg (Nat.not_lt.mpr hsettled), Bool.not_true, Bool.and_false,
    Bool.and_true, Bool.false_and]
  rfl

theorem offStateTest_holds : Rules.offStateTest.Holds := by
  refine Rule.holds_act _ (fun a _ => a.2) (fun a _ d => offTestEff d a.1 ⟨true, false, false⟩) (by rintro t c s rfl -; rfl) ?_
  rintro ⟨ch, t⟩ s hp
  dsimp only at hp
  obtain ⟨hdriven, hcommands, hoff, hpowered, hsettled, hpulses, hrun, hsupply, hground, -, hnever⟩ := hp
  rw [← State.cleared_chain] at hsettled
  have hground' : ((s.cleared t).offTested ch).valve.channels[ch].faultGround = false := by
    rw [Fin.getElem_fin, Dev.offTested, Dev.channel_same, Dev.channel_same]
    exact hground
  have hrun' : (((s.cleared t).offTested ch).channel ch fun c =>
      { c with cleanOff := ((s.cleared t).offTested ch).valve.channels[ch].cleanOff + 1 }).valve.channels[ch].openRun = 2 := by
    rw [Fin.getElem_fin, Dev.channel_same, Dev.offTested, Dev.channel_same, Dev.channel_same]
    exact hrun
  rw [offTestEff_open (d := s.cleared t) hdriven (Dev.switchOnSoon_none (d := s.cleared t) hcommands ch)
    (Dev.testedLately_never (d := s.cleared t) hnever) hoff hpowered
    hsettled hpulses hsupply, Dev.cleanGround_unfaulted hground', Dev.openLoad_again (by rw [hrun']; decide)]
  refine Only.rule (Only.mono (((Dev.offTested_effect _ ch).trans (Dev.channel_effect _ ch _)).trans (Dev.openFound_effect _ ch false))
    (fun _ h => h)) ⟨rfl, fun j hj => ?_, rfl, ?_, ?_, ?_, ?_⟩
  · simp [Dev.openFound, Dev.offTested, hj]
  · rw [Rules.chan, Fin.getElem_fin, Dev.openFound, Dev.channel_same, hrun']
    simp
  all_goals simp [Dev.openFound, Dev.offTested]

theorem offStateNotTested_holds : Rules.offStateNotTested.Holds := by
  refine Rule.holds_act _ (fun a _ => a.2.2) (fun a _ d => offTestEff d a.1 a.2.1) (by rintro t c s rfl -; rfl) ?_
  rintro ⟨ch, r, t⟩ s hp
  dsimp only at hp
  obtain ⟨hdriven, hcommands, hoff, hpowered, hground, hnever⟩ := hp
  have heff : offTestEff (s.cleared t) ch r = (s.cleared t).channel ch fun c => { c with notTested := true } := by
    rw [offTestEff]
    simp only [show (s.cleared t).driven ch = true from hdriven, Dev.switchOnSoon_none (d := s.cleared t) hcommands,
      Dev.testedLately_never (d := s.cleared t) hnever, show (s.cleared t).valve.channels[ch].mode = .off from hoff,
      show (s.cleared t).valve.banks[bankOf ch].powered = false from hpowered,
      show (s.cleared t).valve.banks[bankOf ch].groundOff = false from hground]
    rfl
  rw [heff]
  exact Only.rule ((Dev.channel_effect _ _ _).mono (fun _ h => h)) ⟨rfl, fun j hj => Dev.channel_other _ _ hj, Dev.channel_same _ _ _⟩

theorem offStateTestEarly_holds : Rules.offStateTestEarly.Holds := by
  refine Rule.holds_act _ (fun a _ => a.2.2.2) (fun a _ d => offTestEff d a.1 a.2.1) (by rintro t c s rfl -; rfl) ?_
  rintro ⟨ch, r, last, t⟩ s hp
  dsimp only at hp
  obtain ⟨hoff, hlast, hearly⟩ := hp
  have hlately : (s.cleared t).testedLately ch = true := by
    rw [Dev.testedLately]
    simp only [show (s.cleared t).valve.channels[ch].mode = .off from hoff,
      show (s.cleared t).valve.channels[ch].testedAt = some last from hlast, Option.any_some]
    exact decide_eq_true hearly
  have heff : offTestEff (s.cleared t) ch r = s.cleared t := if_pos (by rw [hlately, Bool.or_true])
  rw [heff]
  exact Only.rule (Effect.refl _ _ _ _) rfl

/-! ### Return to service -/

theorem channelReturnWrite_holds : Rules.channelReturnWrite.Holds := by
  refine Rule.holds_logicNow _ (fun a _ d => d.writeObject .host 0x250007 (.num a.val) false none (channelReturnAct (a.val : Int).toNat))
    (by rintro a c s rfl -; rfl) (fun _ _ hp => hp.1.1) ?_
  rintro ch s ⟨hmay, hretired⟩
  rw [Dev.writeObject_host_action hmay rfl rfl rfl rfl (hostPayload_write (by decide) _) (k := 3) rfl]
  have hact : ∀ d : Dev, channelReturnAct (ch.val : Int).toNat d =
      d.channel ch fun c => { c with returning := c.mode = .retired, testDue := false } := fun d => dif_pos ch.isLt
  rw [hact]
  refine Effect.host_rule (t := s.dev.time.now) (k := 3) (p := .write 0x250007 (.num ch.val)) ((Dev.channel_effect _ ch _).mono
    (by decide)) (by decide) rfl ⟨fun j hj => ?_, rfl, ?_,
    hostTook_of_hostAnswers (t := s.dev.time.now) (by decide) rfl rfl⟩
  · exact Dev.channel_other _ _ hj
  · refine (Dev.channel_same _ _ _).trans ?_
    exact congrArg (fun m : ChannelMode => { Rules.chan s.dev ch with returning := decide (m = ChannelMode.retired), testDue := false }) hretired

/-- R493: a return test that finds nothing. -/
def Dev.returned (d : Dev) (ch : Fin 32) : Dev :=
  (d.channel ch fun c => { c with
    mode := .off, returning := false, testDue := false, trips := 0, supplyOn := false, supplyOff := false }).putBit 0x250006 ch false

theorem channelReturns_holds : Rules.channelReturns.Holds := by
  refine Rule.holds_unrouted _ (fun a _ => a.2) (fun a _ d => offTestEff d a.1 ⟨false, false, false⟩) (by rintro t c s rfl -; rfl)
    (by simp +contextual [busObjs, eventObjs, among]) ?_
  rintro ⟨ch, t⟩ s hp
  dsimp only at hp
  obtain ⟨hdriven, hcommands, hretired, hdue, hpowered⟩ := hp
  have heff : offTestEff (s.cleared t) ch ⟨false, false, false⟩ =
      ((s.cleared t).returned ch).supplyCleared ch (s.cleared t).valve.channels[ch].supplyOn := by
    rw [offTestEff]
    simp only [show (s.cleared t).driven ch = true from hdriven, Dev.switchOnSoon_none (d := s.cleared t) hcommands,
      Dev.testedLately_retired (d := s.cleared t) hretired, show (s.cleared t).valve.channels[ch].mode = .retired from hretired,
      show (s.cleared t).valve.channels[ch].testDue = true from hdue,
      show (s.cleared t).valve.banks[bankOf ch].powered = true from hpowered]
    rfl
  rw [heff]
  refine Effect.unrouted_rule (sent := isEmcy) (Effect.raise (Effect.putBit ((Dev.channel_effect _ _ _).mono (by decide)) (by rfl) _ _)
    (by decide) (by simp +contextual) (fun _ h => h) _ _ _ _) (fun _ h => Dev.route_none_of_isEmcy _ h) ?_
  intro o ho
  refine ⟨fun k hk => ?_, ?_, ?_, ?_⟩
  · simp [Dev.supplyCleared, Dev.returned, hk]
  · simp [Dev.supplyCleared, Dev.returned]
  · simp [Dev.supplyCleared, Dev.returned]
  · rw [Dev.bit, ho.nat (by decide)]
    have hraise : ((((s.cleared t).returned ch).supplyCleared ch (s.cleared t).valve.channels[ch].supplyOn)).nat 0x250006 =
        ((s.cleared t).returned ch).nat 0x250006 := (Dev.raise_effect _ _ _ _ _).nat (by decide)
    rw [hraise]
    exact Dev.bit_putBit_false _ _ _

end Sys2Proof.Machine

namespace Sys2Proof

/-- Settles O29, by a lemma for each rule. -/
theorem channelFaultsAreFound : Obligations.ChannelFaultsAreFound :=
  ⟨Machine.overcurrentTrip_holds, Machine.overcurrentRetires_holds, Machine.channelBackOffEnd_holds,
    Machine.onStateDiagnostic_holds, Machine.onStateGround_holds, Machine.onStateGroundCommon_holds,
    Machine.offStateTest_holds, Machine.offStateNotTested_holds, Machine.offStateTestEarly_holds,
    Machine.channelReturnWrite_holds, Machine.channelReturns_holds⟩

end Sys2Proof
end

