-- ==== Sys2Proof/Proofs/SwitchTests.lean ====
section
/-! PROOF. A rule of the load switches that fails (R227, Table 9.3). -/

namespace Sys2Proof.Machine

/-- An armed device with a switch in use that is off, and whose open load of the off state has had three clean tests. -/
def cleanedSwitch : State :=
  ⟨{ ((runningDev.put 0x260001 1).put (switchAdr 0 1) 1).put (switchAdr 0 7) 1 with
      pd := { powered := true, armed := true, v1 := 12000 }
      lsw := { switches := (Vector.replicate 8 {}).set 0 { openOff := true, cleanOpenOff := 3 } } }, []⟩

theorem loadSwitchOffStateTest_fails : ¬ Rules.loadSwitchOffStateTest.Holds := by
  refine Rule.not_holds (a := (0, false, 5000000)) (s := cleanedSwitch) rfl (by decide)
    (fun d => !d.lsw.switches[0].openOff) (by decide) ?_
  rintro d ⟨-, hswitch⟩
  exact congrArg (fun c : Switch => !c.openOff) hswitch

end Sys2Proof.Machine

namespace Sys2Proof

/-- Refutes O32: a test that finds a short to supply ends the open load of the off state of a switch with three clean tests. -/
theorem not_loadSwitchesAreTested : ¬ Obligations.LoadSwitchesAreTested := by
  rintro ⟨-, -, -, htest, -⟩
  exact Machine.loadSwitchOffStateTest_fails htest

end Sys2Proof
end

