-- ==== Sys2Proof/Proofs/BridgePairs.lean ====
section
/-! PROOF. A rule of the bridge PWM generator that fails (R240, R242). -/

namespace Sys2Proof.Machine

/-- An armed device with a load for a pair that is at rest with its GH forced to high. -/
def forcedPair : State :=
  ⟨{ (((runningDev.put 0x270001 1).put (pairAdr 0 1) 1).put (pairAdr 0 7) 255).put 0x270003 1 with
      pd := { powered := true, armed := true, commands := [⟨0, 0, .pwmLoad 0 64 0 0⟩] }
      pwm := { pairs := (Vector.replicate 16 {}).set 0 { force := 2, gh := true } } }, []⟩

theorem pwmPeriodStart_fails : ¬ Rules.pwmPeriodStart.Holds := by
  refine Rule.not_holds (a := (0, 64, 0, 0)) (s := forcedPair) rfl (by decide)
    (fun d => d.pwm.pairs[0].gh) (by decide) ?_
  rintro d ⟨-, -, -, -, -, -, -, -, -, hgh, -⟩
  exact hgh

end Sys2Proof.Machine

namespace Sys2Proof

/-- Refutes O33: the GH of a pair that is forced to high stays high at the start of a period with compare 0. -/
theorem not_bridgePwmRuns : ¬ Obligations.BridgePwmRuns := by
  rintro ⟨hstart, -⟩
  exact Machine.pwmPeriodStart_fails hstart

end Sys2Proof
end

