-- ==== Sys2Proof/Proofs/AxisUpdates.lean ====
section
/-! PROOF. A rule of the axes that fails (Table 11.1). -/

namespace Sys2Proof.Machine

/-- An axis on a move with a quick stop of an earlier batch, whose new settings wait for its standstill. -/
def deferredAxis : State :=
  ⟨{ runningDev.put 0x280001 1 with
      seq := { number := 1 }
      axes := (Vector.replicate 32 {}).set 0
        { set := { mode := 2 }, state := 1, speed := 1, commands := [(3, 0)], deferred := true } }, []⟩

theorem axisUpdateQuickStop_fails : ¬ Rules.axisUpdateQuickStop.Holds := by
  refine Rule.not_holds (a := (0, 0, 1000000)) (s := deferredAxis) rfl (by decide)
    (fun d => !decide (d.axes[0].state = 3)) (by decide +kernel) ?_
  rintro d ⟨-, -, -, -, -, -, hstop⟩
  exact congrArg not (decide_eq_true ((if_pos (by decide)).mp hstop).2)

end Sys2Proof.Machine

namespace Sys2Proof

/-- Refutes O34: an axis whose settings wait for its standstill takes them with the quick stop, and is at rest, not held. -/
theorem not_axesUpdate : ¬ Obligations.AxesUpdate := by
  rintro ⟨-, -, -, -, hquick, -⟩
  exact Machine.axisUpdateQuickStop_fails hquick

end Sys2Proof
end

