-- ==== Sys2Proof/Proofs/LaneAlignment.lean ====
section
/-! PROOF. A rule of the lanes' alignment that fails (R284, R298). -/

namespace Sys2Proof.Machine

/-- A retired lane that is up for its test at this start-up, beside a lane in Sync. -/
def testedLane : State :=
  ⟨{ (runningDev.put (portAdr .a 1) 1).put 0x290002 1 with
      link := { lanes := ((Vector.replicate 4 {}).set 0 { align := 3, trained := true, retest := true }).set 1 { align := 3 } } }, []⟩

theorem blockLockLoss_fails : ¬ Rules.blockLockLoss.Holds := by
  refine Rule.not_holds (a := (0, 0)) (s := testedLane) rfl (by decide)
    (fun d => !(d.lane 0).attempt) (by decide) ?_
  rintro d ⟨-, -, -, hattempt, -⟩
  exact congrArg not hattempt

end Sys2Proof.Machine

namespace Sys2Proof

/-- Refutes O36: a retired lane under test that loses block lock goes down for good, and begins no retrain attempt. -/
theorem not_lanesAlign : ¬ Obligations.LanesAlign := by
  rintro ⟨-, hloss, -⟩
  exact Machine.blockLockLoss_fails hloss

end Sys2Proof
end

