-- ==== Sys2Proof/Proofs/Acknowledgements.lean ====
section
/-! PROOF. A rule of the acknowledgements that fails (R292). -/

namespace Sys2Proof.Machine

/-- A rule fails by a state that meets its premises and after whose command an object that the rule does not name differs. -/
theorem Rule.not_holds_of_obj {α : Type} {r : Rule α} {a : α} {c : Instr} {s : State} (hc : r.cmd a c) (hp : r.pre a s) (x : Nat)
    (hx : r.objs a x = false) (hf : endsWith c s (fun d => !decide (d.int x = s.dev.int x)) = true) : ¬ r.Holds := by
  intro h
  obtain ⟨u, hexec, -, -, hobj, -⟩ := h a c s hc hp
  rw [endsWith, hexec] at hf
  exact Bool.false_ne_true ((congrArg not (decide_eq_true (hobj.int hx))).symm.trans hf)

/-- A device with a message in its replay buffer, and whose counter of undeliverable messages holds 2 ^ 32. -/
def fullCounter : State :=
  ⟨{ runningDev.put (portAdr .a 7) (2 ^ 32) with
      link := { ports := (Vector.replicate 2 {}).set 0 { data := { replay := [⟨0, 0, 0, .swapRequest 1, 1, 0⟩] } } } }, []⟩

theorem linkNegativeAcknowledgement_fails : ¬ Rules.linkNegativeAcknowledgement.Holds :=
  Rule.not_holds_of_obj (a := (.a, 2, ⟨0, 0, 0, .swapRequest 1, 1, 0⟩, 0, 0)) (s := fullCounter) rfl (by decide)
    (portAdr .a 7) (by decide) (by decide)

end Sys2Proof.Machine

namespace Sys2Proof

/-- Refutes O37: a resend adds 0 to the counter of undeliverable messages, which takes a counter that holds 2 ^ 32 to 0. -/
theorem not_messagesAreAcknowledged : ¬ Obligations.MessagesAreAcknowledged := by
  rintro ⟨-, -, -, -, -, -, -, hresend, -⟩
  exact Machine.linkNegativeAcknowledgement_fails hresend

end Sys2Proof
end

