-- ==== Sys2Proof/Proofs/LaneRetraining.lean ====
section
/-! PROOF. A rule of the lanes' retraining that fails (R298). -/

namespace Sys2Proof.Machine

/-- A retired lane that is up for its test at this start-up, beside a lane in Sync, with an error threshold of 0. -/
def alarmedLane : State :=
  ⟨{ ((runningDev.put (portAdr .a 1) 1).put 0x290002 1).put 0x290001 0 with
      link := { lanes := ((Vector.replicate 4 {}).set 0 { align := 3, trained := true, retest := true }).set 1 { align := 3 } } }, []⟩

theorem errorRateAlarm_fails : ¬ Rules.errorRateAlarm.Holds := by
  refine Rule.not_holds (a := (0, 1, 0)) (s := alarmedLane) rfl (by decide)
    (fun d => !(d.lane 0).alarm) (by decide) ?_
  rintro d ⟨-, halarm, -⟩
  exact congrArg not halarm

end Sys2Proof.Machine

namespace Sys2Proof

/-- Refutes O38: a retired lane under test whose error rate passes the threshold goes down for good, without its alarm. -/
theorem not_lanesAreRetrained : ¬ Obligations.LanesAreRetrained := by
  rintro ⟨-, -, -, halarm, -⟩
  exact Machine.errorRateAlarm_fails halarm

end Sys2Proof
end

