-- ==== Sys2Proof/Proofs/Enumeration.lean ====
section
/-! PROOF. A rule of the enumeration that fails (R304). -/

namespace Sys2Proof.Machine

/-- A device at position 5 that is not in a chain yet, and whose chain epoch holds a value below 0. -/
def belowEpoch : State := ⟨((runningDev.put 0x2A0001 0).put 0x2A0002 5).put 0x22010E (-1), []⟩

/-- Its entry in the chain table. -/
def tableFifth : TableNode := { identity := 1, kind := 0, position := 5, arm := .a, hops := 1, rotation := 0 }

/-- What leaves changes the frame counters of the buses alone. -/
theorem Dev.linkOut_obj (d : Dev) : ObjFrame busObjs d d.linkOut := by
  obtain ⟨k, hk⟩ := pushOut_frame d.out (countOut d.out d)
  intro x hx
  rw [Dev.linkOut, hk]
  exact (countOut_effect d.out d).storeGet hx

theorem Dev.newEpoch_known {d : Dev} {e : Nat} (h : e = d.nat 0x22010E) : d.newEpoch e = d := if_pos h

theorem Dev.settleAside_none {d : Dev} (h : d.jrn.setAside = []) : d.settleAside = d := if_pos h

/-- A chain table whose epoch is known leaves the chain epoch as it is. -/
theorem Dev.takeTable_epoch {d : Dev} (nodes : List TableNode) (standby map : Nat) (hposition : d.position < 32)
    (haside : d.jrn.setAside = []) (hrunning : d.seq.running = false) :
    (d.takeTable nodes (d.nat 0x22010E) standby map).int 0x22010E = d.int 0x22010E := by
  unfold Dev.takeTable
  extract_lets mine own placed before first ch seq tabled role roled known settled
  clear_value mine
  have hplaced : placed.obj = d.obj ∧ placed.jrn = d.jrn ∧ placed.seq = d.seq := by
    cases mine with
    | none => exact ⟨rfl, rfl, rfl⟩
    | some n =>
      rw [show placed = { d with ch := { d.ch with arm := n.arm, hops := n.hops } } from if_pos hposition]
      exact ⟨rfl, rfl, rfl⟩
  obtain ⟨hobj, hjrn, hseq⟩ := hplaced
  have hroled : roled.int 0x22010E = d.int 0x22010E ∧ roled.jrn = d.jrn ∧ roled.seq.running = false := by
    have htabled : tabled.int 0x22010E = d.int 0x22010E := congrArg (fun o => valInt (storeGet o 0x22010E)) hobj
    have hstill : tabled.seq.running = false := by simp [tabled, hseq, hrunning]
    simp only [roled]
    split
    · exact ⟨(Dev.int_put_other _ _ _ _ (by decide)).trans htabled, hjrn, hstill⟩
    · exact ⟨htabled, hjrn, hstill⟩
  obtain ⟨hepoch, haside', hstill⟩ := hroled
  have hnat : ((roled.put 0x2A0010 (longest nodes)).put 0x2A000C roled.takeoverWait).int 0x22010E = d.int 0x22010E := by
    rw [Dev.int_put_other _ _ _ _ (by decide), Dev.int_put_other _ _ _ _ (by decide), hepoch]
  have hknown : known = (roled.put 0x2A0010 (longest nodes)).put 0x2A000C roled.takeoverWait :=
    Dev.newEpoch_known (congrArg Int.toNat hnat.symm)
  have hsettled : settled = known := by
    simp only [settled]
    split
    · exact Dev.settleAside_none (hknown ▸ (congrArg Journal.setAside haside').trans haside)
    · rfl
  rw [if_neg (by simp [hsettled, hknown, Dev.put, Dev.putVal, hstill]), hsettled, hknown]
  exact hnat

/-- So the device above takes the table, and its epoch stays below 0. -/
theorem belowEpoch_kept : endsWith (.chainTable [tableFifth] 0 255 0 0) belowEpoch (fun d => !decide (d.int 0x22010E = 0)) = true := by
  have htaken : (chainTableEff (belowEpoch.cleared 0) [tableFifth] 0 255 0).int 0x22010E = -1 :=
    (Dev.takeTable_epoch (d := belowEpoch.cleared 0) [tableFifth] 255 0 (by decide) rfl rfl).trans (by decide)
  change (!decide ((chainTableEff (belowEpoch.cleared 0) [tableFifth] 0 255 0).linkOut.int 0x22010E = 0)) = true
  rw [(Dev.linkOut_obj _).int (by decide), htaken]
  rfl

theorem chainTable_fails : ¬ Rules.chainTable.Holds := by
  refine Rule.not_holds (a := ([tableFifth], tableFifth, 0, 255, 0, 0)) (s := belowEpoch) rfl (by decide)
    (fun d => !decide (d.int 0x22010E = 0)) belowEpoch_kept ?_
  rintro d ⟨-, -, -, -, -, -, -, hepoch, -⟩
  exact congrArg not (decide_eq_true hepoch)

end Sys2Proof.Machine

namespace Sys2Proof

/-- Refutes O39: with a chain epoch below 0 in the dictionary the epoch 0 of a chain table counts as known, and is not taken. -/
theorem not_chainIsEnumerated : ¬ Obligations.ChainIsEnumerated := by
  rintro ⟨-, -, -, -, -, -, -, -, -, htable, -⟩
  exact Machine.chainTable_fails htable

end Sys2Proof
end

