-- ==== Sys2Proof/Proofs/Takeover.lean ====
section
/-! PROOF. A rule of the takeover that fails (R139, R321). -/

namespace Sys2Proof.Machine

/-- A standby whose lead is silent while a device that is back waits for the next batch's map. -/
def waitingStandby : State :=
  ⟨{ (runningDev.put 0x2A0001 2).put 0x2A000C 1 with seq := { map := 1, mapNext := some 5 } }, []⟩

theorem takeover_fails : ¬ Rules.takeover.Holds := by
  refine Rule.not_holds (a := (0, 0)) (s := waitingStandby) rfl (by decide)
    (fun d => !decide (d.seq.map = 0)) (by decide) ?_
  rintro d ⟨-, -, -, -, hseq, -⟩
  exact congrArg not (decide_eq_true (congrArg Sequencer.map hseq))

end Sys2Proof.Machine

namespace Sys2Proof

/-- Refutes O40: the takeover of a standby that holds a map for the next batch takes that map, without the old lead. -/
theorem not_chainSurvivesFailures : ¬ Obligations.ChainSurvivesFailures := by
  rintro ⟨-, -, -, -, -, -, -, -, -, -, htakeover, -⟩
  exact Machine.takeover_fails htakeover

end Sys2Proof
end

