-- ==== Sys2Proof/Proofs/Housekeeping.lean ====
section
/-! PROOF. A rule of the housekeeping rounds that fails (R434, R436). -/

namespace Sys2Proof.Machine

/-- A device whose shutdown has begun, with the logic die's request level at 120 °C. -/
def shuttingDown : State :=
  ⟨{ ((runningDev.put 0x2D0402 1200).put 0x2D0406 1350) with power := { run := .running, shutdownBegun := true } }, []⟩

/-- A round with every sensor at 120 °C. -/
def hotRound : Housekeeping := { sensors := Vector.replicate 11 1200, vin := 0, core := 0, mram := 0, reference := 0, vpd5 := 0, late := false }

theorem housekeepingRoundRequest_fails : ¬ Rules.housekeepingRoundRequest.Holds := by
  refine Rule.not_holds (a := (hotRound, 0)) (s := shuttingDown) rfl (by decide)
    (fun d => !decide (d.hlt.throttle = 1)) (by decide) ?_
  rintro d ⟨hthrottle, -⟩
  exact congrArg not (decide_eq_true hthrottle)

end Sys2Proof.Machine

namespace Sys2Proof

/-- Refutes O52: once a shutdown has begun a round at the request level raises no request. -/
theorem not_temperatureThrottles : ¬ Obligations.TemperatureThrottles := by
  rintro ⟨-, -, hrequest, -⟩
  exact Machine.housekeepingRoundRequest_fails hrequest

end Sys2Proof
end

