-- ==== Sys2Proof/Proofs/PortReads.lean ====
section
/-! PROOF. A rule of the host port's reads that fails (R376). -/

namespace Sys2Proof.Machine

/-- A lead whose host port addresses another device. -/
def addressingElsewhere : State := ⟨leadDev.put 0x110002 5, []⟩

theorem hostRead_fails : ¬ Rules.hostRead.Holds := by
  refine Rule.not_holds (a := 0) (s := addressingElsewhere) rfl (by decide)
    (fun d => !decide (Rules.Answers d 0 0 (.num (valueWord (addressingElsewhere.dev.int 0x240201))))) (by decide) ?_
  rintro d ⟨-, hanswers⟩
  exact congrArg not (decide_eq_true hanswers)

end Sys2Proof.Machine

namespace Sys2Proof

/-- Refutes O53: a read while 0x1100:02 selects another device is not answered with the device's own object. -/
theorem not_hostPortReads : ¬ Obligations.HostPortReads := by
  rintro ⟨hread, -⟩
  exact Machine.hostRead_fails hread

end Sys2Proof
end

