-- ==== Sys2Proof/Proofs/PortWrites.lean ====
section
/-! PROOF. A rule of the host port's writes that fails (R372, R375). -/

namespace Sys2Proof.Machine

/-- A lead with nothing staged. -/
def nothingStaged : State := ⟨(leadDev.put 0x110002 255).put 0x310202 1, []⟩

theorem hostCommitStaged_fails : ¬ Rules.hostCommitStaged.Holds := by
  refine Rule.not_holds (a := 0) (s := nothingStaged) rfl (by decide)
    (fun d => decide (d.swap.writes = [])) (by decide) ?_
  rintro d ⟨hwrites, -⟩
  exact decide_eq_false fun h => absurd (h.symm.trans hwrites) (by decide)

end Sys2Proof.Machine

namespace Sys2Proof

/-- Refutes O54: a commit of staged bytes that map no writable object to a receive PDO is aborted, and not taken. -/
theorem not_hostPortWrites : ¬ Obligations.HostPortWrites := by
  rintro ⟨-, -, -, -, -, -, -, -, -, -, hcommit, -⟩
  exact Machine.hostCommitStaged_fails hcommit

end Sys2Proof
end

