-- ==== Sys2Proof/Proofs/MemoryFaults.lean ====
section
/-! PROOF. SRAM and MRAM errors: counted, suspect, spared and fenced (R425 to R428, R461). -/

namespace Sys2Proof.Machine

/-- R442: an event of memory spares names no DTC, so raising it only records it. -/
theorem Dev.raise_spare_effect (d : Dev) (kind unit : Nat) (items : List (Nat × Int)) :
    Effect [.rcd] (among [0x2F0003, 0x2F0004]) (fun _ => False) d (d.raise 0x1405 kind unit items) :=
  d.record_effect _

theorem Dev.fault_transient (d : Dev) (k : Fin 20) (u : Nat) :
    (d.fault k false u).hlt.faults[k].transient = (d.hlt.faults[k].transient + 1) % 2 ^ 32 :=
  congrArg FaultCount.transient (updateAt_same _ k _)

theorem Dev.fault_permanent (d : Dev) (k : Fin 20) (u : Nat) :
    (d.fault k true u).hlt.faults[k].permanent = (d.hlt.faults[k].permanent + 1) % 2 ^ 32 :=
  congrArg FaultCount.permanent (updateAt_same _ k _)

/-! ### SRAM -/

/-- R425: a correctable error is counted, as a fault and in its object. -/
def Dev.corrected (d : Dev) (row : Nat) : Dev :=
  (d.fault 1 false row).bump 0x2E0101

theorem Dev.corrected_effect (d : Dev) (row : Nat) : Effect [.hlt] (among [0x2E0101]) (fun _ => False) d (d.corrected row) :=
  ((d.fault_effect 1 false row).mono (by decide)).bump (by rfl)

/-- R426: the row and the instant of the last correction in it. -/
def Dev.rowNoted (d : Dev) (m : Fin 16) (row : Nat) : Dev :=
  { d with hlt := { d.hlt with
    corrected := (d.hlt.corrected.filter fun c => c.1 ≠ (m.val, row)) ++ [((m.val, row), d.time.now)] } }

theorem sramErrorEff_correctable (d : Dev) (region : SramRegion) (m : Fin 16) (row : Nat) (pass : Bool) :
    sramErrorEff d region m row false pass =
      if (d.hlt.corrected.any fun c => c.1 = (m.val, row) && d.time.now < c.2 + 86400000000000) = true then
        { (d.corrected row).rowNoted m row with hlt := { ((d.corrected row).rowNoted m row).hlt with
          suspects := d.hlt.suspects ++ [(region, m, row, pass)] } }
      else (d.corrected row).rowNoted m row :=
  rfl

theorem sramError_holds : Rules.sramError.Holds := by
  refine Rule.holds_logic _ (fun a _ => a.2.2.2.2) (fun a _ d => sramErrorEff d a.1 a.2.1 a.2.2.1 false a.2.2.2.1)
    (by rintro t c s rfl -; rfl) (fun _ _ h => h.1) ?_
  rintro ⟨region, m, row, pass, t⟩ s ⟨-, hnone⟩
  have hnone' : (s.cleared t).hlt.corrected = [] := hnone
  rw [sramErrorEff_correctable, if_neg (by rw [hnone']; exact Bool.false_ne_true)]
  have hcorrected : (((s.cleared t).corrected row).rowNoted m row).hlt.corrected =
      (s.dev.hlt.corrected.filter fun c => c.1 ≠ (m.val, row)) ++ [((m.val, row), s.nowAt t)] := rfl
  rw [hnone] at hcorrected
  exact Effect.rule (((s.cleared t).corrected_effect row).only (Dev.withHlt_effect _ _) (fun _ h => h)) (fun _ h => h.elim)
    ⟨rfl, Dev.int_put_same _ _ _, hcorrected, rfl, Dev.fault_transient _ _ _⟩

theorem sramErrorAgain_holds : Rules.sramErrorAgain.Holds := by
  refine Rule.holds_logic _ (fun a _ => a.2.2.2.2) (fun a _ d => sramErrorEff d a.1 a.2.1 a.2.2.1 false a.2.2.2.1)
    (by rintro t c s rfl -; rfl) (fun _ _ h => h.1) ?_
  rintro ⟨region, m, row, pass, t⟩ s ⟨-, hone, hlate⟩
  have hagain : ((s.cleared t).hlt.corrected.any fun c => c.1 = (m.val, row) && (s.cleared t).time.now < c.2 + 86400000000000) = true := by
    rw [show (s.cleared t).hlt.corrected = _ from hone]
    exact Bool.or_eq_true_iff.mpr (.inl (Bool.and_eq_true_iff.mpr ⟨decide_eq_true rfl, decide_eq_true hlate⟩))
  rw [sramErrorEff_correctable, if_pos hagain]
  exact Effect.rule (((s.cleared t).corrected_effect row).only (Dev.withHlt_effect _ _) (fun _ h => h)) (fun _ h => h.elim) rfl

theorem sramErrorUncorrectable_holds : Rules.sramErrorUncorrectable.Holds := by
  refine Rule.holds_logic _ (fun a _ => a.2.2.2) (fun a _ d => sramErrorEff d .duplicated a.1 a.2.1 true a.2.2.1)
    (by rintro t c s rfl -; rfl) (fun _ _ h => h) ?_
  rintro ⟨m, row, pass, t⟩ s -
  exact Effect.rule (Effect.only ((((s.cleared t).fault_effect 1 false row).mono (by decide)).bump (by rfl))
    (Dev.withHlt_effect _ _) (fun _ h => h)) (sent := fun _ => False) (fun _ h => h.elim) ⟨rfl, Dev.int_put_same _ _ _, rfl, rfl⟩

/-! ### MRAM -/

/-- R428: a failed write is a permanent fault after two retries. -/
def Dev.writeFailed (d : Dev) (row : Nat) : Dev :=
  (d.fault 2 true row).add 0x2E0202 2

theorem Dev.writeFailed_effect (d : Dev) (row : Nat) : Effect [.hlt] (among [0x2E0202]) (fun _ => False) d (d.writeFailed row) :=
  ((d.fault_effect 2 true row).mono (by decide)).add (by rfl) _

/-- R428: a block with a spare row gives one up. -/
def Dev.spareTaken (d : Dev) (b : Fin 64) : Dev :=
  { d with nvm := { d.nvm with mramSpares := d.nvm.mramSpares.set b (d.nvm.mramSpares[b] - 1) } }

/-- R428: the spare is counted, and so is the least number of spares that a block has left. -/
def Dev.spareCounted (d : Dev) (b : Fin 64) : Dev :=
  (d.bump 0x2E0203).put 0x2E0204 (min (d.nat 0x2E0204) (d.nvm.mramSpares[b]) : Nat)

theorem mramWriteFaultEff_spare {d : Dev} {b : Fin 64} (row : Nat) (h : 0 < d.nvm.mramSpares[b]) :
    mramWriteFaultEff d b row =
      (((d.writeFailed row).spareTaken b).spareCounted b).raise 0x1405 0 b [(2, Config.eventCause 0x1405 2), (3, row)] := by
  unfold mramWriteFaultEff
  extract_lets x sp n y
  rw [if_pos (by exact h)]
  exact congrArg (fun y : Dev => (y.spareCounted b).raise 0x1405 0 b [(2, Config.eventCause 0x1405 2), (3, row)])
    (show y = (d.writeFailed row).spareTaken b from rfl)

/-- R428: a block without a spare row counts a row fenced. -/
def Dev.rowFenced (d : Dev) (b : Fin 64) (row : Nat) : Dev :=
  ((d.writeFailed row).bump 0x2E0205).raise 0x1405 0 b [(2, Config.eventCause 0x1405 3), (3, row)]

theorem mramWriteFaultEff_imageA {d : Dev} {b : Fin 64} (row : Nat) (h : d.nvm.mramSpares[b] = 0) (himage : b.val < 8) :
    mramWriteFaultEff d b row =
      ({ d.rowFenced b row with nvm := { (d.rowFenced b row).nvm with
        imageA := { (d.rowFenced b row).nvm.imageA with bytes := [], loaded := 0 },
        fenced := (d.rowFenced b row).nvm.fenced.set 0 true } } : Dev).put 0x310102 5 := by
  have harea : mramArea b = 0 := if_pos himage
  refine (if_neg (by exact Nat.not_lt.mpr h.le)).trans ?_
  simp only [harea]
  rfl

theorem mramWriteFault_holds : Rules.mramWriteFault.Holds := by
  refine Rule.holds_logic _ (fun a _ => a.2.2) (fun a _ d => mramWriteFaultEff d a.1 a.2.1)
    (by rintro t c s rfl -; rfl) (fun _ _ h => h.1) ?_
  rintro ⟨b, row, t⟩ s hp
  dsimp only at hp
  obtain ⟨-, hspare⟩ := hp
  rw [mramWriteFaultEff_spare (d := s.cleared t) row hspare]
  have hspared : Effect [.hlt, .nvm] (among [0x2E0202]) (fun _ => False) (s.cleared t) (((s.cleared t).writeFailed row).spareTaken b) :=
    (((s.cleared t).writeFailed_effect row).mono (by decide) (fun _ h => h) fun _ h => h).only (Dev.withNvm_effect _ _) (by decide)
  have hfaults : (((s.cleared t).writeFailed row).spareTaken b).hlt.faults[(2 : Fin 20)].permanent =
      (s.dev.hlt.faults[(2 : Fin 20)].permanent + 1) % 2 ^ 32 := Dev.fault_permanent (s.cleared t) 2 row
  obtain ⟨x, hx⟩ : ∃ x, x = ((s.cleared t).writeFailed row).spareTaken b := ⟨_, rfl⟩
  have hnvm : x.nvm = { s.dev.nvm with mramSpares := s.dev.nvm.mramSpares.set b (s.dev.nvm.mramSpares[b] - 1) } := by
    rw [hx]
    rfl
  rw [← hx] at hspared hfaults ⊢
  have hcounted : Effect [.nvm] (among [0x2E0203, 0x2E0204]) (fun _ => False) x (x.spareCounted b) :=
    ((Effect.refl _ _ _ x).bump (by rfl)).put (by rfl) _
  have hraised := (x.spareCounted b).raise_spare_effect 0 b [(2, Config.eventCause 0x1405 2), (3, row)]
  have hlow : (x.spareCounted b).nat 0x2E0204 ≤ x.nvm.mramSpares[b] :=
    (congrArg Int.toNat (Dev.int_put_same _ _ _)).trans_le (Nat.min_le_right _ _)
  have hspares : ∀ k : Fin 64, k ≠ b → x.nvm.mramSpares[k] = s.dev.nvm.mramSpares[k] := fun k hk => by
    simp [hnvm, Fin.val_ne_of_ne hk.symm]
  refine Effect.rule (((hspared.mono (by decide) (by simp +contextual [among]) fun _ h => h).trans (hcounted.mono (by decide)
    (by simp +contextual [among]) fun _ h => h)).trans (hraised.mono (by decide) (by simp +contextual [among]) fun _ h => h))
    (fun _ h => h.elim) ?_
  have hkept : ((x.spareCounted b).raise 0x1405 0 b [(2, Config.eventCause 0x1405 2), (3, row)]).nvm = x.nvm :=
    Dev.raise_nvm _ _ _ _ _
  refine ⟨?_, fun k hk => ?_, ?_, ?_, ?_, ?_⟩
  · rw [hkept, hnvm]
    simpa using Nat.sub_add_cancel hspare
  · rw [hkept]
    exact hspares k hk
  · rw [hraised.int rfl]
    refine (Dev.int_put_other _ _ _ _ (by decide)).trans ((Dev.int_put_same _ _ _).trans ?_)
    exact congrArg (fun v : Int => (v + 1) % 2 ^ 32) (hspared.int rfl)
  · rw [hkept, hraised.nat rfl]
    exact hlow
  · rw [Dev.raise_hlt]
    exact hfaults
  · rw [hkept, hnvm]

theorem mramWriteFaultFenced_holds : Rules.mramWriteFaultFenced.Holds := by
  refine Rule.holds_logic _ (fun a _ => a.2.2) (fun a _ d => mramWriteFaultEff d a.1 a.2.1)
    (by rintro t c s rfl -; rfl) (fun _ _ h => h.1) ?_
  rintro ⟨b, row, t⟩ s hp
  dsimp only at hp
  obtain ⟨-, hnone, himage⟩ := hp
  rw [mramWriteFaultEff_imageA (d := s.cleared t) row hnone himage]
  have hcounted : Effect [.hlt] (among [0x2E0202, 0x2E0205]) (fun _ => False) (s.cleared t)
      (((s.cleared t).writeFailed row).bump 0x2E0205) :=
    (((s.cleared t).writeFailed_effect row).mono (by decide) (by simp +contextual [among]) fun _ h => h).bump (by rfl)
  have hraised := Dev.raise_spare_effect (((s.cleared t).writeFailed row).bump 0x2E0205) 0 b
    [(2, Config.eventCause 0x1405 3), (3, row)]
  obtain ⟨x, hx⟩ : ∃ x, x = (s.cleared t).rowFenced b row := ⟨_, rfl⟩
  rw [Dev.rowFenced] at hx
  have hnvm : x.nvm = s.dev.nvm := by
    simp [hx, Dev.writeFailed, Dev.bump, Dev.add, Dev.put]
  rw [← hx] at hraised
  rw [Dev.rowFenced, ← hx]
  refine Effect.rule (((hcounted.mono (by decide) (by simp +contextual [among]) fun _ h => h).trans (hraised.mono (by decide)
    (by simp +contextual [among]) fun _ h => h)).only (Dev.withNvm_effect _ _) (by decide) |>.put (by rfl) _) (fun _ h => h.elim)
    ⟨?_, congrArg Int.toNat (Dev.int_put_same _ _ _), ?_, ?_, ?_⟩
  · refine (Dev.int_put_other _ _ _ _ (by decide)).trans ((hraised.int rfl).trans ((Dev.int_put_same _ _ _).trans ?_))
    exact congrArg (fun v : Int => (v + 1) % 2 ^ 32) (((s.cleared t).writeFailed_effect row).int rfl)
  all_goals rw [Dev.put, Dev.putVal_nvm, hnvm]
  simp

end Sys2Proof.Machine

namespace Sys2Proof

/-- Settles O51, by a lemma for each rule. -/
theorem memoryFaultsAreSpared : Obligations.MemoryFaultsAreSpared :=
  ⟨Machine.sramError_holds, Machine.sramErrorAgain_holds, Machine.sramErrorUncorrectable_holds,
    Machine.mramWriteFault_holds, Machine.mramWriteFaultFenced_holds⟩

end Sys2Proof
end

