-- ==== Sys2Proof/Proofs/BusMessages.lean ====
section
/-! SUPPORT. Rules whose command sends messages that one bus counts: only that bus's frame counter changes (R362). -/

namespace Sys2Proof.Machine

/-- R362: only the counters of the buses that carry the messages count them. -/
theorem countOut_counted {p : Nat → Bool} : ∀ (l : List Emit) (d : Dev),
    (∀ e ∈ l, ∀ x, busCounter e = some x → p x = true) → Effect [] p (fun _ => False) d (countOut l d)
  | [], d, _ => Effect.refl _ _ _ d
  | e :: r, d, h => by
    rw [countOut]
    split
    case h_1 a ha =>
      refine Effect.trans ((Dev.putVal_effect d a _).mono (fun _ h => h) (fun x hx => ?_) fun _ h => h)
        (countOut_counted r _ fun e he => h e (List.mem_cons_of_mem _ he))
      rw [show x = a by simpa [among] using hx]
      exact h e List.mem_cons_self a ha
    case h_2 => exact countOut_counted r d fun e he => h e (List.mem_cons_of_mem _ he)

/-- A rule whose command sends nothing by the link, and only what counters that it may change count. -/
theorem Rule.holds_counted {α : Type} (r : Rule α) (t : α → State → Nat) (f : α → State → Dev → Dev)
    (he : ∀ a c s, r.cmd a c → r.pre a s → exec c s = s.act (t a s) (f a s))
    (h : ∀ a s, r.pre a s →
      (∀ e ∈ (f a s (s.cleared (t a s))).out, (s.cleared (t a s)).route e = none ∧ ∀ x, busCounter e = some x → r.objs a x = true) ∧
      Frame r.parts s.dev (f a s (s.cleared (t a s))) ∧ ObjFrame (r.objs a) s.dev (f a s (s.cleared (t a s))) ∧
      ∀ o, ObjFrame busObjs (f a s (s.cleared (t a s))) { f a s (s.cleared (t a s)) with obj := o } →
        r.post a s { f a s (s.cleared (t a s)) with obj := o }) : r.Holds := by
  intro a c s hc hp
  obtain ⟨hout, hframe, hobj, hpost⟩ := h a s hp
  generalize hD : f a s (s.cleared (t a s)) = D at hout hframe hobj hpost
  have hlink : (f a s (({ s.dev with out := [] } : Dev).at (t a s))).linkOut = countOut D.out D := by
    rw [← Dev.linkOut_unrouted D fun e he => Dev.route_none (hout e he).1 D, ← hD]
    rfl
  have hcounted := countOut_counted (p := r.objs a) D.out D fun e he => (hout e he).2
  refine ⟨{ s with dev := countOut D.out D }, ?_, rfl, ?_, ?_, ?_⟩
  · rw [he a c s hc hp, State.act_eq, hlink]
  · exact hframe.trans (hcounted.frame.mono (by simp))
  · exact hobj.trans hcounted.obj
  · obtain ⟨o, ho⟩ := countOut_frame D.out D
    have hcount := (countOut_effect D.out D).obj
    rw [ho] at hcount ⊢
    exact hpost o hcount

/-- The same for a command that acts while the logic die runs. -/
theorem Rule.holds_counted_logic {α : Type} (r : Rule α) (t : α → State → Nat) (f : α → State → Dev → Dev)
    (he : ∀ a c s, r.cmd a c → r.pre a s → exec c s = s.logic (t a s) (f a s)) (hr : ∀ a s, r.pre a s → Runs s)
    (h : ∀ a s, r.pre a s →
      (∀ e ∈ (f a s (s.cleared (t a s))).out, (s.cleared (t a s)).route e = none ∧ ∀ x, busCounter e = some x → r.objs a x = true) ∧
      Frame r.parts s.dev (f a s (s.cleared (t a s))) ∧ ObjFrame (r.objs a) s.dev (f a s (s.cleared (t a s))) ∧
      ∀ o, ObjFrame busObjs (f a s (s.cleared (t a s))) { f a s (s.cleared (t a s)) with obj := o } →
        r.post a s { f a s (s.cleared (t a s)) with obj := o }) : r.Holds := by
  refine r.holds_counted t f (fun a c s hc hp => ?_) h
  rw [he a c s hc hp, State.logic_eq s _ _ (hr a s hp), State.act_eq]

/-- What a rule asks of a command whose messages its buses count. -/
theorem Effect.counted_rule {α : Type} {r : Rule α} {a : α} {s : State} {t : Nat} {b : Dev} {sent : Emit → Prop}
    (h : Effect r.parts (r.objs a) sent (s.cleared t) b)
    (hsent : ∀ e, sent e → (s.cleared t).route e = none ∧ ∀ x, busCounter e = some x → r.objs a x = true)
    (hpost : ∀ o, ObjFrame busObjs b { b with obj := o } → r.post a s { b with obj := o }) :
    (∀ e ∈ b.out, (s.cleared t).route e = none ∧ ∀ x, busCounter e = some x → r.objs a x = true) ∧
      Frame r.parts s.dev b ∧ ObjFrame (r.objs a) s.dev b ∧ ∀ o, ObjFrame busObjs b { b with obj := o } → r.post a s { b with obj := o } :=
  ⟨fun e he => (h.out e he).elim (fun hmem => by simp at hmem) (hsent e), (s.cleared_same t _).trans h.frame, h.obj, hpost⟩

/-- R362: the messages that CAN-I carries. -/
def onCanI (e : Emit) : Prop := busCounter e = some 0x2C0113

/-- R362: the messages that CAN-P carries. -/
def onCanP (e : Emit) : Prop := busCounter e = some 0x2C0213

theorem Dev.route_none_of_bus (d : Dev) {e : Emit} {x : Nat} (h : busCounter e = some x) : d.route e = none := by
  cases e with
  | tileTransfer | tileRequest | paintDelta | share | shareCredit | shareConfirmation | guestResult | mirror | request | response => cases h
  | _ => rfl

/-- A message of CAN-I leaves by CAN-I alone, and its frame counter counts it. -/
theorem counted_of_onCanI {d : Dev} {e : Emit} {p : Nat → Bool} (h : onCanI e) (hp : p 0x2C0113 = true) :
    d.route e = none ∧ ∀ x, busCounter e = some x → p x = true :=
  ⟨d.route_none_of_bus h, fun _ hx => Option.some.inj (h.symm.trans hx) ▸ hp⟩

theorem counted_of_onCanP {d : Dev} {e : Emit} {p : Nat → Bool} (h : onCanP e) (hp : p 0x2C0213 = true) :
    d.route e = none ∧ ∀ x, busCounter e = some x → p x = true :=
  ⟨d.route_none_of_bus h, fun _ hx => Option.some.inj (h.symm.trans hx) ▸ hp⟩

end Sys2Proof.Machine
end

