-- ==== Sys2Proof/Proofs/Diagnostics.lean ====
section
/-! PROOF. Transport sessions and diagnostics on CAN-I (R365, R366, Table 15.2). -/

namespace Sys2Proof.Machine

/-! ### Transport sessions -/

theorem Dev.withIso_effect (d : Dev) (f : Iso → Iso) : Only [.can] d (d.iso f) :=
  Effect.of_blank rfl rfl rfl

/-- R365: the first packet of a message that no session stands in the way of. -/
theorem transportEff_first {d : Dev} (htalks : d.isoTalks = true) (hnone : d.can.iso.sessions = []) {data : List Byte}
    (hlength : data.length ≤ 1785) (source pgn : Nat) :
    transportEff d source pgn data false =
      (d.iso fun z => { z with sessions := [⟨source, pgn, data.length, 1, false⟩] }).send (.transport 0 source pgn) := by
  have hshort : ¬ 1785 < data.length := Nat.not_lt.mpr hlength
  have hfits : ¬ 65536 < data.length := by omega
  simp [transportEff, htalks, hnone, hshort, hfits]

/-- R365: with two TP sessions of other sources open a third is refused. -/
theorem transportEff_refused {d : Dev} (htalks : d.isoTalks = true) {x y : Transport} (hopen : d.can.iso.sessions = [x, y])
    (hx : x.etp = false) (hy : y.etp = false) {source : Nat} (hxs : x.source ≠ source) (hys : y.source ≠ source) {data : List Byte}
    (hlength : data.length ≤ 1785) (pgn : Nat) :
    transportEff d source pgn data false = (d.iso fun z => { z with sessions := [x, y] }).send (.transport 2 source pgn) := by
  have hshort : ¬ 1785 < data.length := Nat.not_lt.mpr hlength
  have hfits : ¬ 65536 < data.length := by omega
  simp [transportEff, htalks, hopen, hx, hy, hxs, hys, hshort, hfits]

/-- R365: the last packet of the one session. -/
theorem transportEff_last {d : Dev} (htalks : d.isoTalks = true) {x : Transport} (hopen : d.can.iso.sessions = [x])
    {data : List Byte} (hlength : x.bytes + data.length ≤ 1785) :
    transportEff d x.source x.pgn data true = (d.iso fun z => { z with sessions := [] }).send (.transport 1 x.source x.pgn) := by
  have hshort : ¬ 1785 < x.bytes + data.length := Nat.not_lt.mpr hlength
  have hfits : ¬ 65536 < x.bytes + data.length := by omega
  simp [transportEff, htalks, hopen, hshort, hfits]

/-- A rule of CAN-I whose command sends one message there and else changes only parts. -/
theorem sentOnCanI {α : Type} {r : Rule α} {a : α} {s : State} {t : Nat} {b : Dev} {ps : List Part} (e : Emit) (h : Only ps (s.cleared t) b)
    (hps : ∀ p, p ∈ ps → p ∈ r.parts) (hbus : onCanI e) (hobj : r.objs a 0x2C0113 = true)
    (hpost : ∀ o, r.post a s { b.send e with obj := o }) :
    (∀ e' ∈ (b.send e).out, (s.cleared t).route e' = none ∧ ∀ x, busCounter e' = some x → r.objs a x = true) ∧
      Frame r.parts s.dev (b.send e) ∧ ObjFrame (r.objs a) s.dev (b.send e) ∧
      ∀ o, ObjFrame busObjs (b.send e) { b.send e with obj := o } → r.post a s { b.send e with obj := o } :=
  Effect.counted_rule (sent := onCanI) ((h.mono hps).send hbus) (fun _ he => counted_of_onCanI he hobj) fun o _ => hpost o

theorem transportPacket_holds : Rules.transportPacket.Holds := by
  refine Rule.holds_counted_logic _ (fun a _ => a.2.2.2) (fun a _ d => transportEff d a.1 a.2.1 a.2.2.1 false)
    (by rintro t c s rfl -; rfl) (fun _ _ h => h.1.1) ?_
  rintro ⟨source, pgn, data, t⟩ s ⟨⟨-, htalks⟩, hnone, hlength⟩
  rw [transportEff_first (d := s.cleared t) htalks hnone hlength]
  exact sentOnCanI _ (Dev.withIso_effect _ _) (fun _ h => h) rfl rfl fun _ => ⟨rfl, rfl⟩

theorem transportPacketRefused_holds : Rules.transportPacketRefused.Holds := by
  refine Rule.holds_counted_logic _ (fun a _ => a.2.2.2) (fun a _ d => transportEff d a.2.2.1.1 a.2.2.1.2.1 a.2.2.1.2.2 false)
    (by rintro t c s rfl -; rfl) (fun _ _ h => h.1.1) ?_
  rintro ⟨x, y, ⟨source, pgn, data⟩, t⟩ s ⟨⟨-, htalks⟩, hopen, hx, hy, hxs, hys, hlength⟩
  rw [transportEff_refused (d := s.cleared t) htalks hopen hx hy hxs hys hlength]
  have hsame : (s.cleared t).iso (fun z => { z with sessions := [x, y] }) = s.cleared t := by
    rw [Dev.iso, ← show (s.cleared t).can.iso.sessions = [x, y] from hopen]
  rw [hsame]
  exact sentOnCanI _ (Effect.refl _ _ _ _) (fun _ h => h) rfl rfl fun _ => rfl

theorem transportPacketLast_holds : Rules.transportPacketLast.Holds := by
  refine Rule.holds_counted_logic _ (fun a _ => a.2.2) (fun a _ d => transportEff d a.1.source a.1.pgn a.2.1 true)
    (by rintro t c s rfl -; rfl) (fun _ _ h => h.1.1) ?_
  rintro ⟨x, data, t⟩ s ⟨⟨-, htalks⟩, hopen, -, hlength⟩
  rw [transportEff_last (d := s.cleared t) htalks hopen hlength]
  exact sentOnCanI _ (Dev.withIso_effect _ _) (fun _ h => h) rfl rfl fun _ => ⟨rfl, rfl⟩

theorem transportTimeout_holds : Rules.transportTimeout.Holds := by
  refine Rule.holds_counted_logic _ (fun a _ => a.2) (fun a _ d => transportTimeoutEff d a.1.source)
    (by rintro t c s rfl -; rfl) (fun _ _ h => h.1.1) ?_
  rintro ⟨x, t⟩ s ⟨⟨-, htalks⟩, hopen⟩
  have heff : transportTimeoutEff (s.cleared t) x.source =
      ((s.cleared t).iso fun z => { z with sessions := [] }).send (.transport 2 x.source x.pgn) := by
    have hopen' : (s.cleared t).can.iso.sessions = [x] := hopen
    have htalks' : ((s.cleared t).iso fun z => { z with sessions := [] }).isoTalks = true := htalks
    simp only [transportTimeoutEff, Dev.iso, hopen', List.filter_cons, List.filter_nil, decide_true, if_true, ne_eq, not_true_eq_false,
      decide_false, Bool.false_eq_true, if_false]
    exact if_pos htalks'
  rw [heff]
  exact sentOnCanI _ (Dev.withIso_effect _ _) (fun _ h => h) rfl rfl fun _ => ⟨rfl, rfl⟩

/-! ### Diagnostics -/

theorem diagnosticRequest_holds : Rules.diagnosticRequest.Holds := by
  refine Rule.holds_counted_logic _ (fun a _ => a.2.2) (fun a _ d => diagnosticEff d a.1 a.2.1)
    (by rintro t c s rfl -; rfl) (fun _ _ h => h.1.1) ?_
  rintro ⟨pgn, source, t⟩ s hp
  dsimp only at hp
  obtain ⟨⟨-, htalks⟩, rfl | rfl⟩ := hp
  · rw [show diagnosticEff (s.cleared t) 65227 source = (s.cleared t).send (.dtcs 65227 source s.dev.amber (s.dev.dtcList false)) from
      if_neg (by rw [show (s.cleared t).isoTalks = true from htalks]; exact Bool.false_ne_true)]
    exact sentOnCanI _ (Effect.refl _ _ _ _) (fun _ h => h) rfl rfl fun _ => rfl
  · rw [show diagnosticEff (s.cleared t) 64653 source = (s.cleared t).send (.identification 64653 source (s.dev.str 0x100800)) from
      if_neg (by rw [show (s.cleared t).isoTalks = true from htalks]; exact Bool.false_ne_true)]
    exact sentOnCanI _ (Effect.refl _ _ _ _) (fun _ h => h) rfl rfl fun _ => rfl

theorem dm3Clear_holds : Rules.dm3Clear.Holds := by
  refine Rule.holds_logic _ (fun a _ => a.2) (fun _ _ d => dm3Eff d) (by rintro t c s rfl -; rfl) (fun _ _ h => h.1) ?_
  rintro ⟨source, t⟩ s ⟨-, htalks⟩
  rw [dm3Eff, if_pos (show (s.cleared t).isoTalks = true from htalks)]
  exact Only.rule (Dev.withDiag_effect _ _) ⟨rfl, rfl⟩

theorem dm11Clear_holds : Rules.dm11Clear.Holds :=
  Rule.holds_logic _ (fun a _ => a.2) (fun _ _ d => dm11Eff d) (by rintro t c s rfl -; rfl) (fun _ _ h => h)
    fun _ _ _ => Only.rule (Effect.refl _ _ _ _) ⟨rfl, rfl⟩

theorem Dev.dm1Due_of {d : Dev} (hamber : d.amber = true)
    (h : d.diag.fresh = true ∨ d.diag.dm1At = none ∨ ∃ x ∈ d.diag.dm1At, x + 1000000000 ≤ d.time.now) : d.dm1Due = true := by
  rw [Dev.dm1Due, hamber, Bool.true_and, Bool.or_eq_true_iff]
  refine h.imp_right fun h => ?_
  rcases h with h | ⟨x, hx, hlate⟩
  · rw [h]
  · rw [Option.mem_def.mp hx]
    exact decide_eq_true hlate

theorem dm1Send_holds : Rules.dm1Send.Holds := by
  refine Rule.holds_counted_logic _ (fun t _ => t) (fun _ _ d => dm1Eff d) (by rintro t c s rfl -; rfl) (fun _ _ h => h.1.1) ?_
  rintro t s ⟨⟨-, htalks⟩, hamber, hdue⟩
  have hguard : ((s.cleared t).isoTalks && (s.cleared t).dm1Due) = true :=
    Bool.and_eq_true_iff.mpr ⟨htalks, Dev.dm1Due_of (d := s.cleared t) hamber hdue⟩
  rw [dm1Eff, if_pos hguard]
  exact sentOnCanI _ (Dev.withDiag_effect _ _) (fun _ h => h) rfl rfl fun _ => ⟨rfl, rfl⟩

theorem dm1SendEarly_holds : Rules.dm1SendEarly.Holds := by
  refine Rule.holds_logic _ (fun a _ => a.1) (fun _ _ d => dm1Eff d) (by rintro t c s rfl -; rfl) (fun _ _ h => h.1) ?_
  rintro ⟨t, x⟩ s ⟨-, hstale, hlast, hearly⟩
  have hdue : (s.cleared t).dm1Due = false := by
    simp only [Dev.dm1Due, show (s.cleared t).diag.fresh = false from hstale, show (s.cleared t).diag.dm1At = some x from hlast]
    rw [show decide (x + 1000000000 ≤ (s.cleared t).time.now) = false from decide_eq_false (Nat.not_le.mpr hearly),
      Bool.or_false, Bool.and_false]
  rw [dm1Eff, if_neg (by rw [hdue, Bool.and_false]; exact Bool.false_ne_true)]
  exact Only.rule (Effect.refl _ _ _ _) rfl

theorem dm1SendNone_holds : Rules.dm1SendNone.Holds := by
  refine Rule.holds_logic _ (fun t _ => t) (fun _ _ d => dm1Eff d) (by rintro t c s rfl -; rfl) (fun _ _ h => h.1) ?_
  rintro t s ⟨-, hamber⟩
  have hdue : (s.cleared t).dm1Due = false := by
    rw [Dev.dm1Due, show (s.cleared t).amber = false from hamber, Bool.false_and]
  rw [dm1Eff, if_neg (by rw [hdue, Bool.and_false]; exact Bool.false_ne_true)]
  exact Only.rule (Effect.refl _ _ _ _) rfl

end Sys2Proof.Machine

namespace Sys2Proof

/-- Settles O46, by a lemma for each rule. -/
theorem iso11783Serves : Obligations.Iso11783Serves :=
  ⟨Machine.transportPacket_holds, Machine.transportPacketRefused_holds, Machine.transportPacketLast_holds,
    Machine.transportTimeout_holds, Machine.diagnosticRequest_holds, Machine.dm3Clear_holds, Machine.dm11Clear_holds,
    Machine.dm1Send_holds, Machine.dm1SendEarly_holds, Machine.dm1SendNone_holds⟩

end Sys2Proof
end

