-- ==== Sys2Proof/Proofs/AxisCommands.lean ====
section
/-! PROOF. Axis commands, coarse steps and row-drive status (R270 to R275, R330). -/

namespace Sys2Proof.Machine

theorem Dev.axis_same (d : Dev) (n : Fin 32) (f : Axis → Axis) : (d.axis n f).axes[n] = f d.axes[n] :=
  updateAt_same _ n f

theorem Dev.axis_other (d : Dev) {n k : Fin 32} (f : Axis → Axis) (h : k ≠ n) : (d.axis n f).axes[k] = d.axes[k] :=
  updateAt_other _ f h

/-! ### Commands and positions -/

/-- 0x2810 to 0x282F: the row of an axis's move command. -/
theorem objRow_moveCommand (n : Fin 32) : ∃ r, objRow (axisAdr n 0x13) = some r ∧ r.kind = .wo ∧ r.chain = false ∧
    authenticated r (axisAdr n 0x13) = false ∧ entryKind r (axisAdr n 0x13) = 3 := by
  fin_cases n
  all_goals exact ⟨_, rfl, rfl, rfl, rfl, rfl⟩

/-- 0x2810 to 0x282F: the row of an axis's position. -/
theorem objRow_position (n : Fin 32) : ∃ r, objRow (axisAdr n 0x14) = some r ∧ r.kind = .rw ∧ r.chain = false ∧
    authenticated r (axisAdr n 0x14) = false ∧ entryKind r (axisAdr n 0x14) = 2 := by
  fin_cases n
  all_goals exact ⟨_, rfl, rfl, rfl, rfl, rfl⟩

theorem hostPayload_axis (n : Fin 32) {k : Nat} (hk : k < 256) (v : Val) : hostPayload (axisAdr n k) v = .write (axisAdr n k) v :=
  hostPayload_write (by simp only [axisAdr, adr]; omega) v

/-- R272: a rule of a move command: it is accepted, and waits at the axis under this batch. -/
theorem moveCommand_rule {r : Rule (Fin 32)} {n : Fin 32} {s : State} {c : Nat} (hmay : Rules.HostMay s (axisAdr n 0x13) (.num c))
    (hparts : r.parts = [.jrn, .axes]) (hobjs : r.objs n 0x110003 = true)
    (hpost : ∀ d, Rules.HostTook s d 3 (.write (axisAdr n 0x13) (.num c)) ∧ Rules.onlyAxis n s.dev d ∧
      Rules.axis d n = { Rules.axis s.dev n with commands := (Rules.axis s.dev n).commands ++ [(c, s.dev.seq.number)] } → r.post n s d) :
    plain ((s.cleared s.dev.time.now).writeObject .host (axisAdr n 0x13) (.num c) false none (moveCommandAct n c)) = true ∧
      Frame r.parts s.dev ((s.cleared s.dev.time.now).writeObject .host (axisAdr n 0x13) (.num c) false none (moveCommandAct n c)) ∧
      ObjFrame (r.objs n) s.dev
        ((s.cleared s.dev.time.now).writeObject .host (axisAdr n 0x13) (.num c) false none (moveCommandAct n c)) ∧
      r.post n s ((s.cleared s.dev.time.now).writeObject .host (axisAdr n 0x13) (.num c) false none (moveCommandAct n c)) := by
  obtain ⟨row, hr, hkind, hchain, hauth, hentry⟩ := objRow_moveCommand n
  rw [Dev.writeObject_host_action hmay hr hauth hkind hchain (hostPayload_axis n (by decide) _) hentry]
  refine Effect.host_rule (t := s.dev.time.now) (k := 3) (p := .write (axisAdr n 0x13) (.num c))
    (Only.mono (Dev.axis_effect _ n _) (by simp [hparts])) (by simp [hparts]) hobjs
    (hpost _ ⟨hostTook_of_hostAnswers (t := s.dev.time.now) (by decide) rfl rfl, fun k hk => ?_, ?_⟩)
  · exact Dev.axis_other _ _ hk
  · exact Dev.axis_same _ _ _

theorem moveGo_holds : Rules.moveGo.Holds :=
  Rule.holds_logicNow _ (fun n _ d => d.writeObject .host (axisAdr n 0x13) (.num 1) false none (moveCommandAct n 1))
    (by rintro n c s rfl -; rfl) (fun _ _ h => h.1) fun _ _ h => moveCommand_rule (c := 1) h rfl rfl fun _ h => h

theorem moveStop_holds : Rules.moveStop.Holds :=
  Rule.holds_logicNow _ (fun n _ d => d.writeObject .host (axisAdr n 0x13) (.num 2) false none (moveCommandAct n 2))
    (by rintro n c s rfl -; rfl) (fun _ _ h => h.1) fun _ _ h => moveCommand_rule (c := 2) h rfl rfl fun _ h => h

theorem quickStop_holds : Rules.quickStop.Holds :=
  Rule.holds_logicNow _ (fun n _ d => d.writeObject .host (axisAdr n 0x13) (.num 3) false none (moveCommandAct n 3))
    (by rintro n c s rfl -; rfl) (fun _ _ h => h.1) fun _ _ h => moveCommand_rule (c := 3) h rfl rfl fun _ h => h

theorem moveResume_holds : Rules.moveResume.Holds :=
  Rule.holds_logicNow _ (fun n _ d => d.writeObject .host (axisAdr n 0x13) (.num 4) false none (moveCommandAct n 4))
    (by rintro n c s rfl -; rfl) (fun _ _ h => h.1) fun _ _ h => moveCommand_rule (c := 4) h rfl rfl fun _ h => h

theorem moveAbandon_holds : Rules.moveAbandon.Holds :=
  Rule.holds_logicNow _ (fun n _ d => d.writeObject .host (axisAdr n 0x13) (.num 5) false none (moveCommandAct n 5))
    (by rintro n c s rfl -; rfl) (fun _ _ h => h.1) fun _ _ h => moveCommand_rule (c := 5) h rfl rfl fun _ h => h

theorem positionWrite_holds : Rules.positionWrite.Holds := by
  refine Rule.holds_logicNow _ (fun a _ d => d.writeObject .host (axisAdr a.1 0x14) (.num a.2) false (positionState d a.1)
    (positionAct a.1 a.2)) (by rintro n c s rfl -; rfl) (fun _ _ h => h.1.1) ?_
  rintro ⟨n, v⟩ s hp
  dsimp only at hp
  obtain ⟨hmay, hstill⟩ := hp
  obtain ⟨row, hr, hkind, hchain, hauth, hentry⟩ := objRow_position n
  have hstate : positionState (s.cleared s.dev.time.now) n = none := if_pos hstill
  rw [hstate, Dev.writeObject_host_setting hmay hr hauth hkind hchain (hostPayload_axis n (by decide) _) hentry]
  have hset := (Effect.refl [.jrn, .axes] (among [0x110003, axisAdr n 0x14]) isAnswer ((s.cleared s.dev.time.now).hostTakes 2
    (.write (axisAdr n 0x14) (.num v)))).putVal (x := axisAdr n 0x14) (by simp [among]) (.num v)
  obtain ⟨x, hx⟩ : ∃ x, x = ((s.cleared s.dev.time.now).hostTakes 2 (.write (axisAdr n 0x14) (.num v))).putVal (axisAdr n 0x14) (.num v) :=
    ⟨_, rfl⟩
  have haxes : x.axes = s.dev.axes := by
    rw [hx, Dev.putVal_axes]
    rfl
  have hnumber : x.seq.number = s.dev.seq.number := by
    rw [hx, Dev.putVal_seq]
    rfl
  have hjrn : x.jrn = ((s.cleared s.dev.time.now).hostTakes 2 (.write (axisAdr n 0x14) (.num v))).jrn := by
    rw [hx, Dev.putVal_jrn]
  rw [← hx] at hset ⊢
  refine Effect.host_rule (t := s.dev.time.now) (k := 2) (p := .write (axisAdr n 0x14) (.num v))
    (hset.only (Dev.axis_effect x n _) (by decide)) (by decide) rfl
    ⟨hostTook_of_hostAnswers (t := s.dev.time.now) (by decide) (congrArg Journal.openHalf hjrn) (congrArg Journal.waiting hjrn),
      fun k hk => ?_, ?_⟩
  · exact (Dev.axis_other x _ hk).trans (congrArg (fun l : Vector Axis 32 => l[k]) haxes)
  · refine (Dev.axis_same x n _).trans ?_
    rw [haxes, hnumber]

theorem positionWriteMoving_holds : Rules.positionWriteMoving.Holds := by
  refine Rule.holds_logicNow _ (fun a _ d => d.writeObject .host (axisAdr a.1 0x14) (.num a.2) false (positionState d a.1)
    (positionAct a.1 a.2)) (by rintro n c s rfl -; rfl) (fun _ _ h => h.1.1) ?_
  rintro ⟨n, v⟩ s hp
  dsimp only at hp
  obtain ⟨hmay, hmoves⟩ := hp
  obtain ⟨row, hr, -, -, hauth, -⟩ := objRow_position n
  have hstate : positionState (s.cleared s.dev.time.now) n = some 0x08000022 := if_neg hmoves
  rw [hstate, Dev.writeObject_host_refused hmay hr hauth]
  refine Effect.rule (sent := isAnswer) (((Dev.recordAbort_effect _ _ _ _).mono (by decide) (by simp +contextual [among, or_imp])
    fun _ h => h.elim).trans ((Dev.hostAnswers_effect _ _ _).mono (by decide) (by simp +contextual [among]) fun _ h => h))
    (fun _ h => unsent_of_isAnswer _ h) ⟨?_, ?_⟩
  · refine (Dev.hostAnswers_int _ _ _ (by decide)).trans ?_
    simp [Dev.recordAbort, Dev.int_put]
  · refine (Dev.hostAnswers_int _ _ _ (by decide)).trans ?_
    simp [Dev.recordAbort, Dev.bump, Dev.int_put]

/-! ### Coarse steps -/

theorem coarseStepEff_eq {d : Dev} {n : Fin 32} (h : d.steppedAxis = some n) (forward : Bool) :
    coarseStepEff d forward = (d.bump 0x280006).axis n fun x => { x with
      coarsePrev := x.coarse
      coarse := wrap32 (if forward then x.coarse + d.nat (axisAdr n 0x1B) else x.coarse - d.nat (axisAdr n 0x1B))
      coarsePrevAt := if x.coarseForward = forward then x.coarseAt else none
      coarseAt := some (d.chain / 4 * 4), coarseForward := forward } := by
  rw [coarseStepEff, h]
  rfl

theorem Dev.coarseStep_effect (d : Dev) (n : Fin 32) (f : Axis → Axis) :
    Effect [.axes] (among [0x280006]) (fun _ => False) d ((d.bump 0x280006).axis n f) :=
  ((Effect.refl _ _ _ d).bump (by rfl)).only (Dev.axis_effect _ n f) (fun _ h => h)

theorem coarseStep_holds : Rules.coarseStep.Holds := by
  refine Rule.holds_logic _ (fun a _ => a.2.2) (fun a _ d => coarseStepEff d a.2.1) (by rintro n c s rfl -; rfl) (fun _ _ h => h.1) ?_
  rintro ⟨n, forward, t⟩ s hp
  dsimp only at hp
  obtain ⟨-, hstepped, rfl⟩ := hp
  rw [coarseStepEff_eq (d := s.cleared t) hstepped]
  refine Effect.rule (Dev.coarseStep_effect _ n _) (fun _ h => h.elim)
    ⟨rfl, fun k hk => Dev.axis_other _ _ hk, Dev.int_put_same _ _ _, ?_⟩
  refine (Dev.axis_same _ _ _).trans ?_
  have hturn : (if (Rules.axis s.dev n).coarseForward then (Rules.axis s.dev n).coarse + s.dev.nat (axisAdr n 0x1B)
      else (Rules.axis s.dev n).coarse - s.dev.nat (axisAdr n 0x1B)) =
      (Rules.axis s.dev n).coarse + (if (Rules.axis s.dev n).coarseForward then 1 else -1) * s.dev.nat (axisAdr n 0x1B) := by
    split <;> ring
  show { Rules.axis s.dev n with
      coarsePrev := (Rules.axis s.dev n).coarse
      coarse := wrap32 (if (Rules.axis s.dev n).coarseForward then (Rules.axis s.dev n).coarse + s.dev.nat (axisAdr n 0x1B)
        else (Rules.axis s.dev n).coarse - s.dev.nat (axisAdr n 0x1B))
      coarsePrevAt := if (Rules.axis s.dev n).coarseForward = (Rules.axis s.dev n).coarseForward then (Rules.axis s.dev n).coarseAt else none
      coarseAt := some (s.chainAt t / 4 * 4), coarseForward := (Rules.axis s.dev n).coarseForward } = _
  rw [hturn, if_pos rfl]

theorem coarseStepTurns_holds : Rules.coarseStepTurns.Holds := by
  refine Rule.holds_logic _ (fun a _ => a.2.2) (fun a _ d => coarseStepEff d a.2.1) (by rintro n c s rfl -; rfl) (fun _ _ h => h.1) ?_
  rintro ⟨n, forward, t⟩ s hp
  dsimp only at hp
  obtain ⟨-, hstepped, hturns⟩ := hp
  rw [coarseStepEff_eq (d := s.cleared t) hstepped]
  refine Effect.rule (Dev.coarseStep_effect _ n _) (fun _ h => h.elim) ⟨rfl, fun k hk => Dev.axis_other _ _ hk, ?_, ?_, ?_, ?_⟩
  all_goals rw [Rules.axis, Dev.axis_same]
  · rfl
  · exact if_neg hturns
  · rfl

theorem coarseStepTimeout_holds : Rules.coarseStepTimeout.Holds := by
  refine Rule.holds_logic _ (fun a _ => a.2.2) (fun _ _ d => coarseTimeoutEff d) (by rintro n c s rfl -; rfl) (fun _ _ h => h.1) ?_
  rintro ⟨n, b, t⟩ s hp
  dsimp only at hp
  obtain ⟨-, hstepped, hlast, hlate⟩ := hp
  have heff : coarseTimeoutEff (s.cleared t) =
      (s.cleared t).axis n fun x => { x with coarsePrev := x.coarse, coarseAt := none, coarsePrevAt := none } := by
    rw [coarseTimeoutEff, show (s.cleared t).steppedAxis = some n from hstepped]
    simp only [show (s.cleared t).axes[n].coarseAt = some b from hlast]
    exact if_neg (Nat.not_lt.mpr hlate)
  rw [heff]
  exact Only.rule (Dev.axis_effect _ n _) ⟨rfl, fun k hk => Dev.axis_other _ _ hk, Dev.axis_same _ _ _⟩

/-! ### Row drives -/

theorem rowDriveStatus_holds : Rules.rowDriveStatus.Holds := by
  refine Rule.holds_logic _ (fun a _ => a.2) (fun a _ d => rowDriveEff d a.1) (by rintro n c s rfl -; rfl) (fun _ _ h => h) ?_
  rintro ⟨st, t⟩ s -
  exact Only.rule (Dev.withRowDrives_effect _ _) ⟨rfl, rfl⟩

end Sys2Proof.Machine

namespace Sys2Proof

/-- Settles O35, by a lemma for each rule. -/
theorem axisCommandsAct : Obligations.AxisCommandsAct :=
  ⟨Machine.moveGo_holds, Machine.moveStop_holds, Machine.quickStop_holds, Machine.moveResume_holds,
    Machine.moveAbandon_holds, Machine.positionWrite_holds, Machine.positionWriteMoving_holds,
    Machine.coarseStep_holds, Machine.coarseStepTurns_holds, Machine.coarseStepTimeout_holds,
    Machine.rowDriveStatus_holds⟩

end Sys2Proof
end

