-- ==== Sys2Proof/Proofs/SignalTracking.lean ====
section
/-! PROOF. Baseband channels: allocation, movement between states, kept data and starts (R339, R341, R342, R352, R353). -/

namespace Sys2Proof.Machine

/-! ### Moving a channel -/

theorem Dev.setChannel_effect (d : Dev) (c : Fin 64) (f : GnssChannel → GnssChannel) : Only [.gnss] d (d.setChannel c f) :=
  d.baseband_effect _

theorem Dev.setChannel_same (d : Dev) (c : Fin 64) (f : GnssChannel → GnssChannel) :
    (d.setChannel c f).gnss.channels[c] = f d.gnss.channels[c] :=
  updateAt_same _ c f

theorem Dev.setChannel_other (d : Dev) {c k : Fin 64} (f : GnssChannel → GnssChannel) (h : k ≠ c) :
    (d.setChannel c f).gnss.channels[k] = d.gnss.channels[k] :=
  updateAt_other _ f h

/-- Table 14.3: a channel that has been in its state long enough moves. -/
theorem moveChannel_of_trackerIn {s : State} {k : Fin 64} {n after t : Nat} (h : Rules.trackerIn s k n after t) (dest : Nat)
    (f : GnssChannel → GnssChannel) :
    (s.cleared t).moveChannel k n dest after f =
      (s.cleared t).setChannel k fun x => f { x with state := dest, enteredAt := s.nowAt t } := by
  obtain ⟨⟨-, hrunning⟩, hlate, hstate, hsome⟩ := h
  have hguard : ((s.cleared t).gnss.running && (s.cleared t).gnss.channels[k].state = n && (s.cleared t).gnss.channels[k].satellite.isSome
      && (s.cleared t).gnss.channels[k].enteredAt + after ≤ (s.cleared t).time.now) = true :=
    Bool.and_eq_true_iff.mpr ⟨Bool.and_eq_true_iff.mpr ⟨Bool.and_eq_true_iff.mpr ⟨hrunning, decide_eq_true hstate⟩, hsome⟩,
      decide_eq_true hlate⟩
  exact if_pos hguard

/-- Table 14.3: what a rule asks of a channel that moves and keeps its satellite. -/
theorem moved_rule {r : Rule (Fin 64 × Nat)} {k : Fin 64} {t n after dest : Nat} {s : State} {f : GnssChannel → GnssChannel} {slip : Bool}
    (h : Rules.trackerIn s k n after t) (hparts : r.parts = [.gnss]) {x : GnssChannel}
    (hx : x = f { Rules.tracker s.dev k with state := dest, enteredAt := s.nowAt t })
    (hf : x.state = dest ∧ x.satellite = (Rules.tracker s.dev k).satellite ∧ x.slip = slip ∧ x.enteredAt = s.nowAt t)
    (hpost : ∀ d : Dev, Rules.trackerMoved k dest t slip s d → Rules.tracker d k = x → r.post (k, t) s d) :
    plain ((s.cleared t).moveChannel k n dest after f) = true ∧ Frame r.parts s.dev ((s.cleared t).moveChannel k n dest after f) ∧
      ObjFrame (r.objs (k, t)) s.dev ((s.cleared t).moveChannel k n dest after f) ∧
      r.post (k, t) s ((s.cleared t).moveChannel k n dest after f) := by
  obtain ⟨hstate, hsatellite, hslip, hentered⟩ := hf
  rw [moveChannel_of_trackerIn h]
  have hsame : Rules.tracker ((s.cleared t).setChannel k fun x => f { x with state := dest, enteredAt := s.nowAt t }) k = x :=
    (Dev.setChannel_same _ _ _).trans hx.symm
  refine Only.rule ((Dev.setChannel_effect _ k _).mono (by simp [hparts])) (hpost _ ⟨rfl, ?_, ?_, ?_, ?_, ?_, rfl⟩ hsame)
  · rw [hsame, hstate]
  · rw [hsame, hsatellite]
  · rw [hsame, hslip]
  · rw [hsame, hentered]
  · exact fun j hj => Dev.setChannel_other _ _ hj

theorem acquisitionPeak_holds : Rules.acquisitionPeak.Holds :=
  Rule.holds_logic _ (fun a _ => a.2) (fun a _ d => d.moveChannel a.1 1 2 0 id) (by rintro t c s rfl -; rfl)
    (fun _ _ h => h.1.1) fun _ _ h => moved_rule h rfl rfl ⟨rfl, rfl, rfl, rfl⟩ fun _ hd _ => hd

theorem channelLock_holds : Rules.channelLock.Holds :=
  Rule.holds_logic _ (fun a _ => a.2) (fun a _ d => d.moveChannel a.1 2 3 200000000 id) (by rintro t c s rfl -; rfl)
    (fun _ _ h => h.1.1) fun _ _ h => moved_rule h rfl rfl ⟨rfl, rfl, rfl, rfl⟩ fun _ hd _ => hd

theorem pullInTimeout_holds : Rules.pullInTimeout.Holds :=
  Rule.holds_logic _ (fun a _ => a.2) (fun a _ d => d.moveChannel a.1 2 1 2000000000 id) (by rintro t c s rfl -; rfl)
    (fun _ _ h => h.1.1) fun _ _ h => moved_rule h rfl rfl ⟨rfl, rfl, rfl, rfl⟩ fun _ hd _ => hd

theorem reacquirePeak_holds : Rules.reacquirePeak.Holds :=
  Rule.holds_logic _ (fun a _ => a.2) (fun a _ d => d.moveChannel a.1 4 2 0 id) (by rintro t c s rfl -; rfl)
    (fun _ _ h => h.1.1) fun _ _ h => moved_rule h rfl rfl ⟨rfl, rfl, rfl, rfl⟩ fun _ hd _ => hd

theorem trackLoss_holds : Rules.trackLoss.Holds :=
  Rule.holds_logic _ (fun a _ => a.2) (fun a _ d => d.moveChannel a.1 3 4 200000000 (fun c => { c with slip := true })) (by rintro t c s rfl -; rfl)
    (fun _ _ h => h.1.1) fun _ _ h => moved_rule h rfl rfl ⟨rfl, rfl, rfl, rfl⟩ fun _ hd _ => hd

theorem acquisitionExhausted_holds : Rules.acquisitionExhausted.Holds :=
  Rule.holds_logic _ (fun a _ => a.2) (fun a _ d => d.moveChannel a.1 1 0 0 (fun c => c.release d.time.now)) (by rintro t c s rfl -; rfl)
    (fun _ _ h => h.1.1) fun _ _ h => moved_rule h rfl rfl ⟨rfl, rfl, rfl, rfl⟩ fun _ hd hx => ⟨hd, congrArg GnssChannel.idleSince hx⟩

theorem reacquireTimeout_holds : Rules.reacquireTimeout.Holds :=
  Rule.holds_logic _ (fun a _ => a.2) (fun a _ d => d.moveChannel a.1 4 0 10000000000 (fun c => c.release d.time.now)) (by rintro t c s rfl -; rfl)
    (fun _ _ h => h.1.1) fun _ _ h => moved_rule h rfl rfl ⟨rfl, rfl, rfl, rfl⟩ fun _ hd hx => ⟨hd, congrArg GnssChannel.idleSince hx⟩

theorem channelTooEarly_holds : Rules.channelTooEarly.Holds := by
  refine Rule.holds_logic _ (fun a _ => a.2) (fun a _ d => d.moveChannel a.1 2 1 2000000000 id) (by rintro t c s rfl -; rfl)
    (fun _ _ h => h.1) ?_
  rintro ⟨k, t⟩ s ⟨-, hearly⟩
  have hstays : (s.cleared t).moveChannel k 2 1 2000000000 id = s.cleared t := by
    refine if_neg fun h => ?_
    exact absurd (of_decide_eq_true (Bool.and_eq_true_iff.mp h).2) (Nat.not_le.mpr hearly)
  rw [hstays]
  exact Only.rule (Effect.refl _ _ _ _) rfl

theorem sidePeakLock_holds : Rules.sidePeakLock.Holds := by
  refine Rule.holds_logic _ (fun a _ => a.2.2) (fun a _ d => if bocSignal d.gnss.channels[a.1] && sidePeak a.2.1 then
    d.moveChannel a.1 3 2 100000000 (fun c => { c with code := c.code + (if a.2.1[6] < a.2.1[0] then -5 else 5) }) else d)
    (by rintro t c s rfl -; rfl) (fun _ _ h => h.1.1.1) ?_
  rintro ⟨k, v, t⟩ s hp
  dsimp only at hp
  obtain ⟨htracks, hband, hboc, hside, hearly⟩ := hp
  have hguard : (bocSignal (s.cleared t).gnss.channels[k] && sidePeak v) = true := by
    refine Bool.and_eq_true_iff.mpr ⟨Bool.and_eq_true_iff.mpr ⟨decide_eq_true hband, hboc⟩, decide_eq_true ?_⟩
    exact hside.trans_le (Nat.mul_le_mul_left _ (Nat.le_max_left _ _))
  rw [if_pos hguard, moveChannel_of_trackerIn htracks, if_pos hearly]
  refine Only.rule (Dev.setChannel_effect _ k _) ⟨rfl, ?_⟩
  exact congrArg (fun l => { s.dev.gnss with channels := l }) (congrArg (s.dev.gnss.channels.set k) rfl)

/-! ### Allocation -/

/-- R339: the channels of which the first are allotted, in their order. -/
def allotted (l : List GnssChannel) : Vector GnssChannel 64 := Vector.ofFn fun k => l.getD k {}

theorem allotted_get (l : List GnssChannel) (k : Fin 64) : (allotted l)[k] = l.getD k {} := by
  simp [allotted]

theorem allotted_nil : allotted [] = Vector.replicate 64 {} := by
  ext i hi
  simp [allotted]

/-- R339: a satellite that has no channel of the band gets the first free one. -/
theorem allot_allotted {l : List GnssChannel} (htaken : ∀ c ∈ l, c.satellite.isSome = true) (hlength : l.length < 64) {now band : Nat}
    {x : Satellite} (hnew : ∀ c ∈ l, (c.band = band && c.satellite.any (sameSatellite x)) = false) :
    allot now band (allotted l) x = allotted (l ++ [{ state := 1, satellite := some x, band := band, enteredAt := now }]) := by
  have hnone : ((allotted l).toList.any fun c => c.band = band && c.satellite.any (sameSatellite x)) = false := by
    rw [List.any_eq_false]
    intro c hc
    obtain ⟨k, hk, rfl⟩ := List.getElem_of_mem hc
    have hget : (allotted l).toList[k] = l.getD k {} := by simp [allotted]
    rw [hget]
    rcases Nat.lt_or_ge k l.length with hin | hout
    · rw [List.getD_eq_getElem _ _ hin, hnew _ (List.getElem_mem hin)]
      exact Bool.false_ne_true
    · rw [List.getD_eq_default _ _ hout]
      simp
  have hfree : ((List.finRange 64).find? fun k => (allotted l)[k].satellite.isNone) = some ⟨l.length, hlength⟩ := by
    rw [List.find?_eq_some_iff_getElem]
    refine ⟨by simp [allotted], l.length, by simpa using hlength, by simp, fun j hj => ?_⟩
    have hsome := htaken _ (List.getElem_mem hj)
    simpa [allotted, List.getElem?_eq_getElem hj, Option.isSome_iff_ne_none] using hsome
  rw [allot, if_neg (by rw [hnone]; exact Bool.false_ne_true), hfree]
  refine Vector.ext fun i hi => ?_
  simp only [allotted, Vector.getElem_set, Vector.getElem_ofFn]
  split
  case isTrue h =>
    subst h
    simp
  case isFalse h =>
    rcases Nat.lt_or_ge i l.length with hin | hout
    · rw [List.getD_append _ _ _ _ hin]
    · rw [List.getD_eq_default _ _ hout, List.getD_eq_default _ _ (by simp; omega)]

/-- R339: with no channel in use there is none to keep. -/
theorem keepChannel_replicate (d : Dev) (sats : List Satellite) :
    (Vector.replicate 64 ({} : GnssChannel)).map (d.keepChannel sats) = allotted [] := by
  rw [allotted_nil, Vector.map_replicate]
  rfl

theorem testBit_lt {b k : Nat} (hk : k < b) : (2 ^ b - 1).testBit k = true := by
  rw [Nat.testBit_two_pow_sub_one]
  exact decide_eq_true hk

/-- R339: two satellites that stand above the mask, by falling elevation. -/
theorem listed_two {d : Dev} (hfixed : d.gnss.fixed = true) (hconst : d.nat 0x2B0003 = 15) {x y : Satellite}
    (hx : x.constellation < 4) (hy : y.constellation < 4) (hmask : d.int 0x2B0005 ≤ x.elevation) (habove : x.elevation < y.elevation) :
    d.listed [x, y] = [y, x] := by
  have hbit : ∀ c, c < 4 → d.bit 0x2B0003 c = true := fun c hc => by
    rw [Dev.bit, hconst]
    exact testBit_lt hc
  have hmask' : d.int 0x2B0005 ≤ y.elevation := hmask.trans habove.le
  simp [Dev.listed, hbit _ hx, hbit _ hy, hmask, hmask', byElevation, habove]

/-- R339: the channel that an allocation gives a satellite. -/
def searching (now band : Nat) (x : Satellite) : GnssChannel :=
  { state := 1, satellite := some x, band := band, enteredAt := now }

theorem allocationEff_two {d : Dev} (hrunning : d.gnss.running = true) (hfirst : d.gnss.allottedAt = none)
    (hchannels : d.gnss.channels = Vector.replicate 64 {}) (hclock : ∀ n : Fin 2, d.gnss.inputs[n].clock = true)
    (hbands : d.nat 0x2B0004 = 3) {x y : Satellite} (hlisted : d.listed [x, y] = [y, x]) (hdiff : sameSatellite x y = false) :
    allocationEff d [x, y] = d.baseband fun g => { g with
      channels := allotted [searching d.time.now 0 y, searching d.time.now 0 x, searching d.time.now 1 y, searching d.time.now 1 x]
      allottedAt := some d.time.now } := by
  have hbit : ∀ b : Fin 2, (d.bit 0x2B0004 b && d.gnss.inputs[b].clock) = true := fun b => by
    rw [hclock b, Dev.bit, hbands, Bool.and_true]
    exact testBit_lt b.isLt
  have hfour : [y, x].foldl (allot d.time.now 1) ([y, x].foldl (allot d.time.now 0) (allotted [])) =
      allotted [searching d.time.now 0 y, searching d.time.now 0 x, searching d.time.now 1 y, searching d.time.now 1 x] := by
    simp only [List.foldl_cons, List.foldl_nil]
    rw [allot_allotted (by simp) (by simp) (by simp), allot_allotted (by simp) (by simp) (by simp [hdiff]),
      allot_allotted (by simp) (by simp) (by simp), allot_allotted (by simp) (by simp) (by simp [hdiff])]
    rfl
  rw [allocationEff, hfirst, if_neg (by simp), channelAllocationEff, if_neg (by simp [hrunning])]
  simp only [hchannels, keepChannel_replicate, hlisted]
  refine congrArg (fun l => d.baseband fun g => { g with channels := l, allottedAt := some d.time.now }) ?_
  rw [if_pos (hbit 1), if_pos (hbit 0)]
  exact hfour

theorem channelAllocation_holds : Rules.channelAllocation.Holds := by
  refine Rule.holds_logic _ (fun a _ => a.2.2) (fun a _ d => allocationEff d [a.1, a.2.1])
    (by rintro t c s rfl -; rfl) (fun _ _ h => h.1.1) ?_
  rintro ⟨x, y, t⟩ s hp
  dsimp only at hp
  obtain ⟨⟨-, hrunning⟩, hfirst, hchannels, hclock, hfixed, hconst, hbands, hx, hy, hmask, habove, hdiff⟩ := hp
  have hlisted : (s.cleared t).listed [x, y] = [y, x] := listed_two (d := s.cleared t) hfixed hconst hx hy hmask habove
  have heff := allocationEff_two (d := s.cleared t) hrunning hfirst hchannels hclock hbands hlisted hdiff
  rw [heff]
  refine Only.rule (Dev.baseband_effect _ _) ⟨rfl, ?_, ?_, ?_, ?_, fun k hk => ?_⟩
  · exact allotted_get _ 0
  · exact allotted_get _ 1
  · exact allotted_get _ 2
  · exact allotted_get _ 3
  · exact (allotted_get _ k).trans (List.getD_eq_default _ _ hk)

theorem channelAllocationEarly_holds : Rules.channelAllocationEarly.Holds := by
  refine Rule.holds_logic _ (fun a _ => a.2.2) (fun a _ d => allocationEff d a.1)
    (by rintro t c s rfl -; rfl) (fun _ _ h => h.1) ?_
  rintro ⟨sats, b, t⟩ s ⟨-, hlast, hearly⟩
  have hguard : ((s.cleared t).gnss.allottedAt.any fun b => (s.cleared t).time.now < b + 1000000000) = true := by
    rw [show (s.cleared t).gnss.allottedAt = some b from hlast]
    exact any_some_of (p := fun b => (s.cleared t).time.now < b + 1000000000) hearly
  rw [allocationEff, if_pos hguard]
  exact Only.rule (Effect.refl _ _ _ _) rfl

theorem channelAllocationNone_holds : Rules.channelAllocationNone.Holds := by
  refine Rule.holds_logic _ (fun a _ => a.2) (fun a _ d => allocationEff d [a.1])
    (by rintro t c s rfl -; rfl) (fun _ _ h => h.1.1) ?_
  rintro ⟨x, t⟩ s hp
  dsimp only at hp
  obtain ⟨⟨-, hrunning⟩, hfirst, hchannels, hwarm, hlow⟩ := hp
  have hsearch : (s.cleared t).coldSearch = false := by
    rw [Dev.coldSearch]
    rcases hwarm with h | h
    · rw [show (s.cleared t).gnss.fixed = true from h, Bool.not_true, Bool.and_false]
    · rw [show decide ((s.cleared t).gnss.startKind = 2) = false from decide_eq_false h, Bool.false_and]
  have hlisted : (s.cleared t).listed [x] = [] := by
    rcases hlow with h | h
    · simp [Dev.listed, hsearch, Int.not_le.mpr h]
    · simp [Dev.listed, show (s.cleared t).bit 0x2B0003 x.constellation = false from h]
  have heff : allocationEff (s.cleared t) [x] =
      (s.cleared t).baseband fun g => { g with channels := allotted [], allottedAt := some (s.cleared t).time.now } := by
    rw [allocationEff, show (s.cleared t).gnss.allottedAt = none from hfirst, if_neg (by simp), channelAllocationEff,
      if_neg (by rw [show (s.cleared t).gnss.running = true from hrunning]; decide)]
    simp only [show (s.cleared t).gnss.channels = _ from hchannels, keepChannel_replicate, hlisted, List.foldl_nil, ite_self]
  rw [heff]
  exact Only.rule (Dev.baseband_effect _ _) ⟨rfl, allotted_nil⟩

/-! ### Kept data and starts -/

theorem keptDataCommitEarly_holds : Rules.keptDataCommitEarly.Holds := by
  refine Rule.holds_logic _ (fun t _ => t) (fun _ _ d => keptCommitEff d) (by rintro t c s rfl -; rfl) (fun _ _ h => h.1) ?_
  rintro t s ⟨-, hearly⟩
  rw [keptCommitEff, if_neg (show ¬ (s.cleared t).gnss.keptAt + 60000000000 ≤ (s.cleared t).time.now from Nat.not_le.mpr hearly)]
  exact Only.rule (Effect.refl _ _ _ _) rfl

theorem keptDataCommit_holds : Rules.keptDataCommit.Holds := by
  refine Rule.holds_logic _ (fun t _ => t) (fun _ _ d => keptCommitEff d) (by rintro t c s rfl -; rfl) (fun _ _ h => h.1) ?_
  rintro t s ⟨-, hlate, hchanged, herase⟩
  rw [keptCommitEff, if_pos (show (s.cleared t).gnss.keptAt + 60000000000 ≤ (s.cleared t).time.now from hlate), Dev.commitKept,
    if_neg (by rw [show (s.cleared t).gnss.erase = false from herase]; exact Bool.false_ne_true),
    if_pos (show (s.cleared t).gnss.changed = true from hchanged)]
  have hkept : ∀ a, a = 0x2B020D ∨ a = 0x2B0304 →
      storeGet (keptGnss.foldl (fun l x => storePut l x (storeGet s.dev.obj x)) []) a = storeGet s.dev.obj a := by
    rintro a (rfl | rfl)
    all_goals simp [keptGnss, storeGet_put_same, storeGet_put_other]
  refine Effect.rule (Effect.bump (((Dev.withNvm_effect _ _).mono (by decide)).only (Dev.baseband_effect _ _) (by decide)) (by rfl))
    (sent := fun _ => False) (fun _ h => h.elim) ⟨rfl, rfl, rfl, rfl, hkept _ (.inl rfl), hkept _ (.inr rfl), rfl, Dev.int_put_same _ _ _⟩

theorem keptDataCommitErases_holds : Rules.keptDataCommitErases.Holds := by
  refine Rule.holds_logic _ (fun t _ => t) (fun _ _ d => keptCommitEff d) (by rintro t c s rfl -; rfl) (fun _ _ h => h.1) ?_
  rintro t s ⟨-, hlate, herase⟩
  rw [keptCommitEff, if_pos (show (s.cleared t).gnss.keptAt + 60000000000 ≤ (s.cleared t).time.now from hlate), Dev.commitKept,
    if_pos (show (s.cleared t).gnss.erase = true from herase)]
  refine Effect.rule (Effect.bump (((Dev.withNvm_effect _ _).mono (by decide)).only (Dev.baseband_effect _ _) (by decide)) (by rfl))
    (sent := fun _ => False) (fun _ h => h.elim) ⟨rfl, rfl, rfl, rfl, ?_⟩
  exact if_pos (by simp [Dev.baseband, Dev.bump, Dev.put])

theorem keptDataErase_holds : Rules.keptDataErase.Holds := by
  refine Rule.holds_logicNow _ (fun _ _ d => d.writeObject .host 0x2B0602 (.num 1) false none fun d => d.baseband fun g => { g with erase := true })
    (by rintro t c s rfl -; rfl) (fun _ _ h => h.1) ?_
  rintro a s hmay
  rw [Dev.writeObject_host_action hmay rfl rfl rfl rfl (hostPayload_write (by decide) _) (k := 3) rfl]
  exact Effect.host_rule (t := s.dev.time.now) (k := 3) (p := .write 0x2B0602 (.num 1)) (Only.mono (Dev.baseband_effect _ _) (by decide))
    (by decide) rfl ⟨rfl, hostTook_of_hostAnswers (t := s.dev.time.now) (by decide) rfl rfl⟩

theorem startFallback_holds : Rules.startFallback.Holds := by
  refine Rule.holds_logic _ (fun t _ => t) (fun _ _ d => startFallbackEff d) (by rintro t c s rfl -; rfl) (fun _ _ h => h.1.1) ?_
  rintro t s ⟨⟨-, hrunning⟩, hfixed, hlate⟩
  have hguard : ((s.cleared t).gnss.running && !(s.cleared t).gnss.fixed && (s.cleared t).gnss.startKind < 2 &&
      (s.cleared t).gnss.kindAt + (if (s.cleared t).gnss.startKind = 0 then 5000000000 else 60000000000) ≤ (s.cleared t).time.now) = true := by
    rw [show (s.cleared t).gnss.running = true from hrunning, show (s.cleared t).gnss.fixed = false from hfixed]
    rcases hlate with ⟨hkind, hlate⟩ | ⟨hkind, hlate⟩
    all_goals
      rw [show (s.cleared t).gnss.startKind = _ from hkind]
      simpa using hlate
  rw [show startFallbackEff (s.cleared t) = (s.cleared t).baseband fun g => { g with
    startKind := g.startKind + 1, waits := false, kindAt := (s.cleared t).time.now } from if_pos hguard]
  exact Only.rule (Dev.baseband_effect _ _) ⟨rfl, rfl⟩

end Sys2Proof.Machine

namespace Sys2Proof

/-- Settles O43, by a lemma for each rule. -/
theorem signalsAreTracked : Obligations.SignalsAreTracked :=
  ⟨Machine.channelAllocation_holds, Machine.channelAllocationEarly_holds, Machine.channelAllocationNone_holds,
    Machine.acquisitionPeak_holds, Machine.acquisitionExhausted_holds, Machine.channelLock_holds,
    Machine.channelTooEarly_holds, Machine.pullInTimeout_holds, Machine.trackLoss_holds, Machine.sidePeakLock_holds,
    Machine.reacquirePeak_holds, Machine.reacquireTimeout_holds, Machine.keptDataCommitEarly_holds,
    Machine.keptDataCommit_holds, Machine.keptDataCommitErases_holds, Machine.keptDataErase_holds,
    Machine.startFallback_holds⟩

end Sys2Proof
end

