-- ==== Sys2Proof/Proofs/Resets.lean ====
section
/-! PROOF. Resets of the logic die, and the debug port (R29, R255, R437, R439, R441, R463, R466, R479). -/

namespace Sys2Proof.Machine

/-! ### A record is written -/

theorem Dev.notice_effect (d : Dev) (r : Record) : Effect [.rcd, .hp] (among [0x2F0302, 0x2F0202]) (fun _ => False) d (d.notice r) := by
  unfold Dev.notice
  split
  all_goals
    dsimp only
    split
  · refine Effect.bump ?_ (by rfl)
    exact Effect.of_blank rfl rfl rfl
  · exact Effect.of_blank rfl rfl rfl
  · refine Effect.bump ?_ (by rfl)
    exact Effect.of_blank rfl rfl rfl
  · exact Effect.of_blank rfl rfl rfl

/-- R445: the objects that the writing of a record counts in. -/
def recordObjs : Nat → Bool := among [0x2F0002, 0x2F000D, 0x2F0006, 0x2F0007, 0x2F0302, 0x2F0202]

theorem Effect.ite {ps : List Part} {objs : Nat → Bool} {sent : Emit → Prop} {a b c : Dev} {p : Prop} [Decidable p]
    (hb : Effect ps objs sent a b) (hc : Effect ps objs sent a c) : Effect ps objs sent a (if p then b else c) := by
  split
  · exact hb
  · exact hc

theorem Dev.writeRecord_effect (d : Dev) (e : Event) : Effect [.rcd, .hp, .nvm] recordObjs (fun _ => False) d (d.writeRecord e) := by
  unfold Dev.writeRecord
  dsimp only
  refine Effect.trans ?_ ((Dev.notice_effect _ _).mono (by decide) (by simp +contextual [among, recordObjs]) fun _ h => h)
  refine Effect.ite (Effect.bump (Effect.ite (Effect.bump ?_ (by rfl)) ?_) (by rfl)) (Effect.ite (Effect.bump ?_ (by rfl)) ?_)
  all_goals
    refine Effect.put ?_ (by rfl) _
    refine Effect.put ?_ (by rfl) _
    exact Effect.of_blank rfl rfl rfl

/-- R445: the device records lie beside the event records, and stay. -/
theorem Dev.writeRecord_kept (d : Dev) (e : Event) : (d.writeRecord e).nvm.kept = d.nvm.kept := by
  have hnotice : ∀ (x : Dev) (r : Record), (x.notice r).nvm = x.nvm := fun x r => ((x.notice_effect r).frame .nvm (by decide)).symm
  unfold Dev.writeRecord
  dsimp only
  rw [hnotice]
  simp only [apply_ite Dev.nvm, Dev.bump, Dev.put, Dev.putVal_nvm, ite_self]

theorem Dev.writeEvent_effect (d : Dev) (e : Event) : Effect [.rcd, .hp, .nvm] recordObjs (fun _ => False) d (d.writeEvent e) :=
  Effect.ite (((d.writeRecord_effect e).only (Dev.withNvm_effect _ _) (by decide)).trans (Dev.writeRecord_effect _ _)) (d.writeRecord_effect e)

theorem Dev.writeEvent_kept (d : Dev) (e : Event) : (d.writeEvent e).nvm.kept = d.nvm.kept := by
  unfold Dev.writeEvent
  dsimp only
  split
  · rw [Dev.writeRecord_kept]
    exact d.writeRecord_kept e
  · exact d.writeRecord_kept e

/-! ### Resets -/

/-- R479: a rule of a command that resets the logic die: every object may go, and nothing leaves. -/
theorem reset_rule {α : Type} {r : Rule α} {a : α} {s : State} {t : Nat} {b : Dev} (hblank : (s.cleared t).blank r.parts = b.blank r.parts)
    (hobjs : ∀ x, r.objs a x = true) (hout : b.out = []) (hpost : r.post a s b) :
    plain b = true ∧ Frame r.parts s.dev b ∧ ObjFrame (r.objs a) s.dev b ∧ r.post a s b := by
  refine ⟨?_, (s.cleared_same t _).trans (Frame.of_blank hblank), fun x hx => ?_, hpost⟩
  · rw [plain, hout]
    rfl
  · rw [hobjs x] at hx
    cases hx

theorem powerOnReset_holds : Rules.powerOnReset.Holds := by
  refine Rule.holds_act _ (fun a _ => a.2) (fun a _ d => powerOnEff d a.1) (by rintro t c s rfl -; rfl) ?_
  rintro ⟨role, t⟩ s ⟨harmed, hfield⟩
  have hkept : ∀ k : Store, storeFind (storePut k 0x2F0009 (.num ((valInt ((storeFind k 0x2F0009).getD (objDefault 0x2F0009)) + 1) % 2 ^ 32)))
      0x310202 = storeFind k 0x310202 := fun k => storeFind_put_other _ _ _ _ (by decide)
  have hstays : ∀ d : Dev, d.nvm.kept = s.dev.keptNow → ¬ (d.bumpKept 0x2F0009).keptInt 0x310202 = 3 := fun d hd => by
    rw [Dev.keptInt, Dev.bumpKept, hd]
    dsimp only
    rw [hkept]
    exact hfield
  unfold powerOnEff
  rw [if_pos (show (s.cleared t).power.porArmed = true from harmed)]
  extract_lets x y z n D E
  rw [if_neg (hstays _ rfl)]
  exact reset_rule (t := t) (b := E) rfl (fun _ => rfl) rfl ⟨rfl, rfl, rfl, rfl⟩

theorem powerOnResetDebug_holds : Rules.powerOnResetDebug.Holds := by
  refine Rule.holds_act _ (fun a _ => a.2) (fun a _ d => powerOnEff d a.1) (by rintro t c s rfl -; rfl) ?_
  rintro ⟨role, t⟩ s ⟨harmed, hhold, hdebug, -⟩
  have hkept : (s.cleared t).keptNow = s.dev.nvm.kept := by
    rw [Dev.keptNow, if_neg (by rw [show (s.cleared t).power.run = .hold from hhold]; decide)]
    rfl
  unfold powerOnEff
  rw [if_pos (show (s.cleared t).power.porArmed = true from harmed)]
  extract_lets x y z n D E
  have hthree : E.keptInt 0x310202 = 3 := by
    have hfind : storeFind E.nvm.kept 0x310202 = some (.num 3) :=
      (storeFind_put_other _ _ _ _ (by decide)).trans ((congrArg (storeFind · 0x310202) hkept).trans hdebug)
    rw [Dev.keptInt, hfind]
    rfl
  rw [if_pos hthree]
  obtain ⟨G, hG⟩ : ∃ G : Dev, G = { E with nvm := { E.nvm with kept := storePut E.nvm.kept 0x310202 (.num 2) } } := ⟨_, rfl⟩
  have hwrite := G.writeEvent_effect ⟨0x1703, 0, 0xFFFF, (if G.seq.running then [(5, (G.seq.number : Int))] else []) ++ [(2, 2)],
    if G.time.seeded then G.chain else 0⟩
  have hfind : storeFind G.nvm.kept 0x310202 = some (.num 2) := by
    rw [hG]
    exact storeFind_put_same _ _ _
  have hpower : G.power = { run := .hold, cause := 1, firstFrame := true, porArmed := false, releasedAt := s.nowAt t } := by
    rw [hG]
    rfl
  have hframe : (s.cleared t).blank (.pins :: Rules.resetParts) = G.blank (.pins :: Rules.resetParts) := by
    rw [hG]
    rfl
  have hout : G.out = [] := by
    rw [hG]
    rfl
  rw [← hG, Dev.writeNow]
  have hsilent : ∀ e ∈ (G.writeEvent ⟨0x1703, 0, 0xFFFF, (if G.seq.running then [(5, (G.seq.number : Int))] else []) ++ [(2, 2)],
      if G.time.seeded then G.chain else 0⟩).out, False := fun e he => (hwrite.out e he).elim (fun h => by rw [hout] at h; cases h) id
  refine ⟨List.all_eq_true.mpr fun e he => (hsilent e he).elim, ?_, fun _ hx => absurd hx (by simp), ?_, ?_, ?_⟩
  · exact (s.cleared_same t _).trans ((Frame.of_blank hframe).trans (hwrite.frame.mono (by decide)))
  · rw [← hwrite.frame .power (by decide), hpower]
  · rw [← hwrite.frame .power (by decide), hpower]
  · rw [Dev.writeEvent_kept]
    exact hfind

theorem powerOnResetReleased_holds : Rules.powerOnResetReleased.Holds := by
  refine Rule.holds_act _ (fun a _ => a.2) (fun a _ d => powerOnEff d a.1) (by rintro t c s rfl -; rfl) ?_
  rintro ⟨role, t⟩ s ⟨harmed, -⟩
  rw [powerOnEff, if_neg (by rw [show (s.cleared t).power.porArmed = false from harmed]; exact Bool.false_ne_true)]
  exact Only.rule (Effect.refl _ _ _ _) rfl

theorem powerOnResetRearm_holds : Rules.powerOnResetRearm.Holds :=
  Rule.holds_act _ (fun t _ => t) (fun _ _ d => powerRearmEff d) (by rintro t c s rfl -; rfl)
    fun t _ _ => reset_rule (t := t) rfl (fun _ => rfl) rfl ⟨rfl, rfl, rfl⟩

theorem nrstReset_holds : Rules.nrstReset.Holds := by
  refine Rule.holds_act _ (fun a _ => a.2) (fun a _ d => nrstEff d a.1) (by rintro t c s rfl -; rfl) ?_
  rintro ⟨low, t⟩ s ⟨hrun, hlow⟩
  have heff : nrstEff (s.cleared t) low = (s.cleared t).resetLogic .hold 2 := by
    rw [nrstEff, show (s.cleared t).power.run = .running from hrun]
    exact if_pos hlow
  rw [heff]
  exact reset_rule (t := t) rfl (fun _ => rfl) rfl ⟨rfl, rfl, rfl⟩

/-- R479: NRST low for less than 1 µs does nothing, whatever the logic die does. -/
theorem nrstEff_glitch (d : Dev) {low : Nat} (h : low < 1000) : nrstEff d low = d := by
  have hshort : ¬ 10000 ≤ low := by omega
  have hglitch : ¬ 1000 ≤ low := by omega
  rw [nrstEff]
  cases d.power.run
  all_goals simp only [hshort, hglitch, if_false]

theorem nrstGlitch_holds : Rules.nrstGlitch.Holds := by
  refine Rule.holds_act _ (fun a _ => a.2) (fun a _ d => nrstEff d a.1) (by rintro t c s rfl -; rfl) ?_
  rintro ⟨low, t⟩ s hlow
  rw [nrstEff_glitch _ hlow]
  exact Only.rule (Effect.refl _ _ _ _) ⟨rfl, rfl⟩

/-! ### Loss of lock, and the supervision reset -/

theorem Dev.failTrial_tried {d : Dev} (h : d.nat d.runningStateAddr ≠ 3) : d.failTrial = d :=
  if_neg h

/-- R463: a failed trial is an object's value. -/
theorem Dev.failTrial_frame (d : Dev) : ∃ o, d.failTrial = { d with obj := o } := by
  rw [Dev.failTrial]
  split
  · exact ⟨_, rfl⟩
  · exact ⟨d.obj, rfl⟩

theorem lockLossEff_running {d : Dev} (h : d.power.run = .running) :
    lockLossEff d = (d.failTrial.resetLogic .lockLoss 4).bumpKept 0x2E0303 := by
  rw [lockLossEff, h]

theorem clockLockLoss_holds : Rules.clockLockLoss.Holds := by
  refine Rule.holds_act _ (fun t _ => t) (fun _ _ d => lockLossEff d) (by rintro t c s rfl -; rfl) ?_
  rintro t s ⟨hrun, htried⟩
  rw [lockLossEff_running (d := s.cleared t) hrun, Dev.failTrial_tried (d := s.cleared t) htried]
  exact reset_rule (t := t) rfl (fun _ => rfl) rfl ⟨rfl, rfl, rfl⟩

theorem clockLockLossTrial_holds : Rules.clockLockLossTrial.Holds := by
  refine Rule.holds_act _ (fun t _ => t) (fun _ _ d => lockLossEff d) (by rintro t c s rfl -; rfl) ?_
  rintro t s ⟨hrun, hactive, hstate, hobj, hkept⟩
  have haddr : (s.cleared t).runningStateAddr = 0x310103 := if_pos hactive
  have hfailed : (s.cleared t).failTrial = (s.cleared t).put 0x310103 5 := by
    rw [Dev.failTrial, haddr, if_pos (show (s.cleared t).nat 0x310103 = 3 from hstate)]
  have hstored : ((s.cleared t).put 0x310103 5).obj = [(0x310101, .num 1), (0x310103, .num 5)] := by
    rw [show ((s.cleared t).put 0x310103 5).obj = storeSet s.dev.obj 0x310103 (.num 5) from rfl, hobj]
    decide
  have hfind : storeFind ((s.cleared t).put 0x310103 5).keptNow 0x310103 = some (.num 5) := by
    have hmerged : storeFind (storeMerge (storeKeep (fun a => !keptAddr a) ((s.cleared t).put 0x310103 5).nvm.kept)
        (storeKeep keptAddr ((s.cleared t).put 0x310103 5).obj)) 0x310103 = some (.num 5) := by
      rw [hstored, show ((s.cleared t).put 0x310103 5).nvm.kept = [] from hkept]
      decide
    rw [Dev.keptNow, if_pos (by rw [show ((s.cleared t).put 0x310103 5).power.run = .running from hrun]; rfl)]
    dsimp only
    split
    · exact hmerged
    · rw [storeFind_put_other _ _ _ _ (by decide)]
      exact hmerged
  rw [lockLossEff_running (d := s.cleared t) hrun, hfailed]
  exact reset_rule (t := t) rfl (fun _ => rfl) rfl ⟨rfl, (storeFind_put_other _ _ _ _ (by decide)).trans hfind⟩

/-- R437: the last supervision resets within 1 h. -/
def Dev.recentResets (d : Dev) : List Nat :=
  d.nvm.supervision.filter fun t => d.time.now < t + 3600000000000

/-- R437: the supervision reset. -/
def Dev.supervised (d x : Dev) : Dev :=
  { (x.resetLogic .hold 3).bumpKept 0x2E0302 with nvm := { ((x.resetLogic .hold 3).bumpKept 0x2E0302).nvm with
    supervision := d.recentResets ++ [((x.resetLogic .hold 3).bumpKept 0x2E0302).time.now]
    heldUnarmed := ((x.resetLogic .hold 3).bumpKept 0x2E0302).nvm.heldUnarmed || 2 ≤ d.recentResets.length } }

theorem supervisionResetEff_due {d : Dev} (hrun : d.power.run = .running) (hpending : d.teth.resetPending = true)
    (hlate : d.teth.lastRefresh + 4000000 ≤ d.time.now) : supervisionResetEff d = d.supervised d.failTrial := by
  have hguard : (d.power.run = .running && d.teth.resetPending && d.teth.lastRefresh + 4000000 ≤ d.time.now) = true :=
    Bool.and_eq_true_iff.mpr ⟨Bool.and_eq_true_iff.mpr ⟨decide_eq_true hrun, hpending⟩, decide_eq_true hlate⟩
  exact if_pos hguard

theorem supervisionReset_holds : Rules.supervisionReset.Holds := by
  refine Rule.holds_act _ (fun t _ => t) (fun _ _ d => supervisionResetEff d) (by rintro t c s rfl -; rfl) ?_
  rintro t s ⟨hrun, hpending, hlate, htried, hfew⟩
  rw [supervisionResetEff_due (d := s.cleared t) hrun hpending hlate, Dev.failTrial_tried (d := s.cleared t) htried]
  have hrecent : ¬ 2 ≤ (s.cleared t).recentResets.length :=
    Nat.not_le.mpr ((List.length_filter_le _ s.dev.nvm.supervision).trans_lt hfew)
  refine reset_rule (t := t) rfl (fun _ => rfl) rfl ⟨rfl, rfl, ?_, ?_, rfl⟩
  · rw [Dev.supervised, decide_eq_false hrecent, Bool.or_false]
    rfl
  · exact List.getLast?_concat

theorem supervisionThird_holds : Rules.supervisionThird.Holds := by
  refine Rule.holds_act _ (fun a _ => a.1) (fun _ _ d => supervisionResetEff d) (by rintro t c s rfl -; rfl) ?_
  rintro ⟨t, x, y⟩ s ⟨hrun, hpending, hlate, htwo, hx, hy⟩
  rw [supervisionResetEff_due (d := s.cleared t) hrun hpending hlate]
  obtain ⟨o, ho⟩ := (s.cleared t).failTrial_frame
  have hrecent : 2 ≤ (s.cleared t).recentResets.length := by
    rw [Dev.recentResets, show (s.cleared t).nvm.supervision = [x, y] from htwo, List.filter_eq_self.mpr]
    · exact Nat.le_refl 2
    · rintro z hz
      rcases List.mem_pair.mp hz with rfl | rfl
      · exact decide_eq_true hx
      · exact decide_eq_true hy
  rw [ho]
  refine reset_rule (t := t) rfl (fun _ => rfl) rfl ⟨rfl, ?_⟩
  rw [Dev.supervised, decide_eq_true hrecent, Bool.or_true]

theorem supervisionEarly_holds : Rules.supervisionEarly.Holds := by
  refine Rule.holds_act _ (fun t _ => t) (fun _ _ d => supervisionResetEff d) (by rintro t c s rfl -; rfl) ?_
  rintro t s ⟨-, hearly⟩
  have hstays : supervisionResetEff (s.cleared t) = s.cleared t := by
    refine if_neg fun h => ?_
    obtain ⟨hpending, hlate⟩ := Bool.and_eq_true_iff.mp h
    rcases hearly with hnone | hnow
    · exact absurd (Bool.and_eq_true_iff.mp hpending).2 (by rw [show (s.cleared t).teth.resetPending = false from hnone]; exact Bool.false_ne_true)
    · exact absurd (of_decide_eq_true hlate) (Nat.not_le.mpr hnow)
  rw [hstays]
  exact Only.rule (Effect.refl _ _ _ _) rfl

/-! ### The debug port -/

theorem Dev.debugPort_of {d : Dev} (hlife : d.nat 0x310202 = 3) (hnext : d.nvm.debugNext = false) : d.debugPort = true := by
  rw [Dev.debugPort, hnext, decide_eq_true hlife]
  rfl

theorem debugPortReset_holds : Rules.debugPortReset.Holds := by
  refine Rule.holds_act _ (fun t _ => t) (fun _ _ d => debugResetEff d) (by rintro t c s rfl -; rfl) ?_
  rintro t s ⟨hrun, hlife, hnext⟩
  have heff : debugResetEff (s.cleared t) = (s.cleared t).resetLogic .hold 8 := by
    refine if_pos ?_
    rw [Dev.debugPort_of (d := s.cleared t) hlife hnext, show (s.cleared t).power.run = .running from hrun]
    rfl
  rw [heff]
  exact reset_rule (t := t) rfl (fun _ => rfl) rfl ⟨rfl, rfl⟩

theorem debugPortLocked_holds : Rules.debugPortLocked.Holds := by
  refine Rule.holds_act _ (fun t _ => t) (fun _ _ d => debugResetEff d) (by rintro t c s rfl -; rfl) ?_
  rintro t s ⟨-, hlife⟩
  have hport : (s.cleared t).debugPort = false := by
    rw [Dev.debugPort, show decide ((s.cleared t).nat 0x310202 = 3) = false from decide_eq_false hlife, Bool.false_and]
  rw [debugResetEff, if_neg (by rw [hport, Bool.and_false]; exact Bool.false_ne_true)]
  exact Only.rule (Effect.refl _ _ _ _) rfl

theorem debugHaltEff_open {d : Dev} (hlife : d.nat 0x310202 = 3) (hnext : d.nvm.debugNext = false) (core1 : Bool) :
    debugHaltEff d core1 = { d with
      power := { d.power with halted0 := d.power.halted0 || !core1, halted1 := d.power.halted1 || core1 }
      pwm := { d.pwm with frozen := true } } :=
  if_pos (Dev.debugPort_of hlife hnext)

theorem debugHaltCore1_holds : Rules.debugHaltCore1.Holds := by
  refine Rule.holds_logic _ (fun t _ => t) (fun _ _ d => debugHaltEff d true) (by rintro t c s rfl -; rfl) (fun _ _ h => h.1) ?_
  rintro t s ⟨-, hlife, hnext⟩
  rw [debugHaltEff_open (d := s.cleared t) hlife hnext]
  refine Only.rule (Effect.of_blank rfl rfl rfl) ⟨rfl, ?_, rfl⟩
  simp

theorem debugHaltCore0_holds : Rules.debugHaltCore0.Holds := by
  refine Rule.holds_logic _ (fun t _ => t) (fun _ _ d => debugHaltEff d false) (by rintro t c s rfl -; rfl) (fun _ _ h => h.1) ?_
  rintro t s ⟨-, hlife, hnext⟩
  rw [debugHaltEff_open (d := s.cleared t) hlife hnext]
  refine Only.rule (Effect.of_blank rfl rfl rfl) ⟨rfl, ?_, rfl⟩
  simp

end Sys2Proof.Machine

namespace Sys2Proof

/-- Settles O58, by a lemma for each rule. -/
theorem resetsHoldLogic : Obligations.ResetsHoldLogic :=
  ⟨Machine.powerOnReset_holds, Machine.powerOnResetDebug_holds, Machine.powerOnResetReleased_holds,
    Machine.powerOnResetRearm_holds, Machine.nrstReset_holds, Machine.nrstGlitch_holds, Machine.clockLockLoss_holds,
    Machine.clockLockLossTrial_holds, Machine.supervisionReset_holds, Machine.supervisionThird_holds,
    Machine.supervisionEarly_holds, Machine.debugPortReset_holds, Machine.debugPortLocked_holds,
    Machine.debugHaltCore1_holds, Machine.debugHaltCore0_holds⟩

end Sys2Proof
end

