-- ==== Sys2Proof/Proofs/RegisterAccess.lean ====
section
/-! PROOF. Register writes, queue reads and record reads (R374, R379, R381, R386, R387, R399, R453). -/

namespace Sys2Proof.Machine

/-! ### Writes -/

/-- R379, R381: a write that fails its checks is aborted, which is recorded, and the accessor's sequence goes on. -/
theorem Dev.writeObject_unchecked {d : Dev} (hrun : d.power.run = .running) {acc : Accessor} {a : Nat} {v : Val}
    (hauth : ((objRow a).any fun r => authenticated r a) = false) {c : Nat} (hc : writeCheck d acc a v = some c) (busy : Bool)
    (state : Option Nat) (act : Dev → Dev) :
    d.writeObject acc a v busy state act = ((d.recordAbort acc a c).advanceSeq acc (d.nextSeq acc)).answerWrite acc (.aborted c) := by
  have hrun' : d.power.run ≠ .recovery := by
    rw [hrun]
    decide
  have hwrite : d.writeWith acc a v (d.nextSeq acc) busy state act = (.aborted c, d.recordAbort acc a c) := by
    rw [Dev.writeWith, hc]
    simp only [hauth, Dev.spendTag, Bool.false_and, Bool.false_eq_true, if_false]
  rw [Dev.writeObject]
  simp only [if_neg hrun', hwrite]

theorem Dev.performWrite_eq {d : Dev} {a : Nat} (htarget : a ≠ 0x230101) (hselect : perAccessor a = false) (acc : Accessor) (v : Val) :
    d.performWrite acc a v =
      d.writeObject acc a v (d.actionOf acc a v).busy (d.actionOf acc a v).state (d.actionOf acc a v).act := by
  rw [Dev.performWrite, Dev.badTargets, decide_eq_false htarget]
  simp only [Bool.false_and, Bool.false_eq_true, if_false, hselect]

/-- R381: a write of an internal function that nothing refuses. -/
theorem Dev.writeObject_internal {d : Dev} (hrun : d.power.run = .running) {n v : Nat} (hcheck : writeCheck d (.internal n) 0x240201 (.num v) = none)
    (hseq : lastSeq (0x13, 0) d.jrn.seqs = none) (hbusy : d.intakeBusy = false) :
    d.writeObject (.internal n) 0x240201 (.num v) false none id =
      ({ d.journal (d.entry 2 0x13 1 0 false (.write 0x240201 (.num v))) with
        jrn := { (d.journal (d.entry 2 0x13 1 0 false (.write 0x240201 (.num v)))).jrn with
          waiting := (d.journal (d.entry 2 0x13 1 0 false (.write 0x240201 (.num v)))).jrn.waiting ++ [Ack.mk (.internal n) 1 0 none 0] } } : Dev).putVal
        0x240201 (.num v) := by
  have hrun' : d.power.run ≠ .recovery := by
    rw [hrun]
    decide
  have hnext : d.nextSeq (.internal n) = 1 := by
    rw [Dev.nextSeq]
    · exact congrArg (fun o : Option Nat => match o with | some l => u32 (l + 1) | none => 1) hseq
    · simp
    · simp
  have hfresh : seqFresh d (0x13, 0) 1 = true := by
    rw [seqFresh, hseq]
  have hwrite : d.writeWith (.internal n) 0x240201 (.num v) 1 false none id =
      (.accepted, ({ d.journal (d.entry 2 0x13 1 0 false (.write 0x240201 (.num v))) with
        jrn := { (d.journal (d.entry 2 0x13 1 0 false (.write 0x240201 (.num v)))).jrn with
          waiting := (d.journal (d.entry 2 0x13 1 0 false (.write 0x240201 (.num v)))).jrn.waiting ++ [Ack.mk (.internal n) 1 0 none 0] } } : Dev).putVal
        0x240201 (.num v)) := by
    obtain ⟨r, hr, hauth, hkind, hchain, hentry⟩ : ∃ r, objRow 0x240201 = some r ∧ authenticated r 0x240201 = false ∧ r.kind = .rw ∧
        r.chain = false ∧ entryKind r 0x240201 = 2 := ⟨_, rfl, rfl, rfl, rfl, rfl⟩
    rw [Dev.writeWith, hcheck]
    simp only [hr, Option.any_some, hauth, Dev.spendTag, Bool.false_and, Bool.not_false, Bool.true_or, Bool.not_true,
      Bool.false_eq_true, if_false, sourceOf, hfresh, hbusy, hkind, hchain, hentry, Dev.applyWrite]
    simp
  rw [Dev.writeObject]
  simp only [if_neg hrun', hnext, hwrite]
  rfl

theorem registerWrite_holds : Rules.registerWrite.Holds := by
  refine Rule.holds_served _ (fun a _ => a.2) (fun a _ d => d.performWrite (.internal 0) 0x240201 (.num a.1)) (by rintro t c s rfl -; rfl)
    (fun _ _ h => h.1) ?_
  rintro ⟨v, t⟩ s hp
  dsimp only at hp
  obtain ⟨hrun, hcheck, hseq, hbusy⟩ := hp
  have haction : (s.cleared t).actionOf (.internal 0) 0x240201 (.num v) = ⟨false, none, id⟩ := rfl
  rw [Dev.performWrite_eq (by decide) rfl, haction, Dev.writeObject_internal (d := s.cleared t) hrun hcheck hseq hbusy]
  refine Effect.rule (((Effect.of_blank rfl rfl rfl : Effect _ _ (fun _ => False) (s.cleared t)
    { (s.cleared t).journal ((s.cleared t).entry 2 0x13 1 0 false (.write 0x240201 (.num v))) with
        jrn := { ((s.cleared t).journal ((s.cleared t).entry 2 0x13 1 0 false (.write 0x240201 (.num v)))).jrn with
          waiting := ((s.cleared t).journal ((s.cleared t).entry 2 0x13 1 0 false (.write 0x240201 (.num v)))).jrn.waiting ++
            [Ack.mk (.internal 0) 1 0 none 0] } })).putVal (by rfl) _) (fun _ h => h.elim) ⟨rfl, ?_, rfl⟩
  exact congrArg Int.toNat (Dev.int_put_same _ _ _)

/-- What the device leaves of a host write that it aborts. -/
def Dev.hostAborted (d : Dev) (a c : Nat) : Dev :=
  (d.recordAbort .host a c).hostAnswers (d.nat 0x110003) (.aborted c)

theorem Dev.performWrite_host_aborted {d : Dev} (hrun : d.power.run = .running) {a : Nat} {v : Val} (htarget : a ≠ 0x230101)
    (hselect : perAccessor a = false) (hauth : ((objRow a).any fun r => authenticated r a) = false) {c : Nat}
    (hc : writeCheck d .host a v = some c) : d.performWrite .host a v = d.hostAborted a c := by
  rw [Dev.performWrite_eq htarget hselect, Dev.writeObject_unchecked hrun hauth hc]
  rfl

theorem Dev.hostAborted_effect (d : Dev) (a c : Nat) :
    Effect [] (among [0x110003, 0x103004, 0x103005, 0x103006]) isAnswer d (d.hostAborted a c) :=
  ((d.recordAbort_effect .host a c).mono (fun _ h => h) (by simp +contextual [among, or_imp]) fun _ h => h.elim).trans
    ((Dev.hostAnswers_effect _ _ _).mono (fun _ h => h) (by simp +contextual [among]) fun _ h => h)

theorem Dev.hostAborted_answers {d : Dev} (hout : d.out = []) (a c : Nat) : Rules.Answers (d.hostAborted a c) 6 c (.num 0) := by
  obtain ⟨y, hy⟩ : ∃ y, y = (d.recordAbort .host a c).put 0x110003 (u32 (d.nat 0x110003 + 1)) := ⟨_, rfl⟩
  have hnone : y.out = [] := by
    simp [hy, Dev.recordAbort, Dev.bump, Dev.put, hout]
  have hanswer : d.hostAborted a c = y.send (.answer .host (y.statusByte 6 false) c (.num 0)) := by
    rw [hy]
    rfl
  rw [hanswer]
  exact congrArg (· ++ [Emit.answer .host (y.statusByte 6 false) c (.num 0)]) hnone

theorem Dev.recordAbort_place (d : Dev) (acc : Accessor) (a c : Nat) :
    (d.recordAbort acc a c).int 0x103006 = (a % 2 ^ 24 + 2 ^ 24 * pathCode acc : Nat) :=
  Dev.int_put_same _ _ _

theorem Dev.hostAborted_place (d : Dev) {a : Nat} (ha : a < 2 ^ 24) (c : Nat) : (d.hostAborted a c).nat 0x103006 = a := by
  have hplace : (d.hostAborted a c).int 0x103006 = (a % 2 ^ 24 + 2 ^ 24 * pathCode .host : Nat) :=
    (Dev.hostAnswers_int _ _ _ (by decide)).trans (d.recordAbort_place .host a c)
  rw [Dev.nat, hplace, Nat.mod_eq_of_lt ha]
  rfl

/-- R399: a rule of a host write that is aborted for what its object is. -/
theorem hostAborted_rule {α : Type} {r : Rule α} {x : α} {s : State} {t a c : Nat} {v : Val} (hrun : Runs s) (htarget : a ≠ 0x230101)
    (hselect : perAccessor a = false) (hauth : ((objRow a).any fun r => authenticated r a) = false)
    (hc : writeCheck (s.cleared t) .host a v = some c) (ha : a < 2 ^ 24)
    (hobjs : ∀ y, among [0x110003, 0x103004, 0x103005, 0x103006] y = true → r.objs x y = true)
    (hpost : ∀ d : Dev, Rules.Answers d 6 c (.num 0) → d.nat 0x103006 = a → r.post x s d) :
    plain ((s.cleared t).performWrite .host a v) = true ∧ Frame r.parts s.dev ((s.cleared t).performWrite .host a v) ∧
      ObjFrame (r.objs x) s.dev ((s.cleared t).performWrite .host a v) ∧ r.post x s ((s.cleared t).performWrite .host a v) := by
  rw [Dev.performWrite_host_aborted (d := s.cleared t) hrun htarget hselect hauth hc]
  exact Effect.rule (((s.cleared t).hostAborted_effect a c).mono (fun _ h => absurd h List.not_mem_nil) hobjs fun _ h => h)
    (fun _ h => unsent_of_isAnswer _ h)
    (hpost _ (Dev.hostAborted_answers rfl a c) (Dev.hostAborted_place _ ha c))

theorem registerWriteMissing_holds : Rules.registerWriteMissing.Holds :=
  Rule.holds_served _ (fun t _ => t) (fun _ _ d => d.performWrite .host 0x500001 (.num 0)) (by rintro t c s rfl -; rfl) (fun _ _ h => h)
    fun _ _ hrun => hostAborted_rule hrun (by decide) rfl rfl rfl (by decide) (fun _ h => h) fun _ h k => ⟨h, k⟩

theorem registerWriteReadOnly_holds : Rules.registerWriteReadOnly.Holds := by
  refine Rule.holds_served _ (fun a _ => a.2) (fun a _ d => d.performWrite .host a.1 (.num 0)) (by rintro t c s rfl -; rfl) (fun _ _ h => h.1) ?_
  rintro ⟨a, t⟩ s hp
  dsimp only at hp
  obtain ⟨hrun, rfl | rfl⟩ := hp
  · exact hostAborted_rule (a := 0x2C2007) hrun (by decide) rfl rfl rfl (by decide) (fun _ h => h) fun _ h k => ⟨h, k⟩
  · exact hostAborted_rule (a := 0x101801) hrun (by decide) rfl rfl rfl (by decide) (fun _ h => h) fun _ h k => ⟨h, k⟩

theorem registerWritePort_holds : Rules.registerWritePort.Holds := by
  refine Rule.holds_counted _ (fun t _ => t) (fun _ _ d => d.performWrite .sdo 0x110007 (.num 0))
    (by rintro t c s rfl hrun; exact State.served_of_runs hrun t fun d => d.performWrite .sdo 0x110007 (.num 0)) ?_
  rintro t s hrun
  rw [Dev.performWrite_eq (by decide) rfl, Dev.writeObject_unchecked (d := s.cleared t) hrun (c := 0x06010000) rfl rfl]
  refine Effect.counted_rule (sent := onCanP) (Effect.send (Effect.put (((s.cleared t).recordAbort_effect .sdo 0x110007 0x06010000).mono
    (fun _ h => h) (by simp +contextual [among, or_imp]) fun _ h => h.elim) (by rfl) _) rfl) (fun _ h => counted_of_onCanP h rfl) ?_
  intro o ho
  refine ⟨rfl, ?_⟩
  rw [ho.nat rfl]
  exact congrArg Int.toNat ((Dev.int_put_other _ _ _ _ (by decide)).trans (Dev.int_put_same _ _ _))

/-! ### Queues, records and pages -/

/-- R374: what a queue read of the host does. -/
def queueReadEff (d : Dev) (a : Nat) : Dev :=
  if isQueue a then
    match d.readObject .host a with
    | (.value v _, d) => (d.captureBlock .host a (valBytes v) true).send (.answer .host 0 0 v)
    | (.aborted c, d) => d.send (.answer .host 6 c (.num 0))
  else d

theorem queueReadEff_head {d x : Dev} {a : Nat} {b : List Byte} (hqueue : isQueue a = true) (hcheck : d.readCheck .host a = none)
    (hhead : d.takeHead a = (b, x)) (hlength : b.length ≤ 131072) :
    queueReadEff d a = (x.captureBlock .host a b true).send (.answer .host 0 0 (.bytes b)) := by
  have hread : d.readObject .host a = (.value (.bytes b) false, x) := by
    rw [Dev.readObject, hcheck]
    simp only [hqueue, if_true, hhead]
    exact if_neg (Nat.not_lt.mpr hlength)
  rw [queueReadEff, if_pos hqueue, hread]
  rfl

theorem Dev.setAccessor_effect (d : Dev) (y : AccessorState) : Only [.dic] d (d.setAccessor y) := Effect.of_blank rfl rfl rfl

theorem Dev.captureBlock_effect (d : Dev) (acc : Accessor) (a : Nat) (b : List Byte) (queue : Bool) :
    Only [.dic] d (d.captureBlock acc a b queue) :=
  d.setAccessor_effect _

theorem Dev.setAccessor_same {d : Dev} (hnone : d.dic.accessors = []) (y : AccessorState) : (d.setAccessor y).accessor y.acc = y := by
  rw [Dev.accessor, Dev.setAccessor, hnone]
  exact if_pos rfl

/-- R390: the capture of an accessor that the device has not served yet. -/
theorem Dev.captureBlock_block {d : Dev} (hnone : d.dic.accessors = []) (acc : Accessor) (a : Nat) (b : List Byte) (queue : Bool) :
    ((d.captureBlock acc a b queue).accessor acc).block = some (a, b, d.time.now, queue) := by
  rw [Dev.accessor, Dev.captureBlock, Dev.setAccessor, Dev.accessor, hnone]
  exact congrArg AccessorState.block (if_pos rfl)

theorem queueRead_holds : Rules.queueRead.Holds := by
  refine Rule.holds_served _ (fun a _ => a.2.2) (fun _ _ d => queueReadEff d 0x110005) (by rintro t c s rfl -; rfl) (fun _ _ h => h.1) ?_
  rintro ⟨⟨q, o⟩, r, t⟩ s hp
  dsimp only at hp
  obtain ⟨hrun, hqueue, hnone⟩ := hp
  have hcheck : (s.cleared t).readCheck .host 0x110005 = none := by
    unfold Dev.readCheck
    rw [show (s.cleared t).power.run = .running from hrun]
    rfl
  have hhead : (s.cleared t).takeHead 0x110005 =
      (leBytes 4 q ++ leBytes 4 o, { s.cleared t with hp := { (s.cleared t).hp with completions := r } }) := by
    rw [Dev.takeHead]
    simp only [show (s.cleared t).hp.completions = (q, o) :: r from hqueue]
  rw [queueReadEff_head rfl hcheck hhead (by simp [leBytes_len])]
  refine Effect.rule (sent := isAnswer) (((Dev.withHp_effect _ _).mono (by decide)).only (Dev.captureBlock_effect _ _ _ _ _) (by decide) |>.send
    (by trivial)) (fun _ h => unsent_of_isAnswer _ h) ⟨rfl, rfl, ?_⟩
  exact Dev.captureBlock_block (d := { s.cleared t with hp := { (s.cleared t).hp with completions := r } }) hnone _ _ _ _

theorem queueReadStays_holds : Rules.queueReadStays.Holds := by
  refine Rule.holds_served _ (fun a _ => a.2.2) (fun _ _ d => queueReadEff d 0x220206) (by rintro t c s rfl -; rfl) (fun _ _ h => h.1) ?_
  rintro ⟨x, n, t⟩ s hp
  dsimp only at hp
  obtain ⟨hrun, hlead, hqueue, hnone, hlength⟩ := hp
  have hcheck : (s.cleared t).readCheck .host 0x220206 = none := by
    obtain ⟨r, hr, hforbid, hkind⟩ : ∃ r, objRow 0x220206 = some r ∧ (∀ d : Dev, d.isLead = true → roleForbids d r 0x220206 = false) ∧
        r.kind ≠ .wo := ⟨_, rfl, fun d hd => by simp [roleForbids, hd], by decide⟩
    unfold Dev.readCheck
    rw [show (s.cleared t).power.run = .running from hrun, hr]
    dsimp only
    rw [hforbid (s.cleared t) hlead]
    simp [hkind]
  have hhead : (s.cleared t).takeHead 0x220206 =
      (appliedEncode x, { s.cleared t with que := { (s.cleared t).que with applied := [⟨x, true, s.nowAt t⟩] } }) := by
    rw [Dev.takeHead]
    simp only [show (s.cleared t).que.applied = [⟨x, false, n⟩] from hqueue]
    rfl
  rw [queueReadEff_head rfl hcheck hhead hlength]
  exact Effect.rule (sent := isAnswer) (((Dev.withQue_effect _ _).mono (by decide)).only (Dev.captureBlock_effect _ _ _ _ _) (by decide) |>.send
    (by trivial)) (fun _ h => unsent_of_isAnswer _ h) ⟨rfl, rfl⟩

theorem recordReadRule_holds : Rules.recordReadRule.Holds := by
  refine Rule.holds_logic _ (fun a _ => a.2.2) (fun _ _ d => (recordRead d .host).2.send (.answer .host 0 0 (.bytes (recordRead d .host).1)))
    (by rintro t c s rfl -; rfl) (fun _ _ h => h.1) ?_
  rintro ⟨x, n, t⟩ s hp
  dsimp only at hp
  obtain ⟨-, harea, hnumber, hselect⟩ := hp
  have haccessor : (s.cleared t).accessor .host = { acc := .host, area := 1, record := n } := by
    rw [Dev.accessor, show (s.cleared t).dic.accessors = _ from hselect]
    exact if_pos rfl
  have hread : recordRead (s.cleared t) .host =
      (recordEncode x, (s.cleared t).setAccessor { acc := .host, area := 1, record := u32 (x.number + 1) }) := by
    rw [recordRead]
    simp only [haccessor, show areaRecords (s.cleared t).nvm 1 = [x] from harea, recordFrom, List.foldl_cons, List.foldl_nil,
      if_neg (show ¬ x.number < n by omega)]
  rw [hread]
  refine Effect.rule (sent := isAnswer) (((Dev.setAccessor_effect _ _).mono (fun _ h => h)).send (by trivial))
    (fun _ h => unsent_of_isAnswer _ h) ⟨rfl, ?_⟩
  refine (congrArg (putAccessor { acc := .host, area := 1, record := u32 (x.number + 1) }) hselect).trans ?_
  rw [hnumber]
  rfl

theorem pageReadRule_holds : Rules.pageReadRule.Holds := by
  refine Rule.holds_logic _ (fun a _ => a.2) (fun _ _ d => d.send (.answer .host 0 0 (.bytes (pageAt d.nvm (d.accessor .host).page))))
    (by rintro t c s rfl -; rfl) (fun _ _ h => h.1) ?_
  rintro ⟨n, t⟩ s hp
  dsimp only at hp
  obtain ⟨-, hselect⟩ := hp
  have haccessor : (s.cleared t).accessor .host = { acc := .host, page := n } := by
    rw [Dev.accessor, show (s.cleared t).dic.accessors = _ from hselect]
    exact if_pos rfl
  rw [haccessor]
  exact Effect.rule (sent := isAnswer) ((Effect.refl _ _ _ _).send (by trivial)) (fun _ h => unsent_of_isAnswer _ h) rfl

theorem Dev.send_nat (d : Dev) (e : Emit) (a : Nat) : (d.send e).nat a = d.nat a := rfl

theorem pageReadCan_holds : Rules.pageReadCan.Holds := by
  refine Rule.holds_counted_logic _ (fun a _ => a.2) (fun a _ d => (d.recordAbort (.canI a.1) 0x2F0105 0x06070012).send
    (.answer (.canI a.1) 6 0x06070012 (.num 0))) (by rintro t c s rfl -; rfl) (fun _ _ h => h) ?_
  rintro ⟨n, t⟩ s -
  refine Effect.counted_rule (sent := onCanI) (Effect.send (((s.cleared t).recordAbort_effect (.canI n) 0x2F0105 0x06070012).mono
    (fun _ h => h) (by simp +contextual [among, or_imp]) fun _ h => h.elim) rfl) (fun _ h => counted_of_onCanI h rfl) ?_
  intro o ho
  refine ⟨rfl, ?_⟩
  rw [ho.nat rfl]
  have hplace := Dev.recordAbort_place (s.cleared t) (.canI n) 0x2F0105 0x06070012
  generalize (s.cleared t).recordAbort (.canI n) 0x2F0105 0x06070012 = x at hplace ⊢
  rw [Dev.send_nat, Dev.nat, hplace, Int.toNat_natCast, pathCode]
  norm_num

end Sys2Proof.Machine

namespace Sys2Proof

/-- Settles O55, by a lemma for each rule. -/
theorem registerAccessServes : Obligations.RegisterAccessServes :=
  ⟨Machine.registerWrite_holds, Machine.registerWriteReadOnly_holds, Machine.registerWriteMissing_holds,
    Machine.registerWritePort_holds, Machine.queueRead_holds, Machine.queueReadStays_holds,
    Machine.recordReadRule_holds, Machine.pageReadRule_holds, Machine.pageReadCan_holds⟩

end Sys2Proof
end

