-- ==== Sys2Proof/Proofs/Images.lean ====
section
/-! PROOF. Images: chunks, erasing, activation, the trial and its confirmation; operating time (R445, R461, R463). -/

namespace Sys2Proof.Machine

/-! ### Cells -/

theorem cellRead_cellsWrite_below : ∀ (bs : List Byte) (m : List Host.Cell) (a b : Nat), b < a →
    cellRead (cellsWrite m a bs) b = cellRead m b
  | [], _, _, _, _ => rfl
  | v :: vs, m, a, b, h => by
    rw [cellsWrite, cellRead_cellsWrite_below vs _ (a + 1) b (h.trans (Nat.lt_succ_self a)), cellRead_write_other _ _ _ _ (Nat.ne_of_lt h)]

theorem cellRead_cellsWrite : ∀ (bs : List Byte) (m : List Host.Cell) (a k : Nat) (hk : k < bs.length), cellsWf m = true →
    cellRead (cellsWrite m a bs) (a + k) = bs[k]
  | v :: vs, m, a, 0, _, hm => by
    have hbelow := cellRead_cellsWrite_below vs (cellWrite m a v) (a + 1) a (Nat.lt_succ_self a)
    exact hbelow.trans (cellRead_write_same m a v 0 hm)
  | v :: vs, m, a, k + 1, hk, hm => by
    have hrest := cellRead_cellsWrite vs (cellWrite m a v) (a + 1) k (Nat.lt_of_succ_lt_succ hk) (cellWrite_wf m a v hm)
    rw [Nat.add_assoc, Nat.add_comm 1 k] at hrest
    exact hrest

theorem cellsRead_cellsWrite (bs : List Byte) {m : List Host.Cell} (hm : cellsWf m = true) (a : Nat) :
    cellsRead (cellsWrite m a bs) a bs.length = bs := by
  refine List.ext_getElem (by simp [cellsRead]) fun k hk hk' => ?_
  simp only [cellsRead, List.getElem_map, List.getElem_range]
  exact cellRead_cellsWrite bs m a k hk' hm

/-! ### Chunks -/

/-- R463: the inactive image after its first chunk. -/
def firstChunk (b : List Byte) : Image :=
  { bytes := cellsWrite [] 0 b, loaded := 8, version := leNat (cellsRead (cellsWrite [] 0 b) 4 4) }

/-- R461: 8 bytes are no image. -/
theorem imageValid_short {i : Image} (h : i.loaded = 8) (rollback : Nat) (fenced : Bool) : imageValid i rollback fenced = false := by
  simp only [imageValid, h, decide_eq_false (show ¬ 128 + leNat (cellsRead i.bytes 12 4) ≤ 8 by omega), Bool.and_false, Bool.false_and]

theorem Dev.inactiveB_of {d : Dev} (h : d.nat 0x310101 = 0) : d.inactiveB = true := by
  rw [Dev.inactiveB, h, if_neg (by decide)]
  rfl

theorem imageChunkAct_first {d : Dev} (hactive : d.nat 0x310101 = 0) (hempty : d.nvm.imageB = {}) {b : List Byte} (hb : b.length = 8) :
    imageChunkAct 0 b d = (d.putInactive (firstChunk b) 1).put 0x310107 8 := by
  have hinactive : d.inactive = {} := by rw [Dev.inactive, if_pos (Dev.inactiveB_of hactive), hempty]
  have hloaded : contiguous [(0, 8)] 0 = 8 := rfl
  rw [imageChunkAct]
  simp only [hinactive, hb, Nat.zero_add, hloaded, List.filter_cons, List.filter_nil, Nat.not_lt_zero, decide_false, Bool.false_eq_true,
    if_false]
  rw [imageValid_short rfl, if_neg Bool.false_ne_true]
  rfl

theorem Dev.putInactive_b {d : Dev} (hactive : d.nat 0x310101 = 0) (i : Image) (state : Nat) :
    d.putInactive i state = (({ d with nvm := { d.nvm with imageB := i } } : Dev).put 0x310103 state).put 0x310105 i.version :=
  if_pos (Dev.inactiveB_of hactive)

theorem Dev.putInactive_effect {d : Dev} (hactive : d.nat 0x310101 = 0) (i : Image) (state : Nat) :
    Effect [.nvm] (among [0x310103, 0x310105]) (fun _ => False) d (d.putInactive i state) := by
  rw [Dev.putInactive_b hactive]
  exact (((Dev.withNvm_effect d _).mono (fun _ h => h)).put (by rfl) _).put (by rfl) _

theorem Dev.putInactive_state {d : Dev} (hactive : d.nat 0x310101 = 0) (i : Image) (state : Nat) :
    (d.putInactive i state).int 0x310103 = state := by
  rw [Dev.putInactive_b hactive]
  exact (Dev.int_put_other _ _ _ _ (by decide)).trans (Dev.int_put_same _ _ _)

theorem Dev.putInactive_nvm {d : Dev} (hactive : d.nat 0x310101 = 0) (i : Image) (state : Nat) :
    (d.putInactive i state).nvm = { d.nvm with imageB := i } := by
  rw [Dev.putInactive_b hactive]
  rfl

theorem imageChunk_holds : Rules.imageChunk.Holds := by
  refine Rule.holds_served _ (fun _ s => s.dev.time.now) (fun b _ d => d.writeObject .host 0x310106 (.bytes (leBytes 4 0 ++ b)) false
    (if 0 % 2 ^ 32 + b.length > 1048576 then some 0x06090030 else none) (imageChunkAct (0 % 2 ^ 32) b)) (by rintro t c s rfl -; rfl)
    (fun _ _ h => h.1.1) ?_
  rintro b s ⟨hmay, hb, hactive, hempty⟩
  rw [if_neg (by rw [hb]; decide), Nat.zero_mod, Dev.writeObject_host_action hmay rfl rfl rfl rfl (p := .none) (if_pos rfl) (k := 3) rfl]
  have hD := (s.cleared s.dev.time.now).hostTakes_effect 3 .none
  obtain ⟨D, hD'⟩ : ∃ D, D = (s.cleared s.dev.time.now).hostTakes 3 .none := ⟨_, rfl⟩
  have hact : D.nat 0x310101 = 0 := by
    rw [hD']
    exact hactive
  have hempt : D.nvm.imageB = {} := by
    rw [hD']
    exact hempty
  have hnvm : (imageChunkAct 0 b D).nvm = { D.nvm with imageB := firstChunk b } := by
    rw [imageChunkAct_first hact hempt hb, Dev.put, Dev.putVal_nvm, Dev.putInactive_nvm hact]
  have hstate : (imageChunkAct 0 b D).int 0x310103 = 1 := by
    rw [imageChunkAct_first hact hempt hb]
    exact (Dev.int_put_other _ _ _ _ (by decide)).trans (Dev.putInactive_state hact _ _)
  have hloaded : (imageChunkAct 0 b D).int 0x310107 = 8 := by
    rw [imageChunkAct_first hact hempt hb]
    exact Dev.int_put_same _ _ _
  have heffect : Effect [.nvm] (among [0x310103, 0x310105, 0x310107]) (fun _ => False) D (imageChunkAct 0 b D) := by
    rw [imageChunkAct_first hact hempt hb]
    exact ((Dev.putInactive_effect hact _ _).mono (fun _ h => h) (by simp +contextual [among, or_imp]) fun _ h => h).put (by rfl) _
  have himage : (imageChunkAct 0 b D).nvm.imageB.bytes = cellsWrite [] 0 b := by rw [hnvm]; rfl
  have hother : (imageChunkAct 0 b D).nvm.imageA = s.dev.nvm.imageA := by rw [hnvm, hD']; rfl
  have hcount : (imageChunkAct 0 b D).nvm.imageB.loaded = 8 := by rw [hnvm]; rfl
  have hjrn : (imageChunkAct 0 b D).jrn = D.jrn := (heffect.frame .jrn (by decide)).symm
  rw [← hD']
  generalize imageChunkAct 0 b D = x at heffect hstate hloaded himage hother hcount hjrn ⊢
  subst hD'
  refine Effect.host_rule (t := s.dev.time.now) (k := 3) (p := .none) (heffect.mono (by decide) (by simp +contextual [among, or_imp])
    fun _ h => h.elim) (by decide) rfl ⟨?_, hcount, hother, ?_, ?_, hostTook_of_hostAnswers (t := s.dev.time.now) (by decide)
      (congrArg Journal.openHalf hjrn) (congrArg Journal.waiting hjrn)⟩
  · rw [show (x.hostAnswers (s.dev.nat 0x110003) .accepted).nvm.imageB.bytes = _ from himage, ← hb]
    exact cellsRead_cellsWrite b rfl 0
  · exact congrArg Int.toNat ((Dev.hostAnswers_int _ _ _ (by decide)).trans hloaded)
  · exact congrArg Int.toNat ((Dev.hostAnswers_int _ _ _ (by decide)).trans hstate)

theorem imageChunkBeyond_holds : Rules.imageChunkBeyond.Holds := by
  refine Rule.holds_served _ (fun _ s => s.dev.time.now) (fun b _ d => d.writeObject .host 0x310106 (.bytes (leBytes 4 1048576 ++ b)) false
    (if 1048576 % 2 ^ 32 + b.length > 1048576 then some 0x06090030 else none) (imageChunkAct (1048576 % 2 ^ 32) b)) (by rintro t c s rfl -; rfl)
    (fun _ _ h => h.1.1) ?_
  rintro b s ⟨hmay, hb⟩
  rw [if_pos (by rw [hb]; decide), Dev.writeObject_host_refused hmay rfl rfl]
  exact Effect.rule ((s.cleared s.dev.time.now).hostAborted_effect 0x310106 0x06090030)
    (fun _ h => unsent_of_isAnswer _ h) (Dev.hostAborted_answers rfl _ _)

/-! ### Authenticated writes -/

theorem Dev.spendTag_frame (d : Dev) (acc : Accessor) (needs : Bool) : ∃ z, d.spendTag acc needs = { d with dic := { d.dic with accessors := z } } := by
  rw [Dev.spendTag]
  split
  · exact ⟨_, rfl⟩
  · exact ⟨d.dic.accessors, rfl⟩

/-- R464, R466: in the factory a host write that needs authentication needs no tag; a tag that was presented is spent. -/
theorem Dev.writeObject_host_authenticated {s : State} {a : Nat} {v : Val} (h : Rules.HostMay s a v) {r : ObjRow} (hr : objRow a = some r)
    (hauth : authenticated r a = true) (hkind : r.kind = .wo) (hchain : r.chain = false) {p : Payload} (hp : hostPayload a v = p)
    {k : Nat} (hk : entryKind r a = k) (t : Nat) (act : Dev → Dev) :
    ∃ z, (s.cleared t).writeObject .host a v false none act =
      (act (({ s.cleared t with dic := z } : Dev).hostTakes k p)).hostAnswers (s.dev.nat 0x110003) .accepted := by
  obtain ⟨hrun, hcheck, hlife, hlock, hfresh, hbusy, hpending, -⟩ := h
  obtain ⟨l, hl⟩ := (s.cleared t).spendTag_frame .host true
  obtain ⟨z, hz⟩ : ∃ z, z = { (s.cleared t).dic with accessors := l } := ⟨_, rfl⟩
  rw [← hz] at hl
  refine ⟨z, ?_⟩
  have hf : seqFresh ({ s.cleared t with dic := z } : Dev) (0x11, 0) (s.dev.nat 0x110003) = true := hfresh
  have hb : ({ s.cleared t with dic := z } : Dev).intakeBusy = false := hbusy
  have hn : ¬ ({ s.cleared t with dic := z } : Dev).hostPending ≥ 16 := hz ▸ Nat.not_le.mpr hpending
  have hfield : ({ s.cleared t with dic := z } : Dev).nat 0x310202 = 1 := hlife
  have hsequence : ({ s.cleared t with dic := z } : Dev).nat 0x110003 = s.dev.nat 0x110003 := rfl
  have hpasses : authPasses (s.cleared t) .host r.ty a v = true := by
    rw [authPasses, show (s.cleared t).lock.until_ = none from hlock, show (s.cleared t).nat 0x310202 = 1 from hlife]
    rfl
  have hrun' : (s.cleared t).power.run ≠ .recovery := by
    rw [show (s.cleared t).power.run = .running from hrun]
    decide
  generalize ({ s.cleared t with dic := z } : Dev) = x at hl hf hb hn hfield hsequence ⊢
  have hwrite : (s.cleared t).writeWith .host a v (s.dev.nat 0x110003) false none act = (.accepted, act (x.hostTakes k p)) := by
    rw [Dev.writeWith, show writeCheck (s.cleared t) .host a v = none from hcheck]
    simp only [hr, Option.any_some, hauth, hl, hpasses, Bool.not_true, Bool.or_true, Bool.false_eq_true, if_false, sourceOf, hf,
      hb, hn, hkind, decide_false, Bool.and_false, Bool.or_false, hfield, ne_eq, not_true_eq_false, hchain, Bool.false_and, Dev.applyWrite,
      ← hp, hk, reduceCtorEq, Dev.hostTakes, hsequence]
    rfl
  rw [Dev.writeObject]
  simp only [if_neg hrun']
  rw [show (s.cleared t).nextSeq .host = s.dev.nat 0x110003 from rfl, hwrite]
  rfl

/-- R464: the abort of a write that needs authentication, where its object's state does not allow it. -/
theorem Dev.writeObject_host_authenticated_refused {s : State} {a : Nat} {v : Val} (h : Rules.HostMay s a v) {r : ObjRow} (hr : objRow a = some r)
    (hauth : authenticated r a = true) (t c : Nat) (act : Dev → Dev) :
    ∃ z, (s.cleared t).writeObject .host a v false (some c) act = ({ s.cleared t with dic := z } : Dev).hostAborted a c := by
  obtain ⟨hrun, hcheck, hlife, hlock, -, -, -, -⟩ := h
  obtain ⟨l, hl⟩ := (s.cleared t).spendTag_frame .host true
  have hpasses : authPasses (s.cleared t) .host r.ty a v = true := by
    rw [authPasses, show (s.cleared t).lock.until_ = none from hlock, show (s.cleared t).nat 0x310202 = 1 from hlife]
    rfl
  have hrun' : (s.cleared t).power.run ≠ .recovery := by
    rw [show (s.cleared t).power.run = .running from hrun]
    decide
  refine ⟨{ (s.cleared t).dic with accessors := l }, ?_⟩
  have hsequence : ({ s.cleared t with dic := { (s.cleared t).dic with accessors := l } } : Dev).nat 0x110003 = s.dev.nat 0x110003 := rfl
  generalize ({ s.cleared t with dic := { (s.cleared t).dic with accessors := l } } : Dev) = x at hl hsequence ⊢
  have hwrite : (s.cleared t).writeWith .host a v (s.dev.nat 0x110003) false (some c) act = (.aborted c, x.recordAbort .host a c) := by
    rw [Dev.writeWith, show writeCheck (s.cleared t) .host a v = none from hcheck]
    simp only [hr, Option.any_some, hauth, hl, hpasses, Bool.not_true, Bool.or_true, Bool.false_eq_true, if_false]
  rw [Dev.writeObject]
  simp only [if_neg hrun']
  rw [show (s.cleared t).nextSeq .host = s.dev.nat 0x110003 from rfl, hwrite, Dev.hostAborted, hsequence]
  rfl

/-- What a rule asks of an authenticated host write that is taken. -/
theorem Effect.authenticated_rule {α : Type} {r : Rule α} {a : α} {s : State} {t k : Nat} {p : Payload} {z : Dictionary} {x : Dev}
    (h : Effect r.parts (r.objs a) isAnswer (({ s.cleared t with dic := z } : Dev).hostTakes k p) x) (hjrn : .jrn ∈ r.parts) (hdic : .dic ∈ r.parts)
    (hseq : r.objs a 0x110003 = true) (hpost : r.post a s (x.hostAnswers (s.dev.nat 0x110003) .accepted)) :
    plain (x.hostAnswers (s.dev.nat 0x110003) .accepted) = true ∧
      Frame r.parts s.dev (x.hostAnswers (s.dev.nat 0x110003) .accepted) ∧
      ObjFrame (r.objs a) s.dev (x.hostAnswers (s.dev.nat 0x110003) .accepted) ∧
      r.post a s (x.hostAnswers (s.dev.nat 0x110003) .accepted) := by
  refine Effect.rule (t := t) (sent := isAnswer) ?_ (fun _ he => unsent_of_isAnswer _ he) hpost
  have htaken : Only r.parts (s.cleared t) (({ s.cleared t with dic := z } : Dev).hostTakes k p) := by
    refine Effect.trans ((Dev.withDic_effect (s.cleared t) z).mono fun q hq => ?_) ((Dev.hostTakes_effect _ k p).mono fun q hq => ?_)
    · rwa [List.mem_singleton.mp hq]
    · rwa [List.mem_singleton.mp hq]
  refine Effect.trans ((htaken.mono fun _ h => h).trans h) ((Dev.hostAnswers_effect _ _ _).mono (by simp) ?_ fun _ he => he)
  intro y hy
  rwa [show y = 0x110003 by simpa [among] using hy]

/-! ### Erasing, activation -/

theorem imageErase_holds : Rules.imageErase.Holds := by
  refine Rule.holds_served _ (fun _ s => s.dev.time.now) (fun _ _ d => d.writeObject .host 0x310108 (.num 1) false none imageEraseAct)
    (by rintro t c s rfl -; rfl) (fun _ _ h => h.1.1) ?_
  rintro u s ⟨hmay, hactive⟩
  obtain ⟨z, hz⟩ := Dev.writeObject_host_authenticated hmay rfl rfl rfl rfl (hostPayload_write (by decide) _) (k := 3) rfl s.dev.time.now
    imageEraseAct
  rw [hz]
  obtain ⟨x, hx⟩ : ∃ x, x = ({ s.cleared s.dev.time.now with dic := z } : Dev).hostTakes 3 (.write 0x310108 (.num 1)) := ⟨_, rfl⟩
  have hact : x.nat 0x310101 = 0 := by
    rw [hx]
    exact hactive
  have himage : x.nvm.imageA = s.dev.nvm.imageA := by
    rw [hx]
    rfl
  rw [← hx, imageEraseAct]
  have hnvm := Dev.putInactive_nvm hact {} 0
  refine Effect.authenticated_rule (t := s.dev.time.now) (k := 3) (p := .write 0x310108 (.num 1)) (z := z) (hx ▸ ?_) (by decide) (by decide) rfl
    ⟨?_, ?_, ?_, ?_⟩
  · exact ((Dev.putInactive_effect hact _ _).mono (by decide) (by simp +contextual [among, or_imp]) fun _ h => h.elim).put (by rfl) _
  · exact congrArg Nvm.imageB hnvm
  · exact (congrArg Nvm.imageA hnvm).trans himage
  · exact congrArg Int.toNat ((Dev.hostAnswers_int _ _ _ (by decide)).trans ((Dev.int_put_other _ _ _ _ (by decide)).trans
      (Dev.putInactive_state hact _ _)))
  · exact congrArg Int.toNat ((Dev.hostAnswers_int _ _ _ (by decide)).trans (Dev.int_put_same _ _ _))

/-- R463: the activation of the inactive image B. -/
theorem imageActivateAct_b {d : Dev} (hactive : d.nat 0x310101 = 0) :
    imageActivateAct d = { d.putInactive d.nvm.imageB 3 with nvm := { (d.putInactive d.nvm.imageB 3).nvm with bootChoice := 1 } } := by
  have hinactive : d.inactive = d.nvm.imageB := if_pos (Dev.inactiveB_of hactive)
  rw [imageActivateAct, hinactive, Dev.inactiveB_of hactive]
  rfl

theorem imageActivate_holds : Rules.imageActivate.Holds := by
  refine Rule.holds_served _ (fun _ s => s.dev.time.now) (fun _ _ d => d.writeObject .host 0x310109 (.num 1) false (imageActivateState d)
    imageActivateAct) (by rintro t c s rfl -; rfl) (fun _ _ h => h.1.1) ?_
  rintro u s ⟨hmay, hactive, hvalid⟩
  have hstate : imageActivateState (s.cleared s.dev.time.now) = none := by
    rw [imageActivateState, Dev.inactiveState, if_pos (Dev.inactiveB_of (d := s.cleared s.dev.time.now) hactive),
      show (s.cleared s.dev.time.now).nat 0x310103 = 2 from hvalid]
    rfl
  rw [hstate]
  obtain ⟨z, hz⟩ := Dev.writeObject_host_authenticated hmay rfl rfl rfl rfl (hostPayload_write (by decide) _) (k := 3) rfl s.dev.time.now
    imageActivateAct
  rw [hz]
  obtain ⟨x, hx⟩ : ∃ x, x = ({ s.cleared s.dev.time.now with dic := z } : Dev).hostTakes 3 (.write 0x310109 (.num 1)) := ⟨_, rfl⟩
  have hact : x.nat 0x310101 = 0 := by
    rw [hx]
    exact hactive
  have himage : x.nvm.imageB = s.dev.nvm.imageB := by
    rw [hx]
    rfl
  rw [← hx, imageActivateAct_b hact]
  have hput := Dev.putInactive_effect hact x.nvm.imageB 3
  have hnvm := Dev.putInactive_nvm hact x.nvm.imageB 3
  have hthree := Dev.putInactive_state hact x.nvm.imageB 3
  generalize x.putInactive x.nvm.imageB 3 = y at hput hnvm hthree ⊢
  refine Effect.authenticated_rule (t := s.dev.time.now) (k := 3) (p := .write 0x310109 (.num 1)) (z := z) (hx ▸ ?_) (by decide) (by decide) rfl
    ⟨rfl, ?_, ?_, ?_⟩
  · exact (hput.mono (by decide) (by simp +contextual [among, or_imp]) fun _ h => h.elim).only (Dev.withNvm_effect _ _) (by decide)
  · rw [Dev.nat, Dev.hostAnswers_int _ _ _ (by decide)]
    exact congrArg Int.toNat hthree
  · exact (congrArg Nvm.imageB hnvm).trans himage
  · rw [Dev.nat, Dev.hostAnswers_int _ _ _ (by decide)]
    refine congrArg Int.toNat (hput.int rfl) |>.trans ?_
    rw [hx]
    rfl

theorem imageActivateInvalid_holds : Rules.imageActivateInvalid.Holds := by
  refine Rule.holds_served _ (fun _ s => s.dev.time.now) (fun _ _ d => d.writeObject .host 0x310109 (.num 1) false (imageActivateState d)
    imageActivateAct) (by rintro t c s rfl -; rfl) (fun _ _ h => h.1.1) ?_
  rintro u s ⟨hmay, hactive, hpartial⟩
  have hstate : imageActivateState (s.cleared s.dev.time.now) = some 0x08000022 := by
    rw [imageActivateState, Dev.inactiveState, if_pos (Dev.inactiveB_of (d := s.cleared s.dev.time.now) hactive),
      show (s.cleared s.dev.time.now).nat 0x310103 = 1 from hpartial]
    rfl
  rw [hstate]
  obtain ⟨z, hz⟩ := Dev.writeObject_host_authenticated_refused hmay rfl rfl s.dev.time.now 0x08000022 imageActivateAct
  rw [hz]
  exact Effect.rule (((Dev.withDic_effect (s.cleared s.dev.time.now) z).mono (fun _ h => h)).trans ((Dev.hostAborted_effect _ 0x310109 0x08000022).mono
    (by decide) (fun _ h => h) fun _ h => h)) (fun _ h => unsent_of_isAnswer _ h) (Dev.hostAborted_answers rfl _ _)

/-! ### The trial, and operating time -/

theorem trialConfirmation_holds : Rules.trialConfirmation.Holds := by
  refine Rule.holds_logic _ (fun t _ => t) (fun _ _ d => trialConfirmationEff d) (by rintro t c s rfl -; rfl) (fun _ _ h => h.1) ?_
  rintro t s ⟨-, hactive, htrial, harmed, hlate, hloaded⟩
  have haddr : (s.cleared t).runningStateAddr = 0x310103 := if_pos hactive
  have heff : trialConfirmationEff (s.cleared t) = (((s.cleared t).put 0x310103 4).put 0x31010A
      (max ((s.cleared t).nat 0x31010A) (imageSecurity s.dev.nvm.imageB) : Nat)).bump 0x310004 := by
    have hguard : ((s.cleared t).nat 0x310103 = 3 && (s.cleared t).power.armedOnce &&
        (s.cleared t).power.armedAt + 60000000000 ≤ (s.cleared t).time.now) = true :=
      Bool.and_eq_true_iff.mpr ⟨Bool.and_eq_true_iff.mpr ⟨decide_eq_true htrial, harmed⟩, decide_eq_true hlate⟩
    rw [trialConfirmationEff, haddr, if_pos hguard, if_pos (show (s.cleared t).nat 0x310101 = 1 from hactive)]
    rfl
  have hsecurity : imageSecurity s.dev.nvm.imageB = leNat (cellsRead s.dev.nvm.imageB.bytes 8 4) := if_neg hloaded
  rw [heff, hsecurity]
  refine Effect.rule ((((Effect.refl _ _ (fun _ => False) _).put (by rfl) _).put (by rfl) _).bump (by rfl)) (fun _ h => h.elim) ⟨rfl, ?_, ?_⟩
  · exact congrArg Int.toNat ((Dev.int_put_other _ _ _ _ (by decide)).trans ((Dev.int_put_other _ _ _ _ (by decide)).trans (Dev.int_put_same _ _ _)))
  · exact (storeGet_putVal_other _ _ _ _ (by decide)).trans (storeGet_set_same _ _ _)

theorem trialConfirmationEarly_holds : Rules.trialConfirmationEarly.Holds := by
  refine Rule.holds_logic _ (fun t _ => t) (fun _ _ d => trialConfirmationEff d) (by rintro t c s rfl -; rfl) (fun _ _ h => h.1) ?_
  rintro t s ⟨-, hearly⟩
  have hstays : trialConfirmationEff (s.cleared t) = s.cleared t := by
    refine if_neg fun h => ?_
    obtain ⟨harmed, hlate⟩ := Bool.and_eq_true_iff.mp h
    rcases hearly with hunarmed | hnow
    · exact Bool.false_ne_true (hunarmed.symm.trans (Bool.and_eq_true_iff.mp harmed).2)
    · exact absurd (of_decide_eq_true hlate) (Nat.not_le.mpr hnow)
  rw [hstays]
  exact Only.rule (Effect.refl _ _ _ _) rfl

theorem operatingTimeCommit_holds : Rules.operatingTimeCommit.Holds := by
  refine Rule.holds_logic _ (fun t _ => t) (fun _ _ d => if d.opTimeDue then { d with nvm := { d.nvm with opTime := d.opTime } }.bump 0x310004
    else d) (by rintro t c s rfl -; rfl) (fun _ _ h => h.1) ?_
  rintro t s ⟨-, hdue⟩
  rw [if_pos (show (s.cleared t).opTimeDue = true from hdue)]
  exact Effect.rule (((Dev.withNvm_effect _ _).mono (fun _ h => h)).bump (by rfl)) (sent := fun _ => False) (fun _ h => h.elim)
    ⟨rfl, rfl, Dev.int_put_same _ _ _⟩

theorem operatingTimeCommitEarly_holds : Rules.operatingTimeCommitEarly.Holds := by
  refine Rule.holds_logic _ (fun t _ => t) (fun _ _ d => if d.opTimeDue then { d with nvm := { d.nvm with opTime := d.opTime } }.bump 0x310004
    else d) (by rintro t c s rfl -; rfl) (fun _ _ h => h.1) ?_
  rintro t s ⟨-, hdue⟩
  rw [if_neg (by rw [show (s.cleared t).opTimeDue = false from hdue]; exact Bool.false_ne_true)]
  exact Only.rule (Effect.refl _ _ _ _) rfl

end Sys2Proof.Machine

namespace Sys2Proof

/-- Settles O56, by a lemma for each rule. -/
theorem imagesAreLoaded : Obligations.ImagesAreLoaded :=
  ⟨Machine.imageChunk_holds, Machine.imageChunkBeyond_holds, Machine.imageErase_holds, Machine.imageActivate_holds,
    Machine.imageActivateInvalid_holds, Machine.trialConfirmation_holds, Machine.trialConfirmationEarly_holds,
    Machine.operatingTimeCommit_holds, Machine.operatingTimeCommitEarly_holds⟩

end Sys2Proof
end

