-- ==== Sys2Proof/Proofs/SdoReads.lean ====
section
/-! PROOF. A rule of SDO transfers that fails (R371). -/

namespace Sys2Proof.Machine

/-- A talking CANopen device whose object 0x2402:01 holds a value of more than 4 bytes. -/
def wideSelect : State := 
  ⟨{ (runningDev.put 0x2C3007 0xFF).putVal 0x240201 (.bytes [1, 2, 3, 4, 5]) with can := { buses := Vector.replicate 2 { state := 2 } } }, []⟩

theorem sdoRequest_fails : ¬ Rules.sdoRequest.Holds := by
  refine Rule.not_holds (a := 0) (s := wideSelect) rfl (by decide) (fun d => d.can.copen.upload.isSome) (by decide) ?_
  rintro d ⟨-, hcan⟩
  rw [hcan]
  rfl

end Sys2Proof.Machine

namespace Sys2Proof

/-- Refutes O48: a read of an object whose kept value is longer than 4 bytes opens a segmented upload. -/
theorem not_canOpenServes : ¬ Obligations.CanOpenServes := by
  rintro ⟨-, -, -, -, -, -, hread, -⟩
  exact Machine.sdoRequest_fails hread

end Sys2Proof
end

