-- ==== Sys2Proof/Proofs/ProprietaryReads.lean ====
section
/-! PROOF. A rule of the proprietary path on CAN-I that fails (R368). -/

namespace Sys2Proof.Machine

/-- A device that talks on CAN-I, and whose object 0x2402:01 holds more bytes than a CAN-I message carries. -/
def longSelect : State :=
  ⟨{ runningDev.putVal 0x240201 (.bytes (List.replicate 1786 0)) with
      can := { buses := Vector.replicate 2 { state := 2 }, iso := { address := 128 } } }, []⟩

theorem proprietaryARequest_fails : ¬ Rules.proprietaryARequest.Holds := by
  refine Rule.not_holds (a := (0, 0, .num 0, 0)) (s := longSelect) rfl (by decide)
    (fun d => !decide (d.out = [.answer (.canI 0) 0 0 (.num (valueWord (longSelect.dev.int 0x240201)))])) (by decide +kernel) ?_
  intro d hpost
  exact congrArg not (decide_eq_true hpost)

end Sys2Proof.Machine

namespace Sys2Proof

/-- Refutes O47: a read of a kept value longer than CAN-I's 1,785 bytes is answered with the length abort, not with a word. -/
theorem not_taskControllerCommands : ¬ Obligations.TaskControllerCommands := by
  rintro ⟨-, -, -, -, -, -, -, hread, -⟩
  exact Machine.proprietaryARequest_fails hread

end Sys2Proof
end

