-- ==== Sys2Proof/Proofs/OrderedAnswers.lean ====
section
/-! PROOF. A rule of remote access that fails (R388). -/

namespace Sys2Proof.Machine

/-- A device that owes an answer, and whose object 0x2402:01 holds some bytes. -/
def bytesSelect (b : List Byte) : State :=
  ⟨{ runningDev with dic := { answers := [(1, none)] }, obj := [(0x240201, .bytes b)] }, []⟩

/-- R388: a read whose value is longer than the path's limit is aborted, which is recorded. -/
theorem bytesSelect_read {b : List Byte} (hb : 131072 < b.length) : ((bytesSelect b).cleared 0).readObject (.mgmt 0) 0x240201 =
    (.aborted 0x06070012, ((bytesSelect b).cleared 0).recordAbort (.mgmt 0) 0x240201 0x06070012) := by
  have hcheck : ((bytesSelect b).cleared 0).readCheck (.mgmt 0) 0x240201 = none := rfl
  have hvalue : ((bytesSelect b).cleared 0).valueOf (.mgmt 0) 0x240201 = .bytes b := rfl
  rw [Dev.readObject, hcheck]
  simp only [show isQueue 0x240201 = false from rfl, hvalue, valBytes]
  exact if_pos hb

/-- R388: the abort waits behind the answer that is owed. -/
theorem bytesSelect_ends {b : List Byte} (hb : 131072 < b.length) :
    exec (.dictionaryRequest ⟨2, 1, 0, 0x240201, 0, .num 0⟩ 0) (bytesSelect b) =
      .next ⟨(((bytesSelect b).cleared 0).recordAbort (.mgmt 0) 0x240201 0x06070012).respond ⟨2, 6, 0x06070012, .num 0⟩, []⟩ := by
  have heff : requestEff ((bytesSelect b).cleared 0) ⟨2, 1, 0, 0x240201, 0, .num 0⟩ =
      (((bytesSelect b).cleared 0).recordAbort (.mgmt 0) 0x240201 0x06070012).respond ⟨2, 6, 0x06070012, .num 0⟩ := by
    rw [requestEff]
    simp only [bytesSelect_read hb]
  rw [show exec (.dictionaryRequest ⟨2, 1, 0, 0x240201, 0, .num 0⟩ 0) (bytesSelect b) =
      (bytesSelect b).logic 0 fun d => requestEff d ⟨2, 1, 0, 0x240201, 0, .num 0⟩ from rfl, State.logic_eq _ _ _ rfl]
  rw [show requestEff (({ (bytesSelect b).dev with out := [] } : Dev).at 0) ⟨2, 1, 0, 0x240201, 0, .num 0⟩ = _ from heff,
    Dev.linkOut_nil _ (by simp [Dev.respond, Dev.recordAbort, Dev.bump, Dev.put, bytesSelect])]
  rfl

theorem dictionaryRequestOrdered_fails : ¬ Rules.dictionaryRequestOrdered.Holds := by
  intro h
  have hb : 131072 < (List.replicate 131073 (0 : Byte)).length := by
    rw [List.length_replicate]
    norm_num
  generalize List.replicate 131073 (0 : Byte) = b at hb
  obtain ⟨u, hexec, -, -, hobj, -⟩ := h (2, 1, 0) (.dictionaryRequest ⟨2, 1, 0, 0x240201, 0, .num 0⟩ 0) (bytesSelect b) rfl ⟨rfl, rfl⟩
  rw [bytesSelect_ends hb] at hexec
  injection hexec with hu
  have hkept : u.dev.int 0x103004 = (bytesSelect b).dev.int 0x103004 := hobj.int rfl
  have hcount : u.dev.int 0x103004 = 1 := by
    rw [← hu]
    show (((bytesSelect b).cleared 0).recordAbort (.mgmt 0) 0x240201 0x06070012).int 0x103004 = 1
    rw [Dev.recordAbort, Dev.int_put_other _ _ _ _ (by decide), Dev.int_put_other _ _ _ _ (by decide), Dev.bump, Dev.int_put_same]
    rfl
  have hzero : (bytesSelect b).dev.int 0x103004 = 0 := rfl
  exact absurd (hcount.symm.trans (hkept.trans hzero)) (by decide)

end Sys2Proof.Machine

namespace Sys2Proof

/-- Refutes O49: a read of a kept value longer than a message's 131,072 bytes is answered with the length abort, which is recorded. -/
theorem not_remoteAccessServes : ¬ Obligations.RemoteAccessServes := by
  rintro ⟨-, -, -, -, hordered, -⟩
  exact Machine.dictionaryRequestOrdered_fails hordered

end Sys2Proof
end

