-- ==== Sys2Proof/Proofs/CanControllers.lean ====
section
/-! PROOF. CAN controllers: frames, bus-off and address claims (R356, R359, R360, R362, R364). -/

namespace Sys2Proof.Machine

/-! ### A controller -/

theorem Dev.bus_effect (d : Dev) (b : Fin 2) (f : CanController → CanController) : Only [.can] d (d.bus b f) :=
  Effect.of_blank rfl rfl rfl

theorem Dev.bus_same (d : Dev) (b : Fin 2) (f : CanController → CanController) : (d.bus b f).can.buses[b] = f d.can.buses[b] :=
  updateAt_same _ b f

theorem Dev.bus_other (d : Dev) {b k : Fin 2} (f : CanController → CanController) (h : k ≠ b) : (d.bus b f).can.buses[k] = d.can.buses[k] :=
  updateAt_other _ f h

theorem updateAt_restore {α : Type} {n : Nat} (v : Vector α n) (i : Fin n) (f g : α → α) (h : g (f v[i]) = v[i]) :
    updateAt (updateAt v i f) i g = v := by
  refine Vector.ext fun k hk => ?_
  by_cases hki : (⟨k, hk⟩ : Fin n) = i
  · subst hki
    exact (updateAt_same _ ⟨k, hk⟩ g).trans ((congrArg g (updateAt_same v ⟨k, hk⟩ f)).trans h)
  · exact (updateAt_other _ (j := ⟨k, hk⟩) g hki).trans (updateAt_other v (j := ⟨k, hk⟩) f hki)

/-- R373: an emergency message changes the CANopen stack alone. -/
theorem Dev.emcy_copen (d : Dev) (code event : Nat) : ∃ x, (d.emcy code event).can = { d.can with copen := x } := by
  unfold Dev.emcy
  dsimp only
  split
  · exact ⟨_, rfl⟩
  · generalize (_ || _ : Bool) = held
    cases held
    · exact ⟨_, rfl⟩
    · exact ⟨_, rfl⟩

theorem Dev.dtc_copen (d : Dev) (code kind unit : Nat) : ∃ x, (d.dtc code kind unit).can = { d.can with copen := x } := by
  unfold Dev.dtc
  split
  · split
    · exact d.emcy_copen _ _
    · exact ⟨_, rfl⟩
  · split
    · exact Dev.emcy_copen _ _ _
    · split
      · exact Dev.emcy_copen _ _ _
      · exact ⟨_, rfl⟩

theorem Dev.raise_copen (d : Dev) (code kind unit : Nat) (items : List (Nat × Int)) :
    ∃ x, (d.raise code kind unit items).can = { d.can with copen := x } := by
  obtain ⟨x, hx⟩ := d.dtc_copen code kind unit
  exact ⟨x, (((d.dtc code kind unit).record_effect _).frame .can (by decide)).symm.trans hx⟩

/-! ### Frames -/

/-- R360: an event of a full FIFO names no DTC, so raising it only records it. -/
theorem Dev.raise_overflow_effect (d : Dev) (kind unit : Nat) (items : List (Nat × Int)) :
    Effect [.rcd] (among [0x2F0003, 0x2F0004]) (fun _ => False) d (d.raise 0x0F02 kind unit items) :=
  d.record_effect _

theorem frameEff_unheard {d : Dev} {b : Fin 2} {f : CanFrame}
    (h : (!d.busHears b || (f.fd && !(b = 1 && d.flag 0x2C0206)) || !Config.filterMatches (Config.filterTable b (storeKeep inSetSlot d.obj)) f) = true) :
    frameEff d b f = d :=
  if_pos h

theorem frameEff_heard {d : Dev} {b : Fin 2} {f : CanFrame} (hhears : d.busHears b = true) (hfd : f.fd = false)
    (hmatch : Config.filterMatches (Config.filterTable b (storeKeep inSetSlot d.obj)) f = true) :
    (!d.busHears b || (f.fd && !(b = 1 && d.flag 0x2C0206)) || !Config.filterMatches (Config.filterTable b (storeKeep inSetSlot d.obj)) f) = false := by
  rw [hhears, hfd, hmatch]
  rfl

theorem frameEff_unmatched {d : Dev} {b : Fin 2} {f : CanFrame}
    (hmatch : Config.filterMatches (Config.filterTable b (storeKeep inSetSlot d.obj)) f = false) : frameEff d b f = d :=
  frameEff_unheard (by rw [hmatch, Bool.not_false, Bool.or_true])

/-- R360: core 0 takes a frame of CAN-I out of the FIFO at once. -/
theorem frameEff_taken {d : Dev} {f : CanFrame} (hhears : d.busHears 0 = true) (hfd : f.fd = false) (hempty : d.can.buses[(0 : Fin 2)].fifo = [])
    (hcore : d.power.halted0 = false) (hmatch : Config.filterMatches (Config.filterTable 0 (storeKeep inSetSlot d.obj)) f = true) :
    frameEff d 0 f = ((d.bump 0x2C0112).bus 0 fun c => { c with fifo := c.fifo ++ [f] }).bus 0 fun c => { c with fifo := [] } := by
  have hfold : ∀ (l : List CanFrame) (x : Dev), l.foldl (fun (d : Dev) (f : CanFrame) =>
      if (0 : Fin 2) = 1 && !f.extended && !f.fd && 0x700 < f.id && f.id ≤ 0x77F then d.heartbeatSeen (f.id - 0x700) else d) x = x := by
    intro l
    induction l with
    | nil => exact fun _ => rfl
    | cons f r ih => exact fun x => ih x
  unfold frameEff
  extract_lets fdOk x y z
  rw [if_neg (by rw [show fdOk = ((0 : Fin 2) = 1 && d.flag 0x2C0206) from rfl, frameEff_heard hhears hfd hmatch]; exact Bool.false_ne_true),
    if_neg (by rw [hempty]; decide), if_neg (by rw [show x.power.halted0 = false from hcore]; exact Bool.false_ne_true)]
  exact hfold y z

theorem canFrameReceived_holds : Rules.canFrameReceived.Holds := by
  refine Rule.holds_logic _ (fun a _ => a.2) (fun a _ d => frameEff d 0 a.1) (by rintro t c s rfl -; rfl) (fun _ _ h => h.1) ?_
  rintro ⟨f, t⟩ s hp
  dsimp only at hp
  obtain ⟨-, hhears, hfd, hempty, hcore⟩ := hp
  cases hmatch : Config.filterMatches (Config.filterTable 0 (storeKeep inSetSlot s.dev.obj)) f
  · rw [frameEff_unmatched (d := s.cleared t) hmatch]
    exact Only.rule (Effect.refl _ _ _ _) ⟨rfl, (if_neg (by rw [hmatch]; exact Bool.false_ne_true)).symm⟩
  · rw [frameEff_taken (d := s.cleared t) hhears hfd hempty hcore hmatch]
    have hbuses : updateAt (updateAt s.dev.can.buses 0 fun c => { c with fifo := c.fifo ++ [f] }) 0 (fun c => { c with fifo := [] }) =
        s.dev.can.buses := by
      refine updateAt_restore _ 0 _ _ ?_
      show { (Rules.bus s.dev 0) with fifo := [] } = Rules.bus s.dev 0
      rw [← hempty]
    have hsame : ((((s.cleared t).bump 0x2C0112).bus 0 fun c => { c with fifo := c.fifo ++ [f] }).bus 0 fun c => { c with fifo := [] }) =
        (s.cleared t).bump 0x2C0112 := by
      rw [Dev.bus]
      exact congrArg (fun l => { (s.cleared t).bump 0x2C0112 with can := { s.dev.can with buses := l } }) hbuses
    rw [hsame]
    exact Effect.rule (sent := fun _ => False) ((Effect.refl _ _ _ _).bump (by rfl)) (fun _ h => h.elim)
      ⟨rfl, (Dev.int_put_same _ _ _).trans (if_pos hmatch).symm⟩

theorem canFrameReceivedFd_holds : Rules.canFrameReceivedFd.Holds := by
  refine Rule.holds_logic _ (fun a _ => a.2) (fun a _ d => frameEff d 0 a.1) (by rintro t c s rfl -; rfl) (fun _ _ h => h.1) ?_
  rintro ⟨f, t⟩ s ⟨-, hfd⟩
  rw [frameEff_unheard (by rw [show f.fd = true from hfd]; simp)]
  exact Only.rule (Effect.refl _ _ _ _) rfl

theorem canFrameReceivedFull_holds : Rules.canFrameReceivedFull.Holds := by
  refine Rule.holds_logic _ (fun a _ => a.2) (fun a _ d => frameEff d 0 a.1) (by rintro t c s rfl -; rfl) (fun _ _ h => h.1) ?_
  rintro ⟨f, t⟩ s hp
  dsimp only at hp
  obtain ⟨-, hhears, hfd, hfull, -⟩ := hp
  cases hmatch : Config.filterMatches (Config.filterTable 0 (storeKeep inSetSlot s.dev.obj)) f
  · rw [frameEff_unmatched (d := s.cleared t) hmatch]
    exact Only.rule (Effect.refl _ _ _ _) (if_neg (by rw [hmatch]; exact Bool.false_ne_true)).symm
  · have heff : frameEff (s.cleared t) 0 f = ((s.cleared t).bump 0x2C0111).raise 0x0F02 0 0xFFFF [(2, (0 : Fin 2).val)] := by
      unfold frameEff
      extract_lets fdOk
      rw [if_neg (by rw [show fdOk = ((0 : Fin 2) = 1 && (s.cleared t).flag 0x2C0206) from rfl,
        frameEff_heard (d := s.cleared t) hhears hfd hmatch]; exact Bool.false_ne_true)]
      exact if_pos hfull.ge
    have hraise := ((s.cleared t).bump 0x2C0111).raise_overflow_effect 0 0xFFFF [(2, (0 : Fin 2).val)]
    rw [heff]
    refine Effect.rule ((((Effect.refl _ _ _ _).bump (by rfl)).trans (hraise.mono (by decide) (by simp +contextual [among]) fun _ h => h)))
      (fun _ h => h.elim) ?_
    exact ((hraise.int rfl).trans (Dev.int_put_same _ _ _)).trans (if_pos hmatch).symm

/-! ### Bus-off -/

/-- R362: the instants of the bus-offs within 60 s, this one included. -/
def Dev.busOffsNow (d : Dev) : List Nat :=
  (d.can.buses[(0 : Fin 2)].busOffs.filter fun t => d.time.now < t + 60000000000) ++ [d.time.now]

/-- R362: how long the recovery from this bus-off waits. -/
def Dev.busOffWait (d : Dev) : Nat :=
  if 10 ≤ d.busOffsNow.length then 10000000000
  else if (d.busOffsNow.filter fun t => d.time.now < t + 10000000000).length ≤ 3 then 0 else 1000000000

/-- R359, R362: CAN-I after a bus-off, before its event. -/
def Dev.busIsOff (d : Dev) : Dev :=
  (((d.bus 0 fun c => { c with
    state := if d.busOffWait = 0 then 4 else 5, busOffs := d.busOffsNow
    waitUntil := if d.busOffWait = 0 then none else some (d.time.now + d.busOffWait) }).bump 0x2C0110).fault 17 false 0).iso
    fun x => { x with sessions := [] }

theorem busOffEff_canI {d : Dev} (h : d.busTalks 0 = true) : busOffEff d 0 = d.busIsOff.raise 0x0F01 0 0xFFFF [(2, (0 : Fin 2).val)] := by
  rw [busOffEff, if_neg (by rw [h]; exact Bool.false_ne_true)]
  rfl

theorem Dev.busIsOff_effect (d : Dev) : Effect [.can, .hlt] (among [0x2C0110]) (fun _ => False) d d.busIsOff := by
  rw [Dev.busIsOff]
  exact Effect.only (Effect.only (Effect.bump ((Dev.bus_effect _ _ _).mono (by decide)) (by rfl)) (Dev.fault_effect _ _ _ _) (by decide))
    (Dev.withIso_effect _ _) (by decide)

/-- R362: a rule of a bus-off of CAN-I. -/
theorem busOff_rule {α : Type} {r : Rule α} {a : α} {s : State} {t : Nat} (htalks : s.dev.busTalks 0 = true)
    (hparts : r.parts = .hlt :: eventParts) (hobjs : ∀ x, r.objs a x = (x = 0x2C0110 || eventObjs x))
    (hpost : ∀ d : Dev, (∃ x, d.can = { (s.cleared t).busIsOff.can with copen := x }) → d.int 0x2C0110 = (s.dev.int 0x2C0110 + 1) % 2 ^ 32 →
      d.hlt = (s.cleared t).busIsOff.hlt → r.post a s d) :
    (∀ e ∈ (busOffEff (s.cleared t) 0).out, (s.cleared t).route e = none) ∧ Frame r.parts s.dev (busOffEff (s.cleared t) 0) ∧
      ObjFrame (r.objs a) s.dev (busOffEff (s.cleared t) 0) ∧
      ∀ o, ObjFrame busObjs (busOffEff (s.cleared t) 0) { busOffEff (s.cleared t) 0 with obj := o } →
        r.post a s { busOffEff (s.cleared t) 0 with obj := o } := by
  rw [busOffEff_canI (d := s.cleared t) htalks]
  have hoff := (s.cleared t).busIsOff_effect
  obtain ⟨x, hx⟩ := (s.cleared t).busIsOff.raise_copen 0x0F01 0 0xFFFF [(2, (0 : Fin 2).val)]
  have hraise := (s.cleared t).busIsOff.raise_effect 0x0F01 0 0xFFFF [(2, (0 : Fin 2).val)]
  refine Effect.unrouted_rule (sent := isEmcy) ((hoff.mono (by rw [hparts]; decide) (fun y hy => ?_) fun _ h => h.elim).trans
    (hraise.mono (by rw [hparts]; decide) (fun y hy => ?_) fun _ h => h)) (fun _ h => Dev.route_none_of_isEmcy _ h) fun o ho =>
    hpost _ ⟨x, hx⟩ ?_ (hraise.frame .hlt (by decide)).symm
  · rw [hobjs, show y = 0x2C0110 by simpa [among] using hy]
    rfl
  · rw [hobjs, hy, Bool.or_true]
  · refine (ho.int rfl).trans ((hraise.int rfl).trans ?_)
    exact Dev.int_put_same _ _ _

theorem busIsOff_bus (d : Dev) : d.busIsOff.can.buses[(0 : Fin 2)] = { d.can.buses[(0 : Fin 2)] with
    state := if d.busOffWait = 0 then 4 else 5, busOffs := d.busOffsNow
    waitUntil := if d.busOffWait = 0 then none else some (d.time.now + d.busOffWait) } :=
  updateAt_same _ (0 : Fin 2) _

theorem busIsOff_other (d : Dev) : d.busIsOff.can.buses[(1 : Fin 2)] = d.can.buses[(1 : Fin 2)] :=
  updateAt_other (i := (0 : Fin 2)) (j := (1 : Fin 2)) _ _ (by decide)

theorem Dev.busOffsNow_of {d : Dev} {l : List Nat} (hl : d.can.buses[(0 : Fin 2)].busOffs = l)
    (hlate : ∀ x ∈ l, d.time.now < x + 60000000000) : d.busOffsNow = l ++ [d.time.now] := by
  rw [Dev.busOffsNow, hl, List.filter_eq_self.mpr fun x hx => decide_eq_true (hlate x hx)]

theorem busOff_holds : Rules.busOff.Holds := by
  refine Rule.holds_unrouted_logic _ (fun t _ => t) (fun _ _ d => busOffEff d 0) (by rintro t c s rfl -; rfl) (fun _ _ h => h.1)
    (by simp +contextual [busObjs, eventObjs, among]) ?_
  rintro t s ⟨-, htalks, hfirst⟩
  have hoffs : (s.cleared t).busOffsNow = [s.nowAt t] :=
    Dev.busOffsNow_of (d := s.cleared t) hfirst fun x hx => absurd hx List.not_mem_nil
  have hwait : (s.cleared t).busOffWait = 0 := by
    rw [Dev.busOffWait, hoffs, if_neg (by simp)]
    exact if_pos ((List.length_filter_le _ _).trans (by simp))
  refine busOff_rule htalks rfl (fun _ => rfl) ?_
  rintro d ⟨x, hx⟩ hcount hhlt
  have hbus := busIsOff_bus (s.cleared t)
  rw [hwait, if_pos rfl, if_pos rfl, hoffs] at hbus
  have hzero : Rules.bus d 0 = { Rules.bus s.dev 0 with state := 4, busOffs := [s.nowAt t], waitUntil := none } :=
    (congrArg (fun c : Can => c.buses[(0 : Fin 2)]) hx).trans hbus
  refine ⟨?_, ?_, ?_, ?_, ?_, hcount, ?_⟩
  · rw [hzero]
  · rw [hzero]
  · rw [hzero]
  · exact (congrArg (fun c : Can => c.buses[(1 : Fin 2)]) hx).trans (busIsOff_other _)
  · rw [hx]
    rfl
  · rw [hhlt]
    exact Dev.fault_transient _ _ _

theorem busOffWaits_holds : Rules.busOffWaits.Holds := by
  refine Rule.holds_unrouted_logic _ (fun a _ => a.2.2.2) (fun _ _ d => busOffEff d 0) (by rintro t c s rfl -; rfl) (fun _ _ h => h.1)
    (by simp +contextual [busObjs, eventObjs, among]) ?_
  rintro ⟨x, y, z, t⟩ s hp
  dsimp only at hp
  obtain ⟨-, htalks, hthree, hx, hy, hz⟩ := hp
  have hlate : ∀ w ∈ [x, y, z, s.nowAt t], s.nowAt t < w + 10000000000 := by
    simp only [List.mem_cons, List.not_mem_nil, or_false, forall_eq_or_imp, forall_eq]
    exact ⟨hx, hy, hz, by omega⟩
  have hoffs : (s.cleared t).busOffsNow = [x, y, z, s.nowAt t] := by
    refine Dev.busOffsNow_of (d := s.cleared t) hthree fun w hw => ?_
    have hten := hlate w (by simp only [List.mem_cons, List.not_mem_nil, or_false] at hw ⊢; tauto)
    exact hten.trans (by omega)
  have hwait : (s.cleared t).busOffWait = 1000000000 := by
    have hall : ([x, y, z, s.nowAt t].filter fun w => (s.cleared t).time.now < w + 10000000000) = [x, y, z, s.nowAt t] :=
      List.filter_eq_self.mpr fun w hw => decide_eq_true (hlate w hw)
    rw [Dev.busOffWait, hoffs, if_neg (by simp), hall]
    rfl
  refine busOff_rule htalks rfl (fun _ => rfl) ?_
  rintro d ⟨c, hc⟩ - -
  have hbus := (congrArg (fun c : Can => c.buses[(0 : Fin 2)]) hc).trans (busIsOff_bus (s.cleared t))
  rw [hwait] at hbus
  refine ⟨?_, ?_, ?_⟩
  · exact congrArg CanController.state hbus
  · exact congrArg CanController.waitUntil hbus
  · exact (congrArg (fun c : Can => c.buses[(1 : Fin 2)]) hc).trans (busIsOff_other _)

theorem busOffTenth_holds : Rules.busOffTenth.Holds := by
  refine Rule.holds_unrouted_logic _ (fun a _ => a.2) (fun _ _ d => busOffEff d 0) (by rintro t c s rfl -; rfl) (fun _ _ h => h.1)
    (by simp +contextual [busObjs, eventObjs, among]) ?_
  rintro ⟨x, t⟩ s hp
  dsimp only at hp
  obtain ⟨-, htalks, hnine, hlate⟩ := hp
  have hoffs : (s.cleared t).busOffsNow = List.replicate 9 x ++ [s.nowAt t] := by
    refine Dev.busOffsNow_of (d := s.cleared t) hnine fun w hw => ?_
    rw [List.eq_of_mem_replicate hw]
    exact hlate
  have hwait : (s.cleared t).busOffWait = 10000000000 := by
    rw [Dev.busOffWait, hoffs]
    exact if_pos (by rw [List.length_append, List.length_replicate]; exact Nat.le_refl 10)
  refine busOff_rule htalks rfl (fun _ => rfl) ?_
  rintro d ⟨c, hc⟩ - -
  have hbus := (congrArg (fun c : Can => c.buses[(0 : Fin 2)]) hc).trans (busIsOff_bus (s.cleared t))
  rw [hwait] at hbus
  exact ⟨congrArg CanController.state hbus, congrArg CanController.waitUntil hbus⟩

theorem busOffRecovery_holds : Rules.busOffRecovery.Holds := by
  refine Rule.holds_logic _ (fun a _ => a.2.2) (fun a _ d => recoveryEff d a.1) (by rintro t c s rfl -; rfl) (fun _ _ h => h.1) ?_
  rintro ⟨b, w, t⟩ s hp
  dsimp only at hp
  obtain ⟨-, hstate, hwait, hdue⟩ := hp
  have heff : recoveryEff (s.cleared t) b = (s.cleared t).bus b fun c => { c with state := 4, waitUntil := none } := by
    rw [recoveryEff]
    simp only [show (s.cleared t).can.buses[b].waitUntil = some w from hwait]
    exact if_pos (Bool.and_eq_true_iff.mpr ⟨decide_eq_true hstate, decide_eq_true hdue⟩)
  rw [heff]
  exact Only.rule (Dev.bus_effect _ b _) ⟨rfl, Dev.bus_same _ _ _, rfl, rfl, fun k hk => Dev.bus_other _ _ hk⟩

theorem busOffRecoveryComplete_holds : Rules.busOffRecoveryComplete.Holds := by
  refine Rule.holds_logic _ (fun a _ => a.2) (fun a _ d => recoveredEff d a.1) (by rintro t c s rfl -; rfl) (fun _ _ h => h.1) ?_
  rintro ⟨b, t⟩ s ⟨-, hstate⟩
  rw [recoveredEff, if_pos (show (s.cleared t).can.buses[b].state = 4 from hstate)]
  exact Only.rule (Dev.bus_effect _ b _) ⟨rfl, Dev.bus_same _ _ _, fun k hk => Dev.bus_other _ _ hk⟩

/-! ### Address claims -/

/-- R364: the device notes a claim of another control function. -/
def Dev.claimNoted (d : Dev) (name address : Nat) : Dev :=
  d.iso fun x => { x with others := (x.others.filter fun o => o.1 ≠ name) ++ (if address ≤ 253 then [(name, address)] else []) }

/-- R364: a claim of the device's own address. -/
theorem addressClaimEff_own {d : Dev} (htalks : d.isoTalks = true) (name : Nat) :
    addressClaimEff d name d.can.iso.address =
      if d.isoName < name then (d.claimNoted name d.can.iso.address).send (.claim d.isoName d.can.iso.address)
      else match (if d.flag 0x2C2006 then (d.claimNoted name d.can.iso.address).freeAddress else none) with
        | some a => (d.claimNoted name d.can.iso.address).claim a
        | none => ((d.claimNoted name d.can.iso.address).iso fun x => { x with address := 254 }).send (.claim d.isoName 254) := by
  have hbus : d.can.buses[(0 : Fin 2)].state = 2 ∨ d.can.buses[(0 : Fin 2)].state = 3 := by
    rw [Dev.isoTalks, Bool.and_eq_true_iff] at htalks
    obtain ⟨hbus, -⟩ := htalks
    rw [Dev.busTalks] at hbus
    simpa using (Bool.and_eq_true_iff.mp hbus).1
  have htalks' : (d.claimNoted name d.can.iso.address).isoTalks = true := htalks
  have hawake : ¬ (d.can.buses[(0 : Fin 2)].state < 2 || d.can.buses[(0 : Fin 2)].state > 3) = true := by
    rcases hbus with h | h <;> rw [h] <;> decide
  rw [addressClaimEff, if_neg hawake]
  rw [show (d.iso fun x => { x with others := (x.others.filter fun o => o.1 ≠ name) ++ (if d.can.iso.address ≤ 253 then
    [(name, d.can.iso.address)] else []) }) = d.claimNoted name d.can.iso.address from rfl]
  rw [if_neg (by rw [htalks']; simp [Dev.claimNoted, Dev.iso])]
  rfl

theorem Dev.claimNoted_effect (d : Dev) (name address : Nat) : Only [.can] d (d.claimNoted name address) :=
  d.withIso_effect _

theorem addressClaim_holds : Rules.addressClaim.Holds := by
  refine Rule.holds_counted_logic _ (fun a _ => a.2) (fun a _ d => addressClaimEff d a.1 128) (by rintro t c s rfl -; rfl)
    (fun _ _ h => h.1.1) ?_
  rintro ⟨name, t⟩ s hp
  dsimp only at hp
  obtain ⟨⟨-, htalks⟩, hown, hothers, hlower⟩ := hp
  have heff := addressClaimEff_own (d := s.cleared t) htalks name
  rw [show (s.cleared t).can.iso.address = 128 from hown, if_pos (show (s.cleared t).isoName < name from hlower)] at heff
  rw [heff]
  refine sentOnCanI _ (Dev.claimNoted_effect _ _ _) (fun _ h => h) rfl rfl fun o => ⟨rfl, hown, ?_⟩
  show (s.dev.can.iso.others.filter fun o => o.1 ≠ name) ++ [(name, 128)] = [(name, 128)]
  rw [hothers]
  rfl

theorem addressClaimLost_holds : Rules.addressClaimLost.Holds := by
  refine Rule.holds_counted_logic _ (fun a _ => a.2) (fun a _ d => addressClaimEff d a.1 128) (by rintro t c s rfl -; rfl)
    (fun _ _ h => h.1.1) ?_
  rintro ⟨name, t⟩ s hp
  dsimp only at hp
  obtain ⟨⟨-, htalks⟩, hown, hothers, hhigher, hself⟩ := hp
  have hfree : ((s.cleared t).claimNoted name 128).freeAddress = some 129 := by
    have hnoted : ((s.cleared t).claimNoted name 128).can.iso.others = [(name, 128)] := by
      show (s.dev.can.iso.others.filter fun o => o.1 ≠ name) ++ [(name, 128)] = [(name, 128)]
      rw [hothers]
      rfl
    rw [Dev.freeAddress, hnoted]
    rfl
  have heff := addressClaimEff_own (d := s.cleared t) htalks name
  rw [show (s.cleared t).can.iso.address = 128 from hown, if_neg (show ¬ (s.cleared t).isoName < name from Nat.not_lt.mpr hhigher),
    if_pos (show (s.cleared t).flag 0x2C2006 = true from hself), hfree] at heff
  rw [heff]
  unfold Dev.claim
  refine Effect.counted_rule (sent := onCanI) (Effect.send (((((s.cleared t).claimNoted_effect name 128).mono (fun _ h => h)).only
    (Dev.withIso_effect _ _) (fun _ h => h)).put (by rfl) _) rfl) (fun _ h => counted_of_onCanI h rfl) fun o _ => ⟨rfl, rfl⟩

theorem addressClaimCannot_holds : Rules.addressClaimCannot.Holds := by
  refine Rule.holds_counted_logic _ (fun a _ => a.2.2) (fun a _ d => addressClaimEff d a.1 a.2.1) (by rintro t c s rfl -; rfl)
    (fun _ _ h => h.1.1) ?_
  rintro ⟨name, address, t⟩ s hp
  dsimp only at hp
  obtain ⟨⟨-, htalks⟩, rfl, hhigher, hself⟩ := hp
  have heff := addressClaimEff_own (d := s.cleared t) htalks name
  rw [if_neg (show ¬ (s.cleared t).isoName < name from Nat.not_lt.mpr hhigher),
    if_neg (by rw [show (s.cleared t).flag 0x2C2006 = false from hself]; exact Bool.false_ne_true)] at heff
  rw [show addressClaimEff (s.cleared t) name s.dev.can.iso.address = _ from heff]
  exact sentOnCanI _ (((s.cleared t).claimNoted_effect name _).trans (Dev.withIso_effect _ _)) (fun _ h => h) rfl rfl fun o =>
    ⟨rfl, rfl, Bool.and_false _⟩

end Sys2Proof.Machine

namespace Sys2Proof

/-- Settles O45, by a lemma for each rule. -/
theorem canControllersAct : Obligations.CanControllersAct :=
  ⟨Machine.canFrameReceived_holds, Machine.canFrameReceivedFd_holds, Machine.canFrameReceivedFull_holds,
    Machine.busOff_holds, Machine.busOffWaits_holds, Machine.busOffTenth_holds, Machine.busOffRecovery_holds,
    Machine.busOffRecoveryComplete_holds, Machine.addressClaim_holds, Machine.addressClaimLost_holds,
    Machine.addressClaimCannot_holds⟩

end Sys2Proof
end

