-- ==== Sys2Proof/Proofs/KeptRecords.lean ====
section
/-! PROOF. An object that the device records do not give back at a reset (R463, Table 20.3). -/

namespace Sys2Proof.Machine

/-- A running device that has taken one write of an authenticated object, so that its authentication counter 0x3103:02
stands at 1 and the rise still waits for its journal group. -/
def counterDueDev : Dev :=
  { runningDev with
    obj := storePut runningDev.obj 0x310302 (.num 1)
    jrn := { runningDev.jrn with counterDue := 1 } }

/-- The records give the counter without the rise that no group has committed. -/
theorem counterDueDev_kept : storeGet counterDueDev.keptNow 0x310302 = .num 0 := by decide

/-- The object itself holds the risen counter. -/
theorem counterDueDev_obj : storeGet counterDueDev.obj 0x310302 = .num 1 := by decide

end Sys2Proof.Machine

namespace Sys2Proof
open Machine

/-- Refutes O7: while a rise of the authentication counter 0x3103:02 waits for its journal group, the records give the
counter without that rise. -/
theorem not_keptObjectsSurviveReset : ¬ Obligations.KeptObjectsSurviveReset := by
  rintro ⟨hrunning, -⟩
  have hkept := hrunning counterDueDev 0x310302 rfl (by decide) (by decide)
  rw [counterDueDev_kept, counterDueDev_obj] at hkept
  exact absurd hkept (by decide)

end Sys2Proof
end

