-- ==== Sys2Proof/Proofs/TargetMessages.lean ====
section
/-! PROOF. A target message decodes to its records (R156, Tables 6.1 and 6.2). -/

namespace Sys2Proof.Machine

/-! ### Fields -/

theorem leInt_len (k : Nat) (v : Int) : (leInt k v).length = k := leBytes_len k _

/-- A signed field holds its integer in two's complement. -/
theorem leSigned_leInt {k : Nat} {v : Int} (hlow : -(256 ^ k : Int) ≤ 2 * v) (hhigh : 2 * v < 256 ^ k) : leSigned (leInt k v) = v := by
  have hpos : (0 : Int) < 256 ^ k := by positivity
  have hnonneg : 0 ≤ v % 256 ^ k := Int.emod_nonneg _ hpos.ne'
  have hbelow : (v % 256 ^ k).toNat < 256 ^ k := by
    have hmod : v % 256 ^ k < 256 ^ k := Int.emod_lt_of_pos _ hpos
    exact_mod_cast (Int.toNat_of_nonneg hnonneg).trans_lt hmod
  rw [leSigned, leInt_len, leInt, leNat_leBytes _ _ hbelow, Int.toNat_of_nonneg hnonneg]
  rcases lt_or_ge v 0 with hneg | hnat
  · have hwrap : v % 256 ^ k = v + 256 ^ k := by
      rw [← Int.add_emod_right, Int.emod_eq_of_lt (by omega) (by omega)]
    rw [hwrap, if_neg (by omega)]
    omega
  · rw [Int.emod_eq_of_lt hnat (by omega), if_pos hhigh]

/-! ### Records -/

theorem targetEncode_length (r : TargetRec) : (targetEncode r).length = 44 := by
  simp only [targetEncode, List.length_append, leBytes_len, leInt_len]

/-- Table 6.1: the record at the head of some bytes. -/
theorem targetDecode_targetEncode {r : TargetRec} (hfits : TargetFits r) (rest : List Byte) :
    targetDecode (targetEncode r ++ rest) = r := by
  obtain ⟨hseq, hform, hcls, hdose, hcaptureLow, hcapture, hposALow, hposA, hposBLow, hposB, hlength, hwidth, horientationLow,
    horientation, hsegment, hcamXLow, hcamX, hcamYLow, hcamY, hcamYawLow, hcamYaw⟩ := hfits
  unfold targetDecode
  simp only [targetEncode, List.append_assoc, List.drop_append, List.take_append, leBytes_len, leInt_len,
    List.drop_eq_nil_of_le, List.take_of_length_le, List.drop_zero, List.nil_append, Nat.reduceSub, Nat.reduceLeDiff,
    List.take_zero, List.append_nil, le_refl]
  rw [leNat_leBytes 4 _ hseq, leNat_leBytes 1 _ hform, leNat_leBytes 1 _ hcls, leNat_leBytes 2 _ hdose,
    leSigned_leInt (by omega) (by omega), leSigned_leInt (by omega) (by omega), leSigned_leInt (by omega) (by omega),
    leNat_leBytes 2 _ hlength, leNat_leBytes 2 _ hwidth, leSigned_leInt (by omega) (by omega), leNat_leBytes 1 _ hsegment,
    leSigned_leInt (by omega) (by omega), leSigned_leInt (by omega) (by omega), leSigned_leInt (by omega) (by omega)]

/-- R156: the records of a body, in their order. -/
theorem targetsDecode_records (rest : List Byte) : ∀ l : List TargetRec, (∀ r ∈ l, TargetFits r) →
    targetsDecode l.length (l.flatMap targetEncode ++ rest) = l
  | [], _ => rfl
  | r :: l, hfits => by
    have htail : ((r :: l).flatMap targetEncode ++ rest).drop 44 = l.flatMap targetEncode ++ rest := by
      rw [List.flatMap_cons, List.append_assoc, List.drop_left' (targetEncode_length r)]
    rw [List.length_cons, targetsDecode, htail, targetsDecode_records rest l fun x hx => hfits x (List.mem_cons_of_mem r hx),
      List.flatMap_cons, List.append_assoc, targetDecode_targetEncode (hfits r List.mem_cons_self)]

/-! ### Messages -/

/-- Table 6.2: the message in front of its check: the count, the source, two reserved bytes and the records. -/
def targetBody (source : Nat) (l : List TargetRec) : List Byte :=
  leBytes 1 l.length ++ leBytes 1 source ++ leBytes 2 0 ++ l.flatMap targetEncode

theorem targetMessageEncode_eq (source : Nat) (l : List TargetRec) :
    targetMessageEncode source l = targetBody source l ++ leBytes 4 (crc32 (targetBody source l)) := rfl

theorem targetBody_length (source : Nat) (l : List TargetRec) : (targetBody source l).length = 4 + 44 * l.length := by
  simp only [targetBody, List.length_append, leBytes_len, List.length_flatMap, targetEncode_length, List.map_const',
    List.sum_replicate, smul_eq_mul]
  omega

theorem targetMessageEncode_length (source : Nat) (l : List TargetRec) : (targetMessageEncode source l).length = 8 + 44 * l.length := by
  rw [targetMessageEncode_eq, List.length_append, targetBody_length, leBytes_len]
  omega

/-- The first byte of a message is its count. -/
theorem targetMessageEncode_count {l : List TargetRec} (hmany : l.length ≤ 255) (source : Nat) :
    leNat ((targetMessageEncode source l).take 1) = l.length := by
  rw [targetMessageEncode_eq, targetBody]
  simp only [List.append_assoc]
  rw [List.take_left' (leBytes_len 1 _), leNat_leBytes 1 _ (by omega)]

/-- The records stand behind the first four bytes of a message. -/
theorem targetMessageEncode_records (source : Nat) (l : List TargetRec) : (targetMessageEncode source l).drop 4 =
    l.flatMap targetEncode ++ leBytes 4 (crc32 (targetBody source l)) := by
  rw [targetMessageEncode_eq, targetBody, List.append_assoc, List.drop_left' (by simp only [List.length_append, leBytes_len])]

/-- R156: a shift of the check keeps its 32 bits. -/
theorem crc32Bit_lt {c : Nat} (h : c < 2 ^ 32) : crc32Bit c < 2 ^ 32 := by
  unfold crc32Bit
  split
  · exact Nat.xor_lt_two_pow (by omega) (by norm_num)
  · omega

theorem iter_crc32Bit_lt : ∀ (k : Nat) {c : Nat}, c < 2 ^ 32 → iter crc32Bit k c < 2 ^ 32
  | 0, _, h => h
  | k + 1, _, h => iter_crc32Bit_lt k (crc32Bit_lt h)

/-- A CRC-32 fits in four bytes. -/
theorem crc32_lt (b : List Byte) : crc32 b < 2 ^ 32 := by
  have hfold : ∀ (b : List Byte) (c : Nat), c < 2 ^ 32 →
      b.foldl (fun c b => iter crc32Bit 8 (c ^^^ b.toNat)) c < 2 ^ 32 := by
    intro b
    induction b with
    | nil => exact fun _ h => h
    | cons x b ih =>
      exact fun c h => ih _ (iter_crc32Bit_lt 8 (Nat.xor_lt_two_pow h (x.isLt.trans (by norm_num))))
  exact Nat.xor_lt_two_pow (hfold b _ (by norm_num)) (by norm_num)

/-- Table 6.2: the check of a message is that of its body. -/
theorem targetMessageEncode_check (source : Nat) (l : List TargetRec) :
    leNat ((targetMessageEncode source l).drop (4 + 44 * l.length)) =
      crc32 ((targetMessageEncode source l).take (4 + 44 * l.length)) := by
  rw [targetMessageEncode_eq, List.drop_left' (targetBody_length source l), List.take_left' (targetBody_length source l),
    leNat_leBytes 4 _ (crc32_lt _)]

end Sys2Proof.Machine

namespace Sys2Proof
open Machine

/-- Settles O6: by the decoding of one record, then of a body, and the check of the message. -/
theorem targetMessageRoundTrip : Obligations.TargetMessageRoundTrip := by
  intro source l _ hsome hmany hfits
  refine ⟨targetMessageEncode_length source l, ?_⟩
  unfold targetMessageDecode
  extract_lets k
  have hcount : k = l.length := targetMessageEncode_count hmany source
  rw [hcount, targetMessageEncode_length, targetMessageEncode_check, targetMessageEncode_records,
    targetsDecode_records _ l hfits]
  exact if_pos (by simp [hsome])

end Sys2Proof
end

