-- ==== Sys2Proof/Proofs/LoadSwitches.lean ====
section
/-! PROOF. Load switches: commands, pulses, trips and back-off (R221, R222, R224 to R226). -/

namespace Sys2Proof.Machine

/-! ### Switches -/

@[simp] theorem Dev.switch_same (d : Dev) (n : Fin 8) (f : Switch → Switch) :
    (d.switch n f).lsw.switches[(n : Nat)] = f d.lsw.switches[(n : Nat)] :=
  updateAt_same _ _ _

@[simp] theorem Dev.switch_other (d : Dev) {n k : Fin 8} (f : Switch → Switch) (h : k ≠ n) :
    (d.switch n f).lsw.switches[(k : Nat)] = d.lsw.switches[(k : Nat)] :=
  updateAt_other _ _ h

@[simp] theorem Dev.switch_out (d : Dev) (n : Fin 8) (f : Switch → Switch) : (d.switch n f).out = d.out := rfl

/-- R226: nothing keeps a switch from conducting. -/
theorem Switch.ready_of {c : Switch} (hlatched : c.latched = false) (hback : c.backOff = none) (hhot : c.hot = false) :
    c.ready = true := by
  rw [Switch.ready, hlatched, hback, hhot]
  rfl

/-- R221, R226: a switched switch that nothing keeps off turns on. -/
theorem Dev.switchStart_switched {d : Dev} {n : Fin 8} (hmode : d.switchMode n = 1) (hready : d.lsw.switches[(n : Nat)].ready = true) :
    (d.switchStart n).lsw.switches[(n : Nat)] = { d.lsw.switches[(n : Nat)] with on := true, onSince := d.time.now } := by
  rw [Dev.switchStart, Dev.switch_same]
  simp only [hready, hmode, Bool.not_true, Bool.false_eq_true, if_false, show ¬ (1 : Nat) = 2 by decide]

theorem Dev.switchStart_effect (d : Dev) (n : Fin 8) : Only [.lsw] d (d.switchStart n) := Dev.switch_effect _ _ _

@[simp] theorem Dev.switchStart_other (d : Dev) {n k : Fin 8} (h : k ≠ n) :
    (d.switchStart n).lsw.switches[(k : Nat)] = d.lsw.switches[(k : Nat)] :=
  updateAt_other _ _ h

/-- A switch that may conduct belongs to an armed power die that acts. -/
theorem Dev.switchInUse_acts {d : Dev} {n : Fin 8} (h : d.switchInUse n = true) : d.switchesAct = true ∧ d.pd.armed = true := by
  simp only [Dev.switchInUse, Bool.and_eq_true] at h
  exact h.1.1

/-! ### Commands -/

theorem switchCommandEff_on {d : Dev} {n : Fin 8} (huse : d.switchInUse n = true) (hlost : d.pd.clockLost = false)
    (hlatched : d.lsw.switches[n].latched = false) (hcmd : d.lsw.switches[n].cmd = false) :
    switchCommandEff d n true = (d.switch n fun c => { c with cmd := true }).switchStart n := by
  obtain ⟨hact, harmed⟩ := Dev.switchInUse_acts huse
  rw [switchCommandEff]
  simp only [hact, harmed, hlost, huse, hlatched, hcmd, Bool.not_true, Bool.or_self, Bool.false_eq_true, if_false, Bool.false_and]

theorem loadSwitchCommand_holds : Rules.loadSwitchCommand.Holds := by
  refine Rule.holds_act _ (fun a _ => a.2) (fun a _ d => if d.frameDue (· = .loadSwitch a.1 true) then
    switchCommandEff (d.takeFrames (· = .loadSwitch a.1 true)) a.1 true
    else d.onFrame (· = .loadSwitch a.1 false) (switchCommandEff · a.1 false)) (by rintro t c s rfl -; rfl) ?_
  rintro ⟨n, t⟩ s hp
  dsimp only at hp
  obtain ⟨hdue, huse, hlost, hmode, hlatched, hback, hhot, hcmd⟩ := hp
  obtain ⟨cs, hcs⟩ : ∃ cs, (s.cleared t).takeFrames (· = .loadSwitch n true) = s.framed t cs := ⟨_, rfl⟩
  rw [if_pos (show (s.cleared t).frameDue (· = .loadSwitch n true) = true from hdue), hcs,
    switchCommandEff_on (d := s.framed t cs) huse hlost hlatched hcmd]
  refine Only.rule ((((s.framed_effect t cs).mono (by decide)).only (Dev.switch_effect _ _ _) (by decide)).only
    (Dev.switchStart_effect _ _) (by decide)) ⟨rfl, fun k hk => ?_, ?_⟩
  · exact (Dev.switchStart_other _ hk).trans (Dev.switch_other _ _ hk)
  · refine (Dev.switchStart_switched (d := (s.framed t cs).switch n _) hmode ?_).trans ?_
    · rw [Dev.switch_same]
      exact Switch.ready_of hlatched hback hhot
    · rw [Dev.switch_same]
      rfl

theorem switchCommandEff_off {d : Dev} {n : Fin 8} (huse : d.switchInUse n = true) (hlost : d.pd.clockLost = false) :
    switchCommandEff d n false =
      d.switch n fun c => { (c.off d.time.now) with cmd := false, attempt := false, rearmed := c.latched } := by
  obtain ⟨hact, harmed⟩ := Dev.switchInUse_acts huse
  rw [switchCommandEff]
  simp only [hact, harmed, hlost, Bool.not_true, Bool.or_self, Bool.false_eq_true, if_false, Bool.not_false, Bool.true_or, if_true,
    Bool.and_true]

theorem loadSwitchCommandOff_holds : Rules.loadSwitchCommandOff.Holds := by
  refine Rule.holds_act _ (fun a _ => a.2) (fun a _ d => if d.frameDue (· = .loadSwitch a.1 true) then
    switchCommandEff (d.takeFrames (· = .loadSwitch a.1 true)) a.1 true
    else d.onFrame (· = .loadSwitch a.1 false) (switchCommandEff · a.1 false)) (by rintro t c s rfl -; rfl) ?_
  rintro ⟨n, t⟩ s hp
  dsimp only at hp
  obtain ⟨hdue, hon, huse, hlost⟩ := hp
  have hundue : ¬ (s.cleared t).frameDue (· = .loadSwitch n true) = true := Bool.eq_false_iff.mp hon
  obtain ⟨cs, hcs⟩ := Dev.onFrame_due hdue (switchCommandEff · n false)
  rw [if_neg hundue, hcs, switchCommandEff_off (d := s.framed t cs) huse hlost]
  refine Only.rule (((s.framed_effect t cs).mono (by decide)).trans ((Dev.switch_effect _ _ _).mono (by decide))) ⟨rfl, fun k hk => ?_, ?_⟩
  · exact Dev.switch_other _ _ hk
  · simp only [Rules.swch, Fin.getElem_fin, Dev.switch_same]
    exact ⟨rfl, trivial, rfl, rfl, rfl⟩

/-! ### Pulses -/

theorem pulseHeld_holds : Rules.pulseHeld.Holds := by
  refine Rule.holds_act _ (fun a _ => a.2) (fun a _ d => pulseEndEff d a.1) (by rintro t c s rfl -; rfl) ?_
  rintro ⟨n, t⟩ s hlost
  have hsame : pulseEndEff (s.cleared t) n = s.cleared t := by
    unfold pulseEndEff
    split
    · rfl
    · rw [show (s.cleared t).pd.clockLost = true from hlost]
      rfl
  rw [hsame]
  exact Only.rule (Effect.refl _ _ _ _) rfl

theorem pulseEnd_holds : Rules.pulseEnd.Holds := by
  refine Rule.holds_act _ (fun a _ => a.2) (fun a _ d => pulseEndEff d a.1) (by rintro t c s rfl -; rfl) ?_
  rintro ⟨n, t⟩ s hp
  dsimp only at hp
  obtain ⟨hlost, hend, hon⟩ := hp
  obtain ⟨e, he, hpast⟩ := exists_of_any hend
  have heff : pulseEndEff (s.cleared t) n = (s.cleared t).switch n fun c => c.off (s.cleared t).time.now := by
    unfold pulseEndEff
    rw [show (s.cleared t).lsw.switches[n].pulseEnd = some e from he]
    have hover : ¬ (s.cleared t).chain < e := Nat.not_lt.mpr hpast
    simp only [hover, show (s.cleared t).pd.clockLost = false from hlost, decide_false, Bool.or_self, Bool.false_eq_true, if_false]
  rw [heff]
  refine Only.rule ((Dev.switch_effect _ _ _).mono (by decide)) ⟨rfl, fun k hk => Dev.switch_other _ _ hk, ?_⟩
  refine (Dev.switch_same _ _ _).trans ?_
  have hon' : (s.cleared t).lsw.switches[(n : Nat)].on = true := hon
  rw [Switch.off, hon']
  rfl

/-! ### The end of a back-off -/

theorem loadSwitchBackOffEnd_holds : Rules.loadSwitchBackOffEnd.Holds := by
  refine Rule.holds_act _ (fun a _ => a.2) (fun a _ d => switchBackOffEff d a.1) (by rintro t c s rfl -; rfl) ?_
  rintro ⟨n, t⟩ s hp
  dsimp only at hp
  obtain ⟨huse, hmode, hcmd, hend, hlatched, hhot⟩ := hp
  obtain ⟨e, he, hpast⟩ := exists_of_any hend
  obtain ⟨hact, harmed⟩ := Dev.switchInUse_acts huse
  have heff : switchBackOffEff (s.cleared t) n = ((s.cleared t).switch n fun c => { c with backOff := none }).switchStart n := by
    unfold switchBackOffEff
    rw [show (s.cleared t).lsw.switches[n].backOff = some e from he]
    have hcmd' : ((s.cleared t).switch n fun c => { c with backOff := none }).lsw.switches[n].cmd = true := by
      rw [Fin.getElem_fin, Dev.switch_same]
      exact hcmd
    have huse' : ((s.cleared t).switch n fun c => { c with backOff := none }).switchInUse n = true := huse
    have harmed' : ((s.cleared t).switch n fun c => { c with backOff := none }).pd.armed = true := harmed
    simp only [show ¬ (s.cleared t).time.now < e from Nat.not_lt.mpr hpast, if_false, Dev.switchAttempt, harmed', huse', hcmd',
      Bool.and_self, if_true]
  rw [heff]
  refine Only.rule (((Effect.refl _ _ _ _).only (Dev.switch_effect _ _ _) (by decide)).only (Dev.switchStart_effect _ _) (by decide))
    ⟨rfl, fun k hk => ?_, ?_⟩
  · exact (Dev.switchStart_other _ hk).trans (Dev.switch_other _ _ hk)
  · refine (Dev.switchStart_switched (d := (s.cleared t).switch n _) hmode ?_).trans ?_
    · rw [Dev.switch_same]
      exact Switch.ready_of hlatched rfl hhot
    · rw [Dev.switch_same]
      rfl

/-- A fold whose steps change nothing. -/
theorem foldl_still {ι : Type} {f : Dev → ι → Dev} {d : Dev} : ∀ l : List ι, (∀ k ∈ l, f d k = d) → l.foldl f d = d
  | [], _ => rfl
  | k :: l, h => by
    rw [List.foldl_cons, h k List.mem_cons_self]
    exact foldl_still l fun x hx => h x (List.mem_cons_of_mem k hx)

/-- A fold of which one step alone acts. -/
theorem foldl_one {ι : Type} {f : Dev → ι → Dev} {d e : Dev} {g : ι} (hg : f d g = e) (hbefore : ∀ k, k ≠ g → f d k = d)
    (hafter : ∀ k, k ≠ g → f e k = e) : ∀ l : List ι, g ∈ l → l.Nodup → l.foldl f d = e
  | [], h, _ => by simp at h
  | k :: l, h, hl => by
    obtain ⟨hk, hl⟩ := List.nodup_cons.mp hl
    rw [List.foldl_cons]
    by_cases hkg : k = g
    · subst hkg
      rw [hg]
      exact foldl_still l fun x hx => hafter x fun e => hk (e ▸ hx)
    · rw [hbefore k hkg]
      exact foldl_one hg hbefore hafter l ((List.mem_cons.mp h).resolve_left (Ne.symm hkg)) hl

/-- R224: a pulsed switch at the start of a period of its generator. -/
def Dev.pulseOf (d : Dev) (g : Fin 8) (c : Switch) : Switch :=
  let on := d.pulsePeriod g * d.lsw.switches[g].duty / 10000
  let c := { c with attempt := false, duty := d.lsw.switches[g].duty, onSince := if c.attempt then d.time.now else c.onSince }
  if on < 50000 then c.off d.time.now
  else if d.pulsePeriod g - on < 50000 then { c with on := true, pulseEnd := none }
  else { c with on := true, pulseEnd := some (d.chain + on) }

/-- R224: where each switch has the generator of its own number, a period start is that of one switch. -/
theorem pulsePeriodEff_own {d : Dev} {g : Fin 8} (hlost : d.pd.clockLost = false) (hstarts : d.pulseStarts g d.chain = true)
    (huse : d.switchInUse g = true) (hmode : d.switchMode g = 2) (hown : ∀ n : Fin 8, d.nat (switchAdr n 2) = n)
    (hcmd : d.lsw.switches[g].cmd = true) (hready : d.lsw.switches[g].ready = true) (hearly : d.chain < d.te) :
    pulsePeriodEff d g = d.switch g (d.pulseOf g) := by
  rw [pulsePeriodEff, if_neg (by simp [hlost, hstarts])]
  refine foldl_one (g := g) ?_ (fun k hk => ?_) (fun k hk => ?_) _ (List.mem_finRange g) (List.nodup_finRange 8)
  · simp only [huse, hmode, hown, hcmd, hready, Bool.not_true, ne_eq, not_true_eq_false, decide_false, Bool.or_self, Bool.false_eq_true,
      if_false, show ¬ d.te ≤ d.chain by omega]
    rfl
  · exact if_pos (by simp [hown, Fin.val_ne_of_ne hk])
  · have hsame : (d.switch g (d.pulseOf g)).nat (switchAdr k 2) = k := hown k
    exact if_pos (by simp [hsame, Fin.val_ne_of_ne hk])

theorem pulsePeriodStart_holds : Rules.pulsePeriodStart.Holds := by
  refine Rule.holds_act _ (fun a _ => a.2) (fun a _ d => pulsePeriodEff d a.1) (by rintro t c s rfl -; rfl) ?_
  rintro ⟨g, t⟩ s hp
  dsimp only at hp
  obtain ⟨hlost, hstarts, huse, hmode, hown, hcmd, hlatched, hback, hhot, hearly, hlong, hrest⟩ := hp
  have heff := pulsePeriodEff_own (d := s.cleared t) hlost hstarts huse hmode hown hcmd (Switch.ready_of hlatched hback hhot) hearly
  have hon : ¬ (s.cleared t).pulsePeriod g * (s.cleared t).lsw.switches[g].duty / 10000 < 50000 := Nat.not_lt.mpr hlong
  have hoff : ¬ (s.cleared t).pulsePeriod g - (s.cleared t).pulsePeriod g * (s.cleared t).lsw.switches[g].duty / 10000 < 50000 :=
    Nat.not_lt.mpr (Nat.le_sub_of_add_le ((Nat.add_comm _ _).trans_le hrest))
  rw [heff]
  refine Only.rule ((Dev.switch_effect _ _ _).mono (by decide)) ⟨rfl, fun k hk => Dev.switch_other _ _ hk, ?_⟩
  simp only [Rules.swch, Fin.getElem_fin, Dev.switch_same]
  rw [Dev.pulseOf, if_neg hon, if_neg hoff]
  exact ⟨rfl, rfl⟩

theorem pulseTooShort_holds : Rules.pulseTooShort.Holds := by
  refine Rule.holds_act _ (fun a _ => a.2) (fun a _ d => pulsePeriodEff d a.1) (by rintro t c s rfl -; rfl) ?_
  rintro ⟨g, t⟩ s hp
  dsimp only at hp
  obtain ⟨hlost, hstarts, huse, hmode, hown, hcmd, hlatched, hback, hhot, hearly, hshort⟩ := hp
  have heff := pulsePeriodEff_own (d := s.cleared t) hlost hstarts huse hmode hown hcmd (Switch.ready_of hlatched hback hhot) hearly
  have hon : (s.cleared t).pulsePeriod g * (s.cleared t).lsw.switches[g].duty / 10000 < 50000 := hshort
  rw [heff]
  refine Only.rule ((Dev.switch_effect _ _ _).mono (by decide)) ⟨rfl, fun k hk => Dev.switch_other _ _ hk, ?_⟩
  simp only [Rules.swch, Fin.getElem_fin, Dev.switch_same]
  rw [Dev.pulseOf, if_pos hon]
  exact ⟨rfl, rfl⟩

/-! ### Trips -/

/-- R225: what a trip does to the switch before it is told. -/
def Dev.switchTripped (d : Dev) (n : Fin 8) (thermal : Bool) : Dev :=
  (d.bump (switchAdr n 0x0D)).switch n fun c => { (c.off d.time.now) with
    trips := d.lsw.switches[n].trips + 1, backOff := some (d.time.now + backOffTime (d.lsw.switches[n].trips + 1)), hot := thermal
    latched := d.lsw.switches[n].trips + 1 ≥ 4, rearmed := false, thermal := thermal, overload := c.overload || !thermal
    attempt := false }

theorem Dev.switchTripped_effect (d : Dev) (n : Fin 8) (thermal : Bool) :
    Effect [.lsw] (among [switchAdr n 0x0D]) (fun _ => False) d (d.switchTripped n thermal) :=
  ((Effect.refl _ _ _ d).bump (by simp [among])).only (Dev.switch_effect _ _ _) (fun _ h => h)

theorem eventObjs_switchAdr (n : Fin 8) {i : Nat} (hi : i < 256) : eventObjs (switchAdr n i) = false := by
  simp only [switchAdr, adr]
  simp [eventObjs, among]
  omega

theorem busObjs_switchAdr (n : Fin 8) {i : Nat} (hi : i < 256) : busObjs (switchAdr n i) = false := by
  simp only [switchAdr, adr]
  simp [busObjs, among]
  omega

theorem switchTripEff_told {d : Dev} (hrun : d.power.run = .running) {n : Fin 8} (hon : d.lsw.switches[n].on = true)
    (hfew : d.lsw.switches[n].trips < 3) (thermal : Bool) :
    switchTripEff d n thermal = ((d.switchTripped n thermal).fault 10 false n).raise 0x0901 0 n
      [(2, Config.eventCause 0x0901 (if thermal then 1 else 0))] := by
  have hlow : ¬ d.lsw.switches[n].trips + 1 ≥ 4 := by omega
  have htold : ∀ f : Dev → Dev, (d.switchTripped n thermal).told f = f (d.switchTripped n thermal) := fun f => if_pos hrun
  rw [switchTripEff]
  simp only [hon, Bool.not_true, Bool.false_eq_true, if_false, if_neg hlow]
  refine (htold _).trans ?_
  simp only [hlow, decide_false]

/-- Table 9.3: the back-off before the next attempt, by the trips before this one. -/
theorem tripWait_eq (now : Nat) : ∀ n < 3,
    now + backOffTime (n + 1) = now + (match n with | 0 => 10000000 | 1 => 100000000 | _ => 1000000000)
  | 0, _ | 1, _ | 2, _ => rfl

theorem loadSwitchTrip_holds : Rules.loadSwitchTrip.Holds := by
  refine Rule.holds_unrouted _ (fun a _ => a.2.2) (fun a _ d => switchTripEff d a.1 a.2.1) (by rintro t c s rfl -; rfl)
    (by simp +contextual [busObjs, eventObjs, among]) ?_
  rintro ⟨n, thermal, t⟩ s hp
  dsimp only at hp
  obtain ⟨hrun, hon, hfew⟩ := hp
  rw [switchTripEff_told (d := s.cleared t) hrun hon hfew]
  refine Effect.unrouted_rule (sent := isEmcy) (Effect.raise (Effect.only (((Dev.switchTripped_effect _ _ _).mono (by decide)
    (by simp +contextual) fun _ h => h.elim)) (Dev.fault_effect _ _ _ _) (by decide)) (by decide) (by simp +contextual) (fun _ h => h)
    _ _ _ _) (fun _ h => Dev.route_none_of_isEmcy _ h) ?_
  intro o ho
  have hlow : ¬ s.dev.lsw.switches[(n : Nat)].trips + 1 ≥ 4 := Nat.not_le.mpr (Nat.succ_lt_succ hfew)
  refine ⟨fun k hk => ?_, ?_⟩
  · simp [Dev.switchTripped, Dev.bump, Dev.put, Dev.putVal, hk]
  simp only [Rules.swch, Fin.getElem_fin, Dev.raise_lsw, Dev.fault_lsw, Dev.switchTripped, Dev.switch_same]
  refine ⟨rfl, rfl, decide_eq_false hlow, trivial, ?_, ?_⟩
  · exact congrArg some (tripWait_eq _ _ hfew)
  · have hcount : ((s.cleared t).switchTripped n thermal).int (switchAdr n 0x0D) = (s.dev.int (switchAdr n 0x0D) + 1) % 2 ^ 32 :=
      Dev.int_put_same _ _ _
    have hraise := (Dev.raise_effect (((s.cleared t).switchTripped n thermal).fault 10 false n) 0x0901 0 n
      [(2, Config.eventCause 0x0901 (if thermal then 1 else 0))]).int (eventObjs_switchAdr n (by decide : 0x0D < 256))
    exact ((ho.int (busObjs_switchAdr n (by decide))).trans hraise).trans hcount

theorem switchTripEff_latches {d : Dev} (hrun : d.power.run = .running) {n : Fin 8} (hon : d.lsw.switches[n].on = true)
    (hthree : d.lsw.switches[n].trips = 3) (thermal : Bool) :
    switchTripEff d n thermal = ((((d.switchTripped n thermal).switch n fun c => { c with backOff := none }).fault 10 true n).raise
      0x0901 0 n [(2, Config.eventCause 0x0901 (if thermal then 1 else 0))]).raise 0x0902 1 n
      [(2, Config.eventCause 0x0902 (if thermal then 1 else 0))] := by
  have hfour : d.lsw.switches[n].trips + 1 ≥ 4 := by omega
  have htold : ∀ f : Dev → Dev, ((d.switchTripped n thermal).switch n fun c => { c with backOff := none }).told f =
      f ((d.switchTripped n thermal).switch n fun c => { c with backOff := none }) := fun f => if_pos hrun
  rw [switchTripEff]
  simp only [hon, Bool.not_true, Bool.false_eq_true, if_false, if_pos hfour]
  refine (htold _).trans ?_
  simp only [hfour, decide_true]

theorem loadSwitchLatches_holds : Rules.loadSwitchLatches.Holds := by
  refine Rule.holds_unrouted _ (fun a _ => a.2.2) (fun a _ d => switchTripEff d a.1 a.2.1) (by rintro t c s rfl -; rfl)
    (by simp +contextual [busObjs, eventObjs, among]) ?_
  rintro ⟨n, thermal, t⟩ s hp
  dsimp only at hp
  obtain ⟨hrun, hon, hthree⟩ := hp
  rw [switchTripEff_latches (d := s.cleared t) hrun hon hthree]
  refine Effect.unrouted_rule (sent := isEmcy) (Effect.raise (Effect.raise (Effect.only (Effect.only
    ((Dev.switchTripped_effect _ _ _).mono (by decide) (by simp +contextual) fun _ h => h.elim) (Dev.switch_effect _ _ _) (by decide))
    (Dev.fault_effect _ _ _ _) (by decide)) (by decide) (by simp +contextual) (fun _ h => h) _ _ _ _) (by decide)
    (by simp +contextual) (fun _ h => h) _ _ _ _) (fun _ h => Dev.route_none_of_isEmcy _ h) ?_
  intro o ho
  have hfour : s.dev.lsw.switches[(n : Nat)].trips + 1 = 4 := congrArg (· + 1) hthree
  refine ⟨fun k hk => ?_, ?_⟩
  · simp [Dev.switchTripped, Dev.bump, Dev.put, Dev.putVal, hk]
  simp only [Rules.swch, Fin.getElem_fin, Dev.raise_lsw, Dev.fault_lsw, Dev.switchTripped, Dev.switch_same]
  exact ⟨rfl, decide_eq_true hfour.ge, hfour⟩

/-! ### The commanded mask -/

theorem switchAdr_injective {i : Nat} {n k : Fin 8} (h : switchAdr n i = switchAdr k i) : n = k := by
  simp only [switchAdr, adr] at h
  omega

/-- R221: the commanded states of the switches follow the mask. -/
def Dev.maskFollowed (d : Dev) (v : Nat) (l : List (Fin 8)) : Dev :=
  l.foldl (fun d n => d.put (switchAdr n 8) (if v.testBit n then 1 else 0)) d

theorem Dev.maskFollowed_effect {objs : Nat → Bool} (hobjs : ∀ n : Fin 8, objs (switchAdr n 8) = true) (v : Nat) (l : List (Fin 8))
    (d : Dev) : Effect [] objs (fun _ => False) d (d.maskFollowed v l) :=
  Effect.foldl (fun _ n => (Effect.refl _ _ _ _).put (hobjs n) _) l d

/-- R221: the commanded state of a switch is its bit. -/
theorem Dev.maskFollowed_int (v : Nat) (n : Fin 8) : ∀ (l : List (Fin 8)) (d : Dev),
    (d.maskFollowed v l).int (switchAdr n 8) =
      if n ∈ l then (if v.testBit n then 1 else 0) else d.int (switchAdr n 8)
  | [], _ => rfl
  | k :: l, d => by
    refine (Dev.maskFollowed_int v n l (d.put (switchAdr k 8) (if v.testBit k then 1 else 0))).trans ?_
    by_cases hk : n = k
    · subst hk
      simp [Dev.int_put_same]
    · rw [Dev.int_put_other _ _ _ _ fun h => hk (switchAdr_injective h)]
      simp [hk]

theorem objRow_commandedMask : ∃ r, objRow 0x260004 = some r ∧ r.kind = .rw ∧ r.chain = false ∧ authenticated r 0x260004 = false ∧
    entryKind r 0x260004 = 2 :=
  ⟨_, rfl, rfl, rfl, rfl, rfl⟩

theorem loadSwitchCommandWrite_holds : Rules.loadSwitchCommandWrite.Holds := by
  refine Rule.holds_logicNow _ (fun a _ d => if switchCommandAdr 0x260004 then
    d.writeObject .host 0x260004 (.num a.val) false none (switchWriteAct 0x260004 a.val) else d)
    (by rintro t c s rfl -; rfl) (fun _ _ h => h.1) ?_
  rintro v s hmay
  obtain ⟨r, hr, hkind, hchain, hauth, hentry⟩ := objRow_commandedMask
  rw [if_pos (by decide), Dev.writeObject_host_setting hmay hr hauth hkind hchain (hostPayload_write (by decide) _) hentry]
  have hact : ∀ d : Dev, switchWriteAct 0x260004 v.val d = d.maskFollowed v.val (List.finRange 8) := fun d => if_pos rfl
  rw [hact]
  have hmasks : ∀ n : Fin 8, Rules.loadSwitchCommandWrite.objs v (switchAdr n 8) = true := fun n =>
    Bool.or_eq_true_iff.mpr (.inr (List.any_eq_true.mpr ⟨n, List.mem_finRange n, decide_eq_true rfl⟩))
  have hfollow := Dev.maskFollowed_effect hmasks v.val (List.finRange 8)
  have hkept : ∀ (x : Dev) (y : Nat), ((List.finRange 8).any fun n => decide (y = switchAdr n 8)) = false →
      (x.maskFollowed v.val (List.finRange 8)).int y = x.int y := fun x y hy =>
    (Dev.maskFollowed_effect (objs := fun y => (List.finRange 8).any fun n => y = switchAdr n 8)
      (fun n => List.any_eq_true.mpr ⟨n, List.mem_finRange n, decide_eq_true rfl⟩) _ _ x).int hy
  refine Effect.host_rule (t := s.dev.time.now) (k := 2) (p := .write 0x260004 (.num v.val)) ?_ (by decide) (by rfl) ⟨?_, fun n => ?_, ?_⟩
  · exact ((Effect.refl _ _ _ _).putVal (by rfl) _).trans ((hfollow _).mono (by simp) (fun _ h => h) fun _ h => h.elim)
  · rw [Dev.hostAnswers_int _ _ _ (by decide), hkept _ _ (by decide)]
    exact Dev.int_put_same _ _ _
  · have hbit := Dev.maskFollowed_int v.val n (List.finRange 8) (((s.cleared s.dev.time.now).hostTakes 2
      (.write 0x260004 (.num v.val))).putVal 0x260004 (.num v.val))
    rw [if_pos (List.mem_finRange n)] at hbit
    rw [Dev.flag, Dev.hostAnswers_int _ _ _ (by simp only [switchAdr, adr]; omega), hbit]
    cases v.val.testBit n <;> rfl
  · exact hostTook_of_hostAnswers (by decide) (congrArg Journal.openHalf ((hfollow _).frame .jrn (by decide)).symm)
      (congrArg Journal.waiting ((hfollow _).frame .jrn (by decide)).symm)

end Sys2Proof.Machine

namespace Sys2Proof

/-- Settles O31, by a lemma for each rule. -/
theorem loadSwitchesSwitch : Obligations.LoadSwitchesSwitch :=
  ⟨Machine.loadSwitchCommandWrite_holds, Machine.loadSwitchCommand_holds, Machine.loadSwitchCommandOff_holds,
    Machine.pulsePeriodStart_holds, Machine.pulseTooShort_holds, Machine.pulseEnd_holds, Machine.pulseHeld_holds,
    Machine.loadSwitchTrip_holds, Machine.loadSwitchLatches_holds, Machine.loadSwitchBackOffEnd_holds⟩

end Sys2Proof
end

