-- ==== Sys2Proof/Proofs/BanksAndBoost.lean ====
section
/-! PROOF. Bank commons, current sensing and the boost converter (R195 to R197, R207, R211 to R213). -/

namespace Sys2Proof.Machine

/-! ### Bits of an object -/

theorem testBit_add_two_pow_lt {v j k : Nat} (hset : v.testBit j = false) (h : j < k) : (v + 2 ^ j).testBit k = v.testBit k := by
  have hlow : v % 2 ^ (j + 1) < 2 ^ j := by
    refine Nat.lt_pow_two_of_testBit _ fun i hi => ?_
    rw [Nat.testBit_mod_two_pow]
    rcases eq_or_lt_of_le hi with rfl | hgt
    · rw [hset, Bool.and_false]
    · rw [decide_eq_false (by omega), Bool.false_and]
  have hdiv : (v + 2 ^ j) / 2 ^ (j + 1) = v / 2 ^ (j + 1) := by
    rw [Nat.add_div_eq_of_add_mod_lt]
    · rw [Nat.div_eq_of_lt (Nat.pow_lt_pow_right (by decide) (Nat.lt_succ_self j)), Nat.add_zero]
    · rw [Nat.mod_eq_of_lt (Nat.pow_lt_pow_right (by decide) (Nat.lt_succ_self j))]
      rw [pow_succ] at hlow ⊢
      omega
  obtain ⟨i, rfl⟩ : ∃ i, k = i + (j + 1) := ⟨k - (j + 1), by omega⟩
  rw [← Nat.testBit_div_two_pow, hdiv, Nat.testBit_div_two_pow]

theorem setBit_testBit_other (v : Nat) {j k : Nat} (h : k ≠ j) :
    (v - (if v.testBit j then 2 ^ j else 0) + 2 ^ j).testBit k = v.testBit k := by
  cases hset : v.testBit j
  · rw [if_neg (by simp), Nat.sub_zero]
    rcases lt_or_gt_of_ne h with hlt | hgt
    · rw [Nat.add_comm, Nat.testBit_two_pow_add_gt hlt]
    · exact testBit_add_two_pow_lt hset hgt
  · rw [if_pos rfl, Nat.sub_add_cancel (Nat.ge_two_pow_of_testBit hset)]

theorem Dev.bit_putBit_other (d : Dev) (a : Nat) {j k : Nat} (h : k ≠ j) : (d.putBit a j true).bit a k = d.bit a k := by
  rw [Dev.bit, Dev.nat, Dev.putBit]
  simp only [if_true, Dev.int_put_same]
  exact setBit_testBit_other _ h

/-! ### Commons -/

/-- R211: a common in limit is off for 1 s, and the limit is remembered. -/
def Dev.commonLimited (d : Dev) (b : Fin 4) (recent : List Nat) : Dev :=
  (d.bank b fun k => { k with powered := false, limits := recent, offUntil := some (d.time.now + 1000000000), limiting := true }).raise
    0x0806 1 b [(3, recent.length)]

theorem Dev.commonLimited_effect (d : Dev) (b : Fin 4) (recent : List Nat) :
    Effect [.valve, .rcd, .diag, .can] eventObjs isEmcy d (d.commonLimited b recent) :=
  Effect.raise ((Dev.bank_effect _ _ _).mono (by decide)) (by decide) (fun _ h => h) (fun _ h => h) _ _ _ _

theorem Dev.commonLimited_valve (d : Dev) (b : Fin 4) (recent : List Nat) : (d.commonLimited b recent).valve = (d.bank b fun k =>
    { k with powered := false, limits := recent, offUntil := some (d.time.now + 1000000000), limiting := true }).valve :=
  Dev.raise_valve _ _ _ _ _

theorem commonLimitEff_powered {d : Dev} {b : Fin 4} (hpowered : d.valve.banks[b].powered = true) {recent : List Nat}
    (hrecent : (d.valve.banks[b].limits.filter fun x => decide (d.time.now < x + 60000000000)) ++ [d.time.now] = recent) :
    commonLimitEff d b = if recent.length ≥ 3 then (bankChannels b).foldl Dev.retireChannel
      (((d.commonLimited b recent).bank b fun k => { k with boostPeak := none, waits := [] }).fault 8 true b)
      else (d.commonLimited b recent).fault 8 false b := by
  subst hrecent
  rw [commonLimitEff]
  simp only [hpowered, Bool.not_true, Bool.false_eq_true, if_false]
  rfl

theorem commonCurrentLimit_holds : Rules.commonCurrentLimit.Holds := by
  refine Rule.holds_unrouted _ (fun a _ => a.2) (fun a _ d => commonLimitEff d a.1) (by rintro t c s rfl -; rfl)
    (by simp +contextual [busObjs, eventObjs, among]) ?_
  rintro ⟨b, t⟩ s hp
  dsimp only at hp
  obtain ⟨hpowered, hlimits⟩ := hp
  have hrecent : ((s.cleared t).valve.banks[b].limits.filter fun x => decide ((s.cleared t).time.now < x + 60000000000)) ++
      [(s.cleared t).time.now] = [s.nowAt t] := by
    rw [show (s.cleared t).valve.banks[b].limits = [] from hlimits]
    rfl
  rw [commonLimitEff_powered (d := s.cleared t) hpowered hrecent, if_neg (by simp)]
  refine Effect.unrouted_rule (sent := isEmcy) (Effect.only ((Dev.commonLimited_effect _ _ _).mono (by decide) (fun _ h => h)
    fun _ h => h) (Dev.fault_effect _ _ _ _) (by decide)) (fun _ h => Dev.route_none_of_isEmcy _ h) ?_
  intro o _
  refine ⟨fun k hk => ?_, ?_, ?_, ?_⟩
  · simp [Dev.commonLimited_valve, hk]
  · simp [Dev.commonLimited_valve]
  · simp [Dev.commonLimited_valve]
  · simp [Dev.commonLimited_valve]

/-- R211: what retiring does to a channel. -/
def Channel.retired (c : Channel) : Channel :=
  { c with mode := .retired, freewheel := false, on := false, onEnd := none, returning := false, testDue := false }

theorem Dev.retireChannel_channels (d : Dev) (ch : Fin 32) :
    (d.retireChannel ch).valve.channels = updateAt d.valve.channels ch Channel.retired := rfl

theorem Dev.retireChannel_banks (d : Dev) (ch : Fin 32) : (d.retireChannel ch).valve.banks =
    updateAt d.valve.banks (bankOf ch) fun k => { k with waits := k.waits.filter (· ≠ ch) } := rfl

theorem bankChannels_nodup (b : Fin 4) : (bankChannels b).Nodup := (List.nodup_finRange 32).filter _

theorem mem_bankChannels {b : Fin 4} {k : Fin 32} : k ∈ bankChannels b ↔ bankOf k = b := by
  simp [bankChannels, List.mem_finRange]

theorem foldl_retireChannel_channels (l : List (Fin 32)) (hl : l.Nodup) (d : Dev) (k : Fin 32) :
    (l.foldl Dev.retireChannel d).valve.channels[(k : Nat)] =
      if k ∈ l then d.valve.channels[(k : Nat)].retired else d.valve.channels[(k : Nat)] :=
  foldl_updateAt (get := fun x => x.valve.channels) (step := Dev.retireChannel) (f := fun _ => Channel.retired) (P := fun _ => True)
    (fun x k _ => ⟨x.retireChannel_channels k, trivial⟩) k l d hl trivial

theorem foldl_retireChannel_banks {b : Fin 4} : ∀ (l : List (Fin 32)) (d : Dev), (∀ k ∈ l, bankOf k = b) → ∀ k : Fin 4, k ≠ b →
    (l.foldl Dev.retireChannel d).valve.banks[(k : Nat)] = d.valve.banks[(k : Nat)]
  | [], _, _, _, _ => rfl
  | x :: l, d, h, k, hk => by
    have hx : k ≠ bankOf x := fun e => hk (e.trans (h x List.mem_cons_self))
    exact (foldl_retireChannel_banks l _ (fun y hy => h y (List.mem_cons_of_mem x hy)) k hk).trans (updateAt_other _ _ hx)

theorem foldl_retireChannel_powered {b : Fin 4} : ∀ (l : List (Fin 32)) (d : Dev),
    (l.foldl Dev.retireChannel d).valve.banks[(b : Nat)].powered = d.valve.banks[(b : Nat)].powered
  | [], _ => rfl
  | x :: l, d => by
    refine (foldl_retireChannel_powered l _).trans ?_
    by_cases hb : b = bankOf x
    · subst hb
      rw [Dev.retireChannel_banks, updateAt_same]
    · rw [Dev.retireChannel_banks, updateAt_other _ _ hb]

/-- R211: the retired channel map has a bit for each channel that is retired. -/
theorem foldl_retireChannel_bit {k : Fin 32} : ∀ (l : List (Fin 32)) (d : Dev), k ∈ l ∨ d.bit 0x250006 k = true →
    (l.foldl Dev.retireChannel d).bit 0x250006 k = true
  | [], _, h => h.resolve_left (by simp)
  | x :: l, d, h => by
    refine foldl_retireChannel_bit l _ ?_
    by_cases hx : k = x
    · subst hx
      exact .inr (Dev.bit_putBit_true _ _ _)
    · refine h.imp (fun hmem => (List.mem_cons.mp hmem).resolve_left hx) fun hbit => ?_
      exact (Dev.bit_putBit_other _ _ (Fin.val_ne_of_ne hx)).trans hbit

theorem commonLimitRetires_holds : Rules.commonLimitRetires.Holds := by
  refine Rule.holds_unrouted _ (fun a _ => a.2) (fun a _ d => commonLimitEff d a.1) (by rintro t c s rfl -; rfl)
    (by simp +contextual [busObjs, eventObjs, among]) ?_
  rintro ⟨b, t⟩ s hp
  dsimp only at hp
  obtain ⟨hpowered, htwo, hlate⟩ := hp
  have hall : (s.cleared t).valve.banks[b].limits.filter (fun x => decide ((s.cleared t).time.now < x + 60000000000)) =
      (s.cleared t).valve.banks[b].limits := List.filter_eq_self.mpr (List.all_eq_true.mp hlate)
  have heff := commonLimitEff_powered (d := s.cleared t) hpowered (recent := s.dev.valve.banks[b].limits ++ [s.nowAt t])
    (congrArg (· ++ [s.nowAt t]) hall)
  have hthree : (s.dev.valve.banks[b].limits ++ [s.nowAt t]).length ≥ 3 := by
    rw [List.length_append, show s.dev.valve.banks[b].limits.length = 2 from htwo]
    exact le_rfl
  rw [heff, if_pos hthree]
  obtain ⟨x, hx⟩ : ∃ x, x = (((s.cleared t).commonLimited b (s.dev.valve.banks[b].limits ++ [s.nowAt t])).bank b fun k =>
    { k with boostPeak := none, waits := [] }).fault 8 true b := ⟨_, rfl⟩
  have hbefore : Effect Rules.commonLimitRetires.parts (Rules.commonLimitRetires.objs (b, t)) isEmcy (s.cleared t) x := by
    rw [hx]
    exact Effect.only (Effect.only ((Dev.commonLimited_effect _ _ _).mono (by decide) (by simp +contextual) fun _ h => h)
      (Dev.bank_effect _ _ _) (by decide)) (Dev.fault_effect _ _ _ _) (by decide)
  have hchannels : x.valve.channels = s.dev.valve.channels := by
    simp [hx, Dev.commonLimited_valve]
  have hbanks : ∀ k : Fin 4, k ≠ b → x.valve.banks[(k : Nat)] = s.dev.valve.banks[(k : Nat)] := fun k hk => by
    simp [hx, Dev.commonLimited_valve, hk]
  have hoff : x.valve.banks[(b : Nat)].powered = false := by
    simp [hx, Dev.commonLimited_valve]
  rw [← hx]
  refine Effect.unrouted_rule (sent := isEmcy) (hbefore.trans (Effect.foldl (fun d k => (Dev.retireChannel_effect d k).mono (by decide)
    (by simp +contextual [among]) fun _ h => h.elim) _ x)) (fun _ h => Dev.route_none_of_isEmcy _ h) ?_
  intro o ho
  refine ⟨fun k hk => ?_, ?_, fun k hk => ⟨?_, ?_⟩, fun k hk => ?_⟩
  · exact (foldl_retireChannel_banks _ x (fun _ h => mem_bankChannels.mp h) k hk).trans (hbanks k hk)
  · exact (foldl_retireChannel_powered _ x).trans hoff
  · have hchan := foldl_retireChannel_channels _ (bankChannels_nodup b) x k
    rw [if_pos (mem_bankChannels.mpr hk)] at hchan
    exact congrArg Channel.mode hchan
  · rw [Dev.bit, ho.nat (by decide)]
    exact foldl_retireChannel_bit _ x (.inl (mem_bankChannels.mpr hk))
  · have hchan := foldl_retireChannel_channels _ (bankChannels_nodup b) x k
    rw [if_neg fun h => hk (mem_bankChannels.mp h), hchannels] at hchan
    exact hchan

theorem commonRestore_holds : Rules.commonRestore.Holds := by
  refine Rule.holds_unrouted _ (fun a _ => a.2) (fun a _ d => commonRestoreEff d a.1) (by rintro t c s rfl -; rfl)
    (by simp +contextual [busObjs, eventObjs, among]) ?_
  rintro ⟨b, t⟩ s hp
  dsimp only at hp
  obtain ⟨hoff, harmed, huse, hground⟩ := hp
  obtain ⟨u, hu, hpast⟩ := exists_of_any hoff
  obtain ⟨x, hx⟩ : ∃ x, x = (s.cleared t).bank b fun k => { k with
    powered := (s.cleared t).pd.armed && (s.cleared t).bankInUse b && !k.groundOff, poweredAt := (s.cleared t).chain, offUntil := none
    limiting := false } := ⟨_, rfl⟩
  have heff : commonRestoreEff (s.cleared t) b = x.raise 0x0806 2 b [(3, x.valve.banks[b].limits.length)] := by
    unfold commonRestoreEff
    rw [show (s.cleared t).valve.banks[b].offUntil = some u from hu]
    exact (if_neg (Nat.not_lt.mpr hpast)).trans (by rw [hx])
  have hbank : x.valve.banks[(b : Nat)] = { s.dev.valve.banks[(b : Nat)] with
      powered := true, poweredAt := s.chainAt t, offUntil := none, limiting := false } := by
    have hpower : ((s.cleared t).pd.armed && (s.cleared t).bankInUse b && !(s.cleared t).valve.banks[(b : Nat)].groundOff) = true :=
      Bool.and_eq_true_iff.mpr ⟨Bool.and_eq_true_iff.mpr ⟨harmed, huse⟩, congrArg not hground⟩
    rw [hx, Dev.bank_same, hpower]
    rfl
  have hothers : ∀ k : Fin 4, k ≠ b → x.valve.banks[(k : Nat)] = s.dev.valve.banks[(k : Nat)] := fun k hk => by
    simp [hx, hk]
  have hchannels : x.valve.channels = s.dev.valve.channels := by
    rw [hx]
    rfl
  rw [heff]
  refine Effect.unrouted_rule (sent := isEmcy) (Effect.raise ?_ (by decide) (fun _ h => h) (fun _ h => h) _ _ _ _)
    (fun _ h => Dev.route_none_of_isEmcy _ h) ?_
  · rw [hx]
    exact (Dev.bank_effect _ _ _).mono (by decide)
  intro o _
  refine ⟨fun k hk => ?_, ?_, ?_, ?_, ?_⟩
  · simp [hothers k hk]
  · simp [hchannels]
  all_goals simp [hbank]

/-! ### Current sensing -/

/-- R207: the trim that a window leaves. -/
def Dev.trimAfter (d : Dev) (b : Fin 4) (ratio : Nat) : Nat :=
  max (min (d.nat (bankAdr b 0x17)) ratio) (min (max (d.nat (bankAdr b 0x17)) ratio) (Config.senseTrim (d.nat (bankAdr b 0x17)) ratio))

/-- R207: the figures of a window and the trim, as the objects show them. -/
def Dev.sensed (d : Dev) (b : Fin 4) (f : SenseFigures) : Dev :=
  let x := ((d.put (bankAdr b 0x14) (min 65535 f.highSide : Nat)).put (bankAdr b 0x15) (min 65535 f.shunt : Nat)).put
    (bankAdr b 0x16) (min 65535 (d.mirrorCurrent b f) : Nat)
  if f.shunt ≥ 500 && d.mirrorCurrent b f > 0 then
    x.put (bankAdr b 0x17) (x.trimAfter b (min 262144 (65536 * f.shunt / d.mirrorCurrent b f)) : Nat)
  else x

/-- The objects that a window shows. -/
def senseObjs (b : Fin 4) : Nat → Bool := among [bankAdr b 0x14, bankAdr b 0x15, bankAdr b 0x16, bankAdr b 0x17]

theorem Dev.sensed_effect (d : Dev) (b : Fin 4) (f : SenseFigures) : Effect [] (senseObjs b) (fun _ => False) d (d.sensed b f) := by
  unfold Dev.sensed
  extract_lets x
  have hx : Effect [] (senseObjs b) (fun _ => False) d x :=
    (((Effect.refl _ _ _ d).put (by simp [senseObjs, among]) _).put (by simp [senseObjs, among]) _).put (by simp [senseObjs, among]) _
  split
  · exact hx.put (by simp [senseObjs, among]) _
  · exact hx

@[simp] theorem Dev.sensed_valve (d : Dev) (b : Fin 4) (f : SenseFigures) : (d.sensed b f).valve = d.valve :=
  ((d.sensed_effect b f).frame .valve (by simp)).symm

/-- R212: the pattern of a window, and how many windows in a row have shown it. -/
def Bank.window (b : Fin 4) (f : SenseFigures) (p : Nat) (k : Bank) : Bank :=
  { k with
    pattern := p, run := if k.pattern = p then k.run + 1 else 1
    differs := if (loneMirror b f).isSome then loneMirror b f else if k.pattern = p && 0 < k.run then k.differs else none }

theorem senseWindowEff_read {d : Dev} {b : Fin 4} {f : SenseFigures} (hhigh : 500 ≤ f.shunt) {p : Nat}
    (hp : sensePattern f.shunt (d.mirrorCurrent b f) (highSideCurrent f) = p) :
    senseWindowEff d b f = if ((d.sensed b f).bank b (Bank.window b f p)).valve.banks[b].run ≥ 10 then
      ((d.sensed b f).bank b (Bank.window b f p)).concludeSense b p else (d.sensed b f).bank b (Bank.window b f p) := by
  subst hp
  rw [senseWindowEff]
  simp only [if_neg (show ¬ max f.shunt (max (d.mirrorCurrent b f) (highSideCurrent f)) < 500 by omega)]
  rfl

theorem trimAfter_unit {d : Dev} {b : Fin 4} (h : d.nat (bankAdr b 0x17) = 65536) : d.trimAfter b 65536 = 65536 := by
  rw [Dev.trimAfter, h]
  omega

theorem bankAdr_ne_of_ne (b : Fin 4) {i j : Nat} (h : i ≠ j) : bankAdr b i ≠ bankAdr b j := by
  simp only [bankAdr, adr]
  omega

/-- R207: a window whose figures agree leaves the trim at 1.0, and shows its shunt current. -/
theorem Dev.sensed_unit {d : Dev} {b : Fin 4} {x : Nat} {f : SenseFigures} (hshunt : f.shunt = x) (hlow : 500 ≤ x) (hhigh : x < 65536)
    (hmirror : d.mirrorCurrent b f = x) (htrim : d.nat (bankAdr b 0x17) = 65536) :
    (d.sensed b f).int (bankAdr b 0x17) = 65536 ∧ (d.sensed b f).int (bankAdr b 0x15) = x := by
  have hratio : min 262144 (65536 * x / x) = 65536 := by
    rw [Nat.mul_div_cancel _ (by omega)]
    rfl
  have hcond : (decide (f.shunt ≥ 500) && decide (d.mirrorCurrent b f > 0)) = true := by
    rw [hshunt, hmirror]
    simp only [Bool.and_eq_true, decide_eq_true_eq]
    omega
  unfold Dev.sensed
  extract_lets y
  have hy : y.nat (bankAdr b 0x17) = 65536 := by
    rw [Dev.nat, Dev.int_put_other _ _ _ _ (bankAdr_ne_of_ne b (by decide)), Dev.int_put_other _ _ _ _ (bankAdr_ne_of_ne b (by decide)),
      Dev.int_put_other _ _ _ _ (bankAdr_ne_of_ne b (by decide))]
    exact htrim
  rw [if_pos hcond, hshunt, hmirror, hratio, trimAfter_unit hy]
  refine ⟨Dev.int_put_same _ _ _, ?_⟩
  rw [Dev.int_put_other _ _ _ _ (bankAdr_ne_of_ne b (by decide)), Dev.int_put_other _ _ _ _ (bankAdr_ne_of_ne b (by decide)),
    Dev.int_put_same, hshunt, Nat.min_eq_right (by omega)]

theorem agree15_self (x : Nat) : agree15 x x = true := by
  simp [agree15]

theorem senseWindow_holds : Rules.senseWindow.Holds := by
  refine Rule.holds_act _ (fun a _ => a.2.2) (fun a _ d => if d.pd.armed then
    senseWindowEff d a.1 ⟨a.2.1, a.2.1, 0, #v[a.2.1, 0, 0, 0, 0, 0, 0, 0]⟩ else d) (by rintro t c s rfl -; rfl) ?_
  rintro ⟨b, x, t⟩ s hp
  dsimp only at hp
  obtain ⟨harmed, hlow, hhigh, hpattern, htrim, hmirror⟩ := hp
  obtain ⟨f, hf⟩ : ∃ f : SenseFigures, f = ⟨x, x, 0, #v[x, 0, 0, 0, 0, 0, 0, 0]⟩ := ⟨_, rfl⟩
  have hshunt : f.shunt = x := by rw [hf]
  have hcurrent : (s.cleared t).mirrorCurrent b f = x := hf ▸ hmirror
  have hzero : sensePattern f.shunt ((s.cleared t).mirrorCurrent b f) (highSideCurrent f) = 0 := by
    rw [hcurrent, hshunt, show highSideCurrent f = x by rw [hf]; rfl, sensePattern, if_pos (agree15_self x), if_pos (agree15_self x)]
  have hrun : ((((s.cleared t).sensed b f).bank b (Bank.window b f 0))).valve.banks[(b : Nat)].run = 1 := by
    rw [Dev.bank_same, Dev.sensed_valve]
    exact if_neg hpattern
  rw [if_pos (show (s.cleared t).pd.armed = true from harmed), ← hf, senseWindowEff_read (hshunt.symm ▸ hlow) hzero,
    if_neg (by rw [Fin.getElem_fin, hrun]; decide)]
  obtain ⟨htrimmed, hshown⟩ := Dev.sensed_unit (d := s.cleared t) (b := b) hshunt hlow hhigh hcurrent htrim
  have heffect : Effect Rules.senseWindow.parts (Rules.senseWindow.objs (b, x, t)) (fun _ => False) (s.cleared t)
      (((s.cleared t).sensed b f).bank b (Bank.window b f 0)) :=
    Effect.only ((Dev.sensed_effect _ _ _).mono (by simp) (fun _ h => h) fun _ h => h) (Dev.bank_effect _ _ _) (by decide)
  refine Effect.rule heffect (fun _ h => h.elim) ⟨?_, fun k hk => ?_, ?_, ?_, hrun, htrimmed, hshown⟩
  · exact List.eq_nil_iff_forall_not_mem.mpr fun e he => (heffect.out e he).elim (fun hmem => by simp at hmem) id
  · simp [hk]
  · simp
  · simp [Bank.window]

/-- R212: with no channel short to ground the mirror current is the sum of the mirrors. -/
theorem Dev.mirrorCurrent_clear {d : Dev} (hclear : ∀ k : Fin 32, d.valve.channels[k].faultGround = false) (b : Fin 4) (f : SenseFigures) :
    d.mirrorCurrent b f = (List.finRange 8).foldl (fun (n : Nat) (k : Fin 8) => n + f.mirrors[k]) 0 := by
  have hstep : ∀ (n : Nat) (k : Fin 8), (if h : 8 * b.val + k.val < 32 then
      if d.valve.channels[8 * b.val + k.val].faultGround then n else n + f.mirrors[k] else n) = n + f.mirrors[k] := by
    intro n k
    have hk : 8 * b.val + k.val < 32 := by omega
    rw [dif_pos hk, if_neg (by rw [show d.valve.channels[8 * b.val + k.val].faultGround = false from hclear ⟨_, hk⟩]; simp)]
  rw [Dev.mirrorCurrent]
  congr 1
  funext n k
  exact hstep n k

/-- R213: a bank enters sense-degraded operation. -/
theorem Dev.degrade_enters {d : Dev} {b : Fin 4} (h : d.valve.banks[b].degraded = false) : d.degrade b =
    ((d.bank b fun k => { k with degraded := true, normals := 0 }).fault 9 false b).raise 0x0804 1 b [(3, 0)] :=
  if_neg (by rw [h]; exact Bool.false_ne_true)

/-- R212: ten windows of one pattern have been concluded. -/
def Bank.concluded (p : Nat) (k : Bank) : Bank :=
  { k with run := 0, normals := if p = 0 then k.normals + 1 else 0, highFault := p = 3 }

theorem Dev.concludeSense_shunt (d : Dev) (b : Fin 4) : d.concludeSense b 1 = (d.bank b (Bank.concluded 1)).degrade b := rfl

theorem Dev.concludeSense_mirror {d : Dev} {b : Fin 4} {ch : Fin 32} (h : d.valve.banks[(b : Nat)].differs = some ch) :
    d.concludeSense b 2 = (d.bank b (Bank.concluded 2)).channel ch fun c => { c with senseFault := true } := by
  have hdiffers : (d.bank b (Bank.concluded 2)).valve.banks[b].differs = some ch := by
    rw [Fin.getElem_fin, Dev.bank_same]
    exact h
  unfold Dev.concludeSense
  exact (congrArg (fun o : Option (Fin 32) => match o with
    | some ch => (d.bank b (Bank.concluded 2)).channel ch fun c => { c with senseFault := true }
    | none => d.bank b (Bank.concluded 2)) hdiffers)

/-- Figures of which the shunt's alone disagrees. -/
def shuntApart : SenseFigures := ⟨2000, 800, 200, #v[600, 400, 0, 0, 0, 0, 0, 0]⟩

/-- Figures of which those of the third mirror alone disagree, with its channel conducting alone. -/
def mirrorApart : SenseFigures := ⟨1000, 1000, 0, #v[0, 0, 500, 0, 0, 0, 0, 0]⟩

theorem mirrorApart_lone : ((List.finRange 8).filter fun k => mirrorApart.mirrors[k] ≠ 0) = [2] := by decide

theorem mirrorApart_apart : agree15 mirrorApart.mirrors[(2 : Fin 8)] mirrorApart.shunt = false := by decide

theorem senseDegraded_holds : Rules.senseDegraded.Holds := by
  refine Rule.holds_unrouted _ (fun a _ => a.2) (fun a _ d => if d.pd.armed then
    senseWindowEff d a.1 shuntApart else d) (by rintro t c s rfl -; rfl)
    (by simp +contextual [busObjs, eventObjs, among]) ?_
  rintro ⟨b, t⟩ s hp
  dsimp only at hp
  obtain ⟨harmed, hpattern, hrun, hsound, hclear⟩ := hp
  have hone : sensePattern shuntApart.shunt ((s.cleared t).mirrorCurrent b shuntApart) (highSideCurrent shuntApart) = 1 := by
    rw [Dev.mirrorCurrent_clear (d := s.cleared t) hclear]
    decide
  have hten : ((s.cleared t).sensed b shuntApart |>.bank b (Bank.window b shuntApart 1)).valve.banks[(b : Nat)].run = 10 := by
    rw [Dev.bank_same, Dev.sensed_valve]
    exact (if_pos hpattern).trans (congrArg (· + 1) hrun)
  have hsound' : ((((s.cleared t).sensed b shuntApart).bank b (Bank.window b shuntApart 1)).bank b (Bank.concluded 1)).valve.banks[b].degraded = false := by
    rw [Fin.getElem_fin, Dev.bank_same, Dev.bank_same, Dev.sensed_valve]
    exact hsound
  rw [if_pos (show (s.cleared t).pd.armed = true from harmed), senseWindowEff_read (by decide) hone,
    if_pos (by rw [Fin.getElem_fin, hten]), Dev.concludeSense_shunt, Dev.degrade_enters hsound']
  refine Effect.unrouted_rule (sent := isEmcy) (Effect.raise (Effect.only (Effect.only (Effect.only (Effect.only
    ((Dev.sensed_effect _ _ _).mono (by simp) ?_ fun _ h => h.elim) (Dev.bank_effect _ _ _) (by decide)) (Dev.bank_effect _ _ _)
    (by decide)) (Dev.bank_effect _ _ _) (by decide)) (Dev.fault_effect _ _ _ _) (by decide)) (by decide) (by simp +contextual)
    (fun _ h => h) _ _ _ _) (fun _ h => Dev.route_none_of_isEmcy _ h) ?_
  · exact fun y hy => Bool.or_eq_true_iff.mpr (.inr hy)
  intro o _
  refine ⟨fun k hk => ?_, ?_, ?_⟩
  all_goals simp [*]

theorem senseFaulted_holds : Rules.senseFaulted.Holds := by
  refine Rule.holds_act _ (fun a _ => a.2) (fun a _ d => if d.pd.armed then
    senseWindowEff d a.1 mirrorApart else d) (by rintro t c s rfl -; rfl) ?_
  rintro ⟨b, t⟩ s hp
  dsimp only at hp
  obtain ⟨harmed, hpattern, hrun, hclear⟩ := hp
  have htwo : sensePattern mirrorApart.shunt ((s.cleared t).mirrorCurrent b mirrorApart) (highSideCurrent mirrorApart) = 2 := by
    rw [Dev.mirrorCurrent_clear (d := s.cleared t) hclear]
    decide
  have hk : 8 * b.val + 2 < 32 := by omega
  have hlone : loneMirror b mirrorApart = some ⟨8 * b.val + 2, hk⟩ := by
    rw [loneMirror, mirrorApart_lone]
    simp only [dif_pos (show 8 * b.val + (2 : Fin 8).val < 32 from hk), mirrorApart_apart, Bool.false_eq_true, if_false]
    rfl
  have hten : ((s.cleared t).sensed b mirrorApart |>.bank b (Bank.window b mirrorApart 2)).valve.banks[(b : Nat)].run = 10 := by
    rw [Dev.bank_same, Dev.sensed_valve]
    exact (if_pos hpattern).trans (congrArg (· + 1) hrun)
  have hdiffers : ((s.cleared t).sensed b mirrorApart |>.bank b (Bank.window b mirrorApart 2)).valve.banks[(b : Nat)].differs = some ⟨8 * b.val + 2, hk⟩ := by
    rw [Dev.bank_same]
    simp only [Bank.window, hlone, Option.isSome_some, if_true]
  rw [if_pos (show (s.cleared t).pd.armed = true from harmed), senseWindowEff_read (by decide) htwo,
    if_pos (by rw [Fin.getElem_fin, hten]), Dev.concludeSense_mirror hdiffers]
  obtain ⟨x, hx⟩ : ∃ x, x = ((((s.cleared t).sensed b mirrorApart).bank b (Bank.window b mirrorApart 2)).bank b (Bank.concluded 2)).channel
    ⟨8 * b.val + 2, hk⟩ fun c => { c with senseFault := true } := ⟨_, rfl⟩
  have heffect : Effect Rules.senseFaulted.parts (Rules.senseFaulted.objs (b, t)) (fun _ => False) (s.cleared t) x := by
    rw [hx]
    exact Effect.only (Effect.only (Effect.only ((Dev.sensed_effect _ _ _).mono (by simp) (fun _ h => h) fun _ h => h)
      (Dev.bank_effect _ _ _) (by decide)) (Dev.bank_effect _ _ _) (by decide)) (Dev.channel_effect _ _ _) (by decide)
  rw [← hx]
  refine Effect.rule heffect (fun _ h => h.elim) ⟨?_, fun k hk => ?_, fun k => ?_⟩
  · exact List.eq_nil_iff_forall_not_mem.mpr fun e he => (heffect.out e he).elim (fun hmem => by simp at hmem) id
  · simp [hx, hk]
  · split
    case isTrue hval =>
      obtain rfl : k = ⟨8 * b.val + 2, hk⟩ := Fin.ext hval
      rw [hx]
      exact (Dev.channel_same _ _ _).trans (by simp)
    case isFalse hval =>
      rw [hx]
      exact (Dev.channel_other _ _ fun e => hval (congrArg Fin.val e)).trans (by simp)

/-! ### The boost converter -/

theorem Dev.nextWaiting_none {d : Dev} {b : Fin 4} (h : d.valve.banks[(b : Nat)].waits = []) : d.nextWaiting b = d := by
  rw [Dev.nextWaiting, show d.valve.banks[b].waits = [] from h]
  exact ite_self _

/-- R202: with no channel waiting, the end of every boost peak starts nothing. -/
theorem foldl_nextWaiting_none {d : Dev} (h : ∀ b : Fin 4, d.valve.banks[(b : Nat)].waits = []) :
    (List.finRange 4).foldl Dev.nextWaiting d = d :=
  foldl_still _ fun b _ => Dev.nextWaiting_none (h b)

theorem boostStartTimeout_holds : Rules.boostStartTimeout.Holds := by
  refine Rule.holds_act _ (fun t _ => t) (fun _ _ => boostTimeoutEff) (by rintro t c s rfl -; rfl) ?_
  rintro t s ⟨hstate, hlate, hfew⟩
  have hdue : (decide ((s.cleared t).valve.boost.state = 1) &&
      decide ((s.cleared t).valve.boost.startedAt + 100000000 ≤ (s.cleared t).time.now)) = true :=
    Bool.and_eq_true_iff.mpr ⟨decide_eq_true hstate, decide_eq_true hlate⟩
  rw [boostTimeoutEff, if_pos hdue, if_neg (by exact Nat.not_le.mpr hfew)]
  exact Only.rule (Effect.only ((Dev.boost_effect _ _).mono (by decide)) (Dev.fault_effect _ _ _ _) (by decide))
    ⟨rfl, rfl, rfl, rfl⟩

/-- R197: the converter retires, which is told. -/
def Dev.boostRetires (d : Dev) : Dev :=
  ((d.boost fun b => { b with state := 5, restartAt := none }).fault 11 true 0).raise 0x0805 1 0xFFFF [(3, d.valve.boost.vbst)]

theorem Dev.boostRetires_effect (d : Dev) :
    Effect [.valve, .hlt, .rcd, .diag, .can] eventObjs isEmcy d d.boostRetires :=
  Effect.raise (Effect.only ((Dev.boost_effect _ _).mono (by decide)) (Dev.fault_effect _ _ _ _) (by decide)) (by decide)
    (fun _ h => h) (fun _ h => h) _ _ _ _

theorem Dev.boostRetires_valve (d : Dev) :
    d.boostRetires.valve = { d.valve with boost := { d.valve.boost with state := 5, restartAt := none } } := by
  rw [Dev.boostRetires, Dev.raise_valve]
  rfl

theorem boostTimeoutEff_retires {d : Dev} (hstate : d.valve.boost.state = 1) (hlate : d.valve.boost.startedAt + 100000000 ≤ d.time.now)
    (hthree : d.valve.boost.restarts = 3) : boostTimeoutEff d = (List.finRange 4).foldl Dev.nextWaiting d.boostRetires := by
  rw [boostTimeoutEff, if_pos (Bool.and_eq_true_iff.mpr ⟨decide_eq_true hstate, decide_eq_true hlate⟩), if_pos hthree.ge]
  rfl

theorem boostRetired_holds : Rules.boostRetired.Holds := by
  refine Rule.holds_unrouted _ (fun t _ => t) (fun _ _ => boostTimeoutEff) (by rintro t c s rfl -; rfl)
    (by simp +contextual [busObjs, eventObjs, among]) ?_
  rintro t s ⟨hstate, hlate, hthree, hwaits⟩
  have hvalve := (s.cleared t).boostRetires_valve
  rw [boostTimeoutEff_retires (d := s.cleared t) hstate hlate hthree, foldl_nextWaiting_none fun b => by rw [hvalve]; exact hwaits b]
  refine Effect.unrouted_rule (sent := isEmcy) (Dev.boostRetires_effect _) (fun _ h => Dev.route_none_of_isEmcy _ h) ?_
  intro o _
  refine ⟨?_, ?_, ?_, ?_⟩
  all_goals simp [hvalve]

/-- R196, R197: a waiting channel starts from the battery. -/
def Dev.startsFromBattery (d : Dev) (ch : Fin 32) : Dev :=
  (((((d.bump 0x250808).bank (bankOf ch) fun k => { k with waits := [] }).channel ch fun c => { c with waited := true }).startPeak
    ch false true).bump 0x210205)

theorem Dev.startsFromBattery_effect (d : Dev) (ch : Fin 32) :
    Effect [.valve] (among [0x250808, 0x210205]) (fun _ => False) d (d.startsFromBattery ch) := by
  refine Effect.bump (Effect.only (Effect.only (Effect.only (Effect.bump (Effect.refl _ _ _ d) (by rfl)) (Dev.bank_effect _ _ _)
    (by decide)) (Dev.channel_effect _ _ _) (by decide)) (Dev.startPeak_effect _ _ _ _) (by decide)) (by rfl)

theorem Dev.nextWaiting_battery {d : Dev} {ch : Fin 32} (hretired : d.valve.boost.state = 5)
    (hpeak : d.valve.banks[((bankOf ch : Fin 4) : Nat)].boostPeak = none) (hwaits : d.valve.banks[((bankOf ch : Fin 4) : Nat)].waits = [ch]) :
    d.nextWaiting (bankOf ch) = d.startsFromBattery ch := by
  have hready : d.boostReady = false := by
    rw [Dev.boostReady, hretired]
    rfl
  have hback : d.fallsBack (bankOf ch) = true := by
    rw [Dev.fallsBack, hretired]
    exact Bool.or_true _
  rw [Dev.nextWaiting, if_neg (by rw [Fin.getElem_fin, hpeak]; simp), Fin.getElem_fin, hwaits, Dev.startWaiting]
  simp only [hready, hback, Bool.false_eq_true, if_false, if_true]
  rfl

theorem boostRetiredStarts_holds : Rules.boostRetiredStarts.Holds := by
  refine Rule.holds_unrouted _ (fun a _ => a.2) (fun _ _ => boostTimeoutEff) (by rintro t c s rfl -; rfl)
    (by simp +contextual [busObjs, eventObjs, among]) ?_
  rintro ⟨ch, t⟩ s hp
  dsimp only at hp
  obtain ⟨hstate, hlate, hthree, hwaits, hpeak⟩ := hp
  have hvalve := (s.cleared t).boostRetires_valve
  obtain ⟨x, hx⟩ : ∃ x, x = (s.cleared t).boostRetires := ⟨_, rfl⟩
  rw [← hx] at hvalve
  have hown : x.nextWaiting (bankOf ch) = x.startsFromBattery ch :=
    Dev.nextWaiting_battery (by rw [hvalve]) (by rw [hvalve]; exact hpeak) (by rw [hvalve]; exact (hwaits _).trans (if_pos rfl))
  have hbefore : ∀ b : Fin 4, b ≠ bankOf ch → x.valve.banks[(b : Nat)].waits = [] := fun b hb => by
    rw [hvalve]
    exact (hwaits b).trans (if_neg hb)
  have hother : ∀ b : Fin 4, b ≠ bankOf ch → (x.startsFromBattery ch).valve.banks[(b : Nat)] = x.valve.banks[(b : Nat)] := fun b hb => by
    simp [Dev.startsFromBattery, Dev.startPeak, Dev.bump, Dev.put, Dev.putVal, hb]
  rw [boostTimeoutEff_retires (d := s.cleared t) hstate hlate hthree, ← hx,
    foldl_one hown (fun b hb => Dev.nextWaiting_none (hbefore b hb))
      (fun b hb => Dev.nextWaiting_none (by rw [hother b hb]; exact hbefore b hb)) _ (List.mem_finRange (bankOf ch)) (List.nodup_finRange 4)]
  refine Effect.unrouted_rule (sent := isEmcy) (Effect.trans (hx ▸ (Dev.boostRetires_effect _).mono (fun _ h => h)
    (by simp +contextual) fun _ h => h) ((Dev.startsFromBattery_effect _ _).mono (by decide) (by simp +contextual)
    fun _ h => h.elim)) (fun _ h => Dev.route_none_of_isEmcy _ h) ?_
  intro o _
  refine ⟨fun k hk => ?_, fun k hk => ?_, ?_⟩
  · refine Eq.trans (b := x.valve.channels[(k : Nat)]) ?_ (by rw [hvalve]; rfl)
    simp [Dev.startsFromBattery, Dev.startPeak, Dev.bump, Dev.put, Dev.putVal, hk]
  · exact (hother k hk).trans (by rw [hvalve]; rfl)
  · have hchain : x.chain = s.chainAt t := by
      rw [Dev.chain, hx, Dev.boostRetires, Dev.raise_time]
      rfl
    have hstart : (x.startsFromBattery ch).valve.channels[(ch : Nat)].start = x.chain := by
      simp [Dev.startsFromBattery, Dev.startPeak, Dev.bump, Dev.put, Dev.putVal]
      rfl
    refine ⟨?_, ?_, hstart.trans hchain, ?_, ?_⟩
    all_goals simp [Dev.startsFromBattery, Dev.startPeak, Dev.bump, Dev.put, Dev.putVal]

theorem boostRestart_holds : Rules.boostRestart.Holds := by
  refine Rule.holds_act _ (fun t _ => t) (fun _ _ => boostRestartEff) (by rintro t c s rfl -; rfl) ?_
  rintro t s ⟨hdue, hboost, hvalves, harmed, hstate⟩
  obtain ⟨r, hr, hpast⟩ := exists_of_any hdue
  have hstarts : (((s.cleared t).boost fun b => { b with restarts := b.restarts + 1 }).flag 0x250801 &&
      ((s.cleared t).boost fun b => { b with restarts := b.restarts + 1 }).flag 0x250001 &&
      ((s.cleared t).boost fun b => { b with restarts := b.restarts + 1 }).pd.armed &&
      decide (((s.cleared t).boost fun b => { b with restarts := b.restarts + 1 }).valve.boost.state ≠ 5)) = true := by
    simp only [Bool.and_eq_true, decide_eq_true_eq]
    exact ⟨⟨⟨hboost, hvalves⟩, harmed⟩, fun h => absurd (hstate.symm.trans h) (by decide)⟩
  have heff : boostRestartEff (s.cleared t) = ((s.cleared t).boost fun b => { b with restarts := b.restarts + 1 }).boost fun b =>
      { b with state := 1, startedAt := (s.cleared t).time.now, restartAt := none } := by
    unfold boostRestartEff
    rw [show (s.cleared t).valve.boost.restartAt = some r from hr]
    exact (if_pos hpast).trans (if_pos hstarts)
  rw [heff]
  exact Only.rule ((Effect.trans (Dev.boost_effect _ _) (Dev.boost_effect _ _)).mono (by decide) (fun _ h => h) fun _ h => h)
    ⟨rfl, rfl, rfl, rfl, rfl, rfl⟩

theorem boostOvervoltage_holds : Rules.boostOvervoltage.Holds := by
  refine Rule.holds_act _ (fun a _ => a.2) (fun a _ d => boostOvervoltageEff d a.1) (by rintro t c s rfl -; rfl) ?_
  rintro ⟨v, t⟩ s hp
  dsimp only at hp
  obtain ⟨hstate, hover⟩ := hp
  have hcond : ((decide ((s.cleared t).valve.boost.state = 1) || decide ((s.cleared t).valve.boost.state = 2) ||
      decide ((s.cleared t).valve.boost.state = 3)) &&
      (decide (11 * (s.cleared t).nat 0x250802 < 10 * v) || decide (63000 < v))) = true := by
    simp only [Bool.and_eq_true, Bool.or_eq_true, decide_eq_true_eq]
    exact ⟨.inl (.inr hstate), hover⟩
  rw [boostOvervoltageEff, if_pos hcond]
  exact Only.rule ((Dev.boost_effect _ _).mono (by decide)) ⟨rfl, rfl⟩

theorem boostReadyRule_holds : Rules.boostReadyRule.Holds := by
  refine Rule.holds_act _ (fun a _ => a.2) (fun a _ d => boostReadyEff d a.1) (by rintro t c s rfl -; rfl) ?_
  rintro ⟨v, t⟩ s hp
  dsimp only at hp
  obtain ⟨hstate, hshare, hhigh, hwaits⟩ := hp
  have hstate' : (s.cleared t).valve.boost.state = 1 := hstate
  have hshare' : (s.cleared t).nat 0x250802 * (s.cleared t).nat 0x250805 ≤ 100 * v := hshare
  have hhigh' : 10 * v ≤ 11 * (s.cleared t).nat 0x250802 := hhigh
  have heff : boostReadyEff (s.cleared t) v = (s.cleared t).boost fun b => { b with state := 2, vbst := v, restarts := 0 } := by
    rw [boostReadyEff]
    simp only [hstate', hshare', hhigh', decide_true, show ¬ (1 : Nat) = 4 by decide, decide_false, Bool.false_and, Bool.false_eq_true,
      if_false, Bool.true_or, Bool.and_self, if_true]
    exact foldl_nextWaiting_none hwaits
  rw [heff]
  refine Only.rule ((Dev.boost_effect _ _).mono (by decide)) ⟨rfl, rfl, rfl, ?_, rfl, rfl⟩
  exact Bool.and_eq_true_iff.mpr ⟨rfl, decide_eq_true hshare⟩

/-- R196: the battery takes a boost peak over. -/
def Dev.fallsToBattery (d : Dev) (ch : Fin 32) : Dev :=
  ((d.channel ch fun c => { c with fallback := true }).bank (bankOf ch) fun k =>
    { k with boostPeak := none, fallbackNow := true }).bump 0x250808

theorem Dev.fallsToBattery_effect (d : Dev) (ch : Fin 32) :
    Effect [.valve] (among [0x250808]) (fun _ => False) d (d.fallsToBattery ch) :=
  Effect.bump (Effect.only (Effect.only (Effect.refl _ _ _ d) (Dev.channel_effect _ _ _) (by decide)) (Dev.bank_effect _ _ _)
    (by decide)) (by rfl)

/-- R196: one boost peak that runs is handed to the battery. -/
theorem boostFallbackEff_one {d : Dev} {ch : Fin 32} {vbst : Nat} (hlow : vbst < d.pd.v1 + 1000)
    (hpeaks : ∀ b : Fin 4, d.valve.banks[(b : Nat)].boostPeak = if b = bankOf ch then some ch else none)
    (hwaits : ∀ b : Fin 4, d.valve.banks[(b : Nat)].waits = []) :
    ∃ f, boostFallbackEff d vbst = (d.boost f).fallsToBattery ch := by
  refine ⟨fun b => { b with
    vbst := vbst, state := if decide (100 * vbst < d.nat 0x250802 * d.nat 0x250805) && (b.state = 2 || b.state = 4) then 3 else b.state }, ?_⟩
  rw [boostFallbackEff]
  refine (if_pos hlow).trans ?_
  obtain ⟨x, hx⟩ : ∃ x, x = d.boost fun b => { b with
    vbst := vbst, state := if decide (100 * vbst < d.nat 0x250802 * d.nat 0x250805) && (b.state = 2 || b.state = 4) then 3 else b.state } :=
    ⟨_, rfl⟩
  have hbanks : x.valve.banks = d.valve.banks := by
    rw [hx]
    rfl
  have hother : ∀ b : Fin 4, b ≠ bankOf ch → (x.fallsToBattery ch).valve.banks[(b : Nat)] = d.valve.banks[(b : Nat)] := fun b hb => by
    simp [Dev.fallsToBattery, Dev.bump, Dev.put, Dev.putVal, hb, hbanks]
  have hown : (x.fallsToBattery ch).valve.banks[((bankOf ch : Fin 4) : Nat)].waits = [] := by
    simp [Dev.fallsToBattery, Dev.bump, Dev.put, Dev.putVal, hbanks, hwaits]
  rw [← hx]
  refine foldl_one (g := bankOf ch) ?_ (fun b hb => ?_) (fun b hb => ?_) _ (List.mem_finRange _) (List.nodup_finRange 4)
  · have hpeak : x.valve.banks[bankOf ch].boostPeak = some ch := by
      rw [Fin.getElem_fin, hbanks]
      exact (hpeaks _).trans (if_pos rfl)
    simp only [hpeak]
    exact Dev.nextWaiting_none hown
  · have hpeak : x.valve.banks[b].boostPeak = none := by
      rw [Fin.getElem_fin, hbanks]
      exact (hpeaks b).trans (if_neg hb)
    simp only [hpeak]
  · have hpeak : (x.fallsToBattery ch).valve.banks[b].boostPeak = none := by
      rw [Fin.getElem_fin, hother b hb]
      exact (hpeaks b).trans (if_neg hb)
    simp only [hpeak]

theorem boostFallback_holds : Rules.boostFallback.Holds := by
  refine Rule.holds_act _ (fun a _ => a.2.2) (fun a _ d => boostFallbackEff d a.2.1) (by rintro t c s rfl -; rfl) ?_
  rintro ⟨ch, v, t⟩ s hp
  dsimp only at hp
  obtain ⟨hlow, hpeaks, hwaits⟩ := hp
  obtain ⟨f, heff⟩ := boostFallbackEff_one (d := s.cleared t) hlow hpeaks hwaits
  rw [heff]
  refine Effect.rule (sent := fun _ => False) (Effect.trans ((Dev.boost_effect _ _).mono (by decide)) ((Dev.fallsToBattery_effect _ _).mono (by decide)
    (fun _ h => h) fun _ h => h)) (fun _ h => h.elim) ⟨rfl, fun k hk => ?_, fun k hk => ?_, ?_, ?_, ?_⟩
  · simp [Dev.fallsToBattery, Dev.bump, Dev.put, Dev.putVal, hk, Dev.boost]
  · simp [Dev.fallsToBattery, Dev.bump, Dev.put, Dev.putVal, hk, Dev.boost]
  · simp [Dev.fallsToBattery, Dev.bump, Dev.put, Dev.putVal, Dev.boost]
  · simp [Dev.fallsToBattery, Dev.bump, Dev.put, Dev.putVal, Dev.boost]
  · exact Dev.int_put_same _ _ _

end Sys2Proof.Machine

namespace Sys2Proof

/-- Settles O30, by a lemma for each rule. -/
theorem banksAndBoostAreGuarded : Obligations.BanksAndBoostAreGuarded :=
  ⟨Machine.commonCurrentLimit_holds, Machine.commonLimitRetires_holds, Machine.commonRestore_holds,
    Machine.senseWindow_holds, Machine.senseDegraded_holds, Machine.senseFaulted_holds,
    Machine.boostStartTimeout_holds, Machine.boostRetired_holds, Machine.boostRetiredStarts_holds,
    Machine.boostRestart_holds, Machine.boostFallback_holds, Machine.boostOvervoltage_holds,
    Machine.boostReadyRule_holds⟩

end Sys2Proof
end

