-- ==== Sys2Proof/Proofs/BasebandStart.lean ====
section
/-! PROOF. The baseband starts: its script, gain rounds, notches, sample clocks and the seed wait (R38, R335 to R337, R353, R354). -/

namespace Sys2Proof.Machine

/-! ### The script -/

/-- R335: the transfers of the front-end script are sent. -/
def isFrontEnd : Emit → Prop
  | .frontEnd _ => True
  | _ => False

theorem unsent_of_isFrontEnd (d : Dev) {e : Emit} (h : isFrontEnd e) : busCounter e = none ∧ d.route e = none := by
  cases e with
  | frontEnd _ => exact ⟨rfl, rfl⟩
  | _ => exact h.elim

/-- R335: a run of the script has begun. -/
def Dev.scriptSent (d : Dev) : Dev :=
  (d.send (.frontEnd (scriptTransfers (d.str 0x2B0105)))).baseband fun g => { g with scriptAt := d.time.now }

theorem Dev.scriptSent_effect (d : Dev) : Effect [.gnss] (fun _ => false) isFrontEnd d d.scriptSent :=
  Effect.only (Effect.send (e := .frontEnd _) (Effect.refl _ _ _ d) trivial) (Dev.baseband_effect _ _) (by decide)

theorem Dev.runScript_verified (d : Dev) : d.runScript true = d.scriptSent.baseband fun g => { g with
    running := true, failedRuns := 0, inputs := g.inputs.map fun (x : GnssInput) => { x with gain := d.scriptSent.scriptGain } } := rfl

theorem Dev.runScript_verified_effect (d : Dev) : Effect [.gnss] (fun _ => false) isFrontEnd d (d.runScript true) := by
  rw [Dev.runScript_verified]
  exact Effect.only (Dev.scriptSent_effect d) (Dev.baseband_effect _ _) (by decide)

theorem Dev.runScript_failed {d : Dev} (hfew : d.gnss.failedRuns < 2) :
    d.runScript false = (d.scriptSent.fault 18 false 0xFFFF).baseband fun g => { g with failedRuns := g.failedRuns + 1 } := by
  rw [Dev.runScript]
  exact if_neg (Nat.not_le.mpr hfew)

theorem Dev.runScript_third {d : Dev} (htwo : d.gnss.failedRuns = 2) : d.runScript false = d.scriptSent.frontEndFault := by
  rw [Dev.runScript]
  exact if_pos htwo.ge

/-! ### Starts -/

/-- R335, R353: the baseband as a start of a kind finds it, before its script. -/
def Dev.startedAs (d : Dev) (kind : Nat) : Dev :=
  { d with gnss := {
    startedAt := d.time.now, kindAt := d.time.now, startKind := kind, waits := d.isLead && kind = 0 && !d.time.seeded
    changed := d.gnss.changed, erase := d.gnss.erase, keptAt := d.gnss.keptAt } }

theorem basebandStartEff_stopped {d : Dev} (hon : d.flag 0x2B0001 = true) (hstopped : d.gnss.running = false)
    (hsound : d.gnss.faulted = false) (hfresh : d.gnss.failedRuns = 0) (verifyOk : Bool) :
    basebandStartEff d verifyOk = (d.startedAs d.startKindNow).runScript verifyOk := by
  rw [basebandStartEff]
  simp only [hon, hstopped, hsound, hfresh, Bool.not_true, Bool.or_self, Nat.lt_irrefl, decide_false, Bool.false_eq_true, if_false]
  rfl

/-- R353: with no valid RTC a start is cold. -/
theorem Dev.startKindNow_cold {d : Dev} (h : d.rtc.valid = false) : d.startKindNow = 2 := by
  rw [Dev.startKindNow, h]
  rfl

theorem basebandStart_holds : Rules.basebandStart.Holds := by
  refine Rule.holds_logic _ (fun t _ => t) (fun _ _ d => basebandStartEff d true) (by rintro t c s rfl -; rfl) (fun _ _ h => h.1) ?_
  rintro t s ⟨-, hon, hstopped, hsound, hfresh, hrtc⟩
  rw [basebandStartEff_stopped (d := s.cleared t) hon hstopped hsound hfresh, Dev.startKindNow_cold (d := s.cleared t) hrtc]
  refine Effect.rule (Effect.trans ((Dev.withGnss_effect _ _).mono (by decide)) ((Dev.runScript_verified_effect _).mono (by decide)
    (fun _ h => absurd h Bool.false_ne_true) fun _ h => h)) (fun _ h => unsent_of_isFrontEnd _ h) ⟨rfl, rfl, rfl, rfl, rfl, ?_, rfl⟩
  show ((s.cleared t).isLead && false && _) = false
  rw [Bool.and_false, Bool.false_and]

theorem basebandStartUnverified_holds : Rules.basebandStartUnverified.Holds := by
  refine Rule.holds_logic _ (fun t _ => t) (fun _ _ d => basebandStartEff d false) (by rintro t c s rfl -; rfl) (fun _ _ h => h.1) ?_
  rintro t s ⟨-, hon, hstopped, hsound, hfresh⟩
  rw [basebandStartEff_stopped (d := s.cleared t) hon hstopped hsound hfresh, Dev.runScript_failed (by exact Nat.zero_lt_two)]
  refine Effect.rule (Effect.only (Effect.only (Effect.trans ((Dev.withGnss_effect _ _).mono (by decide))
    ((Dev.scriptSent_effect _).mono (by decide) (fun _ h => absurd h Bool.false_ne_true) fun _ h => h)) (Dev.fault_effect _ _ _ _)
    (by decide)) (Dev.baseband_effect _ _) (by decide)) (fun _ h => unsent_of_isFrontEnd _ h) ⟨rfl, rfl, rfl, rfl, ?_⟩
  exact Dev.fault_transient _ _ _

/-! ### Retries -/

theorem scriptRetryEff_early {s : State} {t : Nat} (h : ¬ Rules.ScriptDue s t) (verifyOk : Bool) :
    scriptRetryEff (s.cleared t) verifyOk = s.cleared t := by
  rw [scriptRetryEff]
  exact if_neg fun hdue => h (of_decide_eq_true (Bool.and_eq_true_iff.mp hdue).2)

theorem scriptRetryEff_due {s : State} {t : Nat} (h : Rules.ScriptDue s t) (hfailed : 0 < s.dev.gnss.failedRuns) (verifyOk : Bool) :
    scriptRetryEff (s.cleared t) verifyOk = (s.cleared t).runScript verifyOk := by
  rw [scriptRetryEff]
  exact if_pos (Bool.and_eq_true_iff.mpr ⟨decide_eq_true hfailed, decide_eq_true h⟩)

theorem scriptRetryEarly_holds : Rules.scriptRetryEarly.Holds := by
  refine Rule.holds_logic _ (fun a _ => a.2) (fun a _ d => scriptRetryEff d a.1) (by rintro t c s rfl -; rfl) (fun _ _ h => h.1) ?_
  rintro ⟨ok, t⟩ s ⟨-, hearly⟩
  rw [scriptRetryEff_early hearly]
  exact Only.rule (Effect.refl _ _ _ _) rfl

theorem scriptRetry_holds : Rules.scriptRetry.Holds := by
  refine Rule.holds_logic _ (fun t _ => t) (fun _ _ d => scriptRetryEff d true) (by rintro t c s rfl -; rfl) (fun _ _ h => h.1) ?_
  rintro t s ⟨-, hdue, hfailed⟩
  rw [scriptRetryEff_due hdue hfailed]
  exact Effect.rule ((Dev.runScript_verified_effect _).mono (by decide) (fun _ h => absurd h Bool.false_ne_true) fun _ h => h)
    (fun _ h => unsent_of_isFrontEnd _ h) ⟨rfl, rfl, rfl, rfl⟩

/-- R335: the front end is faulted: GNSS stops, and an event tells it. -/
def Dev.frontEndStopped (d : Dev) : Dev :=
  (({ d.fault 18 true 0xFFFF with gnss := { faulted := true, changed := d.gnss.changed, erase := d.gnss.erase, keptAt := d.gnss.keptAt } } : Dev).raise
    0x0E01 1 0xFFFF [(7, 0x2B0105)]).put 0x2B0405 0

theorem Dev.frontEndStopped_effect (d : Dev) :
    Effect (.gnss :: .hlt :: eventParts) (fun x => x = 0x2B0405 || eventObjs x) isEmcy d d.frontEndStopped :=
  Effect.put (Effect.raise (Effect.only (Effect.only (Effect.refl _ _ _ d) (Dev.fault_effect _ _ _ _) (by decide))
    (Dev.withGnss_effect _ _) (by decide)) (by decide) (by simp +contextual) (fun _ h => h) _ _ _ _) (by rfl) _

theorem Dev.frontEndFault_wheeler {d : Dev} (h : d.isLead = false) : d.frontEndFault = d.frontEndStopped := by
  have hrole : d.frontEndStopped.isLead = false := by
    rw [d.frontEndStopped_effect.isLead (by decide)]
    exact h
  exact if_neg (show ¬ d.frontEndStopped.isLead = true by rw [hrole]; exact Bool.false_ne_true)

theorem Dev.frontEndStopped_gnss (d : Dev) : d.frontEndStopped.gnss =
    { faulted := true, changed := d.gnss.changed, erase := d.gnss.erase, keptAt := d.gnss.keptAt } := by
  simp only [Dev.frontEndStopped, Dev.put, Dev.putVal_gnss, Dev.raise_gnss]

theorem Dev.frontEndStopped_hlt (d : Dev) : d.frontEndStopped.hlt = (d.fault 18 true 0xFFFF).hlt := by
  simp only [Dev.frontEndStopped, Dev.put, Dev.putVal_hlt, Dev.raise_hlt]

theorem scriptRetryFails_holds : Rules.scriptRetryFails.Holds := by
  refine Rule.holds_unrouted_logic _ (fun t _ => t) (fun _ _ d => scriptRetryEff d false) (by rintro t c s rfl -; rfl) (fun _ _ h => h.1)
    (by simp +contextual [busObjs, eventObjs, among]) ?_
  rintro t s ⟨-, hdue, htwo, hrole⟩
  rw [scriptRetryEff_due hdue (by rw [htwo]; decide), Dev.runScript_third (d := s.cleared t) htwo,
    Dev.frontEndFault_wheeler (d := (s.cleared t).scriptSent) hrole]
  refine Effect.unrouted_rule (sent := fun e => isFrontEnd e ∨ isEmcy e) (Effect.trans ((Dev.scriptSent_effect _).mono (by decide)
    (fun _ h => absurd h Bool.false_ne_true) fun _ h => .inl h) ((Dev.frontEndStopped_effect _).mono (fun _ h => h) (fun _ h => h)
    fun _ h => .inr h)) (fun _ h => h.elim (fun h => (unsent_of_isFrontEnd _ h).2) (Dev.route_none_of_isEmcy _)) ?_
  intro o ho
  have hgnss := (s.cleared t).scriptSent.frontEndStopped_gnss
  refine ⟨?_, ?_, ?_, ?_, ?_, ?_⟩
  · show ((s.cleared t).scriptSent.frontEndStopped.hlt.faults[(18 : Fin 20)]).permanent = _
    rw [Dev.frontEndStopped_hlt]
    exact Dev.fault_permanent _ _ _
  · exact congrArg Gnss.running hgnss
  · exact congrArg Gnss.faulted hgnss
  · exact congrArg Gnss.failedRuns hgnss
  · exact congrArg Gnss.hasFix hgnss
  · rw [ho.int (by decide)]
    exact Dev.int_put_same _ _ _

/-! ### Inputs -/

theorem Dev.setInput_effect (d : Dev) (n : Fin 2) (f : GnssInput → GnssInput) : Only [.gnss] d (d.setInput n f) :=
  Dev.baseband_effect _ _

@[simp] theorem Dev.setInput_same (d : Dev) (n : Fin 2) (f : GnssInput → GnssInput) :
    (d.setInput n f).gnss.inputs[(n : Nat)] = f d.gnss.inputs[(n : Nat)] :=
  updateAt_same _ _ _

@[simp] theorem Dev.setInput_channels (d : Dev) (n : Fin 2) (f : GnssInput → GnssInput) :
    (d.setInput n f).gnss.channels = d.gnss.channels := rfl

/-- R336, R337: a round is due 10 ms after the last one of its kind. -/
theorem undue_of_due10 {x : Option Nat} {s : State} {t : Nat} (h : Rules.Due10 x s t) :
    (x.any fun e => decide (s.nowAt t < e + 10000000)) = false := by
  cases x with
  | none => rfl
  | some e =>
    rw [Rules.Due10, Option.all_some] at h
    rw [Option.any_some]
    exact decide_eq_false (Nat.not_lt.mpr (of_decide_eq_true h))

/-! ### Gain rounds -/

/-- R336: the gain code after a round. -/
def Dev.agcCode (d : Dev) (n : Fin 2) (rms : Nat) : Nat :=
  if d.nat 0x2B0106 = 0 then d.gnss.inputs[n].gain
  else if rms < 300 then min (2 ^ (d.nat 0x2B0106 % 256) - 1) (d.gnss.inputs[n].gain + 1)
  else if 400 < rms then d.gnss.inputs[n].gain - 1
  else d.gnss.inputs[n].gain

/-- R336: the J/N that a round shows. -/
def Dev.agcRatio (d : Dev) (n : Fin 2) (rms : Nat) : Nat :=
  min 63 (Config.jammingRatio rms (d.gnss.inputs[n].gain * d.int 0x2B0107))

/-- R336: the warning and the alarm after a round. -/
def Dev.agcWarning (d : Dev) (n : Fin 2) (rms : Nat) : Bool × Option Nat :=
  jamBit d.time.now (d.agcRatio n rms) (d.nat 0x2B010E) d.gnss.inputs[n].warning d.gnss.inputs[n].quietWarning
def Dev.agcAlarm (d : Dev) (n : Fin 2) (rms : Nat) : Bool × Option Nat :=
  jamBit d.time.now (d.agcRatio n rms) (d.nat 0x2B010F) d.gnss.inputs[n].alarm d.gnss.inputs[n].quietAlarm

/-- R336: the input after a round. -/
def Dev.agcRead (d : Dev) (n : Fin 2) (rms : Nat) : Dev :=
  d.setInput n fun x => { x with
    agcAt := some d.time.now, gain := d.agcCode n rms, ratio := d.agcRatio n rms
    warning := (d.agcWarning n rms).1, quietWarning := (d.agcWarning n rms).2
    alarm := (d.agcAlarm n rms).1, quietAlarm := (d.agcAlarm n rms).2 }

/-- R336: a gain code that moves is sent. -/
def Dev.agcSent (d : Dev) (n : Fin 2) (rms : Nat) : Dev :=
  if d.agcCode n rms ≠ d.gnss.inputs[n].gain then (d.agcRead n rms).send (.gain n (d.agcCode n rms)) else d.agcRead n rms

/-- R336: an alarm that comes or goes is told. -/
def Dev.agcTold (d : Dev) (n : Fin 2) (rms : Nat) : Dev :=
  if (d.agcAlarm n rms).1 && !d.gnss.inputs[n].alarm then (d.agcSent n rms).raise 0x0E02 1 n [(3, d.agcRatio n rms)]
  else if d.gnss.inputs[n].alarm && !(d.agcAlarm n rms).1 then (d.agcSent n rms).raise 0x0E02 2 n [(3, d.agcRatio n rms)]
  else d.agcSent n rms

theorem agcRoundEff_due {d : Dev} {n : Fin 2} (hrunning : d.gnss.running = true) (hclock : d.gnss.inputs[n].clock = true)
    (hdue : (d.gnss.inputs[n].agcAt.any fun e => decide (d.time.now < e + 10000000)) = false) (rms : Nat) :
    agcRoundEff d n rms = d.agcTold n rms := by
  rw [agcRoundEff]
  simp only [hrunning, hclock, hdue, Bool.not_true, Bool.or_self, Bool.false_eq_true, if_false]
  rfl

/-- The messages of a gain round: the code where it moves, and the alarm. -/
def isGainRound (moves : Bool) (e : Emit) : Prop := (moves = true ∧ ∃ n code, e = .gain n code) ∨ isEmcy e

theorem unrouted_of_isGainRound (d : Dev) {moves : Bool} {e : Emit} (h : isGainRound moves e) : d.route e = none := by
  rcases h with ⟨-, n, code, rfl⟩ | h
  · rfl
  · exact Dev.route_none_of_isEmcy d h

theorem Dev.agcTold_effect (d : Dev) (n : Fin 2) (rms : Nat) :
    Effect (.gnss :: eventParts) eventObjs (isGainRound (d.agcCode n rms ≠ d.gnss.inputs[n].gain)) d (d.agcTold n rms) := by
  have hread : Effect (.gnss :: eventParts) eventObjs (isGainRound (d.agcCode n rms ≠ d.gnss.inputs[n].gain)) d (d.agcRead n rms) :=
    (Dev.setInput_effect _ _ _).mono (by decide)
  have hsent : Effect (.gnss :: eventParts) eventObjs (isGainRound (d.agcCode n rms ≠ d.gnss.inputs[n].gain)) d (d.agcSent n rms) := by
    unfold Dev.agcSent
    split
    case isTrue h => exact hread.send (.inl ⟨decide_eq_true h, n, _, rfl⟩)
    case isFalse => exact hread
  unfold Dev.agcTold
  split
  · exact hsent.raise (by decide) (fun _ h => h) (fun _ h => .inr h) _ _ _ _
  · split
    · exact hsent.raise (by decide) (fun _ h => h) (fun _ h => .inr h) _ _ _ _
    · exact hsent

theorem Dev.agcTold_gnss (d : Dev) (n : Fin 2) (rms : Nat) : (d.agcTold n rms).gnss = (d.agcRead n rms).gnss := by
  have hsent : (d.agcSent n rms).gnss = (d.agcRead n rms).gnss := by
    unfold Dev.agcSent
    split <;> rfl
  unfold Dev.agcTold
  split
  · rw [Dev.raise_gnss, hsent]
  · split
    · rw [Dev.raise_gnss, hsent]
    · exact hsent

/-- R336: at or above its level J/N raises a warning or an alarm. -/
theorem jamBit_above {now ratio level : Nat} (h : level ≤ ratio) (on : Bool) (quiet : Option Nat) : (jamBit now ratio level on quiet).1 = true := by
  rw [jamBit, if_pos h]

theorem agcRoundEarly_holds : Rules.agcRoundEarly.Holds := by
  refine Rule.holds_logic _ (fun a _ => a.2.2.2) (fun a _ d => agcRoundEff d a.1 a.2.1) (by rintro t c s rfl -; rfl) (fun _ _ h => h.1) ?_
  rintro ⟨n, rms, e, t⟩ s hp
  dsimp only at hp
  obtain ⟨-, hlast, hearly⟩ := hp
  have hsame : agcRoundEff (s.cleared t) n rms = s.cleared t := by
    have hundue : ((s.cleared t).gnss.inputs[n].agcAt.any fun e => decide ((s.cleared t).time.now < e + 10000000)) = true := by
      rw [show (s.cleared t).gnss.inputs[n].agcAt = some e from hlast]
      exact any_some_of (p := fun e => (s.cleared t).time.now < e + 10000000) hearly
    rw [agcRoundEff]
    exact if_pos (Bool.or_eq_true_iff.mpr (.inr hundue))
  rw [hsame]
  exact Only.rule (Effect.refl _ _ _ _) rfl

theorem agcRound_holds : Rules.agcRound.Holds := by
  refine Rule.holds_unrouted_logic _ (fun a _ => a.2.2) (fun a _ d => agcRoundEff d a.1 a.2.1) (by rintro t c s rfl -; rfl)
    (fun _ _ h => h.1.1) (by simp +contextual [busObjs, eventObjs, among]) ?_
  rintro ⟨n, rms, t⟩ s hp
  dsimp only at hp
  obtain ⟨⟨-, hrunning⟩, hclock, hdue, hfield, hroom⟩ := hp
  rw [agcRoundEff_due (d := s.cleared t) hrunning hclock (undue_of_due10 hdue)]
  refine Effect.unrouted_rule (Dev.agcTold_effect _ _ _) (fun _ h => unrouted_of_isGainRound _ h) ?_
  intro o _
  have hinput : ((s.cleared t).agcTold n rms).gnss.inputs[(n : Nat)] = { s.dev.gnss.inputs[(n : Nat)] with
      agcAt := some (s.nowAt t), gain := (s.cleared t).agcCode n rms, ratio := (s.cleared t).agcRatio n rms
      warning := ((s.cleared t).agcWarning n rms).1, quietWarning := ((s.cleared t).agcWarning n rms).2
      alarm := ((s.cleared t).agcAlarm n rms).1, quietAlarm := ((s.cleared t).agcAlarm n rms).2 } := by
    rw [Dev.agcTold_gnss]
    exact Dev.setInput_same _ _ _
  have hcode : (s.cleared t).agcCode n rms = (if rms < 300 then s.dev.gnss.inputs[n].gain + 1
      else if 400 < rms then s.dev.gnss.inputs[n].gain - 1 else s.dev.gnss.inputs[n].gain) := by
    rw [Dev.agcCode, if_neg (show ¬ (s.cleared t).nat 0x2B0106 = 0 from hfield)]
    have hmin : min (2 ^ (s.dev.nat 0x2B0106 % 256) - 1) (s.dev.gnss.inputs[n].gain + 1) = s.dev.gnss.inputs[n].gain + 1 :=
      Nat.min_eq_right (Nat.le_sub_one_of_lt hroom)
    exact congrArg (fun k => if rms < 300 then k else _) hmin
  refine ⟨?_, ?_, ?_, ?_, ?_⟩
  · exact (congrArg GnssInput.gain hinput).trans hcode
  · exact (congrArg GnssInput.ratio hinput).trans_le (Nat.min_le_left _ _)
  · exact (congrArg Gnss.channels ((s.cleared t).agcTold_gnss n rms)).trans rfl
  · intro h
    exact (congrArg GnssInput.warning hinput).trans (jamBit_above (h.trans (congrArg GnssInput.ratio hinput).le) _ _)
  · intro h
    exact (congrArg GnssInput.alarm hinput).trans (jamBit_above (h.trans (congrArg GnssInput.ratio hinput).le) _ _)

theorem agcRoundHeld_holds : Rules.agcRoundHeld.Holds := by
  refine Rule.holds_unrouted_logic _ (fun a _ => a.2.2) (fun a _ d => agcRoundEff d a.1 a.2.1) (by rintro t c s rfl -; rfl)
    (fun _ _ h => h.1.1) (by simp +contextual [busObjs, eventObjs, among]) ?_
  rintro ⟨n, rms, t⟩ s hp
  dsimp only at hp
  obtain ⟨⟨-, hrunning⟩, hclock, hdue, hfield⟩ := hp
  rw [agcRoundEff_due (d := s.cleared t) hrunning hclock (undue_of_due10 hdue)]
  have hcode : (s.cleared t).agcCode n rms = (s.cleared t).gnss.inputs[n].gain := if_pos hfield
  refine Effect.unrouted_rule (Dev.agcTold_effect _ _ _) (fun _ h => unrouted_of_isGainRound _ h) ?_
  intro o _
  refine ⟨?_, fun e he => ?_⟩
  · have hinput : ((s.cleared t).agcTold n rms).gnss.inputs[(n : Nat)].gain = (s.cleared t).agcCode n rms := by
      rw [Dev.agcTold_gnss]
      exact congrArg GnssInput.gain (Dev.setInput_same _ _ _)
    exact hinput.trans hcode
  · rintro rfl
    rcases ((s.cleared t).agcTold_effect n rms).out _ he with hmem | ⟨hmoves, -⟩ | hemcy
    · simp at hmem
    · exact of_decide_eq_true hmoves hcode
    · exact hemcy

/-! ### Notches -/

/-- A line joins the end of lines that are at least as strong. -/
theorem byLevel_last {x : SpectrumLine} : ∀ {l : List SpectrumLine}, (∀ y ∈ l, x.level ≤ y.level) → byLevel x l = l ++ [x]
  | [], _ => rfl
  | y :: l, h => by
    rw [byLevel, if_neg (Nat.not_lt.mpr (h y List.mem_cons_self)), byLevel_last fun z hz => h z (List.mem_cons_of_mem y hz)]
    rfl

/-- R337: lines that are given by falling level keep their order. -/
theorem ranked_of_falling : ∀ (r l : List SpectrumLine), (l ++ r).Pairwise (fun x y => y.level ≤ x.level) →
    r.foldl (fun l x => byLevel x l) l = l ++ r
  | [], l, _ => by simp
  | x :: r, l, h => by
    have hlast : byLevel x l = l ++ [x] := byLevel_last fun y hy => (List.pairwise_append.mp h).2.2 y hy x List.mem_cons_self
    rw [List.foldl_cons, hlast, ranked_of_falling r (l ++ [x]) (by rwa [List.append_assoc, List.singleton_append]),
      List.append_assoc, List.singleton_append]

/-- R337: the frequencies of the lines that stand at a level or above. -/
def linesAbove (level margin : Nat) (lines : List SpectrumLine) : List Int :=
  (lines.filter fun l => decide (level ≤ l.level + margin)).map fun l => l.freq

/-- R337: the held notches, with those whose line still stands. -/
def trackedNotches (now : Nat) (kept : List Int) (notches : List Notch) : List Notch :=
  (notches.map fun k => match kept.find? fun f => notchOn f k with
    | some f => ⟨f, now⟩
    | none => k).filter fun k => now < k.seen + 1000000000

/-- R337: the notches after a search: those on a strong line, those of the strong lines that have none, and the others. -/
def notchesAfter (now : Nat) (strong : List Int) (held : List Notch) : List Notch :=
  ((held.filter fun k => strong.any fun f => notchOn f k) ++
    ((strong.filter fun f => !held.any (notchOn f)).map fun f => (⟨f, now⟩ : Notch)) ++
    held.filter fun k => !strong.any fun f => notchOn f k).take 4

theorem notchSearchEff_due {d : Dev} {n : Fin 2} (hrunning : d.gnss.running = true) (hclock : d.gnss.inputs[n].clock = true)
    (hdue : (d.gnss.inputs[n].searchAt.any fun e => decide (d.time.now < e + 10000000)) = false) {lines : List SpectrumLine}
    (hfalling : lines.Pairwise fun x y => y.level ≤ x.level) :
    notchSearchEff d n lines = d.setInput n fun x => { x with
      searchAt := some d.time.now
      notches := notchesAfter d.time.now ((linesAbove (10 * d.nat 0x2B010D) 0 lines).take 4)
        (trackedNotches d.time.now (linesAbove (10 * d.nat 0x2B010D) 30 lines) d.gnss.inputs[n].notches)
      overflow := 4 < (linesAbove (10 * d.nat 0x2B010D) 0 lines).length } := by
  have hranked : lines.foldl (fun l x => byLevel x l) [] = lines := ranked_of_falling lines [] (by simpa using hfalling)
  rw [notchSearchEff]
  simp only [hrunning, hclock, hdue, hranked, Bool.not_true, Bool.or_self, Bool.false_eq_true, if_false]
  rfl

/-- R337: with no notch held each strong line gets one. -/
theorem notchesAfter_none (now : Nat) {strong : List Int} (h : strong.length ≤ 4) :
    notchesAfter now strong [] = strong.map fun f => ⟨f, now⟩ := by
  simp [notchesAfter, h]

/-- R337: with no strong line the held notches stay. -/
theorem notchesAfter_idle (now : Nat) {held : List Notch} (h : held.length ≤ 4) : notchesAfter now [] held = held := by
  simp [notchesAfter, h]

theorem linesAbove_one {level margin : Nat} {x : SpectrumLine} (h : level ≤ x.level + margin) : linesAbove level margin [x] = [x.freq] := by
  simp [linesAbove, h]

theorem linesAbove_weak {level margin : Nat} {x : SpectrumLine} (h : x.level + margin < level) : linesAbove level margin [x] = [] := by
  simp [linesAbove, h]

/-- R337: a notch follows its line. -/
theorem trackedNotches_near {now : Nat} {f : Int} {k : Notch} (h : notchOn f k = true) : trackedNotches now [f] [k] = [⟨f, now⟩] := by
  simp [trackedNotches, h]

/-- R337: a notch whose line is gone stays for 1 s. -/
theorem trackedNotches_gone (now : Nat) (k : Notch) :
    trackedNotches now [] [k] = if now < k.seen + 1000000000 then [k] else [] := by
  simp [trackedNotches, List.filter_cons]

theorem notchSearch_holds : Rules.notchSearch.Holds := by
  refine Rule.holds_logic _ (fun a _ => a.2.2) (fun a _ d => notchSearchEff d a.1 a.2.1) (by rintro t c s rfl -; rfl)
    (fun _ _ h => h.1.1) ?_
  rintro ⟨n, lines, t⟩ s hp
  dsimp only at hp
  obtain ⟨⟨-, hrunning⟩, hclock, hnone, hdue, hfalling⟩ := hp
  have hnone' : (s.cleared t).gnss.inputs[n].notches = [] := hnone
  rw [notchSearchEff_due (d := s.cleared t) hrunning hclock (undue_of_due10 hdue) hfalling, hnone']
  refine Only.rule ((Dev.setInput_effect _ _ _).mono (by decide)) ⟨rfl, ?_, ?_, rfl⟩
  · refine (congrArg GnssInput.notches (Dev.setInput_same _ _ _)).trans ?_
    refine (notchesAfter_none _ (List.length_take_le _ _)).trans ?_
    rw [linesAbove, ← List.map_take, List.map_map]
    rfl
  · refine (congrArg GnssInput.overflow (Dev.setInput_same _ _ _)).trans ?_
    rw [linesAbove, List.length_map]
    rfl

theorem notchSearchKeeps_holds : Rules.notchSearchKeeps.Holds := by
  refine Rule.holds_logic _ (fun a _ => a.2.2.2) (fun a _ d => notchSearchEff d a.1 [a.2.2.1]) (by rintro t c s rfl -; rfl)
    (fun _ _ h => h.1.1) ?_
  rintro ⟨n, k, x, t⟩ s hp
  dsimp only at hp
  obtain ⟨⟨-, hrunning⟩, hclock, hone, hdue, hnear, hweak, hstands⟩ := hp
  have hone' : (s.cleared t).gnss.inputs[n].notches = [k] := hone
  rw [notchSearchEff_due (d := s.cleared t) hrunning hclock (undue_of_due10 hdue) (List.pairwise_singleton _ _), hone',
    linesAbove_weak (show x.level + 0 < 10 * (s.cleared t).nat 0x2B010D from hweak),
    linesAbove_one (show 10 * (s.cleared t).nat 0x2B010D ≤ x.level + 30 from hstands), trackedNotches_near (decide_eq_true hnear)]
  refine Only.rule ((Dev.setInput_effect _ _ _).mono (by decide)) ⟨rfl, ?_, ?_⟩
  · exact (congrArg GnssInput.notches (Dev.setInput_same _ _ _)).trans (notchesAfter_idle _ (by simp))
  · exact (congrArg GnssInput.overflow (Dev.setInput_same _ _ _)).trans rfl

theorem notchSearchReleases_holds : Rules.notchSearchReleases.Holds := by
  refine Rule.holds_logic _ (fun a _ => a.2.2) (fun a _ d => notchSearchEff d a.1 []) (by rintro t c s rfl -; rfl)
    (fun _ _ h => h.1.1) ?_
  rintro ⟨n, k, t⟩ s hp
  dsimp only at hp
  obtain ⟨⟨-, hrunning⟩, hclock, hone, hdue⟩ := hp
  have hone' : (s.cleared t).gnss.inputs[n].notches = [k] := hone
  rw [notchSearchEff_due (d := s.cleared t) hrunning hclock (undue_of_due10 hdue) List.Pairwise.nil, hone']
  refine Only.rule ((Dev.setInput_effect _ _ _).mono (by decide)) ⟨rfl, ?_, ?_⟩
  · exact (congrArg GnssInput.overflow (Dev.setInput_same _ _ _)).trans rfl
  · refine (congrArg GnssInput.notches (Dev.setInput_same _ _ _)).trans ?_
    refine Eq.trans ?_ (trackedNotches_gone (s.nowAt t) k)
    refine notchesAfter_idle _ ((List.length_filter_le _ _).trans ?_)
    simp

/-! ### Sample clocks -/

theorem sampleClockLoss_holds : Rules.sampleClockLoss.Holds := by
  refine Rule.holds_logic _ (fun a _ => a.2) (fun a _ d => sampleClockLossEff d a.1) (by rintro t c s rfl -; rfl) (fun _ _ h => h.1) ?_
  rintro ⟨n, t⟩ s ⟨-, hrunning⟩
  have heff : sampleClockLossEff (s.cleared t) n =
      ((s.cleared t).setInput n fun x => { x with clock := false, clockLost := true }).baseband fun g => { g with
        channels := g.channels.map fun (c : GnssChannel) => if c.band = n.val && c.state ≠ 0 then c.release (s.nowAt t) else c } := by
    rw [sampleClockLossEff]
    exact if_neg (by rw [show (s.cleared t).gnss.running = true from hrunning]; simp)
  rw [heff]
  refine Only.rule (Effect.only ((Dev.setInput_effect _ _ _).mono (by decide)) (Dev.baseband_effect _ _) (by decide))
    ⟨rfl, ?_, fun k hk => ?_, fun k hk => ?_⟩
  · exact congrArg GnssInput.clock (Dev.setInput_same (s.cleared t) n fun x => { x with clock := false, clockLost := true })
  · have hchan : (((s.cleared t).setInput n fun x => { x with clock := false, clockLost := true }).baseband fun g => { g with
        channels := g.channels.map fun (c : GnssChannel) => if c.band = n.val && c.state ≠ 0 then c.release (s.nowAt t) else c }).gnss.channels[(k : Nat)] =
        if (Rules.tracker s.dev k).band = n.val && (Rules.tracker s.dev k).state ≠ 0 then (Rules.tracker s.dev k).release (s.nowAt t)
        else Rules.tracker s.dev k := Vector.getElem_map _ _
    refine (congrArg GnssChannel.state hchan).trans ?_
    split
    · rfl
    · rename_i hidle
      exact of_not_not fun h => hidle (Bool.and_eq_true_iff.mpr ⟨decide_eq_true hk, decide_eq_true h⟩)
  · refine (Vector.getElem_map _ _).trans (if_neg ?_)
    exact fun h => hk (of_decide_eq_true (Bool.and_eq_true_iff.mp h).1)

/-- R339: with no satellite in view none is allotted. -/
theorem channelAllocationEff_none {d : Dev} (hrunning : d.gnss.running = true) : channelAllocationEff d [] =
    d.baseband fun g => { g with channels := d.gnss.channels.map (d.keepChannel []), allottedAt := some d.time.now } := by
  have hlist : d.listed [] = [] := rfl
  rw [channelAllocationEff]
  simp only [hrunning, hlist, Bool.not_true, Bool.false_eq_true, if_false, List.foldl_nil, ite_self]

theorem sampleClockReturn_holds : Rules.sampleClockReturn.Holds := by
  refine Rule.holds_logic _ (fun a _ => a.2) (fun a _ d => sampleClockReturnEff d a.1 true []) (by rintro t c s rfl -; rfl)
    (fun _ _ h => h.1.1) ?_
  rintro ⟨n, t⟩ s ⟨⟨-, hrunning⟩, hlost⟩
  obtain ⟨x, hx⟩ : ∃ x, x = ((s.cleared t).setInput n fun x => { x with clock := true, clockLost := false }).baseband fun g =>
    { g with channels := g.channels.map fun (c : GnssChannel) => if c.band = n.val then {} else c } := ⟨_, rfl⟩
  have heff : sampleClockReturnEff (s.cleared t) n true [] = channelAllocationEff (x.runScript true) [] := by
    rw [sampleClockReturnEff, hx]
    exact if_neg (by
      rw [show (s.cleared t).gnss.running = true from hrunning, show (s.cleared t).gnss.inputs[n].clock = false from hlost]
      simp)
  have hxeffect : Only [.gnss] (s.cleared t) x := by
    rw [hx]
    exact Effect.only (Dev.setInput_effect _ _ _) (Dev.baseband_effect _ _) (by decide)
  rw [heff, channelAllocationEff_none rfl]
  refine Effect.rule (Effect.only (Effect.trans (hxeffect.mono (by decide)) ((Dev.runScript_verified_effect x).mono (by decide)
    (fun _ h => absurd h Bool.false_ne_true) fun _ h => h)) (Dev.baseband_effect _ _) (by decide)) (fun _ h => unsent_of_isFrontEnd _ h)
    ⟨?_, ?_, rfl, fun k hk => ?_⟩
  · rw [hx]
    rfl
  · have hclock : x.gnss.inputs[(n : Nat)].clock = true := by
      rw [hx]
      exact congrArg GnssInput.clock (Dev.setInput_same (s.cleared t) n fun x => { x with clock := true, clockLost := false })
    exact (congrArg GnssInput.clock (Vector.getElem_map _ _)).trans hclock
  · have hfree : x.gnss.channels[(k : Nat)] = {} := by
      rw [hx]
      exact (Vector.getElem_map _ _).trans (if_pos hk)
    refine (Vector.getElem_map _ _).trans ?_
    rw [show (x.runScript true).gnss.channels[(k : Nat)] = {} from hfree]
    rfl

/-! ### The seed wait -/

theorem seedWaitEarly_holds : Rules.seedWaitEarly.Holds := by
  refine Rule.holds_logic _ (fun t _ => t) (fun _ _ d => if d.gnss.waits && d.gnss.startedAt + 1000 * d.nat 0x2B000D ≤ d.time.now then
    (seedWaitExpiryEff (d.baseband fun g => { g with waits := false })).releaseTable else d) (by rintro t c s rfl -; rfl)
    (fun _ _ h => h.1) ?_
  rintro t s ⟨-, hearly⟩
  have hnot : ¬ ((s.cleared t).gnss.waits && decide ((s.cleared t).gnss.startedAt + 1000 * (s.cleared t).nat 0x2B000D ≤
      (s.cleared t).time.now)) = true := by
    rw [Bool.and_eq_true_iff, decide_eq_true_iff]
    rintro ⟨hwaits, hdue⟩
    rcases hearly with hnone | hbefore
    · exact Bool.false_ne_true (hnone.symm.trans hwaits)
    · exact absurd hdue (Nat.not_le.mpr hbefore)
  rw [if_neg hnot]
  exact Only.rule (Effect.refl _ _ _ _) rfl

theorem seedWaitExpiry_holds : Rules.seedWaitExpiry.Holds := by
  refine Rule.holds_logic _ (fun t _ => t) (fun _ _ d => if d.gnss.waits && d.gnss.startedAt + 1000 * d.nat 0x2B000D ≤ d.time.now then
    (seedWaitExpiryEff (d.baseband fun g => { g with waits := false })).releaseTable else d) (by rintro t c s rfl -; rfl)
    (fun _ _ h => h.1) ?_
  rintro t s ⟨-, hwaits, hdue, hlead, hunseeded, hstopped, htable, hrtc⟩
  have hdue' : ((s.cleared t).gnss.waits && decide ((s.cleared t).gnss.startedAt + 1000 * (s.cleared t).nat 0x2B000D ≤
      (s.cleared t).time.now)) = true := Bool.and_eq_true_iff.mpr ⟨hwaits, decide_eq_true hdue⟩
  have heff : seedWaitExpiryEff ((s.cleared t).baseband fun g => { g with waits := false }) =
      ((s.cleared t).baseband fun g => { g with waits := false }).seed 0 3 1 := by
    refine (if_pos ?_).trans (if_neg ?_)
    · exact Bool.and_eq_true_iff.mpr ⟨Bool.and_eq_true_iff.mpr ⟨hlead, congrArg not hunseeded⟩, congrArg not hstopped⟩
    · exact fun h => Bool.false_ne_true (hrtc.symm.trans h)
  rw [if_pos hdue', heff, Dev.releaseTable_unheld (by exact htable)]
  exact Only.rule (Effect.only ((Dev.baseband_effect _ _).mono (by decide)) (Dev.seed_effect _ _ _ _) (by decide))
    ⟨rfl, rfl, Dev.chain_seed _ _ _ _, rfl, rfl, rfl⟩

end Sys2Proof.Machine

namespace Sys2Proof

/-- Settles O42, by a lemma for each rule. -/
theorem basebandStarts : Obligations.BasebandStarts :=
  ⟨Machine.basebandStart_holds, Machine.basebandStartUnverified_holds, Machine.scriptRetryEarly_holds,
    Machine.scriptRetry_holds, Machine.scriptRetryFails_holds, Machine.agcRoundEarly_holds, Machine.agcRound_holds,
    Machine.agcRoundHeld_holds, Machine.notchSearch_holds, Machine.notchSearchKeeps_holds,
    Machine.notchSearchReleases_holds, Machine.sampleClockLoss_holds, Machine.sampleClockReturn_holds,
    Machine.seedWaitEarly_holds, Machine.seedWaitExpiry_holds⟩

end Sys2Proof
end

