-- ==== Sys2Proof/Proofs/LinkMessages.lean ====
section
/-! SUPPORT. What a command hands to the link's data and management classes: it leaves at once, or waits in the queue of its
class (R292). -/

namespace Sys2Proof.Machine

/-! ### Queues -/

/-- R292: a message waits in the queue of the class on the port. -/
def Dev.Queued (d : Dev) (p : Port) (cls : Nat) (e : Emit) : Prop := ∃ o ∈ (d.getClass p cls).queue, o.emit = e

theorem ClassLink.mem_queue_push {c : ClassLink} {o : Outgoing} (now kind dest : Nat) (e : Emit) (h : o ∈ c.queue) :
    o ∈ (c.push now kind dest e).1.queue := by
  rw [ClassLink.push]
  split
  · exact h
  · exact List.mem_append_left _ h

/-- A message that does not leave at once waits. -/
theorem ClassLink.push_queued {c : ClassLink} {now kind dest : Nat} {e : Emit} (h : (c.push now kind dest e).2 = false) :
    ∃ o ∈ (c.push now kind dest e).1.queue, o.emit = e := by
  rw [ClassLink.push] at h ⊢
  split at h
  case isTrue => cases h
  case isFalse hfull =>
    rw [if_neg hfull]
    exact ⟨_, List.mem_append_right _ (List.mem_singleton_self _), rfl⟩

theorem Dev.Queued.pushed {d : Dev} {q : Port} {cls : Nat} {e : Emit} (h : d.Queued q cls e) (p : Port) (cls' kind' dest' : Nat)
    (e' : Emit) : (d.pushed p cls' kind' dest' e').Queued q cls e := by
  obtain ⟨o, ho, hmsg⟩ := h
  refine ⟨o, ?_, hmsg⟩
  rcases d.getClass_classLink p q cls' cls (fun _ => ((d.getClass p cls').push d.time.now kind' dest' e').1) with
    heq | ⟨hold, heq⟩ <;> rw [Dev.pushed, heq]
  · exact ho
  · exact ClassLink.mem_queue_push _ _ _ _ (hold ▸ ho)

/-- What waits stays while further messages are handed to the link. -/
theorem Dev.Queued.pushOut {q : Port} {cls : Nat} {e : Emit} : ∀ (l : List Emit) {d : Dev},
    d.Queued q cls e → (pushOut l d).2.Queued q cls e
  | [], _, h => h
  | e' :: r, d, h => by
    rw [Machine.pushOut]
    split
    · exact Dev.Queued.pushOut r h
    · split
      · exact Dev.Queued.pushOut r h
      · exact Dev.Queued.pushOut r (h.pushed _ _ _ _ _)

/-- What is handed to the link leaves, or waits. -/
theorem sent_or_queued_of_mem {e : Emit} : ∀ (l : List Emit) (d : Dev), e ∈ l →
    e ∈ (pushOut l d).1 ∨ ∃ p cls, (pushOut l d).2.Queued p cls e
  | [], _, h => by cases h
  | e' :: r, d, h => by
    rw [pushOut]
    cases d.route e' with
    | none =>
      rcases List.mem_cons.mp h with rfl | hr
      · exact .inl List.mem_cons_self
      · exact (sent_or_queued_of_mem r d hr).imp_left (List.mem_cons_of_mem _)
    | some x =>
      obtain ⟨cls, kind, dest⟩ := x
      dsimp only
      cases d.portTo dest with
      | none =>
        rcases List.mem_cons.mp h with rfl | hr
        · exact .inl List.mem_cons_self
        · exact (sent_or_queued_of_mem r d hr).imp_left (List.mem_cons_of_mem _)
      | some p =>
        dsimp only
        rcases List.mem_cons.mp h with rfl | hr
        · cases hleaves : ((d.getClass p cls).push d.time.now kind dest e).2
          · refine .inr ⟨p, cls, Dev.Queued.pushOut r (d := d.pushed p cls kind dest e) ?_⟩
            rw [Dev.Queued, Dev.pushed, Dev.getClass_classLink_same]
            exact ClassLink.push_queued hleaves
          · exact .inl List.mem_cons_self
        · refine (sent_or_queued_of_mem r (d.pushed p cls kind dest e') hr).imp_left fun hmem => ?_
          split
          · exact List.mem_cons_of_mem _ hmem
          · exact hmem

/-! ### Rules whose messages go by the link -/

theorem leaves_of_queued {d : Dev} {p : Port} {cls : Nat} {e : Emit} (h : d.Queued p cls e) : Rules.Leaves d e := by
  obtain ⟨o, ho, hmsg⟩ := h
  refine .inr ⟨portIx p, ?_⟩
  simp only [Dev.getClass] at ho
  split at ho
  · exact .inl (List.any_eq_true.mpr ⟨o, ho, decide_eq_true hmsg⟩)
  · exact .inr (List.any_eq_true.mpr ⟨o, ho, decide_eq_true hmsg⟩)

/-- R292: a message that no bus counts leaves with its command, or waits for its class. -/
theorem Dev.leaves_linkOut {d : Dev} (hcount : ∀ e ∈ d.out, busCounter e = none) {e : Emit} (he : e ∈ d.out) :
    Rules.Leaves d.linkOut e := by
  rw [Dev.linkOut, countOut_plain d.out d hcount]
  rcases sent_or_queued_of_mem d.out d he with hsent | ⟨p, cls, hqueued⟩
  · exact .inl hsent
  · exact leaves_of_queued (p := p) (cls := cls) hqueued

/-- R292: with no frame for a bus the link changes its own state, and what is sent. -/
theorem Dev.linkOut_eq {d : Dev} (hcount : ∀ e ∈ d.out, busCounter e = none) : ∃ l o, d.linkOut = { d with link := l, out := o } := by
  obtain ⟨k, hk⟩ := pushOut_frame d.out d
  refine ⟨k, (pushOut d.out d).1, ?_⟩
  rw [Dev.linkOut, countOut_plain d.out d hcount, hk]

/-- A rule whose command acts while the logic die runs, and sends by the link. -/
theorem Rule.holds_linked_logic {α : Type} (r : Rule α) (t : α → State → Nat) (f : α → State → Dev → Dev)
    (he : ∀ a c s, r.cmd a c → r.pre a s → exec c s = s.logic (t a s) (f a s)) (hr : ∀ a s, r.pre a s → Runs s)
    (hlink : .link ∈ r.parts)
    (h : ∀ a s, r.pre a s → (∀ e ∈ (f a s (s.cleared (t a s))).out, busCounter e = none) ∧
      Frame r.parts s.dev (f a s (s.cleared (t a s))) ∧ ObjFrame (r.objs a) s.dev (f a s (s.cleared (t a s))) ∧
      r.post a s (f a s (s.cleared (t a s))).linkOut) : r.Holds := by
  intro a c s hc hp
  obtain ⟨hcount, hframe, hobj, hpost⟩ := h a s hp
  refine ⟨{ s with dev := (f a s (s.cleared (t a s))).linkOut }, ?_, rfl, ?_, ?_, hpost⟩
  · rw [he a c s hc hp, State.logic_eq s _ _ (hr a s hp)]
    rfl
  · exact hframe.trans (Dev.linkOut_same _ _ hlink)
  · obtain ⟨l, o, hout⟩ := Dev.linkOut_eq hcount
    rw [hout]
    exact hobj

/-- What such a rule asks of its command, from what the command's operations may do to the cleared device. -/
theorem Effect.linked_rule {α : Type} {r : Rule α} {a : α} {s : State} {t : Nat} {b : Dev} {sent : Emit → Prop}
    (h : Effect r.parts (r.objs a) sent (s.cleared t) b) (hsent : ∀ e, sent e → busCounter e = none)
    (hpost : (∀ e ∈ b.out, busCounter e = none) → r.post a s b.linkOut) :
    (∀ e ∈ b.out, busCounter e = none) ∧ Frame r.parts s.dev b ∧ ObjFrame (r.objs a) s.dev b ∧ r.post a s b.linkOut := by
  have hcount : ∀ e ∈ b.out, busCounter e = none := fun e he => (h.out e he).elim (fun hmem => by simp at hmem) (hsent e)
  exact ⟨hcount, (s.cleared_same t _).trans h.frame, h.obj, hpost hcount⟩

end Sys2Proof.Machine
end

