-- ==== Sys2Proof/Proofs/Sweeps.lean ====
section
/-! PROOF. Sweeps and their steps (R325, R326). -/

namespace Sys2Proof.Machine

/-! ### A device's own step -/

theorem Dev.startStep_outputs {d : Dev} {batch : Nat} : d.startStep 2 batch =
    { d with
      swp := { d.swp with step := 1, result := [], stepKind := 2, stepBatch := batch, stepAt := d.chain, shape := none }
      valve := { d.valve with channels := d.valve.channels.map fun c => { c with testedAt := none } }
      lsw := { d.lsw with switches := d.lsw.switches.map fun c => { c with testedAt := none } } } := rfl

theorem Dev.startStep_shape {d : Dev} {batch : Nat} : d.startStep 3 batch =
    { d with swp := { d.swp with step := 1, result := [], stepKind := 3, stepBatch := batch, stepAt := d.chain, shape := none } } := rfl

/-- R325: a step of a kind that runs no output tests touches no decision state. -/
theorem Dev.startStep_effect (d : Dev) {kind : Nat} (h : kind = 2 ∨ kind = 3) (batch : Nat) :
    Only [.swp, .valve, .lsw] d (d.startStep kind batch) := by
  rcases h with rfl | rfl
  · rw [Dev.startStep_outputs]
    exact Effect.of_blank rfl rfl rfl
  · rw [Dev.startStep_shape]
    exact Effect.of_blank rfl rfl rfl

theorem Dev.startStep_swp (d : Dev) {kind : Nat} (h : kind = 2 ∨ kind = 3) (batch : Nat) : (d.startStep kind batch).swp =
    { d.swp with step := 1, result := [], stepKind := kind, stepBatch := batch, stepAt := d.chain, shape := none } := by
  rcases h with rfl | rfl
  · rw [Dev.startStep_outputs]
  · rw [Dev.startStep_shape]

theorem Dev.startStep_jrn (d : Dev) {kind : Nat} (h : kind = 2 ∨ kind = 3) (batch : Nat) : (d.startStep kind batch).jrn = d.jrn := by
  rcases h with rfl | rfl
  · rw [Dev.startStep_outputs]
  · rw [Dev.startStep_shape]

/-! ### A sweep over one device -/

theorem Dev.resumeNext_none {d : Dev} {e : SweepEntry} (hrecord : d.swp.record = [e]) (h : e.outcome ≠ 2) : d.resumeNext = none := by
  rw [Dev.resumeNext, hrecord, List.filter_cons_of_neg (by simp [h])]
  rfl

/-- R325: the sweep turns to the device that waits for its step, here the lead itself. -/
theorem Dev.sweepNext_own {d : Dev} {e : SweepEntry} (hcurrent : d.swp.current = none) (hstate : d.swp.state = 1)
    (hrecord : d.swp.record = [e]) (hwaits : e.outcome = 0) (hown : e.position = d.position) :
    d.sweepNext = ({ d with swp := { d.swp with
      current := some e.position
      record := [{ e with attempts := min 255 (e.attempts + 1), start := d.chain }] } } : Dev).startStep d.swp.kind d.swp.batch := by
  rw [Dev.sweepNext, if_neg (by simp [hcurrent, hstate]), Dev.resumeNext_none hrecord (by simp [hwaits]), hrecord,
    List.find?_cons_of_pos (by simp [hwaits])]
  simp only [Dev.deliverStep, Dev.sweepEntry, hrecord, List.map_cons, List.map_nil, if_pos]
  exact if_pos hown

/-- R325: with no device left the sweep is complete. -/
theorem Dev.sweepNext_complete {d : Dev} {e : SweepEntry} (hcurrent : d.swp.current = none) (hstate : d.swp.state = 1)
    (hrecord : d.swp.record = [e]) (hdone : e.outcome ≠ 0) (hskip : e.outcome ≠ 2) :
    d.sweepNext = { d with swp := { d.swp with state := 3 } } := by
  rw [Dev.sweepNext, if_neg (by simp [hcurrent, hstate]), Dev.resumeNext_none hrecord hskip, hrecord,
    List.find?_cons_of_neg (by simp [hdone])]
  rfl

/-- R326: the entry of a device whose first step has ended. -/
def endedEntry (e : SweepEntry) (ok : Bool) (path : Nat) (result : List Byte) (now : Nat) : SweepEntry :=
  { e with outcome := if ok then 1 else 3, path := path, code := leNat (result.take 2), stop := now }

/-- R325, R326: the last step of a sweep ends: its entry has the outcome, and the sweep is complete. -/
theorem Dev.sweepEnd_last {d : Dev} {e : SweepEntry} (hstate : d.swp.state = 1) (hrecord : d.swp.record = [e])
    (hwaits : e.outcome = 0) (ok : Bool) (result : List Byte) :
    d.sweepEnd e.position ok result = { d with swp := { d.swp with
      current := none, state := 3, record := [endedEntry e ok (d.pathByte e.position) result d.chain] } } := by
  rw [Dev.sweepEnd]
  have hentry : d.swp.record.map (fun x : SweepEntry => if x.position = e.position then { x with
      outcome := if !ok then 3 else if x.outcome = 2 then 4 else 1, path := d.pathByte e.position
      code := leNat (result.take 2), stop := d.chain } else x) = [endedEntry e ok (d.pathByte e.position) result d.chain] := by
    simp only [hrecord, List.map_cons, List.map_nil, if_pos, endedEntry, hwaits]
    cases ok <;> rfl
  simp only [Dev.sweepEntry, hentry]
  refine (Dev.sweepNext_complete (e := endedEntry e ok (d.pathByte e.position) result d.chain) ?_ ?_ ?_ ?_ ?_).trans ?_
  · rfl
  · exact hstate
  · rfl
  · cases ok <;> simp [endedEntry]
  · cases ok <;> simp [endedEntry]
  · rfl

/-! ### Starting and cancelling a sweep -/

theorem map_present_own {m : Nat} (h : m = 1) :
    ((List.range 32).filter fun p => m.testBit p).map (fun p => ({ position := p } : SweepEntry)) = [{ position := 0 }] := by
  subst h
  decide

/-- R325: a sweep over the lead alone has turned to it. -/
def Dev.sweepBegun (d : Dev) (kind batch : Nat) : Dev :=
  { d with swp := { d.swp with
    kind := kind, batch := batch, state := 1, current := some 0, cancel := false
    record := [{ position := 0, attempts := 1, start := d.chain }] } }

theorem Dev.sweepBegun_effect (d : Dev) (kind batch : Nat) : Only [.swp] d (d.sweepBegun kind batch) := Effect.of_blank rfl rfl rfl

theorem sweepStartAct_own {d : Dev} (hmap : d.seq.map = 1) (hown : d.position = 0) (kind batch : Nat) :
    sweepStartAct kind batch d = (d.sweepBegun kind batch).startStep kind batch := by
  rw [sweepStartAct]
  dsimp only
  rw [map_present_own hmap]
  exact Dev.sweepNext_own (e := { position := 0 }) rfl rfl rfl rfl hown.symm

theorem sweepStartState_free {d : Dev} {kind : Nat} (hkind : kind = 2 ∨ kind = 3) (hrun : d.swp.state ≠ 1) (hstop : d.swp.state ≠ 2) :
    sweepStartState d kind = none := by
  rcases hkind with rfl | rfl <;> simp [sweepStartState, Dev.sweepAllowed, hrun, hstop]

theorem sweepStart_holds : Rules.sweepStart.Holds := by
  refine Rule.holds_logicNow _ (fun a _ d => d.writeObject .host 0x2A2001 (.bytes (stepBytes a.1 a.2)) false
    (sweepStartState d a.1) (sweepStartAct a.1 a.2)) (by rintro n c s rfl -; rfl) (fun _ _ h => h.1.1) ?_
  rintro ⟨kind, batch⟩ s hp
  dsimp only at hp
  obtain ⟨hmay, -, hkind, hrun, hstop, hmap, hown, -⟩ := hp
  have hstate : sweepStartState (s.cleared s.dev.time.now) kind = none := sweepStartState_free hkind hrun hstop
  rw [hstate, Dev.writeObject_host_action hmay rfl rfl rfl rfl (hostPayload_write (by decide) _) (k := 3) rfl]
  obtain ⟨x, hx⟩ : ∃ x, x = (s.cleared s.dev.time.now).hostTakes 3 (.write 0x2A2001 (.bytes (stepBytes kind batch))) := ⟨_, rfl⟩
  have hxmap : x.seq.map = 1 := by
    rw [hx]
    exact hmap
  have hxown : x.position = 0 := by
    rw [hx]
    exact hown
  have hact : sweepStartAct kind batch x = (x.sweepBegun kind batch).startStep kind batch := sweepStartAct_own hxmap hxown kind batch
  rw [← hx, hact]
  refine Effect.host_rule (t := s.dev.time.now) (k := 3) (p := .write 0x2A2001 (.bytes (stepBytes kind batch))) ?_ (by decide) rfl ⟨?_, ?_⟩
  · rw [hx]
    exact ((Effect.refl _ _ _ _).only (Dev.sweepBegun_effect _ _ _) (by decide)).only (Dev.startStep_effect _ hkind batch) (by decide)
  · refine hostTook_of_hostAnswers (t := s.dev.time.now) (by decide) ?_ ?_
    all_goals rw [Dev.startStep_jrn _ hkind, hx]; rfl
  · refine (Dev.startStep_swp _ hkind _).trans ?_
    rw [hx, State.cleared_present]
    rfl

/-- R399: a sweep start that its state check refuses is aborted, counted and recorded. -/
theorem Dev.sweepStart_refused {s : State} {kind batch c : Nat} (hmay : Rules.HostMay s 0x2A2001 (.bytes (stepBytes kind batch)))
    (t : Nat) (hstate : sweepStartState (s.cleared t) kind = some c) :
    (s.cleared t).writeObject .host 0x2A2001 (.bytes (stepBytes kind batch)) false (sweepStartState (s.cleared t) kind)
      (sweepStartAct kind batch) = ((s.cleared t).recordAbort .host 0x2A2001 c).hostAnswers (s.dev.nat 0x110003) (.aborted c) := by
  rw [hstate]
  exact Dev.writeObject_host_refused hmay rfl rfl t c _ _

theorem Dev.refused_effect (d : Dev) (a q c : Nat) :
    Effect [] (among [0x110003, 0x103004, 0x103005, 0x103006]) isAnswer d ((d.recordAbort .host a c).hostAnswers q (.aborted c)) :=
  ((Dev.recordAbort_effect _ _ _ _).mono (by decide) (by simp +contextual [among]) fun _ h => h.elim).trans
    ((Dev.hostAnswers_effect _ _ _).mono (by decide) (by simp +contextual [among]) fun _ h => h)

theorem Dev.refused_code (d : Dev) (a q c : Nat) :
    ((d.recordAbort .host a c).hostAnswers q (.aborted c)).int 0x103005 = c :=
  (Dev.hostAnswers_int _ _ _ (by decide)).trans (by simp [Dev.recordAbort, Dev.int_put])

theorem Dev.refused_count (d : Dev) (a q c : Nat) :
    ((d.recordAbort .host a c).hostAnswers q (.aborted c)).int 0x103004 = (d.int 0x103004 + 1) % 2 ^ 32 :=
  (Dev.hostAnswers_int _ _ _ (by decide)).trans (by simp [Dev.recordAbort, Dev.bump, Dev.int_put])

theorem sweepStartRunning_holds : Rules.sweepStartRunning.Holds := by
  refine Rule.holds_logicNow _ (fun a _ d => d.writeObject .host 0x2A2001 (.bytes (stepBytes a.1 a.2)) false
    (sweepStartState d a.1) (sweepStartAct a.1 a.2)) (by rintro n c s rfl -; rfl) (fun _ _ h => h.1.1) ?_
  rintro ⟨kind, batch⟩ s hp
  dsimp only at hp
  obtain ⟨hmay, -, hlow, hhigh, hrun⟩ := hp
  have hstate : sweepStartState (s.cleared s.dev.time.now) kind = some 0x08000022 := by
    have hkind : kind ≠ 0 ∧ ¬ 3 < kind := by omega
    simp [sweepStartState, hkind, hrun]
  rw [Dev.sweepStart_refused hmay _ hstate]
  exact Effect.rule (Dev.refused_effect _ _ _ _) (fun _ h => unsent_of_isAnswer _ h)
    ⟨Dev.refused_code _ _ _ _, Dev.refused_count _ _ _ _⟩

theorem sweepStartWorking_holds : Rules.sweepStartWorking.Holds := by
  refine Rule.holds_logicNow _ (fun b _ d => d.writeObject .host 0x2A2001 (.bytes (stepBytes 1 b)) false
    (sweepStartState d 1) (sweepStartAct 1 b)) (by rintro n c s rfl -; rfl) (fun _ _ h => h.1.1) ?_
  rintro batch s hp
  dsimp only at hp
  obtain ⟨hmay, -, hwork⟩ := hp
  have hstate : sweepStartState (s.cleared s.dev.time.now) 1 = some 0x08000022 := by
    simp [sweepStartState, Dev.sweepAllowed, hwork]
  rw [Dev.sweepStart_refused hmay _ hstate]
  exact Effect.rule (Dev.refused_effect _ _ _ _) (fun _ h => unsent_of_isAnswer _ h) (Dev.refused_code _ _ _ _)

theorem sweepCancel_holds : Rules.sweepCancel.Holds := by
  refine Rule.holds_logicNow _ (fun _ _ d => d.writeObject .host 0x2A2004 (.num 1) false none sweepCancelAct)
    (by rintro n c s rfl -; rfl) (fun _ _ h => h.1.1) ?_
  rintro a s hp
  dsimp only at hp
  obtain ⟨hmay, -, hrun⟩ := hp
  have hact : sweepCancelAct ((s.cleared s.dev.time.now).hostTakes 3 (.write 0x2A2004 (.num 1))) =
      { (s.cleared s.dev.time.now).hostTakes 3 (.write 0x2A2004 (.num 1)) with swp := { s.dev.swp with cancel := true } } :=
    if_pos (by simp [Dev.hostTakes, Dev.journal, hrun])
  rw [Dev.writeObject_host_action hmay rfl rfl rfl rfl (hostPayload_write (by decide) _) (k := 3) rfl, hact]
  exact Effect.host_rule (t := s.dev.time.now) (k := 3) (p := .write 0x2A2004 (.num 1)) (Effect.of_blank rfl rfl rfl) (by decide) rfl
    ⟨hostTook_of_hostAnswers (t := s.dev.time.now) (by decide) rfl rfl, rfl⟩

/-! ### Requests of the lead -/

theorem Dev.journal_effect (d : Dev) (e : JEntry) : Only [.jrn] d (d.journal e) := d.withJrn_effect _

/-- R375: the entry of a management write is in the group buffer, and its response waits for the group. -/
def Dev.mgmtTakes (d : Dev) (n : Fin 8) (k q : Nat) (p : Payload) : Dev :=
  let x := d.journal (d.entry k 0x14 q 0 (d.isLead && (k = 3 || k = 4)) p)
  { x with jrn := { x.jrn with waiting := x.jrn.waiting ++ [Ack.mk (.mgmt n) q 0 none 0] } }

theorem Dev.mgmtTakes_effect (d : Dev) (n : Fin 8) (k q : Nat) (p : Payload) : Only [.jrn] d (d.mgmtTakes n k q p) :=
  (d.journal_effect _).only (Dev.withJrn_effect _ _) fun _ h => h

/-- R388: a step request of the aggregator that nothing refuses. -/
theorem Dev.writeObject_stepRequest {d : Dev} (hrun : d.power.run = .running) {n : Fin 8} {v : Val}
    (hcheck : writeCheck d (.mgmt n) 0x2A2101 v = none) (hbusy : d.intakeBusy = false)
    (hfresh : seqFresh d (sourceOf d (.mgmt n), 0) (d.nextSeq (.mgmt n)) = true) (act : Dev → Dev) :
    d.writeObject (.mgmt n) 0x2A2101 v false none act =
      act (d.mgmtTakes n 3 (d.nextSeq (.mgmt n)) (.write 0x2A2101 v)) := by
  have hrun' : d.power.run ≠ .recovery := by
    rw [hrun]
    decide
  have hwrite : d.writeWith (.mgmt n) 0x2A2101 v (d.nextSeq (.mgmt n)) false none act =
      (.accepted, act (d.mgmtTakes n 3 (d.nextSeq (.mgmt n)) (.write 0x2A2101 v))) := by
    obtain ⟨r, hr, hauth, hkind, hchain, hentry⟩ : ∃ r, objRow 0x2A2101 = some r ∧ authenticated r 0x2A2101 = false ∧ r.kind = .wo ∧
        r.chain = false ∧ entryKind r 0x2A2101 = 3 := ⟨_, rfl, rfl, rfl, rfl, rfl⟩
    rw [Dev.writeWith, hcheck]
    simp only [hr, Option.any_some, hauth, Dev.spendTag, Bool.false_and, Bool.not_false, Bool.true_or, Bool.not_true,
      Bool.false_eq_true, if_false, hfresh, hbusy, hkind, hchain, hentry, Dev.applyWrite]
    simp [Dev.mgmtTakes, sourceOf]
  rw [Dev.writeObject]
  simp only [if_neg hrun', hwrite]
  rfl

theorem sweepStepRequest_holds : Rules.sweepStepRequest.Holds := by
  refine Rule.holds_logicNow _ (fun a _ d => d.writeObject (.mgmt a.1) 0x2A2101 (.bytes (stepBytes a.2.1 a.2.2)) false none
    fun d => d.startStep a.2.1 a.2.2) (by rintro n c s rfl -; rfl) (fun _ _ h => h.1) ?_
  rintro ⟨n, kind, batch⟩ s hp
  dsimp only at hp
  obtain ⟨hrun, hcheck, -, -, hbusy, hkind, hfresh⟩ := hp
  rw [Dev.writeObject_stepRequest (d := s.cleared s.dev.time.now) hrun hcheck hbusy hfresh]
  obtain ⟨x, hx⟩ : ∃ x, x = (s.cleared s.dev.time.now).mgmtTakes n 3 ((s.cleared s.dev.time.now).nextSeq (.mgmt n))
    (.write 0x2A2101 (.bytes (stepBytes kind batch))) := ⟨_, rfl⟩
  have htakes : Only [.jrn] (s.cleared s.dev.time.now) x := hx ▸ Dev.mgmtTakes_effect _ _ _ _ _
  have hvalve : x.valve = s.dev.valve := by
    rw [hx]
    rfl
  have hlsw : x.lsw = s.dev.lsw := by
    rw [hx]
    rfl
  have hswp : x.swp = s.dev.swp := by
    rw [hx]
    rfl
  have hchain : x.chain = s.dev.chain := by
    rw [hx, State.cleared_present]
    rfl
  rw [← hx]
  refine Only.rule ((htakes.mono (by decide)).trans ((Dev.startStep_effect x hkind batch).mono (by decide))) ⟨?_, ?_⟩
  · refine (Dev.startStep_swp x hkind batch).trans ?_
    rw [hswp, hchain]
  · rintro (rfl : kind = 2)
    rw [Dev.startStep_outputs]
    simp [hvalve, hlsw]

/-! ### Steps end -/

theorem Dev.stepOver_of {s : State} {t : Nat} (h : Rules.StepOver s t) : (s.cleared t).stepOver = true := by
  rcases h with ⟨hkind, hdue⟩ | ⟨hkind, hshape⟩
  · rw [Dev.stepOver, State.cleared_swp, if_neg (by simp [hkind]), if_pos hkind, State.cleared_chain]
    exact decide_eq_true hdue
  · rw [Dev.stepOver, if_neg (by simp [hkind]), if_neg (by simp [hkind])]
    exact Option.isSome_iff_ne_none.mpr hshape

theorem stepCompleteEff_over {d : Dev} (hstep : d.swp.step = 1) (hover : d.stepOver = true) (ok : Bool) (shown : List Byte) :
    stepCompleteEff d ok shown =
      if d.swp.current = some d.position then (d.endStep ok (Rules.stepResult d shown)).sweepEnd d.position ok (Rules.stepResult d shown)
      else d.endStep ok (Rules.stepResult d shown) :=
  if_neg (by simp [hstep, hover])

theorem Dev.endStep_effect (d : Dev) (ok : Bool) (result : List Byte) : Only [.swp, .dec] d (d.endStep ok result) :=
  Effect.of_blank rfl rfl rfl

theorem sweepStepComplete_holds : Rules.sweepStepComplete.Holds := by
  refine Rule.holds_logic _ (fun a _ => a.2.2) (fun a _ d => stepCompleteEff d a.1 a.2.1) (by rintro n c s rfl -; rfl) (fun _ _ h => h.1) ?_
  rintro ⟨ok, shown, t⟩ s hp
  dsimp only at hp
  obtain ⟨-, hstep, hcurrent, hover⟩ := hp
  have heff : stepCompleteEff (s.cleared t) ok shown = (s.cleared t).endStep ok (Rules.stepResult (s.cleared t) shown) :=
    (stepCompleteEff_over (d := s.cleared t) hstep (Dev.stepOver_of hover) ok shown).trans (if_neg (by simp [hcurrent]))
  rw [heff]
  refine Only.rule (Dev.endStep_effect _ _ _) ⟨rfl, rfl, fun n => ?_⟩
  simp [Dev.endStep]

theorem sweepStepEarly_holds : Rules.sweepStepEarly.Holds := by
  refine Rule.holds_logic _ (fun a _ => a.2) (fun a _ d => stepCompleteEff d true a.1) (by rintro n c s rfl -; rfl) (fun _ _ h => h.1) ?_
  rintro ⟨shown, t⟩ s hp
  dsimp only at hp
  obtain ⟨-, hkind, hearly⟩ := hp
  have hover : (s.cleared t).stepOver = false := by
    rw [Dev.stepOver, State.cleared_swp, if_neg (by simp [hkind]), if_pos hkind, State.cleared_chain]
    exact decide_eq_false (Nat.not_le.mpr hearly)
  have heff : stepCompleteEff (s.cleared t) true shown = s.cleared t := if_pos (by simp [hover])
  rw [heff]
  exact Only.rule (Effect.refl _ _ _ _) rfl

theorem sweepStepLead_holds : Rules.sweepStepLead.Holds := by
  refine Rule.holds_logic _ (fun a _ => a.2.2.2) (fun a _ d => stepCompleteEff d a.1 a.2.1) (by rintro n c s rfl -; rfl)
    (fun _ _ h => h.1) ?_
  rintro ⟨ok, shown, e, t⟩ s hp
  dsimp only at hp
  obtain ⟨-, hstep, hcurrent, hrecord, hown, hwaits, hrun, hready, hforward, hover⟩ := hp
  have heff : stepCompleteEff (s.cleared t) ok shown =
      ((s.cleared t).endStep ok (Rules.stepResult (s.cleared t) shown)).sweepEnd (s.cleared t).position ok
        (Rules.stepResult (s.cleared t) shown) :=
    (stepCompleteEff_over (d := s.cleared t) hstep (Dev.stepOver_of hover) ok shown).trans (if_pos hcurrent)
  have hend := Dev.sweepEnd_last (d := (s.cleared t).endStep ok (Rules.stepResult (s.cleared t) shown)) hrun hrecord hwaits ok
    (Rules.stepResult (s.cleared t) shown)
  have hpath : ((s.cleared t).endStep ok (Rules.stepResult (s.cleared t) shown)).pathByte e.position = 0 := by
    have hready' : ((s.cleared t).endStep ok (Rules.stepResult (s.cleared t) shown)).nat 0x2A0001 = 1 := hready
    have hforward' : ((s.cleared t).endStep ok (Rules.stepResult (s.cleared t) shown)).ch.reversed = false := hforward
    have hown' : e.position = ((s.cleared t).endStep ok (Rules.stepResult (s.cleared t) shown)).position := hown
    rw [Dev.pathByte]
    simp only [if_pos hown', hforward', hready']
    rfl
  have hposition : (s.cleared t).position = e.position := hown.symm
  rw [heff, hposition, hend, hpath]
  refine Only.rule (Effect.of_blank rfl rfl rfl) ⟨rfl, rfl, ?_⟩
  rw [← State.cleared_chain]
  rfl

theorem sweepStepTimeout_holds : Rules.sweepStepTimeout.Holds := by
  refine Rule.holds_logic _ (fun a _ => a.2) (fun _ _ d => stepTimeoutEff d) (by rintro n c s rfl -; rfl) (fun _ _ h => h.1) ?_
  rintro ⟨e, t⟩ s hp
  dsimp only at hp
  obtain ⟨-, hcurrent, hrecord, hwaits, hkind, hdue, hrun⟩ := hp
  have heff : stepTimeoutEff (s.cleared t) = (s.cleared t).sweepEnd e.position false [] := by
    have hlimit : (s.cleared t).stepLimit = 1000000000 := by
      rw [Dev.stepLimit, State.cleared_swp, if_neg (by simp [hkind]), if_pos hkind]
    rw [stepTimeoutEff, State.cleared_swp, hcurrent]
    simp only [hrecord, hlimit, State.cleared_chain]
    rw [List.find?_cons_of_pos (by simp)]
    exact if_pos hdue
  rw [heff, Dev.sweepEnd_last (d := s.cleared t) hrun hrecord hwaits]
  exact Only.rule (Effect.of_blank rfl rfl rfl) ⟨rfl, rfl, rfl, rfl⟩

/-! ### Polling -/

theorem sweepPollEarly_holds : Rules.sweepPollEarly.Holds := by
  refine Rule.holds_logic _ (fun a _ => a) (fun _ _ d => sweepPollEff d) (by rintro n c s rfl -; rfl) (fun _ _ h => h.1) ?_
  rintro t s ⟨-, hearly⟩
  have heff : sweepPollEff (s.cleared t) = s.cleared t := by
    rw [sweepPollEff]
    cases hcurrent : (s.cleared t).swp.current with
    | none => rfl
    | some p => exact if_pos hearly
  rw [heff]
  exact Only.rule (Effect.refl _ _ _ _) rfl

/-- R388: a request to a device with none outstanding leaves at once. -/
theorem Dev.ask_first {d : Dev} (h : d.dic.remotes = []) (p a k : Nat) :
    d.ask p a k = ({ d with dic := { d.dic with
      nextTag := u16 (d.dic.nextTag + 1)
      remotes := [⟨p, ⟨d.dic.nextTag, 1, 3, a, 0, .num 0⟩, d.time.now, true, none, some (.internal k), true, none⟩] } } : Dev).send
        (.request p ⟨d.dic.nextTag, 1, 3, a, 0, .num 0⟩) := by
  rw [Dev.ask, h]
  rfl

theorem sweepPoll_holds : Rules.sweepPoll.Holds := by
  refine Rule.holds_linked_logic _ (fun a _ => a.2) (fun _ _ d => sweepPollEff d) (by rintro n c s rfl -; rfl) (fun _ _ h => h.1)
    (by decide) ?_
  rintro ⟨p, t⟩ s hp
  dsimp only at hp
  obtain ⟨-, hcurrent, hother, hremotes, -, hdue⟩ := hp
  obtain ⟨x, hx⟩ : ∃ x, x = { (s.cleared t) with swp := { s.dev.swp with polledAt := some (s.nowAt t) } } := ⟨_, rfl⟩
  have hxremotes : x.dic.remotes = [] := by
    rw [hx]
    exact hremotes
  have hearly : ((s.cleared t).swp.polledAt.any fun e => decide ((s.cleared t).time.now < e + 100000000)) = false := by
    rw [State.cleared_swp]
    cases hpolled : s.dev.swp.polledAt with
    | none => rfl
    | some e =>
      rw [hpolled, Option.all_some] at hdue
      rw [Option.any_some]
      exact decide_eq_false (Nat.not_lt.mpr (of_decide_eq_true hdue))
  have heff : sweepPollEff (s.cleared t) = x.ask p 0x2A2102 1 := by
    rw [sweepPollEff, State.cleared_swp, hcurrent]
    refine (if_neg (Bool.eq_false_iff.mp hearly)).trans ?_
    refine (if_neg hother).trans ?_
    rw [hx]
    rfl
  rw [heff, Dev.ask_first hxremotes]
  refine Effect.linked_rule (Effect.send (Effect.of_blank (b := { x with dic := _ }) (by subst hx; rfl) (by subst hx; rfl) (by subst hx; rfl)) rfl)
    (by rintro _ rfl; rfl) fun hcount => ⟨?_, ?_⟩
  · refine Dev.leaves_linkOut hcount ?_
    rw [hx]
    exact List.mem_append_right _ (List.mem_singleton_self _)
  · obtain ⟨l, o, hout⟩ := Dev.linkOut_eq hcount
    refine (congrArg Dev.swp hout).trans ?_
    rw [hx]
    rfl

end Sys2Proof.Machine

namespace Sys2Proof

/-- Settles O41, by a lemma for each rule. -/
theorem sweepsRun : Obligations.SweepsRun :=
  ⟨Machine.sweepStart_holds, Machine.sweepStartRunning_holds, Machine.sweepStartWorking_holds,
    Machine.sweepCancel_holds, Machine.sweepStepRequest_holds, Machine.sweepStepComplete_holds,
    Machine.sweepStepEarly_holds, Machine.sweepStepLead_holds, Machine.sweepPoll_holds, Machine.sweepPollEarly_holds,
    Machine.sweepStepTimeout_holds⟩

end Sys2Proof
end

