-- ==== Sys2Proof/Proofs/JournalGroups.lean ====
section
/-! PROOF. The journal: groups, checkpoints, mirrors and client slots (R375, R387, R388, R405, R408, R410, R417, R460). -/

namespace Sys2Proof.Machine

/-! ### What else Phase D writes, with nothing due -/

theorem Targets.same_of_idle {t : Targets} (hintake : t.intake = []) (hstore : t.store = []) :
    { t with intake := [], store := [] } = t := by
  cases t
  cases hintake
  cases hstore
  rfl

theorem Dev.targetsCommitted_idle {d : Dev} (hintake : d.tgt.intake = []) (hstore : d.tgt.store = []) : d.targetsCommitted = d := by
  have htgt : { d with tgt := { d.tgt with intake := [], store := [] } } = d := by rw [Targets.same_of_idle hintake hstore]
  refine Eq.trans ?_ htgt
  rw [Dev.targetsCommitted]
  simp only [Dev.targets, hintake, hstore, List.filter_nil, List.map_nil, List.foldl_nil, Dev.finishIntakes]

theorem Dev.offerApplied_idle {d : Dev} (h : d.tiles.records = []) : d.offerApplied = d := by
  have htiles : { d with tiles := { d.tiles with records := [] } } = d := by
    rw [← h]
  refine Eq.trans ?_ htiles
  rw [Dev.offerApplied]
  simp only [Dev.store, h, List.filter_nil, List.map_nil, List.foldl_nil]

theorem Dev.commitCounter_idle {d : Dev} (h : d.jrn.counterDue = 0) : d.commitCounter = d := if_pos h

theorem recorderEff_idle {d : Dev} (hbuffer : d.rcd.buffer = []) (hlost : d.rcd.lostPending = 0) (hclear : d.rcd.clearRing = none) :
    recorderEff d = { d with seq := { d.seq with recorderDue := false } } := by
  have hrcd : { d with rcd := { d.rcd with buffer := [] } } = d := by
    rw [← hbuffer]
  have hwrite : d.writeBuffer d.rcd.buffer 8192 = d := by
    rw [hbuffer]
    exact hrcd
  rw [recorderEff, hclear]
  dsimp only
  rw [if_pos hlost, hwrite]

theorem slotsEff_idle {d : Dev} (hcal : d.swap.calPending = []) (hslots : d.seq.slotsDue = false) (hlevel : d.nvm.level = true) :
    slotsEff d = d := by
  have hlive : d.slotLive = (d, slotShare) := if_pos (by simp [hslots])
  rw [slotsEff, hlive]
  dsimp only
  rw [show d.slotLevel slotShare = d from if_pos (by simp [hlevel])]
  exact if_pos (by simp [hcal])

theorem Dev.report_idle {d : Dev} (h : d.swap.announced = none) : d.report = d := by
  simp only [Dev.report, h]

/-- R448: the recorder's commit of the batch is done. -/
def Dev.recorderDone (d : Dev) : Dev := { d with seq := { d.seq with recorderDue := false } }

theorem Dev.recorderDone_effect (d : Dev) : Only [.seq] d d.recorderDone := Effect.of_blank rfl rfl rfl

/-- With no target work and no record due, Phase D goes from the group to the setting slots. -/
theorem groupEff_slots {d x : Dev} (hx : groupCommitEff d = x) (hintake : x.tgt.intake = []) (hstore : x.tgt.store = [])
    (hrecords : x.tiles.records = []) (hcounter : x.jrn.counterDue = 0) (hbuffer : x.rcd.buffer = []) (hlost : x.rcd.lostPending = 0)
    (hclear : x.rcd.clearRing = none) : groupEff d = (slotsEff x.recorderDone).report := by
  have htargets : (groupCommitEff d).targetsCommitted.offerApplied.commitCounter = x := by
    rw [hx, Dev.targetsCommitted_idle hintake hstore, Dev.offerApplied_idle hrecords, Dev.commitCounter_idle hcounter]
  have hrecorder : recorderEff x = x.recorderDone := recorderEff_idle hbuffer hlost hclear
  have hphase : groupEff d = (slotsEff (recorderEff (groupCommitEff d).targetsCommitted.offerApplied.commitCounter)).report := rfl
  rw [hphase, htargets, hrecorder]

/-- With nothing due after the group, Phase D leaves what the group leaves. -/
theorem groupEff_idle {d x : Dev} (hx : groupCommitEff d = x) (hquiet : Rules.QuietD x) : groupEff d = x.recorderDone := by
  obtain ⟨hintake, hstore, hrecords, hcal, hslots, hlevel, hcounter, hannounced, hbuffer, hlost, hclear⟩ := hquiet
  obtain ⟨z, hz⟩ : ∃ z, z = x.recorderDone := ⟨_, rfl⟩
  rw [groupEff_slots hx hintake hstore hrecords hcounter hbuffer hlost hclear, ← hz,
    slotsEff_idle (by rw [hz]; exact hcal) (by rw [hz]; exact hslots) (by rw [hz]; exact hlevel)]
  exact Dev.report_idle (by rw [hz]; exact hannounced)

/-! ### The group of a batch -/

theorem cleanLog_free {free : Nat} (h : 253952 ≤ free) (opens : List JEntry) (groups : List JGroup) (carried : List JEntry) :
    cleanLog opens free groups carried = (groups, carried) := by
  cases groups with
  | nil => rfl
  | cons g gs =>
    rw [cleanLog.eq_def]
    exact if_neg (by simp [Nat.not_lt.mpr h])

theorem Dev.forwardsCommitted_none {d : Dev} (h : d.dic.remotes = []) (entries : List JEntry) (mirror : Option Nat) :
    d.forwardsCommitted entries mirror = d := by
  have hdic : { d with dic := { d.dic with remotes := [] } } = d := by
    rw [← h]
  refine Eq.trans ?_ hdic
  rw [Dev.forwardsCommitted, h]
  rfl

theorem Dev.sendRemotes_none {d : Dev} (h : d.dic.remotes = []) : d.sendRemotes = d := by
  have hdic : { d with dic := { d.dic with remotes := [] } } = d := by
    rw [← h]
  refine Eq.trans ?_ hdic
  rw [Dev.sendRemotes, h]
  rfl

theorem Dev.releaseUnmirrored_none {d : Dev} (hheld : d.jrn.held = [])
    (h : (d.dic.remotes.any fun r : Remote => r.mirror.isSome) = false) : d.releaseUnmirrored = d :=
  if_pos (by simp only [hheld, h]; simp)

/-- R408: a group of one entry at the log head. -/
def Dev.groupOf (d : Dev) (e : JEntry) : JGroup := ⟨d.nvm.nextGroup, [e], groupStart d.nvm.logHead (16 + entryBytes e)⟩

/-- R408: the open half's one entry is in the log, as a group of its own. -/
def Dev.groupLogged (d : Dev) (e : JEntry) : Dev :=
  { d.draw with
    seq := { d.seq with journalDue := false }
    nvm := { d.nvm with
      groups := d.nvm.groups ++ [d.groupOf e], nextGroup := u32 (d.nvm.nextGroup + 1)
      logHead := (d.groupOf e).start + (16 + entryBytes e) }
    jrn := { d.jrn with
      openHalf := [], reserved := [], waiting := [], late := none
      writes := (d.seq.number, Config.groupWriteTime d.draws % 141) :: d.jrn.writes } }

/-- R408: and the objects that show the log follow. -/
def Dev.groupWritten (d : Dev) (e : JEntry) : Dev :=
  ((d.groupLogged e).put 0x320001 d.nvm.nextGroup).put 0x320002 ((d.groupLogged e).put 0x320001 d.nvm.nextGroup).freeLog

theorem Dev.groupLogged_effect (d : Dev) (e : JEntry) : Only [.seq, .nvm, .jrn] d (d.groupLogged e) := Effect.of_blank rfl rfl rfl

theorem Dev.groupWritten_effect (d : Dev) (e : JEntry) :
    Effect [.seq, .nvm, .jrn] (among [0x320001, 0x320002]) (fun _ => False) d (d.groupWritten e) :=
  (((Effect.refl _ _ _ d).only (d.groupLogged_effect e) (by decide)).put (by rfl) _).put (by rfl) _

/-- R417: acknowledgements wait for the standby's mirror of the present batch. -/
def Dev.holdAcks (d : Dev) (ws : List Ack) : Dev :=
  { d with jrn := { d.jrn with held := d.jrn.held ++ ws.map fun w => { w with mirror := some d.seq.number } } }

/-- R408, R417: what a written group releases, and what it holds for the standby. -/
def Dev.groupReleased (x : Dev) (e : JEntry) (acks : List Ack) : Dev :=
  if x.hasStandby then
    ((x.forwardsCommitted [e] (some x.seq.number)).releaseAcks (acks.filter fun w => !outsideChain w.acc)).holdAcks
      (acks.filter fun w => outsideChain w.acc)
  else ((x.forwardsCommitted [e] none).releaseUnmirrored.releaseAcks acks).sendRemotes

/-- R408: the group of one entry, and what is released with it. -/
theorem groupCommitEff_one {d : Dev} {e : JEntry} (hlate : d.jrn.late = none) (hfree : 253952 ≤ d.freeLog)
    (hopen : d.jrn.openHalf = [e]) (hreserved : d.jrn.reserved = []) :
    groupCommitEff d = (d.groupWritten e).groupReleased e d.jrn.waiting := by
  rw [groupCommitEff, cleanLog_free hfree]
  simp only [hlate, hopen, hreserved, Option.getD_none, List.length_cons, List.length_nil, List.take_length, List.take_succ_cons, List.take_nil,
    List.append_nil, reduceCtorEq, if_false, List.drop_length, List.drop_succ_cons, List.drop_nil, lt_irrefl, decide_false, Bool.or_false,
    Option.isSome_none, Bool.false_and, entriesBytes,
    List.foldl_cons, List.foldl_nil, Nat.zero_add]
  rfl

theorem QuietD.of_same {d x : Dev} (h : Rules.QuietD d) (htgt : x.tgt = d.tgt) (htiles : x.tiles = d.tiles) (hswap : x.swap = d.swap)
    (hslots : x.seq.slotsDue = d.seq.slotsDue) (hlevel : x.nvm.level = d.nvm.level) (hcounter : x.jrn.counterDue = d.jrn.counterDue)
    (hrcd : x.rcd = d.rcd) : Rules.QuietD x := by
  rw [Rules.QuietD, htgt, htiles, hswap, hslots, hlevel, hcounter, hrcd]
  exact h

theorem QuietD.put {d : Dev} (h : Rules.QuietD d) (a : Nat) (v : Int) : Rules.QuietD (d.put a v) := h

theorem Dev.groupWritten_quiet {d : Dev} (h : Rules.QuietD d) (e : JEntry) : Rules.QuietD (d.groupWritten e) :=
  QuietD.put (QuietD.put (QuietD.of_same (x := d.groupLogged e) h rfl rfl rfl rfl rfl rfl rfl) _ _) _ _

theorem Dev.groupWritten_dic (d : Dev) (e : JEntry) : (d.groupWritten e).dic = d.dic := by
  rw [Dev.groupWritten, Dev.put, Dev.putVal_dic, Dev.put, Dev.putVal_dic]
  rfl

theorem Dev.groupWritten_hasStandby (d : Dev) (e : JEntry) : (d.groupWritten e).hasStandby = d.hasStandby := by
  have hlead : (d.groupWritten e).isLead = d.isLead := (d.groupWritten_effect e).isLead (by rfl)
  have hstandby : (d.groupWritten e).nat 0x2A0008 = d.nat 0x2A0008 := (d.groupWritten_effect e).nat (by rfl)
  rw [Dev.hasStandby, hlead, hstandby]
  rfl

/-- R417: with no standby the group's acknowledgements are released. -/
theorem Dev.groupReleased_alone {x : Dev} (hstandby : x.hasStandby = false) (e : JEntry) (acks : List Ack) :
    x.groupReleased e acks = ((x.forwardsCommitted [e] none).releaseUnmirrored.releaseAcks acks).sendRemotes :=
  if_neg (by simp [hstandby])

/-- R375: the acknowledgement of an accepted host write. -/
def Dev.hostConfirmed (d : Dev) (q : Nat) : Dev :=
  ({ d with hp := { d.hp with completions := d.hp.completions ++ [(q, 0)] } } : Dev).put 0x110004 q

theorem Dev.hostConfirmed_effect (d : Dev) (q : Nat) : Effect [.hp] (among [0x110004]) (fun _ => False) d (d.hostConfirmed q) :=
  ((Effect.refl _ _ _ d).only (d.withHp_effect _) (by decide)).put (by rfl) _

theorem Dev.releaseAcks_host {d : Dev} {w : Ack} (hacc : w.acc = .host) (hok : w.outcome = 0) : d.releaseAcks [w] = d.hostConfirmed w.seq := by
  rw [Dev.releaseAcks, List.foldl_cons, List.foldl_nil, Dev.releaseAck, hacc, hok]
  rfl

theorem journalGroupCommit_holds : Rules.journalGroupCommit.Holds := by
  refine Rule.holds_logic _ (fun a _ => a.2.2) (fun _ _ d => groupEff d) (by rintro n c s rfl -; rfl) (fun _ _ h => h.1) ?_
  rintro ⟨e, w, t⟩ s hp
  dsimp only at hp
  obtain ⟨-, hquiet, hstandby, hlate, hfree, hopen, hreserved, hwaiting, hacc, hok, hheld, hremotes⟩ := hp
  obtain ⟨x, hx⟩ : ∃ x, x = (s.cleared t).groupWritten e := ⟨_, rfl⟩
  have hremotes' : x.dic.remotes = [] := by
    rw [hx]
    exact hremotes
  have hheld' : x.jrn.held = [] := by
    rw [hx]
    exact hheld
  have hstandby' : x.hasStandby = false := by
    rw [hx, Dev.groupWritten_hasStandby]
    exact hstandby
  have hquiet' : Rules.QuietD x := hx ▸ Dev.groupWritten_quiet (d := s.cleared t) hquiet e
  have heff : groupEff (s.cleared t) = (x.hostConfirmed w.seq).recorderDone := by
    refine groupEff_idle ?_ (QuietD.of_same hquiet' rfl rfl rfl rfl rfl rfl rfl)
    rw [groupCommitEff_one (d := s.cleared t) hlate hfree hopen hreserved, ← hx, Dev.groupReleased_alone hstandby',
      Dev.forwardsCommitted_none hremotes', Dev.releaseUnmirrored_none hheld' (by rw [hremotes']; rfl), State.cleared_jrn, hwaiting,
      Dev.releaseAcks_host hacc hok]
    exact Dev.sendRemotes_none hremotes'
  rw [heff]
  have hwritten : Effect [.nvm, .jrn, .hp, .seq] (among [0x110004, 0x320001, 0x320002]) (fun _ => False) (s.cleared t) x :=
    hx ▸ (Dev.groupWritten_effect _ _).mono (by decide) (by simp +contextual [among]) fun _ h => h
  refine Effect.rule ((hwritten.trans ((Dev.hostConfirmed_effect x _).mono (by decide) (by simp +contextual [among]) fun _ h => h)).only
    (Dev.recorderDone_effect _) (by decide)) (fun _ h => h.elim) ⟨?_, ?_, ?_, ?_, ?_, ?_, ?_, ?_, ?_⟩
  · rw [hx]
    rfl
  · rw [hx]
    rfl
  · rw [hx]
    rfl
  · rw [hx]
    rfl
  · rw [hx]
    rfl
  · rw [hx]
    rfl
  · rw [hx]
    rfl
  · exact storeGet_set_same _ _ _
  · refine (storeGet_set_other _ _ _ _ (by decide)).trans ?_
    rw [hx]
    exact (storeGet_set_other _ _ _ _ (by decide)).trans (storeGet_set_same _ _ _)

/-- R408: a batch with no entries writes no group. -/
theorem groupCommitEff_none {d : Dev} (hlate : d.jrn.late = none) (hfree : 253952 ≤ d.freeLog) (hopen : d.jrn.openHalf = [])
    (hreserved : d.jrn.reserved = []) (hheld : d.jrn.held = []) (hremotes : d.dic.remotes = []) :
    groupCommitEff d = { d with seq := { d.seq with journalDue := false } } := by
  have hjrn : { d.jrn with late := none } = d.jrn := by
    rw [← hlate]
  have hbegun : { d with seq := { d.seq with journalDue := d.jrn.late.isSome && d.seq.journalDue }, jrn := { d.jrn with late := none } } =
      { d with seq := { d.seq with journalDue := false } } := by
    rw [hjrn, hlate]
    rfl
  rw [groupCommitEff, cleanLog_free hfree]
  refine (if_pos (by simp [hopen, hreserved])).trans ?_
  rw [hbegun]
  exact Dev.releaseUnmirrored_none (d := { d with seq := { d.seq with journalDue := false } }) hheld (by simp [hremotes])

theorem journalGroupCommitNone_holds : Rules.journalGroupCommitNone.Holds := by
  refine Rule.holds_logic _ (fun t _ => t) (fun _ _ d => groupEff d) (by rintro n c s rfl -; rfl) (fun _ _ h => h.1) ?_
  rintro t s hp
  dsimp only at hp
  obtain ⟨-, hquiet, hlate, hfree, hopen, hreserved, hheld, hremotes⟩ := hp
  rw [groupEff_idle (groupCommitEff_none (d := s.cleared t) hlate hfree hopen hreserved hheld hremotes)
    (QuietD.of_same (d := s.cleared t) hquiet rfl rfl rfl rfl rfl rfl rfl)]
  exact Only.rule ((Dev.withSeq_effect _ _).trans (Dev.recorderDone_effect _)) rfl

theorem Dev.holdAcks_effect (d : Dev) (ws : List Ack) : Only [.jrn] d (d.holdAcks ws) := d.withJrn_effect _

theorem journalGroupCommitHeld_holds : Rules.journalGroupCommitHeld.Holds := by
  refine Rule.holds_logic _ (fun a _ => a.2.2) (fun _ _ d => groupEff d) (by rintro n c s rfl -; rfl) (fun _ _ h => h.1) ?_
  rintro ⟨e, w, t⟩ s hp
  dsimp only at hp
  obtain ⟨-, hquiet, hstandby, hlate, hfree, hopen, hreserved, hwaiting, hacc, hremotes⟩ := hp
  obtain ⟨x, hx⟩ : ∃ x, x = (s.cleared t).groupWritten e := ⟨_, rfl⟩
  have hremotes' : x.dic.remotes = [] := by
    rw [hx]
    exact hremotes
  have hstandby' : x.hasStandby = true := by
    rw [hx, Dev.groupWritten_hasStandby]
    exact hstandby
  have hquiet' : Rules.QuietD x := hx ▸ Dev.groupWritten_quiet (d := s.cleared t) hquiet e
  have heff : groupEff (s.cleared t) = (x.holdAcks [w]).recorderDone := by
    refine groupEff_idle ?_ (QuietD.of_same hquiet' rfl rfl rfl rfl rfl rfl rfl)
    rw [groupCommitEff_one (d := s.cleared t) hlate hfree hopen hreserved, ← hx, Dev.groupReleased, if_pos hstandby',
      Dev.forwardsCommitted_none hremotes', State.cleared_jrn, hwaiting, List.filter_cons_of_neg (by simp [hacc, outsideChain]),
      List.filter_cons_of_pos (by simp [hacc, outsideChain])]
    rfl
  rw [heff]
  have hwritten : Effect [.nvm, .jrn, .seq] (among [0x320001, 0x320002]) (fun _ => False) (s.cleared t) x :=
    hx ▸ (Dev.groupWritten_effect _ _).mono (by decide) (fun _ h => h) fun _ h => h
  refine Effect.rule ((hwritten.only (Dev.holdAcks_effect x _) (by decide)).only (Dev.recorderDone_effect _) (by decide)) (fun _ h => h.elim)
    ⟨?_, ?_, ?_, ?_⟩
  all_goals
    rw [hx]
    rfl

/-! ### Responses and forwards that wait for the group -/

theorem Dev.flushAnswers_two {d : Dev} {t u : Nat} {r q : DictResponse} (h : d.dic.answers = [(t, some r), (u, some q)]) :
    d.flushAnswers = (({ d with dic := { d.dic with answers := [] } } : Dev).send (.response r)).send (.response q) := by
  rw [Dev.flushAnswers, h]
  rfl

/-- R331, R388: the answer to a committed write leaves, and with it the answer that waited behind it. -/
theorem Dev.commitAnswer_two {d : Dev} {r q : DictResponse} (h : d.dic.answers = [(r.tag, none), (q.tag, some q)])
    (hother : q.tag ≠ r.tag) :
    d.commitAnswer r = (({ d with dic := { d.dic with answers := [] } } : Dev).send (.response r)).send (.response q) := by
  rw [Dev.commitAnswer, h, if_pos (by simp)]
  refine Dev.flushAnswers_two (t := r.tag) (u := q.tag) ?_
  simp [hother]

/-- R388: the two answers leave. -/
def Dev.answered (d : Dev) (r q : DictResponse) : Dev :=
  (({ d with dic := { d.dic with answers := [] } } : Dev).send (.response r)).send (.response q)

theorem Dev.answered_effect (d : Dev) (r q : DictResponse) :
    Effect [.dic] (fun _ => false) (fun e => e = .response r ∨ e = .response q) d (d.answered r q) :=
  (((Effect.refl _ _ _ d).only (d.withDic_effect _) fun _ h => h).send (.inl rfl)).send (.inr rfl)

theorem journalGroupCommitResponse_holds : Rules.journalGroupCommitResponse.Holds := by
  refine Rule.holds_linked_logic _ (fun a _ => a.2.2.2) (fun _ _ d => groupEff d) (by rintro n c s rfl -; rfl) (fun _ _ h => h.1)
    (by decide) ?_
  rintro ⟨e, ⟨n, seq, tag⟩, q, t⟩ s hp
  dsimp only at hp
  obtain ⟨-, hquiet, hstandby, hlate, hfree, hopen, hreserved, hheld, hremotes, hwaiting, hanswers, hother⟩ := hp
  obtain ⟨x, hx⟩ : ∃ x, x = (s.cleared t).groupWritten e := ⟨_, rfl⟩
  have hdic : x.dic = s.dev.dic := hx ▸ Dev.groupWritten_dic _ e
  have hremotes' : x.dic.remotes = [] := hdic ▸ hremotes
  have hheld' : x.jrn.held = [] := by
    rw [hx]
    exact hheld
  have hstandby' : x.hasStandby = false := by
    rw [hx, Dev.groupWritten_hasStandby]
    exact hstandby
  have hquiet' : Rules.QuietD x := hx ▸ Dev.groupWritten_quiet (d := s.cleared t) hquiet e
  have hrelease : x.releaseAcks [⟨.mgmt n, seq, 0, none, tag⟩] = x.answered ⟨tag, 0, 0, .num 0⟩ q :=
    Dev.commitAnswer_two (r := ⟨tag, 0, 0, .num 0⟩) (hdic ▸ hanswers) hother
  have heff : groupEff (s.cleared t) = (x.answered ⟨tag, 0, 0, .num 0⟩ q).recorderDone := by
    refine groupEff_idle ?_ (QuietD.of_same hquiet' rfl rfl rfl rfl rfl rfl rfl)
    rw [groupCommitEff_one (d := s.cleared t) hlate hfree hopen hreserved, ← hx, Dev.groupReleased_alone hstandby',
      Dev.forwardsCommitted_none hremotes', Dev.releaseUnmirrored_none hheld' (by rw [hremotes']; rfl), State.cleared_jrn, hwaiting,
      hrelease]
    exact Dev.sendRemotes_none hremotes'
  rw [heff]
  have hwritten : Effect [.nvm, .jrn, .dic, .seq, .link] (among [0x320001, 0x320002])
      (fun o => o = .response ⟨tag, 0, 0, .num 0⟩ ∨ o = .response q) (s.cleared t) x :=
    hx ▸ (Dev.groupWritten_effect _ _).mono (by decide) (fun _ h => h) fun _ h => h.elim
  refine Effect.linked_rule ((hwritten.trans ((Dev.answered_effect x _ q).mono (by decide) (by simp) fun _ h => h)).only
    (Dev.recorderDone_effect _) (by decide)) (by rintro _ (rfl | rfl) <;> rfl) fun hcount => ⟨?_, ?_, ?_⟩
  · exact Dev.leaves_linkOut hcount (by simp [Dev.recorderDone, Dev.answered, Dev.send])
  · exact Dev.leaves_linkOut hcount (by simp [Dev.recorderDone, Dev.answered, Dev.send])
  · obtain ⟨l, o, hsent⟩ := Dev.linkOut_eq hcount
    refine (congrArg Dev.dic hsent).trans ?_
    rw [← hdic]
    rfl

/-- R387: the forward that its group has committed leaves. -/
def Dev.forwarded (d : Dev) (r : Remote) : Dev :=
  ({ d with dic := { d.dic with remotes := [{ r with committed := true, sent := true, sentAt := d.time.now }] } } : Dev).send
    (.request r.position r.req)

theorem Dev.forwarded_effect (d : Dev) (r : Remote) :
    Effect [.dic] (fun _ => false) (· = .request r.position r.req) d (d.forwarded r) :=
  ((Effect.refl _ _ _ d).only (d.withDic_effect _) fun _ h => h).send rfl

theorem Dev.forwardsCommitted_one {d : Dev} {e : JEntry} {r : Remote} (hremotes : d.dic.remotes = [r]) (hwaits : r.committed = false)
    (hmirror : r.mirror = none) (hkind : e.kind = 12) (hposition : e.subKey = r.position) (hseq : e.seq = r.req.seq) :
    d.forwardsCommitted [e] none = { d with dic := { d.dic with remotes := [{ r with committed := true }] } } := by
  have hcommit : (!r.committed && [e].any fun e => e.kind = 12 && e.subKey = r.position && e.seq = r.req.seq) = true := by
    simp [hwaits, hkind, hposition, hseq]
  rw [Dev.forwardsCommitted, hremotes, List.map_cons, List.map_nil, if_pos hcommit, ← hmirror]

theorem Dev.sendRemotes_one {d : Dev} {r : Remote} (hremotes : d.dic.remotes = [{ r with committed := true }]) (hsent : r.sent = false)
    (hmirror : r.mirror = none) : d.sendRemotes = d.forwarded r := by
  have hleaves : (r.sent || !true || r.mirror.isSome || decide (outstanding r.position [] ≥ 4)) = false := by
    rw [hsent, hmirror]
    rfl
  rw [Dev.sendRemotes, hremotes]
  simp only [List.foldl_cons, List.foldl_nil, hleaves, Bool.false_eq_true, if_false, List.nil_append]
  rfl

theorem journalGroupCommitForward_holds : Rules.journalGroupCommitForward.Holds := by
  refine Rule.holds_linked_logic _ (fun a _ => a.2.2) (fun _ _ d => groupEff d) (by rintro n c s rfl -; rfl) (fun _ _ h => h.1)
    (by decide) ?_
  rintro ⟨e, r, t⟩ s hp
  dsimp only at hp
  obtain ⟨-, hquiet, hstandby, hlate, hfree, hopen, hreserved, hwaiting, hheld, hkind, hremotes, hwaits, hsent, hmirror, hposition, hseq⟩ := hp
  obtain ⟨x, hx⟩ : ∃ x, x = (s.cleared t).groupWritten e := ⟨_, rfl⟩
  have hdic : x.dic = s.dev.dic := hx ▸ Dev.groupWritten_dic _ e
  have hremotes' : x.dic.remotes = [r] := hdic ▸ hremotes
  have hheld' : x.jrn.held = [] := by
    rw [hx]
    exact hheld
  have hstandby' : x.hasStandby = false := by
    rw [hx, Dev.groupWritten_hasStandby]
    exact hstandby
  have hnow : x.time.now = s.nowAt t := by
    rw [hx]
    rfl
  have hquiet' : Rules.QuietD x := hx ▸ Dev.groupWritten_quiet (d := s.cleared t) hquiet e
  have heff : groupEff (s.cleared t) = (x.forwarded r).recorderDone := by
    refine groupEff_idle ?_ (QuietD.of_same hquiet' rfl rfl rfl rfl rfl rfl rfl)
    rw [groupCommitEff_one (d := s.cleared t) hlate hfree hopen hreserved, ← hx, Dev.groupReleased_alone hstandby',
      Dev.forwardsCommitted_one hremotes' hwaits hmirror hkind hposition hseq,
      Dev.releaseUnmirrored_none (d := { x with dic := { x.dic with remotes := [{ r with committed := true }] } }) hheld' (by simp [hmirror]),
      State.cleared_jrn, hwaiting]
    exact Dev.sendRemotes_one rfl hsent hmirror
  rw [heff]
  have hwritten : Effect [.nvm, .jrn, .seq, .dic, .link] (among [0x320001, 0x320002]) (· = .request r.position r.req) (s.cleared t) x :=
    hx ▸ (Dev.groupWritten_effect _ _).mono (by decide) (fun _ h => h) fun _ h => h.elim
  refine Effect.linked_rule ((hwritten.trans ((Dev.forwarded_effect x r).mono (by decide) (by simp) fun _ h => h)).only
    (Dev.recorderDone_effect _) (by decide)) (by rintro _ rfl; rfl) fun hcount => ⟨?_, ?_⟩
  · obtain ⟨l, o, hlinked⟩ := Dev.linkOut_eq hcount
    refine (congrArg (fun d : Dev => d.dic.remotes) hlinked).trans ?_
    rw [← hnow]
    rfl
  · exact Dev.leaves_linkOut hcount (List.mem_append_right _ (List.mem_singleton_self _))

/-! ### Slots after a swap -/

/-- R460: the live values go to the other slot, with the next sequence. -/
def Dev.slotSwapped (d : Dev) : Dev :=
  ({ d with
    nvm := { d.nvm with live := storeKeep inSetSlot d.obj, base := d.nvm.live, liveSet := d.swap.doneSet, liveSlot := 1 - d.nvm.liveSlot,
                        liveSeq := u32 (d.nvm.baseSeq + 1), baseSeq := d.nvm.liveSeq, level := false, slotDone := 0, bootCopy := false }
    seq := { d.seq with slotsDue := false } } : Dev).bump 0x310004

/-- R460: the slot that the live values leave is brought level with it. -/
def Dev.slotLevelled (d : Dev) : Dev :=
  ({ d with nvm := { d.nvm with
    base := d.nvm.live, level := true, slotDone := 0, bootCopy := false, baseSeq := u32 (d.nvm.liveSeq + 1) } } : Dev).bump 0x310004

theorem Dev.slotSwapped_effect (d : Dev) : Effect [.nvm, .seq] (among [0x310004]) (fun _ => False) d d.slotSwapped :=
  ((Effect.of_blank rfl rfl rfl : Effect _ _ _ d { d with
    nvm := { d.nvm with live := storeKeep inSetSlot d.obj, base := d.nvm.live, liveSet := d.swap.doneSet, liveSlot := 1 - d.nvm.liveSlot,
                        liveSeq := u32 (d.nvm.baseSeq + 1), baseSeq := d.nvm.liveSeq, level := false, slotDone := 0, bootCopy := false }
    seq := { d.seq with slotsDue := false } })).bump (by rfl)

theorem Dev.slotLevelled_effect (d : Dev) : Effect [.nvm] (among [0x310004]) (fun _ => False) d d.slotLevelled :=
  ((Effect.refl _ _ _ d).only (d.withNvm_effect _) fun _ h => h).bump (by rfl)

theorem Dev.slotLive_due {d : Dev} (hdue : d.seq.slotsDue = true) (hdone : d.nvm.slotDone = 0)
    (hfits : slotBytes (storeKeep inSetSlot d.obj) d.nvm.base ≤ slotShare) :
    d.slotLive = (d.slotSwapped, slotShare - slotBytes (storeKeep inSetSlot d.obj) d.nvm.base) := by
  rw [Dev.slotLive]
  simp only [hdue, hdone, Nat.sub_zero, Bool.not_true, Bool.false_eq_true, if_false, if_pos hfits]
  rfl

theorem Dev.slotLevel_due {d : Dev} {budget : Nat} (hlevel : d.nvm.level = false) (hdue : d.seq.slotsDue = false) (hdone : d.nvm.slotDone = 0)
    (hboot : d.nvm.bootCopy = false) (hfits : slotBytes d.nvm.live d.nvm.base ≤ budget) : d.slotLevel budget = d.slotLevelled := by
  rw [Dev.slotLevel]
  simp only [hlevel, hdue, hdone, hboot, Nat.sub_zero, Bool.or_false, Bool.false_eq_true, if_false, if_pos hfits]
  rfl

/-- R460: where both slots fit in the share of one Phase D, they are written in it. -/
theorem slotsEff_due {d : Dev} (hdue : d.seq.slotsDue = true) (hdone : d.nvm.slotDone = 0) (hcal : d.swap.calPending = [])
    (hfits : slotBytes (storeKeep inSetSlot d.obj) d.nvm.base + slotBytes (storeKeep inSetSlot d.obj) d.nvm.live ≤ slotShare) :
    slotsEff d = d.slotSwapped.slotLevelled := by
  rw [slotsEff, Dev.slotLive_due hdue hdone (by omega)]
  dsimp only
  rw [Dev.slotLevel_due (d := d.slotSwapped) rfl rfl rfl rfl (by
    refine Nat.le_sub_of_add_le (Nat.le_trans (Nat.le_of_eq ?_) hfits)
    exact Nat.add_comm _ _)]
  exact if_pos (by
    have hcal' : d.slotSwapped.slotLevelled.swap.calPending = [] := hcal
    simp [hcal'])

theorem journalGroupCommitSlots_holds : Rules.journalGroupCommitSlots.Holds := by
  refine Rule.holds_logic _ (fun t _ => t) (fun _ _ d => groupEff d) (by rintro n c s rfl -; rfl) (fun _ _ h => h.1) ?_
  rintro t s hp
  dsimp only at hp
  obtain ⟨-, hintake, hstore, hrecords, hcal, hdue, hdone, hcounter, hannounced, hbuffer, hlost, hclear, hlate, hfree, hopen, hreserved,
    hheld, hremotes, -, hfits⟩ := hp
  obtain ⟨y, hy⟩ : ∃ y, y = { (s.cleared t) with seq := { s.dev.seq with journalDue := false } } := ⟨_, rfl⟩
  obtain ⟨z, hz⟩ : ∃ z, z = y.recorderDone := ⟨_, rfl⟩
  have hobj : z.obj = s.dev.obj := by
    rw [hz, hy]
    rfl
  have hnvm : z.nvm = s.dev.nvm := by
    rw [hz, hy]
    rfl
  have hswap : z.swap = s.dev.swap := by
    rw [hz, hy]
    rfl
  have hslots : slotsEff z = z.slotSwapped.slotLevelled :=
    slotsEff_due (by rw [hz, hy]; exact hdue) (by rw [hnvm]; exact hdone) (by rw [hswap]; exact hcal) (by rw [hobj, hnvm]; exact hfits)
  have heff : groupEff (s.cleared t) = z.slotSwapped.slotLevelled := by
    rw [groupEff_slots ((groupCommitEff_none (d := s.cleared t) hlate hfree hopen hreserved hheld hremotes).trans hy.symm)
      (by rw [hy]; exact hintake) (by rw [hy]; exact hstore) (by rw [hy]; exact hrecords) (by rw [hy]; exact hcounter)
      (by rw [hy]; exact hbuffer) (by rw [hy]; exact hlost) (by rw [hy]; exact hclear), ← hz, hslots]
    exact Dev.report_idle (by
      change z.swap.announced = none
      rw [hswap]
      exact hannounced)
  rw [heff]
  have hdone' : Only [.seq, .nvm] (s.cleared t) z := by
    rw [hz, hy]
    exact ((Dev.withSeq_effect _ _).mono (by decide)).only (Dev.recorderDone_effect _) (by decide)
  refine Effect.rule (((Effect.refl _ _ _ _).only hdone' (by decide)).trans (((Dev.slotSwapped_effect z).mono (by decide) (fun _ h => h)
    fun _ h => h).trans ((Dev.slotLevelled_effect _).mono (by decide) (fun _ h => h) fun _ h => h))) (fun _ h => h.elim)
    ⟨?_, ?_, ?_, ?_, ?_, ?_, ?_, ?_⟩
  · rfl
  · exact congrArg (storeKeep inSetSlot) hobj
  · rfl
  · exact congrArg Swap.doneSet hswap
  · exact congrArg (fun n : Nvm => 1 - n.liveSlot) hnvm
  · exact congrArg (fun n : Nvm => (n.baseSeq + 1) % 2 ^ 32) hnvm
  · rfl
  · have hswapped : z.slotSwapped.int 0x310004 = (z.int 0x310004 + 1) % 2 ^ 32 := Dev.int_put_same _ _ _
    have hlevelled : z.slotSwapped.slotLevelled.int 0x310004 = (z.slotSwapped.int 0x310004 + 1) % 2 ^ 32 := Dev.int_put_same _ _ _
    refine hlevelled.trans ?_
    rw [hswapped, Dev.int, hobj]
    rfl

/-! ### Checkpoints -/

theorem journalCheckpoint_holds : Rules.journalCheckpoint.Holds := by
  refine Rule.holds_logic _ (fun t _ => t) (fun _ _ d => checkpointEff d) (by rintro n c s rfl -; rfl) (fun _ _ h => h.1) ?_
  rintro t s ⟨-, hmoved⟩
  have heff : checkpointEff (s.cleared t) = _ := if_pos (by simp [hmoved])
  rw [heff]
  exact Only.rule (Effect.of_blank rfl rfl rfl) ⟨rfl, rfl, rfl, rfl, rfl, rfl, rfl⟩

theorem journalCheckpointNone_holds : Rules.journalCheckpointNone.Holds := by
  refine Rule.holds_logic _ (fun t _ => t) (fun _ _ d => checkpointEff d) (by rintro n c s rfl -; rfl) (fun _ _ h => h.1) ?_
  rintro t s hp
  dsimp only at hp
  obtain ⟨-, hstays, hearly⟩ := hp
  have heff : checkpointEff (s.cleared t) = s.cleared t := if_neg (by simpa [hstays] using hearly)
  rw [heff]
  exact Only.rule (Effect.refl _ _ _ _) rfl

/-! ### The standby's mirror -/

theorem ahead_self (n : Nat) (h : n < 2 ^ 32) : ahead n n = false := by
  simp only [ahead]
  rw [Nat.mod_eq_of_lt h, Nat.add_sub_cancel_left, Nat.mod_self]
  rfl

theorem ahead_succ (n : Nat) (h : n + 1 < 2 ^ 32) : ahead (n + 1) n = true := by
  have hstep : (n + 1 + 2 ^ 32 - n % 2 ^ 32) % 2 ^ 32 = 1 := by omega
  simp only [ahead, hstep]
  rfl

theorem Dev.releaseMirrored_one {d : Dev} {w : Ack} {b : Nat} {p : Nat → Bool} (hheld : d.jrn.held = [w]) (hmirror : w.mirror = some b)
    (hp : p b = true) (hremotes : d.dic.remotes = []) :
    d.releaseMirrored p = (({ d with jrn := { d.jrn with held := [] } } : Dev).releaseAcks [w]).sendRemotes := by
  have hdic : { d.dic with remotes := [] } = d.dic := by
    rw [← hremotes]
  rw [Dev.releaseMirrored]
  simp only [hheld, hremotes, hmirror, List.filter_cons, hp, if_true, List.filter_nil, Bool.not_true, Bool.false_eq_true, if_false,
    List.map_nil, hdic]

theorem Dev.releaseMirrored_waits {d : Dev} {w : Ack} {b : Nat} {p : Nat → Bool} (hheld : d.jrn.held = [w]) (hmirror : w.mirror = some b)
    (hp : p b = false) (hremotes : d.dic.remotes = []) : d.releaseMirrored p = d := by
  have hdic : { d.dic with remotes := [] } = d.dic := by
    rw [← hremotes]
  have hjrn : { d.jrn with held := [w] } = d.jrn := by
    rw [← hheld]
  rw [Dev.releaseMirrored]
  simp only [hheld, hremotes, hmirror, List.filter_cons, hp, if_true, List.filter_nil, Bool.not_false, Bool.false_eq_true, if_false,
    List.map_nil, hdic, hjrn]
  exact Dev.sendRemotes_none hremotes

theorem mirrorAcknowledged_holds : Rules.mirrorAcknowledged.Holds := by
  refine Rule.holds_logic _ (fun a _ => a.2.2) (fun a _ d => mirrorAcknowledgedEff d a.1) (by rintro n c s rfl -; rfl) (fun _ _ h => h.1) ?_
  rintro ⟨b, w, t⟩ s hp
  dsimp only at hp
  obtain ⟨-, hb, hheld, hmirror, hacc, hok, hremotes⟩ := hp
  have heff : mirrorAcknowledgedEff (s.cleared t) b =
      ({ (s.cleared t) with jrn := { s.dev.jrn with held := [] } } : Dev).hostConfirmed w.seq := by
    rw [mirrorAcknowledgedEff, Dev.releaseMirrored_one (d := s.cleared t) hheld hmirror (by rw [ahead_self b hb]; rfl) hremotes,
      Dev.releaseAcks_host hacc hok]
    exact Dev.sendRemotes_none hremotes
  rw [heff]
  refine Effect.rule (((Effect.refl _ _ _ _).only (Dev.withJrn_effect _ _) (by decide)).trans
    ((Dev.hostConfirmed_effect _ _).mono (by decide) (fun _ h => h) fun _ h => h)) (fun _ h => h.elim) ⟨rfl, rfl, rfl, ?_⟩
  exact storeGet_set_same _ _ _

theorem mirrorAcknowledgedEarlier_holds : Rules.mirrorAcknowledgedEarlier.Holds := by
  refine Rule.holds_logic _ (fun a _ => a.2.2) (fun a _ d => mirrorAcknowledgedEff d a.1) (by rintro n c s rfl -; rfl) (fun _ _ h => h.1) ?_
  rintro ⟨b, w, t⟩ s hp
  dsimp only at hp
  obtain ⟨-, hb, hheld, hmirror, hremotes⟩ := hp
  have heff : mirrorAcknowledgedEff (s.cleared t) b = s.cleared t :=
    Dev.releaseMirrored_waits (d := s.cleared t) hheld hmirror (by rw [ahead_succ b hb]; rfl) hremotes
  rw [heff]
  exact Only.rule (Effect.refl _ _ _ _) rfl

/-! ### Client slots -/

/-- R405: a client's slot is free, and its sequence is forgotten. -/
def Dev.clientFreed (d : Dev) (n : Fin 8) : Dev :=
  { d with jrn := { d.jrn with clients := d.jrn.clients.set n 0, seqs := d.jrn.seqs.filter fun e => e.1.1 ≠ 0x18 + n.val } }

theorem clientSlotRelease_holds : Rules.clientSlotRelease.Holds := by
  refine Rule.holds_logicNow _ (fun n _ d => d.writeObject .host 0x320209 (.num n.val) false none (clientReleaseAct (n.val : Int).toNat))
    (by rintro n c s rfl -; rfl) (fun _ _ h => h.1) ?_
  rintro n s hmay
  have hact : ∀ d : Dev, clientReleaseAct (n.val : Int).toNat d = d.clientFreed n := fun d => dif_pos n.isLt
  rw [Dev.writeObject_host_action hmay rfl rfl rfl rfl (hostPayload_write (by decide) _) (k := 3) rfl, hact]
  obtain ⟨-, hwaits, -, -⟩ : Rules.HostTook s ((((s.cleared s.dev.time.now).hostTakes 3 (.write 0x320209 (.num n.val))).clientFreed n).hostAnswers
    (s.dev.nat 0x110003) .accepted) 3 (.write 0x320209 (.num n.val)) := hostTook_of_hostAnswers (t := s.dev.time.now) (by decide) rfl rfl
  refine Effect.host_rule (t := s.dev.time.now) (k := 3) (p := .write 0x320209 (.num n.val))
    (((Effect.refl _ _ _ _).only (Dev.withJrn_effect _ _) (by decide))) (by decide) rfl ⟨?_, fun k hk => ?_, ?_, hwaits⟩
  · exact Vector.getElem_set_self _
  · exact Vector.getElem_set_ne n.isLt k.isLt fun h => hk (Fin.ext h.symm)
  · exact List.any_eq_false.mpr fun e he => by simpa using (List.mem_filter.mp he).2

end Sys2Proof.Machine

namespace Sys2Proof

/-- Settles O50, by a lemma for each rule. -/
theorem journalCommits : Obligations.JournalCommits :=
  ⟨Machine.journalGroupCommit_holds, Machine.journalGroupCommitResponse_holds, Machine.journalGroupCommitSlots_holds,
    Machine.journalGroupCommitNone_holds, Machine.journalGroupCommitHeld_holds,
    Machine.journalGroupCommitForward_holds, Machine.journalCheckpoint_holds, Machine.journalCheckpointNone_holds,
    Machine.mirrorAcknowledged_holds, Machine.mirrorAcknowledgedEarlier_holds, Machine.clientSlotRelease_holds⟩

end Sys2Proof
end
